-- ==== Sys2Proof/Word.lean ====
section
/-!
DEFINITION. Sys2Proof/Word.lean: the byte, the instruction word of a core and the plainest arithmetic on naturals
read as little-endian fields (R5).
-/

namespace Sys2Proof

/-- A byte of any memory of the device. -/
abbrev Byte := BitVec 8

/-- A 128-bit instruction of a core's stream (R208). -/
abbrev Word128 := BitVec 128

/-- Bits `hi` down to `lo` of a natural number, written high to low as the manual writes bit ranges. -/
def bits (v hi lo : Nat) : Nat := v / 2 ^ lo % 2 ^ (hi + 1 - lo)

/-- Bit `i` of a natural number. -/
def bit (v i : Nat) : Bool := v / 2 ^ i % 2 == 1

/-- Ceiling division; 0 when the divisor is 0. -/
def ceilDiv (a b : Nat) : Nat := (a + b - 1) / b

/-- A Boolean as the bit a register field shows. -/
def b2n (b : Bool) : Nat := if b then 1 else 0

/-- `v` read as a two's complement number of `w` bits. -/
def toSigned (w v : Nat) : Int :=
  if v % 2 ^ w < 2 ^ (w - 1) then (v % 2 ^ w : Nat) else ((v % 2 ^ w : Nat) : Int) - (2 ^ w : Nat)

/-- The low `w` bits of an integer's two's complement form. -/
def ofSigned (w : Nat) (i : Int) : Nat := (i % (2 ^ w : Nat)).toNat

/-- A counter that saturates at `top`, as the RC counters of the register tables do. -/
def satAdd (top a b : Nat) : Nat := min top (a + b)

end Sys2Proof
end

