-- ==== Sys2Proof/Syntax.lean ====
section
/-!
DEFINITION. Sys2Proof/Syntax.lean: the commands and events of spec/opcode_table.json, one constructor per row, with the
operands the environment or the sender supplies. A row of a core's microprogram names the core `c`; a row of the mailbox
command set names the function `f` and the slot `n`; what a DMA read returns is an operand (`none`: the access failed, R417).
-/

namespace Sys2Proof

/-- A PCIe function: port 0 (A) or 1 (B); idx 0 is the physical function, 1 to 16 the virtual function of index idx - 1
(R408, and FUNC of Table 19.8). -/
structure Fn where
  port : Nat
  idx : Nat
deriving DecidableEq, Repr, Inhabited

/-- What the stack and the parity logic report of one HBM access: failed tries (parity), and the on-die and cache ECC
outcomes: 0 none, 1 corrected, 2 uncorrectable (R254, R268 to R270). -/
structure MemEvent where
  parityFails : Nat := 0
  onDie : Nat := 0
  cacheEcc : Nat := 0
deriving DecidableEq, Repr, Inhabited

/-- The reading of an address in HBM: channel group and byte offset in it (R17). -/
structure PhysAddr where
  group : Nat
  off : Nat
deriving DecidableEq, Repr, Inhabited

/-- What training learns of the peer (R275). -/
structure PeerInfo where
  serial : BitVec 128
  rack : Nat
  tray : Nat
  slot : Nat
  set : Bool
  port : Nat
  laneRev : Bool
  polInv : Nat
  version : Nat
  frost : Bool
deriving DecidableEq, Repr, Inhabited

/-- A received heartbeat's payload (Table 13.5) and the module's own arrival stamp. -/
structure Heartbeat where
  tSend : Nat
  tPrevTx : Nat
  tPrevRx : Nat
  state : Nat
  hops : Nat
  arrival : Nat
deriving DecidableEq, Repr, Inhabited

/-- A collective message's header (Table 14.5). -/
structure CollHeader where
  group : Nat
  kind : Nat
  stage : Nat
  result : Bool
  pseq : Nat
  chunk : Nat
  srcMember : Nat
  first : Nat
  elems : Nat
deriving DecidableEq, Repr, Inhabited

/-- A load message's header (Table 15.2). -/
structure LoadHeader where
  loadId : Nat
  kind : Nat
  chunk : Nat
  crc : Nat
  first : Nat
  bytes : Nat
deriving DecidableEq, Repr, Inhabited

/-- One millisecond's sensor readings (R510, R508): millivolts, watts, tenths of a degree. -/
structure Sensors where
  vinMv : Nat
  pinW : Nat
  coolantIn : Int
  coolantOut : Int
  fields : List Int
  stackTemps : List Int
  ioDie : Int
deriving DecidableEq, Repr, Inhabited

/-- A request for a line of the shelf cache (R253, R254): a read of `len` bytes, or a write of bytes each with its element mask (R125). -/
inductive CacheReq where
  | read (len : Nat)
  | write (data : List (Byte × Byte))
deriving DecidableEq, Repr, Inhabited

/-- The rows of spec/opcode_table.json. -/
inductive Instr where
  -- matrix unit
  | mmaZero (c : Nat)
  | mmaInitC (c : Nat)
  | mmaContinue (c : Nat)
  | mmaDiagZero (c : Nat)
  | mmaDiagContinue (c : Nat)
  | tileFinish (c t : Nat)
  | finishedTilePush (c t : Nat)
  | multicastDelivery (c row0 col0 rows cols srcBase dstBase len : Nat)
  | heldWriteRelease (c : Nat)
  | witnessReference (c : Nat)
  -- vector engine
  | chain (c : Nat)
  | chainEf (c : Nat)
  | chainFtq (c : Nat)
  -- tile moves
  | moveIn (c : Nat)
  | moveOut (c : Nat)
  | moveWindow (c : Nat)
  | moveMesh (c : Nat)
  | moveSleet (c : Nat)
  | moveFirn (c : Nat)
  | kvPageWrite (p addr : Nat) (data : List Byte)
  -- sequencer and claims
  | beatWait (c : Nat)
  | signalWait (c : Nat)
  | flagSet (c : Nat)
  | flagClear (c : Nat)
  | freezePoint (c : Nat)
  | claim (c : Nat)
  | claimRequest (p counter : Nat)
  | claimDone (c : Nat)
  | claimDoneAccept (p counter : Nat)
  | claimLeaseExpiry (p counter idx : Nat)
  | selectPoint (c : Nat)
  | bucketSelection (p : Nat)
  -- collective hand-offs
  | allReduce (c : Nat)
  | reduceScatter (c : Nat)
  | allGather (c : Nat)
  | p2pSend (c : Nat)
  | p2pRecv (c : Nat)
  -- scalar control
  | setPass (c : Nat)
  | loop (c : Nat)
  | variant (c : Nat)
  | nop (c : Nat)
  | halt (c : Nat)
  -- beats
  | messageArrival (n : Nat)
  | beatStall (c : Nat)
  | beatCommit (p : Nat)
  | runOutputCopy (p : Nat) (ok : Bool)
  | widenAllocate (p pass : Nat) (req : List Byte)
  -- shelf
  | cacheAccess (p cls : Nat) (a : PhysAddr) (req : CacheReq) (ev : MemEvent)
  | reducerOp (p op wide a b addr : Nat)
  | glacierAdd (shelf entry elem x beat : Nat)
  | orderedSumContrib (shelf entry elem ordinal x beat : Nat)
  | shelfThermalEvaluation (shelf : Nat) (temps : List Int)
  -- links and time base
  | linkTrained (port : Nat) (peer : PeerInfo)
  | flitTransmit (port : Nat)
  | flitReceive (port : Nat) (flit : List Byte) (corrected : Nat) (fecOk : Bool)
  | nakReplay (port ack : Nat)
  | replayTimeout (port : Nat)
  | laneRelock (port : Nat)
  | heartbeatSend (port : Nat)
  | heartbeatReceive (port : Nat) (hb : Heartbeat)
  | peerLost (port : Nat)
  | portRetrain (port : Nat) (peer : Option PeerInfo)
  | beatAckDeadline (port vc : Nat)
  | departureNotice (port : Nat)
  | dtbParentTimeout
  | dtbBroadcast
  | ppsEdge
  -- collective engine
  | instanceStart (p group : Nat)
  | collectiveMessage (port vc : Nat) (h : CollHeader) (beat : Nat) (payload : List Byte)
  | resultDelivery (p group n : Nat)
  | orderSkewTimeout (ch : Nat)
  -- weights
  | hostChunkRead (p port chunk : Nat) (data : Option (List Byte)) (crc : Nat)
  | loadDataMessage (p : Nat) (h : LoadHeader) (data : List Byte)
  | loadAbortMessage (p loadId : Nat)
  | loadEndMessage (p loadId : Nat)
  | loadCompanionTimeout (p : Nat)
  | loadHoldTimeout (p : Nat)
  -- windows, freeze, codec
  | cyclicWindowBoundary
  | partitionFreeze (p : Nat)
  | codecPicture (pair session : Nat) (cause : Nat) (key nonref : Bool) (frame consumed : Nat)
  | codecBlockBudget (pair : Nat) (damaged : Nat)
  | codecWatchdog (pair : Nat) (damaged : Nat)
  | encodeRingWrite (pair : Nat)
  | pictureOutput (pair : Nat)
  | codecResume (pair session : Nat)
  | codecPairFault (pair : Nat)
  -- mailboxes and registers
  | mailboxPost (f : Fn) (n : Nat) (w0 w1 w2 w3 : Nat) (payload : List Byte)
  | mailboxScan
  | msixUnmask (f : Fn) (v : Nat)
  | registerWrite (f : Fn) (bar off value : Nat)
  | registerReadClear (f : Fn) (bar off : Nat)
  -- commands
  | nopCommand (f : Fn) (n : Nat)
  | permitSet (f : Fn) (n : Nat)
  | commit (f : Fn) (n : Nat)
  | setTime (f : Fn) (n : Nat)
  | deviceReset (f : Fn) (n : Nat)
  | powerState (f : Fn) (n : Nat)
  | regrade (f : Fn) (n : Nat)
  | regradeTimer
  | partCreate (f : Fn) (n : Nat)
  | partChange (f : Fn) (n : Nat)
  | partDestroy (f : Fn) (n : Nat)
  | admitImage (f : Fn) (n : Nat) (image : Option (List Byte))
  | bind (f : Fn) (n : Nat)
  | run (f : Fn) (n : Nat) (inputs : Option (List (List Byte)))
  | retire (f : Fn) (n : Nat)
  | jobStatus (f : Fn) (n : Nat)
  | memCopyToDevice (f : Fn) (n : Nat) (data : Option (List Byte))
  | memCopyToHost (f : Fn) (n : Nat) (ok : Bool)
  | tableReload (f : Fn) (n : Nat) (data : Option (List Byte))
  | thaw (f : Fn) (n : Nat)
  | partReset (f : Fn) (n : Nat)
  | weightLoad (f : Fn) (n : Nat)
  | weightSwitch (f : Fn) (n : Nat) (list : Option (List Byte))
  | weightSwitchCancel (f : Fn) (n : Nat)
  | slotOpen (f : Fn) (n : Nat)
  | slotFork (f : Fn) (n : Nat)
  | slotClose (f : Fn) (n : Nat)
  | prefixPin (f : Fn) (n : Nat)
  | prefixRelease (f : Fn) (n : Nat)
  | slotQuery (f : Fn) (n : Nat)
  | codecOpen (f : Fn) (n : Nat)
  | codecSubmit (f : Fn) (n : Nat)
  | codecClose (f : Fn) (n : Nat)
  | codecRelease (f : Fn) (n : Nat)
  | journalRead (f : Fn) (n : Nat)
  | attest (f : Fn) (n : Nat)
  | fwWrite (f : Fn) (n : Nat) (first second : Option (List Byte))
  | fwActivate (f : Fn) (n : Nat)
  | fwAdvanceSvn (f : Fn) (n : Nat)
  | fwRevokeKey (f : Fn) (n : Nat)
  | debugChallenge (f : Fn) (n : Nat)
  | debugToken (f : Fn) (n : Nat)
  | debugExpiry
  | stop (f : Fn) (n : Nat)
  | freeze (f : Fn) (n : Nat)
  | faultQuery (f : Fn) (n : Nat)
  | leaseBreak (f : Fn) (n : Nat)
  -- sideband
  | mctpJournalRead (payload : List Byte)
  | mctpAttest (payload : List Byte)
  | sensorRead (payload : List Byte)
  | powerStateQuery
  | permafrostExit
  | permafrostEntry
  -- counters
  | pmcRead (f : Fn) (bar off : Nat)
  | pmcWrite (f : Fn) (bar off value : Nat)
  -- recovery
  | containedFault (p : Nat) (announced : Bool)
  | rollback (p fp : Nat)
  | serviceFwRestart
  | deviceFatalFault (cause : Nat)
  | fieldPllLockLoss (field : Nat)
  | hostLeaseExpiry (f : Fn)
  | lockWordTimeout (p n : Nat)
  | checkpointDue (p : Nat) (answers : List Nat)
  | buddyDrain (p : Nat)
  | journalSeal
  -- resets
  | coreReset (c : Nat)
  | functionReset (f : Fn)
  | perstBoth
  | pcieLinkDown (port : Nat)
  -- power and cooling
  | powerOn
  | shutdownCause (cause : Nat)
  | leakDetect
  | leakClear
  | powerCapMeasure (watts : Nat)
  | fieldThermalEvaluation (field : Nat) (temp : Int)
  | pcieLinkUp (port : Nat)
  | perstRelease
  | cblPresentChange (port : Nat) (high : Bool)
  | referenceClockStable
  | sensorUpdate (r : Sensors)
deriving DecidableEq, Repr

end Sys2Proof
end

