-- ==== Sys2Proof/Decode.lean ====
section
/-!
DEFINITION. Sys2Proof/Decode.lean: the command a word spells by the table's bits. No row of spec/opcode_table.json gives bits
(they are events and requests of a block), so no word spells a command. The 128-bit words of a core's own stream are state; they
are read by Machine/Ops.lean (`rowOf`) and by each row's meaning.
-/

namespace Sys2Proof

/-- The command a table word spells: none, since no row of the table has bits. -/
def decodeTableWord (_nbits _w : Nat) : Option Instr := none

end Sys2Proof
end

