-- ==== Sys2Proof/Config.lean ====
section
/-!
DEFINITION. Sys2Proof/Config.lean: what one implementation fixes, the status codes of R426, and the free values (opaque
constants without a body, log entry 4).
-/

namespace Sys2Proof.Config

/-! ## Sizes (R1, R17, R226, R252) -/

/-- 10,000 cores: 4 fields of 50 x 50. -/
def cores : Nat := 10000
/-- Bytes of one channel group, 12 GiB (R17). -/
def groupBytes : Nat := 0x300000000
/-- 64 KiB units of one channel group (R243). -/
def groupUnits : Nat := 196608
/-- Bytes of a tile store (R226). -/
def tsBytes : Nat := 0x100000
/-- Bytes of an operand buffer (R226). -/
def obBytes : Nat := 0x20000
/-- Bytes of a descriptor table (R69). -/
def descBytes : Nat := 8192
/-- Sets of a cache bank open to ordinary lines (R252). -/
def cacheSets : Nat := 3040
/-- The special-function table version whose results Table 7.1 gives (R152). -/
def sfVersion : Nat := 0x00010000

/-! ## Identification values (Table 0.1) -/

def vendorId : Nat := 0x1F3B
def deviceId : Nat := 0x0960
def vfDeviceId : Nat := 0x0961
def subsysVendorId : Nat := 0x1F3B
def subsysId : Nat := 0x0001
def classCode : Nat := 0x120000
def revisionId : Nat := 0x21

/-! ## Status codes (Table 18.8) -/

def stOk := 0x00
def stBadCommand := 0x01
def stNotPermitted := 0x02
def stAbortedReset := 0x04
def stBadLength := 0x05
def stBadField := 0x06
def stDeviceReset := 0x07
def stNoPartition := 0x08
def stDmaError := 0x0A
def stNeedsQuiesce := 0x21
def stBankActive := 0x24
def stBadCodebook := 0x26
def stSfTable := 0x27
def stOrderSkew := 0x2A
def stNotBound := 0x2B
def stWitnessFail := 0x31
def stIllegalInstr := 0x32
def stScheduleFault := 0x33
def stBeatStall := 0x34
def stBeatRange := 0x3A
def stShapeRange := 0x3B
def stNoBucket := 0x3C
def stContractVersion := 0x3D
def stQueueFull := 0x3E
def stClaimDecl := 0x3F
def stNoPages := 0x41
def stSlotState := 0x42
def stRefLimit := 0x43
def stKvRange := 0x44
def stNoHandle := 0x45
def stAccessRights := 0x46
def stMemUncorrectable := 0x47
def stHbmFenced := 0x48
def stThermalHalt := 0x49
def stNoCores := 0x50
def stNoTileStore := 0x51
def stNoSlots := 0x52
def stNoVc := 0x53
def stNoCodec := 0x54
def stNoWays := 0x55
def stNoMemory := 0x56
def stPartitionBusy := 0x57
def stPeerLost := 0x60
def stBeatAckLate := 0x61
def stDtbUnlocked := 0x62
def stLinkMiscabled := 0x63
def stLoadBusy := 0x68
def stLoadCheck := 0x69
def stLoadAborted := 0x6A
def stWsetState := 0x6B
def stFreezePassed := 0x70
def stNotFrozen := 0x71
def stFreezeArea := 0x72
def stNoImage := 0x73
def stCodecProfile := 0x78
def stCodecSize := 0x79
def stSessionState := 0x7A
def stSessionLimit := 0x7B
def stCodecFault := 0x7C
def stBadSignature := 0x80
def stRollback := 0x81
def stDebugLocked := 0x82
def stLeaseHeld := 0x88
def stFwRestart := 0x89
def stPowerState := 0x90

/-! ## Free values and implementation constants: no body, nothing can be proved of their values (log entries 4 and 5) -/

/-- Byte `a` of a memory whose contents the manual calls undefined or unspecified since event `k` (R368, R271). -/
opaque freeByte : Nat → Nat → Byte
/-- Element `i` of the vector registers, unspecified since event `k` (R368). -/
opaque freeElem : Nat → Nat → BitVec 32
/-- Pad bit of element `i` of the vector registers, unspecified since event `k` (R368). -/
opaque freePad : Nat → Nat → Bool
/-- A native special function by table version, at code, x, g, SF_PARAM, where the manual gives a bound and no value (R148, R149). -/
opaque sfResult : BitVec 32 → Nat → BitVec 32 → BitVec 32 → BitVec 32 → BitVec 32
/-- An element-wise EL48 form by table version, at code and x (R162: the EL48 tables are not given). -/
opaque el48Result : BitVec 32 → Nat → BitVec 32 → BitVec 32
/-- The conversion flags an element-wise EL48 form raises by table version, at code and x: OVERFLOW, UNDERFLOW (it flushed to +0), INVALID
(R162). -/
opaque el48Flags : BitVec 32 → Nat → BitVec 32 → BitVec 3
/-- Sample (plane, y, x) of the picture at a place in coding order, of a session descriptor and the bytes parsed up to it or coded so
far, with its CAUSE (R377, R380, R391; Table 17.1's standards are not part of the manual). -/
opaque decodedSample : List Byte → List Byte → Nat → Nat → Nat → Nat → Nat → Nat
/-- That sample with the film grain of AV1 applied to the value it has without (R396, step 1). -/
opaque grained : List Byte → List Byte → Nat → Nat → Nat → Nat → Nat → Nat
/-- Whether the 8 x 8 luma block in row v, column u of a picture with a CAUSE was not decoded or was abandoned (R391). -/
opaque blockLost : List Byte → List Byte → Nat → Nat → Nat → Nat → Bool
/-- Where a picture stands in output order, by the order counts of the stream (R391). -/
opaque outputOrder : List Byte → List Byte → Nat → Nat
/-- The place in coding order of a picture's AV1 LAST_FRAME (R391). -/
opaque lastFrame : List Byte → List Byte → Nat → Nat
/-- Whether a picture references the picture at another place in coding order (R391). -/
opaque refersTo : List Byte → List Byte → Nat → Nat → Bool
/-- Cropped area of a decoded picture: left, top, width, height (R396, step 1). -/
opaque cropped : List Byte → List Byte → Nat → Nat × Nat × Nat × Nat
/-- The bitstream of a picture coded from a session descriptor, the quantisers of its 8 x 8 blocks by rows, the CTU columns coded intra
(first, past the last), the places of its references, the pictures coded so far, whether it is a key picture, and its CAUSE
(R397 to R399; the standards of Table 17.1 are not part of the manual). -/
opaque codedPicture : List Byte → List (List Nat) → Nat × Nat → List Nat → List Byte → Bool → Nat → List Byte
/-- The quantiser that rate control gives a picture, from the descriptor and the bytes of the pictures already coded (R397, RC 1 and 2). -/
opaque rateQuantiser : List Byte → List Nat → Nat
/-- The mark that the picture at a place in coding order leaves to the picture at another, by the standard's reference management: 0, 1
or 2 (R390). -/
opaque refMark : List Byte → List Byte → Nat → Nat → Nat
/-- A signature by the device key over a digest, the k-th one made (R430, R440). -/
opaque signature : Nat → BitVec 384 → BitVec 768
/-- Whether a signature verifies against the key fused in a slot: kind 0 firmware keys, kind 1 the debug key (R429, R447). -/
opaque verifies : Nat → Nat → BitVec 384 → BitVec 768 → Bool
/-- The k-th random challenge (R447). -/
opaque challenge : Nat → BitVec 256
/-- What manufacture chose for the serial number: positions 1, 2 and 7 to 15 their characters, 3 the year, 5 the week (R4). -/
opaque serialChoice : Nat → Nat
/-- The identity certificate, DER bytes (R440). -/
opaque certificate : List Byte
/-- Steps of 2.5 mV above its voltage at which field f's worst slack first reaches 30 ps, of sweep k at the given clock (R483). -/
opaque requiredSteps : Nat → Nat → Nat → Nat
/-- The payload of the k-th announcement of a fault on VC 9, whose layout is not given (R466). -/
opaque faultPayload : Nat → List Byte
/-- The protocol version that the module names in training (R275). -/
opaque protocolVersion : Nat
/-- The equaliser settings that the k-th search finds at a port (R277). -/
opaque equaliser : Nat → Nat → Nat
/-- The collective channel index that the peer of port p names for this module's channel v, as told over VC 9 at a bind (R304). -/
opaque peerChannel : Nat → Nat → Nat → Nat
/-- Trays in the module's rack and racks in the system, which the cabling rule uses and no register holds (R274). -/
opaque trays : Nat
opaque racks : Nat
/-- The field regrade's monitors and every other physical reading that no command supplies (R481). -/
opaque freeNat : Nat → Nat
/-- What a reference edge brings to the local memories: nothing, or one wrong bit, by core, space (true: operand buffer) and 64-bit word
(R227). -/
opaque upset : Nat → Option (Nat × Bool × Nat)
/-- Pseudo-channels of a shelf that fail training at a reset (R269). -/
opaque trainingFails : Nat → Nat → Nat

end Sys2Proof.Config
end

