-- ==== Sys2Proof/Machine/Cells.lean ====
section
/-!
DEFINITION. Sys2Proof/Machine/Cells.lean: sparse tables in one canonical form (keys strictly rising, no entry equal to what an
unlisted key reads as), and byte memories over them, little-endian (R5).
-/

namespace Sys2Proof.Machine

/-- The value of key `k`; a key not listed reads as `d k`. -/
def Cells.get {α : Type} (d : Nat → α) : List (Nat × α) → Nat → α
  | [], k => d k
  | e :: r, k => if k = e.1 then e.2 else Cells.get d r k

/-- Puts an entry in its place among rising keys, replacing the one with its key. -/
def Cells.insert {α : Type} : List (Nat × α) → Nat → α → List (Nat × α)
  | [], k, v => [(k, v)]
  | e :: r, k, v => if k = e.1 then (k, v) :: r else if k < e.1 then (k, v) :: e :: r else e :: Cells.insert r k v

/-- Drops the entry of a key. -/
def Cells.erase {α : Type} (m : List (Nat × α)) (k : Nat) : List (Nat × α) := m.filter (fun e => e.1 != k)

/-- Sets key `k` to `v`, keeping the canonical form. -/
def Cells.put {α : Type} [DecidableEq α] (d : Nat → α) (m : List (Nat × α)) (k : Nat) (v : α) : List (Nat × α) :=
  if v = d k then Cells.erase m k else Cells.insert m k v

/-- The canonical form. -/
def Cells.wf {α : Type} [DecidableEq α] (d : Nat → α) : List (Nat × α) → Bool
  | [] => true
  | e :: r => decide (e.2 ≠ d e.1) && r.all (fun f => decide (e.1 < f.1)) && Cells.wf d r

/-- A byte memory. A range in `lost` (first, last + 1, event) holds contents the manual calls undefined since that event
(log entry 4); outside every such range an unlisted byte reads 0 (R228; log entry 3 for HBM). -/
structure Mem where
  lost : List (Nat × Nat × Nat) := []
  cells : List Host.Cell := []
deriving DecidableEq, Repr, Inhabited

/-- What an unlisted byte reads as. -/
def Mem.dflt (m : Mem) (a : Nat) : Byte :=
  match m.lost.find? (fun r => r.1 ≤ a && a < r.2.1) with
  | none => 0
  | some r => Config.freeByte r.2.2 a

/-- A memory that holds the given bytes from address 0 and reads 0 past them. -/
def Mem.ofBytes (b : List Byte) : Mem := { cells := (b.zipIdx.filter (fun e => e.1 != 0)).map (fun e => (e.2, e.1)) }

/-- One byte. -/
def Mem.read (m : Mem) (a : Nat) : Byte := Cells.get m.dflt m.cells a

/-- Writes one byte. -/
def Mem.write (m : Mem) (a : Nat) (b : Byte) : Mem := { m with cells := Cells.put m.dflt m.cells a b }

/-- The canonical form of a memory. -/
def Mem.wf (m : Mem) : Bool := Cells.wf m.dflt m.cells

/-- `n` bytes from address `a`. -/
def Mem.readN (m : Mem) (a : Nat) : Nat → List Byte
  | 0 => []
  | n + 1 => m.read a :: m.readN (a + 1) n

/-- Writes bytes from address `a` on. -/
def Mem.writeN (m : Mem) (a : Nat) : List Byte → Mem
  | [] => m
  | b :: r => (m.write a b).writeN (a + 1) r

/-- Drops every listed byte from `lo` to below `hi` and marks the range's contents undefined since event `k`. -/
def Mem.lose (m : Mem) (lo hi k : Nat) : Mem :=
  { lost := (lo, hi, k) :: m.lost,
    cells := m.cells.filter (fun e => e.1 < lo || hi ≤ e.1) }

/-- Little-endian value of bytes (R5). -/
def leNat : List Byte → Nat
  | [] => 0
  | b :: r => b.toNat + 256 * leNat r

/-- The `n` low bytes of a value, little-endian. -/
def leBytes (n v : Nat) : List Byte :=
  match n with
  | 0 => []
  | n + 1 => BitVec.ofNat 8 v :: leBytes n (v / 256)

/-- A little-endian value of `n` bytes at `a`. -/
def Mem.le (m : Mem) (a n : Nat) : Nat := leNat (m.readN a n)

/-- Stores the low `n` bytes of `v` at `a`. -/
def Mem.putLe (m : Mem) (a n v : Nat) : Mem := m.writeN a (leBytes n v)

/-- Stores `v mod 2^w` in bits [lo + w - 1 : lo] of the bytes from `a`, leaving every other bit (R125). -/
def Mem.putBits (m : Mem) (a lo w v : Nat) : Mem :=
  let a0 := a + lo / 8
  let sh := lo % 8
  let n := (sh + w + 7) / 8
  let old := m.le a0 n
  m.putLe a0 n (old - bits old (sh + w - 1) sh * 2 ^ sh + v % 2 ^ w * 2 ^ sh)

/-- Bits [lo + w - 1 : lo] of the bytes from `a`. -/
def Mem.getBits (m : Mem) (a lo w : Nat) : Nat :=
  let a0 := a + lo / 8
  let sh := lo % 8
  bits (m.le a0 ((sh + w + 7) / 8)) (sh + w - 1) sh

/-- Bytes `a` to `a + n - 1` of a record held as a list; bytes past its end read 0. -/
def sub (l : List Byte) (a n : Nat) : List Byte :=
  let r := (l.drop a).take n
  r ++ List.replicate (n - r.length) 0

/-- A little-endian field of `n` bytes at offset `a` of a record. -/
def fld (l : List Byte) (a n : Nat) : Nat := leNat (sub l a n)

/-- Bits [hi:lo] of the 32-bit word at offset `a` of a record. -/
def fbits (l : List Byte) (a hi lo : Nat) : Nat := bits (fld l a ((hi / 8) + 1)) hi lo

/-- Whether bytes `a` to `a + n - 1` of a record are all 0. -/
def isZero (l : List Byte) (a n : Nat) : Bool := fld l a n == 0

/-- Sets bit `i` of a natural number. -/
def setBit (v i : Nat) (b : Bool) : Nat := v - (b2n (bit v i)) * 2 ^ i + (b2n b) * 2 ^ i

end Sys2Proof.Machine
end

