-- ==== Sys2Proof/Machine/Digest.lean ====
section
/-!
DEFINITION. Sys2Proof/Machine/Digest.lean: SHA-384 (R429, R441 to R444) and CRC-32C (R278, R339).
-/

namespace Sys2Proof.Machine

/-! ## SHA-384 (R429, R441, R443, R444), whose standard is FIPS 180-4 (log entry 110) -/

/-- The word of the hash. -/
abbrev HashWord := BitVec 64

/-- The largest r below 2^n with r^k at most `v`, bit by bit from the top. -/
def rootFloor (k v : Nat) : Nat → Nat → Nat
  | 0, r => r
  | n + 1, r => rootFloor k v n (if (r + 2 ^ n) ^ k ≤ v then r + 2 ^ n else r)

/-- The primes below 410, of which the standard counts 80. -/
def hashPrimes : List Nat :=
  (List.range 410).filter (fun q => decide (2 ≤ q) && (List.range 21).all (fun d => d < 2 || q ≤ d || q % d != 0))

/-- The first 64 bits behind the binary point of the k-th root of q, for q below 512. -/
def rootBits (k q : Nat) : HashWord := BitVec.ofNat 64 (rootFloor k (q * 2 ^ (64 * k)) 73 0)

/-- The eighty constants, from cube roots, and the words a hash starts from, from square roots. -/
def hashAdds : List HashWord := hashPrimes.map (rootBits 3)
def hashStart : List HashWord := ((hashPrimes.drop 8).take 8).map (rootBits 2)

/-- A word mixed with its own rotations: the exclusive OR of `base` and the rotations of `x` to the right by each of `by_`. -/
def rotMix (by_ : List Nat) (base x : HashWord) : HashWord := by_.foldl (fun y n => y ^^^ x.rotateRight n) base

/-- Extends the schedule, held newest word first, by `n` words. -/
def schedule : Nat → List HashWord → List HashWord
  | 0, ws => ws
  | n + 1, ws =>
    let ago := fun k => ws.getD (k - 1) 0
    schedule n ((rotMix [19, 61] (ago 2 >>> 6) (ago 2) + ago 7 + rotMix [1, 8] (ago 15 >>> 7) (ago 15) + ago 16) :: ws)

/-- One round over the eight working words, with the sum of its constant and its schedule word. -/
def hashRound : List HashWord → HashWord → List HashWord
  | [a, b, c, d, e, f, g, h], kw =>
    let up := h + kw + (g ^^^ (e &&& (f ^^^ g))) + rotMix [14, 18, 41] 0 e
    [up + rotMix [28, 34, 39] 0 a + ((a &&& (b ||| c)) ||| (b &&& c)), a, b, c, d + up, e, f, g]
  | other, _ => other

/-- One block of sixteen words into the eight words of the hash. -/
def hashBlock (hs ws : List HashWord) : List HashWord :=
  let out := (List.zipWith (· + ·) hashAdds (schedule 64 ws.reverse).reverse).foldl hashRound hs
  List.zipWith (· + ·) hs out

/-- A big-endian number. -/
def beNat (l : List Byte) : Nat := l.foldl (fun a b => a * 256 + b.toNat) 0

/-- `n` bytes of a number, big-endian. -/
def beBytes (n v : Nat) : List Byte := (leBytes n v).reverse

/-- Cuts a list into pieces of `k`, at most `n` of them. -/
def chunksOf {α : Type} (k : Nat) : Nat → List α → List (List α)
  | 0, _ => []
  | n + 1, l => if l.isEmpty then [] else l.take k :: chunksOf k n (l.drop k)

/-- SHA-384, as 48 bytes: the message, a one bit, zeros and its length in bits fill whole blocks of 128 bytes. -/
def sha384 (m : List Byte) : List Byte :=
  let whole := m ++ 0x80 :: List.replicate ((239 - m.length % 128) % 128) 0 ++ beBytes 16 (8 * m.length)
  let words := (chunksOf 8 (whole.length / 8) whole).map (fun b => BitVec.ofNat 64 (beNat b))
  let hs := (chunksOf 16 (words.length / 16) words).foldl hashBlock hashStart
  ((hs.take 6).map (fun w => beBytes 8 w.toNat)).flatten

/-- One byte into the reflected CRC-32C register. -/
def crcByte (c : Nat) (b : Byte) : Nat :=
  (List.range 8).foldl (fun c _ => if c % 2 = 1 then c / 2 ^^^ 0x82F63B78 else c / 2) (c ^^^ b.toNat)

/-- CRC-32C of bytes. -/
def crc32c (m : List Byte) : Nat := m.foldl crcByte 0xFFFFFFFF ^^^ 0xFFFFFFFF

end Sys2Proof.Machine
end

