-- ==== Sys2Proof/Machine/Num.lean ====
section
/-!
DEFINITION. Sys2Proof/Machine/Num.lean: exact binary numbers, values with specials, the floating-point and integer element
formats, and every conversion of chapter 02 (R32 to R56, R514).
-/

namespace Sys2Proof.Machine

/-- The exact number m × 2^e. -/
structure Dy where
  m : Int
  e : Int
deriving DecidableEq, Repr, Inhabited

/-- 2^k for k ≥ 0 (1 below 0). -/
def pow2 (k : Int) : Nat := 2 ^ k.toNat

/-- The exact number 0. -/
def Dy.zero : Dy := ⟨0, 0⟩
/-- An integer as an exact number. -/
def Dy.ofInt (i : Int) : Dy := ⟨i, 0⟩
/-- Sum, exact. -/
def Dy.add (a b : Dy) : Dy :=
  if a.m = 0 then b else if b.m = 0 then a else
  let e := min a.e b.e
  ⟨a.m * pow2 (a.e - e) + b.m * pow2 (b.e - e), e⟩
/-- Negation. -/
def Dy.neg (a : Dy) : Dy := ⟨-a.m, a.e⟩
/-- Difference, exact. -/
def Dy.sub (a b : Dy) : Dy := a.add b.neg
/-- Product, exact. -/
def Dy.mul (a b : Dy) : Dy := ⟨a.m * b.m, a.e + b.e⟩
/-- Magnitude. -/
def Dy.abs (a : Dy) : Dy := ⟨a.m.natAbs, a.e⟩
/-- a × 2^k. -/
def Dy.scale (a : Dy) (k : Int) : Dy := ⟨a.m, a.e + k⟩
/-- a < b on exact values. -/
def Dy.lt (a b : Dy) : Bool := (a.sub b).m < 0
/-- a ≤ b on exact values. -/
def Dy.le (a b : Dy) : Bool := (a.sub b).m ≤ 0
/-- Equality of the exact values. -/
def Dy.eqv (a b : Dy) : Bool := (a.sub b).m = 0
/-- floor(log2 |a|), for a ≠ 0. -/
def Dy.log2 (a : Dy) : Int := a.e + Nat.log2 a.m.natAbs
/-- Exponent of the least significant set bit, for a ≠ 0 (window_exp of R65). -/
def Dy.lsb (a : Dy) : Int := a.e + Nat.log2 (a.m.natAbs ^^^ (a.m.natAbs - 1))

/-- A value with the specials and signed zeros of the floating-point formats; a finite value is ± num/den × 2^e. -/
inductive Val where
  | nan
  | inf (neg : Bool)
  | fin (neg : Bool) (num den : Nat) (e : Int)
deriving DecidableEq, Repr, Inhabited

/-- +0. -/
def Val.zero : Val := .fin false 0 1 0
/-- An exact number as a value; an exact zero is +0. -/
def Val.ofDy (d : Dy) : Val := .fin (d.m < 0) d.m.natAbs 1 d.e
/-- The exact number of a finite value with denominator 1 (0 for specials). -/
def Val.toDy : Val → Dy
  | .fin neg n _ e => ⟨if neg then -(n : Int) else n, e⟩
  | _ => .zero
/-- A quotient of exact numbers, b ≠ 0. -/
def Val.quot (a b : Dy) : Val := .fin (decide (a.m * b.m < 0)) a.m.natAbs b.m.natAbs (a.e - b.e)
def Val.isNan : Val → Bool | .nan => true | _ => false
def Val.isInf : Val → Bool | .inf _ => true | _ => false
def Val.isFin : Val → Bool | .fin .. => true | _ => false
/-- Sign bit; NaN counts as positive. -/
def Val.sign : Val → Bool | .nan => false | .inf n => n | .fin n .. => n
def Val.isZero : Val → Bool | .fin _ n _ _ => n == 0 | _ => false
def Val.neg : Val → Val | .nan => .nan | .inf n => .inf (!n) | .fin n a b e => .fin (!n) a b e
def Val.abs : Val → Val | .nan => .nan | .inf _ => .inf false | .fin _ a b e => .fin false a b e
/-- value × 2^k. -/
def Val.scale (k : Int) : Val → Val | .fin n a b e => .fin n a b (e + k) | v => v

/-- Conversion flags and the count of saturated elements (R53, R50). -/
structure Fl where
  ov : Bool := false
  uf : Bool := false
  inv : Bool := false
  rowEmpty : Bool := false
  varClamp : Bool := false
  sat : Nat := 0
deriving DecidableEq, Repr, Inhabited

/-- Flags OR, saturations add. -/
def Fl.or (a b : Fl) : Fl :=
  ⟨a.ov || b.ov, a.uf || b.uf, a.inv || b.inv, a.rowEmpty || b.rowEmpty, a.varClamp || b.varClamp, a.sat + b.sat⟩

/-! ## Rounding (Table 2.3, R47) -/

/-- Rounds the magnitude n/d (sign given) to an integer magnitude; `r` are the 24 random bits of mode 4. -/
def roundDiv (rnd : Nat) (neg : Bool) (r : Nat) (n d : Nat) : Nat :=
  let q := n / d
  let m := n % d
  if m = 0 then q else
  match rnd with
  | 0 => if 2 * m < d then q else if d < 2 * m then q + 1 else if q % 2 = 0 then q else q + 1
  | 1 => q
  | 2 => if neg then q else q + 1
  | 3 => if neg then q + 1 else q
  | _ =>
    let f := if neg then (d - m) * 2 ^ 24 / d else m * 2 ^ 24 / d
    if neg then (if r < f then q else q + 1) else (if r < f then q + 1 else q)

/-- n/d × 2^e in units of 2^k, as a fraction. -/
def unitsOf (n d : Nat) (e k : Int) : Nat × Nat :=
  if k ≤ e then (n * pow2 (e - k), d) else (n, d * pow2 (k - e))

/-- floor(log2 (n/d × 2^e)) for n, d ≠ 0. -/
def fracLog2 (n d : Nat) (e : Int) : Int :=
  let l : Int := (Nat.log2 n : Int) - Nat.log2 d
  let p := unitsOf n d 0 l
  if p.1 < p.2 then l - 1 + e else l + e

/-- Round to nearest even to p significant bits (rne40 of R65 with p = 40). -/
def Dy.rne (p : Nat) (a : Dy) : Dy :=
  if a.m = 0 then a else
  let k : Int := (Nat.log2 a.m.natAbs : Int) + 1 - p
  if k ≤ 0 then a else
  let q := roundDiv 0 (a.m < 0) 0 a.m.natAbs (pow2 k)
  ⟨if a.m < 0 then -(q : Int) else q, a.e + k⟩

/-! ## Formats (Tables 2.1, 2.2) -/

/-- A floating-point element format. -/
structure FloatFmt where
  ew : Nat
  mw : Nat
  bias : Int
  maxCode : Nat
  infCode : Option Nat
  nanCode : Option Nat
deriving DecidableEq, Repr

def fp32 : FloatFmt := ⟨8, 23, 127, 0x7F7FFFFF, some 0x7F800000, some 0x7FC00000⟩
def bf16 : FloatFmt := ⟨8, 7, 127, 0x7F7F, some 0x7F80, some 0x7FC0⟩
def fp16 : FloatFmt := ⟨5, 10, 15, 0x7BFF, some 0x7C00, some 0x7E00⟩
def e4m3 : FloatFmt := ⟨4, 3, 7, 0x7E, none, some 0x7F⟩
def e5m2 : FloatFmt := ⟨5, 2, 15, 0x7B, some 0x7C, some 0x7E⟩
def e3m2 : FloatFmt := ⟨3, 2, 3, 0x1F, none, none⟩
def e2m3 : FloatFmt := ⟨2, 3, 1, 0x1F, none, none⟩
def e2m1 : FloatFmt := ⟨2, 1, 1, 0x7, none, none⟩

/-- Width of a floating-point format. -/
def FloatFmt.width (f : FloatFmt) : Nat := 1 + f.ew + f.mw

/-- The floating-point format of a code, MX element formats included (R37). -/
def floatOf : Nat → Option FloatFmt
  | 0x00 => some fp32 | 0x01 => some bf16 | 0x02 => some fp16 | 0x03 => some e4m3
  | 0x04 => some e5m2 | 0x05 => some e3m2 | 0x06 => some e2m3 | 0x07 => some e2m1
  | 0x10 => some e4m3 | 0x11 => some e5m2 | 0x12 => some e3m2 | 0x13 => some e2m3 | 0x14 => some e2m1
  | _ => none

/-- Listed format codes (R33). -/
def fmtValid (c : Nat) : Bool := c ≤ 0x0E || (0x10 ≤ c && c ≤ 0x15) || c == 0x18 || c == 0x1F
/-- MX formats. -/
def isMx (c : Nat) : Bool := 0x10 ≤ c && c ≤ 0x15
/-- Integer formats, ternary included. -/
def isInt (c : Nat) : Bool := 0x08 ≤ c && c ≤ 0x0E
/-- Element width in bits (R36). -/
def fmtWidth : Nat → Nat
  | 0x00 => 32 | 0x08 => 32 | 0x01 => 16 | 0x02 => 16 | 0x09 => 16
  | 0x05 => 6 | 0x06 => 6 | 0x12 => 6 | 0x13 => 6
  | 0x07 => 4 | 0x0C => 4 | 0x14 => 4 | 0x18 => 4
  | 0x0D => 2 | 0x0E => 2
  | _ => 8

/-- Reads a floating-point code (R34). -/
def FloatFmt.decode (f : FloatFmt) (c : Nat) : Val :=
  let s := bit c (f.ew + f.mw)
  let a := c % 2 ^ (f.ew + f.mw)
  let e := a / 2 ^ f.mw
  let m := a % 2 ^ f.mw
  if a ≤ f.maxCode then
    if e = 0 then .fin s m 1 (1 - f.bias - f.mw) else .fin s (2 ^ f.mw + m) 1 (e - f.bias - f.mw)
  else if some a = f.infCode then .inf s else .nan

/-- Writes ± n/d × 2^e as a code with one rounding, by R43, R47, R48 and R50; n may be 0. -/
def FloatFmt.encode (f : FloatFmt) (rnd : Nat) (sat : Bool) (r : Nat) (neg : Bool) (n d : Nat) (e : Int) : Nat × Fl :=
  let s := if neg then 2 ^ (f.ew + f.mw) else 0
  if n = 0 then (s, {}) else
  let k := max (fracLog2 n d e) (1 - f.bias) - f.mw
  let u := unitsOf n d e k
  let q := roundDiv rnd neg r u.1 u.2
  let inexact := u.1 % u.2 ≠ 0
  let code : Int := (k + f.mw + f.bias) * 2 ^ f.mw + q - 2 ^ f.mw
  if code ≤ f.maxCode then
    (s + code.toNat, { uf := inexact && decide (code < 2 ^ f.mw) })
  else
    let toMax := sat || (f.infCode.isNone && f.nanCode.isNone) || rnd == 1 || (rnd == 2 && neg) || (rnd == 3 && !neg)
    if toMax then (s + f.maxCode, { ov := true, sat := 1 })
    else match f.infCode, f.nanCode with
      | some i, _ => (s + i, { ov := true })
      | none, some c => (c, { ov := true })
      | none, none => (s + f.maxCode, { ov := true, sat := 1 })

/-- A value into a floating-point format (R48 to R50). -/
def toFloat (f : FloatFmt) (rnd : Nat) (sat : Bool) (r : Nat) : Val → Nat × Fl
  | .nan => match f.nanCode with
    | some c => (c, {})
    | none => (0, { inv := true })
  | .inf neg =>
    let s := if neg then 2 ^ (f.ew + f.mw) else 0
    match f.infCode, f.nanCode with
    | some i, _ => if sat then (s + f.maxCode, { ov := true, sat := 1 }) else (s + i, {})
    | none, some c => if sat then (s + f.maxCode, { ov := true, sat := 1 }) else (c, { ov := true })
    | none, none => (s + f.maxCode, { ov := true, sat := 1 })
  | .fin neg n d e => f.encode rnd sat r neg n d e

/-- Range of an integer format: least and greatest value. -/
def intRange : Nat → Int × Int
  | 0x08 => (-(2 ^ 31), 2 ^ 31 - 1) | 0x09 => (-(2 ^ 15), 2 ^ 15 - 1) | 0x0A => (-128, 127) | 0x0B => (0, 255)
  | 0x0C => (-8, 7) | 0x0D => (-2, 1) | _ => (-1, 1)

/-- A value into an integer format (R51; R52 when the source is itself an integer format). -/
def toInt (dst : Nat) (srcInt : Bool) (rnd : Nat) (sat : Bool) (r : Nat) (v : Val) : Nat × Fl :=
  let w := fmtWidth dst
  let (lo, hi) := intRange dst
  let indef : Nat × Fl := (2 ^ (w - 1), { inv := true })
  match v with
  | .nan => if dst = 0x0E then (0, { inv := true }) else if sat then (0, { inv := true }) else indef
  | .inf neg =>
    if sat || dst == 0x0E then (ofSigned w (if neg then lo else hi), { ov := true, sat := 1 }) else indef
  | .fin neg n d e =>
    let u := unitsOf n d e 0
    let q := roundDiv rnd neg r u.1 u.2
    let i : Int := if neg then -(q : Int) else q
    if lo ≤ i ∧ i ≤ hi then (ofSigned w i, {})
    else if sat || dst == 0x0E then (ofSigned w (if i < lo then lo else hi), { ov := true, sat := 1 })
    else if srcInt then (ofSigned w i, {}) else indef

/-- Reads an element code of a format without its scale or codebook (R34, R35, R37, R514): the value and INVALID. -/
def decodeCode (fmt c : Nat) : Val × Bool :=
  match floatOf fmt with
  | some f => (f.decode c, false)
  | none =>
    if fmt = 0x0B then (.fin false (c % 256) 1 0, false)
    else if fmt = 0x0E then
      match c % 4 with
      | 0 => (.zero, false)
      | 1 => (.fin false 1 1 0, false)
      | 3 => (.fin true 1 1 0, false)
      | _ => (.zero, true)
    else if fmt = 0x15 then (Val.ofDy ⟨toSigned 8 c, -6⟩, false)
    else if fmt = 0x1F then (if c % 256 = 255 then (.nan, false) else (.fin false 1 1 ((c % 256 : Nat) - 127), false))
    else (Val.ofDy (.ofInt (toSigned (fmtWidth fmt) c)), false)

/-- One element into a plain (not MX, not NVQ4, not E8M0) format. -/
def convertPlain (dst : Nat) (srcInt : Bool) (rnd : Nat) (sat : Bool) (r : Nat) (v : Val) : Nat × Fl :=
  match floatOf dst with
  | some f => toFloat f rnd sat r v
  | none => toInt dst srcInt rnd sat r v

/-! ## Seeded stochastic rounding (R45, R46) -/

def mix64 (z : Nat) : Nat :=
  let z := (z ^^^ (z / 2 ^ 30)) * 0xBF58476D1CE4E5B9 % 2 ^ 64
  let z := (z ^^^ (z / 2 ^ 27)) * 0x94D049BB133111EB % 2 ^ 64
  z ^^^ (z / 2 ^ 31)

/-- The 24 random bits of an element (R46). -/
def srBits (seed tensor index pass : Nat) : Nat :=
  let h := mix64 ((seed % 2 ^ 64) ^^^ (tensor % 2 ^ 32 * 2 ^ 32) ^^^ (pass % 2 ^ 32))
  bits (mix64 (h ^^^ mix64 (index % 2 ^ 64))) 63 40

/-! ## MX blocks (R37 to R39) -/

/-- emax of R38. -/
def mxEmax : Nat → Int
  | 0x10 => 8 | 0x11 => 15 | 0x12 => 4 | 0x13 => 2 | 0x14 => 2 | _ => 0

/-- The value a scale byte stands for, as its exponent; none for 0xFF (R37). -/
def scaleExp (c : Nat) : Option Int := if c % 256 = 255 then none else some ((c % 256 : Nat) - 127)

/-- A magnitude rounded into the element format as the headroom test of R38 does; true when it stays finite. -/
def mxFits (fmt rnd : Nat) (n d : Nat) (e : Int) : Bool :=
  let mode := if rnd ≤ 1 then rnd else 2
  match floatOf fmt with
  | some f => !(f.encode mode true 0 false n d e).2.ov
  | none => decide (roundDiv mode false 0 (unitsOf n d e (-6)).1 (unitsOf n d e (-6)).2 ≤ 127)

/-- The shared exponent X of a block whose largest finite magnitude is n/d × 2^e (R38). -/
def mxExp (fmt rnd : Nat) (headroom : Bool) (n d : Nat) (e : Int) : Int :=
  if n = 0 then -127 else
  let x := fracLog2 n d e - mxEmax fmt
  let x := if headroom && !mxFits fmt rnd n d (e - x) then x + 1 else x
  max (-127) (min 127 x)

/-- The larger of two finite magnitudes, as num, den, exponent. -/
def magMax (a b : Nat × Nat × Int) : Nat × Nat × Int :=
  let e := min a.2.2 b.2.2
  if a.1 * pow2 (a.2.2 - e) * b.2.1 < b.1 * pow2 (b.2.2 - e) * a.2.1 then b else a

/-- amax of a block: the largest finite magnitude (R38, R39). -/
def amax (vs : List Val) : Nat × Nat × Int :=
  vs.foldl (fun acc v => match v with | .fin _ n d e => magMax acc (n, d, e) | _ => acc) (0, 1, 0)

/-- Converts one block: scale code, element codes (each with whether it saturated) and flags. Each element carries its random bits (R38, R39). -/
def mxEncode (fmt rnd : Nat) (sat headroom : Bool) (vs : List (Val × Nat)) : Nat × List (Nat × Bool) × Fl :=
  if vs.any (fun v => v.1.isNan) then (0xFF, vs.map (fun _ => (0, false)), { inv := true }) else
  let (n, d, e) := amax (vs.map (·.1))
  let x := mxExp fmt rnd headroom n d e
  let one := fun (v : Val × Nat) =>
    match floatOf fmt, v.1 with
    | some f, .inf _ => toFloat f rnd (sat || fmt != 0x11) v.2 v.1
    | some f, w => toFloat f rnd true v.2 (w.scale (-x))
    | none, w => toInt 0x0A false rnd true v.2 (w.scale (6 - x))
  let cs := vs.map one
  ((x + 127).toNat, cs.map (fun q => (q.1, decide (0 < q.2.sat))), (cs.map (·.2)).foldl Fl.or {})

/-! ## NVQ4 (R40, R41) -/

/-- Index of the first entry for which p holds and no other such entry is better. -/
def pickEntry (es : List Dy) (p : Dy → Bool) (better : Dy → Dy → Bool) : Option Nat :=
  (es.zipIdx.foldl (fun (acc : Option (Dy × Nat)) (e : Dy × Nat) =>
    if p e.1 then
      match acc with
      | none => some e
      | some a => if better e.1 a.1 then some e else acc
    else acc) none).map (·.2)

/-- A value into an NVQ4 index against 16 entries (R41). A value of exactly 0 toward zero takes the side at or below it. -/
def nvqEncode (es : List Dy) (rnd r : Nat) (v : Val) : Nat × Fl :=
  let largest := (pickEntry es (fun _ => true) (fun a b => b.lt a)).getD 0
  let least := (pickEntry es (fun _ => true) (fun a b => a.lt b)).getD 0
  let entry := fun i => es.getD i .zero
  match v with
  | .nan => (0, { inv := true })
  | .inf neg => (if neg then least else largest, { ov := true, sat := 1 })
  | .fin .. =>
    let x := v.toDy
    let below := pickEntry es (fun a => a.le x) (fun a b => b.lt a)
    let above := pickEntry es (fun a => x.le a) (fun a b => a.lt b)
    let ovf : Fl := { ov := true, sat := 1 }
    match rnd with
    | 0 =>
      match below, above with
      | none, _ => (least, ovf)
      | _, none => (largest, ovf)
      | _, _ => ((pickEntry es (fun _ => true) (fun a b => ((a.sub x).abs).lt (b.sub x).abs)).getD 0, {})
    | 4 =>
      match below, above with
      | none, _ => (least, ovf)
      | _, none => (largest, ovf)
      | some l, some h =>
        let lo := entry l
        let hi := entry h
        if lo.eqv hi then (l, {}) else
        let num := x.sub lo
        let den := hi.sub lo
        let e := min num.e den.e
        let f := num.m.natAbs * pow2 (num.e - e) * 2 ^ 24 / (den.m.natAbs * pow2 (den.e - e))
        (if r < f then h else l, {})
    | m =>
      let down := m == 3 || (m == 1 && decide (0 ≤ x.m))
      if down then (match below with | some l => (l, {}) | none => (least, ovf))
      else (match above with | some h => (h, {}) | none => (largest, ovf))

/-! ## The conversion control word (Table 2.6) -/

structure Ccw where
  src : Nat
  dst : Nat
  rnd : Nat
  sat : Bool
  scaleMode : Bool
  reserved : Bool
deriving DecidableEq, Repr, Inhabited

def Ccw.of (w : Nat) : Ccw := ⟨bits w 4 0, bits w 9 5, bits w 12 10, bit w 13, bit w 14, bit w 15⟩

/-- The encodings R56 and R514 allow. -/
def Ccw.valid (c : Ccw) : Bool :=
  fmtValid c.src && fmtValid c.dst && decide (c.rnd ≤ 4) && !c.reserved && (isMx c.dst || !c.scaleMode)
    && (c.dst != 0x1F || c.src == 0x1F)

/-- FP32 bits of a value, with flags (round to nearest even, no saturation). -/
def toFp32 (v : Val) : Nat × Fl := toFloat fp32 0 false 0 v

/-- Reads FP32 bits. -/
def ofFp32 (b : Nat) : Val := fp32.decode (b % 2 ^ 32)

end Sys2Proof.Machine
end

