-- ==== Sys2Proof/Machine/State.lean ====
section
/-!
DEFINITION. Sys2Proof/Machine/State.lean: everything the manual gives the module, as plain data, and the state after a cold
reset. Registers the manual lists are fields here or are computed from fields here by Machine/Registers.lean.
-/

namespace Sys2Proof.Machine

/-- Why a step stops. -/
inductive Fault where
  /-- Raised by every row whose operand names a unit the device does not have (a core 10,000 or above, a port 16 or above and
  so on). Safe: no such command can be given to the hardware. -/
  | noSuchUnit
deriving DecidableEq, Repr

/-- Why a command has no meaning. -/
inductive Refusal where
  /-- Raised only by an arm of Dispatch.lean that is still rejected by name. Safe: nothing is claimed of it. -/
  | notModelled (mnemonic : String)
deriving DecidableEq, Repr

/-! ## A core -/

/-- An open loop: first instruction of the body, its length, COUNT and the iteration in progress (R217, Table 16.8). -/
structure LoopFrame where
  start : Nat
  body : Nat
  count : Nat
  iter : Nat
deriving DecidableEq, Repr, Inhabited

/-- A VARIANT in force: its layer, whether the wide stream runs, the first instruction of that stream, the one at which it
ends and the one at which both streams end (R217, R246). -/
structure VariantFrame where
  layer : Nat
  wide : Bool
  first : Nat
  stop : Nat
  after : Nat
deriving DecidableEq, Repr, Inhabited

/-- A claim slot (R223, Table 10.5). `pending`: the reply has not arrived. `done`: CLAIM_DONE has been presented. -/
structure ClaimSlot where
  idx : Nat := 0xFFFFFFFF
  tok : Nat := 0
  counter : Nat := 0
  isOpen : Bool := false
  pending : Bool := false
  done : Bool := false
  patch : List Byte := []
deriving DecidableEq, Repr, Inhabited

/-- The sequencer (Table 10.5, R210 to R217). Instruction addresses here count instructions from the start of the stream;
the PC register shows the byte offset. -/
structure Seq where
  run : Nat := 0
  stall : Bool := false
  winM1 : Nat := 0
  cause : Nat := 0
  srcKind : Nat := 0
  src : Nat := 0
  faultPc : Nat := 0
  faultBeat : Nat := 0
  faultInstr : Nat := 0
  curBeat : Nat := 0
  pc : Nat := 0
  loops : List LoopFrame := []
  variants : List VariantFrame := []
  recv : List (Nat × Nat) := []
  pass : Nat := 0
  /-- votes applied when the core entered its pass (R100) -/
  voteAt : Nat := 0
  fpCount : Nat := 0
  fpId : Nat := 0
  waitFrom : Option Nat := none
  selectWait : Bool := false
  /-- beat of the last selection point passed (R120, R459) -/
  selBeat : Option Nat := none
  fpWait : Bool := false
  liveList : Nat × Nat := (0, 0)
deriving DecidableEq, Repr, Inhabited

/-- One accumulator: the FP32-plus or integer value, the sign of a zero value (`nz`: −0), and the specials recorded (R62, R64). -/
structure Accum where
  v : Dy := ⟨0, 0⟩
  nz : Bool := false
  nan : Bool := false
  inv : Bool := false
  pinf : Bool := false
  ninf : Bool := false
deriving DecidableEq, Repr, Inhabited

/-- One operand element: its value without any block scale (an MXINT8 element as an integer), the exponent of that scale (R63's factor
for MXINT8 included), whether the scale is 0xFF, whether it is stored (no pad lane), whether it is a pad lane left out of reductions, and
whether its code was invalid (R35, R59, R63, R124). A pad lane's `exp` is the format's factor alone. -/
structure Elem where
  v : Val
  exp : Int := 0
  nanScale : Bool := false
  stored : Bool := true
  skip : Bool := false
  bad : Bool := false
deriving DecidableEq, Repr, Inhabited

/-- What one instruction of a chain contributed, kept for the reference path (R91): rows of A, columns of B, whether the
mapping is diagonal, and the local ranges (space, address, bytes) held against writes. -/
structure WitPart where
  a : List (List Elem)
  b : List (List Elem)
  diag : Option Nat
  held : List (Bool × Nat × Nat)
deriving DecidableEq, Repr, Inhabited

/-- How a tile finishes (R64, R72, R76): ROUTE, output descriptor, the extents that make pad rows and lanes, the beat, and
its place among draining tiles. -/
structure Finish where
  route : Nat
  out : List Byte
  rowsA : Nat
  colsB : Nat
  layer : Nat
  beat : Nat
  order : Nat := 0
deriving DecidableEq, Repr, Inhabited

/-- An accumulator tile (R67): 0 free, 1 accumulating, 2 draining. `wit`: its output descriptor and the pass select it as a witness (R90). -/
structure AccTile where
  state : Nat := 0
  m : Nat := 0
  n : Nat := 0
  isInt : Bool := false
  diag : Option Nat := none
  acc : List (Nat × Accum) := []
  init : List (Nat × Accum) := []
  parts : List WitPart := []
  finish : Option Finish := none
  prepared : Bool := false
  wit : Bool := false
deriving DecidableEq, Repr, Inhabited

/-- An entry of the finished-tile queue (R76): words row by row. -/
structure FtqEntry where
  isInt : Bool
  m : Nat
  n : Nat
  words : List Nat
deriving DecidableEq, Repr, Inhabited

/-- A selected tile waiting for the reference path (R91 to R94). `ys`: compared element, its value as written or pushed,
whether it is excluded, and the block exponent of an MX output (R93). -/
structure Witness where
  isInt : Bool
  route : Nat
  out : List Byte
  seed : Nat
  pass : Nat
  layer : Nat
  beat : Nat
  init : List (Nat × Accum)
  parts : List WitPart
  ys : List (Nat × Val × Bool × Int)
deriving DecidableEq, Repr, Inhabited

/-- A write from outside (R79, R91): space (true: operand buffer), address, bytes, and for each byte the bits it writes (R125; a byte not
listed is written whole). -/
structure LocalWrite where
  ob : Bool
  addr : Nat
  bytes : List Byte
  mask : List Byte := []
deriving DecidableEq, Repr, Inhabited

/-- A multicast delivery that has landed: beat, operand-buffer base and length (R82). -/
structure McastRange where
  beat : Nat
  base : Nat
  len : Nat
deriving DecidableEq, Repr, Inhabited

/-- The matrix unit and the witness path (Tables 3.8 and 4.5). `reading`: local ranges (space, address, bytes) that the executing matrix
instruction has yet to read (R79). -/
structure MuState where
  t0 : AccTile := {}
  t1 : AccTile := {}
  ftq : List FtqEntry := []
  witq : List Witness := []
  deepReplays : Nat := 0
  mcastWait : Bool := false
  readyWait : Bool := false
  witHold : Bool := false
  fails : Nat := 0
  lost : Nat := 0
  heldWrites : List LocalWrite := []
  reading : List (Bool × Nat × Nat) := []
  mcast : List McastRange := []
deriving DecidableEq, Repr, Inhabited

/-- An element of a vector register and its pad bit (R130). -/
structure VElem where
  bits : Nat := 0
  pad : Bool := false
deriving DecidableEq, Repr, Inhabited

/-- A segment accumulator and the row carry that keeps one open (R140, R161): exact sum, count of data lanes, the specials and
OVERFLOW met, and the EL48 forms' two FP32 partial sums. -/
structure RowCarry where
  isOpen : Bool := false
  sum : Dy := ⟨0, 0⟩
  count : Nat := 0
  nan : Bool := false
  inv : Bool := false
  pinf : Bool := false
  ninf : Bool := false
  ov : Bool := false
  s1 : Nat := 0
  s2 : Nat := 0
deriving DecidableEq, Repr, Inhabited

/-- The vector engine (R130 to R147). `vrLost`: event since which unlisted registers are unspecified (R368). -/
structure VeState where
  vr : List (Nat × VElem) := []
  vrLost : Option Nat := none
  flags : Fl := {}
  carry : RowCarry := {}
deriving DecidableEq, Repr, Inhabited

/-- One copy of a double-banked table (R362): active side, generation, the two sides' contents, the armed switch (side and
SWITCH_BEAT). -/
structure Bank where
  side : Nat := 0
  gen : Nat := 0
  s0 : List Byte := []
  s1 : List Byte := []
  armed : Option (Nat × Nat) := none
deriving DecidableEq, Repr, Inhabited

/-- Contents of the active side. -/
def Bank.active (b : Bank) : List Byte := if b.side = 0 then b.s0 else b.s1

/-- A word of a local memory whose stored bits an event has changed (R227): space (true: operand buffer), 64-bit word, whether two bits are
wrong. -/
structure Upset where
  ob : Bool
  word : Nat
  double : Bool
deriving DecidableEq, Repr, Inhabited

/-- A core (chapters 03, 04, 06, 09, 10, 11). `ready` is the 256-bit READY_FLAGS; `ctl` and `pmc` are counters 0 to 7; `tally`: what the core's
instructions have done of each event of Table 22.4 since its counters were last brought up to date, with code 0x1000 for cycles of chains
with stage 4, 0x1001 for cycles of other chains and 0x1002 where it has been active (R492, R493). -/
structure Core where
  seq : Seq := {}
  claims : List ClaimSlot := [{}, {}, {}, {}]
  mu : MuState := {}
  ve : VeState := {}
  sf : Bank := {}
  cb : Bank := {}
  firn : Bank := {}
  ts : Mem := {}
  ob : Mem := {}
  desc : Mem := {}
  ready : Nat := 0
  eccCorr : Nat := 0
  eccUncorr : Bool := false
  ueAddr : Nat := 0
  ueOb : Bool := false
  upsets : List Upset := []
  firnNonfinite : Nat := 0
  ctl : List (Nat × Nat) := []
  pmc : List (Nat × Nat) := []
  tally : List (Nat × Nat) := []
  /-- lost table sides and generations are to be rewritten before the core issues (R364) -/
  banksDue : Bool := false
deriving DecidableEq, Repr, Inhabited

/-- The first 64 bytes of a special-function table image: its version at offset 0 (R152; log entry 6). -/
def sfImageReset : List Byte := leBytes 4 Config.sfVersion

/-- A core after reset (R220): every field 0 but the claim indices, and the flashed special-function image on both sides
(R152; log entry 6). -/
def Core.reset : Core := { sf := { s0 := sfImageReset, s1 := sfImageReset } }

/-- A core whose state was lost at event `k`: local memories read 0 (R228), its vector registers and descriptor table hold undefined
contents (Table 21.2; log entry 4). -/
def Core.lostAt (k : Nat) : Core := { Core.reset with ve := { vrLost := some k }, desc := { lost := [(0, Config.descBytes, k)] } }

/-! ## Messages between units -/

/-- A beat unit or other party (R211): kind 0 core (linear number), 1 shelf, 2 port, 3 collective group. -/
structure UnitId where
  kind : Nat
  num : Nat
deriving DecidableEq, Repr, Inhabited

/-- A message in flight (R28, R210): its partition, ends, beat and the local bytes it lands at a core. -/
structure Msg where
  part : Nat
  src : UnitId
  dst : UnitId
  beat : Nat
  land : List LocalWrite := []
deriving DecidableEq, Repr, Inhabited

/-- A beat unit outside the cores (R210 to R213): its beat and what it has received, per beat. -/
structure BeatUnit where
  cur : Nat := 0
  recv : List (Nat × Nat) := []
deriving DecidableEq, Repr, Inhabited

/-! ## Partitions -/

/-- A work counter (R221, R222). `held`: contributions held per index: index, token, core, then region writes as address,
element bytes (R224). -/
structure HeldContrib where
  idx : Nat
  tok : Nat
  core : Nat
  slot : Nat
  beat : Nat
  addr : Nat
  bytes : List Byte
deriving DecidableEq, Repr, Inhabited

structure ClaimReq where
  core : Nat
  slot : Nat
  idx : Nat := 0
  tok : Nat := 0
deriving DecidableEq, Repr, Inhabited

structure Counter where
  next : Nat := 0
  epoch : Nat := 0
  reissue : List Nat := []
  held : List HeldContrib := []
  queue : List ClaimReq := []
  dones : List ClaimReq := []
  /-- index and DTB of each open claim -/
  takenAt : List (Nat × Nat) := []
deriving DecidableEq, Repr, Inhabited

/-- A run request or a sequence-table command waiting for a selection point (R119, R185): the slot it completes, its
command code, POST_DTB and payload. -/
structure Request where
  fn : Fn
  slot : Nat
  cmd : Nat
  post : Nat
  payload : List Byte
deriving DecidableEq, Repr, Inhabited

/-- An admitted image (R105, R240 to R244, R249). Addresses are bytes of the interleaved space. -/
structure Image where
  /-- the image as read from the host: tile program and microprograms -/
  bytes : List Byte
  /-- the 128-byte admission request -/
  req : List Byte
  /-- the reserves in force after defaults (R245), in 256 B and 64 KiB units -/
  widenTs : Nat
  widenHbm : Nat
  /-- first byte of regions 1 to 9 (index 0 unused) and, last, the end of region 9 -/
  regions : List Nat
  /-- channel indices by ordinal -/
  chans : List Nat
  /-- where admission copied each contract core's stream: first byte, and instructions (R209) -/
  streams : List (Nat × Nat × Nat)
deriving DecidableEq, Repr, Inhabited

/-- A layer's monitors (R97), as its record in region 3 holds them: SAT_MAX, CARRY_MAX and DEV_MAX as FP32 bits, and whether its
error-feedback steps ran. -/
structure Monitor where
  sat : Nat := 0
  carry : Nat := 0
  dev : Nat := 0
  ef : Bool := false
deriving DecidableEq, Repr, Inhabited

/-- Results that have landed in an output area and whose beat has not committed (R319): group and instance, the beat they belong to once the
instance has completed locally, their place and the bytes that stood there. -/
structure Landed where
  group : Nat
  inst : Nat
  beat : Option Nat := none
  place : Nat
  old : List Byte
deriving DecidableEq, Repr, Inhabited

/-- What is running in a partition (R118 to R120, R215, R450, Table 18.7). -/
structure JobState where
  running : Bool := false
  halted : Bool := false
  stopped : Bool := false
  frozen : Bool := false
  started : Bool := false
  bucket : Nat := 0
  selected : Bool := false
  vars : List Nat := [0, 0, 0, 0, 0, 0, 0, 0]
  requests : List Request := []
  opened : Option Request := none
  /-- requests that have ended and the beat that ended each (R422) -/
  ending : List (Request × Nat) := []
  nextRequest : Nat := 0
  selSignal : Nat := 0
  /-- beats committed so far: the next beat to commit -/
  nextCommit : Nat := 0
  units : List (Nat × BeatUnit) := []
  witFail : List Nat := []
  lastFault : Nat := 0
  history : List (List Byte) := []
  reports : List (Nat × Nat × Nat × Nat) := []
  redFlags : Nat := 0
  satTotal : Nat := 0
  leftTs : Nat := 0
  leftHbm : Nat := 0
  widenDeferred : Bool := false
  /-- votes applied since the image started (R100) -/
  votes : Nat := 0
  witNext : Nat := 0
  /-- KV appends that commit with their beat: slot, end, beat (R183) -/
  appends : List (Nat × Nat × Nat) := []
  /-- oldest first -/
  landed : List Landed := []
deriving DecidableEq, Repr, Inhabited

/-- What the model keeps of a freeze beside its freeze-area copy (log entry 18): by contract core, the messages counted for the current
and later beats, the open VARIANTs and the votes seen; the beat units of shelves, ports and groups; the votes applied; the instruction words
that patches write, at their places (R120). -/
structure Saved where
  recv : List (Nat × List (Nat × Nat)) := []
  variants : List (Nat × List VariantFrame) := []
  units : List (Nat × BeatUnit) := []
  voteAt : List (Nat × Nat) := []
  votes : Nat := 0
  patched : List (Nat × List Byte) := []
deriving DecidableEq, Repr, Inhabited

/-- Freeze and thaw (R369 to R373, Tables 16.7 and 16.9). -/
structure FreezeState where
  at_ : Nat := 0
  armed : Bool := false
  status : Nat := 0
  copy : Nat := 0
  seq : Nat := 0
  cmd : Option (Fn × Nat × Nat) := none
  saved0 : Saved := {}
  saved1 : Saved := {}
deriving DecidableEq, Repr, Inhabited

/-- A load in progress (R339 to R345): descriptor, the command to complete and its companion's (function, slot, POST_DTB), chunks read
or received, pieces of chunks by chunk and offset, chunks checked and not yet forwarded (number, CRC, bytes), kept and forwarded counts,
end message sent and seen. -/
structure Load where
  desc : List Byte
  cmd : Fn × Nat × Nat
  comp : Option (Fn × Nat × Nat) := none
  start : Nat := 0
  seen : List Nat := []
  pieces : List (Nat × Nat × List Byte) := []
  ready : List (Nat × Nat × List Byte) := []
  kept : Nat := 0
  fwd : Nat := 0
  endSent : Bool := false
  endSeen : Bool := false
deriving DecidableEq, Repr, Inhabited

/-- Weight slots (R336 to R352, Table 15.7). -/
structure WeightState where
  st0 : Nat := 0
  st1 : Nat := 0
  base0 : Option Nat := none
  slotBytes : Nat := 0
  switchPending : Bool := false
  switchTo : Nat := 0
  atRequest : Nat := 0
  selectWait : Bool := false
  relocs : List (List Byte) := []
  loadId : Nat := 0
  chunksKept : Nat := 0
  chunksFwd : Nat := 0
  lastStatus : Nat := 0
  crcFails : Nat := 0
  load : Option Load := none
  /-- chain messages held for want of their command, since when, and the port and channel of the first (R343) -/
  held : List (LoadHeader × List Byte) := []
  heldFrom : Nat := 0
  heldVia : Option (Nat × Nat) := none
deriving DecidableEq, Repr, Inhabited

/-- A recovery point (R459, R460): its freeze copy, count, beat, request queue position, group instances (group, S,
completed) and the calf pool: granule of the interleaved space and its 4 KiB. -/
structure RecPoint where
  fp : Nat
  beat : Nat
  copy : Nat
  nextRequest : Nat
  groups : List (Nat × Nat × Nat) := []
  isCkpt : Bool := false
  calf : List (Nat × List Byte) := []
  taken : List Request := []
  opened : Option Request := none
  ending : List (Request × Nat) := []
  drained : List Nat := []
  /-- results in output areas that belong to later beats (R319) -/
  landed : List Landed := []
  pinUnits : List (Nat × Nat) := []
deriving DecidableEq, Repr, Inhabited

/-- Recovery (R459 to R467, Table 20.4). -/
structure RecState where
  fenced : Nat := 0
  state : Nat := 0
  absent : Option Nat := none
  ckptDrain : Bool := false
  rollbacks : Nat := 0
  rpBeat : Nat := 0
  ckptNext : Nat := 0
  ckptInterval : Nat := 0
  mtbf : Nat := 0
  lastPause : Nat := 0
  points : List RecPoint := []
  /-- FP_COUNT at which the next checkpoint is taken; 0: none (R463) -/
  ckptAt : Nat := 0
  pauses : List Nat := []
  ledger : List (Nat × Nat × Nat) := []
  admitDtb : Nat := 0
  /-- a rank whose loss awaits the rollback, and whether a replacement has been bound (R466) -/
  lost : Option Nat := none
  replaced : Bool := false
  failDtb : Nat := 0
  pauseFrom : Nat := 0
  locks : List (Nat × Nat × Nat) := []
deriving DecidableEq, Repr, Inhabited

/-- Ownership and geometry (Tables 16.1 and 20.2). `owner` is bits [9:4] of Table 16.1. -/
structure Geometry where
  defined : Bool := false
  owner : Nat := 0
  blocks : Nat := 0
  groups : Nat := 0
  ways : Nat := 0
  ownGen : Nat := 0
deriving DecidableEq, Repr, Inhabited

/-- A partition. `ranks`: the rank table, none while unbound (R300). -/
structure Partition where
  geo : Geometry := {}
  image : Option Image := none
  job : JobState := {}
  fz : FreezeState := {}
  ws : WeightState := {}
  rcv : RecState := {}
  counters : List (Nat × Counter) := []
  ranks : Option (List Nat) := none
  /-- units pinned with a page until it is freed: page, units (R185) -/
  pinUnits : List (Nat × Nat) := []
  /-- the KV pool that an admission left in HBM: what a readmission compares, with the channel groups it lies in (R188, R249) -/
  kvKept : Option (List Byte) := none
deriving DecidableEq, Repr, Inhabited

/-! ## Shelves -/

/-- A line present in a shelf cache (R252 to R255): way, byte-valid and dirty masks, bytes, pinning. A valid byte that is not dirty holds
what the stack holds. -/
structure CacheLine where
  line : Nat
  way : Nat
  valid : List Bool
  dirty : List Bool
  bytes : List Byte
  pinned : Bool := false
deriving DecidableEq, Repr, Inhabited

/-- A shelf (Tables 12.3 and 12.8). `cache` is in order of last use, newest first; `regions` are entries of Table 12.3. -/
structure Shelf where
  cache : List CacheLine := []
  temp : Nat := 0
  step : Nat := 0
  refreshX2 : Bool := false
  halted : Bool := false
  below80 : Nat := 0
  stepMax : Nat := 0
  pcFenced : Nat := 0
  parityRetries : Nat := 0
  parityFences : Nat := 0
  odeccCorr : Nat := 0
  cacheCorr : Nat := 0
  ueCount : Nat := 0
  wayOwner : Nat := 0
  wayValid : Nat := 0
  sleetMissing : Nat := 0
  /-- open glacier records: entry, element; ordinals received by open ordered sums: entry, element, ordinal -/
  glOpen : List (Nat × Nat) := []
  ordSeen : List (Nat × Nat × Nat) := []
  regions : List (List Byte) := []
  waitCool : Bool := false
  /-- number of the regrade whose interface timing is in force (R482); 0: that of training -/
  timingPlan : Nat := 0
  ctl : List (Nat × Nat) := []
  pmc : List (Nat × Nat) := []
  /-- events since the counters were last brought up to date, by event x 16 + partition -/
  tally : List (Nat × Nat) := []
deriving DecidableEq, Repr, Inhabited

/-- A watch at a home bank (R216): partition, core, physical address, VALUE, CMP, and whether it has been answered. -/
structure Watch where
  part : Nat
  core : Nat
  addr : Nat
  value : Nat
  cmp : Nat
  answered : Bool := false
deriving DecidableEq, Repr, Inhabited

/-! ## Links and collectives -/

/-- A message that waits to leave on one virtual channel: its beat, its bytes (header first) and how many have been sent (R280). -/
structure OutMsg where
  beat : Nat
  payload : List Byte
  sent : Nat := 0
  /-- EPOCH of its first flit, which every later flit of it carries -/
  epoch : Nat := 0
deriving DecidableEq, Repr, Inhabited

/-- One virtual channel of a port (R280 to R284, R290, R326). `freed`: flits freed at this receiver;
`withheld`: flits whose credit waits for room in the early-arrival buffer (R329); `peerFreed`: the peer's newest
CREDIT; `unacked`: LAST sequence number of a message sent, and its beat-acknowledgement deadline once an ACK covers it (R289);
`delivered`: messages on VCs 8 to 10 handed to firmware; `outMap`: the receiver's channel index (R304). -/
structure VcState where
  out : List OutMsg := []
  credits : Nat := 0
  freed : Nat := 0
  withheld : Nat := 0
  peerFreed : Nat := 0
  epoch : Nat := 0
  deficit : Nat := 0
  inMsg : List Byte := []
  inOpen : Bool := false
  unacked : List (Nat × Option Nat) := []
  delivered : List (Nat × List Byte) := []
  outMap : Option Nat := none
  /-- beat and LAST sequence number of messages held under R330, not yet acknowledged -/
  heldAcks : List (Nat × Nat) := []
deriving DecidableEq, Repr, Inhabited

/-- A Viltas port (Table 13.7, R274 to R293). `txSeq`, `rxSeq`: last sequence numbers used and accepted; `replay`: flits sent and not
acknowledged, with the time sent; `resend`: sequence numbers still to be replayed; `acks`: beat acknowledgements to send (channel,
beat, LAST sequence number); `hbPrevTx`, `hbPrevRx`: the stamps of Table 13.5. -/
structure Port where
  state : Nat := 0
  peer : Option PeerInfo := none
  laneRev : Bool := false
  polInv : Nat := 0
  fecCorr : Nat := 0
  fecUncorr : Nat := 0
  crcFail : Nat := 0
  replays : Nat := 0
  hbMissed : Nat := 0
  losses : Nat := 0
  ackLate : Nat := 0
  fenced : Nat := 0
  disable : Bool := false
  cblHigh : Bool := false
  vcs : List (Nat × VcState) := []
  replay : List (Nat × List Byte × Nat) := []
  resend : List Nat := []
  acks : List (Nat × Nat × Nat) := []
  txSeq : Nat := 0
  rxSeq : Nat := 0
  nak : Bool := false
  replayTries : Nat := 0
  hbDue : Nat := 0
  hbRecv : Nat := 0
  hbPrevTx : Nat := 0
  hbPrevRx : Nat := 0
  relocks : Nat := 0
  lowRate : Bool := false
  departed : Bool := false
  lossAt : Nat := 0
  curVc : Nat := 0
  creditVc : Nat := 0
  sinceControl : Nat := 0
  /-- number of the regrade whose equaliser settings are in force (R482); 0: those of training -/
  eqPlan : Nat := 0
  /-- equaliser settings found by the search of a training at cold reset; every later training starts from them (R277) -/
  eqFound : Option Nat := none
  /-- generation of the port's routing table, its outbound channel maps (R304, R362) -/
  mapGen : Nat := 0
deriving DecidableEq, Repr, Inhabited

/-- A posted destination of an instance (R307, R321). -/
structure Posted where
  core : Nat
  ob : Bool
  dst : Nat
  scale : Nat
  elem0 : Nat
  count : Nat
  flag : Nat
  delivered : Bool := false
deriving DecidableEq, Repr, Inhabited

/-- One instance of a group at this module (R305 to R324). `contrib`: hand-offs as ordinal, first index and elements (code, scale);
`beyond`: indices at CAP or above that its hand-offs covered; `got`: messages landed, header and elements; `sent`: messages sent, as stage,
chunk or slot, kind, destination and the member sent for; `results`: result index, code, scale; `lens`: slot, VALID, DROPPED;
`cores`: cores that have handed off to it (R367); `failed`: a surplus element or one of another beat keeps it from completing (R308, R262). -/
structure Instance where
  seq : Nat
  beat : Nat := 0
  contrib : List (Nat × Nat × List (Nat × Nat)) := []
  beyond : List Nat := []
  got : List (CollHeader × List Byte) := []
  sent : List (Nat × Nat × Nat × Nat × Nat) := []
  results : List (Nat × Nat × Nat) := []
  lens : List (Nat × Nat × Nat) := []
  signalled : List Nat := []
  posted : List Posted := []
  cores : List Nat := []
  /-- beat of each hand-off of `contrib` -/
  beats : List Nat := []
  failed : Bool := false
deriving DecidableEq, Repr, Inhabited

/-- A group of a partition (R309, R328): highest instance started and completed (none: −1), instances in progress; `skipped`: instances
below the highest started that have not been started; `figures`: the last P2P instance completed, its VALID and DROPPED (R311). -/
structure GroupState where
  started : Option Nat := none
  completed : Option Nat := none
  insts : List Instance := []
  skipped : List Nat := []
  figures : Option (Nat × Nat × Nat) := none
deriving DecidableEq, Repr, Inhabited

/-- A collective channel (Table 14.10). `early`: early arrivals with their port, beat and bytes (R329); `heldMsgs`: messages held
under R330; `holdFrom`, `holdGroup`: DTB at which the hold began, and the group held; `loadHold`: LOAD_ID of the load that holds it (R341). -/
structure Channel where
  bound : Bool := false
  owner : Nat := 0
  group : Nat := 0
  flagWait : Bool := false
  started : Nat := 0xFFFFFFFF
  completed : Nat := 0xFFFFFFFF
  skewReports : Nat := 0
  holds : Nat := 0
  dropped : Nat := 0
  flags : Nat := 0
  satCount : Nat := 0
  early : List (Nat × CollHeader × Nat × List Byte) := []
  heldMsgs : List (Nat × CollHeader × Nat × List Byte) := []
  holdFrom : Option Nat := none
  holdGroup : Nat := 0
  loadHold : Option Nat := none
deriving DecidableEq, Repr, Inhabited

/-! ## Codec pairs -/

/-- A submit of a session (R387): the command it completes (function, slot, POST_DTB), its record, and the bytes of it parsed. -/
structure Submit where
  fn : Fn
  slot : Nat
  post : Nat
  record : List Byte
  parsed : Nat := 0
deriving DecidableEq, Repr, Inhabited

/-- A frame buffer in use (R390): its mark (Table 17.6a), OUT_WAIT, the places of its picture in coding order and in output order, and
whether the picture is CORRUPT (R391). -/
structure FrameBuf where
  mark : Nat
  outWait : Bool
  num : Nat
  order : Nat
  corrupt : Bool
deriving DecidableEq, Repr, Inhabited

/-- How a picture is coded (R397 to R399): the quantisers of its 8 x 8 blocks by rows, the CTU columns coded intra (first, past the
last), the places of the coded pictures it may reference. -/
structure CodePlan where
  quant : List (List Nat) := []
  intra : Nat × Nat := (0, 0)
  refs : List Nat := []
deriving DecidableEq, Repr, Inhabited

/-- A picture decoded or coded and not yet output: its places in coding order and in output order, how many bytes of the session had
been parsed with it, its frame buffer, CAUSE and the other fields of Table 17.5; `skipped`: reported without being decoded (R395); an encoded picture carries its bitstream, and `written` says that it is in the
output ring at `offset` or DROPPED. -/
structure Picture where
  num : Nat
  order : Nat := 0
  upto : Nat := 0
  frame : Option Nat
  key : Bool := false
  cause : Nat := 0
  refCorrupt : Bool := false
  damaged : Nat := 0
  bytes : Nat := 0
  skipped : Bool := false
  encode : Bool := false
  coded : List Byte := []
  plan : CodePlan := {}
  written : Bool := false
  dropped : Bool := false
  offset : Nat := 0
deriving DecidableEq, Repr, Inhabited

/-- A codec session (R383 to R401). `hist`: every byte parsed or coded so far, on which its pictures depend; `sizes`: bytes of each
picture coded, which rate control counts (R397); `frames`: buffers in use;
`outputs`: pictures that wait to be output; `closing`: 0 open, 1 draining, 2 ending at the picture boundary; `saved`: its context is
in HBM and must be read back. -/
structure Session where
  gen : Nat := 0
  isOpen : Bool := false
  closing : Nat := 0
  part : Nat := 0
  desc : List Byte := []
  submits : List Submit := []
  frames : List (Nat × FrameBuf) := []
  outputs : List Picture := []
  hist : List Byte := []
  sizes : List Nat := []
  coded : Nat := 0
  sinceKey : Nat := 0
  forceKey : Bool := false
  outIndex : Nat := 0
  selected : Nat := 0
  produced : Nat := 0
  closeCmd : Option (Fn × Nat × Nat) := none
  saved : Bool := false
deriving DecidableEq, Repr, Inhabited

/-- A codec pair (Table 17.8, R402). -/
structure Pair where
  run : Nat := 0
  part : Nat := 0
  session : Nat := 0
  faulted : Bool := false
  binOcc : Nat := 0
  pictures : Nat := 0
  corrupt : Nat := 0
  budgetHits : Nat := 0
  wdogHits : Nat := 0
  suspends : Nat := 0
  fenced : Nat := 0
  oob : Nat := 0
  token : Nat := 0
  sessions : List (Nat × Session) := []
  ctl : List (Nat × Nat) := []
  pmc : List (Nat × Nat) := []
deriving DecidableEq, Repr, Inhabited

/-! ## Host interface -/

/-- A mailbox slot (Table 18.3). `w0`, `w3`: the header words as written; `begun`: the command has taken effect and is not complete. -/
structure Slot where
  post : Bool := false
  urgent : Bool := false
  w0 : Nat := 0
  cmd : Nat := 0
  len : Nat := 0
  part : Nat := 0
  tag : Nat := 0
  w3 : Nat := 0
  status : Nat := 0
  ack : Bool := false
  begun : Bool := false
  done : Bool := false
  detail : Nat := 0
  resultLen : Nat := 0
  postDtb : Nat := 0
  doneDtb : Nat := 0
  payload : List Byte := []
deriving DecidableEq, Repr, Inhabited

/-- A function's state (R408 to R427, R456, R489). Event ring entries are 32-byte records. -/
structure FnState where
  slots : List (Nat × Slot) := []
  evqTail : Nat := 0
  evqHead : Nat := 0
  evqLost : Nat := 0
  ring : List (Nat × List Byte) := []
  discards : Nat := 0
  permit : Nat := 0xFF
  msixMask : Nat := 0xFFFFFFFFFFFFFFFF
  msixPend : Nat := 0
  msixTable : List (Nat × Nat) := []
  leaseDtb : Nat := 0
  leaseLive : Bool := false
  stamps : List (Nat × Nat) := []
deriving DecidableEq, Repr, Inhabited

/-! ## Clock, staging, firmware, power -/

/-- Time base (Table 13.8, R293 to R297). -/
structure TimeBase where
  dtb : Nat := 0
  copies : List (Nat × Nat) := []
  slewEdge : Nat := 0
  slewDir : Int := 0
  thetas : List (Nat × Int) := []
  offset : Int := 0
  locked : Bool := false
  lockCount : Nat := 0
  state : Nat := 0
  parent : Nat := 0
  ppsSeen : Bool := false
  ppsDtb : Nat := 0
  hops : Nat := 31
  unlocks : Nat := 0
  noParentSince : Nat := 0
  dtbLost : Bool := true
  position : Nat := 0
  timeCfg : Nat := 0
  parentPort : Option Nat := none
  /-- port, STATE and HOPS of the last heartbeat of each peer -/
  nbrs : List (Nat × Nat × Nat) := []
deriving DecidableEq, Repr, Inhabited

/-- A staged value (R9): a register's new value, a partition's record (Table 16.1), a shelf's part of one, an armed switch of the cyclic
table, or a value that a regrade plans (R482). -/
inductive Staged where
  | position (v : Nat)
  | timeCfg (v : Nat)
  | portCtl (p : Nat) (v : Nat)
  | powerCap (v : Nat)
  | leakShutdown (v : Nat)
  | part (record : List Byte)
  | ways (shelf : Nat) (record : List Byte)
  | cyclic (side : Nat)
  | equaliser (p k : Nat)
  | timing (shelf k : Nat)
deriving DecidableEq, Repr, Inhabited

/-- Commits (R477 to R480, Table 18.9). `waiting`: parts not yet applied, each with its unit (shelf k as k, port p as 8 + p);
`firstRec`: DTB and beat of the first unit to apply; `later`: some unit applied after acceptance; `cmd`: the command to complete
(function, slot, POST_DTB); `regrade`: the commit is a regrade's. -/
structure CommitState where
  staged : List Staged := []
  pending : Bool := false
  mixed : Bool := false
  waiting : List (Nat × Staged) := []
  gen : Nat := 0
  firstRec : List Byte := []
  later : Bool := false
  cmd : Option (Fn × Nat × Nat) := none
  regrade : Bool := false
deriving DecidableEq, Repr, Inhabited

/-- The cyclic schedule (Tables 16.2 and 16.10): each side as its bytes. -/
structure Cyclic where
  side : Nat := 0
  idle : Bool := true
  armed : Option Nat := none
  window : Nat := 0
  gen : Nat := 0
  hyperStart : Nat := 0
  s0 : List Byte := []
  s1 : List Byte := []
  windowStart : Nat := 0
  starting : Bool := false
deriving DecidableEq, Repr, Inhabited

/-- A journal entry (Table 19.8) without its SEQ, which follows from its place. `old` and `new` are the values themselves; a
value above 32 bytes is shown as a digest (R443). `sig`: number of the signature of a seal. -/
structure JEntry where
  dtb : Nat
  kind : Nat
  src : Nat := 3
  func : Nat := 0
  part : Option Nat := none
  discarded : Bool := false
  object : Nat := 0
  ext : Nat := 0
  old : List Byte := []
  new : List Byte := []
  sig : Nat := 0
deriving DecidableEq, Repr, Inhabited

/-- Firmware, security and the journal (chapter 19). `rootSvn`, `svcSvn`: the fused counters; `rootHead`, `svcHead`: headers of the images
whose root patch is in force and whose service firmware runs; `sft`: the special-function table image loaded at boot, empty for the one of
manufacture; `svcRestart`: a restart is in progress; `svcDown`: no service firmware runs until a device reset (R433, R434). -/
structure FwState where
  slotA : List Byte := []
  slotB : List Byte := []
  validA : Bool := true
  validB : Bool := true
  bootSlot : Nat := 0
  svcImage : Nat := 0
  rootHead : List Byte := []
  svcHead : List Byte := []
  sft : List Byte := []
  rootSvn : Nat := 0
  svcSvn : Nat := 0
  revoked : Nat := 0
  debugScope : Nat := 0
  debugSinceCold : Bool := false
  debugExpires : Nat := 0
  challenge : Option Nat := none
  svcRestarts : Nat := 0
  svcRestart : Bool := false
  svcDown : Bool := false
  journal : List JEntry := []
  oldest : Nat := 0
  baseH : List Byte := List.replicate 48 0
  unsealed : Nat := 0
  unsealedSince : Nat := 0
deriving DecidableEq, Repr, Inhabited

/-- Power, clock and ageing (chapters 21 and 23). `volts`: field voltages in tenths of a millivolt; `fieldRegrade`, `linkRegrade`: DTB of the
last parts. -/
structure PowerState where
  state : Nat := 0
  fatal : Bool := false
  /-- a device-fatal fault that awaits its reset: 0 none, else its DETAIL of R453 -/
  fatalCause : Nat := 0
  marginLow : Bool := false
  marginExhausted : Bool := false
  fieldMhz : Nat := 940
  volts : List Nat := [7000, 7000, 7000, 7000]
  endOfLife : Bool := false
  regradeDue : Bool := true
  fieldRegrade : Nat := 0
  linkRegrade : Nat := 0
  regrades : Nat := 0
  resetCause : Nat := 0
  lastFatal : Nat := 0
  pwrGood : Bool := true
  refStable : Bool := true
  off : Bool := false
  /-- blocks whose core resets wait for the exit from Frost (R476) -/
  coreResets : Nat := 0
  /-- END_OF_LIFE was set at the last device reset (R484) -/
  barred : Bool := false
deriving DecidableEq, Repr, Inhabited

/-- Sensors and cooling (Tables 23.9 and 23.11), temperatures in tenths of a degree. `fieldSteps`, `fieldBelow`: throttle step of each field
and evaluations below its bound (R508); `capSamples`: the power samples of the last 100 ms, newest
first; `capTick`: samples of the current millisecond; `capIn`: slots were removed in it; `capIdle`: whole milliseconds since slots were last
removed, to 100 (R499). -/
structure CoolState where
  vinMv : Nat := 0
  pinW : Nat := 0
  pinPeak : Nat := 0
  cap : Nat := 2800
  coolantIn : Int := 0
  coolantOut : Int := 0
  fieldTemp : List Int := [0, 0, 0, 0]
  stackTemp : List Int := [0, 0, 0, 0, 0, 0, 0, 0]
  ioDie : Int := 0
  vinLow : Bool := false
  vinHigh : Bool := false
  leak : Bool := false
  thermAlert : Bool := false
  capping : Bool := false
  leakShutdown : Bool := false
  vinDips : Nat := 0
  lastShutdown : Nat := 0
  capMs : Nat := 0
  fieldSteps : List Nat := [0, 0, 0, 0]
  fieldBelow : List Nat := [0, 0, 0, 0]
  leakSince : Option Nat := none
  capSamples : List Nat := []
  capTick : Nat := 0
  capIn : Bool := false
  capIdle : Nat := 100
deriving DecidableEq, Repr, Inhabited

/-- PCIe (R404 to R407, R469). -/
structure PcieState where
  linkA : Bool := false
  linkB : Bool := false
  held : Bool := false
  /-- generations of the two ports' routing tables, the DMA routes to partitions (R362, Table 16.4) -/
  genA : Nat := 0
  genB : Nat := 0
deriving DecidableEq, Repr, Inhabited

/-- What the module sent out (MODEL outputs), each oldest first: MSI-X messages (function, vector), writes into host memory (PCIe port, bus
address, bytes), flits (port, bytes); the last sideband answer; what the last register or shelf read answered. -/
structure Outputs where
  irqs : List (Fn × Nat) := []
  host : List (Nat × Nat × List Byte) := []
  side : List Byte := []
  flits : List (Nat × List Byte) := []
  readData : Nat := 0
  readStamp : Nat := 0
deriving DecidableEq, Repr, Inhabited

/-- The module. -/
structure State where
  pending : List Instr := []
  freeCtr : Nat := 0
  time : TimeBase := {}
  commit : CommitState := {}
  fns : List (Nat × FnState) := []
  pcie : PcieState := {}
  fw : FwState := {}
  parts : List (Nat × Partition) := []
  cores : List (Nat × Core) := []
  /-- event, plus core number, at which the cores not listed lost their state (R469, R475) -/
  coresLost : Option Nat := none
  /-- event since which the codebook and firn sides of the cores not listed are undefined (Table 21.2) -/
  tablesLost : Option Nat := none
  hbm : Mem := {}
  shelves : List (Nat × Shelf) := []
  watches : List Watch := []
  msgs : List Msg := []
  ports : List (Nat × Port) := []
  chans : List (Nat × Channel) := []
  groups : List (Nat × GroupState) := []
  cyc : Cyclic := {}
  pairs : List (Nat × Pair) := []
  power : PowerState := {}
  cool : CoolState := {}
  fields : List (Nat × Nat) := []
  /-- events of each field since its counters were last brought up to date, by field x 4096 + event -/
  fieldTally : List (Nat × Nat) := []
  out : Outputs := {}
deriving DecidableEq, Repr, Inhabited

/-- The journal after the first boot: the boot entry and its seal (R432, R443, R444; log entry 5). -/
def bootJournal : List JEntry := [{ dtb := 0, kind := 4 }, { dtb := 0, kind := 3 }]

/-- The module after a cold reset and boot, nothing posted (R8, R468, R469); powered and clocked. -/
def State.reset : State := { fw := { journal := bootJournal } }

end Sys2Proof.Machine
end

