-- ==== Sys2Proof/Machine/Image.lean ====
section
/-!
DEFINITION. Sys2Proof/Machine/Image.lean: the layout of a Horcel image (R107 to R117, R209, R211, R221, R301, R366) and of
the admission request (R241), read from their bytes.
-/

namespace Sys2Proof.Machine

/-- Set bits of a mask below position `n`. -/
def countBits (mask : Nat) : Nat → Nat
  | 0 => 0
  | n + 1 => countBits mask n + b2n (bit mask n)

/-- Position of the `k`-th set bit, searching `fuel` positions from `at_`. -/
def nthBit (mask k at_ : Nat) : Nat → Option Nat
  | 0 => none
  | f + 1 => if bit mask at_ then (if k = 0 then some at_ else nthBit mask (k - 1) (at_ + 1) f) else nthBit mask k (at_ + 1) f

/-! ## The admission request (Table 11.5) -/

namespace Req
def imageBytes (r : List Byte) : Nat := fld r 8 4
def blocks (r : List Byte) : Nat := fbits r 12 6 0
def modules (r : List Byte) : Nat := fbits r 12 21 8
def iterations (r : List Byte) : Nat := fld r 16 4
def witRate (r : List Byte) : Nat := fbits r 20 3 0
def logAll (r : List Byte) : Bool := fbits r 20 4 4 = 1
def seed (r : List Byte) : Nat := fld r 24 8
def witlog (r : List Byte) : Nat := fld r 32 4
def tsUsed (r : List Byte) : Nat := fld r 36 4
def hbmUsed (r : List Byte) : Nat := fld r 40 4
def widenTs (r : List Byte) : Nat := fld r 44 4
def widenHbm (r : List Byte) : Nat := fld r 48 4
def secondCopy (r : List Byte) : Nat := fld r 52 4
def poolPages (r : List Byte) : Nat := fld r 56 4
def stallMs (r : List Byte) : Nat := fbits r 60 15 0
def vcs (r : List Byte) : Nat := fbits r 60 19 16
def codecMask (r : List Byte) : Nat := fbits r 60 31 20
def slotMask (r : List Byte) : Nat := fld r 64 32
def plEntries (r : List Byte) : Nat := fld r 96 4
end Req

/-! ## The tile program -/

/-- Record size of a section kind (Table 5.2). -/
def secRecord : Nat → Nat
  | 0x01 => 16 | 0x02 => 48 | 0x03 => 48 | 0x04 => 16 | 0x05 => 16 | 0x06 => 64 | 0x07 => 32 | 0x08 => 16 | 0x09 => 32
  | 0x0A => 32 | 0x0B => 16 | _ => 0

/-- The directory entries of an image (R108). -/
def tpDir (b : List Byte) : List (List Byte) :=
  (List.range (fbits b 24 7 0)).map (fun i => sub b (fld b 28 4 + 16 * i) 16)

/-- The records of a section (R108); none where the image has no such section. -/
def tpRecords (b : List Byte) (kind : Nat) : List (List Byte) :=
  match (tpDir b).find? (fun e => fbits e 0 7 0 = kind) with
  | none => []
  | some e => (List.range (fld e 12 4)).map (fun i => sub b (fld e 4 4 + secRecord kind * i) (secRecord kind))

def tpBlocks (b : List Byte) : Nat := fbits b 32 6 0
def tpModules (b : List Byte) : Nat := fbits b 36 13 0
def tpLayers (b : List Byte) : Nat := fbits b 40 10 0
def tpSfVersion (b : List Byte) : Nat := fld b 44 4
def tpBeatsFixed (b : List Byte) : Nat := fld b 8 6
def tpBeatsPerIter (b : List Byte) : Nat := fld b 16 6

/-- The stream that the image's directory gives contract core `k` (Table 10.2). -/
def tpStream (b : List Byte) (k : Nat) : List Word128 :=
  match (tpRecords b 0x0B).find? (fun r => fbits r 0 15 0 = k) with
  | none => []
  | some r => (List.range (fld r 8 4)).map (fun i => BitVec.ofNat 128 (fld b (fld r 4 4 + 16 * i) 16))

/-- The initial descriptor table of contract core `k`: the 8 KiB after its stream (log entry 8). -/
def tpDescs (b : List Byte) (k : Nat) : List Byte :=
  match (tpRecords b 0x0B).find? (fun r => fbits r 0 15 0 = k) with
  | none => []
  | some r => sub b (fld r 4 4 + 16 * fld r 8 4) 8192

/-- A bucket's patches (Tables 5.9 and 5.10). -/
def bucketPatches (b r : List Byte) : List (List Byte) := ((tpRecords b 0x04).drop (fld r 40 4)).take (fld r 44 4)

/-- Value of a patched field at the bounds of bucket `n`: the LIMIT of the patch that names it, or the field's own value where no patch does
(R117, R128). `index` counts instructions from the start of the stream for TARGET 2 and above. -/
def fullField (b : List Byte) (n k target index v : Nat) : Nat :=
  let r := (tpRecords b 0x03).getD n []
  let i := if 2 ≤ target then index - fld r 4 4 / 16 else index
  match (bucketPatches b r).find? (fun q => fbits q 0 15 0 == k && fbits q 0 19 16 == target && fbits q 4 19 0 == i) with
  | some q => max v (fbits q 8 31 16)
  | none => v

/-! ## The beat plan (Table 10.1) -/

/-- Whether a record is of a unit. -/
def planOf (r : List Byte) (u : UnitId) : Bool := fbits r 16 15 0 = u.num && fbits r 16 19 16 = u.kind

/-- Whether beat `b` is among FIRST, FIRST + STEP and so on. -/
def planBase (r : List Byte) (b : Nat) : Bool :=
  let first := fld r 0 6
  let rep := fld r 8 4
  let step := fld r 12 4
  decide (first ≤ b) && decide (0 < rep) &&
    (if step = 0 then b == first else (b - first) % step == 0 && decide ((b - first) / step < rep))

/-- Whether a record lists beat `b`; with ITER its beats recur in every iteration (R211). -/
def planLists (r : List Byte) (perIter iters b : Nat) : Bool :=
  if fbits r 16 24 24 = 1 && perIter ≠ 0 then
    (List.range (min (b / perIter + 1) iters)).any (fun n => planBase r (b - n * perIter))
  else planBase r b

/-- Messages a unit expects in beat `b` (R211). -/
def planExpect (im : Image) (u : UnitId) (b : Nat) : Nat :=
  ((tpRecords im.bytes 0x0A).filter
      (fun r => planOf r u && planLists r (tpBeatsPerIter im.bytes) (Req.iterations im.req) b)).foldl
    (fun n r => n + fbits r 20 23 0) 0

/-- Whether some record names the unit (log entry 9). -/
def planHas (im : Image) (u : UnitId) : Bool := (tpRecords im.bytes 0x0A).any (fun r => planOf r u)

/-- WIN_M1 of a unit (R211). -/
def planWin (im : Image) (u : UnitId) : Nat :=
  match (tpRecords im.bytes 0x0A).find? (fun r => planOf r u) with
  | none => 0
  | some r => fbits r 16 23 20

/-! ## Group records (Table 14.1) -/

/-- The record of a contract group. -/
def groupRec (im : Image) (g : Nat) : Option (List Byte) := (tpRecords im.bytes 0x06).find? (fun r => fbits r 0 7 0 = g)

/-- Claim declaration of a counter (Table 10.6). -/
def claimRec (im : Image) (k : Nat) : Option (List Byte) := (tpRecords im.bytes 0x08).find? (fun r => fbits r 0 9 0 = k)

/-- First byte of a region of Table 11.6, 1 to 9, in the interleaved space; 10 gives the end of region 9. -/
def Image.region (im : Image) (k : Nat) : Nat := im.regions.getD k 0

/-- Byte address of the layer precision table entry of a layer (R247). -/
def Image.layerAt (im : Image) (l : Nat) : Nat := im.region 3 + 32 * l

/-- Byte address of the widen grant entry of a layer (R247). -/
def Image.grantAt (im : Image) (l : Nat) : Nat :=
  im.region 3 + 65536 * ceilDiv (32 * tpLayers im.bytes) 65536 + 32 * l

/-- Byte address of the monitor record of a layer: 16 bytes, past the layer precision table in its pinned 64 KiB (R97; log entry 123). -/
def Image.monAt (im : Image) (l : Nat) : Nat := im.region 3 + 32768 + 16 * l

/-- RES_LO of R245. -/
def Image.resLo (im : Image) : Nat := 0x100000 - 256 * im.widenTs

/-- NEED_TS of a layer, from the defaults section (Table 4.6). -/
def Image.needTs (im : Image) (l : Nat) : Nat := fbits ((tpRecords im.bytes 0x09).getD l []) 20 15 0

/-- NEED_HBM of a layer. -/
def Image.needHbm (im : Image) (l : Nat) : Nat := fld ((tpRecords im.bytes 0x09).getD l []) 24 4

/-- Largest NEED_TS of the image (R245). -/
def maxNeedTs (b : List Byte) : Nat := (tpRecords b 0x09).foldl (fun m r => max m (fbits r 20 15 0)) 0

/-- WIDE_WIN of R245. -/
def Image.wideWin (im : Image) : Nat := 0x100000 - 256 * maxNeedTs im.bytes

/-! ## Ranks (R299, R302) -/

/-- Digits and radices of a group record. -/
def grR1 (r : List Byte) : Nat := fbits r 24 2 0 + 1
def grR2 (r : List Byte) : Nat := fbits r 24 6 3 + 1
def grR3 (r : List Byte) : Nat := fbits r 24 14 8 + 1
/-- Members of a group. -/
def grN (r : List Byte) : Nat := grR1 r * grR2 r * grR3 r
/-- Rank of member `i` (R302). -/
def grRank (r : List Byte) (i : Nat) : Nat :=
  fbits r 20 13 0 + i % grR1 r * fbits r 28 15 0 + i / grR1 r % grR2 r * fbits r 28 31 16
    + i / (grR1 r * grR2 r) * fbits r 32 15 0

end Sys2Proof.Machine
end

