-- ==== Sys2Proof/Machine/Ops.lean ====
section
/-!
DEFINITION. Sys2Proof/Machine/Ops.lean: the named operations every family uses: access to the units, the journal and events,
partition geometry, HBM through the shelf caches, calving and watches, reports of faults, and issue at a core.
-/

namespace Sys2Proof.Machine

/-- What a meaning answers. -/
abbrev R := Host.Outcome State Fault Refusal

/-! ## The serial number (R4) -/

/-- The character of a value: digits 0 to 9, then A to Z. -/
def serialChar (v : Nat) : Nat := if v < 10 then 0x30 + v else 0x41 + (v - 10)
/-- Values v_1 to v_15: site and sequence are characters of any value, positions 3 and 4 the year's digits, 5 and 6 the ISO week's. -/
def serialValues : List Nat :=
  let c := fun i => Config.serialChoice i % 36
  let year := Config.serialChoice 3 % 100
  let week := 1 + Config.serialChoice 5 % 53
  [c 1, c 2, year / 10, year % 10, week / 10, week % 10] ++ (List.range 9).map (fun i => c (7 + i))
/-- The check value of fifteen values. -/
def checkValue (vs : List Nat) : Nat := (vs.zipIdx.foldl (fun a v => a + (v.2 + 1) * v.1) 0) % 36
/-- The sixteen characters. -/
def serialBytes : List Byte := (serialValues ++ [checkValue serialValues]).map (fun v => BitVec.ofNat 8 (serialChar v))
/-- The serial number as a register field of 128 bits. -/
def serialNo : Nat := leNat serialBytes

/-! ## Access to the units -/

/-- The two sides of a table of `n` bytes whose contents are undefined since event `k`. -/
def freeBank (n k : Nat) : Bank :=
  { s0 := (List.range n).map (Config.freeByte k), s1 := (List.range n).map (fun i => Config.freeByte k (n + i)) }
/-- A core that nothing has changed since reset, or since the loss of every core's state; boot has loaded both special-function sides
(R432). -/
def State.coreDefault (s : State) (c : Nat) : Core :=
  let x := match s.coresLost with | none => Core.reset | some k => Core.lostAt (k + c)
  let y := if s.fw.sft.isEmpty then x else { x with sf := { s0 := s.fw.sft, s1 := s.fw.sft } }
  match s.tablesLost with
  | none => y
  | some k => { y with cb := freeBank 8192 (k + c), firn := freeBank 2048 (k + Config.cores + c) }
def State.core (s : State) (c : Nat) : Core := Cells.get s.coreDefault s.cores c
def State.setCore (s : State) (c : Nat) (k : Core) : State := { s with cores := Cells.put s.coreDefault s.cores c k }
def State.part (s : State) (p : Nat) : Partition := Cells.get (fun _ => {}) s.parts p
def State.setPart (s : State) (p : Nat) (x : Partition) : State := { s with parts := Cells.put (fun _ => {}) s.parts p x }
def State.shelf (s : State) (k : Nat) : Shelf := Cells.get (fun _ => {}) s.shelves k
def State.setShelf (s : State) (k : Nat) (x : Shelf) : State := { s with shelves := Cells.put (fun _ => {}) s.shelves k x }
def State.port (s : State) (k : Nat) : Port := Cells.get (fun _ => {}) s.ports k
def State.setPort (s : State) (k : Nat) (x : Port) : State := { s with ports := Cells.put (fun _ => {}) s.ports k x }
def State.chan (s : State) (k : Nat) : Channel := Cells.get (fun _ => {}) s.chans k
def State.setChan (s : State) (k : Nat) (x : Channel) : State := { s with chans := Cells.put (fun _ => {}) s.chans k x }
def State.pair (s : State) (k : Nat) : Pair := Cells.get (fun _ => {}) s.pairs k
def State.setPair (s : State) (k : Nat) (x : Pair) : State := { s with pairs := Cells.put (fun _ => {}) s.pairs k x }

/-- Place of a function among the 34. -/
def fnKey (f : Fn) : Nat := f.port * 32 + f.idx
/-- Functions the module has (R404). -/
def fnOk (f : Fn) : Bool := decide (f.port < 2) && decide (f.idx ≤ 16)
/-- A physical function. -/
def isPf (f : Fn) : Bool := f.idx == 0
/-- A function after device reset: PERMIT 0xFF, 0xBE in a VF (R427). -/
def fnReset (key : Nat) : FnState := if key % 32 = 0 then {} else { permit := 0xBE }
def State.fn (s : State) (f : Fn) : FnState := Cells.get fnReset s.fns (fnKey f)
def State.setFn (s : State) (f : Fn) (x : FnState) : State := { s with fns := Cells.put fnReset s.fns (fnKey f) x }
def State.slot (s : State) (f : Fn) (n : Nat) : Slot := Cells.get (fun _ => {}) (s.fn f).slots n
def State.setSlot (s : State) (f : Fn) (n : Nat) (x : Slot) : State :=
  s.setFn f { s.fn f with slots := Cells.put (fun _ => {}) (s.fn f).slots n x }
/-- A group of a partition. -/
def State.grp (s : State) (p g : Nat) : GroupState := Cells.get (fun _ => {}) s.groups (p * 256 + g)
def State.setGrp (s : State) (p g : Nat) (x : GroupState) : State :=
  { s with groups := Cells.put (fun _ => {}) s.groups (p * 256 + g) x }
/-- Every function, in the order of R414: port A first, the PF before the VFs. -/
def allFns : List Fn := (List.range 34).map (fun i => ⟨i / 17, i % 17⟩)

/-- Applies a change to one unit. -/
def State.updCore (s : State) (c : Nat) (f : Core → Core) : State := s.setCore c (f (s.core c))
def State.updPart (s : State) (p : Nat) (f : Partition → Partition) : State := s.setPart p (f (s.part p))
def State.updShelf (s : State) (k : Nat) (f : Shelf → Shelf) : State := s.setShelf k (f (s.shelf k))
def State.updPort (s : State) (k : Nat) (f : Port → Port) : State := s.setPort k (f (s.port k))
def State.updChan (s : State) (k : Nat) (f : Channel → Channel) : State := s.setChan k (f (s.chan k))
def State.updPair (s : State) (k : Nat) (f : Pair → Pair) : State := s.setPair k (f (s.pair k))
def State.updJob (s : State) (p : Nat) (f : JobState → JobState) : State :=
  s.updPart p (fun x => { x with job := f x.job })
def State.updRcv (s : State) (p : Nat) (f : RecState → RecState) : State :=
  s.updPart p (fun x => { x with rcv := f x.rcv })
def State.updSeq (s : State) (c : Nat) (f : Seq → Seq) : State := s.updCore c (fun k => { k with seq := f k.seq })

/-! ## What the counters have to count (R493) -/

/-- Adds to an amount in a table. -/
def addAt (m : List (Nat × Nat)) (k n : Nat) : List (Nat × Nat) :=
  Cells.put (fun _ => 0) m k (Cells.get (fun _ => 0) m k + n)
/-- Amount of an event. -/
def amount (m : List (Nat × Nat)) (k : Nat) : Nat := Cells.get (fun _ => 0) m k
/-- Notes `n` of event `e` at a core. -/
def Core.note (k : Core) (e n : Nat) : Core := { k with tally := addAt k.tally e n }
/-- Notes `n` of event `e` at a shelf, for a partition. -/
def State.noteShelf (s : State) (k p e n : Nat) : State := s.updShelf k (fun x => { x with tally := addAt x.tally (e * 16 + p) n })
/-- Notes `n` of event `e` in a field. -/
def State.noteField (s : State) (f e n : Nat) : State := { s with fieldTally := addAt s.fieldTally (f * 4096 + e) n }

/-- Takes the next free value. -/
def State.tick (s : State) : State := { s with freeCtr := s.freeCtr + 1 }

/-- DTB. -/
def State.dtb (s : State) : Nat := s.time.dtb

/-! ## Partition geometry (R109, R353, R17) -/

/-- Block of a core (R353). -/
def blockOf (c : Nat) : Nat := c / 2500 * 25 + c % 2500 / 50 / 10 * 5 + c % 50 / 10
/-- Linear number of the core at row r, column q of block b. -/
def coreAt (b r q : Nat) : Nat := b / 25 * 2500 + (b % 25 / 5 * 10 + r) * 50 + b % 5 * 10 + q
/-- The partition that owns a core, if any: the one whose BLOCKS hold its block (R353). -/
def State.partOf (s : State) (c : Nat) : Option Nat :=
  (List.range 16).find? (fun p => (s.part p).geo.defined && bit (s.part p).geo.blocks (blockOf c))
/-- Contract core number of a core of a partition (R109). -/
def contractOf (g : Geometry) (c : Nat) : Nat :=
  countBits g.blocks (blockOf c) * 100 + c % 2500 / 50 % 10 * 10 + c % 10
/-- Linear number of contract core `k` (R109). -/
def coreOf (g : Geometry) (k : Nat) : Option Nat :=
  (nthBit g.blocks (k / 100) 0 100).map (fun b => coreAt b (k % 100 / 10) (k % 10))
/-- Cores of the partition's blocks, in contract order. -/
def geoCores (g : Geometry) : List Nat := (List.range (countBits g.blocks 100 * 100)).filterMap (coreOf g)
/-- Cores the image uses (R105). -/
def State.imageCores (s : State) (p : Nat) : List Nat :=
  match (s.part p).image with
  | none => []
  | some im => (List.range (tpBlocks im.bytes * 100)).filterMap (coreOf (s.part p).geo)
/-- Channel groups a partition owns. -/
def geoG (g : Geometry) : Nat := countBits g.groups 64
/-- Bytes of the interleaved space. -/
def geoBytes (g : Geometry) : Nat := geoG g * Config.groupBytes

/-- Flat physical address of a group and offset. -/
def flat (g off : Nat) : Nat := g * Config.groupBytes + off
/-- Ordinal J and offset to the flat address (R230). -/
def ordPhys (g : Geometry) (j off : Nat) : Option Nat :=
  if off < Config.groupBytes then (nthBit g.groups j 0 64).map (fun k => flat k off) else none
/-- Interleaved offset to the flat address (R231). -/
def interPhys (g : Geometry) (x : Nat) : Option Nat :=
  if geoG g = 0 then none else ordPhys g (x / 4096 % geoG g) (x / 4096 / geoG g * 4096 + x % 4096)
/-- Device address (R231): bits [39:0] of the ordinal form. -/
def devPhys (g : Geometry) (a : Nat) : Option Nat := ordPhys g (bits a 39 34) (bits a 33 0)
/-- Interleaved offset of a flat address of the partition. -/
def physInter (g : Geometry) (a : Nat) : Nat :=
  let off := a % Config.groupBytes
  (off / 4096 * geoG g + countBits g.groups (a / Config.groupBytes)) * 4096 + off % 4096
/-- Shelf of a flat address (R17). -/
def shelfOf (a : Nat) : Nat := a / Config.groupBytes / 8
/-- Physical line number within its shelf (R251). -/
def lineOf (a : Nat) : Nat := a / Config.groupBytes % 8 * 100663296 + a % Config.groupBytes / 128
/-- Pseudo-channel of the stack (R251). -/
def pcOf (a : Nat) : Nat := 8 * (a / Config.groupBytes % 8) + a % Config.groupBytes / 256 % 8
/-- Whether a flat address lies in a fenced pseudo-channel (R269). -/
def State.isFenced (s : State) (a : Nat) : Bool := bit (s.shelf (shelfOf a)).pcFenced (pcOf a)

/-- Whether a shelf serves no access: its stack is halted, or waits to cool after a reset (R271, R272). -/
def State.shelfHeld (s : State) (k : Nat) : Bool := (s.shelf k).halted || (s.shelf k).waitCool
/-- Whether the shelf of an interleaved offset serves no access. -/
def State.heldX (s : State) (p x : Nat) : Bool :=
  match interPhys (s.part p).geo x with | some a => s.shelfHeld (shelfOf a) | none => false
/-- Whether some shelf on which a partition holds a channel group serves no access. -/
def State.memHeld (s : State) (p : Nat) : Bool :=
  (List.range 8).any (fun k => s.shelfHeld k && bits (s.part p).geo.groups (8 * k + 7) (8 * k) != 0)
/-- Whether the byte at an interleaved offset lies in a fenced pseudo-channel (R269). -/
def State.fencedX (s : State) (p x : Nat) : Bool := match interPhys (s.part p).geo x with | some a => s.isFenced a | none => false

/-! ## Home banks and ways (R252, R255) -/

/-- Home bank of a line of a shelf. -/
def homeBank (l : Nat) : Nat := bits l 4 0 ^^^ bits l 9 5 ^^^ bits l 14 10
/-- Set of a line in its bank. -/
def homeSet (l : Nat) : Nat := l / 32 % Config.cacheSets
/-- Whether two lines compete for the ways of one set. -/
def sameSet (a b : Nat) : Bool := homeBank a == homeBank b && homeSet a == homeSet b
/-- Ways a partition owns on a shelf. -/
def Shelf.ownedWays (sh : Shelf) (p : Nat) : List Nat :=
  (List.range 16).filter (fun w => bit sh.wayValid w && bits sh.wayOwner (4 * w + 3) (4 * w) == p)
/-- A line freshly allocated in a way. -/
def freshLine (l w : Nat) : CacheLine :=
  { line := l, way := w, valid := List.replicate 128 false, dirty := List.replicate 128 false, bytes := List.replicate 128 0 }
/-- Flat address of byte 0 of a line of shelf `k`. -/
def lineBase (k l : Nat) : Nat := flat (8 * k + l / 100663296) (l % 100663296 * 128)

/-! ## HBM through the shelf caches (R253 to R255) -/

/-- The line of an address, where its shelf holds one. -/
def State.line (s : State) (a : Nat) : Option CacheLine := (s.shelf (shelfOf a)).cache.find? (fun l => l.line == lineOf a)
/-- One byte of HBM as its home bank serves it: the line's byte where it is dirty, else the stack's, with which a clean byte agrees. -/
def State.hb (s : State) (a : Nat) : Byte :=
  match s.line a with
  | none => s.hbm.read a
  | some l => if l.dirty.getD (a % 128) false then l.bytes.getD (a % 128) 0 else s.hbm.read a
/-- A line that takes a byte: valid and dirty there (R254). -/
def CacheLine.merge (l : CacheLine) (i : Nat) (b : Byte) : CacheLine :=
  { l with bytes := l.bytes.set i b, valid := l.valid.set i true, dirty := l.dirty.set i true }
/-- A line that is filled at a byte from the stack where it does not hold it (R254). -/
def CacheLine.fill (l : CacheLine) (i : Nat) (b : Byte) : CacheLine :=
  if l.valid.getD i false || l.dirty.getD i false then l else { l with bytes := l.bytes.set i b, valid := l.valid.set i true }
/-- Changes a line and makes it the most recently used. -/
def Shelf.useLine (sh : Shelf) (l : Nat) (f : CacheLine → CacheLine) : Shelf :=
  { sh with cache := (sh.cache.filter (fun e => e.line == l)).map f ++ sh.cache.filter (fun e => e.line != l) }
/-- A write at the home bank: merged into the line where it is present, else to the stack (R254, R255). -/
def State.putHb (s : State) (a : Nat) (b : Byte) : State :=
  match s.line a with
  | none => { s with hbm := s.hbm.write a b }
  | some _ => s.updShelf (shelfOf a) (fun sh => sh.useLine (lineOf a) (fun l => l.merge (a % 128) b))
/-- Writes a line's dirty bytes to the stack (R254). -/
def State.writeBack (s : State) (base : Nat) (l : CacheLine) : State :=
  { s with hbm := (List.range 128).foldl (fun m i => if l.dirty.getD i false then m.write (base + i) (l.bytes.getD i 0) else m) s.hbm }
/-- A line leaves its shelf's cache, its dirty bytes written to the stack (R254). -/
def State.evict (s : State) (k l : Nat) : State :=
  match (s.shelf k).cache.find? (fun e => e.line == l) with
  | none => s
  | some v => (s.writeBack (lineBase k l) v).updShelf k (fun x => { x with cache := x.cache.filter (fun e => e.line != l) })
/-- Allocates a line for a partition: a free owned way, else the least recently used unpinned line of its ways in the set (R255). The
state is unchanged where none can be replaced. -/
def State.allocLine (s : State) (p k l : Nat) : State :=
  let sh := s.shelf k
  let inSet := sh.cache.filter (fun e => sameSet e.line l)
  let owned := sh.ownedWays p
  match owned.find? (fun w => !inSet.any (fun e => e.way == w)) with
  | some w => s.updShelf k (fun x => { x with cache := freshLine l w :: x.cache })
  | none =>
    match (inSet.filter (fun e => owned.contains e.way && !e.pinned)).getLast? with
    | none => s
    | some v => (s.evict k v.line).updShelf k (fun x => { x with cache := freshLine l v.way :: x.cache })

/-- A request of class `cls` (0 latency-critical, 1 normal, 2 bulk, 3 sleet) has its line: classes 0 and 1 allocate one that is absent,
bulk and sleet requests never do (R255, R264). -/
def State.haveLine (s : State) (p cls a : Nat) : State :=
  if cls ≤ 1 && (s.line a).isNone then s.allocLine p (shelfOf a) (lineOf a) else s
/-- What the read of a byte does at its home bank: the line, where there is one, is filled at the byte (but by no sleet read) and is the most
recently used (R254, R255, R264). -/
def State.useByte (s : State) (p cls a : Nat) : State :=
  let s1 := s.haveLine p cls a
  if (s1.line a).isNone then s1 else
  s1.updShelf (shelfOf a) (fun sh => sh.useLine (lineOf a) (fun l => if cls = 3 then l else l.fill (a % 128) (s1.hbm.read a)))
/-- Reads of bytes at interleaved offsets of a partition pass their home banks. -/
def State.loadAt (s : State) (p cls : Nat) (xs : List Nat) : State :=
  xs.foldl (fun s x => match interPhys (s.part p).geo x with | some a => s.useByte p cls a | none => s) s
/-- A byte written by a request of class `cls`; in a fenced pseudo-channel it is discarded (R254, R255, R269). -/
def State.storeByte (s : State) (p cls a : Nat) (b : Byte) : State := if s.isFenced a then s else (s.haveLine p cls a).putHb a b

/-- `n` bytes of the interleaved space of a partition; bytes outside it read 0. -/
def State.readX (s : State) (g : Geometry) (x : Nat) : Nat → List Byte
  | 0 => []
  | n + 1 => (match interPhys g x with | some a => s.hb a | none => 0) :: s.readX g (x + 1) n
/-- Little-endian value in the interleaved space. -/
def State.leX (s : State) (g : Geometry) (x n : Nat) : Nat := leNat (s.readX g x n)

/-- The 32-bit word at a flat address. -/
def State.wordAt (s : State) (a : Nat) : Nat := leNat [s.hb a, s.hb (a + 1), s.hb (a + 2), s.hb (a + 3)]
/-- Whether a word meets a watch's comparison (Table 10.3). -/
def watchMet (w : Watch) (v : Nat) : Bool := if w.cmp = 0 then v == w.value else decide (w.value ≤ v)
/-- The home banks answer every watch whose word now meets its comparison (R216). -/
def State.answer (s : State) : State :=
  { s with watches := s.watches.map (fun w => { w with answered := w.answered || watchMet w (s.wordAt w.addr) }) }

/-! ## Calving (R464) -/

/-- Whether an interleaved offset lies in region 1, 3 or 6. -/
def Image.calved (im : Image) (x : Nat) : Bool :=
  [1, 3, 6].any (fun k => decide (im.region k ≤ x) && decide (x < im.region (k + 1)))
/-- 4 KiB granules the calf pool holds: from the end of region 9 to the end of the space. -/
def calfRoom (g : Geometry) (im : Image) : Nat := (geoBytes g - im.region 10) / 4096
/-- Granules of calf copies held. -/
def calfHeld (r : RecState) : Nat := r.points.foldl (fun n q => n + q.calf.length) 0

/-! ## Events and the journal (R419, R443) -/

/-- Sends vector `v` to a function: a masked vector sets its pending bit (R410). -/
def State.irq (s : State) (f : Fn) (v : Nat) : State :=
  if bit (s.fn f).msixMask v then s.setFn f { s.fn f with msixPend := setBit (s.fn f).msixPend v true }
  else { s with out := { s.out with irqs := s.out.irqs ++ [(f, v)] } }

/-- An event record (Table 18.4). -/
structure Event where
  status : Nat
  part : Nat := 0
  device : Bool := false
  srcKind : Nat := 5
  src : Nat := 0
  detail : Nat := 0
  beat : Nat := 0xFFFFFFFFFFFF
deriving DecidableEq, Repr, Inhabited

/-- Its 32 bytes, stamped with the DTB. -/
def Event.bytes (e : Event) (dtb : Nat) : List Byte :=
  leBytes 4 (e.status + e.part * 2 ^ 8 + b2n e.device * 2 ^ 12 + e.srcKind * 2 ^ 13 + e.src * 2 ^ 16)
    ++ leBytes 4 e.detail ++ leBytes 8 dtb ++ leBytes 8 e.beat ++ leBytes 8 0

/-- Writes one entry into a function's event ring, or counts it lost (R419). -/
def State.eventTo (s : State) (rec : List Byte) (f : Fn) : State :=
  let x := s.fn f
  if (x.evqTail + 1) % 256 = x.evqHead then s.setFn f { x with evqLost := satAdd 0xFFFF x.evqLost 1 }
  else (s.setFn f { x with ring := Cells.put (fun _ => []) x.ring x.evqTail rec, evqTail := (x.evqTail + 1) % 256 }).irq f 0

/-- The two physical functions. -/
def pfs : List Fn := [⟨0, 0⟩, ⟨1, 0⟩]

/-- The function that owns a partition (Table 16.1). -/
def ownerFn (g : Geometry) : Fn := ⟨b2n (bit g.owner 5), if bit g.owner 4 then 0 else bits g.owner 3 0 + 1⟩

/-- Sends an event: device-wide to both PFs, else to the partition's owner and both PFs (R419). -/
def State.event (s : State) (e : Event) : State :=
  let rec_ := e.bytes s.dtb
  let rcv := if e.device then pfs else
    let o := ownerFn (s.part e.part).geo
    if pfs.contains o then pfs else o :: pfs
  rcv.foldl (fun s f => s.eventTo rec_ f) s

/-- A value as the 32 bytes a journal entry holds, and whether it is a digest (R443). -/
def jValue (v : List Byte) : List Byte := if v.length ≤ 32 then sub v 0 32 else (sha384 v).take 32
/-- SRC and FUNC of a function. -/
def jFunc (f : Fn) : Nat := f.idx
/-- The 128 bytes of a journal entry (Table 19.8, R444). -/
def JEntry.bytes (e : JEntry) (seq : Nat) (sig : BitVec 768) : List Byte :=
  let wide := decide (32 < e.old.length) || decide (32 < e.new.length)
  leBytes 8 seq ++ leBytes 8 e.dtb
    ++ leBytes 4 (e.kind + e.src * 2 ^ 8 + e.func * 2 ^ 12 + (e.part.getD 0) * 2 ^ 17 + b2n e.part.isSome * 2 ^ 21
        + b2n wide * 2 ^ 22 + b2n e.discarded * 2 ^ 23)
    ++ leBytes 4 e.object ++ leBytes 4 e.ext ++ leBytes 4 0
    ++ (if e.kind = 3 then leBytes 96 sig.toNat else jValue e.old ++ jValue e.new ++ leBytes 32 0)

/-- The chain value after an entry (R444). -/
def jChain (h : List Byte) (e : JEntry) (seq : Nat) : List Byte :=
  if e.kind = 3 then sha384 (h ++ (e.bytes seq 0).take 32) else sha384 (h ++ (e.bytes seq 0).take 96)
/-- The chain value after a run of entries from sequence number `seq`. -/
def jChainAll (h : List Byte) (seq : Nat) : List JEntry → List Byte
  | [] => h
  | e :: r => jChainAll (jChain h e seq) (seq + 1) r
/-- NEXT_SEQ. -/
def FwState.nextSeq (f : FwState) : Nat := f.oldest + f.journal.length

/-- Entries of the flash area and of an erase block (Table 19.1, R445). -/
def journalCap : Nat := 1310720
def journalBlock : Nat := 1024
/-- Writes an entry to the flash area; a full ring first loses its oldest block, and a truncation entry carries the chain value (R445). -/
def FwState.append (f : FwState) (e : JEntry) : FwState :=
  let g := if f.journal.length + 2 ≤ journalCap then f else
    let h := jChainAll f.baseH f.oldest (f.journal.take journalBlock)
    { f with
      journal := f.journal.drop journalBlock ++ [{ dtb := e.dtb, kind := 5, old := h.take 32, new := h.drop 32 }]
      oldest := f.oldest + journalBlock
      baseH := h
      unsealed := f.unsealed + 1 }
  { g with journal := g.journal ++ [e] }

/-- Appends an entry; a non-seal entry counts as unsealed (R443, R444). -/
def State.journal (s : State) (e : JEntry) : State :=
  let f := s.fw.append { e with dtb := s.dtb }
  { s with fw := { f with unsealed := f.unsealed + 1, unsealedSince := if s.fw.unsealed = 0 then s.dtb else s.fw.unsealedSince } }
/-- Root firmware seals the journal (R444). -/
def State.seal (s : State) : State :=
  { s with freeCtr := s.freeCtr + 1,
           fw := { (s.fw.append { dtb := s.dtb, kind := 3, sig := s.freeCtr }) with unsealed := 0 } }
/-- Journals the effect of a command (KIND 1): object is the command code (R443). -/
def State.jCmd (s : State) (f : Fn) (cmd status : Nat) (p : Option Nat) (old new : List Byte) : State :=
  s.journal { dtb := 0, kind := 1, src := f.port, func := jFunc f, part := p, object := cmd, ext := 0xF + status * 16,
              old := old, new := new }
/-- Journals an event (KIND 2) that another chapter states is journalled. -/
def State.jEvent (s : State) (status : Nat) (object : Nat) (p : Option Nat) (new : List Byte) : State :=
  s.journal { dtb := 0, kind := 2, src := 3, part := p, object := object, ext := 0xF + status * 16, new := new }
/-- Journals a discarded write (R6, R409). -/
def State.jDiscard (s : State) (f : Fn) (bar off value : Nat) : State :=
  s.journal { dtb := 0, kind := 0, src := f.port, func := jFunc f, discarded := true, object := off, ext := bar,
              new := leBytes 8 value }

/-! ## Reports of faults (R219, R449, R450) -/

/-- Queues a contained fault's report to root firmware: status, DETAIL, beat, and source kind × 65,536 + number. -/
def State.report (s : State) (p status detail beat : Nat) (src : UnitId) : State :=
  s.updJob p (fun j => { j with reports := j.reports ++ [(status, detail, beat, src.kind * 65536 + src.num)] })

/-- Stops a core at its current instruction and records it (R219). -/
def State.stopCore (s : State) (c cause : Nat) (w : Nat) : State :=
  s.updSeq c (fun q => { q with run := 5, cause := cause, faultPc := 16 * q.pc, faultBeat := q.curBeat, faultInstr := w })

/-- A core's instruction does not take effect: the core stops and the partition's fault is reported (R219). -/
def State.coreFault (s : State) (p c cause status w : Nat) : State :=
  (s.stopCore c cause w).report p status cause (s.core c).seq.curBeat ⟨0, c⟩

/-- A schedule fault at a core: late, early or surplus message (R213, R219). -/
def State.schedFault (s : State) (p c cause beat : Nat) (src : UnitId) : State :=
  (s.updSeq c (fun q => { q with run := 5, cause := cause, srcKind := src.kind, src := src.num, faultBeat := beat })).report
    p Config.stScheduleFault cause beat src

/-- Counts a write or command discarded for a stale token (R454). -/
def State.fence (s : State) (p n : Nat) : State := s.updRcv p (fun r => { r with fenced := satAdd 0xFFFFFFFF r.fenced n })

/-! ## Calving and core stores -/

/-- Before the first core, collective or reducer write to a protected granule, its shelf copies the granule; a point whose copy
does not fit is given up (R464). -/
def State.calve (s : State) (p x : Nat) : State :=
  match (s.part p).image, (s.part p).rcv.points.reverse with
  | some im, q :: rest =>
    if im.calved x && !(q.calf.any (fun e => e.1 == x / 4096)) && !q.drained.contains (x / 4096) then
      if calfHeld (s.part p).rcv + 1 ≤ calfRoom (s.part p).geo im then
        let copy := s.readX (s.part p).geo (x / 4096 * 4096) 4096
        s.updRcv p (fun r => { r with points := (({ q with calf := q.calf ++ [(x / 4096, copy)] }) :: rest).reverse })
      else (s.updRcv p (fun r => { r with points := rest.reverse })).event { status := Config.stNoMemory, part := p }
    else s
  | _, _ => s

/-- Whether a byte is of a field of the layer precision table that nothing changes once the image is admitted: all but STATE, REQ and
WIDEN_PASS (R98). -/
def State.fixedAt (s : State) (p x : Nat) : Bool :=
  match (s.part p).image with
  | none => false
  | some im => decide (im.layerAt 0 ≤ x) && decide (x < im.layerAt (tpLayers im.bytes)) && decide (8 ≤ (x - im.layerAt 0) % 32)

/-- Stores bytes at interleaved places of a partition by requests of class `cls`; `lift`: by a core, the collective engine or a reducer,
whose writes lift protection (R464). -/
def State.storeBytes (s : State) (p cls : Nat) (lift : Bool) : List (Nat × Byte) → State
  | [] => s
  | e :: r => State.storeBytes (match interPhys (s.part p).geo e.1 with
      | some a => if s.fixedAt p e.1 then s else (if lift then s.calve p e.1 else s).storeByte p cls a e.2
      | none => s) p cls lift r
/-- A write that a fenced pseudo-channel discards is reported once (R269). -/
def State.fenceReport (s : State) (p beat : Nat) (xs : List Nat) : State :=
  match xs.find? (s.fencedX p) with
  | none => s
  | some x => s.report p Config.stHbmFenced 0 beat ⟨1, match interPhys (s.part p).geo x with | some a => shelfOf a | none => 0⟩
/-- Consecutive places of bytes. -/
def placesFrom (x : Nat) : List Byte → List (Nat × Byte)
  | [] => []
  | b :: r => (x, b) :: placesFrom (x + 1) r
/-- A whole write, fences reported. -/
def State.storeAt (s : State) (p cls : Nat) (lift : Bool) (x : Nat) (bs : List Byte) : State :=
  (s.storeBytes p cls lift (placesFrom x bs)).fenceReport p 0xFFFFFFFFFFFF ((List.range bs.length).map (x + ·))
/-- A store by a core, the collective engine or a reducer, of normal class. -/
def State.storeX (s : State) (p x : Nat) (bs : List Byte) : State := s.storeAt p 1 true x bs
/-- A write of normal class that lifts no protection: DMA, codec pairs, firmware's tables and ledgers. -/
def State.writeP (s : State) (p x : Nat) (bs : List Byte) : State := s.storeAt p 1 false x bs
/-- A write of bulk class: weights, freezes, what is calved and drained. -/
def State.writeX (s : State) (p x : Nat) (bs : List Byte) : State := s.storeAt p 2 false x bs

/-! ## Beat units other than cores (R210, R213, R28) -/

/-- Counts a message at a map of beats. -/
def addRecv (m : List (Nat × Nat)) (b : Nat) : List (Nat × Nat) :=
  Cells.put (fun _ => 0) m b (Cells.get (fun _ => 0) m b + 1)

/-- A unit leaves every beat whose expected messages have arrived, up to beat `top` (R28). -/
def unitAdvance (im : Image) (u : UnitId) (top : Nat) : Nat → BeatUnit → BeatUnit
  | 0, x => x
  | n + 1, x =>
    if x.cur < top && decide (planExpect im u x.cur ≤ Cells.get (fun _ => 0) x.recv x.cur) then
      unitAdvance im u top n { x with cur := x.cur + 1 }
    else x

/-- Place of a unit in a partition's unit table. -/
def UnitId.key (u : UnitId) : Nat := u.kind * 65536 + u.num
def JobState.unit (j : JobState) (u : UnitId) : BeatUnit := Cells.get (fun _ => {}) j.units u.key

/-- What a message of beat `b` meets at a unit that is not a core: none where it is accepted, else the FAULT cause code (R213). -/
def unitCheck (im : Image) (u : UnitId) (x : BeatUnit) (b : Nat) : Option Nat :=
  if b < x.cur then some (if planExpect im u b ≤ Cells.get (fun _ => 0) x.recv b then 4 else 2)
  else if x.cur + planWin im u < b then some 3
  else if planExpect im u b ≤ Cells.get (fun _ => 0) x.recv b then some 4
  else none

/-- Counts a message of beat `b` at a shelf, port or group unit, or answers the cause of the schedule fault. A unit that no record names
expects none (R211, R213). -/
def State.countUnit (s : State) (p : Nat) (u : UnitId) (b : Nat) : Except Nat State :=
  match (s.part p).image with
  | none => .ok s
  | some im =>
    let x := unitAdvance im u b (b + 1) ((s.part p).job.unit u)
    match unitCheck im u x b with
    | some cause => .error cause
    | none => .ok (s.updJob p (fun j => { j with units := Cells.put (fun _ => {}) j.units u.key { x with recv := addRecv x.recv b } }))

/-- Sends a message; it is in flight until its MESSAGE_ARRIVAL. -/
def State.send (s : State) (m : Msg) : State := { s with msgs := s.msgs ++ [m] }

/-! ## Local memories -/

def Core.mem (k : Core) (ob : Bool) : Mem := if ob then k.ob else k.ts
def Core.setMem (k : Core) (ob : Bool) (m : Mem) : Core := if ob then { k with ob := m } else { k with ts := m }
/-- Bytes of a local space (R226). -/
def spaceBytes (ob : Bool) : Nat := if ob then Config.obBytes else Config.tsBytes
/-- Whether two ranges of a local space overlap. -/
def overlaps (ob1 : Bool) (a1 n1 : Nat) (ob2 : Bool) (a2 n2 : Nat) : Bool :=
  ob1 == ob2 && decide (a1 < a2 + n2) && decide (a2 < a1 + n1)

/-- The bytes an outside write leaves, from those that stand there when it lands: its element mask merges it (R125). -/
def LocalWrite.merged (w : LocalWrite) (old : List Byte) : List Byte :=
  w.bytes.zipIdx.map (fun e =>
    let m := w.mask.getD e.2 0xFF
    (e.1 &&& m) ||| (old.getD e.2 0 &&& ~~~m))
/-- A write renews the check bits of every word it touches (R227; log entry 43). -/
def Core.renew (k : Core) (ob : Bool) (a n : Nat) : Core :=
  if k.upsets.isEmpty then k else { k with upsets := k.upsets.filter (fun u => !overlaps u.ob (8 * u.word) 8 ob a n) }
/-- Lands an outside write. -/
def Core.land (k : Core) (w : LocalWrite) : Core :=
  let m := k.mem w.ob
  (k.setMem w.ob (m.writeN w.addr (if w.mask.isEmpty then w.bytes else w.merged (m.readN w.addr w.bytes.length)))).renew
    w.ob w.addr w.bytes.length
/-- Low 8 bits of a table generation as a register shows them: 0 after a core reset until the table is rewritten (R147, R207, R364). -/
def Core.genShown (k : Core) (b : Bank) : Nat := if k.banksDue then 0 else b.gen % 256
/-- A descriptor of 32 bytes. -/
def Core.descriptor (k : Core) (i : Nat) : List Byte := k.desc.readN (32 * i) 32

/-- Whether a range meets one of a list of ranges. -/
def meetsAny (hs : List (Bool × Nat × Nat)) (ob : Bool) (a n : Nat) : Bool := hs.any (fun h => overlaps h.1 h.2.1 h.2.2 ob a n)
/-- Whether a witness holds bytes of a range: one that is queued, or a selected tile that has not finished (R91). -/
def Core.witRange (k : Core) (ob : Bool) (a n : Nat) : Bool :=
  k.mu.witq.any (fun q => q.parts.any (fun t => meetsAny t.held ob a n))
    || [k.mu.t0, k.mu.t1].any (fun t => t.wit && t.parts.any (fun p => meetsAny p.held ob a n))
/-- Whether a witness holds bytes that a write would change. -/
def Core.witHeld (k : Core) (w : LocalWrite) : Bool := k.witRange w.ob w.addr w.bytes.length
/-- Whether the executing matrix instruction has yet to read bytes that a write would change (R79). -/
def Core.readHeld (k : Core) (w : LocalWrite) : Bool := meetsAny k.mu.reading w.ob w.addr w.bytes.length
/-- Whether a write waits behind an earlier held write of the same bytes. -/
def Core.behindHeld (k : Core) (w : LocalWrite) : Bool :=
  k.mu.heldWrites.any (fun h => overlaps h.ob h.addr h.bytes.length w.ob w.addr w.bytes.length)
/-- HOLD of MU_STATE and WIT_HOLD of WIT_STATE: a write is held under R79, under R91 (Tables 3.8 and 4.5). -/
def Core.mtxHold (k : Core) : Bool := k.mu.heldWrites.any k.readHeld
def Core.witHoldRead (k : Core) : Bool := k.mu.witHold || k.mu.heldWrites.any k.witHeld

/-- Whether a write may not land yet: an instruction has yet to read the range, a witness holds it, or an earlier write of it is held. -/
def Core.holds (k : Core) (w : LocalWrite) : Bool := k.witHeld w || k.readHeld w || k.behindHeld w
/-- Holds a write. -/
def Core.hold (k : Core) (w : LocalWrite) : Core := { k with mu := { k.mu with heldWrites := k.mu.heldWrites ++ [w] } }
/-- An outside write lands, or is held, and the hold is noted (R79, R91). -/
def Core.landNew (k : Core) (w : LocalWrite) : Core :=
  if k.holds w then (k.hold w).note (if k.witHeld w then 0x061 else 0x060) 1 else k.land w
/-- Outside writes land or are held, in order. -/
def Core.landAll (k : Core) (ws : List LocalWrite) : Core := ws.foldl Core.landNew k
/-- Held writes are tried again: those that nothing holds any more land, in order. -/
def Core.release (k : Core) : Core :=
  k.mu.heldWrites.foldl (fun k w => if k.holds w then k.hold w else k.land w) { k with mu := { k.mu with heldWrites := [], reading := [] } }

/-! ## Issue at a core (R208 to R219) -/

/-- What an instruction meets when the core issues it. -/
structure Ctx where
  c : Nat
  p : Nat
  k : Nat
  im : Image
  w : Nat
  len : Nat

/-- What issuing comes to: the state after its effect, a wait (or a schedule fault, whose state is given whole), an illegal instruction, or another fault of the core with its
status (the state carries any effect that still happens). `spent`: done, by an instruction of extent or COUNT 0 (R127, R131). `jump`: done, the
sequencer's next instruction already set; `skip`: so, by an instruction of COUNT 0. -/
inductive Issue where
  | done (s : State)
  | spent (s : State)
  | jump (s : State)
  | skip (s : State)
  | wait (s : State)
  | illegal
  | fault (status : Nat) (s : State)

/-- Class, OP and, for class 0x4 OP 0x2, bit [16]. -/
structure Row where
  cls : Nat
  op : Nat
  sub : Nat := 0
deriving DecidableEq, Repr

/-- The row of Table 5.8 that a word names, if any (R114). -/
def rowOf (w : Nat) : Option Row :=
  let cls := bits w 3 0
  let op := bits w 7 4
  let top := match cls with | 1 => 5 | 2 => 3 | 3 => 6 | 4 => 7 | 5 => 5 | 6 => 5 | _ => 0
  if op < top then some ⟨cls, op, if cls = 4 && op = 2 then bits w 16 16 else 0⟩ else none

/-- Whether the fields issue: powered, out of reset, in Active, and no device-fatal fault awaits its reset (R24, R469, Table 21.3; log
entry 20). -/
def State.fieldsRun (s : State) : Bool := s.power.state == 0 && !s.power.off && s.power.fatalCause == 0 && !s.pcie.held

/-- Where a contract core's stream lies and how many instructions it has. -/
def Image.stream (im : Image) (k : Nat) : Nat × Nat := Cells.get (fun _ => (0, 0)) im.streams k
/-- Instruction `pc` of a core's stream, fetched from the partition's channel groups (R209; log entry 124). -/
def State.fetch (s : State) (p : Nat) (im : Image) (k pc : Nat) : Option Nat :=
  if pc < (im.stream k).2 then some (s.leX (s.part p).geo ((im.stream k).1 + 16 * pc) 16) else none

/-- The core's context: its partition's admitted image and the next word of its stream. None where the core has nothing to
issue (idle, halted, faulted, frozen, parked at a selection or freeze point, or past the end of its stream), or a shelf of its partition
serves no access (R271, R272; log entry 125). -/
def State.ctx (s : State) (c : Nat) : Option Ctx :=
  match s.partOf c with
  | none => none
  | some p =>
    match (s.part p).image with
    | none => none
    | some im =>
      let k := contractOf (s.part p).geo c
      let q := (s.core c).seq
      if s.fieldsRun && !s.memHeld p && 1 ≤ q.run && q.run ≤ 3 && !q.selectWait && !q.fpWait then
        match s.fetch p im k q.pc with
        | none => none
        | some w => some ⟨c, p, k, im, w, (im.stream k).2⟩
      else none

/-- Closes loops and variants that end at the next instruction (R217); `fuel` bounds the nesting. -/
def settle : Nat → Seq → Seq
  | 0, q => q
  | n + 1, q =>
    let loopEnd := match q.loops with | l :: _ => q.pc == l.start + l.body | [] => false
    let varEnd := match q.variants with | v :: _ => q.pc == v.stop | [] => false
    let inner := match q.loops, q.variants with | l :: _, v :: _ => decide (v.first ≤ l.start) | _, _ => true
    if loopEnd && (!varEnd || inner) then
      match q.loops with
      | l :: r => if l.iter + 1 < l.count then { q with pc := l.start, loops := { l with iter := l.iter + 1 } :: r }
                  else settle n { q with loops := r }
      | [] => q
    else if varEnd then
      match q.variants with
      | v :: r => settle n { q with pc := v.after, variants := r }
      | [] => q
    else q

/-- The core goes on to the next instruction. -/
def Seq.next (q : Seq) : Seq := settle 16 { q with pc := q.pc + 1, run := 1, stall := false, waitFrom := none }

/-- A core's instruction has issued: the next one follows, and the issue slot is noted as retired, or as wasted (Table 22.6). -/
def Core.retire (k : Core) (e : Nat) : Core := { k.note e 1 with seq := k.seq.next }
def State.advance (s : State) (c : Nat) : State := s.updCore c (fun k => k.retire 0x010)

/-- An instruction whose effect is done, of extent 0 or not. -/
def Issue.ofExtent (empty : Bool) (s : State) : Issue := if empty then .spent s else .done s

/-- Ends an issue. -/
def finish (x : Ctx) (s : State) : Issue → R
  | .done t => .next (t.advance x.c)
  | .spent t => .next (t.updCore x.c (fun k => k.retire 0x011))
  | .jump t => .next (t.updCore x.c (fun k => k.note 0x010 1))
  | .skip t => .next (t.updCore x.c (fun k => k.note 0x011 1))
  | .wait t => .next t
  | .illegal => .next (s.coreFault x.p x.c 1 Config.stIllegalInstr x.w)
  | .fault st t => .next (t.coreFault x.p x.c 0 st x.w)

/-- A row of the core microprogram: the core issues its next instruction where it is of this row. A reserved CLASS or OP is an
illegal instruction whichever row is asked for (R114). -/
def issue (row : Row) (c : Nat) (s : State) (body : Ctx → Issue) : R :=
  if Config.cores ≤ c then .fault .noSuchUnit else
  match s.ctx c with
  | none => .next s
  | some x =>
    match rowOf x.w with
    | none => finish x s .illegal
    | some r => if r = row then finish x s (body x) else .next s

/-- A core whose own access waits for a witness: the hold shows, and counts when it begins (R91). -/
def Core.waitWitness (k : Core) : Core :=
  if k.mu.witHold then k else ({ k with mu := { k.mu with witHold := true } }).note 0x061 1

/-- The upset words of a list of ranges that a read meets. -/
def Core.upsetIn (k : Core) (rs : List (Bool × Nat × Nat)) : List Upset := k.upsets.filter (fun u => meetsAny rs u.ob (8 * u.word) 8)
/-- A read delivers corrected words and counts them; the words stay as they are until they are written (R227, R229). -/
def Core.corrected (k : Core) (rs : List (Bool × Nat × Nat)) : Core :=
  if k.upsets.isEmpty then k else { k with eccCorr := satAdd 255 k.eccCorr (k.upsetIn rs).length }

/-- The first word of some ranges that has a double error. -/
def Core.badWord (k : Core) (rs : List (Bool × Nat × Nat)) : Option Upset := (k.upsetIn rs).find? (·.double)
/-- A core that has met a double error (R229). -/
def Core.uncorrected (k : Core) (u : Upset) : Core := { k with eccUncorr := true, ueAddr := 8 * u.word, ueOb := u.ob }

/-- The state after an instruction's accesses: corrected words are counted, written words renewed, and no own access is held any more. -/
def State.accessed (s : State) (c : Nat) (reads writes : List (Bool × Nat × Nat)) : State :=
  let k := s.core c
  if k.upsets.isEmpty && !k.mu.witHold then s else
  let k1 := writes.foldl (fun k w => k.renew w.1 w.2.1 w.2.2) (k.corrected reads)
  s.setCore c { k1 with mu := { k1.mu with witHold := false } }
/-- What an instruction's accesses to the local memories meet before its effect: bytes it writes that a witness still holds make it wait
(R91); a word it reads with a double error is not delivered, and the core faults with ST_MEM_UNCORRECTABLE (R227, R229). -/
def State.access (s : State) (x : Ctx) (reads writes : List (Bool × Nat × Nat)) (body : State → Issue) : Issue :=
  let k := s.core x.c
  if writes.any (fun w => k.witRange w.1 w.2.1 w.2.2) then .wait (s.setCore x.c k.waitWitness)
  else match k.badWord reads with
    | some u => .fault Config.stMemUncorrectable (s.setCore x.c (k.uncorrected u))
    | none => body (s.accessed x.c reads writes)

/-- Field [hi:lo] of the instruction. -/
def Ctx.f (x : Ctx) (hi lo : Nat) : Nat := bits x.w hi lo

/-- The layer of the innermost VARIANT whose wide stream runs (R246). -/
def Core.wideLayer (k : Core) : Option Nat := (k.seq.variants.find? (fun v => v.wide)).map (·.layer)

/-- The layer of the innermost VARIANT in force, 0 without one (log entry 10). -/
def Core.layer (k : Core) : Nat := match k.seq.variants with | v :: _ => v.layer | [] => 0

/-- OFF_TS of a layer, from the widen grant table (R247). -/
def State.offTs (s : State) (p : Nat) (im : Image) (l : Nat) : Nat :=
  bits (s.leX (s.part p).geo (im.grantAt l) 4) 20 0
/-- OFF_HBM of a layer. -/
def State.offHbm (s : State) (p : Nat) (im : Image) (l : Nat) : Nat := s.leX (s.part p).geo (im.grantAt l + 4) 4

/-- Relocates a tile-store address when a descriptor is copied at issue; none where the address is illegal (R246). -/
def State.tsAddr (s : State) (x : Ctx) (a : Nat) : Option Nat :=
  match (s.core x.c).wideLayer with
  | some l =>
    if a < x.im.wideWin then some a
    else if a - x.im.wideWin < 256 * x.im.needTs l then some (x.im.resLo + s.offTs x.p x.im l + (a - x.im.wideWin))
    else none
  | none => if a < min x.im.resLo x.im.wideWin then some a else none

/-- A local address: the operand buffer is never relocated (R246). -/
def State.locAddr (s : State) (x : Ctx) (ob : Bool) (a : Nat) : Option Nat := if ob then some a else s.tsAddr x a

end Sys2Proof.Machine
end

