-- ==== Sys2Proof/Machine/Clock.lean ====
section
/-!
DEFINITION. Sys2Proof/Machine/Clock.lean: one edge of the 100 MHz reference at the time base and at the local copies (R10, R26,
R295; log entry 1).
-/

namespace Sys2Proof.Machine

/-- Local copies of the DTB: 4 fields, 8 shelves, 4 link groups, the codec block, 2 PCIe blocks (R26). -/
def dtbCopies : List Nat := List.range 19
def TimeBase.copy (t : TimeBase) (k : Nat) : Nat := Cells.get (fun _ => 0) t.copies k

/-- What the time base adds on this edge (R295): 10, but 9 or 11 on the last edge of every 100 while it slews. -/
def TimeBase.increment (t : TimeBase) : Nat :=
  if t.slewEdge = 99 then (if t.slewDir < 0 then 9 else if 0 < t.slewDir then 11 else 10) else 10

/-- A copy between broadcasts moves with the time base; a copy that is ahead holds until it is caught up (R26). -/
def copyMove (old new copy : Nat) : Nat := if copy ≤ old then copy + (new - old) else max copy new

/-- One reference edge. -/
def TimeBase.edge (t : TimeBase) : TimeBase :=
  let new := (t.dtb + t.increment) % 2 ^ 64
  { t with dtb := new, slewEdge := (t.slewEdge + 1) % 100,
           copies := dtbCopies.foldl (fun m k => Cells.put (fun _ => 0) m k (copyMove t.dtb new (t.copy k))) [] }

/-- A bit of a local memory goes wrong; a second one in the same word makes a double error (R227). -/
def Core.strike (k : Core) (ob : Bool) (word : Nat) : Core :=
  { k with upsets := { ob := ob, word := word, double := k.upsets.any (fun u => u.ob == ob && u.word == word) } ::
      k.upsets.filter (fun u => !(u.ob == ob && u.word == word)) }

/-- What an edge brings to the local memories, where their field is powered (R227; log entry 43). -/
def State.strike (s : State) : State :=
  match Config.upset s.freeCtr with
  | none => s.tick
  | some (c, ob, w) => if s.power.state = 2 then s.tick else
    s.tick.updCore (c % Config.cores) (fun k => k.strike ob (w % (if ob then Config.obBytes / 8 else Config.tsBytes / 8)))

/-- One reference edge of the module; an unpowered module and one in Permafrost count no time (R296). -/
def State.edge (s : State) : State := if s.power.off || s.power.state = 3 then s else ({ s with time := s.time.edge } : State).strike

end Sys2Proof.Machine
end

