-- ==== Sys2Proof/Machine/Flags.lean ====
section
/-!
DEFINITION. Sys2Proof/Machine/Flags.lean: where conversion flags and saturations are reported (R53, R64, R143, R262, R423) and
the layer monitors (R97).
-/

namespace Sys2Proof.Machine

/-- Bits [2:0] of VFLAGS and of every sticky flag word: OVERFLOW, UNDERFLOW, INVALID. -/
def Fl.bits3 (f : Fl) : Nat := b2n f.ov + 2 * b2n f.uf + 4 * b2n f.inv

/-- Reports flags and saturations of a core's conversion: VFLAGS, SAT_COUNT saturating at 65,535, and the partition's
SAT_TOTAL (R143, R423). -/
def State.addFlags (s : State) (p c : Nat) (f : Fl) : State :=
  (s.updCore c (fun k => { k with ve := { k.ve with
    flags := { (k.ve.flags.or f) with sat := satAdd 0xFFFF k.ve.flags.sat f.sat } } })).updJob p
      (fun j => { j with satTotal := (j.satTotal + f.sat) % 2 ^ 64 })

/-- Reports a reducer rounding's flags to the partition that owns the region (R262). -/
def State.addRedFlags (s : State) (p : Nat) (f : Fl) : State :=
  s.updJob p (fun j => { j with redFlags := j.redFlags ||| f.bits3, satTotal := (j.satTotal + f.sat) % 2 ^ 64 })

/-! ## MIN and MAX at a home bank (Table 12.2) -/

/-- Orders FP32 codes with −0 below +0 (no NaN). -/
def fp32Key (a : Nat) : Int := if bit a 31 then -(a % 2 ^ 31 : Nat) - 1 else (a % 2 ^ 31 : Nat)

/-- MIN or MAX of two elements in a format: INT32 and FP32; any NaN gives the canonical NaN. -/
def minMax (isMax : Bool) (fmt a b : Nat) : Nat :=
  if fmt = 0x00 then
    if (ofFp32 a).isNan || (ofFp32 b).isNan then 0x7FC00000
    else if (decide (fp32Key a < fp32Key b)) == isMax then b else a
  else if (decide (toSigned 32 a < toSigned 32 b)) == isMax then b else a

/-! ## Layer monitors (R97) -/

/-- The larger of two non-negative FP32 codes, NaN above every number. -/
def monMax (a b : Nat) : Nat := max a b
/-- A layer's record. -/
def State.monOf (s : State) (p : Nat) (im : Image) (l : Nat) : Monitor :=
  let w := fun i => s.leX (s.part p).geo (im.monAt l + 4 * i) 4
  ⟨w 0, w 1, w 2, w 3 != 0⟩
/-- Merges a word into a word of a record with the shelf's FP32 MAX; the code 0 changes nothing. A count merges as the code of its bits. -/
def State.maxWord (s : State) (p x v : Nat) : State :=
  if v = 0 then s else
  let t := s.storeX p x (leBytes 4 (minMax true 0x00 (s.leX (s.part p).geo x 4) v))
  match interPhys (s.part p).geo x with | some a => t.noteShelf (shelfOf a) p 0x260 1 | none => t
/-- Merges a unit's values into a layer's monitors (R97; log entry 123). -/
def State.monitor (s : State) (p l sat carry dev : Nat) (ef : Bool) : State :=
  match (s.part p).image with
  | none => s
  | some im =>
    if tpLayers im.bytes ≤ l then s else
    (((s.maxWord p (im.monAt l) sat).maxWord p (im.monAt l + 4) carry).maxWord p (im.monAt l + 8) dev).maxWord p (im.monAt l + 12) (b2n ef)

end Sys2Proof.Machine
end

