-- ==== Sys2Proof/Machine/Operands.lean ====
section
/-!
DEFINITION. Sys2Proof/Machine/Operands.lean: matrix and vector operand descriptors, elements with their pads, scales and
codebooks, and output descriptors (R36, R40, R42, R69 to R73, R75, R122 to R125).
-/

namespace Sys2Proof.Machine

/-- An operand descriptor (Table 3.5) with BASE relocated. -/
structure OpDesc where
  base : Nat
  ob : Bool
  fmt : Nat
  colMajor : Bool
  padIsData : Bool
  rows : Nat
  cols : Nat
  stride : Nat
  pad : Nat
  padKind : Nat
  sliceLog2 : Nat
  cbFirst : Nat
  scaleBase : Nat
  scaleStride : Nat
deriving DecidableEq, Repr, Inhabited

/-- Reads the fields of Table 3.5. -/
def opFields (d : List Byte) : OpDesc :=
  { base := fbits d 0 19 0, ob := fbits d 0 20 20 = 1, fmt := fbits d 0 25 21, colMajor := fbits d 0 26 26 = 1,
    padIsData := fbits d 0 27 27 = 1, rows := fbits d 4 15 0, cols := fbits d 4 31 16, stride := fbits d 8 19 0,
    pad := fld d 12 4, padKind := fbits d 16 2 0, sliceLog2 := fbits d 16 7 3, cbFirst := fbits d 16 15 8,
    scaleBase := fbits d 20 19 0, scaleStride := fbits d 24 19 0 }

/-- Reserved bits of Table 3.5. -/
def opReserved (d : List Byte) : Bool :=
  fbits d 0 31 28 != 0 || fbits d 8 31 20 != 0 || fbits d 16 31 16 != 0 || fbits d 20 31 20 != 0 || fbits d 24 31 20 != 0
    || fld d 28 4 != 0

/-- Memory rows and elements per memory row (R70). -/
def OpDesc.memRows (o : OpDesc) : Nat := if o.colMajor then o.cols else o.rows
def OpDesc.memCols (o : OpDesc) : Nat := if o.colMajor then o.rows else o.cols
/-- Slices of a memory row (R70). -/
def OpDesc.rowSlices (o : OpDesc) : Nat := ceilDiv o.memCols (2 ^ o.sliceLog2)

/-- Whether `n` rows of `w` bytes at `stride` from `base` stay in `size` bytes. -/
def rangeOk (base n w stride size : Nat) : Bool := n == 0 || w == 0 || decide (base + (n - 1) * stride + w ≤ size)

/-- The encodings and limits that R68, R70, R71 and R122 give an operand descriptor. -/
def OpDesc.valid (o : OpDesc) : Bool :=
  fmtValid o.fmt && decide (o.padKind ≤ 4) && !(o.padKind == 1 && (isMx o.fmt || o.fmt == 0x18))
    && (if o.fmt = 0x18 then decide (5 ≤ o.sliceLog2) && decide (o.sliceLog2 ≤ 16)
          && decide (o.cbFirst + o.memRows * o.rowSlices ≤ 256)
        else o.sliceLog2 == 0)
    && rangeOk o.base o.memRows ((fmtWidth o.fmt * o.memCols + 7) / 8) o.stride (spaceBytes o.ob)
    && (!isMx o.fmt || rangeOk o.scaleBase o.memRows (ceilDiv o.memCols 32) o.scaleStride (spaceBytes o.ob))

/-- An operand descriptor as copied at issue: none where it makes the instruction illegal (R68, R246). -/
def State.operand (s : State) (x : Ctx) (i : Nat) : Option OpDesc :=
  let d := (s.core x.c).descriptor i
  let o := opFields d
  if opReserved d then none else
  match s.locAddr x o.ob o.base, s.locAddr x o.ob o.scaleBase with
  | some b, some sb => let o := { o with base := b, scaleBase := if isMx o.fmt then sb else o.scaleBase }
                       if o.valid then some o else none
  | some b, none => let o := { o with base := b }
                    if !isMx o.fmt && o.valid then some o else none
  | _, _ => none

/-- The pad value of R71 for a format. -/
def padValue (kind pad fmt : Nat) : Val :=
  match kind with
  | 0 => .zero
  | 1 => (decodeCode fmt (pad % 2 ^ fmtWidth fmt)).1
  | 2 => .inf true
  | 3 => .inf false
  | _ => ofFp32 pad

/-- Entry `e` of codebook `n` of a codebook side (R40, R42). -/
def cbEntry (side : List Byte) (n e : Nat) : Dy := (fp16.decode (fld side (32 * n + 2 * e) 2)).toDy

/-- The value of a stored code, with its scale or codebook (R34 to R42): value and INVALID. -/
def codeValue (cb : List Byte) (fmt code scale book : Nat) : Val × Bool :=
  if fmt = 0x18 then (Val.ofDy (cbEntry cb book (code % 16)), false)
  else if isMx fmt then
    match scaleExp scale with
    | none => (.nan, false)
    | some x => ((decodeCode fmt code).1.scale x, false)
  else decodeCode fmt code

/-- Exponent of a format's factor beyond its scale: an MXINT8 element counts in 64ths (R63). -/
def mxFactor (fmt : Nat) : Int := if fmt = 0x15 then -6 else 0

/-- An element's value as stored: with its scale, or its codebook entry, applied (R37, R40). A pad lane's value is used exactly (R71). -/
def Elem.value (e : Elem) : Val := if e.nanScale then .nan else if e.stored then e.v.scale e.exp else e.v

/-- Element (i, j) of an operand (R70, R71, R75, R124). -/
def Core.elem (k : Core) (o : OpDesc) (i j : Nat) : Elem :=
  if o.rows ≤ i || o.cols ≤ j then
    { v := padValue o.padKind o.pad o.fmt, exp := mxFactor o.fmt, stored := false, skip := !o.padIsData } else
  let r := if o.colMajor then j else i
  let c := if o.colMajor then i else j
  let w := fmtWidth o.fmt
  let m := k.mem o.ob
  let code := m.getBits (o.base + r * o.stride) (w * c) w
  let scale := if isMx o.fmt then (m.read (o.scaleBase + r * o.scaleStride + c / 32)).toNat else 0
  let book := if o.fmt = 0x18 then o.cbFirst + r * o.rowSlices + c / 2 ^ o.sliceLog2 else 0
  if isMx o.fmt then
    { v := (decodeCode o.fmt code).1.scale (-mxFactor o.fmt), exp := (scaleExp scale).getD 0 + mxFactor o.fmt,
      nanScale := (scaleExp scale).isNone }
  else
    let v := codeValue k.cb.active o.fmt code scale book
    { v := v.1, bad := v.2 }

/-- The local bytes an operand's extent covers: rows of (space, address, bytes), scales included. -/
def OpDesc.ranges (o : OpDesc) : List (Bool × Nat × Nat) :=
  (List.range o.memRows).map (fun r => (o.ob, o.base + r * o.stride, (fmtWidth o.fmt * o.memCols + 7) / 8))
    ++ (if isMx o.fmt then (List.range o.memRows).map
          (fun r => (o.ob, o.scaleBase + r * o.scaleStride, ceilDiv o.memCols 32)) else [])

/-- An output descriptor (Table 3.7) with BASE relocated. -/
structure OutDesc where
  base : Nat
  colMajor : Bool
  rows : Nat
  cols : Nat
  stride : Nat
  tensor : Nat
  ccw : Nat
  logRow0 : Nat
  logCol0 : Nat
  logCols : Nat
deriving DecidableEq, Repr, Inhabited

def outFields (d : List Byte) : OutDesc :=
  { base := fbits d 0 19 0, colMajor := fbits d 0 26 26 = 1, rows := fbits d 4 15 0, cols := fbits d 4 31 16,
    stride := fbits d 8 19 0, tensor := fld d 12 4, ccw := fbits d 16 15 0, logRow0 := fld d 20 4, logCol0 := fld d 24 4,
    logCols := fld d 28 4 }

def outReserved (d : List Byte) : Bool :=
  fbits d 0 25 20 != 0 || fbits d 0 31 27 != 0 || fbits d 8 31 20 != 0 || fbits d 16 31 16 != 0

/-- Whether the output's byte range, and its MX scale bytes, stay in the tile store (R68, R73). -/
def OutDesc.rangeValid (o : OutDesc) (dst : Nat) : Bool :=
  let mr := if o.colMajor then o.cols else o.rows
  let mc := if o.colMajor then o.rows else o.cols
  rangeOk o.base mr ((fmtWidth dst * mc + 7) / 8) o.stride Config.tsBytes
    && (!isMx dst || rangeOk (o.base + o.rows * o.stride) o.rows 1 1 Config.tsBytes)

/-- The limits of a matrix output that finishes with ROUTE 0 (R56, R68, R72, R73, R514). -/
def OutDesc.valid0 (o : OutDesc) (isInt_ : Bool) : Bool :=
  let c := Ccw.of o.ccw
  c.valid && c.src == (if isInt_ then 0x08 else 0x00) && c.dst != 0x18 && c.dst != 0x1F && o.rangeValid c.dst
    && (!isMx c.dst || (o.logCol0 % 32 == 0 && !o.colMajor))

/-- An output descriptor as copied at issue: its 32 bytes with BASE relocated. -/
def State.outDesc (s : State) (x : Ctx) (i : Nat) : Option (List Byte) :=
  let d := (s.core x.c).descriptor i
  if outReserved d then none else
  match s.tsAddr x (fbits d 0 19 0) with
  | none => none
  | some b => if b < Config.tsBytes then some (leBytes 4 (fld d 0 4 / 2 ^ 20 * 2 ^ 20 + b) ++ d.drop 4) else none

/-- Element index of R45 for a tile element (R72). -/
def OutDesc.index (o : OutDesc) (i j : Nat) : Nat := ((o.logRow0 + i) * o.logCols + o.logCol0 + j) % 2 ^ 64

/-- Byte address and bit offset of output element (i, j) in a format of width `w` (R36, R72). -/
def OutDesc.place (o : OutDesc) (w i j : Nat) : Nat × Nat :=
  if o.colMajor then (o.base + j * o.stride, w * i) else (o.base + i * o.stride, w * j)

/-- Writes an element's code into a tile store. -/
def Mem.putElem (m : Mem) (o : OutDesc) (dst i j code : Nat) : Mem :=
  let w := fmtWidth dst
  m.putBits (o.place w i j).1 (o.place w i j).2 w code

/-- One row of values converted into a target format under a control word (R44 to R54): codes, the block exponents of an MX
target, flags; `vs` pairs each value with its random bits. -/
def convRow (c : Ccw) (srcInt : Bool) (vs : List (Val × Nat)) : List (Nat × Bool) × List Nat × Fl :=
  if isMx c.dst then
    let bs := (chunksOf 32 (vs.length / 32 + 1) vs).map (mxEncode c.dst c.rnd c.sat c.scaleMode)
    ((bs.map (·.2.1)).flatten, bs.map (·.1), (bs.map (·.2.2)).foldl Fl.or {})
  else
    let cs := vs.map (fun v => convertPlain c.dst srcInt c.rnd c.sat v.2 v.1)
    (cs.map (fun q => (q.1, decide (0 < q.2.sat))), [], (cs.map (·.2)).foldl Fl.or {})

/-- Whether a claim slot still waits for its reply and patches one of these descriptors (R223). -/
def Core.claimWait (k : Core) (ds : List Nat) : Bool :=
  k.claims.any (fun q => q.pending && ((fbits q.patch 0 11 11 = 1 && ds.contains (fbits q.patch 0 7 0))
    || (fbits q.patch 16 11 11 = 1 && ds.contains (fbits q.patch 16 7 0))))

/-- Whether a tile that writes the tile store is still draining: later accesses of the core wait for it (R79). -/
def Core.draining (k : Core) : Bool :=
  [k.mu.t0, k.mu.t1].any (fun t => t.state == 2 && (match t.finish with | some f => f.route == 0 | none => false))

/-! ## The cyclic table and weights (R326, R357 to R361) -/

/-- A window entry of a side. -/
def winEntry (side : List Byte) (n : Nat) : List Byte := sub side (64 + 64 * n) 64
def cycWindows (side : List Byte) : Nat := fbits side 0 8 0
def winLen (side : List Byte) (n : Nat) : Nat := fbits (winEntry side n) 0 16 0
/-- The active side's bytes. -/
def Cyclic.active (c : Cyclic) : List Byte := if c.side = 0 then c.s0 else c.s1
/-- The side whose window is in force: the old one until the new side's first hyperperiod starts (R365). -/
def Cyclic.inForce (c : Cyclic) : List Byte := if (c.starting && !c.idle) != (c.side == 0) then c.s0 else c.s1
/-- H in µs. -/
def hyperUs (side : List Byte) : Nat := (List.range (cycWindows side)).foldl (fun a n => a + winLen side n) 0

/-- Weight in force of a partition, from the byte list at offset `off` of the window: 4 links, 20 reducers, 36 PCIe DMA (R326, R359, R361). -/
def State.winWeight (s : State) (off p : Nat) : Nat :=
  if s.cyc.idle then b2n (s.part p).geo.defined else
  let e := winEntry s.cyc.inForce s.cyc.window
  if fbits e 0 17 17 = 1 && fbits e 0 21 18 != p then 0 else fld e (off + p) 1
def State.linkWeight (s : State) (p : Nat) : Nat := s.winWeight 4 p
/-- Whether the window serves no reducer contribution, or no PCIe DMA, of a partition (R359). -/
def State.redShut (s : State) (p : Nat) : Bool := s.winWeight 20 p == 0
def State.dmaShut (s : State) (p : Nat) : Bool := s.winWeight 36 p == 0

/-- Whether the window in force grants a pair to a partition (R360). -/
def State.granted (s : State) (k : Nat) : Option Nat :=
  if s.cyc.idle then none else
  let g := bits (fld (winEntry s.cyc.inForce s.cyc.window) 52 8) (5 * k + 4) (5 * k)
  if bit g 4 then some (g % 16) else none

end Sys2Proof.Machine
end

