-- ==== Sys2Proof/Machine/LinkOps.lean ====
section
/-!
DEFINITION. Sys2Proof/Machine/LinkOps.lean: cabling, flits, sending and replay at a port (R274, R275, R278 to R286), and the
parent and lock rules of the time base (R293 to R297).
-/

namespace Sys2Proof.Machine

/-! ## Positions and the cabling rule (R274, Table 13.1) -/

/-- RACK, TRAY and SLOT of a packed position. -/
def posRack (v : Nat) : Nat := bits v 6 0
def posTray (v : Nat) : Nat := bits v 10 7
def posSlot (v : Nat) : Nat := bits v 13 11

/-- The peer that the rule names for port `p` of a module, and the port it arrives at. None where the port is left unconnected. -/
def cabled (p rack tray slot : Nat) : Option (Nat × Nat × Nat × Nat) :=
  if p ≤ 6 then some (rack, tray, (slot + p + 1) % 8, 6 - p)
  else if p ≤ 12 then
    let d : Int := [1, 2, 4, -4, -2, -1].getD (p - 7) 0
    let t := if Config.trays = 0 then tray else ((tray + d) % (Config.trays : Int)).toNat
    if t = tray then none else some (rack, t, slot, 19 - p)
  else
    let r := if Config.racks = 0 then rack else
      if p = 13 then (rack + 1) % Config.racks
      else if p = 14 then (rack + Config.racks - 1) % Config.racks
      else if Config.racks % 2 = 0 then (rack + Config.racks / 2) % Config.racks else rack
    if r = rack then none else some (r, tray, slot, if p = 13 then 14 else if p = 14 then 13 else 15)

/-- Whether a peer is the one the rule names. -/
def peerMatches (pos p : Nat) (q : PeerInfo) : Bool :=
  match cabled p (posRack pos) (posTray pos) (posSlot pos) with
  | none => false
  | some (r, t, s, a) => q.rack == r && q.tray == t && q.slot == s && q.port == a

/-- POSITION.SET. -/
def State.posSet (s : State) : Bool := bit s.time.position 14

/-- STATE of a trained port (R275): 2 UP_UNCHECKED, 3 UP, 5 MISCABLED. -/
def State.trainedState (s : State) (p : Nat) (q : PeerInfo) : Nat :=
  if !s.posSet || !q.set then 2 else if peerMatches s.time.position p q then 3 else 5

/-- A link event: device-wide, from port `p` (R419). -/
def State.linkEvent (s : State) (status p : Nat) : State :=
  s.event { status := status, device := true, srcKind := 2, src := p, detail := p }

/-- Whether the port carries heartbeats and control. -/
def Port.up (x : Port) : Bool := x.state == 2 || x.state == 3
/-- LINK_STATE.STATE as read: 6 while a live port runs at low rate (R292). -/
def Port.stateRead (x : Port) : Nat := if x.lowRate && x.up then 6 else x.state

def Port.vc (x : Port) (v : Nat) : VcState := Cells.get (fun _ => {}) x.vcs v
def Port.setVc (x : Port) (v : Nat) (c : VcState) : Port := { x with vcs := Cells.put (fun _ => {}) x.vcs v c }
def Port.updVc (x : Port) (v : Nat) (f : VcState → VcState) : Port := x.setVc v (f (x.vc v))

/-- Flit buffers a receiver reserves for a VC (Table 13.4). -/
def vcBuffers (v : Nat) : Nat := if v ≤ 7 then 192 else if v ≤ 9 then 128 else 256

/-- A port whose training has completed: the peer's data, credits and counts anew, epochs kept; the first training since a cold reset
stores the equaliser settings `eq` that it found (R275, R277, R282, R290). `low`: either end is in Frost (R292). -/
def Port.trained (x : Port) (st : Nat) (q : PeerInfo) (now eq : Nat) (low : Bool) : Port :=
  let y := (List.range 11).foldl (fun x v => x.updVc v (fun c =>
    { c with credits := vcBuffers v, freed := 0, withheld := 0, peerFreed := 0, inMsg := [], inOpen := false })) x
  { y with state := st, peer := some q, laneRev := q.laneRev, polInv := q.polInv % 16, txSeq := 0, rxSeq := 0, nak := false,
           replay := [], resend := [], acks := [], replayTries := 0, hbDue := now, hbRecv := now, departed := false,
           lowRate := low, eqFound := some (x.eqFound.getD eq) }

/-! ## Flits (Table 13.3) -/

/-- The 252 bytes before the CRC and the CRC. -/
def flitBytes (ftype vc : Nat) (first last : Bool) (creditVc credit : Nat) (nak : Bool) (seq epoch ack beat : Nat)
    (payload : List Byte) : List Byte :=
  let body := leBytes 4 (ftype + vc * 2 ^ 3 + b2n first * 2 ^ 7 + b2n last * 2 ^ 8 + payload.length * 2 ^ 9 + creditVc * 2 ^ 17
      + credit % 1024 * 2 ^ 21 + b2n nak * 2 ^ 31)
    ++ leBytes 4 (seq % 2 ^ 24 + epoch % 256 * 2 ^ 24) ++ leBytes 4 (ack % 2 ^ 24) ++ leBytes 8 (beat % 2 ^ 48) ++ sub payload 0 232
  body ++ leBytes 4 (crc32c body)

/-- Fields of a received flit. -/
structure Flit where
  ftype : Nat
  vc : Nat
  first : Bool
  last : Bool
  bytes : Nat
  creditVc : Nat
  credit : Nat
  nak : Bool
  seq : Nat
  epoch : Nat
  ack : Nat
  beat : Nat
  payload : List Byte
deriving DecidableEq, Repr

def flitOf (b : List Byte) : Flit :=
  { ftype := fbits b 0 2 0, vc := fbits b 0 6 3, first := fbits b 0 7 7 = 1, last := fbits b 0 8 8 = 1, bytes := fbits b 0 16 9,
    creditVc := fbits b 0 20 17, credit := fbits b 0 30 21, nak := fbits b 0 31 31 = 1, seq := fbits b 4 23 0, epoch := fbits b 4 31 24,
    ack := fbits b 8 23 0, beat := fld b 12 6, payload := sub b 20 (min 232 (fbits b 0 16 9)) }

/-- CRC, reserved encodings and reserved bits (R278, R279). -/
def flitOk (b : List Byte) : Bool :=
  b.length == 256 && fld b 252 4 == crc32c (b.take 252) && decide (fbits b 0 2 0 ≤ 4) && decide (fbits b 0 6 3 ≤ 10)
    && decide (fbits b 0 16 9 ≤ 232) && fbits b 8 31 24 == 0 && isZero b 18 2

/-- A flit leaves a port. -/
def State.emit (s : State) (p : Nat) (f : List Byte) : State := { s with out := { s.out with flits := s.out.flits ++ [(p, f)] } }

/-- A flit of the port's own making, carrying ACK, NAK and the next VC's credit. -/
def Port.build (x : Port) (ftype vc : Nat) (first last : Bool) (seq beat : Nat) (payload : List Byte) : List Byte :=
  flitBytes ftype vc first last x.creditVc (x.vc x.creditVc).freed x.nak seq (x.vc vc).epoch x.rxSeq beat payload
def Port.nextCredit (x : Port) : Port := { x with creditVc := (x.creditVc + 1) % 11 }

/-- Sends a flit that consumes a sequence number: it goes to the replay buffer (R285). -/
def State.sendSeq (s : State) (p ftype vc : Nat) (first last : Bool) (beat : Nat) (payload : List Byte) : State :=
  let x := s.port p
  let seq := (x.txSeq + 1) % 2 ^ 24
  let f := x.build ftype vc first last seq beat payload
  (s.setPort p { x.nextCredit with txSeq := seq, replay := x.replay ++ [(seq, f, s.dtb)] }).emit p f

/-- Sends the due heartbeat (R287, Table 13.5). -/
def State.sendHeartbeat (s : State) (p : Nat) : State :=
  let x := s.port p
  let pay := leBytes 8 s.dtb ++ leBytes 8 x.hbPrevTx ++ leBytes 8 x.hbPrevRx ++ leBytes 1 s.time.state ++ leBytes 1 s.time.hops
  let f := x.build 2 0 false false 0 0 (sub pay 0 232)
  (s.setPort p { x.nextCredit with hbDue := s.dtb + 1000 }).emit p f

/-- Puts a message on a VC (R280); it leaves flit by flit. -/
def State.sendMsg (s : State) (p vc beat : Nat) (payload : List Byte) : State :=
  s.updPort p (fun x => x.updVc vc (fun c => { c with out := c.out ++ [{ beat := beat, payload := payload }] }))

/-! ## Data flits (R280, R281, R285, R304) -/

/-- The channel index the peer uses for this module's channel `v` (R304). -/
def Port.wireVc (x : Port) (v : Nat) : Nat := if v ≤ 7 then (x.vc v).outMap.getD v else v
/-- This module's channel for an index the peer names. -/
def Port.ownVc (x : Port) (w : Nat) : Nat := ((List.range 11).find? (fun v => x.wireVc v == w)).getD w

/-- Whether a channel has data waiting and a credit for it. -/
def VcState.ready (c : VcState) : Bool := !c.out.isEmpty && decide (0 < c.credits)
/-- Whether the replay buffer of 4,096 flits takes another (R285). -/
def Port.room (x : Port) : Bool := decide (x.replay.length < 4096)

/-- Sends the next flit of the message at the head of channel `v`; every flit of it carries the EPOCH of its first (R280). -/
def State.sendData (s : State) (p v : Nat) : State :=
  let x := s.port p
  match (x.vc v).out with
  | [] => s
  | m :: rest =>
    let pay := (m.payload.drop m.sent).take 232
    let first := m.sent == 0
    let last := decide (m.payload.length ≤ m.sent + pay.length)
    let ep := if first then (x.vc v).epoch else m.epoch
    let seq := (x.txSeq + 1) % 2 ^ 24
    let f := flitBytes 1 (x.wireVc v) first last x.creditVc (x.vc x.creditVc).freed x.nak seq ep x.rxSeq m.beat pay
    let y := { x.nextCredit with txSeq := seq, replay := x.replay ++ [(seq, f, s.dtb)] }
    (s.setPort p (y.updVc v (fun c => { c with
      out := if last then rest else { m with sent := m.sent + pay.length, epoch := ep } :: rest
      credits := c.credits - 1
      unacked := if last then c.unacked ++ [(seq, none)] else c.unacked }))).emit p f

/-- Sends what a channel holds, flit by flit, while it has credit and the replay buffer room. -/
def State.drainVc (s : State) (p v : Nat) : Nat → State
  | 0 => s
  | n + 1 => if ((s.port p).vc v).ready && (s.port p).room then (s.sendData p v).drainVc p v n else s

/-- Starts a replay from ACK + 1 (R285). -/
def Port.startReplay (x : Port) : Port :=
  { x with resend := x.replay.map (·.1), replayTries := if x.replay.isEmpty then x.replayTries else x.replayTries + 1 }
/-- Restarts the 4 µs timer of the flits in the replay buffer (R285). -/
def Port.retime (x : Port) (now : Nat) : Port := { x with replay := x.replay.map (fun r => (r.1, r.2.1, now)) }

/-- Whether sequence number `a` is at or before `b`, modulo 2^24. -/
def seqLe (a b : Nat) : Bool := decide ((b + 2 ^ 24 - a) % 2 ^ 24 < 2 ^ 23)

/-- An ACK covers every flit up to it; a covered LAST flit starts its beat-acknowledgement deadline (R285, R289). -/
def Port.acked (x : Port) (ack now : Nat) : Port :=
  let rest := x.replay.filter (fun r => !seqLe r.1 ack)
  let y := { x with replay := rest, resend := x.resend.filter (fun r => !seqLe r ack),
                    replayTries := if rest.length < x.replay.length then 0 else x.replayTries }
  (List.range 11).foldl (fun y v => y.updVc v (fun c =>
    { c with unacked := c.unacked.map (fun u => if u.2.isNone && seqLe u.1 ack then (u.1, some (now + 3000)) else u) })) y

/-- Advances the epoch of the eight collective VCs. -/
def Port.newEpochs (x : Port) : Port := (List.range 8).foldl (fun x v => x.updVc v (fun c => { c with epoch := (c.epoch + 1) % 256 })) x

/-- Drops what a lost port holds: replay buffer, unsent messages, messages received in part. -/
def Port.drop (x : Port) : Port :=
  let y := (List.range 11).foldl (fun x v => x.updVc v (fun c =>
    { c with out := [], inMsg := [], inOpen := false, unacked := [], heldAcks := [] })) x
  { y with replay := [], resend := [], acks := [], nak := false, replayTries := 0 }

/-! ## The time exchange (R293 to R297) -/

/-- Insertion into a rising list. -/
def insertInt (a : Int) : List Int → List Int
  | [] => [a]
  | b :: r => if a ≤ b then a :: b :: r else b :: insertInt a r
/-- The median; of an even number, the mean of the middle two, rounded towards 0 (log entry 15). -/
def median (l : List Int) : Int :=
  let r := l.foldl (fun m a => insertInt a m) []
  if r.length % 2 = 1 then r.getD (r.length / 2) 0
  else ((r.getD (r.length / 2 - 1) 0) + r.getD (r.length / 2) 0).tdiv 2

/-- Whether the module is the grandmaster. -/
def TimeBase.isGm (t : TimeBase) : Bool := bit t.position 14 && t.position % 2 ^ 14 == t.timeCfg % 2 ^ 14
/-- TIME_CFG.PPS_EN. -/
def TimeBase.ppsEn (t : TimeBase) : Bool := bit t.timeCfg 14

/-- The parent port: the live port in UP whose peer reports the smallest HOPS below 31, the lowest port on a tie (R294). -/
def State.chooseParent (s : State) : Option (Nat × Nat) :=
  if !s.posSet || s.time.isGm then none else
  (List.range 16).foldl (fun best p =>
    match s.time.nbrs.find? (fun n => n.1 == p) with
    | some (_, _, h) => if (s.port p).state = 3 && h < 31 then
        (match best with | some (_, b) => if h < b then some (p, h) else best | none => some (p, h)) else best
    | none => best) none

/-- STATE of Table 13.8 from its causes. -/
def timeState (t : TimeBase) (hasParent : Bool) : Nat :=
  if !bit t.position 14 then 0
  else if t.isGm then (if t.ppsEn then 5 else 4)
  else if hasParent then (if t.locked then 2 else 1)
  else 3

/-- Re-derives parent, HOPS and STATE; a module without a parent notes since when. -/
def State.timeRefresh (s : State) : State :=
  let q := s.chooseParent
  let t := s.time
  let t := { t with
    parentPort := match q with | some (p, _) => some p | none => none
    parent := match q with | some (p, _) => p | none => t.parent
    hops := if t.isGm then 0 else match q with | some (_, h) => min 31 (h + 1) | none => 31
    noParentSince := if q.isSome then 0 else if t.parentPort.isSome then s.dtb else t.noParentSince }
  { s with time := { t with state := timeState t q.isSome } }

/-- Leaves LOCKED, once per departure (R297). -/
def State.unlock (s : State) : State :=
  if !s.time.locked then s else
  let s1 := { s with time := { s.time with locked := false, lockCount := 0, unlocks := satAdd 0xFFFF s.time.unlocks 1 } }
  s1.event { status := Config.stDtbUnlocked, device := true }

/-- Takes an offset from the parent (or the 1 PPS): the median of the last 8 steers the DTB and the lock state (R295, R297). -/
def State.offset (s : State) (theta : Int) : State :=
  let ts := (((0, theta) :: s.time.thetas).take 8)
  let m := median (ts.map (·.2))
  let near : Bool := decide (-3 ≤ m) && decide (m ≤ 3)
  let n := if near then min 8 (s.time.lockCount + 1) else 0
  let s1 := { s with time := { s.time with thetas := ts, offset := m, lockCount := n, locked := s.time.locked || n == 8,
                                           slewDir := if 1 ≤ m then -1 else if m ≤ -1 then 1 else 0 } }
  (if decide (m < -20) || decide (20 < m) then s1.unlock else s1).timeRefresh

end Sys2Proof.Machine
end

