-- ==== Sys2Proof/Machine/HostIf.lean ====
section
/-!
DEFINITION. Sys2Proof/Machine/HostIf.lean: completion of mailbox commands, writes into host memory and the parts of a commit
(R412, R413, R418, R477 to R480).
-/

namespace Sys2Proof.Machine

/-- A slot after completion (R413): the result overwrites the payload area, DONE is set and POST cleared in one write. -/
def Slot.finish (q : Slot) (status detail dtb : Nat) (result : List Byte) : Slot :=
  { q with payload := result ++ q.payload.drop result.length, resultLen := result.length, status := status, detail := detail % 65536,
           doneDtb := dtb, done := true, post := false }

/-- Completes the command in a slot: result, status, DONE, then the MSI-X message unless NO_IRQ (R413). -/
def State.complete (s : State) (f : Fn) (n status detail : Nat) (result : List Byte) : State :=
  let q := s.slot f n
  let s1 := s.setSlot f n (q.finish status detail s.dtb result)
  if bit q.w3 6 then s1 else s1.irq f (bits q.w3 5 0)

/-- Completes a command taken earlier; under a stale generation (the slot's POST_DTB) nothing is written (Table 20.2). -/
def State.completeIf (s : State) (f : Fn) (n post status detail : Nat) (result : List Byte) : State :=
  let q := s.slot f n
  if q.post && q.ack && !q.done && q.postDtb == post then s.complete f n status detail result else s

/-- Journals a command that changed a partition's tables, admission, slots or sessions (R443, Table 19.7; log entry 21). -/
def State.jDo (s : State) (f : Fn) (q : Slot) : State := s.jCmd f q.cmd Config.stOk (some q.part) [] (q.payload.take q.len)

/-- Writes bytes into the host memory of a function's port. -/
def State.toHost (s : State) (f : Fn) (a : Nat) (bs : List Byte) : State :=
  { s with out := { s.out with host := s.out.host ++ [(f.port, a, bs)] } }

/-- Whether hosts can reach the device: powered, out of reset, above Permafrost (Table 21.3). -/
def State.hostUp (s : State) : Bool := !s.power.off && !s.pcie.held && s.power.state != 3

/-! ## Partition records (Table 16.1) -/

namespace Pr
def part (r : List Byte) : Nat := fbits r 0 3 0
/-- Bits [9:4] of offset 0. -/
def owner (r : List Byte) : Nat := fbits r 0 9 4
def blocks (r : List Byte) : Nat := fld r 16 13 % 2 ^ 100
def groups (r : List Byte) : Nat := fld r 32 8
def ways (r : List Byte) : Nat := fld r 40 16
/-- Ways of shelf `k`. -/
def shelfWays (r : List Byte) (k : Nat) : Nat := fbits r (40 + 2 * k) 15 0
def reserved (r : List Byte) : Bool :=
  fbits r 0 31 10 != 0 || !isZero r 4 12 || fld r 16 16 / 2 ^ 100 != 0 || !isZero r 56 8
end Pr

/-- What a record defines. -/
def geoOfRecord (r : List Byte) : Geometry :=
  { defined := true, owner := Pr.owner r, blocks := Pr.blocks r, groups := Pr.groups r, ways := Pr.ways r }

/-- The record of a partition as it stands. -/
def Geometry.record (g : Geometry) (p : Nat) : List Byte :=
  leBytes 4 (p + g.owner * 16) ++ leBytes 12 0 ++ leBytes 16 g.blocks ++ leBytes 8 g.groups ++ leBytes 16 g.ways ++ leBytes 8 0

/-- The descriptors that a stream's MOVE_MESH instructions name. -/
def meshNames (st : List Word128) : List Nat := (st.filter (fun w => bits w.toNat 7 0 == 0x33)).map (fun w => bits w.toNat 15 8)

/-- Writes DST_CORE of contract core `k`'s mesh descriptors as linear core numbers, each from the stream record its STREAM_ID names; a
descriptor whose STREAM_ID has no record keeps its own (R218; log entry 31). -/
def Core.link (x : Core) (im : Image) (g : Geometry) (k : Nat) : Core :=
  (meshNames (tpStream im.bytes k)).foldl (fun x i =>
    match (tpRecords im.bytes 0x05).find? (fun r => fbits r 0 15 0 == x.desc.le (32 * i + 14) 2) with
    | none => x
    | some r => match coreOf g (fbits r 4 31 16) with
      | some c => { x with desc := x.desc.putBits (32 * i + 8) 0 14 c }
      | none => x) x

/-- A core as admission leaves it: its initial descriptor table and its beat window (log entry 8). -/
def Core.load (x : Core) (im : Image) (g : Geometry) (k : Nat) : Core :=
  Core.link { x with desc := Mem.ofBytes (tpDescs im.bytes k), seq := { x.seq with winM1 := planWin im ⟨0, k⟩ } } im g k

/-- Loads every contract core of an image. -/
def State.loadCores (s : State) (p : Nat) (im : Image) : State :=
  (List.range (tpBlocks im.bytes * 100)).foldl (fun s k =>
    match coreOf (s.part p).geo k with | some c => s.updCore c (fun x => x.load im (s.part p).geo k) | none => s) s

/-- A core that runs no image: idle, no claim open, its matrix unit empty. -/
def Core.vacate (k : Core) : Core :=
  { k with
    seq := {}
    claims := [{}, {}, {}, {}]
    mu := { deepReplays := k.mu.deepReplays, fails := k.mu.fails, lost := k.mu.lost }
    ready := 0 }
/-- The contract cores of an image that is not running take the places of other blocks: those of an image that has ended show there what they
showed, and no core that is left keeps anything of the image (R30, R356). -/
def State.moveCores (s : State) (old : State) (p : Nat) (im : Image) : State :=
  let g0 := (old.part p).geo
  let s1 := (geoCores g0).foldl (fun s c => s.updCore c Core.vacate) s
  if (old.part p).job.started then
    (List.range (tpBlocks im.bytes * 100)).foldl (fun s k =>
      match coreOf g0 k, coreOf (s.part p).geo k with
      | some a, some b => s.updSeq b (fun _ => (old.core a).seq)
      | _, _ => s) s1
  else s1.loadCores p im

/-- The DMA routes of a PCIe port are switched: their table's generation advances (R362, Table 16.4). -/
def PcieState.route (x : PcieState) (port : Nat) : PcieState :=
  if port = 0 then { x with genA := (x.genA + 1) % 2 ^ 32 } else { x with genB := (x.genB + 1) % 2 ^ 32 }
/-- The routes to a partition's memory change at its owner's port. -/
def State.reroute (s : State) (g : Geometry) : State := if g.defined then { s with pcie := s.pcie.route (ownerFn g).port } else s

/-- Writes a partition's isolation registers; a new holder of the ownership lease carries a new generation (R354, R455). Contract cores of
an image that is not running map onto new blocks (R356). -/
def State.applyPart (s : State) (r : List Byte) : State :=
  let old := s.part (Pr.part r)
  let s1 := s.updPart (Pr.part r) (fun x =>
    let y : Geometry := {
      defined := true
      owner := Pr.owner r
      blocks := Pr.blocks r
      groups := Pr.groups r
      ways := Pr.ways r
      ownGen := if x.geo.defined && x.geo.owner != Pr.owner r then (x.geo.ownGen + 1) % 65536 else x.geo.ownGen }
    { x with geo := y }) |>.reroute (geoOfRecord r)
  match old.image with
  | some im => if old.geo.blocks != Pr.blocks r then s1.moveCores s (Pr.part r) im else s1
  | none => s1

/-- Gives a shelf's ways as a mask to a partition; a line in a way that changes hands is written back and leaves (R252, R255). -/
def State.applyWays (s : State) (k p mask : Nat) : State :=
  let sh := s.shelf k
  let had := fun w => bit sh.wayValid w && bits sh.wayOwner (4 * w + 3) (4 * w) == p
  let moved := fun w => bit mask w != had w
  let s1 := (sh.cache.filter (fun l => moved l.way)).foldl (fun s l => s.writeBack (lineBase k l.line) l) s
  s1.updShelf k (fun x => (List.range 16).foldl (fun x w =>
    if !moved w then x else
    let o := x.wayOwner - bits x.wayOwner (4 * w + 3) (4 * w) * 2 ^ (4 * w)
    { x with
      wayValid := setBit x.wayValid w (bit mask w)
      wayOwner := if bit mask w then o + p * 2 ^ (4 * w) else o }) { x with cache := x.cache.filter (fun l => !moved l.way) })

/-! ## Commits (R477 to R480) -/

/-- The unit that a staged value waits for: shelf k as k, port p as 8 + p. None: it applies at acceptance. -/
def Staged.unit : Staged → Option Nat
  | .ways k _ => some k
  | .timing k _ => some k
  | .equaliser p _ => some (8 + p)
  | _ => none

/-- Whether a unit serves the beat plan of a running image. -/
def State.serves (s : State) (u : Nat) : Bool :=
  (List.range 16).any (fun p => (s.part p).job.running && match (s.part p).image with
    | some im => planHas im (if u < 8 then ⟨1, u⟩ else ⟨2, u - 8⟩)
    | none => false)

/-- Ports check their peers against a new position (R275). -/
def State.recheckPorts (s : State) : State :=
  (List.range 16).foldl (fun s p =>
    let x := s.port p
    match x.peer with
    | none => s
    | some q =>
      if x.state != 2 && x.state != 3 && x.state != 5 then s else
      let st := s.trainedState p q
      let s1 := s.setPort p { x with state := st }
      if st = 5 && x.state != 5 then (s1.jEvent Config.stLinkMiscabled p none []).linkEvent Config.stLinkMiscabled p else s1) s

/-- Applies one value. -/
def State.applyStaged (s : State) : Staged → State
  | .position v => ({ s with time := { s.time with position := v } }).recheckPorts.timeRefresh
  | .timeCfg v => ({ s with time := { s.time with timeCfg := v } }).timeRefresh
  | .portCtl p v =>
    let x := s.port p
    let y : Port := if v = 0 then { x with disable := false, state := if x.cblHigh then 0 else 1 }
      else { x.drop with disable := true, state := 7, peer := none }
    ({ (s.setPort p y) with time := { s.time with nbrs := Cells.erase s.time.nbrs p } }).timeRefresh
  | .powerCap v => { s with cool := { s.cool with cap := v } }
  | .leakShutdown v => { s with cool := { s.cool with leakShutdown := v == 1 } }
  | .part r => s.applyPart r
  | .ways k r => s.applyWays k (Pr.part r) (Pr.shelfWays r k)
  | .cyclic side =>
    if s.cyc.idle then { s with cyc := { s.cyc with side := side, gen := (s.cyc.gen + 1) % 2 ^ 32, starting := true, windowStart := s.dtb } }
    else { s with cyc := { s.cyc with armed := some side } }
  | .equaliser p k => s.updPort p (fun x => { x with eqPlan := k, relocks := x.relocks + 1, resend := x.replay.map (fun r => r.1) })
  | .timing k n => s.updShelf k (fun x => { x with timingPlan := n })

/-- The last unit has applied: a mixed window closes, COMMIT_GEN advances and the command completes (R478, R479); a regrade's commit is
reported (R482). -/
def State.closeCommit (s : State) (last : List Byte) : State :=
  let c := s.commit
  let s1 := if c.later then
      s.journal { dtb := 0, kind := 2, src := 4, object := 0x0010, ext := 0xF, old := c.firstRec, new := last }
    else s
  let s2 : State := { s1 with commit := { s1.commit with pending := false, mixed := false, later := false, gen := (c.gen + 1) % 2 ^ 32 } }
  let s3 := if c.regrade then
      ({ s2 with power := { s2.power with linkRegrade := s.dtb, regrades := satAdd 0xFFFF s2.power.regrades 1 } }).event
        { status := Config.stOk, device := true, detail := 2 }
    else s2
  match c.cmd with
  | some (f, n, post) => s3.completeIf f n post Config.stOk 0 []
  | none => s3

/-- DTB and beat at which a unit applies; beat 2^48 − 1 at acceptance or when it is released. -/
def State.applyRec (s : State) (beat : Nat) : List Byte := leBytes 8 s.dtb ++ leBytes 6 beat

/-- Applies the waiting parts of the units that `due` names; the commit closes with its last part. -/
def State.applyDue (s : State) (due : Nat → Bool) (beat : Nat) : State :=
  let parts := s.commit.waiting.filter (fun e => due e.1)
  if parts.isEmpty then s else
  let rest := s.commit.waiting.filter (fun e => !due e.1)
  let here := s.applyRec beat
  let s1 := parts.foldl (fun s e => s.applyStaged e.2) s
  let s2 : State := { s1 with commit := { s1.commit with
    waiting := rest
    mixed := !rest.isEmpty
    firstRec := if s1.commit.firstRec.isEmpty then here else s1.commit.firstRec } }
  if rest.isEmpty then s2.closeCommit here else s2

/-- A shelf or port has received every message of its beat `b` of a partition's plan: its beat boundary (R212, R478). -/
def State.boundary (s : State) (p : Nat) (u : UnitId) : State :=
  match (s.part p).image with
  | none => s
  | some im =>
    let x := (s.part p).job.unit u
    if (u.kind == 1 || u.kind == 2) && planHas im u && decide (planExpect im u x.cur ≤ Cells.get (fun _ => 0) x.recv x.cur) then
      s.applyDue (fun k => k == (if u.kind = 1 then u.num else 8 + u.num)) x.cur
    else s

/-- Units that no running image's plan needs any more apply at once (R480). -/
def State.releaseUnits (s : State) : State := s.applyDue (fun u => !s.serves u) 0xFFFFFFFFFFFF

/-- The committed value that a staged one replaces, as a value of the same kind. -/
def State.committed (s : State) : Staged → Staged
  | .position _ => .position s.time.position
  | .timeCfg _ => .timeCfg s.time.timeCfg
  | .portCtl p _ => .portCtl p (b2n (s.port p).disable)
  | .powerCap _ => .powerCap s.cool.cap
  | .leakShutdown _ => .leakShutdown (b2n s.cool.leakShutdown)
  | .part r => .part ((s.part (Pr.part r)).geo.record (Pr.part r))
  | .ways k r => .ways k r
  | .cyclic side => .cyclic (1 - side)
  | .equaliser p _ => .equaliser p (s.port p).eqPlan
  | .timing k _ => .timing k (s.shelf k).timingPlan

/-- The fields of a staged value, each with its KIND, OBJECT, BAR and bytes: register fields one by one (R479). -/
def Staged.fields : Staged → List (Nat × Nat × Nat × List Byte)
  | .position v => [(0, 0x81008, 4, leBytes 1 (posRack v)), (0, 0x81008, 4, leBytes 1 (posTray v)), (0, 0x81008, 4, leBytes 1 (posSlot v)),
      (0, 0x81008, 4, leBytes 1 (bits v 14 14))]
  | .timeCfg v => [(0, 0x8100C, 4, leBytes 2 (v % 2 ^ 14)), (0, 0x8100C, 4, leBytes 1 (bits v 14 14))]
  | .portCtl p v => [(0, 0x80030 + 0x100 * p, 4, leBytes 1 v)]
  | .powerCap v => [(0, 0x20108, 0, leBytes 2 v)]
  | .leakShutdown v => [(0, 0x20110, 0, leBytes 1 v)]
  | .part r => [(1, 0x0101, 0xF, r)]
  | .ways _ _ => []
  | .cyclic side => [(1, 0x0206, 0xF, leBytes 1 side)]
  | .equaliser p k => [(1, 0x0014, 0xF, leBytes 8 (p + k * 2 ^ 32))]
  | .timing k n => [(1, 0x0014, 0xF, leBytes 8 (16 + k + n * 2 ^ 32))]

/-- One journal entry per changed field, with the DTB of acceptance; a partition's first record is journalled as its creation. -/
def State.journalStaged (s : State) (src func : Nat) (v : Staged) : State :=
  let old := (s.committed v).fields
  v.fields.zipIdx.foldl (fun s e =>
    let o := match old[e.2]? with | some q => q.2.2.2 | none => []
    if o = e.1.2.2.2 then s else
    let fresh := match v with | .part r => !(s.part (Pr.part r)).geo.defined | _ => false
    s.journal { dtb := 0, kind := e.1.1, src := src, func := func, part := match v with | .part r => some (Pr.part r) | _ => none,
                object := if fresh then 0x0100 else e.1.2.1, ext := e.1.2.2.1, old := if fresh then [] else o, new := e.1.2.2.2 }) s

/-- The parts of a value, unit by unit: a partition's record is also written at each shelf whose ways it changes. -/
def State.partsOf (s : State) (v : Staged) : List Staged :=
  match v with
  | .part r => .part r :: ((List.range 8).filter (fun k =>
      bits (s.part (Pr.part r)).geo.ways (16 * k + 15) (16 * k) != Pr.shelfWays r k)).map (fun k => .ways k r)
  | v => [v]

/-- An accepted commit: changed fields are journalled; a part of a unit that serves a running image's plan waits for its beat boundary,
every other part applies (R478, R479). -/
def State.accept (s : State) (src func : Nat) (snap : List Staged) (cmd : Option (Fn × Nat × Nat)) (regrade : Bool) : State :=
  let changed := snap.filter (fun v => s.committed v != v)
  let s1 := changed.foldl (fun s v => s.journalStaged src func v) s
  let parts := (changed.map s.partsOf).flatten
  let waits : Staged → Bool := fun v => match v.unit with | some u => s.serves u | none => false
  let later := (parts.filter waits).map (fun v => (v.unit.getD 0, v))
  let now := parts.filter (fun v => !waits v)
  let s2 := now.foldl (fun s v => s.applyStaged v) s1
  let s3 : State := { s2 with commit := { s2.commit with
    pending := true
    waiting := later
    later := !later.isEmpty
    mixed := !later.isEmpty && !now.isEmpty
    firstRec := if now.isEmpty then [] else s.applyRec 0xFFFFFFFFFFFF
    cmd := cmd
    regrade := regrade } }
  if later.isEmpty then s3.closeCommit (s.applyRec 0xFFFFFFFFFFFF) else s3

end Sys2Proof.Machine
end

