-- ==== Sys2Proof/Machine/Matrix.lean ====
section
/-!
DEFINITION. Sys2Proof/Machine/Matrix.lean: the matrix unit (chapter 03, and the diagonal mapping R196, R197), the
finished-tile queue, multicast delivery, and the witness path (R90 to R96).
-/

namespace Sys2Proof.Machine

/-! ## Pairs (Table 3.1) -/

/-- Class of a format: 4, 8, 16 or 32; 0 where the matrix unit does not accept it (R58). -/
def mmaClass : Nat → Nat
  | 0x07 => 4 | 0x0C => 4 | 0x0D => 4 | 0x0E => 4 | 0x14 => 4
  | 0x03 => 8 | 0x04 => 8 | 0x05 => 8 | 0x06 => 8 | 0x0A => 8 | 0x0B => 8 | 0x10 => 8 | 0x11 => 8 | 0x12 => 8
  | 0x13 => 8 | 0x15 => 8
  | 0x01 => 16 | 0x02 => 16 | 0x18 => 16
  | 0x00 => 32
  | _ => 0

/-- Whether the matrix unit accepts a pair (R58). -/
def pairOk (a b : Nat) : Bool :=
  mmaClass a != 0 && mmaClass b != 0 && ((mmaClass a == 32) == (mmaClass b == 32))

/-- Formats of an integer pair (R63). -/
def mmaInt (f : Nat) : Bool := f == 0x0A || f == 0x0B || f == 0x0C || f == 0x0D || f == 0x0E

/-! ## Products, windows, lanes (R59 to R65) -/

/-- A product of two operand elements. -/
inductive Prod where
  | none
  | nan (inv : Bool)
  | inf (neg : Bool)
  | fin (d : Dy)
deriving DecidableEq, Repr, Inhabited

/-- The exact product, its specials, or nothing where a pad lane leaves it out (R59, R124). -/
def mulElem (a b : Elem) : Prod :=
  if a.skip || b.skip then .none else
  match a.v, b.v with
  | .nan, _ => .nan false
  | _, .nan => .nan false
  | .inf n, w => if w.isZero then .nan true else .inf (n != w.sign)
  | w, .inf n => if w.isZero then .nan true else .inf (n != w.sign)
  | v, w => .fin (v.toDy.mul w.toDy)

/-- The exponent of one side's scale in a K-block: that of its stored elements, and the format's factor alone where it stores none (R63;
log entry 114). -/
def blockExp (es : List Elem) : Int :=
  match es.find? (·.stored) with
  | some e => e.exp
  | none => match es with | e :: _ => e.exp | [] => 0
/-- Whether a K-block's scale on one side is 0xFF (R63). -/
def blockNan (es : List Elem) : Bool := es.any (fun e => e.stored && e.nanScale)

/-- The products of a K-block with its scales applied: every product of the block, those of data pads included, takes the factor that R63 gives
the window sum; an element with a scale of its own takes that. A scale of 0xFF makes the lane NaN. -/
def blockProds (a b : List Elem) (on : Nat → Bool) : List Prod :=
  let ea := blockExp a
  let eb := blockExp b
  let bad := blockNan a || blockNan b
  ((a.zip b).zipIdx).map (fun e =>
    let x := (if e.1.1.stored then e.1.1.exp else ea) + (if e.1.2.stored then e.1.2.exp else eb)
    match if on e.2 then mulElem e.1.1 e.1.2 else .none, bad with
    | .fin d, false => .fin (d.scale x)
    | .nan i, _ => .nan i
    | _, true => .nan false
    | p, false => p)

/-- Whether either element's code was invalid and the product is formed. -/
def badElem (a b : Elem) : Bool := !(a.skip || b.skip) && (a.bad || b.bad)

/-- One window: anchor at the largest pending product, exact sum of the products inside it, the rest deferred (R60, R61). -/
def window (ps : List Dy) : Dy × List Dy :=
  match ps with
  | [] => (.zero, [])
  | p :: r =>
    let a := r.foldl (fun m q => max m q.log2) p.log2
    ((ps.filter (fun q => decide (a - 57 ≤ q.lsb))).foldl Dy.add .zero, ps.filter (fun q => decide (q.lsb < a - 57)))

/-- The windows of one K-block, each added with one rounding to 40 bits (R62, R65); answers how many were formed. -/
def blockWindows : Nat → Dy → List Dy → Dy × Nat
  | 0, acc, _ => (acc, 0)
  | n + 1, acc, ps =>
    if ps.isEmpty then (acc, 0) else
    let w := window ps
    let r := blockWindows n ((acc.add w.1).rne 40) w.2
    (r.1, r.2 + 1)

/-- Records the specials of a product (R64). -/
def Accum.special (x : Accum) : Prod → Accum
  | .nan i => { x with nan := true, inv := x.inv || i }
  | .inf true => { x with ninf := true }
  | .inf false => { x with pinf := true }
  | _ => x

/-- The finite non-zero products. -/
def finProds (ps : List Prod) : List Dy := ps.filterMap (fun p => match p with | .fin d => if d.m = 0 then none else some d | _ => none)

/-- Adds a lane's products, K-block after K-block; answers the replays of each block (R61 to R65). -/
def laneAdd (isInt : Bool) (x : Accum) (ps : List Prod) : Accum × List Nat :=
  (chunksOf 32 (ps.length / 32 + 1) ps).foldl (fun (acc : Accum × List Nat) blk =>
    let y := blk.foldl Accum.special acc.1
    if isInt then ({ y with v := (finProds blk).foldl Dy.add y.v }, acc.2 ++ [0])
    else
      let r := blockWindows 32 y.v (finProds blk)
      ({ y with v := r.1, nz := y.nz && r.2 == 0 }, acc.2 ++ [r.2 - 1])) (x, [])

/-- The lane's value at finish and its INVALID (Table 3.2). A NaN special outranks both infinities, which then raise no INVALID of their own
(log entry 115). -/
def Accum.value (x : Accum) : Val × Bool :=
  if x.nan then (.nan, x.inv)
  else if x.pinf && x.ninf then (.nan, true)
  else if x.pinf then (.inf false, x.inv)
  else if x.ninf then (.inf true, x.inv)
  else if x.v.m = 0 then (.fin x.nz 0 1 0, x.inv)
  else (Val.ofDy x.v, x.inv)

/-- An initial accumulator from an element of C (R64, R67). -/
def accumOf (e : Elem) : Accum :=
  match e.value with
  | .nan => { nan := true }
  | .inf true => { ninf := true }
  | .inf false => { pinf := true }
  | v => { v := v.toDy, nz := v.isZero && v.sign }

/-! ## The instruction (Tables 3.3 and 3.4) -/

def AccTile.lane (t : AccTile) (m n : Nat) : Accum := Cells.get (fun _ => {}) t.acc (m * 32 + n)
def MuState.tile (u : MuState) (i : Nat) : AccTile := if i = 0 then u.t0 else u.t1
def MuState.setTile (u : MuState) (i : Nat) (t : AccTile) : MuState := if i = 0 then { u with t0 := t } else { u with t1 := t }

/-- Row indices of A for an instruction: M rows of K elements. -/
def Core.rowsOf (k : Core) (o : OpDesc) (m kk : Nat) : List (List Elem) :=
  (List.range m).map (fun i => (List.range kk).map (fun j => k.elem o i j))
/-- Columns of B: N lanes of K elements; in the diagonal mapping lane n reads column n mod w (R196). -/
def Core.colsOf (k : Core) (o : OpDesc) (n kk : Nat) (diag : Option Nat) : List (List Elem) :=
  (List.range n).map (fun j => (List.range kk).map (fun i =>
    k.elem o i (match diag with | some d => j % (32 / 2 ^ d) | none => j)))

/-- The products of lane `n`, K-block after K-block: in the diagonal mapping only those of its own block (R196). -/
def laneProds (diag : Option Nat) (n : Nat) (a b : List Elem) : List Prod :=
  let blocks := fun (l : List Elem) => chunksOf 32 (l.length / 32 + 1) l
  (((blocks a).zip (blocks b)).map (fun e => blockProds e.1 e.2 (fun i =>
    match diag with
    | some d => i / (32 / 2 ^ d) == n / (32 / 2 ^ d)
    | none => true))).flatten

/-- INVALID from operand codes (R35). -/
def laneBad (a b : List Elem) : Bool := (a.zip b).any (fun e => badElem e.1 e.2)

/-- Adds one instruction to a tile's accumulators; answers the tile's replay passes (R61, R65). -/
def tileAdd (isInt : Bool) (acc : Nat → Accum) (t : WitPart) : List (Nat × Accum) × Nat :=
  let lanes := (t.a.zipIdx.map (fun ra => t.b.zipIdx.map (fun cb =>
    let id := ra.2 * 32 + cb.2
    let x := acc id
    let r := laneAdd isInt { x with inv := x.inv || laneBad ra.1 cb.1 } (laneProds t.diag cb.2 ra.1 cb.1)
    (id, r.1, r.2)))).flatten
  let cells := lanes.foldl (fun m e => Cells.put (fun _ => {}) m e.1 e.2.1) []
  let nblk := lanes.foldl (fun m e => max m e.2.2.length) 0
  (cells, (List.range nblk).foldl (fun n i => n + lanes.foldl (fun m e => max m (e.2.2.getD i 0)) 0) 0)

/-- What a matrix instruction does with its tile: start at 0, start at C, or continue; DLOG2 in the diagonal mapping. -/
inductive MmaOp where
  | zero
  | initC
  | cont
  | diagZero
  | diagCont
deriving DecidableEq, Repr

def MmaOp.diag : MmaOp → Bool | .diagZero => true | .diagCont => true | _ => false
def MmaOp.starts : MmaOp → Bool | .cont => false | .diagCont => false | _ => true

/-- The fields of Table 3.3. -/
structure MmaFields where
  a : Nat
  b : Nat
  c : Nat
  out : Nat
  m : Nat
  n : Nat
  k : Nat
  tile : Nat
  last : Bool
  route : Nat
  ready : Option Nat
  mcast : Bool
  dlog2 : Nat
deriving DecidableEq, Repr

def mmaFields (x : Ctx) : MmaFields :=
  { a := x.f 15 8, b := x.f 23 16, c := x.f 31 24, out := x.f 39 32, m := x.f 46 40, n := x.f 52 47, k := x.f 68 53,
    tile := x.f 69 69, last := x.f 70 70 = 1, route := x.f 72 71, ready := if x.f 73 73 = 1 then some (x.f 81 74) else none,
    mcast := x.f 82 82 = 1, dlog2 := x.f 85 83 }

/-- Encodings that are illegal whatever the descriptors say (R68, R197). -/
def mmaEncOk (op : MmaOp) (x : Ctx) (f : MmaFields) : Bool :=
  decide (f.route ≤ 1) && decide (f.m ≤ 64) && decide (f.n ≤ 32) && x.f 127 86 == 0
    && (if op.diag then decide (f.dlog2 ≤ 5) && !f.mcast else f.dlog2 == 0)

/-- MMA_CONTINUE must meet the tile as the starting instruction left it (R67, R68, R197). -/
def contOk (op : MmaOp) (f : MmaFields) (isInt : Bool) (t : AccTile) : Bool :=
  op.starts || (t.state == 1 && t.m == f.m && t.n == f.n && t.isInt == isInt
    && t.diag == (if op.diag then some f.dlog2 else none))

/-- C formats R67 allows. -/
def cFmtOk (isInt : Bool) (fmt : Nat) : Bool := if isInt then fmt == 0x08 else fmt == 0x00 || fmt == 0x01 || fmt == 0x02

/-- Operands of an instruction that R68 and R197 let issue: A, B, C and the output descriptor. -/
structure MmaArgs where
  f : MmaFields
  a : OpDesc
  b : OpDesc
  c : Option OpDesc
  out : List Byte
  isInt : Bool

/-- Decodes the instruction and its descriptors; none where it is illegal (R68, R69, R197). -/
def mmaArgs (op : MmaOp) (s : State) (x : Ctx) : Option MmaArgs :=
  let f := mmaFields x
  if !mmaEncOk op x f then none else
  match s.operand x f.a, s.operand x f.b, s.outDesc x f.out with
  | some a, some b, some out =>
    let isInt := mmaInt a.fmt && mmaInt b.fmt
    let t := (s.core x.c).mu.tile f.tile
    if !pairOk a.fmt b.fmt || !contOk op f isInt t then none
    else if f.last && f.route = 0 && !(outFields out).valid0 isInt then none
    else if op = .initC then
      match s.operand x f.c with
      | some c => if cFmtOk isInt c.fmt then some ⟨f, a, b, some c, out, isInt⟩ else none
      | none => none
    else some ⟨f, a, b, none, out, isInt⟩
  | _, _, _ => none

/-- Whether the multicast delivery of the current beat covers B. A delivery lands in the operand buffer, so a B in the tile store is never
delivered (R82; log entry 116). -/
def mcastHere (k : Core) (b : OpDesc) : Bool :=
  b.memRows == 0 || b.ob && k.mu.mcast.any (fun q => q.beat == k.seq.curBeat
    && b.ranges.all (fun r => r.2.2 == 0 || (decide (q.base ≤ r.2.1) && decide (r.2.1 + r.2.2 ≤ q.base + q.len))))

/-- What keeps a matrix instruction waiting (R67, R79, R80, R82, R223). -/
def mmaWait (op : MmaOp) (k : Core) (g : MmaArgs) : Bool :=
  k.draining || (op.starts && (k.mu.tile g.f.tile).state != 0)
    || k.claimWait ([g.f.a, g.f.b, g.f.out] ++ if op = .initC then [g.f.c] else [])
    || (match g.f.ready with | some r => !bit k.ready r | none => false)
    || (g.f.mcast && !mcastHere k g.b)

/-- The wait bits of MU_STATE while an instruction waits (Table 3.8). -/
def mmaHold (k : Core) (g : MmaArgs) : Core :=
  { k with mu := { k.mu with readyWait := (match g.f.ready with | some r => !bit k.ready r | none => false),
                             mcastWait := g.f.mcast && !mcastHere k g.b } }

/-- Whether a finished tile is selected as a witness (R90). -/
def witSelected (im : Image) (o : OutDesc) (pass : Nat) : Bool :=
  let rate := Req.witRate im.req
  let k := if rate = 0 then 0 else rate
  rate != 15 && srBits (Req.seed im.req ^^^ 0x5749544500000000) o.tensor (o.logRow0 * 2 ^ 32 + o.logCol0) pass / 2 ^ (24 - k) == 0

/-- The local ranges an instruction reads: none where M or N is 0, no K-range where K is 0 (R74). -/
def MmaArgs.reads (g : MmaArgs) : List (Bool × Nat × Nat) :=
  if g.f.m = 0 || g.f.n = 0 then [] else
  (if g.f.k = 0 then [] else g.a.ranges ++ g.b.ranges) ++ (match g.c with | some c => c.ranges | none => [])

/-- The tile after the instruction (R57, R65, R67, R74). A tile of no row or lane that finishes with ROUTE 0 is free at once (R78). -/
def mmaTile (op : MmaOp) (k : Core) (x : Ctx) (g : MmaArgs) : AccTile × Nat :=
  let t := k.mu.tile g.f.tile
  let diag := if op.diag then some g.f.dlog2 else none
  let init : List (Nat × Accum) :=
    match g.c with
    | some c => ((List.range g.f.m).map (fun i => (List.range g.f.n).map (fun j => (i * 32 + j, accumOf (k.elem c i j))))).flatten.foldl
        (fun m e => Cells.put (fun _ => {}) m e.1 e.2) []
    | none => []
  let t0 : AccTile := if op.starts then { state := 1, m := g.f.m, n := g.f.n, isInt := g.isInt, diag := diag, acc := init, init := init }
    else t
  let part : WitPart := { a := k.rowsOf g.a g.f.m g.f.k, b := k.colsOf g.b g.f.n g.f.k diag, diag := diag, held := g.reads }
  let r := tileAdd g.isInt (fun id => Cells.get (fun _ => {}) t0.acc id) part
  let other := k.mu.tile (1 - g.f.tile)
  let order := if other.state = 2 then (match other.finish with | some q => q.order + 1 | none => 0) else 0
  let fin : Option Finish := if g.f.last then
      some { route := g.f.route, out := g.out, rowsA := g.a.rows, colsB := if op.diag then g.f.n else g.b.cols,
             layer := k.layer, beat := k.seq.curBeat, order := order } else none
  let empty := g.f.m = 0 || g.f.n = 0
  if empty && g.f.last && g.f.route = 0 then ({}, r.2) else
  ({ t0 with acc := if empty then [] else r.1, state := if g.f.last then 2 else 1, finish := fin,
             parts := if Req.witRate x.im.req = 15 || empty then t0.parts else t0.parts ++ [part],
             wit := witSelected x.im (outFields g.out) k.seq.pass }, r.2)

/-- Passes of an instruction, cycles of a streamed row, and K-elements of a pass (Table 3.1, R78). -/
def mmaPasses (g : MmaArgs) : Nat × Nat :=
  let cls := max (mmaClass g.a.fmt) (mmaClass g.b.fmt)
  (if g.f.m = 0 || g.f.n = 0 then 0 else ceilDiv g.f.k (if cls = 4 then 64 else 32), if cls = 32 then 8 else if cls = 16 then 2 else 1)

/-- What the counters have to count of an instruction with `replays` replay passes (Table 22.6; log entry 117): lane-slots of data rows inside
the output extent, the other lane-slots of its passes, its useful MACs. -/
def mmaNotes (op : MmaOp) (g : MmaArgs) (replays : Nat) : List (Nat × Nat) :=
  let o := outFields g.out
  let p := mmaPasses g
  let rows := min (min g.f.m g.a.rows) o.rows
  let lanes := min (min g.f.n (if op.diag then g.f.n else g.b.cols)) o.cols
  let good := p.1 * p.2 * rows * lanes
  [(0x020, good), (0x021, (p.1 + replays) * p.2 * g.f.m * 32 - good),
   (0x080, rows * lanes * min g.f.k (min g.a.cols g.b.rows) / (if op.diag then 2 ^ g.f.dlog2 else 1))]

/-- The core after the instruction: the tile, DEEP_REPLAYS (R61, R83), the ranges it has yet to read (R79). Deliveries of earlier beats are
freed (R82; log entry 116). -/
def mmaEffect (op : MmaOp) (k : Core) (x : Ctx) (g : MmaArgs) : Core :=
  let r := mmaTile op k x g
  let k1 : Core := { k with mu := { (k.mu.setTile g.f.tile r.1) with
      deepReplays := satAdd 0xFFFF k.mu.deepReplays r.2, readyWait := false, mcastWait := false, reading := g.reads,
      mcast := k.mu.mcast.filter (fun q => decide (k.seq.curBeat ≤ q.beat)) } }
  (mmaNotes op g r.2).foldl (fun k e => k.note e.1 e.2) k1

/-- A matrix instruction at issue. -/
def mma (op : MmaOp) (s : State) (x : Ctx) : Issue :=
  match mmaArgs op s x with
  | none => .illegal
  | some g =>
    if mmaWait op (s.core x.c) g then .wait (s.updCore x.c (fun k => mmaHold k g))
    else s.access x g.reads [] (fun s =>
      .ofExtent (g.f.m == 0 || g.f.n == 0 || g.f.k == 0) (s.updCore x.c (fun k => mmaEffect op k x g)))

/-- MMA_ZERO (R67). -/
def execMmaZero (c : Nat) (s : State) : R := issue ⟨1, 0, 0⟩ c s (mma .zero s)
/-- MMA_INIT_C (R67). -/
def execMmaInitC (c : Nat) (s : State) : R := issue ⟨1, 1, 0⟩ c s (mma .initC s)
/-- MMA_CONTINUE (R67). -/
def execMmaContinue (c : Nat) (s : State) : R := issue ⟨1, 2, 0⟩ c s (mma .cont s)
/-- MMA_DIAG_ZERO (R196). -/
def execMmaDiagZero (c : Nat) (s : State) : R := issue ⟨1, 3, 0⟩ c s (mma .diagZero s)
/-- MMA_DIAG_CONTINUE (R196). -/
def execMmaDiagContinue (c : Nat) (s : State) : R := issue ⟨1, 4, 0⟩ c s (mma .diagCont s)

/-! ## Finishing a tile (R64, R72 to R76) -/

/-- Rows and lanes that an output may write or push (R75, R76). -/
def Finish.ext (f : Finish) (m n : Nat) : Nat × Nat := (min m f.rowsA, min n f.colsB)

/-- Rows and lanes written through the output descriptor (R75). -/
def Finish.written (f : Finish) (m n : Nat) : Nat × Nat :=
  let o := outFields f.out
  (min (f.ext m n).1 o.rows, min (f.ext m n).2 o.cols)

/-- Random bits of an output element (R45, R46, R72). -/
def outBits (o : OutDesc) (seed pass i j : Nat) : Nat := srBits seed o.tensor (o.index i j) pass

/-- One row of a finished tile converted by CCW: codes, block exponents, flags (R64, R73). -/
def finishRow (t : AccTile) (o : OutDesc) (seed pass i nn : Nat) : List (Nat × Bool) × List Nat × Fl :=
  let lanes := (List.range nn).map (fun j => (t.lane i j).value)
  let c := Ccw.of o.ccw
  let r := convRow c t.isInt (lanes.zipIdx.map (fun e => (e.1.1, if c.rnd = 4 then outBits o seed pass i e.2 else 0)))
  (r.1, r.2.1, r.2.2.or { inv := lanes.any (·.2) })

/-- Writes the rows of a finished tile (R73, R75, R125). -/
def finishWrite (t : AccTile) (o : OutDesc) (dst seed pass nn : Nat) (m : Mem) (i : Nat) : Mem :=
  let r := finishRow t o seed pass i nn
  let m := r.1.zipIdx.foldl (fun m e => m.putElem o dst i e.2 e.1.1) m
  match isMx dst, r.2.1 with
  | true, x :: _ => m.write (o.base + o.rows * o.stride + i) (BitVec.ofNat 8 x)
  | _, _ => m

/-- The value a written code stands for (R93). -/
def writtenValue (dst code scale : Nat) : Val := (codeValue [] dst code scale 0).1

/-- The compared elements of a tile that finishes with ROUTE 0 or 1 (R93). -/
def comparedOf (t : AccTile) (f : Finish) (seed pass : Nat) : List (Nat × Val × Bool × Int) :=
  let o := outFields f.out
  let e := f.written t.m t.n
  ((List.range e.1).map (fun i =>
    if f.route = 0 then
      let r := finishRow t o seed pass i e.2
      let dst := (Ccw.of o.ccw).dst
      let x := r.2.1.headD 127
      r.1.zipIdx.map (fun q => (i * 32 + q.2, writtenValue dst q.1.1 x, q.1.2, (x : Int) - 127))
    else
      (List.range e.2).map (fun j =>
        let v := (t.lane i j).value.1
        (i * 32 + j, if t.isInt then v else ofFp32 (toFp32 v).1, false, 0)))).flatten

/-- The 64-bit word of R76. The fraction and sign of a NaN are the model's choice (log entry 115), and so is an integer accumulator outside
64 bits, which only the word wraps (log entry 114). -/
def ftqWord (isInt : Bool) (x : Accum) : Nat :=
  if isInt then ofSigned 64 (x.v.m * pow2 x.v.e) else
  match x.value.1 with
  | .nan => 0xFFF * 2 ^ 39 + 2 ^ 38
  | .inf n => 0xFFF * 2 ^ 39 + b2n n * 2 ^ 51
  | .fin neg num _ e =>
    if num = 0 then b2n neg * 2 ^ 51 else
    let l := Nat.log2 num
    let frac := if l ≤ 39 then num * 2 ^ (39 - l) else num / 2 ^ (l - 39)
    frac % 2 ^ 39 + ((e + l + 2047).toNat % 2 ^ 12) * 2 ^ 39 + b2n neg * 2 ^ 51

/-- The entry a tile pushes (R76). -/
def ftqEntry (t : AccTile) (f : Finish) : FtqEntry :=
  let e := f.ext t.m t.n
  { isInt := t.isInt, m := e.1, n := e.2,
    words := ((List.range e.1).map (fun i => (List.range e.2).map (fun j => ftqWord t.isInt (t.lane i j)))).flatten }

/-- A witness of a finished tile. -/
def witnessOf (t : AccTile) (f : Finish) (seed pass : Nat) : Witness :=
  { isInt := t.isInt, route := f.route, out := f.out, seed := seed, pass := pass, layer := f.layer, beat := f.beat, init := t.init,
    parts := t.parts, ys := comparedOf t f seed pass }

/-- Whether tile `i` may drain now: no earlier tile of its own route still drains, and none that has not finished; a tile that only waits for
the queue holds no ROUTE 0 tile back (R62, R77, R79). -/
def drainTurn (u : MuState) (i : Nat) (f : Finish) : Bool :=
  let o := u.tile (1 - i)
  !(o.state == 2 && (match o.finish with
    | some q => decide (q.order < f.order) && (q.route == f.route || !o.prepared)
    | none => false))

/-- The core and flags after a ROUTE 0 tile is converted and written (R64, R75). -/
def finishRoute0 (k : Core) (t : AccTile) (f : Finish) (seed : Nat) : Core × Fl :=
  let o := outFields f.out
  let dst := (Ccw.of o.ccw).dst
  let e := f.written t.m t.n
  let ts := if e.2 = 0 then k.ts else (List.range e.1).foldl (finishWrite t o dst seed k.seq.pass e.2) k.ts
  let fl := if e.2 = 0 then {} else (List.range e.1).foldl (fun a i => a.or (finishRow t o seed k.seq.pass i e.2).2.2) ({} : Fl)
  ({ k with ts := ts }, fl)

/-- The ranges of the tile store that a ROUTE 0 tile writes (R72, R73, R75). -/
def finishRanges (t : AccTile) (f : Finish) : List (Nat × Nat) :=
  let o := outFields f.out
  let dst := (Ccw.of o.ccw).dst
  let e := f.written t.m t.n
  let w := fmtWidth dst
  if e.1 = 0 || e.2 = 0 then [] else
  (if o.colMajor then (List.range e.2).map (fun j => (o.base + j * o.stride, (w * e.1 + 7) / 8))
   else (List.range e.1).map (fun i => (o.base + i * o.stride, (w * e.2 + 7) / 8)))
    ++ (if isMx dst then [(o.base + o.rows * o.stride, e.1)] else [])

/-- Whether another tile's witness holds bytes that a ROUTE 0 tile writes; its own operands, whose values it has, hold nothing back
(R91; log entry 118). -/
def finishHeld (k : Core) (i : Nat) (t : AccTile) (f : Finish) : Bool :=
  f.route == 0 && (finishRanges t f).any (fun r => { k with mu := k.mu.setTile i {} }.witRange false r.1 r.2)

/-- TILE_FINISH: lane values are fixed and the tile is converted and written, or made ready to push; a selected tile joins the
witness queue, and waits while that queue is full (R64, R75, R90, R91). -/
def execTileFinish (c t : Nat) (s : State) : R :=
  if Config.cores ≤ c || 2 ≤ t then .fault .noSuchUnit else
  let k := s.core c
  let a := k.mu.tile t
  match a.finish, s.partOf c with
  | some f, some p =>
    match (s.part p).image with
    | none => .next s
    | some im =>
      if a.state ≠ 2 || a.prepared || !drainTurn k.mu t f then .next s else
      let o := outFields f.out
      let sel := witSelected im o k.seq.pass
      if sel && decide (4 ≤ k.mu.witq.length) then .next s
      else if finishHeld k t a f then .next (s.setCore c k.waitWitness)
      else
      let q := if sel then k.mu.witq ++ [witnessOf a f (Req.seed im.req) k.seq.pass] else k.mu.witq
      if f.route = 0 then
        let r := finishRoute0 k a f (Req.seed im.req)
        let k1 := (finishRanges a f).foldl (fun k r => k.renew false r.1 r.2) r.1
        let s1 := s.setCore c { k1 with mu := { (k.mu.setTile t {}) with witq := q, reading := [], witHold := false } }
        .next ((s1.addFlags p c r.2).monitor p f.layer r.2.sat 0 0 false)
      else .next (s.setCore c { k with mu := { (k.mu.setTile t { a with prepared := true, wit := false }) with witq := q, reading := [] } })
  | _, _ => .next s

/-- FINISHED_TILE_PUSH: a prepared tile enters the 8-entry queue and becomes free; with 8 entries it waits (R76, R77). -/
def execFinishedTilePush (c t : Nat) (s : State) : R :=
  if Config.cores ≤ c || 2 ≤ t then .fault .noSuchUnit else
  let k := s.core c
  let a := k.mu.tile t
  match a.finish, s.partOf c with
  | some f, some p =>
    if a.state ≠ 2 || !a.prepared || !drainTurn k.mu t f || decide (8 ≤ k.mu.ftq.length) then .next s else
    let e := f.ext a.m a.n
    let inv := (List.range e.1).any (fun i => (List.range e.2).any (fun j => (a.lane i j).value.2))
    let s1 := s.setCore c { k with mu := { (k.mu.setTile t {}) with ftq := k.mu.ftq ++ [ftqEntry a f] } }
    .next (s1.addFlags p c { inv := inv })
  | _, _ => .next s

/-! ## EL48 multicast (R82) -/

/-- Cores of a rectangle of one field, relative to the field of core `c`. -/
def rectCores (c row0 col0 rows cols : Nat) : List Nat :=
  ((List.range rows).map (fun r => (List.range cols).map (fun q => c / 2500 * 2500 + (row0 + r) * 50 + col0 + q))).flatten

/-- MULTICAST_DELIVERY: core `c` sends its operand-buffer bytes to a rectangle, once every receiver has freed the range and every earlier
message of the core to a receiver has arrived (R15); a beat outside a receiver's window is a schedule fault there (R82, R29). The copy lands
whole at every receiver. It is the model's choice that a delivery counts against no receiver's EXPECT, and that a receiver frees its range
when it leaves the beat (log entries 98 and 116). -/
def execMulticastDelivery (c row0 col0 rows cols srcBase dstBase len : Nat) (s : State) : R :=
  if Config.cores ≤ c || 50 < row0 + rows || 50 < col0 + cols || 64 < rows * cols then .fault .noSuchUnit else
  match s.ctx c with
  | none => .next s
  | some x =>
    let cs := rectCores c row0 col0 rows cols
    let beat := (s.core c).seq.curBeat
    if decide (Config.obBytes < srcBase + len) || decide (Config.obBytes < dstBase + len)
        || cs.any (fun d => s.partOf d != some x.p) then .next (s.coreFault x.p c 1 Config.stIllegalInstr x.w)
    else if s.msgs.any (fun m => m.src == ⟨0, c⟩ && m.dst.kind == 0 && cs.contains m.dst.num) then .next s
    else if cs.any (fun d => (s.core d).mu.mcast.any (fun q => decide ((s.core d).seq.curBeat ≤ q.beat)
        && decide (q.base < dstBase + len) && decide (dstBase < q.base + q.len))) then .next s
    else match (s.core c).badWord [(true, srcBase, len)] with
    | some u => .next ((s.updCore c (·.uncorrected u)).coreFault x.p c 0 Config.stMemUncorrectable x.w)
    | none =>
      let bs := (s.core c).ob.readN srcBase len
      let s := s.updCore c (·.corrected [(true, srcBase, len)])
      .next ((cs.foldl (fun s d =>
        let q := (s.core d).seq
        if beat < q.curBeat then s.schedFault x.p d 2 beat ⟨0, c⟩
        else if q.curBeat + q.winM1 < beat then s.schedFault x.p d 3 beat ⟨0, c⟩
        else s.updCore d (fun k =>
          let k2 := k.landAll [⟨true, dstBase, bs, []⟩]
          { k2 with mu := { k2.mu with mcast := k2.mu.mcast ++ [⟨beat, dstBase, len⟩] } })) s).noteField (c / 2500) 0x140 1)

/-- HELD_WRITE_RELEASE: the executing matrix instruction has read its ranges, and held outside writes whose range nothing holds any more land,
in order (R79, R91; log entry 119). -/
def execHeldWriteRelease (c : Nat) (s : State) : R :=
  if Config.cores ≤ c then .fault .noSuchUnit else
  .next (s.updCore c Core.release)

/-! ## The reference path (R92 to R95) -/

/-- A product as a value. -/
def Prod.val : Prod → Val
  | .none => .zero
  | .nan _ => .nan
  | .inf n => .inf n
  | .fin d => .ofDy d

/-- Sum of two values with denominator 1. -/
def vAdd (a b : Val) : Val :=
  match a, b with
  | .nan, _ => .nan
  | _, .nan => .nan
  | .inf n, .inf m => if n = m then .inf n else .nan
  | .inf n, _ => .inf n
  | _, .inf n => .inf n
  | v, w => .ofDy (v.toDy.add w.toDy)

/-- Rounds to FP32, ties to even (rne32); and toward +∞ (rup32). -/
def rne32 (v : Val) : Val := ofFp32 (toFp32 v).1
def rup32 (v : Val) : Val := ofFp32 (toFloat fp32 2 false 0 v).1

/-- `witness_ref` (R92). -/
def witnessRef (init : Val) (ps : List Val) : Val × Val :=
  ps.foldl (fun (q : Val × Val) p => (rne32 (vAdd q.1 p), rup32 (vAdd q.2 p.abs))) (init, rup32 init.abs)

/-- The unit of error u_F(y), as an exact number (R88); `x` is the block exponent of an MX output. Of an MXINT8 element it is the step 2^(X − 6)
of its integers (log entry 120). -/
def unitErr (dst : Nat) (y : Dy) (x : Int) : Dy :=
  if dst = 0x15 then ⟨1, x - 6⟩ else
  match floatOf dst with
  | none => ⟨1, 0⟩
  | some f =>
    let y := if isMx dst then y.scale (-x) else y
    let e := if y.m = 0 then 1 - f.bias else max y.log2 (1 - f.bias)
    ⟨1, e - f.mw + (if isMx dst then x else 0)⟩

/-- The bound of R93 for a float pair, cleared of the denominator of γ_K. Where s is infinite, or K × 2^−24 reaches 1 and γ_K is no positive
number, every y passes (log entry 120). -/
def witBound (dst rnd kk : Nat) (y r s : Val) (x : Int) : Bool :=
  if !s.isFin || 2 ^ 24 ≤ kk then true else
  let d : Dy := .ofInt (2 ^ 24 - kk)
  let k : Dy := .ofInt kk
  let c : Dy := if rnd = 0 then ⟨1, -1⟩ else ⟨1, 0⟩
  let lhs := d.mul ((y.toDy.sub r.toDy).abs)
  let rhs := ((d.mul (c.mul (unitErr dst y.toDy x))).add (((d.mul (k.scale (-40))).add k).mul s.toDy)).add (d.mul (k.scale (-149)))
  lhs.le rhs

/-- All products of element (i, j) over the chain of a witness, in order. -/
def Witness.prods (w : Witness) (i j : Nat) : List Prod :=
  (w.parts.map (fun t => (laneProds t.diag j (t.a.getD i []) (t.b.getD j [])))).flatten

/-- One compared element's outcome: excluded, or special mismatch, or difference; with y and r. -/
structure WitElem where
  id : Nat
  y : Val
  r : Val
  special : Bool
  pass : Bool
  diff : Dy
deriving DecidableEq, Repr, Inhabited

/-- Compares one element (R93); none where it is excluded. -/
def Witness.compare (w : Witness) (e : Nat × Val × Bool × Int) : Option WitElem :=
  let o := outFields w.out
  let i := e.1 / 32
  let j := e.1 % 32
  let all := w.prods i j
  let ps := all.filter (fun p => p != .none)
  let x0 := (Cells.get (fun _ => ({} : Accum)) w.init e.1)
  let init := rne32 x0.value.1
  let c := Ccw.of o.ccw
  let dst := if w.route = 1 then 0x00 else c.dst
  let rnd := if w.route = 1 then 0 else c.rnd
  let rs := witnessRef init (ps.map Prod.val)
  let rInt : Val := .ofDy ((finProds ps).foldl Dy.add x0.v)
  let r := if w.isInt then rInt else rs.1
  let noInf := !(ps.any (fun p => match p with | .inf _ => true | .nan _ => true | _ => false)) && init.isFin
  if e.2.2.1 || (!w.isInt && r.isInf && noInf) then none else
  let y := e.2.1
  let special := !y.isFin || !r.isFin
  let pass :=
    if special then decide (y = r)
    else if w.isInt then
      if w.route = 1 then (y.toDy.sub r.toDy).m == 0
      else
        let b := if rnd = 4 then outBits o w.seed w.pass i j else 0
        let q := if isMx dst then
            match floatOf dst with
            | some f => toFloat f rnd true b (r.scale (-e.2.2.2))
            | none => toInt 0x0A true rnd true b (r.scale (6 - e.2.2.2))
          else convertPlain dst true rnd c.sat b r
        y == writtenValue dst q.1 (e.2.2.2 + 127).toNat
    else witBound dst rnd all.length y r rs.2 e.2.2.2
  some ⟨e.1, y, r, special, pass, (y.toDy.sub r.toDy).abs⟩

/-- Whether element `a` differs more than `b`: a special that fails more than any number, a special that passes not at all (log entry 121). -/
def WitElem.worse (a b : WitElem) : Bool :=
  if b.special && !b.pass then false
  else if a.special then !a.pass
  else (b.special && a.diff.m != 0) || (!b.special && b.diff.lt a.diff)

/-- The element a log entry names: the one with the largest |y − r|, the first in row order among equals (Table 4.4; log entry 121). -/
def witWorst (es : List WitElem) : Option WitElem :=
  es.foldl (fun acc e => match acc with
    | none => some e
    | some a => if e.worse a then some e else some a) none

/-- The deviation D as FP32 bits (R95). -/
def witDev (es : List WitElem) : Nat :=
  if es.any (·.special) then 0x7FC00000 else
  let md := es.foldl (fun m e => if m.lt e.diff then e.diff else m) Dy.zero
  let mr := es.foldl (fun m e => if m.lt e.r.toDy.abs then e.r.toDy.abs else m) (⟨1, -126⟩ : Dy)
  (toFloat fp32 2 false 0 (.quot md mr)).1

/-- A witness-log entry (Table 4.4). -/
def witEntry (w : Witness) (c : Nat) (e : WitElem) (failed : Bool) : List Byte :=
  let o := outFields w.out
  leBytes 4 o.logCol0 ++ leBytes 4 o.logRow0 ++ leBytes 4 o.tensor ++ leBytes 4 w.pass
    ++ leBytes 4 (c + w.layer * 2 ^ 16 + b2n failed * 2 ^ 31) ++ leBytes 4 e.id
    ++ leBytes 4 (toFp32 e.y).1 ++ leBytes 4 (toFp32 e.r).1

/-- Writes an entry into the partition's witness log, or counts it lost (R94). -/
def State.logWitness (s : State) (p c : Nat) (im : Image) (bs : List Byte) : State :=
  if (s.part p).job.witNext < Req.witlog im.req then
    (s.writeP p (im.region 5 + 32 * (s.part p).job.witNext) bs).updJob p (fun j => { j with witNext := j.witNext + 1 })
  else s.updCore c (fun k => { k with mu := { k.mu with lost := satAdd 255 k.mu.lost 1 } })

/-- WITNESS_REFERENCE: the oldest queued witness is recomputed, compared, logged and merged; every failing element counts and is reported, and
its beat does not commit (R92 to R95; log entry 121). -/
def execWitnessReference (c : Nat) (s : State) : R :=
  if Config.cores ≤ c then .fault .noSuchUnit else
  match (s.core c).mu.witq, s.partOf c with
  | w :: rest, some p =>
    match (s.part p).image with
    | none => .next s
    | some im =>
      if s.memHeld p then .next s else
      let es := w.ys.filterMap w.compare
      let bad := es.filter (fun e => !e.pass)
      let s1 := s.updCore c (fun k => { k with mu := { k.mu with witq := rest } })
      let s2 := s1.monitor p w.layer 0 0 (witDev es) false
      let s3 := match witWorst es with
        | some e => if !bad.isEmpty || Req.logAll im.req then s2.logWitness p c im (witEntry w c e (!bad.isEmpty)) else s2
        | none => s2
      if bad.isEmpty then .next s3 else
      let s4 := (s3.updCore c (fun k => { k with mu := { k.mu with fails := satAdd 255 k.mu.fails bad.length } })).updJob p
        (fun j => { j with witFail := w.beat :: j.witFail })
      .next (bad.foldl (fun s _ => s.report p Config.stWitnessFail 0 w.beat ⟨0, c⟩) s4)
  | _, _ => .next s

end Sys2Proof.Machine
end

