-- ==== Sys2Proof/Machine/Sequencer.lean ====
section
/-!
DEFINITION. Sys2Proof/Machine/Sequencer.lean: beats, waits, flags, loops, variants, mesh messages and stalls (R208 to R219,
R322, R362 to R364).
-/

namespace Sys2Proof.Machine

/-! ## Double-banked tables of a core (R362, R364) -/

/-- An armed switch whose beat has been reached takes effect. -/
def Bank.atBeat (b : Bank) (beat : Nat) : Bank :=
  match b.armed with
  | some (side, at_) => if at_ ≤ beat then { b with side := side, gen := (b.gen + 1) % 2 ^ 32, armed := none } else b
  | none => b

def Core.switchTables (k : Core) (beat : Nat) : Core :=
  { k with sf := k.sf.atBeat beat, cb := k.cb.atBeat beat, firn := k.firn.atBeat beat }

/-! ## BEAT_WAIT (R212) -/

/-- The target beat. -/
def beatTarget (x : Ctx) (cur : Nat) : Nat := if x.f 56 56 = 1 then cur + x.f 55 8 else x.f 55 8

/-- Whether a core has every message expected in beats `lo` to `hi` (R211, R212). -/
def beatsFull (im : Image) (u : UnitId) (recv : List (Nat × Nat)) (lo hi : Nat) : Bool :=
  (List.range (hi + 1 - lo)).all (fun i => decide (planExpect im u (lo + i) ≤ Cells.get (fun _ => 0) recv (lo + i)))

/-- The unit name of a core in the beat plan: its contract number. -/
def Ctx.unit (x : Ctx) : UnitId := ⟨0, x.k⟩

/-- The core crosses its beat boundary into beat `b`: tables switch (R212, R364). -/
def State.enterBeat (s : State) (c b : Nat) : State :=
  s.updCore c (fun k => { (k.switchTables b) with
    seq := { k.seq with curBeat := b, recv := k.seq.recv.filter (fun e => b ≤ e.1) } })

/-- Starts a wait: RUN shows it, and the stall clock runs from its first try (R214). -/
def State.startWait (s : State) (c run : Nat) : State :=
  s.updSeq c (fun q => { q with run := run, waitFrom := match q.waitFrom with | some t => some t | none => some s.dtb })

/-- BEAT_WAIT (R212). -/
def execBeatWait (c : Nat) (s : State) : R :=
  issue ⟨4, 0, 0⟩ c s (fun x =>
    let q := (s.core c).seq
    let t := beatTarget x q.curBeat
    if x.f 127 57 != 0 then .illegal
    else if t < q.curBeat then
      .wait ((s.stopCore c 5 x.w).report x.p Config.stScheduleFault 5 q.curBeat ⟨0, c⟩)
    else if beatsFull x.im x.unit q.recv q.curBeat t then .done (s.enterBeat c (t + 1))
    else .wait (s.startWait c 2))

/-! ## SIGNAL_WAIT (R216) -/

/-- SIGNAL_WAIT: registers a watch at the home bank once, and goes on when the bank has answered. -/
def execSignalWait (c : Nat) (s : State) : R :=
  issue ⟨4, 1, 0⟩ c s (fun x =>
    let a := x.f 47 8
    if x.f 127 82 != 0 || decide (2 ≤ x.f 81 80) || a % 4 != 0 then .illegal else
    match devPhys (s.part x.p).geo a with
    | none => .illegal
    | some ph =>
      match s.watches.find? (fun w => w.core == c) with
      | some w => if w.answered then .done { s with watches := s.watches.filter (fun w => w.core != c) } else .wait s
      | none =>
        let w : Watch := { part := x.p, core := c, addr := ph, value := x.f 79 48, cmp := x.f 81 80 }
        if watchMet w (s.wordAt ph) then .done s
        else .wait ({ s with watches := s.watches ++ [w] }.startWait c 3))

/-! ## Tile-ready flags (R322) -/

/-- FLAG_SET. -/
def execFlagSet (c : Nat) (s : State) : R :=
  issue ⟨4, 2, 0⟩ c s (fun x => if x.f 127 17 != 0 then .illegal else
    .done (s.updCore c (fun k => { k with ready := setBit k.ready (x.f 15 8) true })))
/-- FLAG_CLEAR. -/
def execFlagClear (c : Nat) (s : State) : R :=
  issue ⟨4, 2, 1⟩ c s (fun x => if x.f 127 17 != 0 then .illegal else
    .done (s.updCore c (fun k => { k with ready := setBit k.ready (x.f 15 8) false })))

/-! ## Scalar control (R216, R217) -/

/-- Whether no tile of the core drains. -/
def Core.quiet (k : Core) : Bool := k.mu.t0.state != 2 && k.mu.t1.state != 2
/-- Whether every earlier instruction of the core has completed: tiles drained, claims answered and presented ones settled, mesh moves
accepted by their receivers (R216, R218, R224). -/
def State.allDone (s : State) (c : Nat) : Bool :=
  (s.core c).quiet && !((s.core c).claims.any (fun q => q.pending || q.done)) && !(s.msgs.any (fun m => m.src == ⟨0, c⟩))

/-- Whether the vote of a core's pass is still to come: none has been applied since the core entered it, and some layer's error-feedback
steps have run (R100; log entry 130). -/
def State.votePending (s : State) (p c : Nat) (im : Image) : Bool :=
  (s.core c).seq.voteAt == (s.part p).job.votes && (List.range (tpLayers im.bytes)).any (fun l => (s.monOf p im l).ef)

/-- SET_PASS: issues when every earlier instruction, tile drains and witness selection included, has completed (R216); the next pass waits
for the vote's result (R100). -/
def execSetPass (c : Nat) (s : State) : R :=
  issue ⟨6, 0, 0⟩ c s (fun x => if x.f 127 40 != 0 then .illegal
    else if !s.allDone c || (x.f 39 8 != (s.core c).seq.pass && s.votePending x.p c x.im) then .wait s
    else .done (s.updSeq c (fun q => { q with pass := x.f 39 8, voteAt := (s.part x.p).job.votes })))

/-- First instruction past the innermost enclosing body. -/
def bodyEnd (q : Seq) (len : Nat) : Nat := match q.loops with | l :: _ => l.start + l.body | [] => len

/-- LOOP: a COUNT of 0 skips the body; a HALT in a body is illegal where it issues (R217). -/
def execLoop (c : Nat) (s : State) : R :=
  issue ⟨6, 1, 0⟩ c s (fun x =>
    let q := (s.core c).seq
    let body := x.f 27 8
    let count := x.f 59 28
    if x.f 127 60 != 0 || body == 0 || decide (4 ≤ q.loops.length) || decide (bodyEnd q x.len < q.pc + 1 + body) then .illegal
    else if count = 0 then .skip (s.updSeq c (fun q => settle 16 { q with pc := q.pc + 1 + body, run := 1, waitFrom := none }))
    else .done (s.updSeq c (fun q => { q with loops := ⟨q.pc + 1, body, count, 0⟩ :: q.loops })))

/-- STATE of a layer in the layer precision table (R98). -/
def State.layerState (s : State) (p : Nat) (im : Image) (l : Nat) : Nat := bits (s.leX (s.part p).geo (im.layerAt l) 1) 1 0

/-- VARIANT: runs the wide or the narrow instructions of a layer by its STATE (R217). -/
def execVariant (c : Nat) (s : State) : R :=
  issue ⟨6, 2, 0⟩ c s (fun x =>
    let q := (s.core c).seq
    let l := x.f 17 8
    let n := x.f 37 18
    let w := x.f 57 38
    if x.f 127 58 != 0 || decide (tpLayers x.im.bytes ≤ l) || decide (bodyEnd q x.len < q.pc + 1 + n + w) then .illegal
    else
      let wide := s.layerState x.p x.im l = 1
      let first := if wide then q.pc + 1 + n else q.pc + 1
      let v : VariantFrame := ⟨l, wide, first, if wide then q.pc + 1 + n + w else q.pc + 1 + n, q.pc + 1 + n + w⟩
      .jump (s.updSeq c (fun q => settle 16 { q with pc := first, run := 1, waitFrom := none, variants := v :: q.variants })))

/-- NOP. -/
def execNop (c : Nat) (s : State) : R :=
  issue ⟨6, 3, 0⟩ c s (fun x => if x.f 127 8 != 0 then .illegal else .done s)

/-! ## MOVE_MESH (R218) -/

/-- The fields of Table 10.4. -/
structure MeshDesc where
  src : Nat
  dst : Nat
  core : Nat
  rows : Nat
  rowBytes : Nat
  srcStride : Nat
  dstStride : Nat
deriving DecidableEq, Repr

def meshDesc (d : List Byte) : MeshDesc :=
  ⟨fbits d 0 19 0, fbits d 4 19 0, fbits d 8 13 0, fbits d 12 15 0, fbits d 16 19 0, fbits d 20 19 0, fbits d 24 19 0⟩

def meshReserved (d : List Byte) : Bool :=
  fbits d 0 31 20 != 0 || fbits d 4 31 20 != 0 || fbits d 8 31 14 != 0 || fbits d 16 31 20 != 0 || fbits d 20 31 20 != 0
    || fbits d 24 31 20 != 0 || fld d 28 4 != 0

/-- MOVE_MESH: copies rows into the tile store of another core of the partition, as one message of the issuing beat. -/
def execMoveMesh (c : Nat) (s : State) : R :=
  issue ⟨3, 3, 0⟩ c s (fun x =>
    let k := s.core c
    let i := x.f 15 8
    let d := k.descriptor i
    let m := meshDesc d
    if x.f 127 41 != 0 || x.f 31 16 != 0 || meshReserved d || decide (Config.cores ≤ m.core) then .illegal else
    match s.tsAddr x m.src, s.tsAddr x m.dst with
    | some src, some dst =>
      if s.partOf m.core != some x.p || !rangeOk src m.rows m.rowBytes m.srcStride Config.tsBytes
          || !rangeOk dst m.rows m.rowBytes m.dstStride Config.tsBytes then .illegal
      else if k.draining || k.claimWait [i] || (x.f 32 32 = 1 && !bit k.ready (x.f 40 33)) then .wait s
      else s.access x ((List.range m.rows).map (fun r => (false, src + r * m.srcStride, m.rowBytes))) [] (fun s =>
        let land := (List.range m.rows).map (fun r =>
          (⟨false, dst + r * m.dstStride, (s.core c).ts.readN (src + r * m.srcStride) m.rowBytes, []⟩ : LocalWrite))
        .ofExtent (m.rows = 0 || m.rowBytes = 0)
          (s.send ⟨x.p, ⟨0, c⟩, ⟨0, m.core⟩, (s.core c).seq.curBeat, land.filter (fun w => !w.bytes.isEmpty)⟩))
    | _, _ => .illegal)

/-! ## Arrival of messages (R213, R219) -/

/-- What a message meets at a core (R213): the cause of a schedule fault, or none. -/
def coreCheck (im : Image) (k : Nat) (q : Seq) (b : Nat) : Option Nat :=
  if b < q.curBeat then some 2
  else if q.curBeat + q.winM1 < b then some 3
  else if planExpect im ⟨0, k⟩ b ≤ Cells.get (fun _ => 0) q.recv b then some 4
  else none

/-- A message reaches a core: counted and landed, or discarded and reported at once. A message counted is progress of the BEAT_WAIT that
awaits it (R214). -/
def State.arriveCore (s : State) (m : Msg) : State :=
  let c := m.dst.num
  match (s.part m.part).image with
  | none => s
  | some im =>
    match coreCheck im (contractOf (s.part m.part).geo c) (s.core c).seq m.beat with
    | some cause => s.schedFault m.part c cause m.beat m.src
    | none => s.updCore c (fun k =>
        let k2 := k.landAll m.land
        { k2 with seq := { k2.seq with
          recv := addRecv k2.seq.recv m.beat
          waitFrom := if k2.seq.run = 2 then k2.seq.waitFrom.map (fun _ => s.dtb) else k2.seq.waitFrom } })

/-- A message reaches a shelf, port or group unit (R219: recorded in no core's registers). -/
def State.arriveUnit (s : State) (m : Msg) : State :=
  match s.countUnit m.part m.dst m.beat with
  | .ok t => t.boundary m.part m.dst
  | .error cause => s.report m.part Config.stScheduleFault cause m.beat m.dst

/-- MESSAGE_ARRIVAL: the n-th message in flight arrives, unless an earlier one of the same pair of units is still in flight
(R15, R213). -/
def execMessageArrival (n : Nat) (s : State) : R :=
  match s.msgs[n]? with
  | none => .next s
  | some m =>
    if (s.msgs.take n).any (fun e => e.src == m.src && e.dst == m.dst) then .next s else
    let s1 := { s with msgs := s.msgs.eraseIdx n }
    .next (if m.dst.kind = 0 then s1.arriveCore m else s1.arriveUnit m)

/-! ## BEAT_STALL (R214) -/

/-- Stall limit of an image in ns (Table 11.5). -/
def stallNs (im : Image) : Nat := (if Req.stallMs im.req = 0 then 100 else Req.stallMs im.req) * 1000000

/-- BEAT_STALL: a wait that has made no progress for the stall limit is reported once, and goes on waiting. -/
def execBeatStall (c : Nat) (s : State) : R :=
  if Config.cores ≤ c then .fault .noSuchUnit else
  let q := (s.core c).seq
  match q.waitFrom, s.ctx c with
  | some t, some x =>
    if (q.run = 2 || q.run = 3) && !q.stall && decide (t + stallNs x.im ≤ s.dtb) then
      .next ((s.updSeq c (fun q => { q with stall := true })).event
        { status := Config.stBeatStall, part := x.p, srcKind := 0, src := c, beat := q.curBeat })
    else .next s
  | _, _ => .next s

end Sys2Proof.Machine
end

