-- ==== Sys2Proof/Machine/Reducer.lean ====
section
/-!
DEFINITION. Sys2Proof/Machine/Reducer.lean: the reducers of a shelf: regions, atomic operations, glacier and ordered sums
(R256 to R263), and held contributions (R224).
-/

namespace Sys2Proof.Machine

/-- A reducer region entry (Table 12.3). -/
structure Region where
  offset : Nat
  group : Nat
  owner : Nat
  valid : Bool
  size : Nat
  op : Nat
  src : Nat
  dst : Nat
  rnd : Nat
  sat : Bool
  expect : Nat
  recOff : Nat
deriving DecidableEq, Repr, Inhabited

def regionOf (e : List Byte) : Region :=
  { offset := fbits e 0 33 0, group := fbits e 0 39 34, owner := fbits e 0 43 40, valid := fbits e 0 44 44 = 1, size := fld e 8 4,
    op := fbits e 12 3 0, src := fbits e 12 8 4, dst := fbits e 12 13 9, rnd := fbits e 12 16 14, sat := fbits e 12 17 17 = 1,
    expect := fbits e 16 23 0, recOff := fbits e 24 33 0 }

/-- The entry of a region. -/
def Region.bytes (g : Region) : List Byte :=
  leBytes 8 (g.offset + g.group * 2 ^ 34 + g.owner * 2 ^ 40 + b2n g.valid * 2 ^ 44) ++ leBytes 4 g.size
    ++ leBytes 4 (g.op + g.src * 2 ^ 4 + g.dst * 2 ^ 9 + g.rnd * 2 ^ 14 + b2n g.sat * 2 ^ 17) ++ leBytes 4 g.expect ++ leBytes 4 0
    ++ leBytes 8 g.recOff
/-- Bytes of an output element. -/
def Region.elemBytes (g : Region) : Nat := fmtWidth g.dst / 8
/-- Flat address of element `i`. -/
def Region.at_ (g : Region) (i : Nat) : Nat := flat g.group (g.offset + g.elemBytes * i)
/-- Flat address of the record of element `i` of a glacier sum. -/
def Region.recAt (g : Region) (i : Nat) : Nat := flat g.group (g.recOff + 64 * i)
/-- Flat address of the record of element `i` of an ordered sum: 16 + 4 × EXPECT bytes, rounded up to 64 (R263). -/
def Region.ordAt (g : Region) (i : Nat) : Nat := flat g.group (g.recOff + ceilDiv (16 + 4 * g.expect) 64 * 64 * i)

/-- Whether a flat address lies in a region of a partition; an entry of SIZE 0 matches nothing (R258). -/
def Region.holds (g : Region) (p a : Nat) : Bool :=
  g.valid && g.owner == p && g.group == a / Config.groupBytes && decide (g.offset ≤ a % Config.groupBytes)
    && decide (a % Config.groupBytes < g.offset + g.size)

/-- The entry of a partition that an address falls in, with its place in its shelf's table. -/
def State.regionAt (s : State) (p a : Nat) : Option (Nat × Region) :=
  (((s.shelf (shelfOf a)).regions.zipIdx.map (fun e => (e.2, regionOf e.1))).find? (fun e => e.2.holds p a))

/-- Stores bytes at a flat address, as a reducer does: it lifts protection, and a fenced pseudo-channel discards them (R464, R269). -/
def State.storeRun (s : State) (p a : Nat) : List Byte → State
  | [] => s
  | b :: r => State.storeRun ((s.calve p (physInter (s.part p).geo a)).storeByte p 1 a b) p (a + 1) r
/-- A whole write at a flat address, fences reported. -/
def State.storeF (s : State) (p a : Nat) (bs : List Byte) : State :=
  let t := s.storeRun p a bs
  match (List.range bs.length).find? (fun i => s.isFenced (a + i)) with
  | none => t
  | some i => t.report p Config.stHbmFenced 0 0xFFFFFFFFFFFF ⟨1, shelfOf (a + i)⟩
/-- Whether a move's contributions to reducer regions wait for a window that serves the partition's (R359; log entry 135). -/
def State.redHeld (s : State) (p : Nat) (vs : List Nat) : Bool :=
  s.redShut p && vs.any (fun v => match interPhys (s.part p).geo v with | some a => (s.regionAt p a).isSome | none => false)
/-- Reads bytes at a flat address. -/
def State.readF (s : State) (a : Nat) : Nat → List Byte
  | 0 => []
  | n + 1 => s.hb a :: s.readF (a + 1) n
def State.leF (s : State) (a n : Nat) : Nat := leNat (s.readF a n)

/-! ## ADD, MIN, MAX, XCHG, CAS (Table 12.2) -/

/-- MIN or MAX as unsigned integers (firmware only). -/
def minMaxU (isMax : Bool) (a b : Nat) : Nat := if isMax then max a b else min a b

/-- A reducer's operation on a word of `n` bytes: codes 1 ADD, 2 MIN, 3 MAX (on INT32, UINT32, FP32 as `fmt` 0, 1, 2), 6 XCHG and
7 CAS; answers the new word (Table 12.2; REDUCER_OP's operands, log entry 11). -/
def reducerNew (op fmt n old a b : Nat) : Nat :=
  match op with
  | 1 => (old + a) % 256 ^ n
  | 2 => if fmt = 1 then minMaxU false old a else minMax false (if fmt = 2 then 0x00 else 0x08) old a
  | 3 => if fmt = 1 then minMaxU true old a else minMax true (if fmt = 2 then 0x00 else 0x08) old a
  | 6 => a % 256 ^ n
  | 7 => if old = a % 256 ^ n then b % 256 ^ n else old
  | _ => old

/-! ## Glacier sums (R260 to R262) -/

/-- Contribution of a finite value to ACC: value × 2^149. -/
def accOf (d : Dy) : Int := if 0 ≤ d.e + 149 then d.m * pow2 (d.e + 149) else d.m / pow2 (-(d.e + 149))

/-- A glacier record (Table 12.4). -/
structure GlRecord where
  acc : Int
  count : Nat
  beat : Nat
  nan : Bool
  pinf : Bool
  ninf : Bool
deriving DecidableEq, Repr, Inhabited

def glOf (b : List Byte) : GlRecord :=
  { acc := toSigned 320 (fld b 0 40), count := fld b 40 4, beat := fld b 44 6, nan := fbits b 50 0 0 = 1,
    pinf := fbits b 50 1 1 = 1, ninf := fbits b 50 2 2 = 1 }
def GlRecord.bytes (r : GlRecord) : List Byte :=
  leBytes 40 (ofSigned 320 r.acc) ++ leBytes 4 r.count ++ leBytes 6 r.beat
    ++ leBytes 1 (b2n r.nan + 2 * b2n r.pinf + 4 * b2n r.ninf) ++ leBytes 13 0

/-- The specials and sum of a record with one value more (R261). -/
def GlRecord.add (r : GlRecord) (v : Val) (beat : Nat) : GlRecord :=
  let r := { r with count := r.count + 1, beat := if r.count = 0 then beat else r.beat }
  match v with
  | .nan => { r with nan := true }
  | .inf true => { r with ninf := true }
  | .inf false => { r with pinf := true }
  | w => { r with acc := r.acc + accOf w.toDy }

/-- `glacier_round` (R262): code and flags. -/
def glacierRound (r : GlRecord) (dst rnd : Nat) (sat : Bool) : Nat × Fl :=
  if r.nan then convertPlain dst false rnd sat 0 .nan
  else if r.pinf && r.ninf then
    let q := convertPlain dst false rnd sat 0 .nan
    (q.1, { q.2 with inv := true })
  else if r.pinf then convertPlain dst false rnd sat 0 (.inf false)
  else if r.ninf then convertPlain dst false rnd sat 0 (.inf true)
  else convertPlain dst false rnd sat 0 (.ofDy ⟨r.acc, -149⟩)

/-- What a contribution comes to: the state, or a schedule fault of the shelf. -/
def State.shelfFault (s : State) (p sh beat : Nat) : State := s.report p Config.stScheduleFault 0 beat ⟨1, sh⟩

/-- Adds a contribution to element `i` of a glacier region (R261, R262). -/
def State.glacier (s : State) (sh e : Nat) (g : Region) (i : Nat) (v : Val) (beat : Nat) : State :=
  let r := glOf (s.readF (g.recAt i) 64)
  if g.expect = 0 || (r.count ≠ 0 && r.beat ≠ beat) then s.shelfFault g.owner sh beat else
  let r2 := r.add v beat
  let s := s.noteShelf sh g.owner 0x240 1
  if r2.count = g.expect then
    let q := glacierRound r2 g.dst g.rnd g.sat
    let s1 := ((s.noteShelf sh g.owner 0x241 1).storeF g.owner (g.at_ i) (leBytes g.elemBytes q.1)).storeF g.owner (g.recAt i) (leBytes 64 0)
    ((s1.addRedFlags g.owner q.2).updShelf sh (fun x => { x with glOpen := x.glOpen.filter (fun o => o != (e, i)) })).answer
  else
    (s.storeF g.owner (g.recAt i) r2.bytes).updShelf sh (fun x =>
      { x with glOpen := if x.glOpen.contains (e, i) then x.glOpen else x.glOpen ++ [(e, i)] })

/-! ## Ordered sums (R163, R263) -/

/-- One level of tree32: neighbours added with one rounding. -/
def treeLevel : List Nat → List Nat
  | a :: b :: r => (toFp32 (vAdd (ofFp32 a) (ofFp32 b))).1 :: treeLevel r
  | l => l

/-- tree32 of R163 over FP32 codes. -/
def tree32 : Nat → List Nat → Nat
  | _, [] => 0
  | _, [a] => a
  | 0, a :: _ => a
  | n + 1, l => tree32 n (treeLevel l)

/-- Adds a contribution with its ordinal to element `i` of an ordered region (R263). -/
def State.ordered (s : State) (sh e : Nat) (g : Region) (i ord x beat : Nat) : State :=
  let seen := ((s.shelf sh).ordSeen.filter (fun o => o.1 == e && o.2.1 == i)).map (·.2.2)
  let rec0 := s.leF (g.ordAt i + 4) 6
  if g.expect = 0 || g.expect ≤ ord || seen.contains ord || (!seen.isEmpty && rec0 != beat) then s.shelfFault g.owner sh beat else
  let s1 := (s.storeF g.owner (g.ordAt i + 16 + 4 * ord) (leBytes 4 x)).storeF g.owner (g.ordAt i)
    (leBytes 4 (seen.length + 1) ++ leBytes 6 beat)
  if seen.length + 1 = g.expect then
    let xs := (List.range g.expect).map (fun k => s1.leF (g.ordAt i + 16 + 4 * k) 4)
    let q := convertPlain g.dst false g.rnd g.sat 0 (ofFp32 (tree32 g.expect xs))
    let s2 := (s1.storeF g.owner (g.at_ i) (leBytes g.elemBytes q.1)).storeF g.owner (g.ordAt i) (leBytes (16 + 4 * g.expect) 0)
    ((s2.addRedFlags g.owner q.2).updShelf sh (fun x => { x with ordSeen := x.ordSeen.filter (fun o => !(o.1 == e && o.2.1 == i)) })).answer
  else s1.updShelf sh (fun x => { x with ordSeen := x.ordSeen ++ [(e, i, ord)] })

/-! ## Contributions of region writes (R258, R224) -/

/-- Applies one element written into a region: ADD, MIN, MAX or a glacier contribution. -/
def State.contribute (s : State) (sh e : Nat) (g : Region) (i code beat : Nat) : State :=
  let s := if 1 ≤ g.op && g.op ≤ 3 then s.noteShelf sh g.owner 0x260 1 else s
  match g.op with
  | 1 =>
    let v := (decodeCode g.src code).1.toDy.m
    (s.storeF g.owner (g.at_ i) (leBytes g.elemBytes (ofSigned (8 * g.elemBytes) (toSigned (8 * g.elemBytes) (s.leF (g.at_ i) g.elemBytes) + v)))).answer
  | 2 => (s.storeF g.owner (g.at_ i) (leBytes 4 (minMax false g.dst (s.leF (g.at_ i) 4) code))).answer
  | 3 => (s.storeF g.owner (g.at_ i) (leBytes 4 (minMax true g.dst (s.leF (g.at_ i) 4) code))).answer
  | 4 => s.glacier sh e g i (decodeCode g.src code).1 beat
  | _ => s

/-- Whether a declared counter is accumulating (Table 10.6). -/
def accumulating (im : Image) (k : Nat) : Bool :=
  match claimRec im k with | some r => fbits r 0 11 10 = 2 | none => false

/-- The open claim slot whose index a core's reducer writes carry: its lowest open slot of an accumulating counter (R224; log
entry 12). -/
def Core.accSlot (k : Core) (im : Image) : Option (ClaimSlot × Nat) :=
  k.claims.zipIdx.find? (fun q => q.1.isOpen && !q.1.pending && q.1.idx != 0xFFFFFFFF && accumulating im q.1.counter)

def Partition.counter (x : Partition) (n : Nat) : Counter := Cells.get (fun _ => {}) x.counters n
def Partition.setCounter (x : Partition) (n : Nat) (c : Counter) : Partition :=
  { x with counters := Cells.put (fun _ => {}) x.counters n c }
def State.updCounter (s : State) (p n : Nat) (f : Counter → Counter) : State :=
  s.updPart p (fun x => x.setCounter n (f (x.counter n)))

/-- Whether the ledger holds an index as claimed by this core under this token (R222). -/
def ledgerIs (led st core tok : Nat) : Bool := bits led 1 0 == st && bits led 15 2 == core && bits led 63 32 == tok

/-- Interleaved place of a counter's ledger: counters in declaration order from the start of region 4 (R242; log entry 12). -/
def ledgerAt (im : Image) (n idx : Nat) : Nat :=
  let ds := tpRecords im.bytes 0x08
  let before := ds.takeWhile (fun r => fbits r 0 9 0 != n)
  im.region 4 + before.foldl (fun a r => a + 8 * fbits r 4 24 0 + 4 * Req.blocks im.req * 100 * fbits r 12 23 0) 0 + 8 * idx

def State.ledger (s : State) (p : Nat) (im : Image) (n idx : Nat) : Nat := s.leX (s.part p).geo (ledgerAt im n idx) 8
/-- Writes a ledger entry; watches see it (R216). -/
def State.putLedger (s : State) (p : Nat) (im : Image) (n idx v : Nat) : State := (s.writeP p (ledgerAt im n idx) (leBytes 8 v)).answer

/-- A core's element written into a region: held under its accumulating claim, or applied (R224, R258). Answers none where the
held space overflows, which is a schedule fault of the core. -/
def State.regionWrite (s : State) (x : Ctx) (sh e : Nat) (g : Region) (i code : Nat) : Option State :=
  let beat := (s.core x.c).seq.curBeat
  match (s.core x.c).accSlot x.im with
  | none => some (s.contribute sh e g i code beat)
  | some (q, n) =>
    if !ledgerIs (s.ledger x.p x.im q.counter q.idx) 1 x.c q.tok then some (s.fence x.p 1) else
    let cn := (s.part x.p).counter q.counter
    let used := (cn.held.filter (fun h => h.core == x.c && h.slot == n)).foldl (fun a h => a + h.bytes.length) 0
    let bs := leBytes (fmtWidth g.src / 8) code
    let room := match claimRec x.im q.counter with | some r => fbits r 12 23 0 | none => 0
    if room < used + bs.length then none
    else some (s.updCounter x.p q.counter (fun cn =>
      { cn with held := cn.held ++ [{ idx := q.idx, tok := q.tok, core := x.c, slot := n, beat := beat, addr := g.at_ i, bytes := bs }] }))

end Sys2Proof.Machine
end

