-- ==== Sys2Proof/Machine/CollOps.lean ====
section
/-!
DEFINITION. Sys2Proof/Machine/CollOps.lean: members and stages of a group, the value of a chunk at each stage, and what a module sends
and forms as an instance progresses (R299 to R320).
-/

namespace Sys2Proof.Machine

/-! ## Group records (Table 14.1) -/

namespace Gr
def op (r : List Byte) : Nat := fbits r 0 9 8
def redop (r : List Byte) : Nat := fbits r 0 12 10
def overlap (r : List Byte) : Bool := fbits r 0 13 13 = 1
def dropTol (r : List Byte) : Bool := fbits r 0 14 14 = 1
def vcOrd (r : List Byte) : Nat := fbits r 0 17 15
/-- W of R309. -/
def window (r : List Byte) : Nat := fbits r 0 21 18 + 1
def elemFmt (r : List Byte) : Nat := fbits r 4 4 0
def outFmt (r : List Byte) : Nat := fbits r 4 9 5
def rnd (r : List Byte) : Nat := fbits r 4 11 10
def sat (r : List Byte) : Bool := fbits r 4 12 12 = 1
def padKind (r : List Byte) : Nat := fbits r 4 15 13
def pad (r : List Byte) : Nat := fld r 8 4
def cap (r : List Byte) : Nat := fld r 12 4
def chunk (r : List Byte) : Nat := fbits r 16 23 0
def pkg (r : List Byte) : Nat := fbits r 20 31 16
def radix (r : List Byte) (k : Nat) : Nat := match k with | 1 => grR1 r | 2 => grR2 r | 3 => grR3 r | _ => 1
def ring (r : List Byte) (k : Nat) : Bool := (k == 2 && fbits r 24 7 7 = 1) || (k == 3 && fbits r 24 15 15 = 1)
def redAddr (r : List Byte) : Nat := fld r 40 8
def outAddr (r : List Byte) : Nat := fld r 48 8
def signal (r : List Byte) : Nat := fld r 56 5
/-- NCH of R313. -/
def chunks (r : List Byte) : Nat := ceilDiv (cap r) (chunk r)
def chunkLen (r : List Byte) (c : Nat) : Nat := min (chunk r) (cap r - c * chunk r)
end Gr

/-- Product of the radices below stage `k`. -/
def radBelow (r : List Byte) : Nat → Nat
  | 0 => 1
  | 1 => 1
  | k + 1 => radBelow r k * Gr.radix r k
/-- Digit d_k of a member (R302). -/
def digit (r : List Byte) (i k : Nat) : Nat := i / radBelow r k % Gr.radix r k
/-- `home_digit` (R313). -/
def homeDigit (r : List Byte) (c k : Nat) : Nat := c / radBelow r k % Gr.radix r k
/-- The member that differs from `i` in digit d_k. -/
def withDigit (r : List Byte) (i k d : Nat) : Nat := i - digit r i k * radBelow r k + d * radBelow r k
def nextIn (r : List Byte) (i k : Nat) : Nat := withDigit r i k ((digit r i k + 1) % Gr.radix r k)
def prevIn (r : List Byte) (i k : Nat) : Nat := withDigit r i k ((digit r i k + Gr.radix r k - 1) % Gr.radix r k)
/-- Stages with traffic, ascending. -/
def stages (r : List Byte) : List Nat := [1, 2, 3].filter (fun k => decide (1 < Gr.radix r k))
/-- Whether `i` is home of chunk `c` at every stage below `k`. -/
def homeBelow (r : List Byte) (i c k : Nat) : Bool := (stages r).all (fun j => decide (k ≤ j) || digit r i j == homeDigit r c j)

/-! ## Ranks (R299) -/

/-- The module's own rank, if it has one. -/
def State.rank (s : State) (p : Nat) (im : Image) : Option Nat :=
  if Req.modules im.req ≤ 1 then some 0 else
  match (s.part p).ranks with
  | none => none
  | some ts => ((ts.zipIdx).find? (fun e => e.1 == s.time.position % 2 ^ 14)).map (·.2)
/-- Position of a rank. -/
def State.rankPos (s : State) (p rank : Nat) : Option Nat := match (s.part p).ranks with | some ts => ts[rank]? | none => none
/-- The member a rank is. -/
def memberOf (r : List Byte) (rank : Nat) : Option Nat := (List.range (grN r)).find? (fun i => grRank r i == rank)
/-- The module's own member of a group. -/
def State.member (s : State) (p : Nat) (im : Image) (r : List Byte) : Option Nat := (s.rank p im).bind (memberOf r)
/-- Whether a member is the rank marked absent (R466). -/
def State.absentMember (s : State) (p : Nat) (r : List Byte) (i : Nat) : Bool := (s.part p).rcv.absent == some (grRank r i)
/-- The substitute of an absent member: the lowest other member of its stage-1 set, else of its stage-2 and stage-3 sets (R466). -/
def substitute (r : List Byte) (i : Nat) : Option Nat :=
  ((stages r).head?).bind (fun k => ((List.range (Gr.radix r k)).map (withDigit r i k)).find? (fun j => j != i))
/-- The members whose part this module plays: its own, and an absent one's that it substitutes. -/
def State.played (s : State) (p : Nat) (im : Image) (r : List Byte) : List Nat :=
  match s.member p im r with
  | none => []
  | some me => me :: (List.range (grN r)).filter (fun i => s.absentMember p r i && substitute r i == some me)

/-- Live port joined to a position. -/
def State.portTo (s : State) (pos : Nat) : Option Nat :=
  (List.range 16).find? (fun k => (s.port k).state == 3 && match (s.port k).peer with
    | some q => q.rack == posRack pos && q.tray == posTray pos && q.slot == posSlot pos
    | none => false)

/-- Messages held on a channel are discarded: none of them is acknowledged (R289). -/
def State.dropAcks (s : State) (ch : Nat) : State :=
  (List.range 16).foldl (fun s p => if ((s.port p).vc ch).heldAcks.isEmpty then s else
    s.updPort p (fun x => x.updVc ch (fun c => { c with heldAcks := [] }))) s

/-! ## What bound modules tell each other on VC 9 (R290, R304, R455; log entry 14) -/

/-- Live ports whose peer holds a rank of the job. -/
def State.rankPorts (s : State) (p : Nat) : List Nat :=
  match (s.part p).ranks with
  | none => []
  | some ts => (List.range 16).filter (fun k => (s.port k).up && match (s.port k).peer with
    | some q => ts.any (fun t => q.rack == posRack t && q.tray == posTray t && q.slot == posSlot t)
    | none => false)

/-- The channels and epochs a module tells a peer: its channel index for each ordinal, that channel's epoch, and the job's rank table. -/
def tellBytes (x : Port) (chans ranks : List Nat) : List Byte :=
  leBytes 4 1 ++ (List.range 8).map (fun i => BitVec.ofNat 8 (chans.getD i 0xFF))
    ++ (List.range 8).map (fun i => match chans[i]? with | some v => BitVec.ofNat 8 (x.vc v).epoch | none => 0#8) ++ ranks.flatMap (leBytes 2)

/-- Tells every rank's port. -/
def State.tell (s : State) (p : Nat) : State :=
  match (s.part p).image, (s.part p).ranks with
  | some im, some ts => (s.rankPorts p).foldl (fun s k => s.sendMsg k 9 0 (tellBytes (s.port k) im.chans ts)) s
  | _, _ => s

/-- The later of two epochs, modulo 256: the one epoch that both ends come to hold (log entry 134). -/
def laterEpoch (a b : Nat) : Nat := if (b + 256 - a) % 256 < 128 then b else a

/-- Takes what a peer told: its channel index for each of this module's channels of the same job, and the later epoch. -/
def State.hearTell (s : State) (k : Nat) (b : List Byte) : State :=
  if fld b 0 4 != 1 then s else
  (List.range 16).foldl (fun s p => match (s.part p).image, (s.part p).ranks with
    | some im, some ts => if ts.flatMap (leBytes 2) != b.drop 20 then s else
        s.updPort k (fun x => im.chans.zipIdx.foldl (fun x v => if fld b (4 + v.2) 1 = 0xFF then x else
          x.updVc v.1 (fun c => { c with outMap := some (fld b (4 + v.2) 1 % 8), epoch := laterEpoch c.epoch (fld b (12 + v.2) 1) })) x)
    | _, _ => s) s

/-- Takes what the peers told before this module's own bind. -/
def State.hearAll (s : State) (p : Nat) : State :=
  (s.rankPorts p).foldl (fun s k => ((s.port k).vc 9).delivered.foldl (fun s m => s.hearTell k m.2) s) s


def Image.chan (im : Image) (ord : Nat) : Nat := im.chans.getD ord 0

/-- Sends a group message to a member: over the port that joins it, or relayed on VC 10 where none does (R466; log entry 16). -/
def State.sendMember (s : State) (p : Nat) (r : List Byte) (im : Image) (dest beat : Nat) (payload : List Byte) : State :=
  match (s.rankPos p (grRank r dest)).bind s.portTo with
  | some k => s.sendMsg k (im.chan (Gr.vcOrd r)) beat payload
  | none => match (List.range 16).find? (fun k => (s.port k).state == 3) with
    | some k => s.sendMsg k 10 beat payload
    | none => s

/-! ## Elements on their way through the stages -/

/-- An element: a code with its scale, an exact record, or a 32-bit word (FP32 partial, or a MAX or MIN operand). -/
inductive CEl where
  | plain (code scale : Nat)
  | exact (r : GlRecord)
  | word (w : Nat)
deriving DecidableEq, Repr

/-- A contribution decoded into a record: a value of 2^128 or more enters as its infinity, with OVERFLOW (R315). -/
def exactOf (fmt code scale : Nat) : GlRecord × Fl :=
  let r0 : GlRecord := ⟨0, 0, 0, false, false, false⟩
  let v := codeValue [] fmt code scale 0
  let f : Fl := { inv := v.2 }
  match v.1 with
  | .fin n a b e =>
    if a != 0 && decide (128 ≤ fracLog2 a b e) then (r0.add (.inf n) 0, { f with ov := true }) else (r0.add (.fin n a b e) 0, f)
  | w => (r0.add w 0, f)

/-- Two records of one element merged. -/
def GlRecord.merge (a b : GlRecord) : GlRecord :=
  ⟨a.acc + b.acc, a.count + 1, a.beat, a.nan || b.nan, a.pinf || b.pinf, a.ninf || b.ninf⟩

/-- The record of an element. -/
def CEl.toExact (fmt : Nat) : CEl → GlRecord × Fl
  | .plain c sc => exactOf fmt c sc
  | .exact r => (r, {})
  | .word _ => (⟨0, 0, 0, false, false, false⟩, {})

/-- A MAX or MIN operand: INT8 and UINT8 travel extended to 32 bits (R317). -/
def extend32 (fmt code : Nat) : Nat := if fmt = 0x0A then ofSigned 32 (toSigned 8 code) else code
/-- The word of an element. -/
def CEl.toWord (fmt redop : Nat) : CEl → Nat
  | .plain c _ => if redop = 2 then c else extend32 fmt c
  | .word w => w
  | .exact _ => 0

/-- Combines the elements of one stage in order (R314 to R317): exact merges, tree32, or MAX and MIN; `ring` folds from the left. -/
def combine (redop fmt : Nat) (ring : Bool) (l : List CEl) : CEl × Fl :=
  match redop with
  | 1 =>
    let rs := l.map (CEl.toExact fmt)
    let f := (rs.map (·.2)).foldl Fl.or {}
    match rs.map (·.1) with
    | a :: t => (.exact (t.foldl GlRecord.merge a), f)
    | [] => (.exact ⟨0, 0, 0, false, false, false⟩, f)
  | 2 =>
    let ws := l.map (CEl.toWord fmt 2)
    if ring then
      match ws with
      | a :: t => (.word (t.foldl (fun x y => (toFp32 (vAdd (ofFp32 x) (ofFp32 y))).1) a), {})
      | [] => (.word 0, {})
    else (.word (tree32 ws.length ws), {})
  | _ =>
    match l.map (CEl.toWord fmt redop) with
    | a :: t => (.word (t.foldl (minMax (redop == 3) (if fmt = 0x00 then 0x00 else 0x08)) a), {})
    | [] => (.word 0, {})

/-- Column-wise combination of lists of elements with the flags so far. -/
def combineAll (redop fmt n : Nat) (ring : Bool) (ls : List (List CEl × Fl)) : List CEl × Fl :=
  let cols := (List.range n).map (fun e => combine redop fmt ring (ls.map (fun l => l.1.getD e (.word 0))))
  (cols.map (·.1), ((ls.map (·.2)) ++ cols.map (·.2)).foldl Fl.or {})

/-! ## Contributions and pads (R310) -/

/-- The pad element of a group. -/
def padEl (r : List Byte) (scale : Nat) : CEl :=
  let f := Gr.elemFmt r
  let neg := Gr.redop r == 3
  match Gr.redop r with
  | 1 | 2 => .plain 0 scale
  | 3 | 4 =>
    if f = 0x00 then .plain (if neg then 0xFF800000 else 0x7F800000) 0
    else if f = 0x0A then .plain (if neg then 0x80 else 0x7F) 0
    else if f = 0x0B then .plain (if neg then 0 else 0xFF) 0
    else .plain (if neg then 0x80000000 else 0x7FFFFFFF) 0
  | _ =>
    if isMx f || f = 0x18 || f = 0x1F then .plain 0 scale
    else if Gr.padKind r = 1 then .plain (Gr.pad r % 2 ^ fmtWidth f) 0
    else .plain (convertPlain f (isInt f) 0 false 0 (padValue (Gr.padKind r) (Gr.pad r) f)).1 0

/-- The hand-offs that cover element `e`, with their ordinals. -/
def covers (I : Instance) (e : Nat) : List (Nat × Nat × Nat) :=
  I.contrib.filterMap (fun h => if h.2.1 ≤ e then (h.2.2[e - h.2.1]?).map (fun v => (h.1, v.1, v.2)) else none)

/-- Scale of the 32-element block of `e` as handed off, 0 where nothing of the block was (R310). -/
def blockScale (I : Instance) (e : Nat) : Nat :=
  match (List.range 32).findSome? (fun i => (covers I (e / 32 * 32 + i)).head?) with
  | some (_, _, sc) => sc
  | none => 0

/-- Stage 0 of one element: the hand-offs with pads for those missing, in ordinal order (R314, R316). -/
def stage0 (r : List Byte) (I : Instance) (absent : Bool) (e : Nat) : CEl × Fl :=
  let hs := if absent then [] else covers I e
  let padOne := padEl r (if absent then 0 else blockScale I e)
  if Gr.pkg r = 1 || Gr.redop r = 0 then
    match hs.head? with | some (_, c, sc) => (.plain c sc, {}) | none => (padOne, {})
  else
    let els := (List.range (Gr.pkg r)).map (fun o =>
      if Gr.redop r = 2 then (match hs.find? (fun h => h.1 == o) with | some (_, c, sc) => CEl.plain c sc | none => padOne)
      else (match hs[o]? with | some (_, c, sc) => CEl.plain c sc | none => padOne))
    combine (Gr.redop r) (Gr.elemFmt r) false els

/-- Beat of the first hand-off that covers an element: the BEAT of its record (R261). -/
def coverBeat (I : Instance) (e : Nat) : Option Nat :=
  ((I.contrib.zip I.beats).find? (fun h => decide (h.1.2.1 ≤ e) && decide (e < h.1.2.1 + h.1.2.2.length))).map (·.2)

/-! ## Messages received -/

/-- Bytes of one element on the wire in a stage message: kind 1 the 44-byte partial; else a 32-bit word for ordered, MAX and MIN;
else bits of the format (R315 to R318). -/
def wireWord (r : List Byte) (result : Bool) : Bool := !result && decide (2 ≤ Gr.redop r)
/-- Format of plain elements on the wire. -/
def wireFmt (r : List Byte) (result : Bool) : Nat := if result && Gr.redop r != 0 then Gr.outFmt r else Gr.elemFmt r

/-- Bits of a packed run. -/
def packedAt (b : List Byte) (w i : Nat) : Nat := bits (leNat (sub b (w * i / 8) ((w * i % 8 + w + 7) / 8))) (w * i % 8 + w - 1) (w * i % 8)
/-- Packs codes of width `w`, low bits first (R36). -/
def packCodes (w : Nat) (cs : List Nat) : List Byte :=
  leBytes ((w * cs.length + 7) / 8) (cs.zipIdx.foldl (fun a c => a + c.1 % 2 ^ w * 2 ^ (w * c.2)) 0)

/-- Element `i` of a message. -/
def msgEl (r : List Byte) (h : CollHeader) (b : List Byte) (i : Nat) : CEl :=
  if h.kind = 1 then
    let q := sub b (44 * i) 44
    .exact ⟨toSigned 320 (fld q 0 40), 1, 0, fbits q 40 0 0 = 1, fbits q 40 1 1 = 1, fbits q 40 2 2 = 1⟩
  else if wireWord r h.result then .word (fld b (4 * i) 4)
  else
    let f := wireFmt r h.result
    let w := fmtWidth f
    .plain (packedAt b w i) (if isMx f then fld b ((w * h.elems + 7) / 8 + i / 32) 1 else 0)

/-- Element `e` of a chunk or slot as received from a member in a stage. -/
def received (r : List Byte) (I : Instance) (k c src : Nat) (result : Bool) (e : Nat) : Option CEl :=
  match I.got.find? (fun m => m.1.stage == k && m.1.chunk == c && m.1.srcMember == src && m.1.result == result && decide (m.1.kind ≤ 1)
      && decide (m.1.first ≤ e) && decide (e < m.1.first + m.1.elems)) with
  | some (h, b) => some (msgEl r h b (e - h.first))
  | none => none

/-- All `n` elements, when every one has arrived. -/
def receivedAll (r : List Byte) (I : Instance) (k c src : Nat) (result : Bool) (n : Nat) : Option (List CEl) :=
  let l := (List.range n).map (received r I k c src result)
  if l.all (·.isSome) then some (l.filterMap id) else none

/-- Sequences a list of options. -/
def allSome {α : Type} : List (Option α) → Option (List α)
  | [] => some []
  | some a :: r => (allSome r).map (a :: ·)
  | none :: _ => none

/-! ## Stage values (R313 to R316) -/

/-- What member `i` holds of chunk `c` after stage `k`, where it is available (`closed`: its contribution has closed). -/
def stageVal (r : List Byte) (I : Instance) (closed : Bool) (absent : Bool) (i c : Nat) : Nat → Option (List CEl × Fl)
  | 0 =>
    if !closed then none else
    let els := (List.range (Gr.chunkLen r c)).map (fun e => stage0 r I absent (c * Gr.chunk r + e))
    some (els.map (·.1), (els.map (·.2)).foldl Fl.or {})
  | k + 1 =>
    let own := stageVal r I closed absent i c k
    let n := Gr.radix r (k + 1)
    if n ≤ 1 then own else
    let len := Gr.chunkLen r c
    if Gr.ring r (k + 1) then
      match own, receivedAll r I (k + 1) c (prevIn r i (k + 1)) false len with
      | some v, some m => some (combineAll (Gr.redop r) (Gr.elemFmt r) len true [(m, {}), v])
      | _, _ => none
    else
      match allSome ((List.range n).map (fun d => if d = digit r i (k + 1) then own
        else (receivedAll r I (k + 1) c (withDigit r i (k + 1) d) false len).map (fun m => (m, ({} : Fl))))) with
      | some ls => some (combineAll (Gr.redop r) (Gr.elemFmt r) len false ls)
      | none => none

/-- What member `i` passes on in a ring stage: its own value, after the partial it received unless it begins the ring. -/
def ringPass (r : List Byte) (I : Instance) (closed absent : Bool) (i c k : Nat) : Option (List CEl × Fl) :=
  match stageVal r I closed absent i c (k - 1) with
  | none => none
  | some v =>
    if digit r i k = (homeDigit r c k + 1) % Gr.radix r k then some v else
    (receivedAll r I k c (prevIn r i k) false (Gr.chunkLen r c)).map (fun m =>
      combineAll (Gr.redop r) (Gr.elemFmt r) (Gr.chunkLen r c) true [(m, {}), v])

/-- The final code of an element at its final home (R262, R315 to R317). -/
def finalCode (r : List Byte) (v : CEl) : Nat × Fl :=
  match Gr.redop r with
  | 1 => let q := v.toExact (Gr.elemFmt r); let g := glacierRound q.1 (Gr.outFmt r) (Gr.rnd r) (Gr.sat r); (g.1, q.2.or g.2)
  | 2 => convertPlain (Gr.outFmt r) false (Gr.rnd r) (Gr.sat r) 0 (ofFp32 (v.toWord 0 2))
  | _ => (v.toWord (Gr.elemFmt r) (Gr.redop r) % 2 ^ fmtWidth (Gr.outFmt r), {})

/-- The first stage at which member `i` is not home of chunk `c`: the stage in which it receives the result. -/
def spreadStage (r : List Byte) (i c : Nat) : Option Nat := (stages r).find? (fun k => digit r i k != homeDigit r c k)

/-- The codes of chunk `c`'s result at member `i`, where formed or received, with the flags of forming them. -/
def chunkResult (r : List Byte) (I : Instance) (closed absent : Bool) (i c : Nat) : Option (List Nat × Fl) :=
  match spreadStage r i c with
  | none => (stageVal r I closed absent i c 3).map (fun v =>
      let q := v.1.map (finalCode r)
      (q.map (·.1), (v.2 :: q.map (·.2)).foldl Fl.or {}))
  | some k =>
    let src := if Gr.ring r k then prevIn r i k else withDigit r i k (homeDigit r c k)
    (receivedAll r I k c src true (Gr.chunkLen r c)).map (fun l =>
      (l.map (fun v => match v with | .plain c _ => c | _ => 0), ({} : Fl)))

/-- The last stage at which slot `j` differs from member `i`: the stage in which it reaches it (R313). -/
def slotStage (r : List Byte) (i j : Nat) : Option Nat := ((stages r).filter (fun k => digit r i k != digit r j k)).getLast?

/-- Slot `j` of an ALL_GATHER at member `i`. -/
def slotVal (r : List Byte) (I : Instance) (closed absent : Bool) (i j : Nat) : Option (List CEl) :=
  match slotStage r i j with
  | none => if closed then some ((List.range (Gr.cap r)).map (fun e => (stage0 r I absent e).1)) else none
  | some k => receivedAll r I k j (if Gr.ring r k then prevIn r i k else withDigit r i k (digit r j k)) true (Gr.cap r)

/-- VALID and DROPPED of slot `j` at member `i` (R311). -/
def slotLen (r : List Byte) (I : Instance) (closed absent : Bool) (i j : Nat) : Option (Nat × Nat) :=
  match slotStage r i j with
  | none => if !closed then none else if absent then some (0, 0) else
      some (I.contrib.foldl (fun m h => if h.2.2.isEmpty then m else max m (h.2.1 + h.2.2.length)) 0, I.beyond.eraseDups.length)
  | some k =>
    let src := if Gr.ring r k then prevIn r i k else withDigit r i k (digit r j k)
    (I.got.find? (fun m => m.1.kind == 3 && m.1.stage == k && m.1.chunk == j && m.1.srcMember == src)).map (fun m => (fld m.2 0 4, fld m.2 4 4))

/-! ## What a module sends -/

/-- A message to be sent: its key (stage, chunk or slot, kind, destination, sending member), result bit, and its elements where they are
available. -/
structure Send where
  stage : Nat
  chunk : Nat
  kind : Nat
  dest : Nat
  src : Nat
  result : Bool
  elems : Nat
  body : Option (List Byte × Fl)
deriving DecidableEq, Repr

def Send.key (m : Send) : Nat × Nat × Nat × Nat × Nat := (m.stage, m.chunk, 2 * m.kind + b2n m.result, m.dest, m.src)

/-- The wire form of the elements of a stage message. -/
def wireBody (r : List Byte) (l : List CEl) : Nat × List Byte :=
  match l with
  | .exact _ :: _ => (1, (l.map (fun e => let q := (e.toExact (Gr.elemFmt r)).1
      leBytes 40 (ofSigned 320 q.acc) ++ leBytes 4 (b2n q.nan + 2 * b2n q.pinf + 4 * b2n q.ninf))).flatten)
  | _ =>
    if 2 ≤ Gr.redop r then (0, (l.map (fun e => leBytes 4 (e.toWord (Gr.elemFmt r) (Gr.redop r)))).flatten)
    else
      let cs := l.map (fun e => match e with | .plain c _ => c | _ => 0)
      let scs := l.map (fun e => match e with | .plain _ x => x | _ => 0)
      (0, packCodes (fmtWidth (Gr.elemFmt r)) cs
        ++ (if isMx (Gr.elemFmt r) then (chunksOf 32 (scs.length / 32 + 1) scs).map (fun b => BitVec.ofNat 8 (b.headD 0)) else []))

/-- Whether stage messages of stage `k` carry partials (KIND 1): some element holds more than one contribution (R315). -/
def partialsAt (r : List Byte) (k : Nat) : Bool := Gr.redop r == 1 && Gr.pkg r * radBelow r k != 1

/-- Reduction messages of member `i` for chunk `c` at stage `k`. -/
def reduceSends (r : List Byte) (I : Instance) (closed absent : Bool) (i c k : Nat) : List Send :=
  if !homeBelow r i c k || digit r i k == homeDigit r c k then [] else
  let v := if Gr.ring r k then ringPass r I closed absent i c k else stageVal r I closed absent i c (k - 1)
  let dest := if Gr.ring r k then nextIn r i k else withDigit r i k (homeDigit r c k)
  let part := partialsAt r k || (Gr.redop r == 1 && Gr.ring r k && digit r i k != (homeDigit r c k + 1) % Gr.radix r k)
  [{ stage := k, chunk := c, kind := b2n part, dest := dest, src := i, result := false, elems := Gr.chunkLen r c,
     body := v.map (fun v => ((wireBody r v.1).2, v.2)) }]

/-- Result messages of member `i` for chunk `c` at stage `k` (ALL_REDUCE). -/
def spreadSends (r : List Byte) (I : Instance) (closed absent : Bool) (i c k : Nat) : List Send :=
  let arrives := spreadStage r i c
  let before := match arrives with | none => true | some j => decide (k < j)
  let here := arrives == some k
  let body := (chunkResult r I closed absent i c).map (fun q => (packCodes (fmtWidth (Gr.outFmt r)) q.1, ({} : Fl)))
  let mk := fun d => ({ stage := k, chunk := c, kind := 0, dest := d, src := i, result := true, elems := Gr.chunkLen r c, body := body } : Send)
  if Gr.ring r k then
    (if before || (here && (digit r i k + 1) % Gr.radix r k != homeDigit r c k) then [mk (nextIn r i k)] else [])
  else if before then ((List.range (Gr.radix r k)).filter (fun d => d != digit r i k)).map (fun d => mk (withDigit r i k d)) else []

/-- Messages of slot `j` from member `i` at stage `k` (ALL_GATHER): the data and its length entry. -/
def gatherSends (r : List Byte) (I : Instance) (closed absent : Bool) (i j k : Nat) : List Send :=
  let at_ := slotStage r i j
  let before := match at_ with | none => true | some m => decide (m < k)
  let dests := if Gr.ring r k then
      (if before || (at_ == some k && (digit r i k + 1) % Gr.radix r k != digit r j k) then [nextIn r i k] else [])
    else if before then ((List.range (Gr.radix r k)).filter (fun d => d != digit r i k)).map (withDigit r i k) else []
  let body := (slotVal r I closed absent i j).map (fun v => ((wireBody r v).2, ({} : Fl)))
  let len := (slotLen r I closed absent i j).map (fun v => (leBytes 4 v.1 ++ leBytes 4 v.2, ({} : Fl)))
  (dests.map (fun d => [(⟨k, j, 0, d, i, true, Gr.cap r, body⟩ : Send), ⟨k, j, 3, d, i, true, 0, len⟩])).flatten

/-- The other members that `i` would exchange data with at stage `k`, to whom an empty message goes in a barrier (R312). -/
def barrierPeers (r : List Byte) (i k : Nat) (from_ : Bool) : List Nat :=
  if Gr.ring r k then [if from_ then prevIn r i k else nextIn r i k]
  else ((List.range (Gr.radix r k)).filter (fun d => d != digit r i k)).map (withDigit r i k)
def barrierGot (r : List Byte) (I : Instance) (i k : Nat) : Bool :=
  (barrierPeers r i k true).all (fun j => I.got.any (fun m => m.1.kind == 2 && m.1.stage == k && m.1.srcMember == j))

/-- Every message member `i` owes in an instance (R312, R313, R318). -/
def owed (r : List Byte) (I : Instance) (closed absent : Bool) (i : Nat) : List Send :=
  if Gr.cap r = 0 then
    ((stages r).map (fun k =>
      let ok := closed && (stages r).all (fun j => decide (k ≤ j) || barrierGot r I i j)
      (barrierPeers r i k false).map (fun d => (⟨k, 0, 2, d, i, false, 0, if ok then some ([], {}) else none⟩ : Send)))).flatten
  else match Gr.op r with
  | 3 => if i = 0 then (List.range (Gr.chunks r)).map (fun c =>
      (⟨1, c, 0, 1, 0, true, Gr.chunkLen r c, if closed then
          some ((wireBody r ((List.range (Gr.chunkLen r c)).map (fun e => (stage0 r I absent (c * Gr.chunk r + e)).1))).2, {})
        else none⟩ : Send)) else []
  | 2 => ((List.range (grN r)).map (fun j => ((stages r).map (gatherSends r I closed absent i j)).flatten)).flatten
  | o => ((List.range (Gr.chunks r)).map (fun c => ((stages r).map (fun k =>
      reduceSends r I closed absent i c k ++ (if o = 0 then spreadSends r I closed absent i c k else []))).flatten)).flatten

/-! ## Results (R319) -/

/-- Number of result elements at a member, and whether an index names one. -/
def resultIndexOk (r : List Byte) (i idx : Nat) : Bool :=
  match Gr.op r with
  | 0 => decide (idx < Gr.cap r)
  | 1 => Gr.chunk r != 0 && decide (idx / Gr.chunk r * grN r + i < Gr.chunks r)
      && decide (idx % Gr.chunk r < Gr.chunkLen r (idx / Gr.chunk r * grN r + i))
  | 2 => decide (idx < grN r * Gr.cap r)
  | _ => i == 1 && decide (idx < Gr.cap r)

/-- The blocks of results a member owes: chunk or slot, first result index, length. -/
def resultBlocks (r : List Byte) (i : Nat) : List (Nat × Nat × Nat) :=
  match Gr.op r with
  | 0 => (List.range (Gr.chunks r)).map (fun c => (c, c * Gr.chunk r, Gr.chunkLen r c))
  | 1 => ((List.range (Gr.chunks r)).filter (fun c => c % grN r == i)).map (fun c => (c, c / grN r * Gr.chunk r, Gr.chunkLen r c))
  | 2 => if Gr.cap r = 0 then [] else (List.range (grN r)).map (fun j => (j, j * Gr.cap r, Gr.cap r))
  | _ => if i = 1 then (List.range (Gr.chunks r)).map (fun c => (c, c * Gr.chunk r, Gr.chunkLen r c)) else []

/-- Codes and scales of a block of results at the member, where available. -/
def blockResult (r : List Byte) (I : Instance) (closed absent : Bool) (i c : Nat) : Option (List (Nat × Nat) × Fl) :=
  let un := fun (l : List CEl) => l.map (fun v => match v with | .plain a b => (a, b) | _ => (0, 0))
  match Gr.op r with
  | 2 => (slotVal r I closed absent i c).map (fun l => (un l, {}))
  | 3 => (receivedAll r I 1 c 0 true (Gr.chunkLen r c)).map (fun l => (un l, {}))
  | _ => (chunkResult r I closed absent i c).map (fun q => (q.1.map (fun a => (a, 0)), q.2))

/-- Format of results. -/
def resultFmt (r : List Byte) : Nat := if Gr.redop r = 0 then Gr.elemFmt r else Gr.outFmt r
/-- Results in the data part of the output area. -/
def resultCount (r : List Byte) : Nat := if Gr.op r = 2 then grN r * Gr.cap r else Gr.cap r
/-- Offsets of the scales and of the length vector in the output area (R319). -/
def outScales (r : List Byte) : Nat := ceilDiv ((fmtWidth (resultFmt r) * resultCount r + 7) / 8) 64 * 64
def outLens (r : List Byte) : Nat := if isMx (resultFmt r) then ceilDiv (outScales r + ceilDiv (resultCount r) 32) 64 * 64 else outScales r


/-! ## The reducer area (R314) -/

/-- Stages with records: the package, and each stage with traffic. -/
def recStages (r : List Byte) : List Nat := 0 :: stages r
/-- Contributions to a record of stage `k`. -/
def recExpect (r : List Byte) (k : Nat) : Nat := if k = 0 then Gr.pkg r else Gr.radix r k
/-- Whether stage `k` holds its elements plain, or as running words. -/
def recPlain (r : List Byte) (k : Nat) : Bool := k == 0 && Gr.pkg r == 1
/-- Bytes of a record of stage `k`. -/
def recBytes (r : List Byte) (k : Nat) : Nat :=
  if recPlain r k then 4 else
  match Gr.redop r with
  | 1 => 64
  | 2 => if k != 0 && Gr.ring r k then 4 else ceilDiv (16 + 4 * recExpect r k) 64 * 64
  | _ => 4
/-- Chunks of which member `i` is home at stage `k`: every chunk at the package. -/
def recChunks (r : List Byte) (i k : Nat) : List Nat := (List.range (Gr.chunks r)).filter (fun c => homeBelow r i c (k + 1))
/-- Bytes of one bank. -/
def bankBytes (r : List Byte) (i : Nat) : Nat :=
  (recStages r).foldl (fun n k => (recChunks r i k).foldl (fun n c => n + Gr.chunkLen r c * recBytes r k) n) 0

/-- The contributions that have reached the record of element `e` of chunk `c` at stage `k`, with their ordinals. -/
def recParts (r : List Byte) (I : Instance) (closed absent : Bool) (i c k e : Nat) : List (Nat × CEl) :=
  if k = 0 then
    let at_ := c * Gr.chunk r + e
    let hs := if absent then [] else covers I at_
    if closed then
      let padOne := padEl r (if absent then 0 else blockScale I at_)
      (List.range (Gr.pkg r)).map (fun o => (o, match hs[o]? with | some (_, v, sc) => CEl.plain v sc | none => padOne))
    else hs.map (fun h => (h.1, CEl.plain h.2.1 h.2.2))
  else
    (List.range (Gr.radix r k)).filterMap (fun d =>
      if d = digit r i k then (stageVal r I closed absent i c (k - 1)).bind (fun v => (v.1[e]?).map (fun x => (d, x)))
      else (received r I k c (if Gr.ring r k then prevIn r i k else withDigit r i k d) false e).map (fun x => (d, x)))

/-- A record with its contributions in: zero where it is complete, as it is before the first (R260, R263; log entry 131). -/
def recImage (r : List Byte) (I : Instance) (k : Nat) (ps : List (Nat × CEl)) : List Byte :=
  let zero := leBytes (recBytes r k) 0
  let word := fun (v : CEl) => leBytes 4 (v.toWord (Gr.elemFmt r) (Gr.redop r))
  if recPlain r k then (match ps.head? with | some (_, .plain v _) => leBytes 4 v | _ => zero) else
  if ps.isEmpty || recExpect r k ≤ ps.length then zero else
  match Gr.redop r with
  | 1 => { (ps.tail.foldl (fun a q => a.merge (q.2.toExact (Gr.elemFmt r)).1) ((ps.headD (0, .word 0)).2.toExact (Gr.elemFmt r)).1) with
             count := ps.length, beat := I.beat : GlRecord }.bytes
  | 2 =>
    if k != 0 && Gr.ring r k then (match ps.head? with | some q => word q.2 | none => zero)
    else leBytes 4 ps.length ++ leBytes 6 I.beat ++ leBytes 6 0 ++ ((List.range (recExpect r k)).map (fun o =>
        match ps.find? (fun q => q.1 == o) with | some q => word q.2 | none => leBytes 4 0)).flatten
      ++ leBytes (recBytes r k - 16 - 4 * recExpect r k) 0
  | _ => word (combine (Gr.redop r) (Gr.elemFmt r) false (ps.map (·.2))).1

/-- One bank of the reducer area: the runs of every stage, chunks ascending. -/
def bankImage (r : List Byte) (I : Instance) (closed absent : Bool) (i : Nat) : List Byte :=
  ((recStages r).map (fun k => ((recChunks r i k).map (fun c => ((List.range (Gr.chunkLen r c)).map (fun e =>
    recImage r I k (recParts r I closed absent i c k e))).flatten)).flatten)).flatten

end Sys2Proof.Machine
end

