-- ==== Sys2Proof/Machine/Kv.lean ====
section
/-!
DEFINITION. Sys2Proof/Machine/Kv.lean: HBM addresses (R230 to R232, R246, R337) and the KV pool: sequence table, page lists,
reference counts, copy on write (R178 to R187).
-/

namespace Sys2Proof.Machine

/-! ## HBM addresses -/

/-- Whether the form of an address is legal: TAG, reserved bits, ordinal offset (R230, R232, Table 8.6). -/
def addrForm (a : Nat) : Bool :=
  match bits a 63 60 with
  | 0x0 => bits a 59 40 == 0 && decide (bits a 33 0 < Config.groupBytes)
  | 0x1 => bits a 59 40 == 0
  | 0x2 => bits a 59 40 == 0
  | 0xB => !bit a 59
  | _ => false

/-- Whether an interleaved offset lies in a weight slot that is LOADING (R337). -/
def loadingAt (w : WeightState) (im : Image) (x : Nat) : Bool :=
  (w.st0 == 1 && (match w.base0 with | some b => decide (b ≤ x) && decide (x < b + w.slotBytes) | none => false))
    || (w.st1 == 1 && decide (im.region 8 ≤ x) && decide (x < im.region 8 + w.slotBytes))

/-- Interleaved offset of a byte address, or the status of the fault it meets (R231, R232, R246, R337, R269). -/
def State.hbmAddr (s : State) (x : Ctx) (a : Nat) : Except Nat Nat :=
  let g := (s.part x.p).geo
  let r : Except Nat Nat :=
    if !addrForm a then .error Config.stIllegalInstr else
    match bits a 63 60 with
    | 0x0 => match ordPhys g (bits a 39 34) (bits a 33 0) with
      | some f => .ok (physInter g f)
      | none => .error Config.stAccessRights
    | 0x1 => if bits a 39 0 < geoBytes g then .ok (bits a 39 0) else .error Config.stAccessRights
    | 0x2 => match (s.core x.c).wideLayer with
      | some l => if bits a 39 0 < 65536 * x.im.needHbm l then .ok (x.im.region 7 + 65536 * s.offHbm x.p x.im l + bits a 39 0)
                  else .error Config.stAccessRights
      | none => .error Config.stIllegalInstr
    | _ => .error Config.stIllegalInstr
  match r with
  | .error e => .error e
  | .ok v => if loadingAt (s.part x.p).ws x.im v then .error Config.stAccessRights else .ok v

/-! ## The KV pool (R178, R184) -/

/-- A sequence table entry (Table 8.5). -/
def State.seqEnt (s : State) (p : Nat) (im : Image) (slot : Nat) : List Byte := s.readX (s.part p).geo (im.region 6 + 32 * slot) 32
namespace Ent
def isOpen (e : List Byte) : Bool := fbits e 0 0 0 = 1
def fmt (e : List Byte) : Nat := fbits e 0 12 8
def tpp (e : List Byte) : Nat := 2 ^ fbits e 0 19 16
def length (e : List Byte) : Nat := fbits e 4 23 0
def maxTokens (e : List Byte) : Nat := fbits e 8 23 0
def shared (e : List Byte) : Nat := fbits e 12 23 0
def layers (e : List Byte) : Nat := fbits e 16 10 0
def gen (e : List Byte) : Nat := fbits e 16 31 16
def units (e : List Byte) : Nat := fld e 20 4
/-- Interleaved offset of the page list (the entry holds it in the interleaved form, TAG 0x1; log entry 13). -/
def pageList (e : List Byte) : Nat := bits (fld e 24 8) 39 0
def pagesMax (e : List Byte) : Nat := ceilDiv (maxTokens e) (tpp e)
/-- Bytes of one token's K or V (R179). -/
def kw (e : List Byte) : Nat := 32768 / tpp e
end Ent

/-- Where the reference counts, the page-list area and the pages begin (Table 11.6, R184). -/
def poolRefs (im : Image) : Nat := im.region 6 + 24576
def poolLists (im : Image) : Nat := poolRefs im + 2 * Req.poolPages im.req
def poolPages0 (im : Image) : Nat := im.region 6 + 65536 * ceilDiv (24576 + 2 * Req.poolPages im.req + 4 * Req.plEntries im.req) 65536
def poolPage (im : Image) (n : Nat) : Nat := poolPages0 im + 65536 * n
def State.refs (s : State) (p : Nat) (im : Image) (n : Nat) : Nat := s.leX (s.part p).geo (poolRefs im + 2 * n) 2
def State.putRefs (s : State) (p : Nat) (im : Image) (n v : Nat) : State :=
  let t := s.storeX p (poolRefs im + 2 * n) (leBytes 2 v)
  match interPhys (s.part p).geo (poolRefs im + 2 * n) with | some a => t.noteShelf (shelfOf a) p 0x260 1 | none => t
/-- Lowers a page's count; a page whose count reaches 0 is free, and its pinned units return (R184, R185). -/
def State.dropRef (s : State) (p : Nat) (im : Image) (n : Nat) : State :=
  let v := s.refs p im n - 1
  let s1 := s.putRefs p im n v
  if v = 0 then s1.updPart p (fun x => { x with pinUnits := x.pinUnits.filter (fun e => e.1 != n) }) else s1
/-- The page a free page is taken from: the lowest with count 0 (R187: any). -/
def State.freePage (s : State) (p : Nat) (im : Image) : Option Nat :=
  (List.range (Req.poolPages im.req)).find? (fun n => s.refs p im n == 0)
/-- Page-list entry of (layer, i) of a slot (R179). -/
def Ent.listAt (e : List Byte) (layer i : Nat) : Nat := Ent.pageList e + 4 * (layer * Ent.pagesMax e + i)

/-- The fields of a KV address (Table 8.6). -/
structure KvAddr where
  token : Nat
  half : Nat
  layer : Nat
  slot : Nat
  gen : Nat
deriving DecidableEq, Repr
def kvAddr (a : Nat) : KvAddr := ⟨bits a 23 0, bits a 24 24, bits a 34 25, bits a 42 35, bits a 58 43⟩

/-- Whether the image's partition holds a sequence slot (R181, R240). -/
def slotOwned (im : Image) (slot : Nat) : Bool := bit (Req.slotMask im.req) slot
/-- A stale holder: the slot is not open or its GEN differs (R181). -/
def kvStale (e : List Byte) (a : KvAddr) : Bool := !Ent.isOpen e || Ent.gen e != a.gen

/-- Interleaved offset of byte `off` of token `t` for reading; none where nothing is mapped (R179, R182). -/
def State.kvRead (s : State) (p : Nat) (e : List Byte) (a : KvAddr) (t off : Nat) (im : Image) : Option Nat :=
  let page := s.leX (s.part p).geo (Ent.listAt e a.layer (t / Ent.tpp e)) 4
  if page = 0xFFFFFFFF then none
  else some (poolPage im page + 32768 * a.half + t % Ent.tpp e * Ent.kw e + off)

/-- Prepares the page of (layer, i) of a slot for writing: maps it, or copies it while its count is above 1 (R187). -/
def State.kvPage (s : State) (p : Nat) (im : Image) (e : List Byte) (layer i : Nat) : State × Option Nat :=
  let at_ := Ent.listAt e layer i
  let page := s.leX (s.part p).geo at_ 4
  if page = 0xFFFFFFFF then
    match s.freePage p im with
    | none => (s, none)
    | some n => ((s.putRefs p im n 1).storeX p at_ (leBytes 4 n), some n)
  else if s.refs p im page ≤ 1 then (s, some page)
  else
    match s.freePage p im with
    | none => (s, none)
    | some n =>
      let s1 := s.storeX p (poolPage im n) (s.readX (s.part p).geo (poolPage im page) 65536)
      (((s1.storeX p at_ (leBytes 4 n)).putRefs p im n 1).dropRef p im page, some n)

/-- Writes bits [lo + w − 1 : lo] of the bytes from an interleaved offset, merging at the home bank (R125). -/
def State.storeBits (s : State) (p x lo w v : Nat) : State :=
  let n := (lo % 8 + w + 7) / 8
  let a := x + lo / 8
  let sh := lo % 8
  let old := s.leX (s.part p).geo a n
  s.storeX p a (leBytes n (old - bits old (sh + w - 1) sh * 2 ^ sh + v % 2 ^ w * 2 ^ sh))

/-- Writes elements (bit offset, width, value) into one token's row; bits past the row's KW bytes are not written. -/
def State.kvWriteRow (s : State) (p : Nat) (im : Image) (e : List Byte) (a : KvAddr) (t : Nat) (els : List (Nat × Nat × Nat)) : State :=
  match s.kvPage p im e a.layer (t / Ent.tpp e) with
  | (s1, none) => s1
  | (s1, some n) =>
    let row := poolPage im n + 32768 * a.half + t % Ent.tpp e * Ent.kw e
    els.foldl (fun s q => if q.1 + q.2.1 ≤ 8 * Ent.kw e then s.storeBits p row q.1 q.2.1 q.2.2 else s) s1

/-- What R183 lets a write of `n` tokens do. -/
def kvRangeOk (e : List Byte) (token n : Nat) : Bool :=
  decide (Ent.shared e ≤ token) && decide (token ≤ Ent.length e) && decide (token + n ≤ Ent.maxTokens e)

/-- KV_PAGE_WRITE: a write of one token's row reaches its page-list entry at the home bank (R181, R183, R187). -/
def execKvPageWrite (p addr : Nat) (data : List Byte) (s : State) : R :=
  if 16 ≤ p then .fault .noSuchUnit else
  match (s.part p).image with
  | none => .next s
  | some im =>
    let a := kvAddr addr
    if s.memHeld p then .next s else
    if bits addr 63 60 ≠ 0xB || !addrForm addr then .next s
    else if !slotOwned im a.slot then .next (s.report p Config.stAccessRights 0 0xFFFFFFFFFFFF ⟨1, 0⟩)
    else
      let e := s.seqEnt p im a.slot
      if kvStale e a then .next (s.fence p 1)
      else if Ent.layers e ≤ a.layer || !kvRangeOk e a.token 1 then .next (s.report p Config.stKvRange 0 0xFFFFFFFFFFFF ⟨1, 0⟩)
      else .next (s.kvWriteRow p im e a a.token (data.zipIdx.map (fun q => (8 * q.2, 8, q.1.toNat)))).answer

end Sys2Proof.Machine
end

