-- ==== Sys2Proof/Machine/TileMove.lean ====
section
/-!
DEFINITION. Sys2Proof/Machine/TileMove.lean: MOVE_IN, MOVE_OUT and MOVE_SLEET (R233 to R238, R264).
-/

namespace Sys2Proof.Machine

/-- A move descriptor (Table 11.4) with TS_BASE relocated. -/
structure MoveDesc where
  hbm : Nat
  stride : Nat
  base : Nat
  ob : Bool
  padKind : Nat
  lstride : Nat
  cols : Nat
  vcols : Nat
  ccw : Nat
  vrows : Nat
  pad : Nat
deriving DecidableEq, Repr

def moveFields (d : List Byte) : MoveDesc :=
  { hbm := fld d 0 8, stride := fld d 8 4, base := fbits d 12 19 0, ob := fbits d 12 20 20 = 1, padKind := fbits d 12 23 21,
    lstride := fbits d 16 19 0, cols := fbits d 20 15 0, vcols := fbits d 20 31 16, ccw := fbits d 24 15 0,
    vrows := fbits d 24 31 16, pad := fld d 28 4 }

/-- Formats whose elements have no value of their own (R235, R237). -/
def blocky (f : Nat) : Bool := isMx f || f == 0x18

/-- The limits of R56, R71, R122, R232 and R237 on MOVE_IN and MOVE_OUT; the local side's format is `lf`. -/
def MoveDesc.valid (m : MoveDesc) (d : List Byte) (len lf : Nat) (isIn : Bool) : Bool :=
  let c := Ccw.of m.ccw
  fbits d 12 31 25 == 0 && fbits d 16 31 20 == 0 && c.valid && c.rnd != 4 && !c.scaleMode
    && !((blocky c.src || blocky c.dst) && c.src != c.dst) && decide (m.vcols ≤ m.cols)
    && (!isIn || (decide (m.padKind ≤ 4) && !(m.padKind == 1 && blocky c.dst)))
    && addrForm m.hbm && rangeOk m.base len ((fmtWidth lf * m.cols + 7) / 8) m.lstride (spaceBytes m.ob)

/-- The descriptor as copied at issue; none where the move is illegal. -/
def State.moveDesc (s : State) (x : Ctx) (len : Nat) (isIn : Bool) : Option MoveDesc :=
  let d := (s.core x.c).descriptor (x.f 15 8)
  let m := moveFields d
  match s.locAddr x m.ob m.base with
  | none => none
  | some b =>
    let m := { m with base := b }
    let c := Ccw.of m.ccw
    if m.valid d len (if isIn then c.dst else c.src) isIn
        && !(bits m.hbm 63 60 == 0x2 && (s.core x.c).wideLayer.isNone) then some m else none

/-- What a tile move waits on (R79, R80, R223, R233). -/
def moveWait (k : Core) (x : Ctx) (ds : List Nat) : Bool :=
  k.draining || k.claimWait ds || (x.f 32 32 = 1 && !bit k.ready (x.f 40 33))

/-- Where byte `off` of row `r` of the HBM side lies, for reading: none for a pad lane (R182). -/
def State.srcPlace (s : State) (x : Ctx) (m : MoveDesc) (r off : Nat) : Except Nat (Option Nat) :=
  if bits m.hbm 63 60 = 0xB then
    let a := kvAddr m.hbm
    if !slotOwned x.im a.slot then .error Config.stAccessRights else
    let e := s.seqEnt x.p x.im a.slot
    if kvStale e a || Ent.length e ≤ a.token + r then .ok none
    else if Ent.layers e ≤ a.layer || Ent.kw e ≤ off then .error Config.stAccessRights
    else .ok (s.kvRead x.p e a (a.token + r) off x.im)
  else
    match s.hbmAddr x ((m.hbm + r * m.stride + off) % 2 ^ 64) with
    | .ok v => .ok (some v)
    | .error e => .error e

/-- An element's code read from the HBM side; none for a pad lane. -/
def State.srcCode (s : State) (x : Ctx) (m : MoveDesc) (w r c : Nat) : Except Nat (Option Nat) :=
  let n := (w * c % 8 + w + 7) / 8
  let bs := (List.range n).map (fun i => s.srcPlace x m r (w * c / 8 + i))
  match bs.find? (fun b => match b with | .error _ => true | _ => false) with
  | some (.error e) => .error e
  | _ =>
    let os := bs.map (fun b => match b with | .ok o => o | .error _ => none)
    if os.any (·.isNone) then .ok none else
    let xs := os.filterMap id
    if xs.any (s.fencedX x.p) then .error Config.stHbmFenced else
    let v := leNat (xs.map (fun a => (s.readX (s.part x.p).geo a 1).headD 0))
    .ok (some (bits v (w * c % 8 + w - 1) (w * c % 8)))

/-- One element converted by a move (R237): bit-exact where the format has no values of its own. -/
def moveConv (c : Ccw) (code : Nat) : Nat × Fl :=
  if c.src = c.dst && (blocky c.src || c.src == 0x1F) then (code, {}) else
  let v := decodeCode c.src code
  let q := convertPlain c.dst (isInt c.src) c.rnd c.sat 0 v.1
  (q.1, { q.2 with inv := q.2.inv || v.2 })

/-- The code a pad element receives (R235). -/
def movePad (m : MoveDesc) (c : Ccw) : Nat :=
  if blocky c.dst || c.dst == 0x1F then 0
  else if m.padKind = 1 then m.pad % 2 ^ fmtWidth c.dst
  else (convertPlain c.dst false c.rnd true 0 (padValue m.padKind m.pad c.dst)).1

/-- Sequences a list of results, failing with the first error. -/
def allOk {α : Type} : List (Except Nat α) → Except Nat (List α)
  | [] => .ok []
  | .error e :: _ => .error e
  | .ok a :: r => match allOk r with | .ok l => .ok (a :: l) | .error e => .error e

/-- Where byte `off` of row `r` addresses a shelf: a KV row addresses its page-list entry (R180, R210). -/
def State.msgPlace (s : State) (x : Ctx) (m : MoveDesc) (r off : Nat) : Option Nat :=
  if bits m.hbm 63 60 = 0xB then
    let a := kvAddr m.hbm
    let e := s.seqEnt x.p x.im a.slot
    some (Ent.listAt e a.layer ((a.token + r) / Ent.tpp e))
  else match s.hbmAddr x ((m.hbm + r * m.stride + off) % 2 ^ 64) with
    | .ok v => some v
    | .error _ => none

/-- Shelves of places of a partition, lowest first. -/
def State.shelvesOf (s : State) (p : Nat) (xs : List Nat) : List Nat :=
  let sh := xs.filterMap (fun v => (interPhys (s.part p).geo v).map shelfOf)
  (List.range 8).filter (fun k => sh.contains k)

/-- Shelves that a move sends a message to: those of its tile at the bucket's bounds, the same for every extent; one without bytes addresses
the shelf of HBM_ADDR (R128, R210; log entry 9). -/
def State.moveShelves (s : State) (x : Ctx) (m : MoveDesc) (len w : Nat) : List Nat :=
  let n := if m.cols = 0 then 0 else (w * m.vcols + 7) / 8
  let rows := min m.vrows (fullField x.im.bytes (s.part x.p).job.bucket x.k 6 (s.core x.c).seq.pc len)
  s.shelvesOf x.p (if rows = 0 || n = 0 then (s.msgPlace x m 0 0).toList else
    ((List.range rows).map (fun r => (List.range n).filterMap (fun i => s.msgPlace x m r i))).flatten)

/-- Counts a message at every shelf it addresses: the state after it, and the shelves that refuse it with their causes (R213). -/
def State.countShelves (s : State) (x : Ctx) : List Nat → State × List (Nat × Nat)
  | [] => (s, [])
  | k :: r =>
    match s.countUnit x.p ⟨1, k⟩ (s.core x.c).seq.curBeat with
    | .ok t => (t.boundary x.p ⟨1, k⟩).countShelves x r
    | .error cause => let q := s.countShelves x r; (q.1, (k, cause) :: q.2)

/-- Each shelf that refuses a message reports its fault (R213, R219). -/
def State.shelfRefuse (s : State) (x : Ctx) (es : List (Nat × Nat)) : State :=
  es.foldl (fun s e => s.report x.p Config.stScheduleFault e.2 (s.core x.c).seq.curBeat ⟨1, e.1⟩) s

/-- Local ranges of the first `n` rows of a move, of `cols` elements of `w` bits. -/
def MoveDesc.ranges (m : MoveDesc) (n cols w : Nat) : List (Bool × Nat × Nat) :=
  (List.range n).map (fun r => (m.ob, m.base + r * m.lstride, (w * cols + 7) / 8))

/-- Interleaved places of the bytes that the rows of a move cover, with a KV move's page-list entries (R180). -/
def State.movePlaces (s : State) (x : Ctx) (m : MoveDesc) (rows w : Nat) : List Nat :=
  ((List.range rows).map (fun r => (List.range ((w * m.vcols + 7) / 8)).filterMap (fun i => match s.srcPlace x m r i with
    | .ok o => o
    | .error _ => none))).flatten
/-- Places of the page-list entries that a KV move translates by. -/
def State.listPlaces (s : State) (x : Ctx) (m : MoveDesc) (rows : Nat) : List Nat :=
  if bits m.hbm 63 60 = 0xB then ((List.range rows).filterMap (fun r => s.msgPlace x m r 0)) else []

/-- The elements of a MOVE_IN in row order: row, column, code and flags (R235). -/
def State.moveInElems (s : State) (x : Ctx) (m : MoveDesc) (len : Nat) : Except Nat (List (Nat × Nat × Nat × Fl)) :=
  let c := Ccw.of m.ccw
  allOk ((List.range len).map (fun r => (List.range m.cols).map (fun q =>
    if r < m.vrows && q < m.vcols then
      match s.srcCode x m (fmtWidth c.src) r q with
      | .error e => .error e
      | .ok none => .ok (r, q, movePad m c, {})
      | .ok (some v) => let t := moveConv c v; .ok (r, q, t.1, t.2)
    else .ok (r, q, movePad m c, {})))).flatten

/-- MOVE_IN (R235). -/
def execMoveIn (c : Nat) (s : State) : R :=
  issue ⟨3, 0, 0⟩ c s (fun x =>
    let len := x.f 31 16
    if x.f 127 41 != 0 then .illegal else
    match s.moveDesc x len true with
    | none => .illegal
    | some m =>
      if moveWait (s.core c) x [x.f 15 8] then .wait s else
      let cw := Ccw.of m.ccw
      let w := fmtWidth cw.dst
      let empty := len = 0 || m.cols = 0 || m.vrows = 0
      let rows := if empty then 0 else min len m.vrows
      s.access x [] (if empty then [] else m.ranges len m.cols w) (fun s =>
        match (if empty then .ok [] else s.moveInElems x m len) with
        | .error e => if e = Config.stIllegalInstr then .illegal else .fault e s
        | .ok els =>
          match s.countShelves x (s.moveShelves x m len (fmtWidth cw.src)) with
          | (s1, []) =>
            let s2 := (s1.loadAt x.p 0 (s.listPlaces x m rows)).loadAt x.p 1 (s.movePlaces x m rows (fmtWidth cw.src))
            let s3 := s2.updCore c (fun k => k.setMem m.ob (els.foldl (fun mm q =>
              mm.putBits (m.base + q.1 * m.lstride) (w * q.2.1) w q.2.2.1) (k.mem m.ob)))
            .ofExtent empty (s3.addFlags x.p c (els.foldl (fun f q => f.or q.2.2.2) {}))
          | (s1, es) => .done (s1.shelfRefuse x es)))

/-- The elements a MOVE_OUT writes: row, column, code and flags (R236). -/
def moveOutElems (k : Core) (m : MoveDesc) (len : Nat) : List (Nat × Nat × Nat × Fl) :=
  let c := Ccw.of m.ccw
  let w := fmtWidth c.src
  ((List.range (min len m.vrows)).map (fun r => (List.range m.vcols).map (fun q =>
    let t := moveConv c ((k.mem m.ob).getBits (m.base + r * m.lstride) (w * q) w)
    (r, q, t.1, t.2)))).flatten

/-- The bytes of an element merged into what its places hold (R125). -/
def State.mergeAt (s : State) (p : Nat) (places : List Nat) (lo w v : Nat) : List (Nat × Byte) :=
  let old := leNat (places.map (fun a => (s.readX (s.part p).geo a 1).headD 0))
  places.zip (leBytes places.length (old - bits old (lo + w - 1) lo * 2 ^ lo + v % 2 ^ w * 2 ^ lo))

/-- Whether a place is served: not fenced, and at no shelf that refused the message. -/
def State.moveServed (s : State) (p : Nat) (refused : List (Nat × Nat)) (v : Nat) : Bool :=
  match interPhys (s.part p).geo v with
  | some a => !s.isFenced a && !refused.any (fun e => e.1 == shelfOf a)
  | none => false

/-- Writes one element at the places of its bytes: into a reducer region as a contribution, else merged at the home bank (R125, R258,
R269). Answers none on a held-space overflow. -/
def State.outElem (s : State) (x : Ctx) (refused : List (Nat × Nat)) (w : Nat) (places : List Nat) (lo code : Nat) : Option State :=
  match places with
  | [] => some s
  | v :: _ =>
    match interPhys (s.part x.p).geo v with
    | none => some s
    | some a =>
      match s.regionAt x.p a with
      | some (e, g) => if g.elemBytes = 0 || !s.moveServed x.p refused v then some s else
          s.regionWrite x (shelfOf a) e g ((a % Config.groupBytes - g.offset) / g.elemBytes) code
      | none => some (s.storeBytes x.p 1 true ((s.mergeAt x.p places lo w code).filter (fun e => s.moveServed x.p refused e.1)))

/-- The places of an element's bytes, as the move found them at issue (R69). -/
def State.elemPlaces (s : State) (x : Ctx) (m : MoveDesc) (w r c : Nat) : List Nat :=
  (List.range ((w * c % 8 + w + 7) / 8)).filterMap (fun i => match s.srcPlace x m r (w * c / 8 + i) with
    | .ok o => o
    | .error _ => none)

/-- All elements of a MOVE_OUT to an HBM address; `at_` gives the places of the element at row and column. -/
def State.outAll (s : State) (x : Ctx) (refused : List (Nat × Nat)) (w : Nat) (at_ : Nat → Nat → List Nat) :
    List (Nat × Nat × Nat × Fl) → Option State
  | [] => some s
  | q :: r =>
    match s.outElem x refused w (at_ q.1 q.2.1) (w * q.2.1 % 8) q.2.2.1 with
    | some t => State.outAll t x refused w at_ r
    | none => none

/-- A KV write of a MOVE_OUT (R181, R183, R187); a row whose page-list entry lies at a shelf that refused the message is not written, and
nothing is then appended. -/
def State.kvOut (s : State) (x : Ctx) (m : MoveDesc) (refused : List (Nat × Nat)) (w rows : Nat) (els : List (Nat × Nat × Nat × Fl)) : Issue :=
  let a := kvAddr m.hbm
  if rows = 0 then .spent s
  else if !slotOwned x.im a.slot then .fault Config.stAccessRights s else
  let e := s.seqEnt x.p x.im a.slot
  if kvStale e a then .done (s.fence x.p 1)
  else if Ent.layers e ≤ a.layer || !kvRangeOk e a.token rows then .fault Config.stKvRange s
  else
    let s1 := (List.range rows).foldl (fun s r =>
      if !(s.msgPlace x m r 0).any (s.moveServed x.p refused) then s else
      s.kvWriteRow x.p x.im e a (a.token + r) ((els.filter (fun q => q.1 == r)).map (fun q => (w * q.2.1, w, q.2.2.1)))) s
    let beat := (s.core x.c).seq.curBeat
    .done (if refused.isEmpty then s1.updJob x.p (fun j => { j with appends := j.appends ++ [(a.slot, a.token + rows, beat)] }) else s1)

/-- MOVE_OUT (R236). -/
def execMoveOut (c : Nat) (s : State) : R :=
  issue ⟨3, 1, 0⟩ c s (fun x =>
    let len := x.f 31 16
    if x.f 127 41 != 0 then .illegal else
    match s.moveDesc x len false with
    | none => .illegal
    | some m =>
      if moveWait (s.core c) x [x.f 15 8] then .wait s else
      let cw := Ccw.of m.ccw
      let w := fmtWidth cw.dst
      let rows := if m.cols = 0 || m.vcols = 0 then 0 else min len m.vrows
      if s.redHeld x.p (s.movePlaces x m rows w) then .wait s else
      s.access x (m.ranges rows m.vcols (fmtWidth cw.src)) [] (fun s =>
        let els := if m.cols = 0 then [] else moveOutElems (s.core c) m len
        let fl := els.foldl (fun f q => f.or q.2.2.2) ({} : Fl)
        let beat := (s.core c).seq.curBeat
        let places := ((List.range rows).map (fun r => (List.range ((w * m.vcols + 7) / 8)).map (fun i => s.srcPlace x m r i))).flatten
        let kv := bits m.hbm 63 60 == 0xB
        match (if kv then none else places.find? (fun q => match q with | .error _ => true | _ => false)) with
        | some (.error e) => if e = Config.stIllegalInstr then .illegal else .fault e s
        | _ =>
          let n := s.countShelves x (s.moveShelves x m len w)
          if kv then
            match n.1.kvOut x m n.2 w rows els with
            | .done t => .done (((t.shelfRefuse x n.2).addFlags x.p c fl).answer)
            | .spent t => .spent (t.shelfRefuse x n.2)
            | o => o
          else
            match n.1.outAll x n.2 w (s.elemPlaces x m w) els with
            | some t => .ofExtent (rows = 0)
                ((((t.fenceReport x.p beat (s.movePlaces x m rows w)).shelfRefuse x n.2).addFlags x.p c fl).answer)
            | none => .wait ((s.stopCore c 6 x.w).report x.p Config.stScheduleFault 6 beat ⟨0, c⟩)))

/-! ## MOVE_SLEET (R264) -/

/-- A sleet descriptor (Table 12.5). -/
structure SleetDesc where
  table : Nat
  stride : Nat
  rows : Nat
  idx : Nat
  idx64 : Bool
  gran : Nat
  dst : Nat
  ob : Bool
  dstStride : Nat
deriving DecidableEq, Repr

def sleetFields (d : List Byte) : SleetDesc :=
  { table := fld d 0 8, stride := fld d 8 4, rows := fld d 12 4, idx := fbits d 16 19 0, idx64 := fbits d 16 20 20 = 1,
    gran := fbits d 16 23 21 + 1, dst := fbits d 20 19 0, ob := fbits d 20 20 20 = 1, dstStride := fbits d 24 19 0 }

def SleetDesc.valid (m : SleetDesc) (d : List Byte) (len : Nat) : Bool :=
  fbits d 16 31 24 == 0 && fbits d 20 31 21 == 0 && fbits d 24 31 20 == 0 && fld d 28 4 == 0
    && m.table % 32 == 0 && m.stride % 32 == 0 && addrForm m.table && decide (bits m.table 63 60 ≤ 1)
    && rangeOk m.idx len (if m.idx64 then 8 else 4) (if m.idx64 then 8 else 4) Config.tsBytes
    && rangeOk m.dst len (32 * m.gran) m.dstStride (spaceBytes m.ob)

/-- The row a list entry names: none where it is missing (R264). -/
def SleetDesc.row (m : SleetDesc) (k : Core) (n : Nat) : Option Nat :=
  let b := if m.idx64 then 8 else 4
  let v := k.ts.le (m.idx + b * n) b
  if v < m.rows && v ≠ 256 ^ b - 1 then some v else none

/-- The bytes of a destination row and the places read, or the fault of the access. -/
def State.sleetRow (s : State) (x : Ctx) (m : SleetDesc) (n : Nat) : Except Nat (List Byte × List Nat) :=
  match m.row (s.core x.c) n with
  | none => .ok (List.replicate (32 * m.gran) 0, [])
  | some v =>
    match allOk ((List.range (32 * m.gran)).map (fun i => s.hbmAddr x ((m.table + v * m.stride + i) % 2 ^ 64))) with
    | .error e => .error e
    | .ok xs => if xs.any (s.fencedX x.p) then .error Config.stHbmFenced
                else .ok (xs.map (fun a => (s.readX (s.part x.p).geo a 1).headD 0), xs)

/-- Interleaved place of the table's first byte. -/
def State.sleetTable (s : State) (x : Ctx) (m : SleetDesc) : List Nat :=
  match s.hbmAddr x m.table with | .ok v => [v] | .error _ => []
/-- Shelf that counts a missing row: the one of the table's first byte. -/
def State.sleetShelf (s : State) (x : Ctx) (m : SleetDesc) : Nat := (s.shelvesOf x.p (s.sleetTable x m)).headD 0

/-- Notes each granule read at its shelf, as served from a line that holds it whole or from the stack (R264, Table 22.4). -/
def State.noteGranules (s : State) (p : Nat) (xs : List Nat) : State :=
  (xs.filter (fun v => v % 32 == 0)).foldl (fun s v => match interPhys (s.part p).geo v with
    | some a => s.noteShelf (shelfOf a) p (if (s.line a).isSome then 0x251 else 0x250) 1
    | none => s) s

/-- MOVE_SLEET: gathers rows of 32-byte granules; a missing row is written with zeros and counted (R264). -/
def execMoveSleet (c : Nat) (s : State) : R :=
  issue ⟨3, 4, 0⟩ c s (fun x =>
    let len := x.f 31 16
    let d := (s.core c).descriptor (x.f 15 8)
    let m0 := sleetFields d
    if x.f 127 41 != 0 then .illegal else
    match s.tsAddr x m0.idx, s.locAddr x m0.ob m0.dst with
    | some ib, some db =>
      let m := { m0 with idx := ib, dst := db }
      if !m.valid d len then .illegal
      else if moveWait (s.core c) x [x.f 15 8] then .wait s else
      s.access x [(false, m.idx, (if m.idx64 then 8 else 4) * len)]
        ((List.range len).map (fun n => (m.ob, m.dst + n * m.dstStride, 32 * m.gran))) (fun s =>
        match allOk ((List.range len).map (s.sleetRow x m)) with
        | .error e => if e = Config.stIllegalInstr then .illegal else .fault e s
        | .ok rows =>
          let places := (rows.map (·.2)).flatten
          let n := s.countShelves x (s.shelvesOf x.p (if places.isEmpty then s.sleetTable x m else places))
          let s1 := n.1
          if !n.2.isEmpty then .done (s1.shelfRefuse x n.2) else
            let s2 := ((s1.noteGranules x.p places).loadAt x.p 3 places).updCore c (fun k => k.setMem m.ob (rows.zipIdx.foldl (fun mm q =>
              mm.writeN (m.dst + q.2 * m.dstStride) q.1.1) (k.mem m.ob)))
            let missing := (rows.filter (fun q => q.2.isEmpty)).length
            .ofExtent (len = 0) (s2.updShelf (s.sleetShelf x m) (fun h => { h with sleetMissing := satAdd 0xFFFFFFFF h.sleetMissing missing })))
    | _, _ => .illegal)

end Sys2Proof.Machine
end

