-- ==== Sys2Proof/Machine/Collective.lean ====
section
/-!
DEFINITION. Sys2Proof/Machine/Collective.lean: hand-offs of the cores and the collective engine's events (R305 to R312, R320 to R331).
-/

namespace Sys2Proof.Machine

def State.updGrp (s : State) (p g : Nat) (f : GroupState → GroupState) : State := s.setGrp p g (f (s.grp p g))
def GroupState.inst (x : GroupState) (q : Nat) : Option Instance := x.insts.find? (fun i => i.seq == q)
def State.updInst (s : State) (p g q : Nat) (f : Instance → Instance) : State :=
  s.updGrp p g (fun x => { x with insts := x.insts.map (fun i => if i.seq = q then f i else i) })
/-- Whether instance `q` has been started: q ≤ S, and not passed over by a later start. -/
def GroupState.isStarted (x : GroupState) (q : Nat) : Bool :=
  (match x.started with | some n => decide (q ≤ n) | none => false) && !x.skipped.contains q
/-- Instance `q` starts: those below it that have not been started are passed over until they are (R309, R328). -/
def GroupState.start (x : GroupState) (q : Nat) : GroupState :=
  let s := match x.started with | some n => n + 1 | none => 0
  { x with started := some (max (s - 1) q), skipped := (x.skipped ++ (List.range (q - s)).map (s + ·)).filter (· != q) }
/-- Whether instance `q` has completed locally. -/
def GroupState.isDone (x : GroupState) (q : Nat) : Bool := x.isStarted q && (x.inst q).isNone
/-- Whether instance `q` may start: instance q − W has completed locally (R309). -/
def GroupState.mayStart (x : GroupState) (w q : Nat) : Bool := decide (q < w) || x.isDone (q - w)

/-- Current beat of a group unit that has completed beat `b` or not. -/
def State.groupBeat (s : State) (p g b : Nat) (im : Image) : Nat :=
  (unitAdvance im ⟨3, g⟩ (b + 1) (b + 2) ((s.part p).job.unit ⟨3, g⟩)).cur
/-- Whether the contributions of an instance have closed: the group unit has completed their beat (R310). -/
def State.closedInst (s : State) (p g : Nat) (im : Image) (I : Instance) : Bool := decide (I.beat < s.groupBeat p g I.beat im)

/-- The 24-byte header of Table 14.5. -/
def collHeaderBytes (g : Nat) (q : Nat) (m : Send) : List Byte :=
  leBytes 4 (g + m.kind * 2 ^ 8 + m.stage * 2 ^ 11 + b2n m.result * 2 ^ 13) ++ leBytes 4 q ++ leBytes 4 m.chunk ++ leBytes 4 m.src
    ++ leBytes 4 0 ++ leBytes 4 m.elems
def Send.header (m : Send) (g q : Nat) : CollHeader := ⟨g, m.kind, m.stage, m.result, q, m.chunk, m.src, 0, m.elems⟩
def collHeaderOf (b : List Byte) : CollHeader :=
  ⟨fbits b 0 7 0, fbits b 0 10 8, fbits b 0 12 11, fbits b 0 13 13 = 1, fld b 4 4, fld b 8 4, fbits b 12 13 0, fld b 16 4, fld b 20 4⟩

/-- Flags of a rounding or decoding are reported to the partition and to the channel that carries the group (R262). -/
def State.addCollFlags (s : State) (p ch : Nat) (f : Fl) : State :=
  (s.addRedFlags p f).updChan ch (fun c => { c with flags := c.flags ||| f.bits3, satCount := satAdd 0xFFFFFFFF c.satCount f.sat })

/-- Sends one owed message, or lands it here where its destination is a member this module plays. -/
def State.sendOne (s : State) (p g : Nat) (im : Image) (r : List Byte) (q : Nat) (beat : Nat) (m : Send) : State :=
  match m.body with
  | none => s
  | some (b, f) =>
    let s1 := (s.updInst p g q (fun i => { i with sent := i.sent ++ [m.key] })).addCollFlags p (im.chan (Gr.vcOrd r)) f
    if (s.played p im r).contains m.dest then s1.updInst p g q (fun i => { i with got := i.got ++ [(m.header g q, b)] })
    else s1.sendMember p r im m.dest beat (collHeaderBytes g q m ++ b)

/-- Messages an instance owes and has not sent, over the members the module plays. -/
def State.toSend (s : State) (p g : Nat) (im : Image) (r : List Byte) (I : Instance) : List Send :=
  let closed := s.closedInst p g im I
  ((s.played p im r).map (fun i => owed r I closed (s.absentMember p r i) i)).flatten.filter (fun m => !I.sent.contains m.key)

/-- Adds 1 to the signal word of a background group by reducer ADD (R324). -/
def State.signalAdd (s : State) (p : Nat) (a : Nat) : State :=
  match devPhys (s.part p).geo a with
  | some f => ((s.storeF p f (leBytes 4 ((s.wordAt f + 1) % 2 ^ 32))).noteShelf (shelfOf f) p 0x260 1).answer
  | none => s

/-- Writes result bytes to the output area; what stood there is kept until their beat commits (R319). -/
def State.landBytes (s : State) (p g q x : Nat) (bs : List Byte) : State :=
  let old := s.readX (s.part p).geo x bs.length
  (s.updJob p (fun j => { j with landed := j.landed ++ [{ group := g, inst := q, place := x, old := old }] })).storeX p x bs
/-- Writes packed result codes from index `i0` on, merged with their neighbours' bits (R125). -/
def State.landCodes (s : State) (p g q x0 w i0 : Nat) (cs : List Nat) : State :=
  let lo := w * i0
  let n := (lo % 8 + w * cs.length + 7) / 8
  let old := s.leX (s.part p).geo (x0 + lo / 8) n
  let top := lo % 8 + w * cs.length
  s.landBytes p g q (x0 + lo / 8) (leBytes n (old % 2 ^ (lo % 8) + leNat (packCodes w cs) * 2 ^ (lo % 8) + old / 2 ^ top * 2 ^ top))

/-- Lands a block of results: noted, and written to the output area with its scales (R319). -/
def State.landBlock (s : State) (p g : Nat) (im : Image) (r : List Byte) (q : Nat) (blk : Nat × Nat × Nat) (cs : List (Nat × Nat)) (f : Fl) :
    State :=
  let w := fmtWidth (resultFmt r)
  let s1 := (s.updInst p g q (fun i => { i with results := i.results ++ cs.zipIdx.map (fun c => (blk.2.1 + c.2, c.1.1, c.1.2)) })).addCollFlags
    p (im.chan (Gr.vcOrd r)) f
  if Gr.outAddr r = 0 then s1 else
  let x0 := bits (Gr.outAddr r) 39 0
  let s2 := s1.landCodes p g q x0 w blk.2.1 (cs.map (·.1))
  let s3 := if isMx (resultFmt r) then
    s2.landBytes p g q (x0 + outScales r + ceilDiv blk.2.1 32)
      ((cs.zipIdx.filter (fun c => (blk.2.1 + c.2) % 32 == 0)).map (fun c => BitVec.ofNat 8 c.1.2))
    else s2
  let s4 := s3.answer
  if Gr.overlap r then (s4.signalAdd p (Gr.signal r)).updInst p g q (fun i => { i with signalled := i.signalled ++ [blk.1] }) else s4

/-- Lands every block of results that has become available, and the length entries of an ALL_GATHER. -/
def State.landResults (s : State) (p g : Nat) (im : Image) (r : List Byte) (q : Nat) : State :=
  match s.member p im r, (s.grp p g).inst q with
  | some me, some I =>
    let closed := s.closedInst p g im I
    let s1 := (resultBlocks r me).foldl (fun s blk =>
      if I.results.any (fun x => x.1 == blk.2.1) || blk.2.2 = 0 then s else
      match blockResult r I closed false me blk.1 with
      | some (cs, f) => s.landBlock p g im r q blk cs f
      | none => s) s
    if Gr.op r != 2 then s1 else
    (List.range (grN r)).foldl (fun s j =>
      if I.lens.any (fun l => l.1 == j) then s else
      match slotLen r I closed false me j with
      | none => s
      | some (v, d) =>
        let s2 := s.updInst p g q (fun i => { i with lens := i.lens ++ [(j, v, d)] })
        if Gr.outAddr r = 0 then s2 else s2.landBytes p g q (bits (Gr.outAddr r) 39 0 + outLens r + 8 * j) (leBytes 4 v ++ leBytes 4 d)) s1
  | _, _ => s

/-- Whether an earlier instance of the group has messages still to send, or has yet to start: it sends first (R327). -/
def State.sendsBefore (s : State) (p g : Nat) (im : Image) (r : List Byte) (q : Nat) : Bool :=
  (s.grp p g).skipped.any (· < q) || (s.grp p g).insts.any (fun j => decide (j.seq < q) && !(s.toSend p g im r j).isEmpty)

/-- One round of an instance's progress: what is available is sent, in its turn, and landed. -/
def State.progressOnce (s : State) (p g : Nat) (im : Image) (r : List Byte) (q : Nat) : State :=
  match (s.grp p g).inst q with
  | none => s
  | some I => (if s.sendsBefore p g im r q then s
      else (s.toSend p g im r I).foldl (fun s m => s.sendOne p g im r q I.beat m) s).landResults p g im r q

/-- Whether an instance has completed locally (R309, R312). -/
def State.instDone (s : State) (p g : Nat) (im : Image) (r : List Byte) (I : Instance) : Bool :=
  !I.failed && s.closedInst p g im I && (s.toSend p g im r I).isEmpty && I.posted.all (·.delivered)
    && (match s.member p im r with
        | none => true
        | some me =>
          if Gr.cap r = 0 then (stages r).all (barrierGot r I me)
          else (resultBlocks r me).all (fun b => b.2.2 == 0 || I.results.any (fun x => x.1 == b.2.1))
            && (Gr.op r != 2 || I.lens.length == grN r))

/-- Writes an instance's bank of the reducer area, bank q mod W, where it has changed (R314). -/
def State.writeRecords (s : State) (p g : Nat) (im : Image) (r : List Byte) (q : Nat) : State :=
  match s.member p im r, (s.grp p g).inst q with
  | some me, some I =>
    if Gr.redop r = 0 || Gr.redAddr r = 0 then s else
    let at_ := bits (Gr.redAddr r) 39 0 + q % Gr.window r * bankBytes r me
    let bs := bankImage r I (s.closedInst p g im I) false me
    if s.readX (s.part p).geo at_ bs.length = bs then s else s.storeX p at_ bs
  | _, _ => s

/-- The beat that an instance's results belong to once it has completed locally: the first that the group unit completes afterwards
(R319; log entry 132). -/
def State.resultBeat (s : State) (p g b : Nat) (im : Image) : Nat := max (s.groupBeat p g b im) (s.part p).job.nextCommit

/-- Progress of one instance as far as it goes, and its local completion. -/
def State.advanceInst (s : State) (p g : Nat) (im : Image) (r : List Byte) (q : Nat) : State :=
  let s1 := ((List.range 9).foldl (fun s _ => s.progressOnce p g im r q) s).writeRecords p g im r q
  match (s1.grp p g).inst q with
  | none => s1
  | some I =>
    if !s1.instDone p g im r I then s1 else
    let ch := im.chan (Gr.vcOrd r)
    let s2 := if Gr.overlap r && (resultBlocks r ((s.member p im r).getD 0)).isEmpty then s1.signalAdd p (Gr.signal r) else s1
    let top := match (s2.grp p g).completed with | some n => max n q | none => q
    let beat := s2.resultBeat p g I.beat im
    let s3 := s2.updJob p (fun j => { j with landed := j.landed.map (fun l => if l.group = g && l.inst = q then { l with beat := some beat } else l) })
    let figs := if Gr.op r = 3 && s2.member p im r = some 0 then (slotLen r I true false 0 0).map (fun v => (q, v.1, v.2)) else none
    (s3.updGrp p g (fun x => { x with insts := x.insts.filter (fun i => i.seq != q), completed := some top, figures := figs.or x.figures })).updChan
      ch (fun c => { c with completed := top })

/-- Progress of an instance, and of the later ones started, whose turn to send it may bring. -/
def State.progress (s : State) (p g : Nat) (im : Image) (r : List Byte) (q : Nat) : State :=
  (List.range (Gr.window r + 1)).foldl (fun s i => if (s.grp p g).isStarted (q + i) then s.advanceInst p g im r (q + i) else s) s

/-- Progress of every started instance of a group. -/
def State.progressGroup (s : State) (p g : Nat) : State :=
  match (s.part p).image with
  | none => s
  | some im => match groupRec im g with
    | none => s
    | some r => ((s.grp p g).insts.filter (fun i => (s.grp p g).isStarted i.seq)).foldl (fun s i => s.progress p g im r i.seq) s

/-! ## Holds (R330, R341) -/

/-- Whether a channel is in use by another group of the partition, or by a load: what comes for group `g` is held. -/
def State.chanBusy (s : State) (p g : Nat) (im : Image) (ord : Nat) : Bool :=
  (s.chan (im.chan ord)).loadHold.isSome || !(s.chan (im.chan ord)).early.all (fun e => e.2.1.group == g)
    || (tpRecords im.bytes 0x06).any (fun r2 => fbits r2 0 7 0 != g && Gr.vcOrd r2 == ord
        && !(s.grp p (fbits r2 0 7 0)).insts.isEmpty)

/-- The hold of a group on a channel begins, or goes on. -/
def State.holdOn (s : State) (ch g : Nat) : State :=
  s.updChan ch (fun c => match c.holdFrom with
    | some _ => c
    | none => { c with holdFrom := some s.dtb, holdGroup := g, holds := satAdd 0xFFFF c.holds 1 })
/-- The hold of a group ends where no message of it is held. -/
def State.holdOff (s : State) (ch g : Nat) : State :=
  s.updChan ch (fun c => if c.heldMsgs.isEmpty && c.holdGroup == g then { c with holdFrom := none } else c)

/-! ## Hand-offs (R306 to R309) -/

/-- Fields of a collective descriptor (Table 14.3). -/
structure CollDesc where
  src : Nat
  srcOb : Bool
  dst : Nat
  dstOb : Bool
  elem0 : Nat
  count : Nat
  flag : Nat
  srcScale : Nat
  dstScale : Nat
deriving DecidableEq, Repr

def collDesc (d : List Byte) : CollDesc :=
  ⟨fbits d 0 19 0, fbits d 0 20 20 = 1, fbits d 4 19 0, fbits d 4 20 20 = 1, fld d 8 4, fld d 12 4, fbits d 16 7 0, fbits d 20 19 0,
    fbits d 24 19 0⟩
def collReserved (d : List Byte) : Bool :=
  fbits d 0 31 21 != 0 || fbits d 4 31 21 != 0 || fbits d 16 31 8 != 0 || fbits d 20 31 20 != 0 || fbits d 24 31 20 != 0 || fld d 28 4 != 0

/-- PSEQ of a hand-off (R305). -/
def handPseq (x : Ctx) (q : Seq) : Nat :=
  let lvl := x.f 66 64
  let it := if lvl = 0 then 0 else ((q.loops.reverse)[lvl - 1]?.map (·.iter)).getD 0
  (x.f 47 24 + x.f 63 48 * it) % 2 ^ 32

/-- Blocks of 32 result or contribution indices that a range touches, and the place of an index's block among them (R307). -/
def blocksOf (e0 n : Nat) : Nat := if n = 0 then 0 else (e0 + n - 1) / 32 - e0 / 32 + 1
def blockAt (e0 i : Nat) : Nat := (e0 + i) / 32 - e0 / 32

/-- Whether a hand-off is an illegal instruction (R306, R307). -/
def State.handIllegal (s : State) (x : Ctx) (r : List Byte) (me : Nat) (d : CollDesc) : Bool :=
  let op := x.f 7 4
  let con := x.f 67 67 = 1
  let rcv := x.f 68 68 = 1
  let fmtC := Gr.elemFmt r
  let fmtR := resultFmt r
  let fits := fun ob base f n => decide (base + (fmtWidth f * n + 7) / 8 ≤ spaceBytes ob)
  let fitsS := fun (ob : Bool) base f n => !isMx f || decide (base + blocksOf d.elem0 n ≤ spaceBytes ob)
  x.f 127 94 != 0 || Gr.op r != min op 3 || (!con && !rcv) || (con && rcv && op != 0)
    || (op == 3 && (!con || me != 0)) || (op == 4 && (!rcv || me != 1))
    || decide ((s.core x.c).seq.loops.length < x.f 66 64) || decide (5 ≤ x.f 66 64) || decide (Gr.pkg r ≤ x.f 93 78)
    || (rcv && !(List.range d.count).all (fun i => resultIndexOk r me (d.elem0 + i)))
    || (con && !(fits d.srcOb d.src fmtC d.count && fitsS d.srcOb d.srcScale fmtC d.count))
    || (rcv && !(fits d.dstOb d.dst fmtR d.count && fitsS d.dstOb d.dstScale fmtR d.count))

/-- The elements a hand-off reads: code and scale. -/
def handElems (k : Core) (f : Nat) (d : CollDesc) : List (Nat × Nat) :=
  let m := k.mem d.srcOb
  (List.range d.count).map (fun i => (m.getBits d.src (fmtWidth f * i) (fmtWidth f), if isMx f then (m.read (d.srcScale + blockAt d.elem0 i)).toNat else 0))

/-- Most hand-offs that may cover one element (R308). -/
def coverLimit (r : List Byte) : Nat := if Gr.redop r = 0 then 1 else Gr.pkg r

/-- A hand-off that the group unit refuses: the schedule fault is recorded in the issuing core (R219). -/
def State.handFault (s : State) (x : Ctx) (g cause : Nat) : State :=
  let q := (s.core x.c).seq
  (s.updSeq x.c (fun q => { q with run := 5, cause := cause, srcKind := 3, src := g, faultBeat := q.curBeat, faultPc := 16 * q.pc,
                                   faultInstr := x.w })).report x.p Config.stScheduleFault cause q.curBeat ⟨3, g⟩

/-- Whether a contribution to element `e` is surplus: a cover beyond the limit of R308, or a second one of an ordinal (R263). -/
def isSurplus (r : List Byte) (I : Instance) (ord e : Nat) : Bool :=
  let cs := covers I e
  decide (coverLimit r ≤ cs.length) || (Gr.redop r == 2 && cs.any (fun c => c.1 == ord))
/-- Whether a contribution meets an open record of another beat: a sum that the reducers form over several hand-offs (R261, R262). -/
def offBeat (r : List Byte) (I : Instance) (beat e : Nat) : Bool :=
  (Gr.redop r == 1 || Gr.redop r == 2) && Gr.pkg r != 1 && (match coverBeat I e with | some b => b != beat | none => false)
/-- Shelf of the reducer area of a group, where its records begin. -/
def State.redShelf (s : State) (p : Nat) (r : List Byte) : Nat :=
  match interPhys (s.part p).geo (bits (Gr.redAddr r) 39 0) with | some a => shelfOf a | none => 0

/-- Contributions of a hand-off as runs of consecutive indices: one run where all of them enter. -/
def runsOf (ord : Nat) (all kept : List (Nat × Nat × Nat)) : List (Nat × Nat × List (Nat × Nat)) :=
  if kept.length = all.length then (match kept.head? with | some e => [(ord, e.1, kept.map (·.2))] | none => [])
  else kept.map (fun e => (ord, e.1, [e.2]))

/-- The effect of a hand-off that its group unit has counted. Surplus elements are discarded and fault the core (R308); elements that meet an
open record of another beat are discarded and reported by the shelf (R262); either keeps the instance from completing. An index at CAP or
above is counted once (R311). -/
def State.handOff (s : State) (x : Ctx) (g : Nat) (r : List Byte) (q : Nat) (d : CollDesc) : Issue :=
  let k := s.core x.c
  let con := x.f 67 67 = 1
  let rcv := x.f 68 68 = 1
  let ch := x.im.chan (Gr.vcOrd r)
  let ord := x.f 93 78
  let beat := k.seq.curBeat
  let els := if con then (handElems k (Gr.elemFmt r) d).zipIdx.map (fun e => (d.elem0 + e.2, e.1)) else []
  let old := ((s.grp x.p g).inst q).getD { seq := q }
  let I0 := if old.cores.isEmpty then { old with beat := beat } else old
  let here := els.filter (fun e => e.1 < Gr.cap r)
  let past := ((els.map (·.1)).filter (fun e => Gr.cap r ≤ e)).filter (fun e => !I0.beyond.contains e)
  let fits := here.filter (fun e => !isSurplus r I0 ord e.1)
  let kept := fits.filter (fun e => !offBeat r I0 beat e.1)
  let runs := runsOf ord here kept
  let I1 : Instance := { I0 with
    contrib := I0.contrib ++ runs
    beats := I0.beats ++ runs.map (fun _ => beat)
    beyond := I0.beyond ++ past
    posted := if rcv then I0.posted ++ [{ core := x.c, ob := d.dstOb, dst := d.dst, scale := d.dstScale, elem0 := d.elem0, count := d.count,
                                          flag := d.flag }] else I0.posted
    cores := if I0.cores.contains x.c then I0.cores else I0.cores ++ [x.c]
    failed := I0.failed || kept.length != here.length }
  let s1 := s.updGrp x.p g (fun y => { y with insts := y.insts.filter (fun i => i.seq != q) ++ [I1] })
  let s2 := s1.updChan ch (fun c => { c with dropped := satAdd 0xFFFFFFFF c.dropped past.length })
  let s3 := (s2.holdOff ch g).progressGroup x.p g
  let s4 := if kept.length != fits.length then s3.shelfFault x.p (s3.redShelf x.p r) beat else s3
  if fits.length != here.length then .wait (s4.handFault x g 4) else .ofExtent (d.count = 0) s4

/-- Local ranges that a hand-off reads: its elements and their scales. -/
def handReads (r : List Byte) (d : CollDesc) : List (Bool × Nat × Nat) :=
  let f := Gr.elemFmt r
  [(d.srcOb, d.src, (fmtWidth f * d.count + 7) / 8)] ++ (if isMx f then [(d.srcOb, d.srcScale, blocksOf d.elem0 d.count)] else [])
/-- The descriptor with its tile-store addresses relocated, scales where the format has any (R246). -/
def State.handDesc (s : State) (x : Ctx) (r : List Byte) (d : CollDesc) : Option CollDesc :=
  let sc := fun (ob : Bool) (f a : Nat) => if isMx f then s.locAddr x ob a else some a
  match s.locAddr x d.srcOb d.src, s.locAddr x d.dstOb d.dst, sc d.srcOb (Gr.elemFmt r) d.srcScale, sc d.dstOb (resultFmt r) d.dstScale with
  | some a, some b, some c, some e => some { d with src := a, dst := b, srcScale := c, dstScale := e }
  | _, _, _, _ => none

/-- A hand-off of row `op` (R306). -/
def handoff (op c : Nat) (s : State) : R :=
  issue ⟨5, op, 0⟩ c s (fun x =>
    let g := x.f 23 16
    match groupRec x.im g with
    | none => .illegal
    | some r =>
      match s.member x.p x.im r with
      | none => .illegal
      | some me =>
        let raw := (s.core c).descriptor (x.f 15 8)
        match s.handDesc x r (collDesc raw) with
        | some d =>
          if collReserved raw || s.handIllegal x r me d then .illegal else
          let k := s.core c
          let q := handPseq x k.seq
          if k.draining || k.claimWait [x.f 15 8] || (x.f 69 69 = 1 && !bit k.ready (x.f 77 70)) then .wait s
          else if s.chanBusy x.p g x.im (Gr.vcOrd r) then .wait (s.holdOn (x.im.chan (Gr.vcOrd r)) g)
          else if !(s.grp x.p g).isStarted q && !(s.grp x.p g).mayStart (Gr.window r) q then .wait s
          else s.access x (if x.f 67 67 = 1 then handReads r d else []) [] (fun s =>
            match s.countUnit x.p ⟨3, g⟩ (s.core c).seq.curBeat with
            | .error cause => .wait (s.handFault x g cause)
            | .ok s1 => if (s.grp x.p g).isDone q then .wait (s1.handFault x g 2) else s1.handOff x g r q d)
        | none => .illegal)

/-- ALL_REDUCE. -/
def execAllReduce (c : Nat) (s : State) : R := handoff 0 c s
/-- REDUCE_SCATTER. -/
def execReduceScatter (c : Nat) (s : State) : R := handoff 1 c s
/-- ALL_GATHER. -/
def execAllGather (c : Nat) (s : State) : R := handoff 2 c s
/-- P2P_SEND. -/
def execP2pSend (c : Nat) (s : State) : R := handoff 3 c s
/-- P2P_RECV. -/
def execP2pRecv (c : Nat) (s : State) : R := handoff 4 c s

/-! ## Stage messages in place (R328, R262) -/

/-- Whether a message of a sum's record bears another beat than its instance (R261, R262). -/
def stageOffBeat (r : List Byte) (I : Instance) (h : CollHeader) (beat : Nat) : Bool :=
  !I.cores.isEmpty && decide (h.kind ≤ 1) && !h.result && (Gr.redop r == 1 || (Gr.redop r == 2 && !Gr.ring r h.stage)) && beat != I.beat

/-- A stage message of an instance that the module has started, or passed over, lands; a contribution of another beat is discarded and
reported by the shelf. -/
def State.landStage (s : State) (p : Nat) (im : Image) (r : List Byte) (h : CollHeader) (beat : Nat) (b : List Byte) : State :=
  let x := s.grp p h.group
  let s := if (x.inst h.pseq).isSome then s else s.updGrp p h.group (fun y => { y with insts := y.insts ++ [{ seq := h.pseq }] })
  match (s.grp p h.group).inst h.pseq with
  | none => s
  | some I =>
    if stageOffBeat r I h beat then (s.updInst p h.group h.pseq (fun i => { i with failed := true })).shelfFault p (s.redShelf p r) beat
    else
      let t := s.updInst p h.group h.pseq (fun i => { i with got := i.got ++ [(h, b)] })
      if x.isStarted h.pseq then t.progress p h.group im r h.pseq else t

/-! ## INSTANCE_START (R309) -/

/-- The lowest instance handed off and not started. -/
def GroupState.waiting (x : GroupState) : Option Nat :=
  (x.insts.filter (fun i => !x.isStarted i.seq && !i.cores.isEmpty)).foldl (fun m i => match m with | none => some i.seq | some n => some (min n i.seq)) none

/-- INSTANCE_START: the engine starts the lowest instance handed off, once instance q − W has completed locally and its channel is
free, and replays its early arrivals. -/
def execInstanceStart (p group : Nat) (s : State) : R :=
  if 16 ≤ p || 256 ≤ group then .fault .noSuchUnit else
  match (s.part p).image with
  | none => .next s
  | some im =>
    match groupRec im group, (s.grp p group).waiting with
    | some r, some q =>
      let ch := im.chan (Gr.vcOrd r)
      if !(s.grp p group).mayStart (Gr.window r) q then .next s
      else if s.chanBusy p group im (Gr.vcOrd r) then .next (s.holdOn ch group) else
      let early := (s.chan ch).early.filter (fun e => e.2.1.group == group && e.2.1.pseq == q)
      let s1 := s.updGrp p group (fun x => x.start q)
      let s2 := s1.updChan ch (fun c => { c with
        started := ((s1.grp p group).started).getD q
        group := group
        early := c.early.filter (fun e => !(e.2.1.group == group && e.2.1.pseq == q)) })
      let s3 := early.foldl (fun s e => s.landStage p im r e.2.1 e.2.2.1 e.2.2.2) s2
      .next ((s3.holdOff ch group).progress p group im r q)
    | _, _ => .next s

/-! ## COLLECTIVE_MESSAGE (R328 to R331) -/

/-- Bytes in a channel's early-arrival buffer. -/
def Channel.earlyBytes (c : Channel) : Nat := c.early.foldl (fun n e => n + e.2.2.2.length) 0

/-- ST_ORDER_SKEW is reported for a channel: a contained fault of its owner (R330, R331). -/
def State.orderSkew (s : State) (ch g beat : Nat) : State :=
  ((s.dropAcks ch).updChan ch (fun c => { c with skewReports := satAdd 0xFFFF c.skewReports 1, holdFrom := none, heldMsgs := [] })).report
    (s.chan ch).owner Config.stOrderSkew 0 beat ⟨3, g⟩

/-- Handles an arriving stage message of a group of the channel: the instance by Table 14.6, the beat by the window of R29; the beat of an
instance that is open here is in the window until the instance completes (Table 14.7; log entry 88). A point-to-point message is counted
by the port as well, where the plan assigns any to it (R291). -/
def State.collArrive (s : State) (p : Nat) (im : Image) (r : List Byte) (port ch : Nat) (h : CollHeader) (beat : Nat) (b : List Byte) : State :=
  let x := s.grp p h.group
  let u : UnitId := ⟨3, h.group⟩
  let cur := (unitAdvance im u beat (beat + 1) ((s.part p).job.unit u)).cur
  let s0 := match x.started with | some n => n + 1 | none => 0
  let own := match x.inst h.pseq with | some I => !I.cores.isEmpty && I.beat == beat | none => false
  if x.isDone h.pseq then s.report p Config.stScheduleFault 2 beat u
  else if s0 + Gr.window r ≤ h.pseq then s.orderSkew ch h.group beat
  else if beat < cur && !own then s.report p Config.stScheduleFault 2 beat u
  else if cur + planWin im u < beat then s.report p Config.stScheduleFault 3 beat u
  else
    let land := fun (s : State) => if h.pseq < s0 then s.landStage p im r h beat b
      else s.updChan ch (fun c => { c with early := c.early ++ [(port, h, beat, b)] })
    let v : UnitId := ⟨2, port⟩
    if Gr.op r != 3 || !planHas im v then land s else
    match s.countUnit p v beat with
    | .error cause => s.report p Config.stScheduleFault cause beat v
    | .ok t => land (t.boundary p v)

/-- A stage message on a collective channel: bound group, kind, hold, then Table 14.6 (R320, R330). -/
def State.collMessage (s : State) (port ch : Nat) (h : CollHeader) (beat : Nat) (b : List Byte) : State :=
  let c := s.chan ch
  if !c.bound then s else
  match (s.part c.owner).image with
  | none => s
  | some im =>
    match groupRec im h.group with
    | some r =>
      if im.chan (Gr.vcOrd r) != ch || 4 ≤ h.kind then s.report c.owner Config.stScheduleFault 0 beat ⟨2, port⟩
      else if s.chanBusy c.owner h.group im (Gr.vcOrd r) then
        (s.holdOn ch h.group).updChan ch (fun c => { c with heldMsgs := c.heldMsgs ++ [(port, h, beat, b)] })
      else s.collArrive c.owner im r port ch h beat b
    | none => s.report c.owner Config.stScheduleFault 0 beat ⟨2, port⟩

/-- Messages held on a channel that is free again take their place. -/
def State.releaseHeld (s : State) (ch : Nat) : State :=
  let held := (s.chan ch).heldMsgs
  let t := held.foldl (fun s m => s.collMessage m.1 ch m.2.1 m.2.2.1 m.2.2.2) (s.updChan ch (fun c => { c with heldMsgs := [] }))
  if held.isEmpty then s else t.holdOff ch (t.chan ch).holdGroup

/-- COLLECTIVE_MESSAGE: a message on channel `vc` of a port arrives, behind those held there. -/
def execCollectiveMessage (port vc : Nat) (h : CollHeader) (beat : Nat) (payload : List Byte) (s : State) : R :=
  if 16 ≤ port || 8 ≤ vc then .fault .noSuchUnit else
  .next ((s.releaseHeld vc).collMessage port vc h (beat % 2 ^ 48) payload)

/-! ## RESULT_DELIVERY (R321 to R324) -/

/-- The posted ranges of a group that await delivery: instance and place among its posted ranges. -/
def GroupState.awaiting (x : GroupState) : List (Nat × Nat × Posted) :=
  ((x.insts.filter (fun i => x.isStarted i.seq)).map (fun i =>
    (i.posted.zipIdx.filter (fun q => !q.1.delivered)).map (fun q => (i.seq, q.2, q.1)))).flatten

/-- The local bytes of a delivery: packed codes, no bit past the last (R125), and the scales of an MX format. -/
def postedWrites (r : List Byte) (I : Instance) (q : Posted) : List LocalWrite :=
  let w := fmtWidth (resultFmt r)
  let el := fun i => (I.results.find? (fun x => x.1 == q.elem0 + i)).map (·.2) |>.getD (0, 0)
  let n := (w * q.count + 7) / 8
  let data : LocalWrite := ⟨q.ob, q.dst, packCodes w ((List.range q.count).map (fun i => (el i).1)), leBytes n (2 ^ (w * q.count) - 1)⟩
  let scales : LocalWrite := ⟨q.ob, q.scale, (List.range (blocksOf q.elem0 q.count)).map (fun b =>
    BitVec.ofNat 8 (el (if b = 0 then 0 else (q.elem0 / 32 + b) * 32 - q.elem0)).2), []⟩
  (if q.count = 0 then [] else [data]) ++ (if isMx (resultFmt r) && q.count != 0 then [scales] else [])

/-- Whether a posted range holds a result index. -/
def Posted.covers (q : Posted) (e : Nat) : Bool := decide (q.elem0 ≤ e) && decide (e < q.elem0 + q.count)
/-- Chunks of a background instance whose results have all reached posted ranges with this one, and that nothing has signalled (R324). -/
def postedChunks (r : List Byte) (me : Nat) (I : Instance) (q : Posted) : List Nat :=
  let ps := q :: I.posted.filter (·.delivered)
  ((resultBlocks r me).filter (fun b => b.2.2 != 0 && !I.signalled.contains b.1
    && (List.range b.2.2).all (fun i => ps.any (fun x => x.covers (b.2.1 + i))))).map (·.1)

/-- Whether what a posted range waits for is here: its results, or, for a range of no elements, the whole instance. -/
def State.deliverable (s : State) (p g : Nat) (im : Image) (r : List Byte) (I : Instance) (post : Posted) : Bool :=
  if Gr.cap r = 0 || post.count = 0 then
    let me := (s.member p im r).getD 0
    s.closedInst p g im I && (s.toSend p g im r I).isEmpty
      && (resultBlocks r me).all (fun b => b.2.2 == 0 || I.results.any (fun x => x.1 == b.2.1))
      && (Gr.op r != 2 || Gr.cap r = 0 || I.lens.length == grN r)
      && (Gr.cap r != 0 || (stages r).all (barrierGot r I me)) && I.posted.all (fun q => q.delivered || q.count == 0)
  else (List.range post.count).all (fun i => I.results.any (fun x => x.1 == post.elem0 + i))

/-- RESULT_DELIVERY: the n-th posted range that awaits delivery is written once its results are here and, in consume mode, its flag is
clear; the flag is set, or the signal word advanced. -/
def execResultDelivery (p group n : Nat) (s : State) : R :=
  if 16 ≤ p || 256 ≤ group then .fault .noSuchUnit else
  match (s.part p).image with
  | none => .next s
  | some im =>
    match groupRec im group, (s.grp p group).awaiting[n]? with
    | some r, some (q, at_, post) =>
      match (s.grp p group).inst q with
      | none => .next s
      | some I =>
        let ch := im.chan (Gr.vcOrd r)
        if !s.deliverable p group im r I post then .next s
        else if !Gr.overlap r && bit (s.core post.core).ready post.flag then .next (s.updChan ch (fun c => { c with flagWait := true }))
        else
          let ws := postedWrites r I post
          let s1 := s.updCore post.core (fun k => let k1 := k.landAll ws
            if Gr.overlap r then k1 else { k1 with ready := setBit k1.ready post.flag true })
          let newChunks := if Gr.overlap r then postedChunks r ((s.member p im r).getD 0) I post else []
          let s2 := newChunks.foldl (fun s _ => s.signalAdd p (Gr.signal r)) s1
          let s3 := (s2.updInst p group q (fun i => { i with
            posted := i.posted.set at_ { post with delivered := true }
            signalled := i.signalled ++ newChunks })).updChan ch (fun c => { c with flagWait := false })
          .next (s3.progress p group im r q)
    | _, _ => .next s

/-! ## ORDER_SKEW_TIMEOUT (R330) -/

/-- Whether the group that a channel holds is still held there. -/
def State.stillHeld (s : State) (ch : Nat) : Bool :=
  let c := s.chan ch
  match (s.part c.owner).image with
  | none => false
  | some im => !(s.part c.owner).job.stopped && match groupRec im c.holdGroup with
    | some r => s.chanBusy c.owner c.holdGroup im (Gr.vcOrd r)
    | none => false

/-- ORDER_SKEW_TIMEOUT: a hold on a channel has lasted 20 µs; a hold whose channel is free again ends with no report. -/
def execOrderSkewTimeout (ch : Nat) (s : State) : R :=
  if 8 ≤ ch then .fault .noSuchUnit else
  let s1 := s.releaseHeld ch
  match (s1.chan ch).holdFrom with
  | none => .next s1
  | some t =>
    if !s1.stillHeld ch then .next (s1.updChan ch (fun c => { c with holdFrom := none }))
    else if s1.dtb < t + 20000 then .next s1
    else .next (s1.orderSkew ch (s1.chan ch).holdGroup 0xFFFFFFFFFFFF)

end Sys2Proof.Machine
end

