-- ==== Sys2Proof/Machine/Elementary.lean ====
section
/-!
DEFINITION. Sys2Proof/Machine/Elementary.lean: the exact values that the bounds of Table 7.1 are taken from, evaluated far beyond FP32
precision (a relative error below 2^−120), and the test of a result against its bound (R148, R153, R156, R162; log entry 6).
-/

namespace Sys2Proof.Machine

/-! ## Fixed point: a number is an integer of units 2^−384 -/

def fxP : Nat := 384
def fxOne : Int := 2 ^ fxP
def fxMul (a b : Int) : Int := a * b / 2 ^ fxP
def fxDiv (a b : Int) : Int := a * 2 ^ fxP / b
/-- A number in units of 2^−p, rounded down. -/
def Dy.fixed (d : Dy) (p : Nat) : Int :=
  let s := d.e + p
  if 0 ≤ s then d.m * pow2 s else d.m / (pow2 (-s) : Int)
def Dy.fx (d : Dy) : Int := d.fixed fxP
def fxDy (v : Int) : Dy := ⟨v, -(fxP : Int)⟩
/-- a / b to a relative error of 2^−384, for b ≠ 0. -/
def Dy.div (a b : Dy) : Dy :=
  let s := fxP + Nat.log2 b.m.natAbs + 1
  ⟨a.m * 2 ^ s / b.m, a.e - b.e - s⟩
/-- The largest r with r × r ≤ t, for t below 4^n. -/
def isqrt (n t : Nat) : Nat := (List.range n).foldl (fun r i => let c := r + 2 ^ (n - 1 - i); if c * c ≤ t then c else r) 0
/-- √d for d > 0. -/
def Dy.root (d : Dy) : Dy :=
  let e := if d.e % 2 = 0 then d.e else d.e - 1
  let m := (if d.e % 2 = 0 then d.m.natAbs else 2 * d.m.natAbs) * 4 ^ 400
  ⟨isqrt 720 m, e / 2 - 400⟩

/-! ## Series -/

/-- Σ r^n / n! for |r| ≤ 1. -/
def fxExp (r : Int) : Int :=
  ((List.range 90).foldl (fun (a : Int × Int) (n : Nat) => let t := fxMul a.2 r / (n + 1); (a.1 + t, t)) (fxOne, fxOne)).1
/-- Σ t^(2n+1) / (2n + 1) for |t| ≤ 1/3: the inverse hyperbolic tangent. -/
def fxAtanh (t : Int) : Int :=
  let q := fxMul t t
  ((List.range 130).foldl (fun (a : Int × Int) (n : Nat) => (a.1 + a.2 / (2 * n + 1), fxMul a.2 q)) (0, t)).1
/-- ln 2 = 2 artanh(1/3). -/
def fxLn2 : Int := 2 * fxAtanh (fxOne / 3)
/-- arctan(1/k) in units of 2^−p. -/
def atanInv (p k : Nat) : Int :=
  ((List.range 160).foldl (fun (a : Int × Int) (n : Nat) => (a.1 + a.2 / (2 * n + 1), -a.2 / ((k * k : Nat) : Int))) (0, 2 ^ p / (k : Int))).1
/-- π in units of 2^−p. -/
def fixedPi (p : Nat) : Int := 16 * atanInv p 5 - 4 * atanInv p 239
/-- Σ (−1)^n r^(2n+i) / (2n+i)! for |r| ≤ 4, from its first term: sine for r, cosine for 1. -/
def fxTrig (first r : Int) (i : Nat) : Int :=
  let q := fxMul r r
  ((List.range 90).foldl (fun (a : Int × Int) (n : Nat) => (a.1 + a.2, -fxMul a.2 q / (((2 * n + i + 1) * (2 * n + i + 2) : Nat) : Int))) (0, first)).1
/-- Σ (−1)^n x^(2n+1) / (n! (2n + 1)) for |x| ≤ 12. -/
def fxErfSum (x : Int) : Int :=
  let q := fxMul x x
  ((List.range 600).foldl (fun (a : Int × Int) (n : Nat) => (a.1 + a.2 / (2 * n + 1), -fxMul a.2 q / (n + 1))) (0, x)).1

/-! ## Functions of an exact number -/

/-- A number brought into ±`n`. -/
def Dy.clamp (n : Int) (d : Dy) : Dy := if (Dy.ofInt n).lt d then .ofInt n else if d.lt (.ofInt (-n)) then .ofInt (-n) else d
/-- e^d; beyond ±1,000, where every format has over- or underflowed, e^±1,000. -/
def Dy.exp (d : Dy) : Dy :=
  let a := (d.clamp 1000).fx
  let k := a / fxLn2
  ⟨fxExp (a - k * fxLn2), k - fxP⟩
/-- ln d for d > 0. -/
def Dy.ln (d : Dy) : Dy :=
  let e := d.log2
  let m := (Dy.mk d.m (d.e - e)).fx
  fxDy (e * fxLn2 + 2 * fxAtanh (fxDiv (m - fxOne) (m + fxOne)))
def Dy.half (d : Dy) : Dy := d.scale (-1)
def Dy.sigmoid (d : Dy) : Dy := let t := d.exp; t.div ((Dy.ofInt 1).add t)
def Dy.tanh (d : Dy) : Dy := let t := (d.scale 1).exp; (t.sub (.ofInt 1)).div (t.add (.ofInt 1))
/-- erf d; beyond ±12, ±1 less 2^−200. -/
def Dy.erf (d : Dy) : Dy :=
  if (Dy.ofInt 12).lt d.abs then (let y : Dy := ⟨2 ^ 200 - 1, -200⟩; if d.m < 0 then y.neg else y)
  else ((fxDy (fxErfSum d.fx)).scale 1).div (fxDy (fixedPi fxP)).root
def Dy.softplus (d : Dy) : Dy :=
  let t := (Dy.ofInt 1).add d.abs.neg.exp
  if d.m < 0 then t.ln else d.add t.ln
/-- d less the nearest multiple of 2π, in units of 2^−384. -/
def Dy.modPi (d : Dy) : Int :=
  let p := 560
  let t := 2 * fixedPi p
  let a := d.fixed p
  let r := a - (a + t / 2) / t * t
  r / 2 ^ (p - fxP)

/-- The exact result of an element-wise function at a finite x where it has no special value (Table 7.1); `param` is SF_PARAM. -/
def sfExact (code : Nat) (x param : Dy) : Dy :=
  let one : Dy := .ofInt 1
  match code with
  | 0x01 => x.exp
  | 0x02 => ((x.clamp 1000).mul (fxDy fxLn2)).exp
  | 0x03 => x.ln
  | 0x04 => x.ln.div (fxDy fxLn2)
  | 0x05 => one.div x
  | 0x06 => x.root
  | 0x07 => one.div x.root
  | 0x08 => one.div (x.add param).root
  | 0x09 => x.tanh
  | 0x0A => x.sigmoid
  | 0x0B => x.mul x.sigmoid
  | 0x0C =>
    let c := ((Dy.ofInt 2).div (fxDy (fixedPi fxP))).root
    let u := x.add (((x.mul x).mul x).mul ((Dy.ofInt 44715).div (.ofInt 1000000)))
    (x.mul (one.add ((c.mul u).tanh))).half
  | 0x0D => (x.mul (one.add ((x.div (Dy.ofInt 2).root).erf))).half
  | 0x0E => x.softplus
  | 0x0F => x.erf
  | 0x10 => let r := x.modPi; fxDy (fxTrig r r 1)
  | _ => let r := x.modPi; fxDy (fxTrig fxOne r 0)

/-! ## The bounds -/

/-- u_FP32(y) (R88). -/
def ulp32 (y : Dy) : Dy := ⟨1, (if y.m = 0 then -126 else max y.log2 (-126)) - 23⟩
/-- n/2 units of error. -/
def halfUlps (n : Int) (y : Dy) : Dy := ⟨n * (ulp32 y).m, (ulp32 y).e - 1⟩
def Dy.max (a b : Dy) : Dy := if a.lt b then b else a

/-- The bound of an element-wise function at its exact result y (Table 7.1). -/
def sfBound (code : Nat) (x y : Dy) : Dy :=
  match code with
  | 0x03 | 0x04 => if (Dy.mk 1 (-1)).le x && x.le (.ofInt 2) then (halfUlps 2 y).max ⟨1, -24⟩ else halfUlps 2 y
  | 0x01 | 0x02 | 0x07 | 0x08 => halfUlps 2 y
  | 0x05 | 0x06 => halfUlps 1 y
  | 0x0B | 0x0C | 0x0D | 0x0E => (halfUlps 4 y).max ⟨1, -28⟩
  | 0x10 | 0x11 => ⟨1, -22⟩
  | _ => halfUlps 4 y

/-- Whether a finite FP32 code lies within a bound of y; the evaluation of y is given its own error, 2^−60 of the bound. -/
def within (code : Nat) (y bound : Dy) : Bool :=
  let v := ofFp32 code
  v.isFin && ((v.toDy.sub y).abs).le (bound.add (bound.scale (-60)))

end Sys2Proof.Machine
end

