-- ==== Sys2Proof/Machine/Vector.lean ====
section
/-!
DEFINITION. Sys2Proof/Machine/Vector.lean: the vector chain (chapter 06), special functions and segment statistics (chapter 07)
and error feedback (R84 to R87).
-/

namespace Sys2Proof.Machine

/-! ## Vector registers (R130) -/

/-- What an element that is not listed reads as (log entries 2 and 4). -/
def VeState.dflt (v : VeState) (key : Nat) : VElem :=
  match v.vrLost with
  | none => {}
  | some n => ⟨(Config.freeElem n key).toNat, Config.freePad n key⟩
/-- Element `i` of register `r`. -/
def VeState.elem (v : VeState) (r i : Nat) : VElem := Cells.get v.dflt v.vr (r * 2048 + i)
def VeState.setElem (v : VeState) (r i : Nat) (x : VElem) : VeState := { v with vr := Cells.put v.dflt v.vr (r * 2048 + i) x }

/-! ## Elements of the stream (R137) -/

/-- A stream value: 32 bits of the lane type, or an exact value not rounded yet. -/
inductive SV where
  | raw (b : Nat)
  | ex (v : Val)
deriving DecidableEq, Repr, Inhabited

/-- Lane bits as a value. -/
def laneVal (isInt : Bool) (b : Nat) : Val := if isInt then .ofDy (.ofInt (toSigned 32 b)) else ofFp32 b
def SV.val (isInt : Bool) : SV → Val
  | .raw b => laneVal isInt b
  | .ex v => v
/-- Rounds an exact value to the lane type: nearest even for FP32, R52 with saturation for INT32 (R137). -/
def roundLane (isInt : Bool) (v : Val) : Nat × Fl := if isInt then toInt 0x08 true 0 true 0 v else toFp32 v
def SV.lane (isInt : Bool) : SV → Nat × Fl
  | .raw b => (b, {})
  | .ex v => roundLane isInt v

/-- An element of the stream: its number, position, value, pad status, whether it is masked (R154), whether a pad counts as data
(R126) and whether it holds nothing because its segment is still open (R161); `seg` holds the flags that a segment form raises with its segment's result. -/
structure SE where
  e : Nat
  i : Nat
  j : Nat
  v : SV
  pad : Bool := false
  asData : Bool := false
  masked : Bool := false
  none_ : Bool := false
  fl : Fl := {}
  seg : Fl := {}
deriving DecidableEq, Repr, Inhabited

/-- Adds flags of a stage to a non-pad element (R143). -/
def SE.flag (x : SE) (f : Fl) : SE := if x.pad then x else { x with fl := x.fl.or f }

/-! ## Arithmetic (R138, Table 6.3) -/

/-- IEEE sum: exact value and INVALID. -/
def fAdd (a b : Val) : Val × Fl :=
  match a, b with
  | .nan, _ => (.nan, {})
  | _, .nan => (.nan, {})
  | .inf n, .inf m => if n = m then (.inf n, {}) else (.nan, { inv := true })
  | .inf n, _ => (.inf n, {})
  | _, .inf n => (.inf n, {})
  | v, w =>
    let s := v.toDy.add w.toDy
    (if s.m = 0 then .fin (v.sign && w.sign) 0 1 0 else .ofDy s, {})

/-- IEEE product: exact value and INVALID. -/
def fMul (a b : Val) : Val × Fl :=
  match a, b with
  | .nan, _ => (.nan, {})
  | _, .nan => (.nan, {})
  | .inf n, w => if w.isZero then (.nan, { inv := true }) else (.inf (n != w.sign), {})
  | w, .inf n => if w.isZero then (.nan, { inv := true }) else (.inf (n != w.sign), {})
  | .fin n1 a1 _ e1, .fin n2 a2 _ e2 => (.fin (n1 != n2) (a1 * a2) 1 (e1 + e2), {})

/-- a < b with −0 below +0; no NaN. -/
def vLt : Val → Val → Bool
  | .inf n, .inf m => n && !m
  | .inf n, _ => n
  | _, .inf m => !m
  | v, w => v.toDy.lt w.toDy || (v.toDy.eqv w.toDy && v.sign && !w.sign)

/-- An FP32 operation: exact result and flags. -/
def fOp (op : Nat) (x b c : Val) : Val × Fl :=
  match op with
  | 0x00 => (x, {})
  | 0x01 => fAdd x b
  | 0x02 => fAdd x b.neg
  | 0x03 => fMul x b
  | 0x04 => let p := fMul x b; let r := fAdd p.1 c; (r.1, p.2.or r.2)
  | 0x05 => if x.isNan || b.isNan then (.nan, {}) else (if vLt b x then b else x, {})
  | 0x06 => if x.isNan || b.isNan then (.nan, {}) else (if vLt x b then b else x, {})
  | 0x07 => (x.abs, {})
  | 0x08 => (x.neg, {})
  | 0x09 => if x.isNan || b.isNan || c.isNan then (.nan, {}) else
      let m := if vLt x b then b else x
      (if vLt c m then c else m, {})
  | _ =>
    let d := fAdd x b.neg
    match d.1 with
    | .nan => (.nan, d.2)
    | .inf _ => (.inf false, {})
    | v => if (toFp32 v).2.ov then (.inf false, { ov := true }) else ((fMul v v).1, {})

/-- An INT32 operation, wrapping modulo 2^32. -/
def iOp (op x b : Nat) : Nat :=
  let xs := toSigned 32 x
  let bs := toSigned 32 b
  match op with
  | 0x10 => (x + b) % 2 ^ 32
  | 0x11 => ofSigned 32 (xs - bs)
  | 0x12 => x * b % 2 ^ 32
  | 0x13 => ofSigned 32 (min xs bs)
  | 0x14 => ofSigned 32 (max xs bs)
  | 0x15 => x &&& b
  | 0x16 => x ||| b
  | 0x17 => x ^^^ b
  | 0x18 => x * 2 ^ (b % 32) % 2 ^ 32
  | 0x19 => ofSigned 32 (xs / (2 ^ (b % 32) : Nat))
  | _ => x

def isIop (op : Nat) : Bool := decide (0x10 ≤ op) && decide (op ≤ 0x19)
def isFop (op : Nat) : Bool := decide (op ≤ 0x0A)
def takesB (op : Nat) : Bool := op != 0 && op != 0x07 && op != 0x08
def takesC (op : Nat) : Bool := op == 0x04 || op == 0x09

/-! ## The instruction and its configuration (Tables 6.1 and 6.2) -/

structure VecFields where
  op : Nat
  count : Nat
  elem0 : Nat
  en : Nat
  cfg : Nat
  ld : Nat
  st : Nat
  ef : Nat
  va : Nat
  vb : Nat
  vc : Nat
  vd : Nat
  vr : Nat
  ready : Option Nat
  pop : Bool
  /-- descriptor fields -/
  ldCcw : Nat
  pkCcw : Nat
  isInt : Bool
  regSrc : Bool
  regDst : Bool
  mon : Bool
  layer : Nat
  aOp : Nat
  bOp : Nat
  aB : Nat
  aC : Nat
  bB : Nat
  bC : Nat
  immA : Nat
  immB : Nat
  sf : Nat
  redOp : Nat
  redMode : Bool
  segLen : Nat
  cbFirst : Nat
  sliceLog2 : Nat
  sfParam : Nat
deriving DecidableEq, Repr

def vecFields (x : Ctx) (k : Core) : VecFields :=
  let d := k.descriptor (x.f 46 39)
  { op := x.f 7 4, count := x.f 19 8, elem0 := x.f 30 20, en := x.f 38 31, cfg := x.f 46 39, ld := x.f 54 47, st := x.f 62 55,
    ef := x.f 70 63, va := x.f 75 71, vb := x.f 80 76, vc := x.f 85 81, vd := x.f 90 86, vr := x.f 95 91,
    ready := if x.f 96 96 = 1 then some (x.f 104 97) else none, pop := x.f 105 105 = 1,
    ldCcw := fbits d 0 15 0, pkCcw := fbits d 0 31 16, isInt := fbits d 4 0 0 = 1, regSrc := fbits d 4 1 1 = 1,
    regDst := fbits d 4 2 2 = 1, mon := fbits d 4 3 3 = 1, layer := fbits d 4 13 4, aOp := fbits d 8 5 0, bOp := fbits d 8 13 8,
    aB := fbits d 8 19 16, aC := fbits d 8 23 20, bB := fbits d 8 27 24, bC := fbits d 8 31 28, immA := fld d 12 4,
    immB := fld d 16 4, sf := fbits d 20 7 0, redOp := fbits d 20 11 8, redMode := fbits d 20 12 12 = 1,
    segLen := fbits d 20 27 16, cbFirst := fbits d 24 7 0, sliceLog2 := fbits d 24 12 8, sfParam := fld d 28 4 }

/-- Reserved bits of both layouts. -/
def vecReserved (x : Ctx) (k : Core) : Bool :=
  let d := k.descriptor (x.f 46 39)
  x.f 127 106 != 0 || fbits d 4 31 14 != 0 || fbits d 8 7 6 != 0 || fbits d 8 15 14 != 0 || fbits d 20 15 13 != 0
    || fbits d 20 31 28 != 0 || fbits d 24 31 13 != 0

/-- Whether stage `n` is enabled. -/
def VecFields.on (f : VecFields) (n : Nat) : Bool := bit f.en (n - 1)
def VecFields.ftq (f : VecFields) : Bool := f.op == 2
def VecFields.fromReg (f : VecFields) : Bool := f.regSrc && !f.ftq
def VecFields.fromDesc (f : VecFields) : Bool := !f.regSrc && !f.ftq
/-- Row length W (R132). -/
def VecFields.w (f : VecFields) : Nat := if f.ftq then 32 else if f.segLen = 0 then f.count else f.segLen
/-- Rows of the stream. -/
def VecFields.rows (f : VecFields) : Nat := ceilDiv f.count f.w
/-- Format of the lane type. -/
def VecFields.lane (f : VecFields) : Nat := if f.isInt then 0x08 else 0x00
/-- Format a store through ST_DESC writes (R142). -/
def VecFields.dst (f : VecFields) : Nat := if f.on 6 || f.on 7 then (Ccw.of f.pkCcw).dst else f.lane
/-- Stream length and row length after stage 5 (R140). -/
def VecFields.outCount (f : VecFields) : Nat := if f.on 5 && f.redMode then f.rows else f.count
def VecFields.outW (f : VecFields) : Nat := if f.on 5 && f.redMode then 1 else f.w
/-- Whether ST_DESC is used. -/
def VecFields.usesSt (f : VecFields) : Bool := !f.regDst && (f.on 6 || f.on 7 || f.on 8)

/-! ## Special functions (chapter 07) -/

/-- Codes of Table 7.1 and R162. -/
def sfListed (c : Nat) : Bool :=
  (decide (1 ≤ c) && decide (c ≤ 0x11)) || (decide (0x20 ≤ c) && decide (c ≤ 0x23)) || c == 0x30 || c == 0x31
    || (decide (0x38 ≤ c) && decide (c ≤ 0x3A)) || c == 0x40 || c == 0x41
    || [0x81, 0x82, 0x83, 0x85, 0x87, 0x89, 0x8A, 0x8B, 0x8C, 0xC0, 0xC1].contains c
/-- Segment forms. -/
def sfSeg (c : Nat) : Bool := c == 0x40 || c == 0x41 || c == 0xC0 || c == 0xC1
/-- Codes that read g (R151). -/
def sfTakesG (c : Nat) : Bool := (decide (0x20 ≤ c) && decide (c ≤ 0x23)) || c == 0x30 || (decide (0x38 ≤ c) && decide (c ≤ 0x3A)) || c == 0x41

/-- Nearest FP32 to the square root of num/den × 2^e: its code and flags. A root that is not exact is replaced by a number
strictly between the same two 2^−200 steps, which rounds alike. -/
def sqrtFp32 (n d : Nat) (e : Int) : Nat × Fl :=
  let e2 := if e % 2 = 0 then e else e - 1
  let n2 := (if e % 2 = 0 then n else 2 * n) * 2 ^ 400
  let t := n2 / d
  let r := root t
  if r * r * d = n2 then toFp32 (.fin false r 1 (e2 / 2 - 200))
  else toFp32 (.fin false (2 * r + 1) 1 (e2 / 2 - 201))
where
  /-- Integer square root, one bit at a time from bit 320 down. -/
  root (t : Nat) : Nat := (List.range 321).foldl (fun r i => let c := r + 2 ^ (320 - i); if c * c ≤ t then c else r) 0

/-- The integer an exact number is, if it is one. -/
def Val.asInt : Val → Option Int
  | .fin neg n _ e =>
    if n = 0 then some 0
    else if 0 ≤ e then some (if neg then -(n * pow2 e : Nat) else (n * pow2 e : Nat))
    else if n % pow2 (-e) = 0 then some (if neg then -(n / pow2 (-e) : Nat) else (n / pow2 (-e) : Nat)) else none
  | _ => none
/-- The exponent of a power of two. -/
def Val.asPow2 : Val → Option Int
  | .fin false n _ e => if n ≠ 0 ∧ 2 ^ Nat.log2 n = n then some (e + Nat.log2 n) else none
  | _ => none

/-- What stage 4 makes of one element before the final rounding: an exact value to be rounded once, a result code already in FP32,
or, for a segment form, a value that stays exact (R149, R158). -/
inductive SfOut where
  | round (v : Val) (f : Fl)
  | code (b : Nat) (f : Fl)
  | keep (v : SV) (f : Fl)
deriving DecidableEq, Repr, Inhabited

/-- A result the manual bounds and does not state, at the exact result y: of table version 0x0001_0000, a free value within the bound, and the
nearest FP32 value where the free value lies outside it; of another version, a free value (R148, R149, R152; log entry 6). A y beyond FP32
range gives ±∞ with OVERFLOW. `sign`: the sign a product has (R153). -/
def sfFree (ver code xb gb param : Nat) (y bound : Dy) (sign : Option Bool) : SfOut :=
  let near := toFp32 (.ofDy y)
  if near.2.ov then .code near.1 { ov := true } else
  let r := (Config.sfResult (.ofNat 32 ver) code (.ofNat 32 xb) (.ofNat 32 gb) (.ofNat 32 param)).toNat
  let q := if ver = Config.sfVersion
    then (if within r y bound && (match sign with | some n => bit r 31 == n | none => true) then r else near.1)
    else if (ofFp32 r).isNan then 0x7FC00000 else r
  .code q { ov := (ofFp32 q).isInf, uf := decide (q % 2 ^ 31 < 2 ^ 23) }

/-- The element-wise functions 0x01 to 0x11 where Table 7.1 and R149 state the result; none where only a bound is given. -/
def sfNative (code : Nat) (x : Val) (param : Nat) : Option (Val × Fl) :=
  let one : Val := .fin false 1 1 0
  let nanInv : Option (Val × Fl) := some (.nan, { inv := true })
  if x.isNan then some (.nan, {}) else
  match code with
  | 0x01 => match x with
    | .inf n => some (if n then .zero else x, {})
    | _ => if x.isZero then some (one, {}) else none
  | 0x02 => match x with
    | .inf n => some (if n then .zero else x, {})
    | _ => match x.asInt with
      | some k => if -149 ≤ k ∧ k ≤ 127 then some (.fin false 1 1 k, {}) else none
      | none => none
  | 0x03 => if x.isZero then some (.inf true, {}) else if x.sign then nanInv else
    if x.isInf then some (x, {}) else if x.asPow2 = some 0 then some (.zero, {}) else none
  | 0x04 => if x.isZero then some (.inf true, {}) else if x.sign then nanInv else
    if x.isInf then some (x, {}) else x.asPow2.map (fun k => (Val.ofDy (.ofInt k), {}))
  | 0x05 => match x with
    | .inf n => some (.fin n 0 1 0, {})
    | .fin n m _ e => if m = 0 then some (.inf n, {}) else some (.fin n 1 m (-e), {})
    | .nan => some (.nan, {})
  | 0x06 => if x.isZero then some (x, {}) else if x.sign then nanInv else if x.isInf then some (x, {}) else
    match x with
    | .fin _ n d e => let q := sqrtFp32 n d e; some (ofFp32 q.1, q.2)
    | _ => none
  | 0x07 => sfRsqrt x
  | 0x08 =>
    let y := fAdd x (ofFp32 param)
    match sfRsqrt y.1 with
    | some r => some (r.1, r.2.or y.2)
    | none => none
  | 0x09 => match x with
    | .inf n => some (.fin n 1 1 0, {})
    | _ => if x.isZero then some (x, {}) else none
  | 0x0A => match x with
    | .inf n => some (if n then .zero else one, {})
    | _ => if x.isZero then some (.fin false 1 1 (-1), {}) else none
  | 0x0B => sfSilu x
  | 0x0C => sfSilu x
  | 0x0D => sfSilu x
  | 0x0E => match x with
    | .inf n => some (if n then .zero else x, {})
    | _ => none
  | 0x0F => match x with
    | .inf n => some (.fin n 1 1 0, {})
    | _ => if x.isZero then some (x, {}) else none
  | 0x10 => if x.isInf then nanInv else if x.isZero then some (x, {}) else none
  | 0x11 => if x.isInf then nanInv else if x.isZero then some (one, {}) else none
  | _ => none
where
  /-- RSQRT: exact at an even power of two. -/
  sfRsqrt (x : Val) : Option (Val × Fl) :=
    if x.isNan then some (.nan, {}) else if x.isZero then some (.inf x.sign, {}) else if x.sign then some (.nan, { inv := true })
    else if x.isInf then some (.zero, {})
    else match x.asPow2 with
      | some k => if k % 2 = 0 then some (.fin false 1 1 (-(k / 2)), {}) else none
      | none => none
  /-- SILU and the GELU forms: −∞ → −0, +∞ → +∞, ±0 exact. -/
  sfSilu (x : Val) : Option (Val × Fl) :=
    match x with
    | .inf n => some (if n then .fin true 0 1 0 else x, {})
    | _ => if x.isZero then some (x, {}) else none

/-- The activation of a gated code (R153). -/
def gateAct : Nat → Nat | 0x20 => 0x0B | 0x21 => 0x0C | 0x22 => 0x0D | _ => 0x0A

/-- A gated form (R153). -/
def sfGate (ver code xb gb : Nat) : SfOut :=
  let x := ofFp32 xb
  let g := ofFp32 gb
  if x.isNan || g.isNan then .round .nan {} else
  match sfNative (gateAct code) x 0 with
  | some a => let r := fMul a.1 g; .round r.1 (a.2.or r.2)
  | none =>
    let neg := (if code = 0x23 then false else x.sign) != g.sign
    if g.isInf then .round (.inf neg) {} else if g.isZero then .round (.fin neg 0 1 0) {} else
    let y := (sfExact (gateAct code) x.toDy .zero).mul g.toDy
    sfFree ver code xb gb 0 y ((halfUlps 5 y).max (g.toDy.abs.scale (-28))) (some neg)

/-- SOFTMAX_EXP, NORM_DIV and LSE (R156). -/
def sfSoftmaxExp (ver xb gb : Nat) : SfOut :=
  let x := ofFp32 xb
  let g := ofFp32 gb
  if x.isNan || g.isNan then .round .nan {}
  else match x, g with
    | .inf false, .inf false => .round .nan { inv := true }
    | _, .inf true => .round .zero { rowEmpty := true }
    | .inf true, _ => .round .zero {}
    | _, .inf false => .round .zero {}
    | .inf false, _ => .round (.inf false) {}
    | _, _ =>
      if x.toDy.le ⟨-1, 120⟩ then .round .zero {}
      else if x.toDy.eqv g.toDy then .round (.fin false 1 1 0) {} else
      let y := (x.toDy.sub g.toDy).exp
      sfFree ver 0x38 xb gb 0 y (halfUlps 2 y) none

def sfNormDiv (x g : Val) : SfOut :=
  if g.isZero then .round .zero { rowEmpty := true, inv := !(x.isNan || x.isZero) }
  else if x.isNan || g.isNan then .round .nan {}
  else match x, g with
    | .inf _, .inf _ => .round .nan { inv := true }
    | .inf n, _ => .round (.inf (n != g.sign)) {}
    | _, .inf n => .round (.fin (x.sign != n) 0 1 0) {}
    | _, _ => if x.isZero then .round (.fin (x.sign != g.sign) 0 1 0) {} else .round (.quot x.toDy g.toDy) {}

def sfLse (ver xb gb : Nat) : SfOut :=
  let x := ofFp32 xb
  let g := ofFp32 gb
  if g.isZero then .round (.inf true) { rowEmpty := true }
  else if g.isNan || g.sign then .round .nan { inv := true }
  else if x.isNan then .round .nan {}
  else if g.isInf then let r := fAdd x (.inf false); .round r.1 r.2
  else if x.isInf then .round x {}
  else if g.asPow2 = some 0 then let r := fAdd x .zero; .round r.1 r.2
  else
    let l := g.toDy.ln
    let y := x.toDy.add l
    sfFree ver 0x3A xb gb 0 y ((halfUlps 2 y).add (halfUlps 2 l)) none

/-- An element-wise EL48 form (R162): a free value, subnormal results flushed to +0 with UNDERFLOW; of table version 0x0001_0000, and where
the function has a finite value y, within 4 u or 2^−22 of it (log entry 6). -/
def sfEl48 (ver code xb : Nat) : SfOut :=
  let x := ofFp32 xb
  let r := (Config.el48Result (.ofNat 32 ver) code (.ofNat 32 xb)).toNat
  let fl := (Config.el48Flags (.ofNat 32 ver) code (.ofNat 32 xb)).toNat
  let small := fun (q : Nat) => decide (q % 2 ^ 31 < 2 ^ 23) && q % 2 ^ 31 != 0
  let y : Option Dy := if ver != Config.sfVersion then none else
    match sfNative (code - 0x80) x 0 with
    | some (.fin neg n d e, f) => if f.ov then none else some ((Dy.mk (if neg then -(n : Int) else n) e).div (.ofInt d))
    | some _ => none
    | none => let y := sfExact (code - 0x80) x.toDy .zero; if (toFp32 (.ofDy y)).2.ov then none else some y
  match y with
  | none => if bit fl 1 || small r then .code 0 { uf := true } else .code r { ov := bit fl 0, inv := bit fl 2 }
  | some y =>
    let lim := (halfUlps 8 y).max ⟨1, -22⟩
    let q := if within r y lim then r else (toFp32 (.ofDy y)).1
    if (bit fl 1 && within 0 y lim) || small q then .code 0 { uf := true }
    else .code q { uf := q % 2 ^ 31 == 0 && y.m != 0 && y.abs.lt ⟨1, -126⟩ }

/-- Whether MASK or MASK_CAUSAL masks an element (R154). -/
def sfMasks (code : Nat) (g : Val) (i j param : Nat) : Bool :=
  if code = 0x30 then !g.isZero else decide ((i : Int) + toSigned 32 param < (j : Int))

/-- Stage 4 on one element under a table version: x and g are FP32 bits (R148 to R163). -/
def sfElem (ver code xb gb i j param : Nat) : SfOut :=
  let x := ofFp32 xb
  let g := ofFp32 gb
  if code = 0x30 || code = 0x31 then .keep (.raw (if sfMasks code g i j param then 0xFB800000 else xb)) {}
  else if code = 0x40 || code = 0xC0 || code = 0xC1 then .keep (.raw xb) {}
  else if code = 0x41 then
    if x.isInf || g.isInf then .keep (.ex .nan) { inv := true }
    else if x.isNan || g.isNan then .keep (.ex .nan) {}
    else
      let d := (x.toDy).sub g.toDy
      if (fp32.decode 0x7F7FFFFF).toDy.lt d.abs then .keep (.ex (.inf false)) { ov := true }
      else .keep (.ex (.ofDy (d.mul d))) {}
  else if 0x80 ≤ code then sfEl48 ver code xb
  else if 0x20 ≤ code && code ≤ 0x23 then sfGate ver code xb gb
  else if code = 0x38 then sfSoftmaxExp ver xb gb
  else if code = 0x39 then sfNormDiv x g
  else if code = 0x3A then sfLse ver xb gb
  else match sfNative code x param with
    | some r => .round r.1 r.2
    | none =>
      let y := sfExact code x.toDy (ofFp32 param).toDy
      sfFree ver code xb 0 (if code = 0x08 then param else 0) y (sfBound code x.toDy y) none

/-- The stream value and flags after the final rounding of stage 4. -/
def SfOut.done : SfOut → SV × Fl
  | .round v f => let r := toFp32 v; (.raw r.1, f.or r.2)
  | .code b f => (.raw b, f)
  | .keep v f => (v, f)

/-! ## Legality (R135, R136, R150) -/

/-- Operand selectors the enabled stages use (R135, R151). -/
def VecFields.sels (f : VecFields) : List Nat :=
  (if f.on 2 && takesB f.aOp then [f.aB] else []) ++ (if f.on 2 && takesC f.aOp then [f.aC] else [])
    ++ (if f.on 3 && takesB f.bOp then [f.bB] else []) ++ (if f.on 3 && takesC f.bOp then [f.bC] else [])
    ++ (if f.on 4 && sfTakesG f.sf then [f.bC] else [])

/-- Whether an operation code is listed and suits the lane type, whether its stage is enabled or not (R136). -/
def opOk (isInt : Bool) (op : Nat) : Bool := (isIop op || isFop op) && (op == 0 || isIop op == isInt)

/-- Stage 4's own conditions (R150). -/
def VecFields.sfOk (f : VecFields) : Bool :=
  !f.on 4 || (!f.isInt && sfListed f.sf
    && !(decide (0x20 ≤ f.sf) && f.sf != 0x31 && f.on 3 && f.bOp != 0)
    && (!sfSeg f.sf || (f.on 5 && f.redOp == 1 && decide (f.sfParam < 8) && !(bit f.sfParam 0 && f.sf != 0x41)))
    && !(f.redMode && (f.sf == 0x30 || f.sf == 0x31) && f.on 5))

/-- Conditions on the instruction and its configuration alone. -/
def VecFields.ok (f : VecFields) : Bool :=
  let pk := Ccw.of f.pkCcw
  let elemMode := f.sels.any (fun s => s % 4 != 3 && s / 4 == 0)
  f.on 1 && decide (f.count ≤ 2048) && decide (f.segLen ≤ 2048) && (f.on 6 == (f.op == 1))
    && opOk f.isInt f.aOp && opOk f.isInt f.bOp && decide (f.redOp ≤ 6) && !(f.on 5 && f.redOp == 0)
    && f.sfOk && (!(f.on 6 || f.on 7) || (pk.valid && pk.src == f.lane))
    && !(f.regDst && (f.on 6 || (f.on 7 && (pk.dst != f.lane || pk.rnd == 4))))
    && !(f.fromReg && f.sels.any (fun s => s % 4 == 0))
    && !((f.fromReg || (f.on 8 && f.regDst) || elemMode) && decide (2048 < f.elem0 + f.count))

/-- The stream's descriptor suits LD_CCW (R136, R137). -/
def VecFields.ldOk (f : VecFields) (o : OpDesc) : Bool :=
  let c := Ccw.of f.ldCcw
  c.valid && c.rnd != 4 && c.dst == f.lane && c.src == o.fmt

/-- The output descriptor suits the store (R68, R136, R142). It is the model's choice that the 256 codebooks of R42 limit the slices of rows
that can be written, min(rows of the stream, ROWS) × ceil(W / L) (log entry 122). -/
def VecFields.stOk (f : VecFields) (o : OutDesc) : Bool :=
  let mr := if o.colMajor then o.cols else o.rows
  let mc := if o.colMajor then o.rows else o.cols
  rangeOk o.base mr ((fmtWidth f.dst * mc + 7) / 8) o.stride Config.tsBytes
    && (!isMx f.dst || (o.logCol0 % 32 == 0 && !o.colMajor
          && decide (o.base + o.rows * o.stride + o.rows * ceilDiv o.cols 32 ≤ Config.tsBytes)))
    && (f.dst != 0x18 || (decide (5 ≤ f.sliceLog2) && decide (f.sliceLog2 ≤ 16)
          && decide (f.cbFirst + min f.rows o.rows * ceilDiv f.w (2 ^ f.sliceLog2) ≤ 256)))

/-- A carry-plane descriptor (Table 4.1). -/
structure CarryDesc where
  base : Nat
  fmt : Nat
  inp : Bool
  out : Bool
  stride : Nat
  scale : Nat
  layer : Nat
deriving DecidableEq, Repr, Inhabited

def carryFields (d : List Byte) : CarryDesc :=
  ⟨fbits d 0 19 0, fbits d 0 24 20, fbits d 0 25 25 = 1, fbits d 0 26 26 = 1, fbits d 4 19 0, fbits d 8 19 0, fbits d 12 9 0⟩

/-- The tile-store bytes of `rows` rows of `n` carry elements of a stream of row length `w`, and their scales. -/
def CarryDesc.ranges (c : CarryDesc) (rows n w : Nat) : List (Bool × Nat × Nat) :=
  (List.range rows).map (fun i => (false, c.base + i * c.stride, (fmtWidth c.fmt * n + 7) / 8))
    ++ (if isMx c.fmt then (List.range rows).map (fun i => (false, c.scale + i * ceilDiv w 32, ceilDiv n 32)) else [])

/-- The carry descriptor as copied at issue, for `rows` rows of `n` elements of a stream of row length `w`; none where it is illegal (R84, R87). -/
def State.carryDesc (s : State) (x : Ctx) (i rows n w : Nat) : Option CarryDesc :=
  let d := (s.core x.c).descriptor i
  let c := carryFields d
  if fbits d 0 31 27 != 0 || fbits d 4 31 20 != 0 || fbits d 8 31 20 != 0 || fbits d 12 31 10 != 0
      || !(c.fmt == 0x04 || c.fmt == 0x12 || c.fmt == 0x13) then none else
  match s.tsAddr x c.base, if isMx c.fmt then s.tsAddr x c.scale else some c.scale with
  | some b, some q =>
    if rangeOk b rows ((fmtWidth c.fmt * n + 7) / 8) c.stride Config.tsBytes
        && (!isMx c.fmt || rangeOk q rows (ceilDiv n 32) (ceilDiv w 32) Config.tsBytes) then some { c with base := b, scale := q } else none
  | _, _ => none

/-- What an instruction copies when it issues. -/
structure VecArgs where
  f : VecFields
  ld : Option OpDesc
  st : Option OutDesc
  ef : Option CarryDesc
deriving DecidableEq, Repr

/-- Decodes a chain instruction; none where it is illegal (R135, R136, R150). -/
def vecArgs (s : State) (x : Ctx) : Option VecArgs :=
  let k := s.core x.c
  let f := vecFields x k
  if vecReserved x k || !f.ok then none else
  let ld : Option (Option OpDesc) :=
    if f.fromDesc then (match s.operand x f.ld with | some o => if f.ldOk o then some (some o) else none | none => none) else some none
  let st : Option (Option OutDesc) :=
    if f.usesSt then (match s.outDesc x f.st with
      | some d => if f.stOk (outFields d) then some (some (outFields d)) else none
      | none => none) else some none
  match ld, st with
  | some l, some t =>
    if f.on 6 then
      match s.carryDesc x f.ef (match t with | some o => min (ceilDiv f.outCount f.outW) o.rows | none => 0)
          (match t with | some o => min f.outW o.cols | none => 0) f.w with
      | some c => some ⟨f, l, t, some c⟩
      | none => none
    else some ⟨f, l, t, none⟩
  | _, _ => none

/-! ## Stage 1 (R132, R137) -/

/-- Number of a queue entry's word as an exact value (R76). -/
def ftqVal (isInt : Bool) (w : Nat) : Val :=
  if isInt then .ofDy (.ofInt (toSigned 64 w)) else
  let ex := bits w 50 39
  if ex = 0xFFF then (if bits w 38 0 = 0 then .inf (bit w 51) else .nan)
  else if ex = 0 then .fin (bit w 51) 0 1 0
  else .fin (bit w 51) (2 ^ 39 + bits w 38 0) 1 ((ex : Int) - 2047 - 39)

/-- Element `e` of the stream after stage 1. -/
def Core.loadElem (k : Core) (a : VecArgs) (e : Nat) : SE :=
  let f := a.f
  let i := e / f.w
  let j := e % f.w
  if f.ftq then
    match k.mu.ftq with
    | q :: _ =>
      let pad := decide (q.m ≤ i) || decide (q.n ≤ j)
      { e := e, i := i, j := j, pad := pad, v := if pad then .raw 0 else .ex (ftqVal q.isInt (q.words.getD (i * q.n + j) 0)) }
    | [] => { e := e, i := i, j := j, v := .raw 0, pad := true }
  else match a.ld with
    | none =>
      let v := k.ve.elem f.va (f.elem0 + e)
      { e := e, i := i, j := j, v := .raw v.bits, pad := v.pad }
    | some o =>
      let el := k.elem o i j
      let pad := decide (o.rows ≤ i) || decide (o.cols ≤ j)
      let c := Ccw.of f.ldCcw
      let r := convertPlain f.lane (isInt o.fmt) c.rnd c.sat 0 el.value
      SE.flag { e := e, i := i, j := j, v := .raw r.1, pad := pad, asData := pad && o.padIsData } (r.2.or { inv := el.bad })

/-! ## Stages 2 and 3 (R135, R138) -/

/-- Operand bits (R135). -/
def Core.operandBits (k : Core) (f : VecFields) (sel imm : Nat) (x : SE) : Nat :=
  if sel % 4 = 3 then imm else
  let r := if sel % 4 = 0 then f.va else if sel % 4 = 1 then f.vb else f.vc
  (k.ve.elem r (match sel / 4 with | 0 => f.elem0 + x.e | 1 => x.i | 2 => x.j | _ => 0)).bits

/-- One arithmetic stage on one element. `first`: stage 2, which computes from an exact FP32-lane value; `keep`: the result stays
exact for the reduce (R137, R138, R140). -/
def Core.arith (k : Core) (f : VecFields) (first keep : Bool) (op sb sc imm : Nat) (x : SE) : SE :=
  let b := k.operandBits f sb imm x
  let c := k.operandBits f sc imm x
  if f.isInt then
    let l := x.v.lane true
    (SE.flag { x with v := .raw (iOp op l.1 b) } l.2)
  else
    match x.v with
    | .raw r =>
      if op = 0 then x else
      let y := fOp op (ofFp32 r) (ofFp32 b) (ofFp32 c)
      if keep then SE.flag { x with v := .ex y.1 } y.2 else
      let q := toFp32 y.1
      SE.flag { x with v := .raw q.1 } (y.2.or q.2)
    | .ex v =>
      let r : Val × Fl := if first then (v, {}) else let q := toFp32 v; (ofFp32 q.1, q.2)
      let y := fOp op r.1 (ofFp32 b) (ofFp32 c)
      if keep then SE.flag { x with v := .ex y.1 } (r.2.or y.2) else
      let q := toFp32 y.1
      SE.flag { x with v := .raw q.1 } (r.2.or (y.2.or q.2))

/-- Whether stage 3 passes its exact result to the reduce (R140). -/
def VecFields.keep3 (f : VecFields) : Bool :=
  f.on 3 && !f.isInt && (f.bOp == 0x04 || f.bOp == 0x0A) && f.on 5 && f.redOp == 1 && !f.on 4

/-! ## Stage 4 -/

/-- Stage 4 on one element, under the coefficient table of the side active at issue (R139, R152). -/
def Core.special (k : Core) (f : VecFields) (x : SE) : SE :=
  let l := x.v.lane false
  let g := if sfTakesG f.sf then k.operandBits f f.bC f.immB x else 0
  if (f.sf = 0x30 || f.sf = 0x31) && x.pad then x else
  let r := (sfElem (fld k.sf.active 0 4) f.sf l.1 g x.i x.j f.sfParam).done
  let m := (f.sf = 0x30 || f.sf = 0x31) && sfMasks f.sf (ofFp32 g) x.i x.j f.sfParam
  if sfSeg f.sf then SE.flag { x with v := r.1, seg := r.2 } l.2 else SE.flag { x with v := r.1, masked := m } (l.2.or r.2)

/-! ## Stage 5 (R140, R155, R158 to R163) -/

/-- Whether an element is a data lane of a reduction. -/
def SE.data (x : SE) : Bool := !x.masked && (!x.pad || x.asData)

/-- Adds one value to a segment accumulator. -/
def RowCarry.add (a : RowCarry) (v : Val) : RowCarry :=
  let a := { a with count := a.count + 1 }
  match v with
  | .nan => { a with nan := true }
  | .inf true => { a with ninf := true }
  | .inf false => { a with pinf := true }
  | w => { a with sum := a.sum.add w.toDy }
/-- Joins a continued row with the new part. -/
def RowCarry.join (a b : RowCarry) : RowCarry :=
  { b with sum := a.sum.add b.sum, count := a.count + b.count, nan := a.nan || b.nan, inv := a.inv || b.inv,
           pinf := a.pinf || b.pinf, ninf := a.ninf || b.ninf, ov := a.ov || b.ov }
/-- The special a sum ends in, if any (Table 6.4). -/
def RowCarry.specialSum (a : RowCarry) : Option (Val × Fl) :=
  if a.nan then some (.nan, { inv := a.inv, ov := a.ov })
  else if a.pinf && a.ninf then some (.nan, { inv := true, ov := a.ov })
  else if a.pinf then some (.inf false, { ov := a.ov })
  else if a.ninf then some (.inf true, { ov := a.ov }) else none

/-- rne32 of an operation's exact result, with the flags of both, and one level of tree32 (R163). -/
def rneFl (v : Val × Fl) : Nat × Fl := let q := toFp32 v.1; (q.1, v.2.or q.2)
def treeFl : List Nat → List Nat × Fl
  | a :: b :: r =>
    let q := rneFl (fAdd (ofFp32 a) (ofFp32 b))
    let t := treeFl r
    (q.1 :: t.1, q.2.or t.2)
  | l => (l, {})
/-- tree32 over FP32 codes: the sum and the flags of its roundings; 0 for no element. -/
def treeSum : Nat → List Nat → Nat × Fl
  | _, [] => (0, {})
  | _, [a] => (a, {})
  | 0, a :: _ => (a, {})
  | n + 1, l => let t := treeFl l; let r := treeSum n t.1; (r.1, t.2.or r.2)

/-- Result of a segment. `none`: the segment stays open (R161). -/
structure SegOut where
  bits : Nat
  fl : Fl
  carry : Option RowCarry := none
deriving DecidableEq, Repr, Inhabited

/-- The first best lane under an order (ARGMAX, ARGMIN): its j. -/
def argBest (lt : Val → Val → Bool) (ds : List (Nat × Val)) : Int :=
  match ds.find? (fun d => d.2.isNan) with
  | some d => d.1
  | none => match ds.foldl (fun (acc : Option (Nat × Val)) d => match acc with
      | none => some d
      | some a => if lt a.2 d.2 then some d else some a) none with
    | some a => a.1
    | none => -1

/-- Reduces the data lanes (j, value) of one segment by RED_OP (Table 6.4). -/
def reduceSeg (isInt : Bool) (op : Nat) (ds : List (Nat × Val)) : Nat × Fl :=
  match op with
  | 1 =>
    let a := ds.foldl (fun a d => a.add d.2) ({} : RowCarry)
    if isInt then toInt 0x08 true 0 true 0 (.ofDy a.sum)
    else match a.specialSum with
      | some q => ((toFp32 q.1).1, q.2)
      | none => toFp32 (.ofDy a.sum)
  | 2 =>
    if ds.any (fun d => d.2.isNan) then (0x7FC00000, {}) else
    match ds with
    | [] => (if isInt then 2 ^ 31 else 0xFF800000, {})
    | d :: r => let b := r.foldl (fun m q => if vLt m q.2 then q.2 else m) d.2; ((roundLane isInt b).1, {})
  | 3 =>
    if ds.any (fun d => d.2.isNan) then (0x7FC00000, {}) else
    match ds with
    | [] => (if isInt then 2 ^ 31 - 1 else 0x7F800000, {})
    | d :: r => let b := r.foldl (fun m q => if vLt q.2 m then q.2 else m) d.2; ((roundLane isInt b).1, {})
  | 4 => ((roundLane isInt (.ofDy (.ofInt ds.length))).1, {})
  | 5 => (ofSigned 32 (argBest vLt ds), {})
  | _ => (ofSigned 32 (argBest (fun a b => vLt b a) ds), {})

/-- Finishes a native segment form (R158 to R160). -/
def segNative (code param : Nat) (a : RowCarry) : Nat × Fl :=
  let dd := if code = 0x41 then param % 2 else 0
  if a.count = 0 then (0x7FC00000, { rowEmpty := true })
  else if code = 0x41 && decide (a.count ≤ dd) then (0x7FC00000, { inv := true })
  else match a.specialSum with
    | some q => ((toFp32 q.1).1, q.2)
    | none =>
      if a.sum.m = 0 then (0, {}) else
      let r := toFp32 (.quot a.sum (.ofInt ((a.count - dd : Nat) : Int)))
      (r.1, r.2)

/-- Finishes an EL48 segment form (R163). -/
def segEl48 (code : Nat) (a : RowCarry) (fl : Fl) : Nat × Fl :=
  if a.count = 0 then (0x7FC00000, { rowEmpty := true }) else
  if a.nan then (0x7FC00000, fl) else
  let n : Dy := .ofInt a.count
  let m := match ofFp32 a.s1 with | .fin neg k d e => toFp32 (if k = 0 then .fin neg 0 1 0 else .quot (Val.fin neg k d e).toDy n) | v => toFp32 v
  if code = 0xC0 then (m.1, fl.or m.2) else
  let q := match ofFp32 a.s2 with | .fin neg k d e => toFp32 (if k = 0 then .fin neg 0 1 0 else .quot (Val.fin neg k d e).toDy n) | v => toFp32 v
  let mm := fMul (ofFp32 m.1) (ofFp32 m.1)
  let d := fAdd (ofFp32 q.1) mm.1.neg
  let v := toFp32 d.1
  let fl2 := fl.or ((m.2.or q.2).or ((mm.2.or d.2).or v.2))
  if (ofFp32 v.1).sign && !(ofFp32 v.1).isZero then (0, fl2.or { varClamp := true }) else (v.1, fl2)

/-- One segment of a SEG_MEAN, SEG_VAR or EL48 segment form, with the row carry (R161). Answers the result, or none where the
segment stays open, and the row carry after it. -/
def segForm (f : VecFields) (first last : Bool) (carry : RowCarry) (ds : List (Nat × Val × Fl)) : Option (Nat × Fl) × RowCarry :=
  let contIn := first && bit f.sfParam 1
  let contOut := last && bit f.sfParam 2
  let own := ds.foldl (fun a d => a.add d.2.1) ({} : RowCarry)
  let own := { own with inv := ds.any (fun d => d.2.2.inv), ov := ds.any (fun d => d.2.2.ov) }
  let base : RowCarry := if contIn && carry.isOpen then carry else {}
  let left : RowCarry := if contIn then {} else carry
  if f.sf = 0x40 || f.sf = 0x41 then
    let a := base.join own
    if contOut then (none, { a with isOpen := true }) else (some (segNative f.sf f.sfParam a), left)
  else
    let xs := ds.map (fun d => (toFp32 d.2.1).1)
    let t1 := treeSum 12 xs
    let sq := xs.map (fun b => rneFl (fMul (ofFp32 b) (ofFp32 b)))
    let t2 := treeSum 12 (sq.map (·.1))
    let j1 := if contIn && carry.isOpen then rneFl (fAdd (ofFp32 base.s1) (ofFp32 t1.1)) else (t1.1, {})
    let j2 := if contIn && carry.isOpen then rneFl (fAdd (ofFp32 base.s2) (ofFp32 t2.1)) else (t2.1, {})
    let a := { base.join own with s1 := j1.1, s2 := j2.1 }
    let fl := (sq.foldl (fun acc q => acc.or q.2) (t1.2.or (t2.2.or (j1.2.or j2.2))))
    if contOut then (none, { a with isOpen := true }) else (some (segEl48 f.sf a fl), left)

/-- Rows of the source extent that make a segment's result data (R140): none for a register stream. -/
def Core.rowExtent (k : Core) (a : VecArgs) : Option Nat :=
  if a.f.ftq then (match k.mu.ftq with | q :: _ => some (if q.n = 0 then 0 else q.m) | [] => some 0)
  else a.ld.map (·.rows)

/-- Stage 5: the results, one element per segment, and the row carry after it. -/
def reduceAll (f : VecFields) (rext : Option Nat) (carry : RowCarry) (xs : List SE) : List SE × RowCarry :=
  let segForms := f.on 4 && sfSeg f.sf
  (List.range f.rows).foldl (fun (acc : List SE × RowCarry) s =>
    let seg := (xs.drop (s * f.w)).take f.w
    let ds := seg.filter SE.data
    let rowPad := match rext with | some r => decide (r ≤ s) | none => false
    if segForms then
      let own := ds.map (fun x => (x.j, x.v.val false, x.seg))
      let r := segForm f (s == 0) (s + 1 == f.rows) acc.2 own
      match r.1 with
      | some q => (acc.1 ++ [{ e := s, i := s, j := 0, v := .raw q.1, pad := rowPad, fl := if rowPad then {} else q.2 }], r.2)
      | none => (acc.1 ++ [{ e := s, i := s, j := 0, v := .raw 0, pad := rowPad, none_ := true }], r.2)
    else
      let q := reduceSeg f.isInt f.redOp (ds.map (fun x => (x.j, x.v.val f.isInt)))
      (acc.1 ++ [{ e := s, i := s, j := 0, v := .raw q.1, pad := rowPad, fl := if rowPad then {} else q.2 }], acc.2))
    ([], carry)

/-! ## Stages 6 and 7: conversion of one row (R36 to R42, R84 to R87, R142) -/

/-- A converted element: its j, code, whether it saturated, the value its code stands for, and the unit of error at it (R88),
none where NVQ4 gives no gap. -/
structure QElem where
  j : Nat
  code : Nat
  sat : Bool
  v : Val
  unit : Option Dy
deriving DecidableEq, Repr, Inhabited

/-- Gap between codebook entries at an entry (R88). -/
def nvqGap (es : List Dy) (y : Dy) : Option Dy :=
  let below := (es.filter (fun a => a.lt y)).foldl (fun (m : Option Dy) a => match m with | none => some a | some b => if b.lt a then some a else some b) none
  let above := (es.filter (fun a => y.lt a)).foldl (fun (m : Option Dy) a => match m with | none => some a | some b => if a.lt b then some a else some b) none
  match below, above with
  | none, none => none
  | some b, none => some (y.sub b)
  | none, some a => some (a.sub y)
  | some b, some a => if (y.sub b).lt (a.sub y) then some (a.sub y) else some (y.sub b)

/-- Converts the elements (j, value, random bits) of row `i`: codes, scales (block, byte) and flags. -/
def packRow (cb : List Byte) (c : Ccw) (srcInt : Bool) (w cbFirst k i : Nat) (els : List (Nat × Val × Nat)) :
    List QElem × List (Nat × Nat) × Fl :=
  if isMx c.dst then
    let blocks := (List.range (ceilDiv w 32)).map (fun b =>
      let mine := els.filter (fun e => e.1 / 32 == b)
      let r := mxEncode c.dst c.rnd c.sat c.scaleMode (mine.map (fun e => (e.2.1, e.2.2)))
      let qs := (mine.zip r.2.1).map (fun m =>
        let v := (codeValue [] c.dst m.2.1 r.1 0).1
        ({ j := m.1.1, code := m.2.1, sat := m.2.2, v := v, unit := some (unitErr c.dst v.toDy ((r.1 : Int) - 127)) } : QElem))
      (qs, if mine.isEmpty then ([] : List (Nat × Nat)) else [(b, r.1)], if mine.isEmpty then {} else r.2.2))
    ((blocks.map (·.1)).flatten, (blocks.map (·.2.1)).flatten, blocks.foldl (fun f b => f.or b.2.2) {})
  else
    let qs := els.map (fun e =>
      if c.dst = 0x18 then
        let book := cbFirst + i * ceilDiv w (2 ^ k) + e.1 / 2 ^ k
        let es := (List.range 16).map (cbEntry cb book)
        let q := nvqEncode es c.rnd e.2.2 e.2.1
        let y := es.getD q.1 .zero
        (({ j := e.1, code := q.1, sat := decide (0 < q.2.sat), v := .ofDy y, unit := nvqGap es y } : QElem), q.2)
      else
        let q := convertPlain c.dst srcInt c.rnd c.sat e.2.2 e.2.1
        let v := (decodeCode c.dst q.1).1
        ({ j := e.1, code := q.1, sat := decide (0 < q.2.sat), v := v, unit := some (unitErr c.dst v.toDy 0) }, q.2))
    (qs.map (·.1), [], qs.foldl (fun f q => f.or q.2) {})

/-- The whole store: rows of converted elements, scales (row, block, byte) and flags. -/
structure Packed where
  rows : List (Nat × List QElem) := []
  scales : List (Nat × Nat × Nat) := []
  fl : Fl := {}
deriving DecidableEq, Repr, Inhabited

/-- Elements that a store through ST_DESC writes (R142, R125). -/
def writtenElems (o : OutDesc) (xs : List SE) : List SE :=
  xs.filter (fun x => !x.pad && !x.none_ && decide (x.i < o.rows) && decide (x.j < o.cols))

/-- Converts the written elements row by row; `val` gives the value that is converted. -/
def packAll (cb : List Byte) (f : VecFields) (o : OutDesc) (seed pass : Nat) (srcInt : Bool) (val : SE → Val) (xs : List SE) : Packed :=
  let c := Ccw.of f.pkCcw
  (List.range (ceilDiv f.outCount f.outW)).foldl (fun p i =>
    let els := (xs.filter (fun x => x.i == i)).map (fun x =>
      (x.j, val x, if c.rnd = 4 then outBits o seed pass x.i x.j else 0))
    if els.isEmpty then p else
    let r := packRow cb c srcInt f.w f.cbFirst f.sliceLog2 i els
    { rows := p.rows ++ [(i, r.1)], scales := p.scales ++ r.2.1.map (fun q => (i, q.1, q.2)), fl := p.fl.or r.2.2 }) {}

/-- Stage 8 through ST_DESC (R142). -/
def Packed.store (p : Packed) (o : OutDesc) (dst : Nat) (m : Mem) : Mem :=
  let m := p.rows.foldl (fun m r => r.2.foldl (fun m q => m.putElem o dst r.1 q.j q.code) m) m
  p.scales.foldl (fun m q => m.write (o.base + o.rows * o.stride + q.1 * ceilDiv o.cols 32 + q.2.1) (BitVec.ofNat 8 q.2.2)) m

/-! ## Error feedback (R84 to R87) -/

/-- e_prev of an element (R86, R87). -/
def Core.ePrev (k : Core) (c : CarryDesc) (w : Nat) (x : SE) : Val :=
  if !c.inp then .zero else
  let n := fmtWidth c.fmt
  let code := k.ts.getBits (c.base + x.i * c.stride) (n * x.j) n
  let scale := if isMx c.fmt then (k.ts.read (c.scale + x.i * ceilDiv w 32 + x.j / 32)).toNat else 0
  (codeValue [] c.fmt code scale 0).1

/-- The carry's conversion: nearest even, saturating, OCP scale rule (R85). -/
def carryCcw (fmt : Nat) : Ccw := ⟨0x00, fmt, 0, true, false, false⟩

/-- |e| / u(q) in FP32 toward +∞; NaN where v, q or e is not finite (R97). -/
def carryRatio (v q e : Val) (u : Option Dy) : Nat :=
  if !v.isFin || !q.isFin || !e.isFin then 0x7FC00000 else
  match u with
  | none => 0
  | some d => if e.isZero || d.m = 0 then 0 else (toFloat fp32 2 false 0 (.quot e.toDy.abs d)).1

/-- The carry elements of a step from its packed rows: new carry rows, scales, flags and CARRY_MAX. -/
def carryAll (c : CarryDesc) (w : Nat) (vs : List SE) (val : SE → Val) (p : Packed) : Packed × Nat :=
  p.rows.foldl (fun (acc : Packed × Nat) r =>
    let row := r.2.map (fun q =>
      let v := match vs.find? (fun x => x.i == r.1 && x.j == q.j) with | some x => val x | none => .zero
      (q, v, (fAdd v q.v.neg).1))
    let t := packRow [] (carryCcw c.fmt) false w 0 0 r.1 (row.map (fun d => (d.1.j, d.2.2, 0)))
    let cm := (row.zip t.1).foldl (fun m d => monMax m (carryRatio d.1.2.1 d.1.1.v d.2.v d.1.1.unit)) acc.2
    ({ rows := acc.1.rows ++ [(r.1, t.1)], scales := acc.1.scales ++ t.2.1.map (fun q => (r.1, q.1, q.2)), fl := acc.1.fl.or t.2.2 }, cm))
    ({}, 0)

/-- Writes the carry plane (R86, R87). -/
def carryStore (c : CarryDesc) (w : Nat) (p : Packed) (m : Mem) : Mem :=
  if !c.out then m else
  let n := fmtWidth c.fmt
  let m := p.rows.foldl (fun m r => r.2.foldl (fun m q => m.putBits (c.base + r.1 * c.stride) (n * q.j) n q.code) m) m
  p.scales.foldl (fun m q => m.write (c.scale + q.1 * ceilDiv w 32 + q.2.1) (BitVec.ofNat 8 q.2.2)) m

/-! ## The chain -/

/-- What a chain comes to at its core: the core, its flags, and the monitor records it feeds (layer, saturated, carry, ef). -/
structure VecOut where
  k : Core
  fl : Fl
  mon : Option (Nat × Nat × Nat × Bool) := none
deriving DecidableEq, Repr, Inhabited

/-- Stage 5 rounds what still holds its exact value before it reduces, but for stage 3's exact results and a segment form's squares, which it
sums exactly (R137, R140, R159). -/
def VecFields.settle (f : VecFields) (x : SE) : SE :=
  if f.keep3 || (f.on 4 && sfSeg f.sf) then x else
  match x.v with
  | .raw _ => x
  | .ex v => let l := roundLane f.isInt v; SE.flag { x with v := .raw l.1 } l.2

/-- The stream after stages 1 to 4, as stage 5 takes it where it is enabled. -/
def Core.stream (k : Core) (a : VecArgs) : List SE :=
  let f := a.f
  let xs := (List.range f.count).map (k.loadElem a)
  let xs := if f.on 2 then xs.map (k.arith f true false f.aOp f.aB f.aC f.immA) else xs
  let xs := if f.on 3 then xs.map (k.arith f false f.keep3 f.bOp f.bB f.bC f.immB) else xs
  let xs := if f.on 4 then xs.map (k.special f) else xs
  if f.on 5 then xs.map f.settle else xs

/-- Flags of a stream. -/
def streamFl (xs : List SE) : Fl := xs.foldl (fun f x => f.or x.fl) {}

/-- Stages 6 to 8 through ST_DESC. The sign of an exact zero v = x + e_prev is that of an IEEE sum, which R85 does not state (log entry 122). -/
def Core.storeDesc (k : Core) (a : VecArgs) (o : OutDesc) (seed : Nat) (fl : Fl) (xs : List SE) : VecOut :=
  let f := a.f
  let ws := writtenElems o xs
  match a.ef with
  | some c =>
    if !f.on 8 then { k := k, fl := fl, mon := some (c.layer, 0, 0, true) } else
    let lane := fun (x : SE) => x.v.lane f.isInt
    let val := fun (x : SE) => (fAdd (laneVal f.isInt (lane x).1) (k.ePrev c f.w x)).1
    let p := packAll k.cb.active f o seed k.seq.pass f.isInt val ws
    let q := carryAll c f.w ws val p
    let fl2 := ws.foldl (fun a x => a.or (lane x).2) fl
    let sat := p.fl.sat + q.1.fl.sat
    { k := { k with ts := carryStore c f.w q.1 (p.store o f.dst k.ts) }, fl := fl2.or (p.fl.or q.1.fl),
      mon := some (c.layer, sat, q.2, true) }
  | none =>
    if f.on 7 then
      let p := packAll k.cb.active f o seed k.seq.pass f.isInt (fun x => x.v.val f.isInt) ws
      { k := if f.on 8 then { k with ts := p.store o f.dst k.ts } else k, fl := fl.or p.fl,
        mon := if f.mon then some (f.layer, p.fl.sat, 0, false) else none }
    else
      let ls := ws.map (fun x => (x, x.v.lane f.isInt))
      { k := { k with ts := ls.foldl (fun m e => m.putElem o f.lane e.1.i e.1.j e.2.1) k.ts },
        fl := ls.foldl (fun a e => a.or e.2.2) fl }

/-- Stages 7 and 8 into a register (R137, R142). -/
def Core.storeReg (k : Core) (a : VecArgs) (fl : Fl) (xs : List SE) : VecOut :=
  let f := a.f
  let c := Ccw.of f.pkCcw
  let conv := fun (x : SE) => if f.on 7 then convertPlain f.lane f.isInt c.rnd c.sat 0 (x.v.val f.isInt) else x.v.lane f.isInt
  let rs := (xs.filter (fun x => !x.none_)).map (fun x => (x, conv x))
  let fl2 := rs.foldl (fun (a : Fl) e => if e.1.pad then a else a.or e.2.2) ({} : Fl)
  { k := if f.on 8 then { k with ve := rs.foldl (fun v e => v.setElem f.vd (f.elem0 + e.1.e) ⟨e.2.1, e.1.pad⟩) k.ve } else k,
    fl := if f.on 7 || f.on 8 then fl.or fl2 else fl,
    mon := if f.on 7 && f.mon then some (f.layer, fl2.sat, 0, false) else none }

/-- The whole chain on a core (R131, R137 to R144); COUNT 0 reads, writes and flags nothing. -/
def Core.chain (k : Core) (a : VecArgs) (seed : Nat) : VecOut :=
  let f := a.f
  if f.count = 0 then { k := k, fl := {} } else
  let xs := k.stream a
  let r := if f.on 5 then reduceAll f (k.rowExtent a) k.ve.carry xs else ([], k.ve.carry)
  let k1 := { k with ve := { k.ve with carry := r.2 } }
  let k2 := if f.on 5 && !f.redMode then
      { k1 with ve := (r.1.filter (fun x => !x.none_)).foldl (fun v x => v.setElem f.vr x.e ⟨(x.v.lane f.isInt).1, x.pad⟩) k1.ve }
    else k1
  let ys := if f.on 5 && f.redMode then r.1 else xs
  let fl := (streamFl xs).or (streamFl r.1)
  if f.regDst then k2.storeReg a fl ys
  else match a.st with
    | some o => k2.storeDesc a o seed fl ys
    | none => { k := k2, fl := fl }

/-- A CHAIN_FTQ with POP removes the head entry at completion (R144). -/
def Core.pop (k : Core) (f : VecFields) : Core :=
  if f.ftq && f.pop then { k with mu := { k.mu with ftq := k.mu.ftq.drop 1 } } else k

/-- What keeps a chain waiting: its tile-ready flag, a tile that still writes, an empty queue, a claim's patch (R80, R144, R145, R223). -/
def vecWait (k : Core) (a : VecArgs) : Bool :=
  let f := a.f
  k.draining || k.claimWait ([f.cfg] ++ (if f.fromDesc then [f.ld] else []) ++ (if f.usesSt then [f.st] else []) ++ (if f.on 6 then [f.ef] else []))
    || (match f.ready with | some r => !bit k.ready r | none => false) || (f.ftq && k.mu.ftq.isEmpty)

/-- Tile-store and operand-buffer bytes a chain reads: its stream's elements inside the extent with their scales, and the carry in (R87, R137). -/
def VecArgs.reads (a : VecArgs) : List (Bool × Nat × Nat) :=
  if a.f.count = 0 then [] else
  (match a.ld with
    | some o => o.ranges.take (if o.colMajor then o.memRows else min a.f.rows o.rows)
        ++ (if isMx o.fmt then (o.ranges.drop o.memRows).take (if o.colMajor then o.memRows else min a.f.rows o.rows) else [])
    | none => [])
  ++ (match a.ef, a.st with
    | some c, some o => if c.inp && a.f.on 8 then c.ranges (min (ceilDiv a.f.outCount a.f.outW) o.rows) (min a.f.outW o.cols) a.f.w else []
    | _, _ => [])
/-- Tile-store bytes a chain writes: ST_DESC's rows with their scales, and the carry out (R87, R142). -/
def VecArgs.writes (a : VecArgs) : List (Bool × Nat × Nat) :=
  let f := a.f
  if f.count = 0 || !f.on 8 then [] else
  match a.st with
  | none => []
  | some o =>
    let rows := min (ceilDiv f.outCount f.outW) o.rows
    let n := min f.outW o.cols
    let w := fmtWidth f.dst
    (if o.colMajor then (List.range n).map (fun j => (false, o.base + j * o.stride, (w * rows + 7) / 8))
     else (List.range rows).map (fun i => (false, o.base + i * o.stride, (w * n + 7) / 8)))
      ++ (if isMx f.dst then (List.range rows).map (fun i => (false, o.base + o.rows * o.stride + i * ceilDiv o.cols 32, ceilDiv n 32)) else [])
      ++ (match a.ef with | some c => if c.out then c.ranges rows n f.w else [] | none => [])

/-- Cycles of the chain: the initiation interval I (R146). -/
def VecFields.interval (f : VecFields) : Nat :=
  let g := if f.on 5 then (List.range f.rows).foldl (fun n s => n + ceilDiv (min f.w (f.count - s * f.w)) 64) 0 else 0
  max (ceilDiv f.count (if f.on 4 then 16 else 64)) g

/-- What the counters have to count of a chain (Table 22.6): data lanes, the other lanes of its cycles, its cycles. -/
def VecArgs.notes (a : VecArgs) (xs : List SE) (k : Core) : Core :=
  let good := (xs.filter (fun x => !x.pad && !x.masked)).length
  let i := a.f.interval
  ((k.note 0x030 good).note 0x031 (i * (if a.f.on 4 then 16 else 64) - good)).note (if a.f.on 4 then 0x1000 else 0x1001) i

/-- A vector instruction at issue. -/
def chain (s : State) (x : Ctx) : Issue :=
  match vecArgs s x with
  | none => .illegal
  | some a =>
    if vecWait (s.core x.c) a then .wait s else
    s.access x a.reads a.writes (fun s =>
    let r := (s.core x.c).chain a (Req.seed x.im.req)
    let s1 := (s.setCore x.c (a.notes ((s.core x.c).stream a) (r.k.pop a.f))).addFlags x.p x.c r.fl
    .ofExtent (a.f.count == 0) (match r.mon with | some m => s1.monitor x.p m.1 m.2.1 m.2.2.1 0 m.2.2.2 | none => s1))

/-- CHAIN (R133). -/
def execChain (c : Nat) (s : State) : R := issue ⟨2, 0, 0⟩ c s (chain s)
/-- CHAIN_EF (R141). -/
def execChainEf (c : Nat) (s : State) : R := issue ⟨2, 1, 0⟩ c s (chain s)
/-- CHAIN_FTQ (R144). -/
def execChainFtq (c : Nat) (s : State) : R := issue ⟨2, 2, 0⟩ c s (chain s)

end Sys2Proof.Machine
end

