-- ==== Sys2Proof/Machine/Claims.lean ====
section
/-!
DEFINITION. Sys2Proof/Machine/Claims.lean: work counters and claims (R221 to R225) and the FREEZE_POINT instruction (R367).
-/

namespace Sys2Proof.Machine

/-! ## CLAIM and its patches (R223) -/

def Core.claim (k : Core) (n : Nat) : ClaimSlot := k.claims.getD n {}
def Core.setClaim (k : Core) (n : Nat) (q : ClaimSlot) : Core := { k with claims := k.claims.set n q }

/-- The two patches of a claim-patch descriptor, at offsets 0 and 16. -/
def patchEn (d : List Byte) (o : Nat) : Bool := fbits d o 11 11 = 1
def patchDesc (d : List Byte) (o : Nat) : Nat := fbits d o 7 0

/-- Descriptors that an instruction names as something other than a matrix or vector operand or output: tile moves, claim patches and
collective descriptors. -/
def otherDescs (w : Nat) : List Nat :=
  match bits w 3 0 with
  | 3 => bits w 15 8 :: (if bits w 7 4 = 2 || bits w 7 4 = 5 then [bits w 15 8 + 1] else [])
  | 4 => if bits w 7 4 = 4 then [bits w 25 18] else []
  | 5 => [bits w 15 8]
  | _ => []
/-- Whether an enabled patch names a descriptor that the core's stream uses as something other than an operand or output descriptor (R223; log
entry 126). -/
def patchesOther (im : Image) (k : Nat) (d : List Byte) : Bool :=
  let others := ((tpStream im.bytes k).map (fun w => otherDescs w.toNat)).flatten
  [0, 16].any (fun o => patchEn d o && others.contains (patchDesc d o))

/-- Reserved bits and encodings of Table 10.7. -/
def patchBad (d : List Byte) : Bool := [0, 16].any (fun o => fbits d o 31 12 != 0 || (patchEn d o && decide (5 ≤ fbits d o 10 8)))

/-- clamp(START + idx × STRIDE, 0, CLAMP). -/
def patchValue (d : List Byte) (o idx : Nat) : Nat :=
  let v : Int := toSigned 32 (fld d (o + 4) 4) + (idx : Int) * toSigned 32 (fld d (o + 8) 4)
  (max 0 (min v (fld d (o + 12) 4 : Int))).toNat

/-- Writes a field of a descriptor: byte offset, low bit and width. -/
def Core.putField (k : Core) (desc off lo w v : Nat) : Core :=
  { k with desc := k.desc.putBits (32 * desc + off) lo w v }

/-- Applies one patch with the index received. -/
def Core.patch (k : Core) (d : List Byte) (o idx : Nat) : Core :=
  if !patchEn d o then k else
  let v := patchValue d o idx
  match fbits d o 10 8 with
  | 0 => k.putField (patchDesc d o) 0 0 20 v
  | 1 => k.putField (patchDesc d o) 4 0 16 v
  | 2 => k.putField (patchDesc d o) 4 16 16 v
  | 3 => k.putField (patchDesc d o) 20 0 32 v
  | 4 => k.putField (patchDesc d o) 24 0 32 v
  | _ => k

/-- On EXHAUSTED, ROWS := 0 in a descriptor that an enabled patch names. -/
def Core.patchNone (k : Core) (d : List Byte) (o : Nat) : Core := if patchEn d o then k.putField (patchDesc d o) 4 0 16 0 else k

/-- CLAIM: opens the slot and sends the request to the counter's home bank; the reply comes with CLAIM_REQUEST. -/
def execClaim (c : Nat) (s : State) : R :=
  issue ⟨4, 4, 0⟩ c s (fun x =>
    let k := s.core c
    let n := x.f 17 8
    let sl := x.f 27 26
    let d := k.descriptor (x.f 25 18)
    if x.f 127 28 != 0 || patchBad d || patchesOther x.im x.k d || (claimRec x.im n).isNone || ((k.claim sl).isOpen && !(k.claim sl).done) then .illegal
    else if (k.claim sl).done || k.claimWait [x.f 25 18] then .wait s
    else
      let s1 := s.updCore c (fun k => k.setClaim sl { counter := n, isOpen := true, pending := true, patch := d })
      .done (s1.updCounter x.p n (fun q => { q with queue := q.queue ++ [{ core := c, slot := sl }] })))

/-- What `claim` answers: the counter, index and token (R222). -/
def Counter.take (q : Counter) (limit : Nat) : Counter × Option (Nat × Nat) :=
  match q.reissue.foldl (fun m i => match m with | none => some i | some j => some (min i j)) (none : Option Nat) with
  | some i => ({ q with reissue := q.reissue.filter (fun j => j != i) }, some (i, q.epoch))
  | none => if q.next < limit then ({ q with next := q.next + 1 }, some (q.next, q.epoch)) else (q, none)

/-- LIMIT and LEASE (in ns) of a counter. -/
def claimLimit (im : Image) (n : Nat) : Nat := match claimRec im n with | some r => fbits r 4 24 0 | none => 0
def claimLease (im : Image) (n : Nat) : Nat := match claimRec im n with | some r => fbits r 8 15 0 * 1000 | none => 0

/-- Shelf that is home of a counter (Table 10.6). -/
def claimHome (im : Image) (n : Nat) : Nat := match claimRec im n with | some r => fbits r 0 14 12 | none => 0

/-- A ledger entry (R222). -/
def ledgerEntry (st core tok : Nat) : Nat := st + core * 4 + tok * 2 ^ 32

/-- CLAIM_REQUEST: the home bank serves the oldest request; the reply sets the slot and patches the descriptors. -/
def execClaimRequest (p counter : Nat) (s : State) : R :=
  if 16 ≤ p || 1024 ≤ counter then .fault .noSuchUnit else
  if s.memHeld p then .next s else
  match (s.part p).image, ((s.part p).counter counter).queue with
  | some im, q :: rest =>
    let s := s.noteShelf (claimHome im counter) p 0x260 1
    let r := ((s.part p).counter counter).take (claimLimit im counter)
    let patch := ((s.core q.core).claim q.slot).patch
    match r.2 with
    | some (idx, tok) =>
      let s1 := s.updCounter p counter (fun _ => { r.1 with queue := rest, takenAt := r.1.takenAt.filter (fun e => e.1 != idx) ++ [(idx, s.dtb)] })
      let s2 := s1.putLedger p im counter idx (ledgerEntry 1 q.core tok)
      .next (s2.updCore q.core (fun k => (((k.note 0x090 1).setClaim q.slot { (k.claim q.slot) with
        idx := idx, tok := tok, pending := false }).patch patch 0 idx).patch patch 16 idx))
    | none =>
      let s1 := s.updCounter p counter (fun _ => { r.1 with queue := rest })
      let none_ := fun (q : ClaimSlot) => { q with idx := 0xFFFFFFFF, tok := 0, pending := false, isOpen := false }
      .next (s1.updCore q.core (fun k => (((k.note 0x091 1).setClaim q.slot (none_ (k.claim q.slot))).patchNone patch 0).patchNone patch 16))
  | _, _ => .next s

/-! ## CLAIM_DONE and its acceptance (R224) -/

/-- CLAIM_DONE: presents (index, token, core) to the home bank; on EXHAUSTED it does nothing. -/
def execClaimDone (c : Nat) (s : State) : R :=
  issue ⟨4, 5, 0⟩ c s (fun x =>
    let sl := x.f 27 26
    let q := (s.core c).claim sl
    if x.f 25 8 != 0 || x.f 127 28 != 0 then .illegal
    else if !s.allDone c then .wait s
    else if !q.isOpen then .done s
    else .done ((s.updCore c (fun k => k.setClaim sl { q with done := true })).updCounter x.p q.counter
      (fun n => { n with dones := n.dones ++ [{ core := c, slot := sl, idx := q.idx, tok := q.tok }] })))

/-- Folds the held contributions of an accepted index (R224). -/
def State.foldHeld (s : State) (p : Nat) (hs : List HeldContrib) : State :=
  hs.foldl (fun s h => match s.regionAt p h.addr with
    | some (e, g) => if g.elemBytes = 0 then s else
        s.contribute (shelfOf h.addr) e g ((h.addr % Config.groupBytes - g.offset) / g.elemBytes) (leNat h.bytes) h.beat
    | none => s) s

/-- CLAIM_DONE_ACCEPT: the home bank accepts the oldest presentation where the ledger entry is claimed with its token and core;
any other is discarded and counted. -/
def execClaimDoneAccept (p counter : Nat) (s : State) : R :=
  if 16 ≤ p || 1024 ≤ counter then .fault .noSuchUnit else
  if s.memHeld p then .next s else
  match (s.part p).image, ((s.part p).counter counter).dones with
  | some im, q :: rest =>
    let s := s.noteShelf (claimHome im counter) p 0x260 1
    let cn := (s.part p).counter counter
    let s1 := (s.updCounter p counter (fun n => { n with dones := rest })).updCore q.core (fun k => k.setClaim q.slot {})
    if ledgerIs (s.ledger p im counter q.idx) 1 q.core q.tok then
      let mine := cn.held.filter (fun h => h.idx == q.idx && h.tok == q.tok)
      let s2 := s1.updCounter p counter (fun n => { n with held := n.held.filter (fun h => !(h.idx == q.idx && h.tok == q.tok)),
                                                           takenAt := n.takenAt.filter (fun e => e.1 != q.idx) })
      .next ((s2.foldHeld p mine).putLedger p im counter q.idx (ledgerEntry 2 q.core q.tok))
    else .next (s1.fence p 1)
  | _, _ => .next s

/-- `revoke` (R225). -/
def State.revoke (s : State) (p : Nat) (im : Image) (n idx core tok : Nat) : State :=
  if !ledgerIs (s.ledger p im n idx) 1 core tok then s else
  (s.updCounter p n (fun q =>
    { q with
      epoch := (q.epoch + 1) % 2 ^ 32
      held := q.held.filter (fun h => h.idx != idx)
      reissue := q.reissue ++ [idx]
      takenAt := q.takenAt.filter (fun e => e.1 != idx) })).putLedger p im n idx (ledgerEntry 0 core tok)

/-- CLAIM_LEASE_EXPIRY: root firmware revokes an open claim whose LEASE has run out on the DTB (R225). -/
def execClaimLeaseExpiry (p counter idx : Nat) (s : State) : R :=
  if 16 ≤ p || 1024 ≤ counter then .fault .noSuchUnit else
  match (s.part p).image, ((s.part p).counter counter).takenAt.find? (fun e => e.1 == idx) with
  | some im, some (_, t) =>
    if s.dtb < t + claimLease im counter || s.memHeld p then .next s else
    let l := s.ledger p im counter idx
    .next (s.revoke p im counter idx (bits l 15 2) (bits l 63 32))
  | _, _ => .next s

/-! ## FREEZE_POINT (R367, R368) -/

/-- Whether a live-range entry lies within its space (Table 16.6). -/
def liveOk (e : List Byte) : Bool :=
  let base := fbits e 0 19 0
  let n := fbits e 4 20 0
  fbits e 0 31 22 == 0 && fbits e 4 31 21 == 0 && fld e 8 8 == 0 &&
  match fbits e 0 21 20 with
  | 0 => decide (base + n ≤ Config.tsBytes)
  | 1 => decide (base + n ≤ Config.obBytes)
  | 2 => base % 8192 == 0 && n % 8192 == 0 && decide (base + n ≤ 32 * 8192)
  | _ => false

/-- Bytes at a device address (R231); none where one lies outside the partition's groups. -/
def State.devBytes (s : State) (g : Geometry) (a : Nat) : Nat → Option (List Byte)
  | 0 => some []
  | n + 1 => match devPhys g a, s.devBytes g (a + 1) n with
    | some ph, some r => some (s.hb ph :: r)
    | _, _ => none

/-- The entries of a live-range list. -/
def State.liveList (s : State) (g : Geometry) (a n : Nat) : Option (List (List Byte)) :=
  (s.devBytes g a (16 * n)).map (fun b => (List.range n).map (fun i => sub b (16 * i) 16))

/-- Whether every collective instance that a core has handed off has completed locally (R309). -/
def State.handedOff (s : State) (p c : Nat) : Bool :=
  (List.range 256).any (fun g => (s.grp p g).insts.any (fun i => i.cores.contains c))

/-- Whether a freeze point at FP_COUNT `n` parks its cores: the target of a freeze, the first point after a freeze with AT_FP 0, a
checkpoint's target, or a request point, which shares its beat with a selection point (R369, R370, R459, R463). -/
def State.parksAt (s : State) (p c n : Nat) : Bool :=
  let fz := (s.part p).fz
  let first := fz.at_ = 0 && (s.imageCores p).all (fun d => decide ((s.core d).seq.fpCount < n))
  (fz.armed && (fz.at_ == n || first)) || (s.part p).rcv.ckptAt == n && n != 0
    || (s.core c).seq.selBeat == some (s.core c).seq.curBeat

/-- FREEZE_POINT. -/
def execFreezePoint (c : Nat) (s : State) : R :=
  issue ⟨4, 3, 0⟩ c s (fun x =>
    let k := s.core c
    if x.f 127 76 != 0 then .illegal
    else if !s.allDone c then .wait s else
    match s.liveList (s.part x.p).geo (x.f 59 20) (x.f 75 60) with
    | none => .fault Config.stAccessRights s
    | some es =>
      if k.mu.t0.state != 0 || k.mu.t1.state != 0 || !k.mu.ftq.isEmpty || k.ve.carry.isOpen || k.claims.any (·.isOpen)
          || s.handedOff x.p c || !es.all liveOk then .illegal
      else
        let n := k.seq.fpCount + 1
        let park := s.parksAt x.p c n
        let s0 := if park then s.updRcv x.p (fun r => { r with pauseFrom := s.dtb }) else s
        let s1 := s0.updSeq c (fun q => { q with fpCount := n, fpId := x.f 19 8, liveList := (x.f 59 20, x.f 75 60), fpWait := park })
        .done (if park && (s.part x.p).fz.armed && (s.part x.p).fz.at_ = 0 then
          s1.updPart x.p (fun y => { y with fz := { y.fz with at_ := n } }) else s1))

end Sys2Proof.Machine
end

