-- ==== Sys2Proof/Machine/SeqTable.lean ====
section
/-!
DEFINITION. Sys2Proof/Machine/SeqTable.lean: the sequence-table commands as they take effect at a selection point (R178, R184 to
R186). The payload layouts and the prefix-handle entry are the model's (log entry 14).
-/

namespace Sys2Proof.Machine

/-- Writes a slot's entry (Table 8.5). -/
def State.putSeqEnt (s : State) (p : Nat) (im : Image) (slot : Nat) (e : List Byte) : State := s.storeX p (im.region 6 + 32 * slot) e
/-- The bytes of an entry. -/
def seqEntBytes (isOpen fromHandle : Bool) (fmt k length maxTokens shared layers gen units list : Nat) : List Byte :=
  leBytes 4 (b2n isOpen + 2 * b2n fromHandle + fmt * 2 ^ 8 + k * 2 ^ 16) ++ leBytes 4 length ++ leBytes 4 maxTokens
    ++ leBytes 4 shared ++ leBytes 4 (layers + gen % 65536 * 2 ^ 16) ++ leBytes 4 units ++ leBytes 8 list

/-! ## Prefix handles -/

def State.handleEnt (s : State) (p : Nat) (im : Image) (h : Nat) : List Byte :=
  s.readX (s.part p).geo (im.region 6 + 8192 + 16 * h) 16
def State.putHandle (s : State) (p : Nat) (im : Image) (h : Nat) (e : List Byte) : State := s.storeX p (im.region 6 + 8192 + 16 * h) e
namespace Hnd
def pinned (e : List Byte) : Bool := fbits e 0 0 0 = 1
def fmt (e : List Byte) : Nat := fbits e 0 12 8
def k (e : List Byte) : Nat := fbits e 0 19 16
def n (e : List Byte) : Nat := fbits e 4 23 0
def layers (e : List Byte) : Nat := fbits e 8 10 0
/-- First entry of its page list, counted from the start of the page-list area. -/
def list (e : List Byte) : Nat := fld e 12 4
def pages (e : List Byte) : Nat := ceilDiv (n e) (2 ^ k e)
end Hnd
def handleBytes (fmt k n layers list : Nat) : List Byte :=
  leBytes 4 (1 + fmt * 2 ^ 8 + k * 2 ^ 16) ++ leBytes 4 n ++ leBytes 4 layers ++ leBytes 4 list

/-! ## Page lists and units (R185) -/

/-- First entry of a slot's page list, counted from the start of the page-list area. -/
def Ent.listIndex (im : Image) (e : List Byte) : Nat := (Ent.pageList e - poolLists im) / 4

/-- Runs of the page-list area in use: first entry and length. -/
def State.listRuns (s : State) (p : Nat) (im : Image) : List (Nat × Nat) :=
  (((List.range 256).map (s.seqEnt p im)).filter Ent.isOpen).map (fun e => (Ent.listIndex im e, Ent.layers e * Ent.pagesMax e))
    ++ (((List.range 1024).map (s.handleEnt p im)).filter Hnd.pinned).map (fun e => (Hnd.list e, Hnd.layers e * Hnd.pages e))

/-- The lowest-addressed free run of `n` entries: it starts at 0 or at the end of a run in use. -/
def listAlloc (total n : Nat) (runs : List (Nat × Nat)) : Option Nat :=
  let used := runs.filter (fun r => r.2 != 0)
  let ok := fun a => decide (a + n ≤ total) && used.all (fun r => decide (a + n ≤ r.1) || decide (r.1 + r.2 ≤ a))
  (((0 :: used.map (fun r => r.1 + r.2)).filter ok).foldl (fun m a => match m with | none => some a | some b => some (min a b)) none)

/-- The partition's total units: open slots and pages pinned by a handle until they are freed. -/
def State.units (s : State) (p : Nat) (im : Image) : Nat :=
  (((List.range 256).map (s.seqEnt p im)).filter Ent.isOpen).foldl (fun n e => n + Ent.units e) 0
    + (s.part p).pinUnits.foldl (fun n e => n + e.2) 0

/-- Clears a new page list: every entry not yet mapped. -/
def State.clearList (s : State) (p : Nat) (im : Image) (first n : Nat) : State :=
  s.storeX p (poolLists im + 4 * first) (List.replicate (4 * n) 0xFF)

/-- Maps pages of another list into a new one, raising their counts: `n` pages of each of `layers` layers. -/
def State.mapPages (s : State) (p : Nat) (im : Image) (layers n src srcMax dst dstMax : Nat) : State :=
  ((List.range layers).map (fun l => (List.range n).map (fun i => (l, i)))).flatten.foldl (fun s q =>
    let page := s.leX (s.part p).geo (poolLists im + 4 * (src + q.1 * srcMax + q.2)) 4
    if page = 0xFFFFFFFF then s else
    (s.storeX p (poolLists im + 4 * (dst + q.1 * dstMax + q.2)) (leBytes 4 page)).putRefs p im page (s.refs p im page + 1)) s

/-- Whether mapping `n` pages of each layer of a list would raise a count above 65,535 (R185). -/
def State.refsFull (s : State) (p : Nat) (im : Image) (layers n src srcMax : Nat) : Bool :=
  ((List.range layers).map (fun l => (List.range n).map (fun i => src + l * srcMax + i))).flatten.any (fun a =>
    let page := s.leX (s.part p).geo (poolLists im + 4 * a) 4
    page != 0xFFFFFFFF && decide (65535 ≤ s.refs p im page))

/-- Drops every mapping of a list. -/
def State.dropList (s : State) (p : Nat) (im : Image) (first n : Nat) : State :=
  (List.range n).foldl (fun s i =>
    let page := s.leX (s.part p).geo (poolLists im + 4 * (first + i)) 4
    if page = 0xFFFFFFFF then s else s.dropRef p im page) s

/-! ## The commands (Table 8.7) -/

/-- Opens a slot: the common part of SLOT_OPEN and SLOT_FORK. `share` answers how its first pages are mapped. -/
def State.openSlot (s : State) (p : Nat) (im : Image) (slot fmt k len maxTokens layers units : Nat) (fromHandle : Bool)
    (share : Nat → State → State) : Nat × State :=
  let n := layers * ceilDiv maxTokens (2 ^ k)
  if Req.poolPages im.req < s.units p im + units then (Config.stNoPages, s) else
  match listAlloc (Req.plEntries im.req) n (s.listRuns p im) with
  | none => (Config.stNoPages, s)
  | some a =>
    let e := s.seqEnt p im slot
    let s1 := share a (s.clearList p im a n)
    (Config.stOk, s1.putSeqEnt p im slot (seqEntBytes true fromHandle fmt k len maxTokens len layers (Ent.gen e + 1) units
      (2 ^ 60 + poolLists im + 4 * a)))

/-- SLOT_OPEN. -/
def State.slotOpen (s : State) (p : Nat) (im : Image) (b : List Byte) : Nat × State :=
  let slot := fbits b 0 7 0
  let layers := fld b 4 4
  let fmt := fbits b 12 4 0
  let k := fbits b 12 19 16
  if Ent.isOpen (s.seqEnt p im slot) || !slotOwned im slot then (Config.stSlotState, s)
  else if layers = 0 || 1024 < layers || 4 < fmt || fmt = 0 || 12 < k then (Config.stBadField, s)
  else s.openSlot p im slot fmt k 0 (fbits b 8 23 0) layers (layers * ceilDiv (fbits b 8 23 0) (2 ^ k)) false (fun _ t => t)

/-- SLOT_FORK, from a slot or from a prefix handle. -/
def State.slotFork (s : State) (p : Nat) (im : Image) (b : List Byte) : Nat × State :=
  let slot := fbits b 0 7 0
  let maxT := fbits b 12 23 0
  let n := fbits b 8 23 0
  if Ent.isOpen (s.seqEnt p im slot) || !slotOwned im slot then (Config.stSlotState, s)
  else if fbits b 0 8 8 = 1 then
    let h := s.handleEnt p im (fbits b 4 9 0)
    if !Hnd.pinned h then (Config.stNoHandle, s)
    else if Hnd.n h < n || maxT < n then (Config.stKvRange, s)
    else if s.refsFull p im (Hnd.layers h) (ceilDiv n (2 ^ Hnd.k h)) (Hnd.list h) (Hnd.pages h) then (Config.stRefLimit, s)
    else
      let pm := ceilDiv maxT (2 ^ Hnd.k h)
      s.openSlot p im slot (Hnd.fmt h) (Hnd.k h) n maxT (Hnd.layers h) (Hnd.layers h * (pm - n / 2 ^ Hnd.k h)) true
        (fun a t => t.mapPages p im (Hnd.layers h) (ceilDiv n (2 ^ Hnd.k h)) (Hnd.list h) (Hnd.pages h) a pm)
  else
    let e := s.seqEnt p im (fbits b 4 7 0)
    if 256 ≤ fbits b 4 9 0 then (Config.stBadField, s)
    else if !Ent.isOpen e || !slotOwned im (fbits b 4 7 0) then (Config.stSlotState, s)
    else if Ent.length e < n || maxT < n then (Config.stKvRange, s)
    else
      let k := fbits e 0 19 16
      let pm := ceilDiv maxT (2 ^ k)
      if s.refsFull p im (Ent.layers e) (ceilDiv n (2 ^ k)) (Ent.listIndex im e) (Ent.pagesMax e) then (Config.stRefLimit, s) else
      s.openSlot p im slot (Ent.fmt e) k n maxT (Ent.layers e) (Ent.layers e * pm) false
        (fun a t => t.mapPages p im (Ent.layers e) (ceilDiv n (2 ^ k)) (Ent.listIndex im e) (Ent.pagesMax e) a pm)

/-- SLOT_CLOSE. -/
def State.slotClose (s : State) (p : Nat) (im : Image) (b : List Byte) : Nat × State :=
  let slot := fbits b 0 7 0
  let e := s.seqEnt p im slot
  if !slotOwned im slot || !Ent.isOpen e then (Config.stSlotState, s) else
  (Config.stOk, (s.dropList p im (Ent.listIndex im e) (Ent.layers e * Ent.pagesMax e)).putSeqEnt p im slot
    (seqEntBytes false false 0 0 0 0 0 0 (Ent.gen e) 0 0))

/-- Key of the units a handle holds for entries that map no page: they return when the handle is released (log entry 128). -/
def noPage (h : Nat) : Nat := 2 ^ 32 + h

/-- PREFIX_PIN: LAYERS × ceil(n / TPP) units, each held until its page is freed. -/
def State.prefixPin (s : State) (p : Nat) (im : Image) (b : List Byte) : Nat × State :=
  let h := fbits b 0 9 0
  let slot := fbits b 4 7 0
  let n := fbits b 8 23 0
  let e := s.seqEnt p im slot
  let k := fbits e 0 19 16
  let pages := ceilDiv n (2 ^ k)
  if Hnd.pinned (s.handleEnt p im h) then (Config.stNoHandle, s)
  else if !slotOwned im slot || !Ent.isOpen e then (Config.stSlotState, s)
  else if Ent.length e < n then (Config.stKvRange, s)
  else if s.refsFull p im (Ent.layers e) pages (Ent.listIndex im e) (Ent.pagesMax e) then (Config.stRefLimit, s)
  else if Req.poolPages im.req < s.units p im + Ent.layers e * pages then (Config.stNoPages, s)
  else match listAlloc (Req.plEntries im.req) (Ent.layers e * pages) (s.listRuns p im) with
    | none => (Config.stNoPages, s)
    | some a =>
      let s1 := (s.clearList p im a (Ent.layers e * pages)).mapPages p im (Ent.layers e) pages (Ent.listIndex im e) (Ent.pagesMax e) a pages
      let mapped := (List.range (Ent.layers e * pages)).map (fun i => s1.leX (s1.part p).geo (poolLists im + 4 * (a + i)) 4)
      let s2 := s1.putHandle p im h (handleBytes (Ent.fmt e) k n (Ent.layers e) a)
      (Config.stOk, s2.updPart p (fun x =>
        { x with pinUnits := x.pinUnits ++ mapped.map (fun q => (if q = 0xFFFFFFFF then noPage h else q, 1)) }))

/-- PREFIX_RELEASE. -/
def State.prefixRelease (s : State) (p : Nat) (im : Image) (b : List Byte) : Nat × State :=
  let h := fbits b 0 9 0
  let e := s.handleEnt p im h
  if !Hnd.pinned e then (Config.stNoHandle, s) else
  (Config.stOk, ((s.dropList p im (Hnd.list e) (Hnd.layers e * Hnd.pages e)).putHandle p im h (leBytes 16 0)).updPart p (fun x =>
    { x with pinUnits := x.pinUnits.filter (fun q => q.1 != noPage h) }))

/-- A sequence-table command by its code. -/
def State.seqCommand (s : State) (p : Nat) (im : Image) (cmd : Nat) (b : List Byte) : Nat × State :=
  match cmd with
  | 0x0400 => s.slotOpen p im b
  | 0x0401 => s.slotFork p im b
  | 0x0402 => s.slotClose p im b
  | 0x0403 => s.prefixPin p im b
  | _ => s.prefixRelease p im b

end Sys2Proof.Machine
end

