-- ==== Sys2Proof/Machine/Job.lean ====
section
/-!
DEFINITION. Sys2Proof/Machine/Job.lean: selection points, bucket selection, weight switches, commits of beats, output copies and
the widening vote (R98 to R104, R115 to R120, R215, R216, R345, R349, R422).
-/

namespace Sys2Proof.Machine

/-! ## A partition parked at a selection point (R118) -/

def seqHalted (q : Seq) : Bool := q.run == 4

/-- Whether every core is parked at the selection point or halted, and one is parked. -/
def State.parked (s : State) (p : Nat) : Bool :=
  let qs := (s.imageCores p).map (fun c => (s.core c).seq)
  qs.any (·.selectWait) && qs.all (fun q => q.selectWait || seqHalted q)

/-- Whether every core of the image has halted. -/
def State.allHalted (s : State) (p : Nat) : Bool :=
  let qs := (s.imageCores p).map (fun c => (s.core c).seq)
  !qs.isEmpty && qs.all seqHalted

/-- The highest CUR_BEAT of the image's cores. -/
def State.topBeat (s : State) (p : Nat) : Nat := (s.imageCores p).foldl (fun m c => max m (s.core c).seq.curBeat) 0

/-- The open request ends where the partition reaches a selection point or halts; it is done when the beat that ended it commits
(R422). An image that halts without reaching a selection point has run its first request. -/
def State.endRequest (s : State) (p : Nat) : State :=
  let j := (s.part p).job
  match j.opened with
  | some q => s.updJob p (fun j => { j with opened := none, ending := j.ending ++ [(q, s.topBeat p)] })
  | none =>
    if s.allHalted p && j.nextRequest == 0 then
      match j.requests with
      | q :: rest => if q.cmd = 0x0202 then
          s.updJob p (fun j => { j with requests := rest, nextRequest := 1, ending := j.ending ++ [(q, s.topBeat p)] }) else s
      | [] => s
    else s

/-- The image ends when every core has halted and the last beat has committed (R216); its units apply a pending commit (R480). -/
def State.endImage (s : State) (p : Nat) : State :=
  if s.allHalted p && decide (s.topBeat p < (s.part p).job.nextCommit) && (s.part p).job.running then
    ((s.endRequest p).updJob p (fun j => { j with running := false, halted := true })).releaseUnits
  else s

/-- SELECT_POINT: the core completes every earlier instruction and waits on the selection signal word (R118). -/
def execSelectPoint (c : Nat) (s : State) : R :=
  issue ⟨4, 6, 0⟩ c s (fun x =>
    if x.f 127 8 != 0 then .illegal
    else if !s.allDone c then .wait s
    else
      let s1 := s.updSeq c (fun q => { q with selectWait := true, run := 3, stall := false, waitFrom := none })
      .jump (if s1.parked x.p then s1.endRequest x.p else s1))

/-- HALT ends the stream, and the image where its last beat has already committed (R216); the open request ends where it leaves every core
parked or halted (R422). -/
def execHalt (c : Nat) (s : State) : R :=
  issue ⟨6, 4, 0⟩ c s (fun x => if x.f 127 8 != 0 || !(s.core c).seq.loops.isEmpty then .illegal
    else if !(s.core c).quiet then .wait s
    else
      let s1 := s.updSeq c (fun q => { q with run := 4, stall := false, waitFrom := none })
      .jump ((if s1.parked x.p || s1.allHalted x.p then s1.endRequest x.p else s1).endImage x.p))

/-! ## Buckets and patches (R115 to R117) -/

/-- Whether a bucket covers the values of every declared variable. -/
def bucketCovers (im : Image) (vars : List Nat) (r : List Byte) : Bool :=
  (tpRecords im.bytes 0x01).all (fun d => let v := fbits d 0 2 0; decide (vars.getD v 0 ≤ fld r (8 + 4 * v) 4))

/-- The first bucket that qualifies: its index and record. -/
def selectBucket (im : Image) (vars : List Nat) : Option (Nat × List Byte) :=
  ((tpRecords im.bytes 0x03).zipIdx.find? (fun r => bucketCovers im vars r.1)).map (fun r => (r.2, r.1))

/-- clamp(V × MUL + BIAS, 0, LIMIT). -/
def patchVal (vars : List Nat) (r : List Byte) : Nat :=
  let v : Int := (vars.getD (fbits r 4 22 20) 0 * fbits r 8 15 0 : Nat) + toSigned 32 (fld r 12 4)
  (max 0 (min v (fbits r 8 31 16 : Int))).toNat

/-- High and low bit of the field a TARGET names in an instruction (Tables 3.3, 6.1, 11.3). -/
def patchField : Nat → Nat × Nat | 2 => (46, 40) | 3 => (52, 47) | 4 => (68, 53) | 5 => (19, 8) | _ => (31, 16)

/-- Replaces bits [hi:lo] of a word. -/
def putField (w hi lo v : Nat) : Nat := w - bits w hi lo * 2 ^ lo + v % 2 ^ (hi + 1 - lo) * 2 ^ lo

/-- Applies a patch record. -/
def State.applyPatch (s : State) (p : Nat) (entry : Nat) (vars : List Nat) (r : List Byte) : State :=
  let k := fbits r 0 15 0
  let v := patchVal vars r
  let i := fbits r 4 19 0
  if fbits r 0 19 16 ≤ 1 then
    match coreOf (s.part p).geo k with
    | some c => s.updCore c (fun q => q.putField (i % 256) 4 (16 * fbits r 0 19 16) 16 v)
    | none => s
  else
    match (s.part p).image with
    | none => s
    | some im =>
      if (im.stream k).2 ≤ entry / 16 + i then s else
      let f := patchField (fbits r 0 19 16)
      let x := (im.stream k).1 + 16 * (entry / 16 + i)
      s.writeP p x (leBytes 16 (putField (s.leX (s.part p).geo x 16) f.1 f.2 v))

/-- The patches of the bucket in force, applied to descriptors and streams (R117). -/
def State.applyPatches (s : State) (p : Nat) (im : Image) (r : List Byte) (vars : List Nat) : State :=
  (bucketPatches im.bytes r).foldl (fun s e => s.applyPatch p (fld r 4 4) vars e) s

/-! ## Weight switches (R345, R347 to R349) -/

def WeightState.stOf (w : WeightState) (slot : Nat) : Nat := if slot = 0 then w.st0 else w.st1
def WeightState.setSt (w : WeightState) (slot v : Nat) : WeightState := if slot = 0 then { w with st0 := v } else { w with st1 := v }
/-- The ACTIVE slot. -/
def WeightState.active (w : WeightState) : Option Nat := if w.st0 = 3 then some 0 else if w.st1 = 3 then some 1 else none
/-- First byte of a weight slot: slot 0 as its first load fixed it, slot 1 at region 8. -/
def WeightState.base (w : WeightState) (im : Image) (slot : Nat) : Nat := if slot = 0 then w.base0.getD 0 else im.region 8

/-- Byte offset of an address field in a descriptor (Table 15.5): TABLE_ADDR, HBM_ADDR at 0; FIRN_BASE at 16. -/
def relocOff (field : Nat) : Nat := if field = 2 then 16 else 0

/-- Relocates the listed address fields and makes the target slot ACTIVE (R349). -/
def State.weightSwitch (s : State) (p : Nat) (im : Image) : State :=
  let w := (s.part p).ws
  let old := w.active.getD 0
  let delta : Int := (w.base im w.switchTo : Int) - w.base im old
  let s1 := w.relocs.foldl (fun s e =>
    match coreOf (s.part p).geo (fbits e 0 15 0) with
    | some c => s.updCore c (fun k =>
        let at_ := 32 * fbits e 0 23 16 + relocOff (fbits e 0 25 24)
        { k with desc := k.desc.putLe at_ 8 (ofSigned 64 ((k.desc.le at_ 8 : Int) + delta)) })
    | none => s) s
  s1.updPart p (fun x => { x with ws := { ((x.ws.setSt x.ws.switchTo 3).setSt old 0) with switchPending := false, selectWait := false } })

/-! ## BUCKET_SELECTION (R118) -/

/-- Whether a switch at its selection point cannot proceed: the target slot is not READY (R349). -/
def WeightState.holds (w : WeightState) (next : Nat) : Bool :=
  w.switchPending && decide (w.atRequest ≤ next) && w.stOf w.switchTo != 2

/-- Cores continue at ENTRY of the selected bucket (R118, step 6). -/
def State.continueAt (s : State) (p entry : Nat) : State :=
  (s.imageCores p).foldl (fun s c => s.updSeq c (fun q =>
    if q.selectWait then { q with selectWait := false, selBeat := some q.curBeat, pc := entry / 16, run := 1, loops := [], variants := [] }
    else q)) s

/-- Variable values of a run request. -/
def runVars (payload : List Byte) : List Nat := (List.range 8).map (fun i => fld payload (4 * i) 4)

/-- Service firmware takes a run request: bucket, patches, any weight switch, variables, signal word (R116 to R119, R349). -/
def State.takeRun (s : State) (p : Nat) (im : Image) (q : Request) (rest : List Request) : State :=
  let vars := runVars q.payload
  let n := (s.part p).job.nextRequest
  let s1 := ((s.updJob p (fun j => { j with requests := rest, nextRequest := n + 1 })).updRcv p (fun r =>
    { r with points := r.points.map (fun t => { t with taken := t.taken ++ [q] }) })).updPart p (fun x =>
    { x with ws := { x.ws with selectWait := false } })
  match selectBucket im vars with
  | none => s1.completeIf q.fn q.slot q.post Config.stNoBucket 0 []
  | some (b, r) =>
    let s2 := s1.applyPatches p im r vars
    let s3 := if (s2.part p).ws.switchPending && decide ((s2.part p).ws.atRequest ≤ n) then s2.weightSwitch p im else s2
    let s4 := s3.updJob p (fun j => { j with vars := vars, bucket := b, selected := true, selSignal := j.selSignal + 1, opened := some q })
    s4.continueAt p (fld r 4 4)

/-- BUCKET_SELECTION: at a parked partition, the oldest entry of the request queue is taken: a sequence-table command takes effect,
a run request selects its bucket. -/
def execBucketSelection (p : Nat) (s : State) : R :=
  if 16 ≤ p then .fault .noSuchUnit else
  let j := (s.part p).job
  match (s.part p).image, j.requests with
  | some im, q :: rest =>
    if !s.parked p || j.frozen || j.stopped || s.fw.svcRestart || s.fw.svcDown || s.memHeld p then .next s
    else if q.cmd != 0x0202 then
      let s1 := s.updRcv p (fun r => { r with points := r.points.map (fun t => { t with taken := t.taken ++ [q] }) })
      let r := s1.seqCommand p im q.cmd q.payload
      let t := if r.1 = Config.stOk then r.2.jCmd q.fn q.cmd Config.stOk (some p) [] q.payload else r.2
      .next ((t.updJob p (fun j => { j with requests := rest })).completeIf q.fn q.slot q.post r.1 0 [])
    else if (s.part p).ws.active.isNone || (s.part p).ws.holds j.nextRequest then
      .next (s.updPart p (fun x => { x with ws := { x.ws with selectWait := true } }))
    else .next (s.takeRun p im q rest)
  | _, _ => .next s

/-! ## BEAT_COMMIT (R215, R216) -/

/-- The units other than cores that the plan names. -/
def planUnits (im : Image) : List UnitId :=
  ((tpRecords im.bytes 0x0A).map (fun r => (⟨fbits r 16 19 16, fbits r 16 15 0⟩ : UnitId))).filter (fun u => u.kind != 0)

/-- Whether a core has completed beat `b`: it has left it, or it is parked in it or has halted, and every message expected of it up to that
beat has arrived (R28, R215; log entry 129). -/
def beatDone (im : Image) (k : Nat) (q : Seq) (b : Nat) : Bool :=
  decide (b < q.curBeat)
    || ((seqHalted q || (q.selectWait && q.curBeat == b)) && beatsFull im ⟨0, k⟩ q.recv q.curBeat b)

/-- Whether a core still holds a tile or witness of a beat at or below `b`. -/
def Core.owes (k : Core) (b : Nat) : Bool :=
  k.mu.witq.any (fun w => decide (w.beat ≤ b))
    || [k.mu.t0, k.mu.t1].any (fun t => t.state == 2 && (match t.finish with | some f => decide (f.beat ≤ b) | none => false))

/-- Whether beat `b` of a partition may commit. -/
def State.mayCommit (s : State) (p : Nat) (im : Image) (b : Nat) : Bool :=
  let cs := s.imageCores p
  !cs.isEmpty && cs.all (fun c => beatDone im (contractOf (s.part p).geo c) (s.core c).seq b && !(s.core c).owes b)
    && (planUnits im).all (fun u => decide (b < (unitAdvance im u (b + 1) (b + 2) ((s.part p).job.unit u)).cur))
    && (s.part p).job.witFail.all (fun w => decide (b < w))

/-- Slot lengths take the appends of a committed beat (R183). -/
def State.commitAppends (s : State) (p : Nat) (im : Image) (b : Nat) : State :=
  let due := (s.part p).job.appends.filter (fun a => decide (a.2.2 ≤ b))
  due.foldl (fun s a =>
    let e := s.seqEnt p im a.1
    if Ent.length e < a.2.1 then s.storeX p (im.region 6 + 32 * a.1 + 4) (leBytes 4 a.2.1) else s)
    (s.updJob p (fun j => { j with
      appends := j.appends.filter (fun a => decide (b < a.2.2))
      landed := j.landed.filter (fun l => match l.beat with | some n => decide (b < n) | none => true) }))

/-- BEAT_COMMIT: the next beat of the partition commits once every unit has completed it and its witnesses have passed. -/
def execBeatCommit (p : Nat) (s : State) : R :=
  if 16 ≤ p then .fault .noSuchUnit else
  match (s.part p).image with
  | none => .next s
  | some im =>
    let j := (s.part p).job
    let b := j.nextCommit
    if !j.started || j.stopped || j.frozen || s.memHeld p || decide (s.topBeat p < b) || !s.mayCommit p im b then .next s
    else .next ((((s.updJob p (fun j => { j with nextCommit := b + 1 })).commitAppends p im b).answer).endImage p)

/-! ## RUN_OUTPUT_COPY (R422) -/

/-- References of a run request: host address, offset, output, bytes. -/
def runRefs (b : List Byte) : List (Nat × Nat × Bool × Nat) :=
  (List.range (fbits b 32 7 0)).map (fun r =>
    (fld b (40 + 24 * r) 8, fld b (48 + 24 * r) 8 % 2 ^ 63, bit (fld b (48 + 24 * r) 8) 63, fld b (56 + 24 * r) 8))

/-- Byte of the interleaved space as a host copy sees it: one that a result of an uncommitted beat has taken shows what stood there before the
first of them (R319). -/
def State.visibleX (s : State) (p x : Nat) : Byte :=
  match (s.part p).job.landed.find? (fun l => decide (l.place ≤ x) && decide (x < l.place + l.old.length)) with
  | some l => l.old.getD (x - l.place) 0
  | none => (s.readX (s.part p).geo x 1).headD 0

/-- RUN_OUTPUT_COPY: the outputs of a request whose ending beat has committed go to host memory and its command completes. -/
def execRunOutputCopy (p : Nat) (ok : Bool) (s : State) : R :=
  if 16 ≤ p then .fault .noSuchUnit else
  let j := (s.part p).job
  match j.ending.find? (fun e => decide (e.2 < j.nextCommit)) with
  | none => .next s
  | some e =>
    let s1 := s.updJob p (fun j => { j with ending := j.ending.filter (fun o => o != e) })
    let outs := (runRefs e.1.payload).filter (fun r => r.2.2.1)
    if s.memHeld p || s.dmaShut p then .next s
    else if outs.any (fun r => decide (geoBytes (s.part p).geo < r.2.1 + r.2.2.2)) then
      .next (s1.completeIf e.1.fn e.1.slot e.1.post Config.stAccessRights 0 [])
    else if !ok then .next (s1.completeIf e.1.fn e.1.slot e.1.post Config.stDmaError 0 [])
    else .next ((outs.foldl (fun s r =>
        let xs := (List.range r.2.2.2).map (r.2.1 + ·)
        (s.loadAt p 1 xs).toHost e.1.fn r.1 (xs.map (s.visibleX p))) s1).completeIf
      e.1.fn e.1.slot e.1.post Config.stOk 0 [])

/-! ## The widening vote (R97 to R103, R247) -/

/-- Strict comparison of two FP32 codes, a > b; a NaN limit admits nothing. -/
def fp32Gt (a b : Nat) : Bool := let x := ofFp32 a; let y := ofFp32 b; !x.isNan && !y.isNan && vLt y x && !(x.isZero && y.isZero)

/-- Whether this module's layer requests widening (R99). The limits are those set at admission, which nothing changes (R98). -/
def State.requests (s : State) (p : Nat) (im : Image) (l : Nat) : Bool :=
  let e := (tpRecords im.bytes 0x09).getD l []
  let m := s.monOf p im l
  s.layerState p im l == 0 && m.ef
    && (decide (fld e 16 4 < m.sat) || fp32Gt m.carry (fld e 12 4) || fp32Gt m.dev (fld e 8 4)
        || (ofFp32 m.carry).isNan || (ofFp32 m.dev).isNan)

/-- The result of `allocate` as it goes: remaining reserve in bytes and whether a request has been deferred. -/
structure Alloc where
  ts : Nat
  hbm : Nat
  stopped : Bool
  s : State

/-- One layer of `allocate`: STATE, WIDEN_PASS, REQ and the grant (R102, R247). -/
def allocLayer (p : Nat) (im : Image) (pass : Nat) (req : Bool) (l : Nat) (a : Alloc) : Alloc :=
  let g := (a.s.part p).geo
  let st := bits (a.s.leX g (im.layerAt l) 1) 1 0
  let put := fun (t : State) (st : Nat) => t.storeX p (im.layerAt l) (leBytes 4 (st + 4 * b2n req))
  let passed := fun (t : State) => t.storeX p (im.layerAt l + 4) (leBytes 4 pass)
  let grant := fun (t : State) => t.storeX p (im.grantAt l)
    (leBytes 4 (256 * im.widenTs - a.ts) ++ leBytes 4 (im.widenHbm - a.hbm / 65536))
  if !req || st != 0 then { a with s := put a.s st }
  else
    let nt := im.needTs l * 256
    let nh := im.needHbm l * 65536
    if nt = 0 && nh = 0 then { a with s := grant (passed (put a.s 1)) }
    else if !a.stopped && nt ≤ a.ts && nh ≤ a.hbm then { a with ts := a.ts - nt, hbm := a.hbm - nh, s := grant (passed (put a.s 1)) }
    else { a with stopped := true, s := passed (put a.s 2) }

/-- Whether a core still has a witness to check, queued or in a tile that has not finished (R100, step 1). -/
def Core.witPending (k : Core) : Bool := !k.mu.witq.isEmpty || [k.mu.t0, k.mu.t1].any (fun t => t.wit)
/-- Clears the monitor records (R259: service firmware stores the identity after a vote). -/
def State.clearMonitors (s : State) (p : Nat) (im : Image) : State := s.writeP p (im.monAt 0) (List.replicate (16 * tpLayers im.bytes) 0)
/-- This module's request vector; that of a dropped module counts as zeros (R101). -/
def State.ownRequests (s : State) (p : Nat) (im : Image) : List Bool :=
  let dropped := match (s.part p).rcv.absent with | some k => s.rank p im == some k | none => false
  (List.range (tpLayers im.bytes)).map (fun l => !dropped && s.requests p im l)

/-- WIDEN_ALLOCATE: once the cores have drained their witnesses, the vote's result (the other modules' requests and this module's own) is
applied and the monitors are cleared (R100 to R102). -/
def execWidenAllocate (p pass : Nat) (req : List Byte) (s : State) : R :=
  if 16 ≤ p then .fault .noSuchUnit else
  match (s.part p).image with
  | none => .next s
  | some im =>
    if s.memHeld p || (s.imageCores p).any (fun c => (s.core c).witPending) then .next s else
    let own := s.ownRequests p im
    let want := fun l => req.getD l 0 == 1 || own.getD l false
    let a := (List.range (tpLayers im.bytes)).foldl (fun a l => allocLayer p im (pass % 2 ^ 32) (want l) l a)
      ⟨(s.part p).job.leftTs, (s.part p).job.leftHbm, false, s⟩
    .next ((a.s.updJob p (fun j => { j with leftTs := a.ts, leftHbm := a.hbm, votes := j.votes + 1, widenDeferred := j.widenDeferred || a.stopped })).clearMonitors
      p im).answer

/-- The reserve left after the grants that the layer precision table shows (R102, R460). -/
def State.leftNow (s : State) (p : Nat) (im : Image) : Nat × Nat :=
  (List.range (tpLayers im.bytes)).foldl (fun (a : Nat × Nat) l =>
    if s.layerState p im l = 1 then (a.1 - im.needTs l * 256, a.2 - im.needHbm l * 65536) else a) (256 * im.widenTs, 65536 * im.widenHbm)

end Sys2Proof.Machine
end

