-- ==== Sys2Proof/Machine/Mailbox.lean ====
section
/-!
DEFINITION. Sys2Proof/Machine/Mailbox.lean: mailbox slots, the command table, header checks, the order of commands, and the rows of
posting, scanning and interrupts (R410 to R418, R420, R421, R456).
-/

namespace Sys2Proof.Machine

/-! ## The command table (Table 18.5) -/

/-- Who may post a command: anyone, a physical function only, or the owner of the named partition and the physical functions. -/
inductive Issuer where
  | any
  | pf
  | owner
deriving DecidableEq, Repr

/-- Class, group, issuer, whether PART names a partition, and the payload bytes that must be there. -/
structure CmdInfo where
  urgent : Bool := false
  group : Option Nat := none
  issuer : Issuer := .owner
  scope : Bool := true
  bytes : Nat := 0
deriving DecidableEq, Repr

/-- The commands of Table 18.5; a layout the manual does not give asks for no length (log entry 14). -/
def cmdInfo (code : Nat) : Option CmdInfo :=
  match code with
  | 0x0000 => some { issuer := .any, scope := false }
  | 0x0001 => some { issuer := .any, scope := false, bytes := 1 }
  | 0x0010 => some { group := some 0, issuer := .pf, scope := false }
  | 0x0011 => some { group := some 0, issuer := .pf, scope := false, bytes := 8 }
  | 0x0012 => some { group := some 0, issuer := .pf, scope := false }
  | 0x0013 => some { group := some 0, issuer := .pf, scope := false, bytes := 4 }
  | 0x0014 => some { group := some 0, issuer := .pf, scope := false }
  | 0x0100 => some { group := some 0, issuer := .pf, scope := false, bytes := 64 }
  | 0x0101 => some { group := some 0, issuer := .pf, bytes := 64 }
  | 0x0102 => some { group := some 0, issuer := .pf }
  | 0x0200 => some { group := some 1, bytes := 128 }
  | 0x0201 => some { group := some 1 }
  | 0x0202 => some { group := some 1, bytes := 40 }
  | 0x0203 => some { group := some 1 }
  | 0x0204 => some { group := some 1 }
  | 0x0205 => some { group := some 1, bytes := 28 }
  | 0x0206 => some { group := some 1 }
  | 0x0207 => some { group := some 1 }
  | 0x0208 => some { group := some 1 }
  | 0x0300 => some { group := some 2, bytes := 64 }
  | 0x0301 => some { group := some 2 }
  | 0x0400 => some { group := some 3 }
  | 0x0401 => some { group := some 3 }
  | 0x0402 => some { group := some 3 }
  | 0x0403 => some { group := some 3 }
  | 0x0404 => some { group := some 3 }
  | 0x0405 => some { group := some 3 }
  | 0x0500 => some { group := some 4, bytes := 128 }
  | 0x0501 => some { group := some 4, bytes := 128 }
  | 0x0502 => some { group := some 4 }
  | 0x0503 => some { group := some 4 }
  | 0x0600 => some { group := some 5, issuer := .any, scope := false, bytes := 24 }
  | 0x0601 => some { group := some 5, issuer := .any, scope := false, bytes := 36 }
  | 0x0680 => some { group := some 6, issuer := .pf, scope := false, bytes := 20 }
  | 0x0681 => some { group := some 6, issuer := .pf, scope := false }
  | 0x0F00 => some { urgent := true, group := some 7 }
  | 0x0F01 => some { urgent := true, group := some 7, bytes := 8 }
  | 0x0F02 => some { urgent := true, group := some 7 }
  | 0x0F03 => some { group := some 7, issuer := .pf, bytes := 4 }
  | _ => none

/-- A reload that names the cyclic table is not of a partition; its header is checked as a physical function's (R357, Table 18.5). -/
def cyclicReload (q : Slot) : Bool := q.cmd == 0x0206 && fld q.payload 0 1 == 3

/-! ## Header checks (R416, R417, R421) -/

/-- The partition a function owns. -/
def State.ownedBy (s : State) (f : Fn) : Option Nat :=
  (List.range 16).find? (fun p => (s.part p).geo.defined && ownerFn (s.part p).geo == f)

/-- A function's effective permission. -/
def State.permits (s : State) (f : Fn) (g : Nat) : Bool := bit ((s.fn f).permit &&& (if isPf f then 0xFF else 0xBE)) g

/-- Payload bytes a command needs: a run request also holds its references (Table 18.6). -/
def cmdBytes (i : CmdInfo) (q : Slot) : Nat := if q.cmd = 0x0202 then i.bytes + 24 * fbits q.payload 32 7 0 else i.bytes

/-- Check 1: an unknown command or the wrong class, or a command slot 31 does not accept (R416). -/
def badCommand (n : Nat) (q : Slot) : Bool :=
  match cmdInfo q.cmd with
  | none => true
  | some i => i.urgent != q.urgent || (n == 31 && !i.urgent && q.cmd != 0x0F03)

/-- The first status that the header of a command meets, if any. -/
def State.headerCheck (s : State) (f : Fn) (n : Nat) (q : Slot) : Option Nat :=
  if badCommand n q then some Config.stBadCommand else
  match cmdInfo q.cmd with
  | none => some Config.stBadCommand
  | some i =>
    let scope := i.scope && !cyclicReload q
    if q.w0 / 4 != 0 || q.w3 / 128 != 0 || (!scope && q.part != 0) then some Config.stBadField
    else if 4032 < q.len || q.len < cmdBytes i q then some Config.stBadLength
    else if (match i.group with | some g => !s.permits f g | none => false) || (!isPf f && (i.issuer == .pf || cyclicReload q))
        || (scope && !isPf f && s.ownedBy f != some q.part) then some Config.stNotPermitted
    else if scope && !(s.part q.part).geo.defined then some Config.stNoPartition
    else none

/-- Commands refused by the power state (R476): groups 1 to 4 in Frost but JOB_STATUS, RETIRE and PART_RESET; ADMIT, RUN and THAW in
Hoar. -/
def State.powerRefuses (s : State) (q : Slot) : Bool :=
  let g := ((cmdInfo q.cmd).bind (·.group)).getD 9
  (s.power.state == 1 && [0x0200, 0x0202, 0x0207].contains q.cmd)
    || (s.power.state == 2 && decide (1 ≤ g) && decide (g ≤ 4) && !(([0x0203, 0x0204, 0x0208] : List Nat).contains q.cmd))

/-- A partition that STOP left without a recovery point takes only RETIRE and PART_DESTROY, and the commands that change nothing of it
(R451; log entry 22). -/
def State.stopRefuses (s : State) (q : Slot) : Bool :=
  let x := s.part q.part
  (match cmdInfo q.cmd with | some i => i.scope && !cyclicReload q | none => false)
    && x.image.isSome && x.job.stopped && !x.job.frozen && x.rcv.points.isEmpty && x.rcv.state == 1
    && !(([0x0102, 0x0203, 0x0204, 0x0405, 0x0F02, 0x0F03] : List Nat).contains q.cmd)

/-- Commands that root firmware serves while no service firmware runs from a valid slot (R433). -/
def rootServes (q : Slot) : Bool := q.urgent || [0x0000, 0x0001, 0x0600, 0x0601, 0x0680].contains q.cmd

/-- Whether the service cores stay held: no slot was valid at boot, or a restart failed (R433, R434). -/
def State.noService (s : State) : Bool := s.fw.svcDown

/-! ## Order (R414) -/

/-- Order in which commands are taken: POST_DTB, then port, PF before VFs, slot. -/
def takeBefore (a b : Fn × Nat × Slot) : Bool :=
  decide (a.2.2.postDtb < b.2.2.postDtb) || (a.2.2.postDtb == b.2.2.postDtb
    && (decide (fnKey a.1 < fnKey b.1) || (a.1 == b.1 && decide (a.2.1 < b.2.1))))

/-- Every posted slot. -/
def State.posted (s : State) : List (Fn × Nat × Slot) :=
  ((allFns.map (fun f => (s.fn f).slots.map (fun e => (f, e.1, e.2)))).flatten).filter (fun e => e.2.2.post && !e.2.2.done)

/-- What a command touches: a partition, or the device. -/
def touches (q : Slot) : Option Nat :=
  match cmdInfo q.cmd with | some i => if i.scope && !cyclicReload q then some q.part else none | none => none

/-- Whether no earlier command that was taken and touches the same thing still waits to take effect; admissions of all partitions take
effect in the order they were taken (R244). -/
def State.inOrder (s : State) (f : Fn) (n : Nat) (q : Slot) : Bool :=
  q.urgent || !(s.posted.any (fun e => e.2.2.ack && !e.2.2.begun && !e.2.2.urgent
    && (touches e.2.2 == touches q || (e.2.2.cmd == 0x0200 && q.cmd == 0x0200)) && takeBefore e (f, n, q)))

/-! ## Carrying out a command -/

/-- Whether firmware that serves the command in slot `n` runs (R415, R416, R433, R452): root firmware serves urgent commands and slot 31
during a restart of service firmware. -/
def State.served (s : State) (n : Nat) (q : Slot) : Bool :=
  s.hostUp && (q.urgent || (if s.noService then rootServes q else n == 31 || !s.fw.svcRestart))

/-- Whether a command reads or writes its partition's HBM as it takes effect: admission, a run's inputs, thaw, the sequence table, copies. -/
def usesMemory (cmd : Nat) : Bool := [0x0200, 0x0202, 0x0205, 0x0207, 0x0400, 0x0401, 0x0402, 0x0403, 0x0404, 0x0405].contains cmd

/-- Whether a command moves bytes between host memory and its partition's images by PCIe DMA (R359). -/
def usesDma (cmd : Nat) : Bool := cmd == 0x0202 || cmd == 0x0205
/-- Whether the command in a slot waits: one that uses HBM while a shelf of its partition serves no access (R271, R272), one that copies while
the window has no DMA weight for the partition (R359; log entry 135). A command that is refused uses nothing and does not wait. -/
def State.waits (s : State) (f : Fn) (n : Nat) (q : Slot) : Bool :=
  (s.headerCheck f n q).isNone && !s.powerRefuses q && !s.stopRefuses q
    && ((usesMemory q.cmd && s.memHeld q.part) || (usesDma q.cmd && s.dmaShut q.part))

/-- The command held in a slot, where it has been taken, is of the row asked for, and its turn has come. -/
def State.turn (s : State) (f : Fn) (n : Nat) (is : Slot → Bool) : Option Slot :=
  let q := s.slot f n
  if q.post && q.ack && !q.done && !q.begun && is q && s.served n q && s.inOrder f n q && !s.waits f n q then some q
  else none

/-- Carries out the command in a slot: header checks, the power state, then its own body (R413, R417, R476). A slot without such a
command is left alone. -/
def commandIf (is : Slot → Bool) (f : Fn) (n : Nat) (s : State) (body : Slot → State → State) : R :=
  if !fnOk f || 32 ≤ n then .fault .noSuchUnit else
  match s.turn f n is with
  | none => .next s
  | some q =>
    let s1 := s.setSlot f n { q with begun := true }
    match s.headerCheck f n q with
    | some st => .next (s1.complete f n st 0 [])
    | none => if s.powerRefuses q then .next (s1.complete f n Config.stPowerState 0 [])
      else if s.stopRefuses q then .next (s1.complete f n Config.stPartitionBusy 0 []) else .next (body q s1)

/-- A row of one command code. -/
def command (code : Nat) (f : Fn) (n : Nat) (s : State) (body : Slot → State → State) : R := commandIf (fun q => q.cmd == code) f n s body

/-! ## MAILBOX_POST and MAILBOX_SCAN (R412 to R416) -/

/-- Refuses an unknown command, or leaves it to its own row. -/
def State.take (s : State) (f : Fn) (n : Nat) : State :=
  let q := s.slot f n
  let s1 := s.setSlot f n { q with ack := true }
  if badCommand n q then s1.complete f n Config.stBadCommand 0 []
  else if s.noService && !rootServes q then s1.complete f n Config.stFwRestart 1 []
  else s1

/-- MAILBOX_POST: the host writes payload, header and the word at 0x000. With POST = 1 the slot is handed to the device and the host
lease is renewed; urgent commands and those of slot 31 go to root firmware at once. A write while the device holds the slot is
discarded and counted. -/
def execMailboxPost (f : Fn) (n w0 w1 w2 w3 : Nat) (payload : List Byte) (s : State) : R :=
  if !fnOk f || 32 ≤ n then .fault .noSuchUnit else
  if !s.hostUp then .next s else
  let x := s.fn f
  let q := s.slot f n
  if q.post && !q.done then .next (s.setFn f { x with discards := satAdd 0xFFFFFFFF x.discards 1 }) else
  let head : Slot := { q with
    post := bit w0 0
    urgent := bit w0 1
    w0 := w0 % 2 ^ 32
    cmd := bits w1 15 0
    len := bits w1 27 16
    part := bits w1 31 28
    tag := w2 % 2 ^ 32
    w3 := w3 % 2 ^ 32
    payload := payload.take 4032 ++ q.payload.drop (min payload.length 4032) }
  if !bit w0 0 then .next (s.setSlot f n head) else
  let s1 := (s.setSlot f n { head with postDtb := s.dtb, status := 0, ack := false, begun := false, done := false, detail := 0,
                                       resultLen := 0 })
  let s2 := s1.setFn f { s1.fn f with leaseDtb := s.dtb, leaseLive := true }
  .next (if bit w0 1 || n = 31 then s2.take f n else s2)

/-- The earliest command not yet taken. -/
def State.earliest (s : State) : Option (Fn × Nat × Slot) :=
  (s.posted.filter (fun e => !e.2.2.ack)).foldl (fun m e => match m with
    | none => some e
    | some b => if takeBefore e b then some e else some b) none

/-- Takes commands in order, at most `n` of them. -/
def State.takeAll (s : State) : Nat → State
  | 0 => s
  | n + 1 => match s.earliest with
    | none => s
    | some e => (s.take e.1 e.2.1).takeAll n

/-- MAILBOX_SCAN: service firmware takes every posted command in order and acknowledges it; after a restart its first scan shows that it
runs again (R452; log entry 25). -/
def execMailboxScan (s : State) : R :=
  if !s.hostUp then .next s else
  let s1 := s.takeAll s.posted.length
  .next { s1 with fw := { s1.fw with svcRestart := false } }

/-! ## MSIX_UNMASK (R410) -/

/-- MSIX_UNMASK: a pending vector fires when it is unmasked. -/
def execMsixUnmask (f : Fn) (v : Nat) (s : State) : R :=
  if !fnOk f || 64 ≤ v then .fault .noSuchUnit else
  let x := s.fn f
  let fire := bit x.msixPend v
  let s1 := s.setFn f { x with msixMask := setBit x.msixMask v false, msixPend := setBit x.msixPend v false }
  .next (if fire then s1.irq f v else s1)

/-! ## NOP and PERMIT_SET (R420, R421) -/

/-- NOP_COMMAND. -/
def execNopCommand (f : Fn) (n : Nat) (s : State) : R := command 0x0000 f n s (fun _ s => s.complete f n Config.stOk 0 [])

/-- PERMIT_SET: replaces the issuing function's PERMIT, journals it and answers the old mask. -/
def execPermitSet (f : Fn) (n : Nat) (s : State) : R :=
  command 0x0001 f n s (fun q s =>
    let x := s.fn f
    let new := fld q.payload 0 1
    let s0 := if new = x.permit then s else s.jCmd f 0x0001 0 none (leBytes 1 x.permit) (leBytes 1 new)
    let s1 := s0.setFn f { s0.fn f with permit := new }
    s1.complete f n Config.stOk 0 (leBytes 1 x.permit))

/-! ## HOST_LEASE_EXPIRY (R456) -/

/-- HOST_LEASE_EXPIRY: 100 ms after the last POST, or after the port lost its link, the function's host lease ends. -/
def execHostLeaseExpiry (f : Fn) (s : State) : R :=
  if !fnOk f then .fault .noSuchUnit else
  let x := s.fn f
  if x.leaseLive && x.leaseDtb + 100000000 ≤ s.dtb then .next (s.setFn f { x with leaseLive := false }) else .next s

end Sys2Proof.Machine
end

