-- ==== Sys2Proof/Machine/Weights.lean ====
section
/-!
DEFINITION. Sys2Proof/Machine/Weights.lean: weight slots, loads from a host and along a chain, and the switch command (R336 to R352).
-/

namespace Sys2Proof.Machine

/-! ## The load descriptor (Table 15.1) -/

namespace Ld
def id (d : List Byte) : Nat := fld d 0 4
def slot (d : List Byte) : Nat := fbits d 4 0 0
def dual (d : List Byte) : Bool := fbits d 4 1 1 = 1
def link (d : List Byte) : Bool := fbits d 4 2 2 = 1
def inPort (d : List Byte) : Nat := fbits d 4 6 3
def outPort (d : List Byte) : Nat := fbits d 4 10 7
def forward (d : List Byte) : Bool := fbits d 4 11 11 = 1
def log2 (d : List Byte) : Nat := fbits d 4 16 12
def vcOrd (d : List Byte) : Nat := fbits d 4 19 17
def bytes (d : List Byte) : Nat := fld d 24 8
def keepFirst (d : List Byte) : Nat := fld d 32 4
def keepCount (d : List Byte) : Nat := fld d 36 4
def fwdFirst (d : List Byte) : Nat := fld d 40 4
def fwdCount (d : List Byte) : Nat := fld d 44 4
def ws0 (d : List Byte) : Nat := fld d 48 5
/-- NCH. -/
def chunks (d : List Byte) : Nat := ceilDiv (bytes d) (2 ^ log2 d)
/-- Bytes of a chunk; the last may be short. -/
def chunkLen (d : List Byte) (c : Nat) : Nat := min (2 ^ log2 d) (bytes d - c * 2 ^ log2 d)
def keeps (d : List Byte) (c : Nat) : Bool := decide (keepFirst d ≤ c) && decide (c < keepFirst d + keepCount d)
def fwds (d : List Byte) (c : Nat) : Bool := forward d && decide (fwdFirst d ≤ c) && decide (c < fwdFirst d + fwdCount d)
/-- The load holds a collective channel (R341). -/
def chain (d : List Byte) : Bool := link d || forward d
/-- Reserved bits and limits that Table 15.6 refuses with ST_BAD_FIELD. -/
def bad (d : List Byte) (vcs : Nat) : Bool :=
  fbits d 4 31 20 != 0 || !isZero d 53 3 || !isZero d 56 8 || decide (log2 d < 20) || decide (28 < log2 d)
    || (!forward d && fwdCount d != 0) || (keepCount d != 0 && decide (chunks d < keepFirst d + keepCount d))
    || (fwdCount d != 0 && decide (chunks d < fwdFirst d + fwdCount d)) || decide (vcs ≤ vcOrd d)
/-- A base that no slot 0 may have, in the load that gives it (Table 15.1). -/
def badBase (d : List Byte) (g : Nat) : Bool := ws0 d % 65536 != 0 || decide (g ≤ ws0 d)
end Ld

def State.updWs (s : State) (p : Nat) (f : WeightState → WeightState) : State := s.updPart p (fun x => { x with ws := f x.ws })
def State.updLoad (s : State) (p : Nat) (f : Load → Load) : State := s.updWs p (fun w => { w with load := w.load.map f })

/-- A load message: header of Table 15.2 and payload, BEAT 0. -/
def State.sendLoad (s : State) (_p port : Nat) (im : Image) (d : List Byte) (kind chunk crc : Nat) (b : List Byte) : State :=
  s.sendMsg port (im.chan (Ld.vcOrd d)) 0
    (leBytes 4 (Ld.id d) ++ leBytes 4 kind ++ leBytes 4 chunk ++ leBytes 4 crc ++ leBytes 4 0 ++ leBytes 4 b.length ++ b)

/-- Ends a load: slot state, registers, channel, completion of the command and its companion (Table 15.3). -/
def State.endLoad (s : State) (p : Nat) (status st : Nat) (abortDown : Bool) : State :=
  match (s.part p).image, (s.part p).ws.load with
  | some im, some l =>
    let s1 := if abortDown && Ld.forward l.desc then s.sendLoad p (Ld.outPort l.desc) im l.desc 1 0 0 [] else s
    let s2 := s1.updWs p (fun w => { (w.setSt (Ld.slot l.desc) st) with load := none, lastStatus := status })
    let s3 := if Ld.chain l.desc then s2.updChan (im.chan (Ld.vcOrd l.desc)) (fun c => { c with loadHold := none }) else s2
    let s4 := s3.completeIf l.cmd.1 l.cmd.2.1 l.cmd.2.2 status 0 []
    match l.comp with
    | some q => s4.completeIf q.1 q.2.1 q.2.2 status 0 []
    | none => s4
  | _, _ => s

/-- Chunks that pass are forwarded in ascending number once their predecessors have been (R342). -/
def State.forwardReady (s : State) (p : Nat) (im : Image) : Nat → State
  | 0 => s
  | n + 1 =>
    match (s.part p).ws.load with
    | none => s
    | some l =>
      match l.ready.find? (fun c => c.1 == Ld.fwdFirst l.desc + l.fwd) with
      | none => s
      | some (c, crc, b) =>
        ((s.sendLoad p (Ld.outPort l.desc) im l.desc 0 c crc b).updLoad p (fun l =>
          { l with ready := l.ready.filter (fun e => e.1 != c), fwd := l.fwd + 1 })).forwardReady p im n

/-- Whether a port has sent everything on a channel and every message is acknowledged (R289). -/
def State.drained (s : State) (port ch : Nat) : Bool := let c := (s.port port).vc ch; c.out.isEmpty && c.unacked.isEmpty

/-- Sends the end message after the last forwarded chunk, and ends the load with ST_OK when nothing is left to do (R342, R344, R345). -/
def State.loadSettle (s : State) (p : Nat) : State :=
  match (s.part p).image, (s.part p).ws.load with
  | some im, some l =>
    let fwdDone := l.fwd == Ld.fwdCount l.desc
    let s1 := if Ld.forward l.desc && fwdDone && !l.endSent then
      (s.sendLoad p (Ld.outPort l.desc) im l.desc 2 0 0 []).updLoad p (fun l => { l with endSent := true }) else s
    let w := (s1.port (Ld.outPort l.desc)).vc (im.chan (Ld.vcOrd l.desc))
    let open_ := w.out.length + w.unacked.length
    let acked := !Ld.forward l.desc || Ld.bytes l.desc == 0 || s1.drained (Ld.outPort l.desc) (im.chan (Ld.vcOrd l.desc))
    let s2 := s1.updWs p (fun w => { w with chunksFwd := min l.fwd (l.fwd + 1 - open_) })
    if l.kept == Ld.keepCount l.desc && fwdDone && acked && (!Ld.link l.desc || l.endSeen || Ld.bytes l.desc == 0)
        && (!Ld.dual l.desc || l.comp.isSome) then
      s2.endLoad p Config.stOk (if (s2.part p).ws.active.isNone then 3 else 2) false
    else s2
  | _, _ => s

/-- A chunk has arrived whole: its CRC-32C is checked; it is kept and passed on, or the load ends (R342, R344). -/
def State.chunkIn (s : State) (p : Nat) (im : Image) (l : Load) (c crc : Nat) (b : List Byte) : State :=
  if !Ld.keeps l.desc c && !Ld.fwds l.desc c then s.updLoad p (fun l => { l with seen := l.seen ++ [c] })
  else if crc32c b != crc then
    (s.updWs p (fun w => { w with crcFails := satAdd 0xFF w.crcFails 1 })).endLoad p Config.stLoadCheck 0 true
  else
    let d := l.desc
    let s1 := s.updLoad p (fun l => { l with seen := l.seen ++ [c] })
    let s2 := if Ld.keeps d c then
      ((s1.writeX p ((s.part p).ws.base im (Ld.slot d) + (c - Ld.keepFirst d) * 2 ^ Ld.log2 d) b).answer.updLoad p
        (fun l => { l with kept := l.kept + 1 })).updWs p (fun w => { w with chunksKept := (w.chunksKept + 1) % 2 ^ 32 })
      else s1
    let s3 := if Ld.fwds d c then s2.updLoad p (fun l => { l with ready := l.ready ++ [(c, crc, b)] }) else s2
    (s3.forwardReady p im (Ld.fwdCount d)).loadSettle p

/-! ## WEIGHT_LOAD (R339, R340, R351) -/

/-- SLOT_BYTES of a partition, given a first load's BYTES (R336). -/
def slotBytesOf (w : WeightState) (im : Image) (d : List Byte) : Nat :=
  if Req.secondCopy im.req ≠ 0 then Req.secondCopy im.req * 65536 else if w.slotBytes ≠ 0 then w.slotBytes else Ld.bytes d

/-- The refusal of a load, if any (Table 15.6). -/
def State.loadRefusal (s : State) (p : Nat) (im : Image) (d : List Byte) : Option Nat :=
  let w := (s.part p).ws
  let base0 := w.base0.getD (Ld.ws0 d)
  if w.load.isSome || (Ld.chain d && (s.chan (im.chan (Ld.vcOrd d))).loadHold.isSome) then some Config.stLoadBusy
  else if w.stOf (Ld.slot d) == 3 || (w.switchPending && w.selectWait && w.switchTo == Ld.slot d && w.stOf (Ld.slot d) != 0)
      || (Ld.slot d == 1 && Req.secondCopy im.req == 0) then some Config.stWsetState
  else if Ld.bad d (Req.vcs im.req) || (Ld.slot d == 0 && w.base0.isNone && Ld.badBase d (geoBytes (s.part p).geo)) then some Config.stBadField
  else if slotBytesOf w im d < Ld.keepCount d * 2 ^ Ld.log2 d
      || (Ld.slot d == 0 && decide (im.region 2 < base0 + slotBytesOf w im d)) then some Config.stNoMemory
  else none

/-- Fields a companion command shares with the first: all but HOST_ADDR and CRC_ADDR (R340). -/
def ldShared (d : List Byte) : List Byte := sub d 0 8 ++ sub d 24 40

/-- A part of a chunk of the load in progress: the chunk is checked once all of it is here (R342). -/
def State.loadPiece (s : State) (p : Nat) (im : Image) (l : Load) (h : LoadHeader) (b : List Byte) : State :=
  if l.seen.contains h.chunk || decide (Ld.chunks l.desc ≤ h.chunk) then s else
  let ps := l.pieces ++ [(h.chunk, h.first, b)]
  let mine := ps.filter (fun q => q.1 == h.chunk)
  let got := mine.foldl (fun n q => n + q.2.2.length) 0
  if got < Ld.chunkLen l.desc h.chunk then s.updLoad p (fun l => { l with pieces := ps })
  else
    let whole := (List.range (Ld.chunkLen l.desc h.chunk)).map (fun i =>
      match mine.find? (fun q => decide (q.2.1 ≤ i) && decide (i < q.2.1 + q.2.2.length)) with
      | some q => q.2.2.getD (i - q.2.1) 0
      | none => 0)
    (s.updLoad p (fun l => { l with pieces := ps.filter (fun q => q.1 != h.chunk) })).chunkIn p im l h.chunk h.crc whole

/-- Whether a chain message is of the load that the partition's channel holds (R343). -/
def State.loadTakes (s : State) (p id : Nat) : Bool :=
  match (s.part p).ws.load with | some l => Ld.link l.desc && Ld.id l.desc == id | none => false

/-- A chain message at the module that owns its channel: data, an abort, which ends the load and is passed on, or the end, after which
nothing more comes (R342, R344). One that waits for its command is held, with the port and channel it came by (R343). -/
def State.loadMsg (s : State) (p : Nat) (via : Option (Nat × Nat)) (h : LoadHeader) (b : List Byte) : State :=
  if !s.loadTakes p h.loadId then
    s.updWs p (fun w => { w with
      held := w.held ++ [(h, b)]
      heldFrom := if w.held.isEmpty then s.dtb else w.heldFrom
      heldVia := if w.held.isEmpty then via else w.heldVia })
  else match (s.part p).image, (s.part p).ws.load with
    | some im, some l =>
      match h.kind with
      | 0 => s.loadPiece p im l h b
      | 1 => s.endLoad p Config.stLoadAborted 0 true
      | 2 => (s.updLoad p (fun l => { l with endSeen := true })).loadSettle p
      | _ => s
    | _, _ => s

/-- The messages held, when a load has its command: its own are taken, others stay held. -/
def State.takeHeld (s : State) (p : Nat) (w : WeightState) : State :=
  (w.held.foldl (fun s m => s.loadMsg p w.heldVia m.1 m.2) s).updWs p (fun v => { v with heldFrom := w.heldFrom })

/-- WEIGHT_LOAD: starts a load, or joins it as its companion. -/
def execWeightLoad (f : Fn) (n : Nat) (s : State) : R :=
  command 0x0300 f n s (fun q s =>
    let p := q.part
    let d := q.payload.take 64
    match (s.part p).image with
    | none => s.complete f n Config.stNoImage 0 []
    | some im =>
      match (s.part p).ws.load with
      | some l =>
        if Ld.dual l.desc && Ld.dual d && l.comp.isNone && l.cmd.1.port != f.port && ldShared d == ldShared l.desc then
          (s.updLoad p (fun l => { l with comp := some (f, n, q.postDtb) })).loadSettle p
        else s.complete f n Config.stLoadBusy 0 []
      | none =>
        match s.loadRefusal p im d with
        | some st => s.complete f n st 0 []
        | none =>
          let w0 := (s.part p).ws
          let s1 := s.updWs p (fun w => { (w.setSt (Ld.slot d) 1) with
            base0 := if Ld.slot d = 0 && w.base0.isNone then some (Ld.ws0 d) else w.base0
            slotBytes := slotBytesOf w im d
            loadId := Ld.id d
            chunksKept := 0
            chunksFwd := 0
            held := []
            load := some { desc := d, cmd := (f, n, q.postDtb), start := s.dtb } })
          let s2 := if Ld.chain d then s1.updChan (im.chan (Ld.vcOrd d)) (fun c => { c with loadHold := some (Ld.id d) }) else s1
          ((s2.jDo f q).takeHeld p w0).loadSettle p)

/-! ## Chunks (R339, R342) -/

/-- HOST_CHUNK_READ: a chunk the load keeps or forwards arrives by DMA with its CRC; `none` is a failed access (R417). -/
def execHostChunkRead (p port chunk : Nat) (data : Option (List Byte)) (crc : Nat) (s : State) : R :=
  if 16 ≤ p || 2 ≤ port then .fault .noSuchUnit else
  match (s.part p).image, (s.part p).ws.load with
  | some im, some l =>
    let d := l.desc
    let src := if Ld.dual d then chunk % 2 else l.cmd.1.port
    let here := l.cmd.1.port == port || l.comp.isSome
    if Ld.link d || decide (Ld.chunks d ≤ chunk) || !(Ld.keeps d chunk || Ld.fwds d chunk) || l.seen.contains chunk || src != port
        || !here then .next s
    else match data with
      | none => .next (s.endLoad p Config.stDmaError 0 true)
      | some b => if b.length != Ld.chunkLen d chunk then .next (s.endLoad p Config.stDmaError 0 true)
                  else .next (s.chunkIn p im l chunk (crc % 2 ^ 32) b)
  | _, _ => .next s

/-- LOAD_DATA_MESSAGE. -/
def execLoadDataMessage (p : Nat) (h : LoadHeader) (data : List Byte) (s : State) : R :=
  if 16 ≤ p then .fault .noSuchUnit else .next (s.loadMsg p none { h with kind := 0 } data)

/-- LOAD_ABORT_MESSAGE. -/
def execLoadAbortMessage (p loadId : Nat) (s : State) : R :=
  if 16 ≤ p then .fault .noSuchUnit else .next (s.loadMsg p none ⟨loadId, 1, 0, 0, 0, 0⟩ [])

/-- LOAD_END_MESSAGE. -/
def execLoadEndMessage (p loadId : Nat) (s : State) : R :=
  if 16 ≤ p then .fault .noSuchUnit else .next (s.loadMsg p none ⟨loadId, 2, 0, 0, 0, 0⟩ [])

/-- LOAD_COMPANION_TIMEOUT: 100 ms without the companion of a DUAL load (R340). -/
def execLoadCompanionTimeout (p : Nat) (s : State) : R :=
  if 16 ≤ p then .fault .noSuchUnit else
  match (s.part p).ws.load with
  | some l => if Ld.dual l.desc && l.comp.isNone && l.start + 100000000 ≤ s.dtb then .next (s.endLoad p Config.stLoadAborted 0 true) else .next s
  | none => .next s

/-- LOAD_HOLD_TIMEOUT: chain messages held 100 ms are discarded; aborts go upstream and downstream and a load held ends (R343). -/
def execLoadHoldTimeout (p : Nat) (s : State) : R :=
  if 16 ≤ p then .fault .noSuchUnit else
  let w := (s.part p).ws
  if w.held.isEmpty || decide (s.dtb < w.heldFrom + 100000000) then .next s else
  let s1 := s.updWs p (fun w => { w with held := [], heldVia := none })
  let s2 := match w.heldVia with
    | some (port, ch) => (s1.dropAcks ch).sendMsg port ch 0 (leBytes 4 ((w.held.head?.map (·.1.loadId)).getD 0) ++ leBytes 4 1 ++ leBytes 16 0)
    | none => s1
  match (s.part p).image, w.load with
  | some im, some l =>
    let s3 := if Ld.link l.desc && w.heldVia.isNone then s2.sendLoad p (Ld.inPort l.desc) im l.desc 1 0 0 [] else s2
    .next (s3.endLoad p Config.stLoadAborted 0 true)
  | _, _ => .next s2

/-- The peer of a port is lost: loads that receive or forward through it end (Table 15.3). -/
def State.loadPeerLost (s : State) (port : Nat) : State :=
  (List.range 16).foldl (fun s p =>
    match (s.part p).ws.load with
    | none => s
    | some l =>
      if Ld.link l.desc && Ld.inPort l.desc == port then s.endLoad p Config.stPeerLost 0 true
      else if Ld.forward l.desc && Ld.outPort l.desc == port then
        let st := if l.kept == Ld.keepCount l.desc then 2 else 0
        s.endLoad p Config.stPeerLost st false
      else s) s

/-! ## The switch command (R347 to R349) -/

/-- Fields of the switch command (layout: log entry 14). -/
def swSlot (b : List Byte) : Nat := fbits b 0 0 0
def swReloads (b : List Byte) : Bool := fbits b 0 1 1 = 1
def swCancel (b : List Byte) : Bool := fbits b 0 2 2 = 1
def swAt (b : List Byte) : Nat := fld b 4 4
def swCount (b : List Byte) : Nat := fld b 16 4

/-- Whether a relocation entry is refused (Table 15.4). -/
def State.relocBad (s : State) (p : Nat) (im : Image) (e : List Byte) : Bool :=
  let w := (s.part p).ws
  fbits e 0 31 26 != 0 || !isZero e 4 4 || fbits e 0 25 24 == 3 ||
  match coreOf (s.part p).geo (fbits e 0 15 0), w.active with
  | some c, some a =>
    let v := (s.core c).desc.le (32 * fbits e 0 23 16 + relocOff (fbits e 0 25 24)) 8
    bits v 63 60 != 1 || bits v 59 40 != 0 || decide (bits v 39 0 < w.base im a) || decide (w.base im a + w.slotBytes ≤ bits v 39 0)
  | _, _ => true

/-- The refusal of a switch, if any, with the list it would use. -/
def State.switchRefusal (s : State) (p : Nat) (im : Image) (b : List Byte) (es : List (List Byte)) : Option Nat :=
  let w := (s.part p).ws
  let st := w.stOf (swSlot b)
  if st == 3 || st == 0 || Req.secondCopy im.req == 0 || w.active.isNone || w.switchPending
      || decide (swAt b < (s.part p).job.nextRequest) || !swReloads b then some Config.stWsetState
  else if es.any (s.relocBad p im) then some Config.stBadField
  else if swCount b = 0 && w.relocs.isEmpty then some Config.stBadLength
  else none

/-- WEIGHT_SWITCH: a switch is pending from here until its selection point. -/
def execWeightSwitch (f : Fn) (n : Nat) (list : Option (List Byte)) (s : State) : R :=
  commandIf (fun q => q.cmd == 0x0301 && !swCancel q.payload) f n s (fun q s =>
    let p := q.part
    let b := q.payload
    match (s.part p).image with
    | none => s.complete f n Config.stNoImage 0 []
    | some im =>
      match (if swCount b = 0 then some [] else list) with
      | none => s.complete f n Config.stDmaError 0 []
      | some l =>
        let es := (List.range (swCount b)).map (fun i => sub l (8 * i) 8)
        match s.switchRefusal p im b es with
        | some st => s.complete f n st 0 []
        | none =>
          ((s.jDo f q).updWs p (fun w => { w with
            switchPending := true
            switchTo := swSlot b
            atRequest := swAt b
            relocs := if swCount b = 0 then w.relocs else es })).complete f n Config.stOk 0 [])

/-- WEIGHT_SWITCH_CANCEL: the pending switch is dropped and its request runs on the old set. -/
def execWeightSwitchCancel (f : Fn) (n : Nat) (s : State) : R :=
  commandIf (fun q => q.cmd == 0x0301 && swCancel q.payload) f n s (fun q s =>
    if (s.part q.part).ws.switchPending then
      ((s.jDo f q).updWs q.part (fun w => { w with switchPending := false, selectWait := false })).complete f n Config.stOk 0 []
    else s.complete f n Config.stWsetState 0 [])

end Sys2Proof.Machine
end

