-- ==== Sys2Proof/Machine/Codec.lean ====
section
/-!
DEFINITION. Sys2Proof/Machine/Codec.lean: codec sessions, submits, pictures, planar output, the output ring and window suspension
(R377 to R402). What a bitstream contains is an operand; the samples and bits that the video standards fix are free values.
-/

namespace Sys2Proof.Machine

/-! ## The session descriptor (Table 17.3) -/

namespace Cd
def encode (d : List Byte) : Bool := fbits d 0 0 0 = 1
def std (d : List Byte) : Nat := fbits d 0 2 1
def conceal (d : List Byte) : Bool := fbits d 0 3 3 = 1
def pair (d : List Byte) : Nat := fbits d 0 7 4
def skipNonref (d : List Byte) : Bool := fbits d 0 12 12 = 1
def retain (d : List Byte) : Bool := fbits d 0 13 13 = 1
def grain (d : List Byte) : Bool := fbits d 0 14 14 = 1
def width (d : List Byte) : Nat := fbits d 4 15 0
def height (d : List Byte) : Nat := fbits d 4 31 16
def depth (d : List Byte) : Nat := fbits d 8 3 0
def pool (d : List Byte) : Nat := fbits d 8 10 4
def limit (d : List Byte) : Nat := fld d 12 4
/-- Bits [39:0] of an interleaved-form address. -/
def addr (d : List Byte) (a : Nat) : Nat := fld d a 5
def signal (d : List Byte) : Nat := fld d 44 5
def reports (d : List Byte) : Nat := fbits d 40 15 0
def outW (d : List Byte) : Nat := fbits d 72 15 0
def outH (d : List Byte) : Nat := fbits d 72 31 16
def outFmt (d : List Byte) : Nat := fbits d 76 4 0
def colour (d : List Byte) : Nat := fbits d 76 6 5
def matrix (d : List Byte) : Nat := fbits d 76 8 7
def full (d : List Byte) : Bool := fbits d 76 9 9 = 1
def tSlots (d : List Byte) : Nat := fbits d 80 15 0
def step (d : List Byte) : Nat := fbits d 80 31 16
def first (d : List Byte) : Nat := fld d 84 4
def smax (d : List Byte) : Nat := fld d 88 4
def gir (d : List Byte) : Bool := fbits d 96 10 10 = 1
def keyInterval (d : List Byte) : Nat := fld d 104 4
def ring (d : List Byte) : Nat := fld d 120 4
/-- Bytes of a sample (R385). -/
def bps (d : List Byte) : Nat := if depth d = 10 then 2 else 1
/-- Bytes of a plane row: 256-byte multiples. -/
def rowBytes (d : List Byte) (w : Nat) : Nat := ceilDiv (w * bps d) 256 * 256
/-- First byte of a plane in a frame buffer. -/
def planeAt (d : List Byte) (q : Nat) : Nat :=
  if q = 0 then 0 else rowBytes d (width d) * height d + (q - 1) * (rowBytes d (width d / 2) * (height d / 2))
/-- FRAME_BYTES. -/
def frameBytes (d : List Byte) : Nat := ceilDiv (planeAt d 3) 65536 * 65536
/-- Interleaved offset of frame buffer `f`. -/
def frameAt (d : List Byte) (f : Nat) : Nat := addr d 16 + f * frameBytes d
def outBytes (d : List Byte) : Nat := if outFmt d = 0x0B then 1 else 2
/-- Whether an address field is of the interleaved form. -/
def interleaved (d : List Byte) (a : Nat) : Bool := fld d a 8 / 2 ^ 60 == 1 && fld d a 8 / 2 ^ 40 % 2 ^ 20 == 0
/-- Regions of the session: interleaved offset and bytes. -/
def regions (d : List Byte) : List (Nat × Nat) :=
  [(addr d 16, pool d * frameBytes d), (addr d 24, 4259840), (addr d 32, 32 * reports d)]
    ++ (if colour d = 0 then [] else [(addr d 64, 3 * tSlots d * outH d * outW d * outBytes d)])
    ++ (if encode d then [(addr d 112, ring d)] else [])
/-- Check 1 of R384: reserved bits and encodings. -/
def bad (d : List Byte) : Bool :=
  fbits d 0 31 15 != 0 || std d == 3 || decide (11 < pair d) || fbits d 0 11 8 == 1 || fbits d 8 31 11 != 0 || fbits d 40 31 16 != 0
    || !isZero d 49 15 || fbits d 76 31 10 != 0 || !isZero d 92 4 || fbits d 96 31 19 != 0 || !isZero d 124 4
    || colour d == 3 || matrix d == 3 || fbits d 96 1 0 == 3
    || (colour d != 0 && (!(([0x0B, 0x09, 0x01, 0x02] : List Nat).contains (outFmt d)) || tSlots d == 0 || step d == 0 || !interleaved d 64))
    || (encode d && (conceal d || colour d != 0 || !interleaved d 112 || addr d 112 % 64 != 0 || (std d == 0 && decide (51 < fbits d 96 9 2))
        || (gir d && decide (fbits d 96 18 11 < 2))))
    || (outFmt d == 0x09 && colour d == 2) || decide (64 < pool d) || signal d % 4 != 0
    || !interleaved d 16 || !interleaved d 24 || !interleaved d 32 || addr d 16 % 65536 != 0 || addr d 24 % 65536 != 0 || addr d 32 % 32 != 0
end Cd

/-! ## Access -/

def Pair.sess (x : Pair) (i : Nat) : Session := Cells.get (fun _ => {}) x.sessions i
def State.sess (s : State) (k i : Nat) : Session := (s.pair k).sess i
def State.updSess (s : State) (k i : Nat) (f : Session → Session) : State :=
  s.updPair k (fun x => { x with sessions := Cells.put (fun _ => {}) x.sessions i (f (x.sess i)) })

/-- A handle (R384). -/
def handleOf (k i gen : Nat) : Nat := k + i * 16 + gen * 256
/-- The session a handle names for a partition, where its generation is current and it is open. -/
def State.byHandle (s : State) (p h : Nat) : Option (Nat × Nat) :=
  let k := h % 16
  let i := h / 16 % 16
  let x := s.sess k i
  if k < 12 && x.isOpen && x.gen == h / 256 % 65536 && x.part == p then some (k, i) else none

/-- Whether an interleaved range lies in the partition's memory. -/
def inSpace (g : Geometry) (a n : Nat) : Bool := decide (a + n ≤ geoBytes g)
/-- Whether a device address lies in the partition's memory. -/
def devInSpace (g : Geometry) (a : Nat) : Bool := (devPhys g a).isSome && (devPhys g (a + 3)).isSome
/-- Whether two ranges share a byte. -/
def rangesMeet (a b : Nat × Nat) : Bool := decide (a.1 < b.1 + b.2) && decide (b.1 < a.1 + a.2)
/-- Whether any two of a list of ranges share a byte. -/
def anyMeet : List (Nat × Nat) → Bool
  | [] => false
  | a :: r => r.any (rangesMeet a) || anyMeet r
/-- The signal word as a range of the interleaved space. -/
def signalRange (g : Geometry) (a : Nat) : List (Nat × Nat) := match devPhys g a with | some f => [(physInter g f, 4)] | none => []

/-! ## Closing (R386, R402) -/

/-- Closes a session: submits not consumed complete with a status, its buffers are free, a close command completes. -/
def State.closeSession (s : State) (k i status : Nat) : State :=
  let x := s.sess k i
  if !x.isOpen then s else
  let s1 := x.submits.foldl (fun s q => s.completeIf q.fn q.slot q.post status 0 []) s
  let s2 := s1.updSess k i (fun x => { gen := x.gen })
  let s3 := s2.updPair k (fun y => if y.run != 0 && y.session == i then { y with run := 0, binOcc := 0 } else y)
  match x.closeCmd with
  | some q => s3.completeIf q.1 q.2.1 q.2.2 Config.stOk 0 []
  | none => s3

/-- Every open session: pair and index. -/
def allSessions : List (Nat × Nat) := (List.range 192).map (fun n => (n / 16, n % 16))
/-- Closes every session of a partition. -/
def State.closeSessions (s : State) (p status : Nat) : State :=
  allSessions.foldl (fun s e => if (s.sess e.1 e.2).isOpen && (s.sess e.1 e.2).part == p then s.closeSession e.1 e.2 status else s) s

/-- Revokes the partition's codec-pair leases: tokens advance and its sessions close. Of a pair that serves the partition, FENCED counts the
writes still on their way, whose number is a matter of timing and so a free value (R402, R455; log entry 108). -/
def State.revokePairs (s : State) (p : Nat) : State :=
  (List.range 12).foldl (fun s k =>
    if (List.range 16).any (fun i => (s.sess k i).isOpen && (s.sess k i).part == p) then
      let late := if (s.pair k).run != 0 && (s.pair k).part == p then Config.freeNat s.freeCtr else 0
      (((List.range 16).foldl (fun s i => if (s.sess k i).part == p then s.closeSession k i Config.stSessionState else s) s).updPair k
        (fun y => { y with token := (y.token + 1) % 65536, fenced := satAdd 0xFFFFFFFF y.fenced late })).tick
    else s) s

/-- A draining or ending session closes once nothing is left to finish. -/
def State.settleSession (s : State) (k i : Nat) : State :=
  let x := s.sess k i
  if x.isOpen && x.outputs.isEmpty && (x.closing == 2 || (x.closing == 1 && x.submits.isEmpty)) then s.closeSession k i Config.stSessionState else s

/-! ## CODEC_OPEN, CODEC_SUBMIT, CODEC_CLOSE, CODEC_RELEASE -/

/-- The refusal of an open, if any (R384). -/
def State.openRefusal (s : State) (p : Nat) (d : List Byte) : Option Nat :=
  let g := (s.part p).geo
  let mask := match (s.part p).image with | some im => Req.codecMask im.req | none => 0
  let sized : Nat → Nat → Bool := fun w h => decide (64 ≤ w) && decide (w ≤ 8192) && decide (64 ≤ h) && decide (h ≤ 4352) && w % 2 == 0 && h % 2 == 0
  if Cd.bad d then some Config.stBadField
  else if Cd.pool d == 0 || Cd.reports d == 0 || (Cd.encode d && Cd.ring d == 0) then some Config.stBadLength
  else if (Cd.encode d && Cd.std d == 2) || (Cd.depth d != 8 && Cd.depth d != 10) then some Config.stCodecProfile
  else if !sized (Cd.width d) (Cd.height d)
      || (Cd.colour d != 0 && (decide (Cd.outW d < 16) || decide (Cd.width d < Cd.outW d) || decide (Cd.outH d < 16) || decide (Cd.height d < Cd.outH d)))
      || (Cd.encode d && decide (Cd.ring d < 4160)) then some Config.stCodecSize
  else if !bit mask (Cd.pair d) then some Config.stNoCodec
  else if (List.range 16).all (fun i => (s.sess (Cd.pair d) i).isOpen) then some Config.stSessionLimit
  else if !(Cd.regions d).all (fun r => inSpace g r.1 r.2) || !devInSpace g (Cd.signal d)
      || anyMeet (Cd.regions d ++ signalRange g (Cd.signal d)) then some Config.stAccessRights
  else none

/-- CODEC_OPEN: opens a session and answers its handle. -/
def execCodecOpen (f : Fn) (n : Nat) (s : State) : R :=
  command 0x0500 f n s (fun q s =>
    let d := q.payload.take 128
    match s.openRefusal q.part d with
    | some st => s.complete f n st 0 []
    | none =>
      let k := Cd.pair d
      match (List.range 16).find? (fun i => !(s.sess k i).isOpen) with
      | none => s.complete f n Config.stSessionLimit 0 []
      | some i =>
        let gen := ((s.sess k i).gen + 1) % 65536
        ((s.updSess k i (fun _ => { gen := gen, isOpen := true, part := q.part, desc := d })).jDo f q).complete f n Config.stOk 0
          (leBytes 4 (handleOf k i gen)))

/-- A submit record that names more than 8 regions (Table 17.4); its reserved bits are ignored (R6). -/
def submitBad (b : List Byte) : Bool := decide (8 < fbits b 32 3 0)

/-- CODEC_SUBMIT: queues a record; its slot completes when the record has been consumed. -/
def execCodecSubmit (f : Fn) (n : Nat) (s : State) : R :=
  command 0x0501 f n s (fun q s =>
    let b := q.payload.take 128
    match s.byHandle q.part (fbits b 0 23 0) with
    | none => s.complete f n Config.stSessionState 0 []
    | some (k, i) =>
      let x := s.sess k i
      let w := fld b 24 5
      if submitBad b || w % 4 != 0 then s.complete f n Config.stBadField 0 []
      else if x.closing != 0 then s.complete f n Config.stSessionState 0 []
      else if w != 0 && !devInSpace (s.part q.part).geo w then s.complete f n Config.stAccessRights 0 []
      else if 32 ≤ x.submits.length then s.complete f n Config.stQueueFull 0 []
      else s.updSess k i (fun x => { x with submits := x.submits ++ [{ fn := f, slot := n, post := q.postDtb, record := b }] }))

/-- CODEC_CLOSE: HANDLE [23:0] at 0, DRAIN bit 0 at 4 (log entry 14). -/
def execCodecClose (f : Fn) (n : Nat) (s : State) : R :=
  command 0x0502 f n s (fun q s =>
    match s.byHandle q.part (fbits q.payload 0 23 0) with
    | none => s.complete f n Config.stSessionState 0 []
    | some (k, i) =>
      if (s.sess k i).closing != 0 then s.complete f n Config.stSessionState 0 [] else
      ((s.jDo f q).updSess k i (fun x => { x with closing := if fbits q.payload 4 0 0 = 1 then 1 else 2, closeCmd := some (f, n, q.postDtb) })).settleSession k i)

/-- CODEC_RELEASE: HANDLE [23:0] at 0, FRAME at 4 (log entry 14): an output buffer kept by RETAIN becomes unused. -/
def execCodecRelease (f : Fn) (n : Nat) (s : State) : R :=
  command 0x0503 f n s (fun q s =>
    match s.byHandle q.part (fbits q.payload 0 23 0) with
    | none => s.complete f n Config.stSessionState 0 []
    | some (k, i) =>
      let fr := fld q.payload 4 4
      if Cd.pool (s.sess k i).desc ≤ fr then s.complete f n Config.stBadField 0 [] else
      let waits := (s.sess k i).outputs.any (fun u => u.frame == some fr)
      let s1 := if waits then s else s.updSess k i (fun x => { x with frames :=
        (x.frames.map (fun e => if e.1 = fr then (fr, { e.2 with outWait := false }) else e)).filter (fun e => !(e.1 == fr && e.2.mark == 3)) })
      s1.complete f n Config.stOk 0 [])

/-! ## Frame buffers and references (R385, R390, R391) -/

/-- One sample of a frame buffer. -/
def State.sample (s : State) (g : Geometry) (d : List Byte) (f q y x : Nat) : Nat :=
  s.leX g (Cd.frameAt d f + Cd.planeAt d q + y * Cd.rowBytes d (if q = 0 then Cd.width d else Cd.width d / 2) + x * Cd.bps d) (Cd.bps d)

/-- The bytes parsed up to a decoded picture, on which it depends (R377). -/
def Session.histOf (x : Session) (u : Picture) : List Byte := if u.encode then x.hist else x.hist.take u.upto

/-- The reference closest in output order, the earlier on a tie; AV1's LAST_FRAME (R391). -/
def Session.nearestRef (x : Session) (u : Picture) : Option Nat :=
  let fs := x.frames.filter (fun e => (e.2.mark == 1 || e.2.mark == 2) && e.2.num != u.num)
  let gap := fun (e : Nat × FrameBuf) => if e.2.order ≤ u.order then u.order - e.2.order else e.2.order - u.order
  if Cd.std x.desc = 1 then (fs.find? (fun e => e.2.num == Config.lastFrame x.desc (x.histOf u) u.num)).map (·.1)
  else (fs.foldl (fun (b : Option (Nat × FrameBuf)) e =>
    match b with
    | none => some e
    | some c => if gap e < gap c || (gap e == gap c && e.2.order < c.2.order) then some e else b) none).map (·.1)

/-- Whether a sample of a picture lies in a block that concealment fills: every block with UNSUPPORTED, and with SYNTAX, BUDGET, WATCHDOG
or TRUNCATED the blocks not decoded or abandoned (Table 17.6). -/
def Session.concealed (x : Session) (u : Picture) (q y c : Nat) : Bool :=
  let m := if q = 0 then 1 else 2
  u.cause == 4 || (([1, 2, 3, 8] : List Nat).contains u.cause
    && Config.blockLost x.desc (x.histOf u) u.num u.cause (m * y / 8) (m * c / 8))

/-- A sample of a picture: mid-grey for SIZE and POOL_SHORT, the nearest reference's where it is concealed, else what the stream gives. -/
def State.picSample (s : State) (x : Session) (u : Picture) (q y c : Nat) : Nat :=
  let d := x.desc
  let grey := 2 ^ (Cd.depth d - 1)
  if u.cause = 5 || u.cause = 6 then grey
  else if x.concealed u q y c then match x.nearestRef u with
    | some f => s.sample (s.part x.part).geo d f q y c
    | none => grey
  else Config.decodedSample d (x.histOf u) u.num u.cause q y c % 2 ^ Cd.depth d

/-- Writes a picture into its frame buffer. -/
def State.writeFrame (s : State) (k i : Nat) (u : Picture) : State :=
  let x := s.sess k i
  let d := x.desc
  match u.frame with
  | none => s
  | some f => (List.range 3).foldl (fun t q =>
      let w := if q = 0 then Cd.width d else Cd.width d / 2
      let h := if q = 0 then Cd.height d else Cd.height d / 2
      (List.range h).foldl (fun t y => t.writeP x.part (Cd.frameAt d f + Cd.planeAt d q + y * Cd.rowBytes d w)
        ((List.range w).map (fun c => leBytes (Cd.bps d) (s.picSample x u q y c))).flatten) t) s

/-! ## CODEC_PICTURE (R386, R387, R391 to R400) -/

/-- Whether a submit's wait word allows it to be read. -/
def State.submitReady (s : State) (g : Geometry) (u : Submit) : Bool :=
  let w := fld u.record 24 5
  w == 0 || match devPhys g w with | some a => decide (fld u.record 20 4 ≤ s.wordAt a) | none => false

/-- Bytes of a decode submit not yet parsed. -/
def Submit.left (u : Submit) : Nat := fld u.record 16 4 - u.parsed

/-- Completes the submits at the head that hold nothing more to parse. -/
def State.dropParsed (s : State) (k i : Nat) : Nat → State
  | 0 => s
  | n + 1 =>
    match (s.sess k i).submits with
    | [] => s
    | u :: rest =>
      if u.left = 0 && s.submitReady (s.part (s.sess k i).part).geo u then
        ((s.updSess k i (fun x => { x with submits := rest })).completeIf u.fn u.slot u.post Config.stOk 0 []).dropParsed k i n
      else s

/-- Parses `n` bytes of the submits at the head, in order: the bytes, or none while they have not arrived. -/
def State.parse (s : State) (g : Geometry) (n : Nat) : List Submit → Option (List Byte × List Submit)
  | [] => if n = 0 then some ([], []) else none
  | u :: rest =>
    if n = 0 then some ([], u :: rest)
    else if !s.submitReady g u then none
    else
      let m := min n u.left
      let b := s.readX g (fld u.record 8 5 + u.parsed) m
      let u' := { u with parsed := u.parsed + m }
      if n = m then some (b, u' :: rest)
      else match s.parse g (n - m) rest with
        | some (c, r) => some (b ++ c, u' :: r)
        | none => none

/-- Whether the sample rules select output index `n` (R395). -/
def selects (d : List Byte) (n selected : Nat) : Bool :=
  Cd.colour d != 0 && decide (Cd.first d ≤ n) && (n - Cd.first d) % Cd.step d == 0
    && (Cd.smax d == 0xFFFFFFFF || decide (selected < Cd.smax d))

/-- A session that has output FRAME_LIMIT pictures, those on their way included, produces nothing more (R389). -/
def Session.atLimit (x : Session) : Bool := Cd.limit x.desc != 0xFFFFFFFF && decide (Cd.limit x.desc ≤ x.outIndex + x.outputs.length)

/-- Whether frame buffer `f` is free. -/
def Session.frameFree (x : Session) (f : Nat) : Bool := decide (f < Cd.pool x.desc) && !x.frames.any (fun e => e.1 == f)

/-- Marks after the decoded picture `num`: the standard's reference management keeps, drops or re-marks each reference (a free value);
buffers that await output or release stay in use (R390). After a key picture no later one inherits the damage of those before it (R391). -/
def remark (d hist : List Byte) (num : Nat) (key : Bool) (fs : List (Nat × FrameBuf)) : List (Nat × FrameBuf) :=
  (fs.map (fun e =>
    let b := { e.2 with corrupt := e.2.corrupt && !key }
    if b.mark = 3 then (e.1, b) else
    let m := Config.refMark d hist num b.num % 3
    let m := if m = 2 && Cd.std d = 1 then 1 else m
    (e.1, { b with mark := if m = 0 && b.outWait then 3 else m }))).filter (fun e => e.2.mark != 0)

/-- Whether any of the references that `refers` names is CORRUPT (R391). -/
def Session.refBad (x : Session) (key : Bool) (refers : Nat → Bool) : Bool :=
  !key && x.frames.any (fun e => (e.2.mark == 1 || e.2.mark == 2) && e.2.corrupt && refers e.2.num)

/-- A picture of a decode session. -/
def State.decodePicture (s : State) (k i cause : Nat) (key nonref : Bool) (frame consumed : Nat) : State :=
  let x := s.sess k i
  let g := (s.part x.part).geo
  match s.parse g consumed x.submits with
  | none => s
  | some (b, subs) =>
    let skip := Cd.skipNonref x.desc && nonref && !selects x.desc (x.outIndex + x.outputs.length) x.selected
    if !skip && !x.frameFree frame then s else
    let hist := x.hist ++ b
    let refBad := !skip && x.refBad key (Config.refersTo x.desc hist x.coded)
    let order := Config.outputOrder x.desc hist x.coded
    let u : Picture := { num := x.coded, order := order, upto := hist.length, frame := if skip then none else some frame, key := key,
                         cause := cause, refCorrupt := refBad, bytes := consumed, skipped := skip }
    let s1 := s.tick.updSess k i (fun x => { x with
      submits := subs
      hist := hist
      coded := x.coded + 1
      outputs := x.outputs ++ [u]
      frames := remark x.desc hist x.coded key x.frames
        ++ (if skip then [] else [(frame, ⟨if nonref then 3 else 1, true, x.coded, order, cause != 0 || refBad⟩)]) })
    let s2 := (if skip then s1 else s1.writeFrame k i u).updPair k (fun y => { y with
      oob := if cause = 0 then y.oob else satAdd 0xFFFFFFFF y.oob (Config.freeNat s.freeCtr)
      binOcc := Config.freeNat s.freeCtr % 4194305 })
    s2.dropParsed k i 33

/-- Whether the next coded picture is a key picture (R397, R398, R400). -/
def Session.nextKey (x : Session) (force : Bool) : Bool :=
  x.coded == 0 || force || x.forceKey || (!Cd.gir x.desc && Cd.keyInterval x.desc != 0 && x.sinceKey == Cd.keyInterval x.desc)

namespace Cd
def rc (d : List Byte) : Nat := fbits d 96 1 0
def qp (d : List Byte) : Nat := fbits d 96 9 2
def girPeriod (d : List Byte) : Nat := fbits d 96 18 11
/-- Greatest quantiser of the standard: HEVC QP 51, AV1 quantiser index 255 (Table 17.3; log entry 112). -/
def quantTop (d : List Byte) : Nat := if std d = 0 then 51 else 255
end Cd

/-- DELTA of the lowest-numbered region of a submit record that holds the 8 x 8 block in row `v`, column `u` of the picture; 0 where none
does. An empty region holds no block, and blocks exist only inside the picture, so a region beyond it is clipped (R399). -/
def roiDelta (rec : List Byte) (u v : Nat) : Int :=
  match (List.range (fbits rec 32 3 0)).find? (fun r =>
      let w := fld rec (64 + 8 * r) 8
      decide (bits w 11 0 ≤ u) && decide (u < bits w 35 24) && decide (bits w 23 12 ≤ v) && decide (v < bits w 47 36)) with
  | some r => toSigned 9 (bits (fld rec (64 + 8 * r) 8) 56 48)
  | none => 0

/-- The quantisers of a picture's 8 x 8 blocks, by rows: the picture's quantiser with its regions' DELTA, clamped to the standard's range. -/
def quantMap (d rec : List Byte) (q : Nat) : List (List Nat) :=
  (List.range (ceilDiv (Cd.height d) 8)).map (fun v => (List.range (ceilDiv (Cd.width d) 8)).map (fun u =>
    (max 0 (min (Cd.quantTop d : Int) (q + roiDelta rec u v))).toNat))

/-- The picture's own quantiser: QP with RC 0, else what rate control gives (R397). -/
def Session.quantiser (x : Session) : Nat :=
  if Cd.rc x.desc = 0 then Cd.qp x.desc else Config.rateQuantiser x.desc x.sizes % (Cd.quantTop x.desc + 1)

/-- The CTU columns that gradual refresh codes intra in the next picture; every column of a key picture (R398). -/
def Session.intraColumns (x : Session) (key : Bool) : Nat × Nat :=
  let wb := ceilDiv (Cd.width x.desc) 64
  let b := ceilDiv wb (Cd.girPeriod x.desc)
  if key then (0, wb)
  else if Cd.gir x.desc then
    let c0 := (x.sinceKey - 1) % Cd.girPeriod x.desc * b
    (min c0 wb, min (c0 + b) wb)
  else (0, 0)

/-- How the next picture is coded. -/
def Session.codePlan (x : Session) (rec : List Byte) (key : Bool) : CodePlan :=
  { quant := quantMap x.desc rec x.quantiser, intra := x.intraColumns key,
    refs := if key then [] else ((x.frames.filter (fun e => e.2.mark == 1)).map (fun e => e.2.num)).filter (fun m => x.coded ≤ m + 4) }

/-- The bitstream of a planned picture. -/
def codeIt (d : List Byte) (p : CodePlan) (hist : List Byte) (key : Bool) (cause : Nat) : List Byte :=
  Config.codedPicture d p.quant p.intra p.refs hist key cause

/-- A picture of an encode session: one submit; ADDR 0 brings no picture. -/
def State.encodePicture (s : State) (k i frame : Nat) : State :=
  let x := s.sess k i
  let g := (s.part x.part).geo
  match x.submits with
  | [] => s
  | u :: rest =>
    if !s.submitReady g u then s
    else if fld u.record 8 5 = 0 then (s.updSess k i (fun x => { x with submits := rest })).completeIf u.fn u.slot u.post Config.stOk 0 []
    else if !x.frameFree frame then s
    else
      let key := x.nextKey (fbits u.record 4 1 1 = 1)
      let plan := x.codePlan u.record key
      let hist := x.hist ++ leBytes 1 (b2n key) ++ (plan.quant.flatten.map (fun q => BitVec.ofNat 8 q))
        ++ s.readX g (fld u.record 8 5) (Cd.frameBytes x.desc)
      let bitsOut := codeIt x.desc plan hist key 0
      let refBad := x.refBad key plan.refs.contains
      let y : Picture := { num := x.coded, order := x.coded, frame := some frame, key := key, refCorrupt := refBad, bytes := bitsOut.length,
                           encode := true, coded := bitsOut, plan := plan }
      let keep := ((x.frames.filter (fun e => e.2.mark == 1)).map (fun e => e.2.num)).filter (fun m => x.coded < m + 4)
      let s1 := s.updSess k i (fun x => { x with
        submits := rest
        hist := hist
        sizes := x.sizes ++ [bitsOut.length]
        coded := x.coded + 1
        sinceKey := if key then 1 else x.sinceKey + 1
        forceKey := false
        outputs := x.outputs ++ [y]
        frames := (x.frames.filter (fun e => e.2.outWait || keep.contains e.2.num)) ++ [(frame, ⟨1, true, x.coded, x.coded, refBad⟩)] })
      (s1.writeFrame k i y).completeIf u.fn u.slot u.post Config.stOk 0 []

/-- Whether a pair may work: powered, not frozen in Frost, granted to the partition by the window (R360, R386), and no shelf of the
partition is without service (R271, R272). -/
def State.pairMay (s : State) (k p : Nat) : Bool :=
  !s.power.off && !s.pcie.held && s.power.state ≤ 1 && s.granted k == some p && !s.memHeld p

/-- Whether a session has a record it may read. -/
def State.hasWork (s : State) (k i : Nat) : Bool :=
  let x := s.sess k i
  x.isOpen && x.closing != 2 && !x.saved && s.pairMay k x.part && match x.submits with
    | [] => false
    | u :: _ => s.submitReady (s.part x.part).geo u

/-- The next session in the round-robin of ascending index (R386). -/
def State.nextSession (s : State) (k : Nat) : Option Nat :=
  ((List.range 16).map (fun j => ((s.pair k).session + 1 + j) % 16)).find? (s.hasWork k)

/-- Whether a pair holds a picture that it has not output. -/
def State.pictureOpen (s : State) (k : Nat) : Bool :=
  (s.pair k).run == 1 && (s.sess k (s.pair k).session).outputs.any (fun u => u.encode)

/-- Whether the first `n` bytes that submits still hold reach the end of one with END. -/
def endReached : Nat → List Submit → Bool
  | _, [] => false
  | n, u :: r => if n < u.left then false else fbits u.record 4 0 0 = 1 || endReached (n - u.left) r

/-- Whether a session's pool is too small for AV1, whose decoded-picture-buffer requirement is 8 (R390). -/
def Cd.poolShort (d : List Byte) : Bool := Cd.std d == 1 && decide (Cd.pool d < 9)
/-- Whether a decoded picture's bytes may give it a cause of Table 17.6: BUDGET and WATCHDOG have rows of their own, TRUNCATED needs the
end of the input, OVERSIZE is an encoder's. POOL_SHORT is every picture's in an AV1 session with a pool below 9, and none's in another. -/
def streamCause (d : List Byte) (subs : List Submit) (n cause : Nat) : Bool :=
  if Cd.std d = 1 && Cd.poolShort d != (cause == 6) then false
  else cause == 0 || cause == 1 || (decide (4 ≤ cause) && decide (cause ≤ 7)) || (cause == 8 && endReached n subs)

/-- CODEC_PICTURE: the pair takes the next picture of the session whose turn it is. -/
def execCodecPicture (pair session cause : Nat) (key nonref : Bool) (frame consumed : Nat) (s : State) : R :=
  if 12 ≤ pair || 16 ≤ session then .fault .noSuchUnit else
  let x := s.sess pair session
  if s.nextSession pair != some session || s.pictureOpen pair || (!Cd.encode x.desc && !streamCause x.desc x.submits consumed cause) then .next s else
  let s1 := s.updPair pair (fun y => { y with run := 1, session := session, part := x.part })
  if x.atLimit then
    .next ((x.submits.foldl (fun s q => s.completeIf q.fn q.slot q.post Config.stOk 0 [])
      (s1.updSess pair session (fun x => { x with submits := [] }))).settleSession pair session)
  else if Cd.encode x.desc then .next ((s1.encodePicture pair session frame).settleSession pair session)
  else
    let s2 := s1.dropParsed pair session 33
    if (s2.sess pair session).submits.isEmpty || consumed = 0 then .next (s2.settleSession pair session)
    else .next ((s2.decodePicture pair session cause key nonref frame consumed).settleSession pair session)

/-! ## Budgets and watchdogs (R392, R393) -/

/-- The last picture of the session a pair serves is abandoned with a cause: the rest of it is concealed. -/
def State.abandon (s : State) (k cause damaged : Nat) (hit : Pair → Pair) : State :=
  let i := (s.pair k).session
  let x := s.sess k i
  match x.outputs.reverse with
  | u :: r =>
    if u.cause != 0 && u.cause != 7 || u.skipped || u.written then s else
    let coded := if u.encode then codeIt x.desc u.plan x.hist u.key cause else u.coded
    let v : Picture := { u with
      cause := cause
      damaged := u.damaged + damaged
      coded := coded
      bytes := if u.encode then coded.length else u.bytes }
    ((s.updSess k i (fun x => { x with
      outputs := (v :: r).reverse
      frames := x.frames.map (fun e => if e.2.num = v.num then (e.1, { e.2 with corrupt := true }) else e) })).writeFrame k i v).updPair k hit
  | [] => s

/-- CODEC_BLOCK_BUDGET: a coding block reaches its budget; only robust mode has block budgets. -/
def execCodecBlockBudget (pair damaged : Nat) (s : State) : R :=
  if 12 ≤ pair then .fault .noSuchUnit else
  if (s.pair pair).run = 1 && !Cd.conceal (s.sess pair (s.pair pair).session).desc then
    .next (s.abandon pair 2 damaged (fun y => { y with budgetHits := satAdd 0xFFFF y.budgetHits 1 }))
  else .next s

/-- CODEC_WATCHDOG: a picture reaches its watchdog, in either mode. -/
def execCodecWatchdog (pair damaged : Nat) (s : State) : R :=
  if 12 ≤ pair then .fault .noSuchUnit else
  if (s.pair pair).run = 1 then .next (s.abandon pair 3 damaged (fun y => { y with wdogHits := satAdd 0xFFFF y.wdogHits 1 })) else .next s

/-! ## ENCODE_RING_WRITE (R400) -/

/-- ENCODE_RING_WRITE: the picture's whole bitstream goes to the ring when it fits; a picture larger than the ring is dropped. -/
def execEncodeRingWrite (pair : Nat) (s : State) : R :=
  if 12 ≤ pair then .fault .noSuchUnit else
  let i := (s.pair pair).session
  let x := s.sess pair i
  let d := x.desc
  let room := Cd.ring d - 64
  match x.outputs with
  | u :: r =>
    if (s.pair pair).run != 1 || !u.encode || u.written || s.memHeld x.part then .next s
    else if room < u.coded.length then
      .next (s.updSess pair i (fun x => { x with
        outputs := { u with written := true, dropped := true, cause := 9, bytes := 0, offset := 0 } :: r
        forceKey := true }))
    else
      let g := (s.part x.part).geo
      let base := Cd.addr d 112
      let consumed := s.leX g (base + 8) 8
      if room < (x.produced + 2 ^ 64 - consumed) % 2 ^ 64 + u.coded.length then .next s
      else
        let s1 := u.coded.zipIdx.foldl (fun s e => s.writeP x.part (base + 64 + (x.produced + e.2) % room) [e.1]) s
        let now := (x.produced + u.coded.length) % 2 ^ 64
        .next ((s1.writeP x.part base (leBytes 8 now)).answer.updSess pair i (fun x => { x with
          outputs := { u with written := true, offset := 64 + x.produced % room } :: r
          produced := now }))
  | [] => .next s

/-! ## Planar output (R395, R396) -/

/-- An exact fraction. -/
structure Frac where
  n : Int
  d : Nat
deriving DecidableEq, Repr
def Frac.add (a b : Frac) : Frac := ⟨a.n * b.d + b.n * a.d, a.d * b.d⟩
def Frac.sub (a b : Frac) : Frac := ⟨a.n * b.d - b.n * a.d, a.d * b.d⟩
def Frac.mul (a b : Frac) : Frac := ⟨a.n * b.n, a.d * b.d⟩
/-- a / (m / e), for m, e > 0. -/
def Frac.divBy (a : Frac) (m e : Nat) : Frac := ⟨a.n * e, a.d * m⟩
def Frac.toVal (a : Frac) : Val := .fin (decide (a.n < 0)) a.n.natAbs (max 1 a.d) 0

/-- Overlap of source position `i`, in units of 1/o, with output position `x`'s interval of n source positions over o outputs. -/
def overlap1 (n o x i : Nat) : Nat := min ((x + 1) * n) ((i + 1) * o) - max (x * n) (i * o)
/-- Source positions that output position `x` covers. -/
def covered (n o x : Nat) : List Nat := (List.range (((x + 1) * n + o - 1) / o - x * n / o)).map (fun j => x * n / o + j)

/-- Mean of a plane over output sample (x, y): step 3. -/
def planeMean (smp : Nat → Nat → Nat) (w h ow oh y x : Nat) : Frac :=
  let sum := (covered h oh y).foldl (fun a j => (covered w ow x).foldl (fun a i => a + overlap1 h oh y j * overlap1 w ow x i * smp j i) a) 0
  ⟨(sum : Nat), max 1 (w * h)⟩

/-- Kr and Kb in 1/10,000. -/
def krkb : Nat → Nat × Nat | 0 => (2990, 1140) | 1 => (2126, 722) | _ => (2627, 593)

/-- Steps 4 and 5: normalised Y', C'b, C'r, or R, G, B. -/
def normal (d : List Byte) (m : Nat → Frac) (ch : Nat) : Frac :=
  let k := 2 ^ (Cd.depth d - 8)
  let luma := if Cd.full d then (m 0).divBy (2 ^ Cd.depth d - 1) 1 else ((m 0).sub ⟨(16 * k : Nat), 1⟩).divBy (219 * k) 1
  let chroma := fun q => if Cd.full d then ((m q).sub ⟨(2 ^ (Cd.depth d - 1) : Nat), 1⟩).divBy (2 ^ Cd.depth d - 1) 1
    else ((m q).sub ⟨(128 * k : Nat), 1⟩).divBy (224 * k) 1
  if Cd.colour d = 1 then (if ch = 0 then luma else chroma ch)
  else
    let kr := (krkb (Cd.matrix d)).1
    let kb := (krkb (Cd.matrix d)).2
    let r := luma.add ((chroma 2).mul ⟨(2 * (10000 - kr) : Nat), 10000⟩)
    let b := luma.add ((chroma 1).mul ⟨(2 * (10000 - kb) : Nat), 10000⟩)
    if ch = 0 then r else if ch = 2 then b
    else ((luma.sub (r.mul ⟨(kr : Nat), 10000⟩)).sub (b.mul ⟨(kb : Nat), 10000⟩)).divBy (10000 - kr - kb) 10000

/-- Step 6: one output code. -/
def planarCode (d : List Byte) (m : Nat → Frac) (ch : Nat) : Nat :=
  match Cd.outFmt d with
  | 0x09 => (toInt 0x09 false 0 true 0 (m ch).toVal).1
  | 0x0B =>
    let v := normal d m ch
    let v := if Cd.colour d = 1 && ch != 0 then v.add ⟨1, 2⟩ else v
    (toInt 0x0B false 0 true 0 (v.mul ⟨255, 1⟩).toVal).1
  | 0x01 => (toFloat bf16 0 false 0 (normal d m ch).toVal).1
  | _ => (toFloat fp16 0 false 0 (normal d m ch).toVal).1

/-- Writes a selected picture to slot `t` of the planar tensor. -/
def State.writePlanar (s : State) (x : Session) (u : Picture) (t : Nat) : State :=
  let d := x.desc
  let g := (s.part x.part).geo
  match u.frame with
  | none => s
  | some f =>
    let cr := Config.cropped d (x.histOf u) u.num
    let w := max 1 (min cr.2.2.1 (Cd.width d))
    let h := max 1 (min cr.2.2.2 (Cd.height d))
    let smp := fun q y c =>
      let yy := if q = 0 then cr.2.1 + y else (cr.2.1 + y) / 2
      let cc := if q = 0 then cr.1 + c else (cr.1 + c) / 2
      let v := s.sample g d f q yy cc
      if Cd.grain d && Cd.std d = 1 then Config.grained d (x.histOf u) u.num q yy cc v % 2 ^ Cd.depth d else v
    (List.range 3).foldl (fun a ch => (List.range (Cd.outH d)).foldl (fun a y => (List.range (Cd.outW d)).foldl (fun a c =>
      a.writeP x.part (Cd.addr d 64 + (((ch * Cd.tSlots d + t) * Cd.outH d + y) * Cd.outW d + c) * Cd.outBytes d)
        (leBytes (Cd.outBytes d) (planarCode d (fun q => planeMean (smp q) w h (Cd.outW d) (Cd.outH d) y c) ch))) a) a) s

/-! ## PICTURE_OUTPUT (R388 to R390, R395) -/

/-- The 32-byte report (Table 17.5). -/
def report17 (u : Picture) (n t : Nat) (sel : Bool) (dtb : Nat) : List Byte :=
  leBytes 4 n ++ leBytes 4 (b2n (u.cause != 0 || u.refCorrupt) + b2n u.refCorrupt * 2 + b2n u.key * 4 + b2n sel * 8 + b2n u.dropped * 16
    + u.cause * 2 ^ 5 + (u.frame.getD 0) * 2 ^ 9) ++ leBytes 4 (if sel then t else 0) ++ leBytes 4 u.damaged ++ leBytes 4 u.bytes
    ++ leBytes 4 u.offset ++ leBytes 8 dtb

/-- The first of a list of pictures in output order. -/
def firstOut : List Picture → Option Picture
  | [] => none
  | u :: r => match firstOut r with
    | none => some u
    | some v => if v.order < u.order then some v else some u

/-- Which waiting picture is output: an encoder's pictures leave as they were coded, a decoder's in output order. -/
def Session.pick (x : Session) : Option Picture := if Cd.encode x.desc then x.outputs.head? else firstOut x.outputs

/-- The session whose picture is output next, and the picture: the session served, else the next in turn that holds one. -/
def State.outNext (s : State) (k : Nat) : Option (Nat × Picture) :=
  ((s.pair k).session :: (List.range 15).map (fun j => ((s.pair k).session + 1 + j) % 16)).findSome? (fun i =>
    let x := s.sess k i
    if x.isOpen && !x.saved && s.pairMay k x.part then
      match x.pick with
      | some u => if u.encode && !u.written then none else some (i, u)
      | none => none
    else none)

/-- PICTURE_OUTPUT: planar output, report, signal word, then the buffer's mark. -/
def execPictureOutput (pair : Nat) (s : State) : R :=
  if 12 ≤ pair then .fault .noSuchUnit else
  match s.outNext pair with
  | none => .next s
  | some (i, u) =>
    let x := s.sess pair i
    let d := x.desc
    let n := x.outIndex
    let sel := selects d n x.selected && !u.skipped && !u.encode
    let t := x.selected % max 1 (Cd.tSlots d)
    let s1 := if sel then s.writePlanar x u t else s
    let s2 := (s1.writeP x.part (Cd.addr d 32 + 32 * (n % Cd.reports d)) (report17 u n t sel s.dtb)).answer.signalAdd x.part (Cd.signal d)
    let after := fun (e : Nat × FrameBuf) =>
      if some e.1 != u.frame || Cd.retain d then some e
      else if e.2.mark = 3 then none else some (e.1, { e.2 with outWait := false })
    let s3 := s2.updSess pair i (fun x => { x with
      outputs := x.outputs.erase u
      outIndex := (n + 1) % 2 ^ 32
      selected := if sel then x.selected + 1 else x.selected
      frames := x.frames.filterMap after })
    .next ((s3.updPair pair (fun y => { y with
      pictures := satAdd 0xFFFFFFFF y.pictures 1
      corrupt := if u.cause != 0 || u.refCorrupt then satAdd 0xFFFF y.corrupt 1 else y.corrupt
      binOcc := 0 })).settleSession pair i)

/-! ## Suspension and faults (R401, R402) -/

/-- A pair leaves the session it serves: 64 KiB of context and the bin buffer's bytes, whose contents the manual does not give, go to
CTX_ADDR. -/
def State.suspend (s : State) (k : Nat) : State :=
  let y := s.pair k
  let x := s.sess k y.session
  if y.run != 1 || !x.isOpen then s else
  let bytes := (List.range (65536 + y.binOcc)).map (Config.freeByte s.freeCtr)
  ((s.tick.writeP x.part (Cd.addr x.desc 24) bytes).answer.updSess k y.session (fun x => { x with saved := true })).updPair k
    (fun y => { y with run := 0, suspends := satAdd 0xFFFF y.suspends 1, binOcc := 0 })

/-- CODEC_RESUME: the pair reads back a saved context of the partition it is granted to. -/
def execCodecResume (pair session : Nat) (s : State) : R :=
  if 12 ≤ pair || 16 ≤ session then .fault .noSuchUnit else
  let x := s.sess pair session
  if x.isOpen && x.saved && (s.pair pair).run == 0 && s.pairMay pair x.part then
    .next ((s.updSess pair session (fun x => { x with saved := false })).updPair pair
      (fun y => { y with run := 1, session := session, part := x.part, binOcc := Config.freeNat s.freeCtr % 4194305 })).tick
  else .next s

/-- CODEC_PAIR_FAULT: the session served closes with ST_CODEC_FAULT, the partition is told, the pair is reset. -/
def execCodecPairFault (pair : Nat) (s : State) : R :=
  if 12 ≤ pair then .fault .noSuchUnit else
  let y := s.pair pair
  let x := s.sess pair y.session
  if s.power.off || s.pcie.held || y.run != 1 || !x.isOpen then .next s else
  let e : Event := { status := Config.stCodecFault, part := x.part, srcKind := 4, src := pair }
  let s1 := (s.closeSession pair y.session Config.stCodecFault).event e
  let s2 := s1.updJob x.part (fun j => { j with lastFault := Config.stCodecFault, history := (j.history ++ [e.bytes s.dtb]).drop (j.history.length - 15) })
  .next (s2.updPair pair (fun y => { y with run := 0, binOcc := 0, token := (y.token + 1) % 65536 }))

end Sys2Proof.Machine
end

