-- ==== Sys2Proof/Machine/Counters.lean ====
section
/-!
DEFINITION. Sys2Proof/Machine/Counters.lean: the performance counters: what they count, in classes of slots (R486 to R494).
-/

namespace Sys2Proof.Machine

/-! ## Counters and their numbers (R486 to R490) -/

/-- Number of a counter: core c's k is 8c + k, field f's 80,000 + 32f + k, shelf j's 80,128 + 32j + k. -/
def pmcCore (c k : Nat) : Nat := 8 * c + k
def pmcField (f k : Nat) : Nat := 80000 + 32 * f + k
def pmcShelf (j k : Nat) : Nat := 80128 + 32 * j + k

/-- A block of counters: of a core, a field or a shelf. -/
inductive Blk where
  | core (c : Nat)
  | field (f : Nat)
  | shelf (k : Nat)
deriving DecidableEq, Repr

namespace Blk
/-- Counters of the block. -/
def size : Blk → Nat | core _ => 8 | _ => 32
/-- Number of a counter among all, for stamps. -/
def num : Blk → Nat → Nat | core c, k => pmcCore c k | field f, k => pmcField f k | shelf j, k => pmcShelf j k
end Blk

/-- CTLk. -/
def State.ctl (s : State) (b : Blk) (k : Nat) : Nat :=
  match b with
  | .core c => Cells.get (fun _ => 0) (s.core c).ctl k
  | .field f => Cells.get (fun _ => 0) s.fields (64 * f + k)
  | .shelf j => Cells.get (fun _ => 0) (s.shelf j).ctl k
/-- PMCk. -/
def State.pmc (s : State) (b : Blk) (k : Nat) : Nat :=
  match b with
  | .core c => Cells.get (fun _ => 0) (s.core c).pmc k
  | .field f => Cells.get (fun _ => 0) s.fields (64 * f + 32 + k)
  | .shelf j => Cells.get (fun _ => 0) (s.shelf j).pmc k
def State.setCtl (s : State) (b : Blk) (k v : Nat) : State :=
  match b with
  | .core c => s.updCore c (fun x => { x with ctl := Cells.put (fun _ => 0) x.ctl k v })
  | .field f => { s with fields := Cells.put (fun _ => 0) s.fields (64 * f + k) v }
  | .shelf j => s.updShelf j (fun x => { x with ctl := Cells.put (fun _ => 0) x.ctl k v })
def State.setPmc (s : State) (b : Blk) (k v : Nat) : State :=
  match b with
  | .core c => s.updCore c (fun x => { x with pmc := Cells.put (fun _ => 0) x.pmc k v })
  | .field f => { s with fields := Cells.put (fun _ => 0) s.fields (64 * f + 32 + k) v }
  | .shelf j => s.updShelf j (fun x => { x with pmc := Cells.put (fun _ => 0) x.pmc k v })

namespace Ctl
def event (v : Nat) : Nat := bits v 9 0
def mode (v : Nat) : Nat := bits v 11 10
def thresh (v : Nat) : Nat := bits v 31 16
/-- The partition a shelf counter is filtered by. -/
def part (v : Nat) : Option Nat := if bit v 36 then some (bits v 35 32) else none
def en (v : Nat) : Bool := bit v 12
def chain (v : Nat) : Bool := bit v 13
def ovf (v : Nat) : Bool := bit v 14
end Ctl

/-- Adds to a counter: the low 48 bits stay, the carries go on, and OVF is set where no chained successor takes them (R490). -/
def State.countOne (s : State) (b : Blk) (k add : Nat) : State × Nat :=
  let v := s.pmc b k + add
  let chained := decide (k + 1 < b.size) && Ctl.chain (s.ctl b (k + 1))
  let s1 := s.setPmc b k (v % 2 ^ 48)
  (if 2 ^ 48 ≤ v && !chained then s1.setCtl b k (setBit (s1.ctl b k) 14 true) else s1, v / 2 ^ 48)

/-! ## What a block has to count (R492 to R494; log entry 26) -/

/-- Widest value of an event in one cycle (Table 22.4). -/
def eventMax : Nat → Nat
  | 0x020 | 0x021 | 0x022 | 0x023 => 32
  | 0x030 | 0x031 | 0x032 | 0x033 | 0x062 | 0x071 => 64
  | 0x050 => 8 | 0x051 => 16 | 0x052 => 4 | 0x070 => 256 | 0x080 => 2048
  | 0x110 | 0x111 | 0x112 | 0x113 => 2500
  | 0x120 | 0x121 | 0x122 | 0x123 => 3200 | 0x130 | 0x131 => 2200
  | 0x210 | 0x211 | 0x212 | 0x260 => 32
  | 0x220 | 0x221 | 0x222 | 0x223 | 0x240 | 0x241 | 0x250 | 0x251 | 0x270 => 64
  | 0x230 => 4095 | 0x290 => 512
  | _ => 1
/-- Events whose every occurrence a row of the model notes. -/
def noted : List Nat :=
  [0x010, 0x011, 0x020, 0x021, 0x030, 0x031, 0x060, 0x061, 0x062, 0x080, 0x090, 0x091, 0x110, 0x111, 0x112, 0x113, 0x140, 0x240, 0x241, 0x250, 0x251, 0x260]
/-- Fewest cycles in which the noted events of a list can have happened. -/
def cyclesFor (t : Nat → Nat) (es : List Nat) : Nat := es.foldl (fun n e => max n (ceilDiv (t e) (eventMax e))) 0

/-- What a block has to count since its counters were last brought up to date: cycles, and the sum over them of each event's values. -/
structure Totals where
  cycles : Nat
  sum : Nat → Nat

/-- A core: active cycles are as many as its noted slots take, and any number more; each family's slots that nothing retired or wasted are
front- or back-starved (R492). A core that has not been in RUN 1, 2 or 3 has no active cycle. -/
def Core.totals (k : Core) (free : Nat → Nat) : Totals :=
  let t := amount k.tally
  let issued := t 0x010 + t 0x011
  let lanes := t 0x020 + t 0x021
  let live := (1 ≤ k.seq.run && k.seq.run ≤ 3) || !k.tally.isEmpty
  let act := if live then max issued (max (ceilDiv lanes 32) (t 0x1000 + t 0x1001)) + free 0 else 0
  let thr := free 1
  let cyc := max (act + thr + free 2) (cyclesFor t [0x060, 0x061, 0x062, 0x080, 0x090, 0x091])
  let restI := act - issued
  let restM := 32 * act - lanes
  let restV := 64 * (act - t 0x1000) + 16 * t 0x1000 - (t 0x030 + t 0x031)
  ⟨cyc, fun e => match e with
    | 0x000 => cyc
    | 0x001 => thr
    | 0x002 => act
    | 0x012 => free 3 % (restI + 1)
    | 0x013 => restI - free 3 % (restI + 1)
    | 0x022 => free 4 % (restM + 1)
    | 0x023 => restM - free 4 % (restM + 1)
    | 0x032 => free 5 % (restV + 1)
    | 0x033 => restV - free 5 % (restV + 1)
    | e => if noted.contains e then t e else free (16 + e) % (eventMax e * cyc + 1)⟩

/-- A field or a shelf: noted events, and free amounts of the others within their bounds. -/
def blockTotals (t : Nat → Nat) (free : Nat → Nat) (cycleEvent : Nat) : Totals :=
  let cyc := max (free 0) (cyclesFor t noted)
  ⟨cyc, fun e => if e = cycleEvent then cyc else if noted.contains e then t e else free (16 + e) % (eventMax e * cyc + 1)⟩

/-- What a counter adds in its mode (Table 22.3): the sum; the cycles above its threshold, as many as the sum allows; those at most at it;
rises, at most one for each cycle above. -/
def modeAdds (v : Nat) (x : Totals) (fr : Nat) : Nat :=
  let e := Ctl.event v
  let th := Ctl.thresh v
  let lo := ceilDiv (x.sum e - th * x.cycles) (eventMax e - th)
  let hi := min x.cycles (x.sum e / (th + 1))
  let above := if eventMax e ≤ th then 0 else lo + fr % (hi + 1 - lo)
  match Ctl.mode v with
  | 0 => x.sum e
  | 1 => above
  | 2 => x.cycles - above
  | _ => fr % (above + 1)

/-- Totals of a block for a counter of control word `v`: a shelf's by the partition it is filtered by. -/
def State.totals (s : State) (b : Blk) (v : Nat) : Totals :=
  let free := fun i => Config.freeNat (s.freeCtr + i)
  match b with
  | .core c => (s.core c).totals free
  | .field f => blockTotals (fun e => amount s.fieldTally (f * 4096 + e)) free 0x100
  | .shelf j => blockTotals (fun e => match Ctl.part v with
      | some p => if 0x210 ≤ e && e ≤ 0x28F then amount (s.shelf j).tally (e * 16 + p)
          else (List.range 16).foldl (fun n p => n + amount (s.shelf j).tally (e * 16 + p)) 0
      | none => (List.range 16).foldl (fun n p => n + amount (s.shelf j).tally (e * 16 + p)) 0) free 0x200

/-- The notes of a block are used up: a core's issue slots pass into its field's sums, and a core that goes on running has been active. -/
def State.clearTally (s : State) (b : Blk) : State :=
  match b with
  | .core c =>
    let x := s.totals b 0
    let run := (s.core c).seq.run
    let s1 := (List.range 4).foldl (fun s i => s.noteField (c / 2500) (0x110 + i) (x.sum (0x010 + i))) s
    s1.updCore c (fun k => { k with tally := if 1 ≤ run && run ≤ 3 then [(0x1002, 1)] else [] })
  | .field f => { s with fieldTally := s.fieldTally.filter (fun e => e.1 / 4096 != f) }
  | .shelf j => s.updShelf j (fun x => { x with tally := [] })

/-- The enabled counters of a block add what it has to count; a chained one adds the carries of the counter below (R488, R490). Nothing counts
below Active (R495). -/
def State.countBlock (s : State) (b : Blk) : State :=
  if s.power.state != 0 || s.power.off || s.pcie.held then s else
  let s1 := ((List.range b.size).foldl (fun (a : State × Nat) k =>
    let c := s.ctl b k
    if Ctl.chain c && k != 0 then a.1.countOne b k a.2
    else if Ctl.en c then a.1.countOne b k (modeAdds c (s.totals b c) (Config.freeNat (s.freeCtr + 8192 + k)))
    else (a.1, 0)) (s, 0)).1
  { s1.clearTally b with freeCtr := s.freeCtr + 16384 }

/-- Brings the counters of a block up to date; a field's sums take in its cores first. -/
def State.count (s : State) (b : Blk) : State :=
  match b with
  | .field f => ((s.cores.filter (fun e => e.1 / 2500 == f)).foldl (fun s e => s.countBlock (.core e.1)) s).countBlock b
  | b => s.countBlock b
/-- Brings every counter up to date. -/
def State.countAll (s : State) : State :=
  let s1 := s.cores.foldl (fun s e => s.countBlock (.core e.1)) s
  let s2 := (List.range 4).foldl (fun s f => s.countBlock (.field f)) s1
  (List.range 8).foldl (fun s j => s.countBlock (.shelf j)) s2

end Sys2Proof.Machine
end

