-- ==== Sys2Proof/Machine/Scope.lean ====
section
/-!
DEFINITION. Sys2Proof/Machine/Scope.lean: what stopping, resetting and retiring a scope does (R249, R450, R455, R468 to R472, R495).
-/

namespace Sys2Proof.Machine

/-! ## Counter stamps (R489, R495) -/

/-- Clears the stamps of the counters that `hit` names, in every function. -/
def State.clearStamps (s : State) (hit : Nat → Bool) : State :=
  allFns.foldl (fun s f => let x := s.fn f; s.setFn f { x with stamps := x.stamps.filter (fun e => !hit e.1) }) s

/-! ## Core reset (R228, R472, R495) -/

/-- A core after a reset: a core of a partition keeps what its table sides and generations will be rewritten to before it issues, and reads
generation 0 until then; a core of none has lost them (R228, R364). -/
def Core.afterReset (k : Core) (owned : Bool) (ev : Nat) : Core :=
  if owned then { (Core.lostAt ev) with sf := k.sf, cb := k.cb, firn := k.firn, banksDue := true }
  else { (Core.lostAt ev) with
    sf := freeBank k.sf.s0.length (ev + 1), cb := freeBank 8192 (ev + 2), firn := freeBank 2048 (ev + 3) }

/-- A core reset: the core's state is lost, its counters are cleared, and the uncommitted staged values are lost (R9). -/
def State.resetCore (s : State) (c : Nat) : State :=
  let s0 := s.count (.core c)
  let s1 := s0.tick.tick.tick.tick.setCore c ((s0.core c).afterReset (s0.partOf c).isSome s0.freeCtr)
  let s2 : State := { s1 with
    watches := s1.watches.filter (fun w => w.core != c)
    msgs := s1.msgs.filter (fun m => m.src != ⟨0, c⟩ && m.dst != ⟨0, c⟩)
    commit := { s1.commit with staged := [] } }
  s2.clearStamps (fun i => i / 8 == c && decide (i < 80000))

/-! ## Stopping a partition (R450) -/

/-- Every core of the partition stops: RUN 5, with CAUSE 0 but at a core that faulted. Its units apply a pending commit (R480). -/
def State.stopCores (s : State) (p : Nat) : State :=
  let s1 := (geoCores (s.part p).geo).foldl (fun s c => s.updSeq c (fun q =>
    if q.run = 5 then q else { q with run := 5, cause := 0, stall := false, waitFrom := none, selectWait := false, fpWait := false })) s
  (s1.updJob p (fun j => { j with stopped := (s.part p).image.isSome, running := false })).releaseUnits

/-- Whether a region entry belongs to a partition. -/
def Region.ofPart (g : Region) (p : Nat) : Bool := g.valid && g.owner == p

/-- Zeroes the open records of a partition's regions on a shelf (R460). -/
def State.zeroRecords (s : State) (p k : Nat) : State :=
  let sh := s.shelf k
  let mine := fun e => match sh.regions[e]? with | some b => if (regionOf b).ofPart p then some (regionOf b) else none | none => none
  let s1 := sh.glOpen.foldl (fun s o => match mine o.1 with | some g => s.storeF p (g.recAt o.2) (leBytes 64 0) | none => s) s
  sh.ordSeen.foldl (fun s o => match mine o.1 with
    | some g => s.storeF p (g.ordAt o.2.1) (leBytes (16 + 4 * g.expect) 0)
    | none => s) s1
/-- Zeroes the reducer area of a group with instances in progress. -/
def State.zeroBanks (s : State) (p g : Nat) : State :=
  match (s.part p).image with
  | none => s
  | some im => match groupRec im g with
    | none => s
    | some r => match s.member p im r with
      | none => s
      | some me => if Gr.redop r = 0 || Gr.redAddr r = 0 then s
        else s.storeX p (bits (Gr.redAddr r) 39 0) (List.replicate (Gr.window r * bankBytes r me) 0)

/-- Clears the partition's reducer records, early-arrival buffers and instances in progress (R460, R470). -/
def State.clearPart (s : State) (p : Nat) : State :=
  let chans := match (s.part p).image with | some im => im.chans | none => []
  let s0 := (List.range 8).foldl (fun s k => s.zeroRecords p k) s
  let s1 := (List.range 8).foldl (fun s k => s.updShelf k (fun sh =>
    let mine := fun e => match sh.regions[e]? with | some b => (regionOf b).ofPart p | none => false
    { sh with glOpen := sh.glOpen.filter (fun r => !mine r.1), ordSeen := sh.ordSeen.filter (fun r => !mine r.1) })) s0
  let s2 := chans.foldl (fun s v => s.updChan v (fun c => { c with early := [], heldMsgs := [], holdFrom := none, flagWait := false })) s1
  let s3 := (List.range 256).foldl (fun s g => if (s.grp p g).insts.isEmpty then s else (s.zeroBanks p g).updGrp p g (fun x => { x with insts := [] })) s2
  { s3 with msgs := s3.msgs.filter (fun m => m.part != p), watches := s3.watches.filter (fun w => w.part != p) }

/-- Revokes every claim of the partition: each open index is reissued under a new epoch (R225, R455). -/
def State.revokeClaims (s : State) (p : Nat) : State :=
  match (s.part p).image with
  | none => s
  | some im => (s.part p).counters.foldl (fun s n =>
      let s1 := ((s.part p).counter n.1).takenAt.foldl (fun s e =>
        let l := s.ledger p im n.1 e.1
        s.revoke p im n.1 e.1 (bits l 15 2) (bits l 63 32)) s
      s1.updCounter p n.1 (fun q => { q with queue := [], dones := [] })) s

/-- Revokes the claims of one core (R225). -/
def State.revokeCore (s : State) (p c : Nat) : State :=
  match (s.part p).image with
  | none => s
  | some im => (s.part p).counters.foldl (fun s n =>
      let s1 := ((s.part p).counter n.1).takenAt.foldl (fun s e =>
        let l := s.ledger p im n.1 e.1
        if bits l 15 2 = c then s.revoke p im n.1 e.1 c (bits l 63 32) else s) s
      s1.updCounter p n.1 (fun q => { q with queue := q.queue.filter (fun r => r.core != c), dones := q.dones.filter (fun r => r.core != c) })) s

/-- Revokes the leases of the partition's channels: epochs advance at every port, what waits there on them is dropped, and the peers are
told over VC 9 (R290, R455). -/
def State.revokeChans (s : State) (p : Nat) : State :=
  match (s.part p).image with
  | none => s
  | some im => ((List.range 16).foldl (fun s q => s.updPort q (fun x => im.chans.foldl (fun x v => x.updVc v (fun c =>
      { c with epoch := (c.epoch + 1) % 256, out := [], inMsg := [], inOpen := false, unacked := [], heldAcks := [] })) x)) s).tell p

/-- Ends the lock leases of a partition's holders (R454). -/
def State.revokeLocks (s : State) (p : Nat) : State := s.updRcv p (fun r => { r with locks := [] })

/-! ## Retiring an image (R249) -/

/-- What a readmission compares to reuse the KV pool: SLOT_MASK, POOL_PAGES, PL_ENTRIES and where the pool lies, its channel groups last. -/
def poolKey (r : List Byte) (at_ groups : Nat) : List Byte := sub r 64 32 ++ sub r 56 4 ++ sub r 96 4 ++ leBytes 8 at_ ++ leBytes 8 groups
/-- Channel groups that a kept pool lies in. -/
def poolGroups (k : List Byte) : Nat := fld k 48 8
/-- The pool a partition leaves in HBM when its image goes. -/
def Partition.poolLeft (x : Partition) : Option (List Byte) :=
  match x.image with | some im => some (poolKey im.req (im.region 6) x.geo.groups) | none => x.kvKept
/-- A partition whose record is gone: what HBM keeps of its pool stays (R188, R472). -/
def Partition.afterRemoval (x : Partition) : Partition := { kvKept := x.poolLeft, pinUnits := x.pinUnits }
/-- Kept pools that touch channel groups whose contents are lost or given away are no longer intact. -/
def State.loosePools (s : State) (but groups : Nat) : State :=
  (List.range 16).foldl (fun s p =>
    if p != but && (match (s.part p).kvKept with | some k => poolGroups k &&& groups != 0 | none => false) then
      s.updPart p (fun x => { x with kvKept := none, pinUnits := [] }) else s) s

/-- Completes every run request and sequence-table command of a partition, its freeze and its weight load with a status. -/
def State.endPending (s : State) (p status : Nat) : State :=
  let j := (s.part p).job
  let qs := j.requests ++ j.opened.toList ++ j.ending.map (fun e => e.1)
  let s1 := qs.foldl (fun s q => s.completeIf q.fn q.slot q.post status 0 []) s
  let s2 := s1.updJob p (fun j => { j with requests := [], opened := none, ending := [] })
  let s3 := match (s2.part p).fz.cmd with
    | some q => s2.completeIf q.1 q.2.1 q.2.2 status 0 []
    | none => s2
  let s4 := s3.updPart p (fun x => { x with fz := { x.fz with armed := false, at_ := 0, cmd := none } })
  s4.endLoad p status 0 true

/-- A core whose image is gone: idle, its armed tables switched (R364). -/
def Core.endImage (k : Core) : Core := (k.switchTables (2 ^ 64)).vacate

/-- A collective channel returned to the pool; its counts stay (Table 14.10). -/
def Channel.release (c : Channel) : Channel :=
  { skewReports := c.skewReports, holds := c.holds, dropped := c.dropped, flags := c.flags, satCount := c.satCount }

/-- Retires the image of a partition: every reservation returns and what still waits on it completes with `status`. -/
def State.retireImage (s : State) (p status : Nat) : State :=
  match (s.part p).image with
  | none => s
  | some im =>
    let s1 := ((s.endPending p status).closeSessions p Config.stSessionState).clearPart p
    let s2 := (geoCores (s1.part p).geo).foldl (fun s c => s.updCore c Core.endImage) s1
    let s3 := im.chans.foldl (fun s v => s.updChan v Channel.release) s2
    let s4 := (List.range 256).foldl (fun s g => s.setGrp p g {}) s3
    let s5 := (List.range 8).foldl (fun s k => s.updShelf k (fun sh =>
      { sh with
        regions := sh.regions.map (fun b => if (regionOf b).ofPart p then List.replicate b.length 0 else b)
        cache := sh.cache.map (fun l => if bits sh.wayOwner (4 * l.way + 3) (4 * l.way) = p then { l with pinned := false } else l) })) s4
    (s5.updPart p (fun x => { x with
      image := none
      job := { lastFault := x.job.lastFault, history := x.job.history }
      fz := { status := x.fz.status }
      ws := { lastStatus := x.ws.lastStatus, crcFails := x.ws.crcFails, loadId := x.ws.loadId }
      rcv := { fenced := x.rcv.fenced, rollbacks := x.rcv.rollbacks }
      counters := []
      ranks := none
      kvKept := x.poolLeft })).releaseUnits

/-- Removes a partition: image, sessions, ways and definition; its ownership lease ends (R356, R455). -/
def State.removePart (s : State) (p status : Nat) : State :=
  let s1 := (s.retireImage p status).closeSessions p Config.stSessionState
  let s2 := (List.range 8).foldl (fun s k => s.applyWays k p 0) s1
  (s2.reroute (s.part p).geo).setPart p { (s2.part p).afterRemoval with geo := { ownGen := ((s.part p).geo.ownGen + 1) % 65536 } }

end Sys2Proof.Machine
end

