-- ==== Sys2Proof/Machine/Freeze.lean ====
section
/-!
DEFINITION. Sys2Proof/Machine/Freeze.lean: freeze areas, freeze and thaw (R366 to R374), recovery points, rollback, checkpoints and
drains (R459 to R466), contained faults and STOP (R450, R451).
-/

namespace Sys2Proof.Machine

/-! ## The freeze area (R373, R374) -/

/-- LIVE_TOP, CORE_AREA, NCORES and the bytes of a copy. -/
def liveTop (b : List Byte) : Nat := (tpRecords b 0x07).foldl (fun m r => max m (fld r 4 4)) 0
def coreArea (b : List Byte) : Nat := 9216 + 4096 * ceilDiv (liveTop b) 4096
def nCores (b : List Byte) : Nat := tpBlocks b * 100
def copyBytes (b : List Byte) : Nat := 4096 + nCores b * coreArea b
/-- Interleaved offset of a copy. -/
def copyAt (im : Image) (copy : Nat) : Nat := im.region 9 + copy * copyBytes im.bytes
/-- Interleaved offset of contract core `k`'s area. -/
def areaAt (im : Image) (copy k : Nat) : Nat := copyAt im copy + 4096 + k * coreArea im.bytes

/-- VFLAGS (Table 6.5). -/
def Fl.vflags (f : Fl) : Nat := f.bits3 + 8 * b2n f.rowEmpty + 16 * b2n f.varClamp + 65536 * min f.sat 0xFFFF
/-- The flags a saved VFLAGS word gives. -/
def flOfVflags (v : Nat) : Fl := ⟨bit v 0, bit v 1, bit v 2, bit v 3, bit v 4, bits v 31 16⟩

/-- Bytes an entry of a live-range list takes when saved, and rounded up to 64 (R368). -/
def liveSize (e : List Byte) : Nat := if fbits e 0 21 20 = 2 then fbits e 4 20 0 / 8192 * 8448 else fbits e 4 20 0
def liveRoom (e : List Byte) : Nat := ceilDiv (liveSize e) 64 * 64

/-- One vector register: 8,192 bytes of elements, then 256 bytes of pad bits. -/
def VeState.regBytes (v : VeState) (r : Nat) : List Byte :=
  ((List.range 2048).map (fun i => leBytes 4 (v.elem r i).bits)).flatten
    ++ (List.range 256).map (fun b => BitVec.ofNat 8 ((List.range 8).foldl (fun a j => a + b2n (v.elem r (8 * b + j)).pad * 2 ^ j) 0))

/-- The saved bytes of a live range, rounded up to 64. -/
def Core.liveBytes (k : Core) (e : List Byte) : List Byte :=
  let base := fbits e 0 19 0
  let raw := match fbits e 0 21 20 with
    | 0 => k.ts.readN base (fbits e 4 20 0)
    | 1 => k.ob.readN base (fbits e 4 20 0)
    | _ => ((List.range (fbits e 4 20 0 / 8192)).map (fun i => k.ve.regBytes (base / 8192 + i))).flatten
  sub raw 0 (liveRoom e)

/-- An entry of LOOPS. -/
def LoopFrame.bytes (l : LoopFrame) : List Byte := leBytes 4 (16 * l.start) ++ leBytes 4 l.body ++ leBytes 4 l.count ++ leBytes 4 l.iter
def loopOf (b : List Byte) : LoopFrame := ⟨fld b 0 4 / 16, fbits b 4 19 0, fld b 8 4, fld b 12 4⟩

/-- The control record (Table 16.8) of a core with the live bytes and entries it saves. -/
def Core.control (k : Core) (live count : Nat) : List Byte :=
  let q := k.seq
  leBytes 8 (16 * q.pc) ++ leBytes 8 q.curBeat ++ leBytes 4 q.winM1 ++ leBytes 4 q.pass ++ leBytes 8 q.fpCount
    ++ sub (q.loops.reverse.map LoopFrame.bytes).flatten 0 64 ++ leBytes 32 k.ready ++ leBytes 4 k.ve.flags.vflags ++ leBytes 4 live
    ++ leBytes 4 count ++ leBytes 4 k.sf.gen ++ leBytes 4 k.cb.gen ++ leBytes 4 k.firn.gen
    ++ leBytes 4 (k.sf.side + 2 * k.cb.side + 4 * k.firn.side)

/-- The header of a copy (Table 16.7). -/
def copyHeader (st seq fpId fp beat bucket : Nat) (selected : Bool) (vars : List Nat) (n area next dtb : Nat) : List Byte :=
  sub (leBytes 4 0x315A5246 ++ leBytes 4 st ++ leBytes 8 seq ++ leBytes 8 fpId ++ leBytes 8 fp ++ leBytes 8 beat
    ++ leBytes 4 (bucket + 64 * b2n selected) ++ ((List.range 8).map (fun i => leBytes 4 (vars.getD i 0))).flatten
    ++ leBytes 4 n ++ leBytes 4 area ++ leBytes 4 next ++ leBytes 8 dtb) 0 4096

/-- Header of a copy as it stands in HBM. -/
def State.copyHead (s : State) (p : Nat) (im : Image) (copy : Nat) : List Byte := s.readX (s.part p).geo (copyAt im copy) 96
/-- Whether a copy is complete. -/
def copyDone (h : List Byte) : Bool := fld h 0 4 == 0x315A5246 && fbits h 4 1 0 == 2

/-! ## Saving (R370) -/

/-- One core writes its fixed part and its live ranges; nothing is written past its area. -/
def State.saveCore (s : State) (p : Nat) (im : Image) (copy : Nat) (selected : Bool) (k c : Nat) : State :=
  let q := s.core c
  let es := if selected then (s.liveList (s.part p).geo q.seq.liveList.1 q.seq.liveList.2).getD [] else []
  let live := (es.map q.liveBytes).flatten
  s.writeX p (areaAt im copy k)
    ((sub (q.control live.length es.length) 0 1024 ++ q.desc.readN 0 8192 ++ live).take (coreArea im.bytes))

/-- Places of the instruction words that some bucket's patches write (R117, R120). -/
def patchedWords (im : Image) : List Nat :=
  ((tpRecords im.bytes 0x03).map (fun r => (bucketPatches im.bytes r).filterMap (fun q =>
    let i := fld r 4 4 / 16 + fbits q 4 19 0
    let st := im.stream (fbits q 0 15 0)
    if fbits q 0 19 16 ≤ 1 || st.2 ≤ i then none else some (st.1 + 16 * i)))).flatten.eraseDups

/-- What the model keeps beside the copy (log entry 18). -/
def State.savedNow (s : State) (p : Nat) (im : Image) : Saved :=
  let cs := (s.imageCores p).zipIdx
  { recv := (cs.map (fun e => (e.2, (s.core e.1).seq.recv))).filter (fun e => !e.2.isEmpty)
    variants := (cs.map (fun e => (e.2, (s.core e.1).seq.variants))).filter (fun e => !e.2.isEmpty)
    units := (s.part p).job.units
    voteAt := (cs.map (fun e => (e.2, (s.core e.1).seq.voteAt))).filter (fun e => e.2 != 0)
    votes := (s.part p).job.votes
    patched := (patchedWords im).map (fun x => (x, s.readX (s.part p).geo x 16)) }

/-! ## Thaw (R372) -/

/-- Puts live bytes back, entry by entry. -/
def Core.restoreLive : List (List Byte) → List Byte → Core → Core
  | [], _, k => k
  | e :: r, b, k =>
    let base := fbits e 0 19 0
    let n := fbits e 4 20 0
    let k2 := match fbits e 0 21 20 with
      | 0 => { k with ts := k.ts.writeN base (b.take n) }
      | 1 => { k with ob := k.ob.writeN base (b.take n) }
      | _ =>
        let ve := (List.range (n / 8192)).foldl (fun v i => (List.range 2048).foldl (fun v j =>
          let x : VElem := ⟨fld b (8448 * i + 4 * j) 4, bit (fld b (8448 * i + 8192 + j / 8) 1) (j % 8)⟩
          v.setElem (base / 8192 + i) j x) v) k.ve
        { k with ve := ve }
    Core.restoreLive r (b.drop (liveRoom e)) k2

/-- One core reads its fixed part and live ranges back; what no live range covers holds unspecified values (R368). -/
def State.thawCore (s : State) (p : Nat) (im : Image) (copy : Nat) (selected : Bool) (k c : Nat) : State :=
  let g := (s.part p).geo
  let r := s.readX g (areaAt im copy k) 1024
  let d := s.readX g (areaAt im copy k + 1024) 8192
  let q := s.core c
  let sv := if copy = 0 then (s.part p).fz.saved0 else (s.part p).fz.saved1
  let pc := fld r 0 4 / 16
  let w := (s.fetch p im k (pc - 1)).getD 0
  let es := if selected then (s.liveList g (bits w 59 20) (bits w 75 60)).getD [] else []
  let live := s.readX g (areaAt im copy k + 9216) (fld r 132 4)
  let loops := ((List.range 4).map (fun i => loopOf (sub r (32 + 16 * i) 16))).filter (fun l => l.body != 0)
  let seq : Seq := {
    run := if selected then 1 else 3
    winM1 := fbits r 16 3 0
    curBeat := fld r 8 6
    pc := pc
    loops := loops.reverse
    variants := Cells.get (fun _ => []) sv.variants k
    recv := if q.seq.run != 6 then Cells.get (fun _ => []) sv.recv k else q.seq.recv
    pass := fld r 20 4
    voteAt := Cells.get (fun _ => 0) sv.voteAt k
    fpCount := fld r 24 8
    fpId := q.seq.fpId
    selectWait := !selected }
  let ev := s.freeCtr
  let fresh : Core := { q with
    seq := seq
    banksDue := false
    tally := addAt q.tally 0x1002 1
    claims := [{}, {}, {}, {}]
    mu := { deepReplays := q.mu.deepReplays, fails := q.mu.fails, lost := q.mu.lost }
    ve := { vrLost := some ev, flags := flOfVflags (fld r 128 4) }
    sf := { q.sf with side := fbits r 152 0 0, gen := fld r 140 4 }
    cb := { q.cb with side := fbits r 152 1 1, gen := fld r 144 4 }
    firn := { q.firn with side := fbits r 152 2 2, gen := fld r 148 4 }
    ts := ({} : Mem).lose 0 Config.tsBytes ev
    ob := ({} : Mem).lose 0 Config.obBytes (ev + 1)
    desc := ({} : Mem).writeN 0 d
    ready := fld r 96 32 }
  s.tick.tick.setCore c ((Core.restoreLive es live fresh).link im (s.part p).geo k)

/-- The instruction words that patches had written at the freeze return (R120). -/
def State.restorePatched (s : State) (p : Nat) (ws : List (Nat × List Byte)) : State := ws.foldl (fun s e => s.writeP p e.1 e.2) s

/-- Thaws a partition from a copy: contract cores map onto the blocks it now holds, bucket, variables and patches return, every core
resumes. -/
def State.thawFrom (s : State) (p : Nat) (im : Image) (copy : Nat) : State :=
  let h := s.copyHead p im copy
  let selected := fbits h 40 6 6 = 1
  let s0 := s.restorePatched p (if copy = 0 then (s.part p).fz.saved0 else (s.part p).fz.saved1).patched
  let s1 := (s.imageCores p).zipIdx.foldl (fun s e => s.thawCore p im copy selected e.2 e.1) s0
  let left := s1.leftNow p im
  let s2 := s1.updJob p (fun j => { j with
    running := true
    started := true
    halted := false
    stopped := false
    frozen := false
    bucket := fbits h 40 5 0
    vars := (List.range 8).map (fun i => fld h (44 + 4 * i) 4)
    nextRequest := fld h 84 4
    leftTs := left.1
    leftHbm := left.2 })
  (s2.updPart p (fun x => { x with fz := { x.fz with status := Config.stOk } })).updRcv p (fun r => { r with state := 0 })

/-! ## Checkpoint planning (R463, R375) -/

/-- The bound of R375 in ns. -/
def State.freezeBound (s : State) (p : Nat) (im : Image) : Nat :=
  let gap := (tpRecords im.bytes 0x07).foldl (fun m r => max m (fld r 8 4)) 0
  let wit := (tpRecords im.bytes 0x07).foldl (fun m r => max m (fld r 12 4)) 0
  10000 + (gap + wit) * 1000 / max 1 s.power.fieldMhz + nCores im.bytes * (9216 + liveTop im.bytes) / (max 1 (geoG (s.part p).geo) * 32)

/-- `ckpt_plan`: 0 at admission, 1 after a failure, 2 after a checkpoint. C and M are held in ns (log entry 19). -/
def State.ckptPlan (s : State) (p : Nat) (im : Image) (event : Nat) : State :=
  let r := (s.part p).rcv
  let dt := s.dtb - max r.admitDtb r.failDtb
  let m := if event = 1 || (event = 2 && decide (r.mtbf < dt)) then (3 * r.mtbf + dt) / 4 else r.mtbf
  let c := if r.pauses.isEmpty then s.freezeBound p im else r.pauses.foldl (fun a b => a + b) 0 / r.pauses.length
  let i := min (max (isqrt 80 (2 * c * m)) 60000000000) 14400000000000
  s.updRcv p (fun r => { r with mtbf := m, ckptInterval := i, ckptNext := s.dtb + i, failDtb := if event = 1 then s.dtb else r.failDtb })

/-! ## PARTITION_FREEZE (R370, R371, R459) -/

/-- Commits the beats below `b` that may commit. -/
def State.commitTo (s : State) (p : Nat) (im : Image) (b : Nat) : Nat → State
  | 0 => s
  | n + 1 =>
    let k := (s.part p).job.nextCommit
    if k < b && s.mayCommit p im k then ((s.updJob p (fun j => { j with nextCommit := k + 1 })).commitAppends p im k).commitTo p im b n else s

/-- Whether a freeze-point record lies in beat `b` (Table 16.5). -/
def fpBeat (im : Image) (b : Nat) (r : List Byte) : Bool :=
  let per := tpBeatsPerIter im.bytes
  if fbits r 16 48 48 = 1 && per != 0 then b % per == fld r 16 6 % per else b == fld r 16 6

/-- The point a partition is ready to freeze at: FP_COUNT, FP_ID, and whether a request has been selected (R370, R371). -/
def State.freezeReady (s : State) (p : Nat) (im : Image) : Option (Nat × Nat × Bool) :=
  let cs := (s.imageCores p).map s.core
  let fz := (s.part p).fz
  match cs with
  | [] => none
  | k :: _ =>
    if !cs.all (fun k => k.mu.witq.isEmpty && k.quiet) then none
    else if cs.all (fun k => k.seq.fpWait) then some (k.seq.fpCount, k.seq.fpId, true)
    else if fz.armed && cs.all (fun k => k.seq.selectWait) && (s.part p).job.requests.isEmpty && (fz.at_ == 0 || fz.at_ == k.seq.fpCount + 1) then
      ((tpRecords im.bytes 0x07).find? (fpBeat im k.seq.curBeat)).map (fun r => (k.seq.fpCount, fbits r 0 11 0, false))
    else none

/-- Each group's S and completed instance, plus 1 (R328). -/
def State.groupMarks (s : State) (p : Nat) : List (Nat × Nat × Nat) :=
  ((List.range 256).map (fun g => (g, (match (s.grp p g).started with | some n => n + 1 | none => 0),
    (match (s.grp p g).completed with | some n => n + 1 | none => 0)))).filter (fun e => e.2.1 != 0 || e.2.2 != 0)

/-- Writes the copy and freezes every core (R370, steps 2 and 3); the copy and the calved regions make a recovery point (R459, R464). -/
def State.save (s : State) (p : Nat) (im : Image) (fp fpId : Nat) (selected isCkpt : Bool) : State :=
  let x := s.part p
  let copy := if x.fz.seq = 0 then 0 else 1 - x.fz.copy
  let beat := s.topBeat p
  let head := fun st => copyHeader st (x.fz.seq + 1) fpId fp beat x.job.bucket selected x.job.vars (nCores im.bytes) (coreArea im.bytes)
    x.job.nextRequest s.dtb
  let s1 := s.writeX p (copyAt im copy) (head 1)
  let s2 := (s1.imageCores p).zipIdx.foldl (fun s e => s.saveCore p im copy selected e.2 e.1) s1
  let s3 := s2.writeX p (copyAt im copy) (head 2)
  let s4 := (s3.imageCores p).foldl (fun s c => s.updSeq c (fun q => { q with run := 6, stall := false, fpWait := false, waitFrom := none })) s3
  let q : RecPoint := {
    fp := fp
    beat := beat
    copy := copy
    nextRequest := x.job.nextRequest
    groups := s.groupMarks p
    isCkpt := isCkpt
    opened := x.job.opened
    ending := x.job.ending
    landed := x.job.landed
    pinUnits := x.pinUnits }
  let sv := s.savedNow p im
  let keep := if tpModules im.bytes ≤ 1 then [] else x.rcv.points.filter (fun t => t.copy != copy)
  (s4.updPart p (fun x => { x with
    job := { x.job with frozen := true, running := false }
    fz := { x.fz with
      copy := copy
      seq := x.fz.seq + 1
      status := Config.stOk
      saved0 := if copy = 0 then sv else x.fz.saved0
      saved1 := if copy = 1 then sv else x.fz.saved1 }
    rcv := { x.rcv with points := keep ++ [q], rpBeat := beat } })).releaseUnits

/-- Whether a byte of a copy lies in a fenced pseudo-channel: a save into it fails (R269, R373). -/
def State.copyFenced (s : State) (p : Nat) (im : Image) (copy : Nat) : Bool :=
  (List.range 8).any (fun k => (s.shelf k).pcFenced != 0)
    && (List.range (copyBytes im.bytes / 256 + 2)).any (fun i =>
      s.fencedX p (min (copyAt im copy / 256 * 256 + 256 * i) (copyAt im copy + copyBytes im.bytes - 1)))

/-- A checkpoint's pause is measured, the next one planned (R463). -/
def State.ckptDone (s : State) (p : Nat) (im : Image) : State :=
  (s.updRcv p (fun r => { r with
    ckptAt := 0
    lastPause := (s.dtb - r.pauseFrom) / 1000
    pauses := ((s.dtb - r.pauseFrom) :: r.pauses).take 4 })).ckptPlan p im 2

/-- The freeze command of a partition completes. -/
def State.freezeDone (s : State) (p status ended : Nat) : State :=
  let s1 := match (s.part p).fz.cmd with
    | some q => s.completeIf q.1 q.2.1 q.2.2 status 0 (leBytes 4 ended)
    | none => s
  s1.updPart p (fun x => { x with fz := { x.fz with armed := false, at_ := 0, cmd := none, status := status } })

/-- PARTITION_FREEZE: a partition whose cores all wait at the target freeze point, witnesses drained and the beat before the point
committed, is saved; a copy that cannot be written whole stays incomplete and the freeze ends with the fault's status. A freeze command leaves it frozen; a request point or a checkpoint thaws at once. A partition that halts before its
target reports ENDED. -/
def execPartitionFreeze (p : Nat) (s : State) : R :=
  if 16 ≤ p then .fault .noSuchUnit else
  match (s.part p).image with
  | none => .next s
  | some im =>
    let x := s.part p
    if x.job.frozen || x.job.stopped || s.memHeld p then .next s
    else if x.fz.armed && s.allHalted p then .next (s.freezeDone p Config.stOk 1)
    else match s.freezeReady p im with
      | none => .next s
      | some (fp, fpId, selected) =>
        let s1 := s.commitTo p im (s.topBeat p) (s.topBeat p + 1 - x.job.nextCommit)
        if (s1.part p).job.nextCommit < s1.topBeat p then .next s else
        let into := if x.fz.seq = 0 then 0 else 1 - x.fz.copy
        if s1.copyFenced p im into then
          let s2 := s1.writeX p (copyAt im into + 4) (leBytes 4 1)
          let s3 := (s2.imageCores p).zipIdx.foldl (fun s e => s.saveCore p im into selected e.2 e.1) s2
          .next (s3.freezeDone p Config.stHbmFenced 0)
        else
        let byCmd := x.fz.armed && (!selected || x.fz.at_ == fp)
        let byCkpt := selected && x.rcv.ckptAt == fp && fp != 0
        let s2 := s1.save p im fp fpId selected byCkpt
        let s3 := if byCmd then s2.freezeDone p Config.stOk 0 else s2.thawFrom p im (s2.part p).fz.copy
        .next (if byCkpt then s3.ckptDone p im else s3)

/-! ## THAW and FREEZE (R369, R372) -/

/-- The complete copy with the higher SEQ. -/
def State.bestCopy (s : State) (p : Nat) (im : Image) : Option Nat :=
  let a := s.copyHead p im 0
  let b := s.copyHead p im 1
  match copyDone a, copyDone b with
  | true, true => some (if fld a 8 8 < fld b 8 8 then 1 else 0)
  | true, false => some 0
  | false, true => some 1
  | false, false => none

/-- The refusal of a thaw, or the copy it reads. -/
def State.thawCheck (s : State) (p : Nat) (im : Image) : Except Nat Nat :=
  if !(s.part p).job.frozen then .error Config.stNotFrozen
  else if countBits (s.part p).geo.blocks 100 < tpBlocks im.bytes then .error Config.stNoCores
  else match s.bestCopy p im with
    | none => .error Config.stFreezeArea
    | some c => if fld (s.copyHead p im c) 76 4 = nCores im.bytes then .ok c else .error Config.stFreezeArea

/-- THAW. -/
def execThaw (f : Fn) (n : Nat) (s : State) : R :=
  command 0x0207 f n s (fun q s =>
    match (s.part q.part).image with
    | none => s.complete f n Config.stNotFrozen 0 []
    | some im =>
      match s.thawCheck q.part im with
      | .error st => (s.updPart q.part (fun x => { x with fz := { x.fz with status := st } })).complete f n st 0 []
      | .ok c => (s.thawFrom q.part im c).complete f n Config.stOk 0 [])

/-- The refusal of a freeze at AT_FP, if any (R369); a re-armed target must be larger. -/
def State.freezeRefusal (s : State) (p : Nat) (im : Image) (at_ : Nat) : Option Nat :=
  let x := s.part p
  if x.job.frozen then some Config.stPartitionBusy
  else if at_ = 0 && tpModules im.bytes != 1 then some Config.stBadField
  else if at_ != 0 && (s.imageCores p).any (fun c => decide (at_ ≤ (s.core c).seq.fpCount)) then some Config.stFreezePassed
  else if x.fz.armed && at_ ≤ x.fz.at_ then some Config.stBadField
  else none

/-- FREEZE: arms a freeze at AT_FP, or re-arms one with a larger target; the command it replaces completes with it (R369). FREEZE_STATUS
shows a refusal, as it does for THAW (log entry 18). -/
def execFreeze (f : Fn) (n : Nat) (s : State) : R :=
  command 0x0F01 f n s (fun q s =>
    let x := s.part q.part
    let at_ := fld q.payload 0 8
    match x.image with
    | none => s.complete f n Config.stNoImage 0 []
    | some im =>
      match s.freezeRefusal q.part im at_ with
      | some st => (s.updPart q.part (fun x => { x with fz := { x.fz with status := st } })).complete f n st 0 []
      | none =>
        let s1 := match x.fz.cmd with
          | some c => s.completeIf c.1 c.2.1 c.2.2 Config.stOk 0 (leBytes 4 0)
          | none => s
        s1.updPart q.part (fun x => { x with fz := { x.fz with armed := true, at_ := at_, cmd := some (f, n, q.postDtb) } }))

/-! ## Rollback (R460, R461) -/

/-- Restores every granule copied since the point: copies of newer points first, the point's own last (R464). -/
def State.restoreCalf (s : State) (p : Nat) (qs : List RecPoint) : State :=
  qs.reverse.foldl (fun s q => q.calf.foldl (fun s e => s.writeX p (e.1 * 4096) e.2) s) s
/-- Puts back what stood under results of output areas whose beat has not committed, newest first (R319). -/
def State.unland (s : State) (p : Nat) (ls : List Landed) : State := ls.reverse.foldl (fun s l => s.writeP p l.place l.old) s

/-- The groups of a partition return to the marks of a point (R328). -/
def State.setMarks (s : State) (p : Nat) (q : RecPoint) : State :=
  (List.range 256).foldl (fun s g =>
    match q.groups.find? (fun e => e.1 == g) with
    | none => s.setGrp p g {}
    | some (_, a, b) => s.setGrp p g { started := if a = 0 then none else some (a - 1), completed := if b = 0 then none else some (b - 1) }) s

/-- Rolls a partition back to a point and leaves it frozen there; a newer complete copy is no longer one (R373). -/
def State.rollTo (s : State) (p : Nat) (im : Image) (q : RecPoint) : State :=
  let newer := (s.part p).rcv.points.dropWhile (fun t => t != q)
  let s1 := (((s.stopCores p).revokeClaims p).revokeChans p).revokeLocks p
  let s2 := (s1.clearPart p).setMarks p q
  let s3 := (geoCores (s2.part p).geo).foldl (fun s c => s.resetCore c) s2
  let s4 := (((s3.unland p (s.part p).job.landed).restoreCalf p newer).unland p q.landed).answer
  let other := 1 - q.copy
  let s5 := if newer.length ≤ 1 then s4 else s4.writeX p (copyAt im other + 4) (leBytes 4 0)
  let sv := if q.copy = 0 then (s5.part p).fz.saved0 else (s5.part p).fz.saved1
  let s6 := (s5.imageCores p).zipIdx.foldl (fun s e => s.updSeq e.1 (fun r => { r with
    run := 6
    recv := Cells.get (fun _ => []) sv.recv e.2 })) s5
  let s7 := s6.updPart p (fun x => { x with
    job := { x.job with
      running := false
      frozen := true
      nextCommit := q.beat
      requests := q.taken ++ x.job.requests
      opened := q.opened
      ending := q.ending
      nextRequest := q.nextRequest
      witFail := []
      appends := []
      landed := []
      units := sv.units
      votes := sv.votes }
    pinUnits := q.pinUnits
    fz := { x.fz with copy := q.copy }
    rcv := { x.rcv with
      rollbacks := satAdd 0xFF x.rcv.rollbacks 1
      rpBeat := q.beat
      points := x.rcv.points.takeWhile (fun t => t != q) ++ [{ q with taken := [] }] } })
  s7.ckptPlan p im 1

/-- Marks a lost rank absent in the rank table (R466). -/
def State.markAbsent (s : State) (p : Nat) : State :=
  match (s.part p).rcv.lost with
  | none => s
  | some r => s.updPart p (fun x => { x with
      ranks := x.ranks.map (fun t => t.set r 0x3FFF)
      rcv := { x.rcv with absent := some r, lost := none } })

/-- ROLLBACK: the escrow core rolls a partition stopped by a contained fault back to the point at FP_COUNT `fp` that the ranks agree on
and thaws it. After three rollbacks to one point it is left frozen, and the last cause is reported. -/
def execRollback (p fp : Nat) (s : State) : R :=
  if 16 ≤ p then .fault .noSuchUnit else
  let x := s.part p
  match x.image, (x.rcv.points.filter (fun q => q.fp == fp && (!x.rcv.replaced || q.isCkpt))).getLast? with
  | some im, some q =>
    let top := x.rcv.points.foldl (fun m t => max m t.fp) 0
    if s.memHeld p || !x.job.stopped || x.job.frozen || x.rcv.state != 1 || (tpModules im.bytes ≤ 1 && fp != top) then .next s else
    let times := (x.rcv.ledger.filter (fun e => e.1 == fp)).length
    let s1 := (s.rollTo p im q).updRcv p (fun r => { r with
      ledger := r.ledger ++ [(fp, x.job.lastFault, s.dtb)]
      replaced := false })
    let s2 := s1.markAbsent p
    if 3 ≤ times then
      .next ((s2.updRcv p (fun r => { r with state := 3 })).event { status := x.job.lastFault, part := p })
    else .next (s2.thawFrom p im q.copy)
  | _, _ => .next s

/-! ## CONTAINED_FAULT and STOP (R450, R451, R466) -/

/-- Tells every other rank over VC 9, directly or over the lowest live port; the message's layout is not given (log entry 14). -/
def State.announce (s : State) (p : Nat) : State :=
  match (s.part p).image, (s.part p).ranks with
  | some im, some ts =>
    if tpModules im.bytes ≤ 1 then s else
    ts.foldl (fun s t =>
      if t == s.time.position % 2 ^ 14 || t == 0x3FFF then s else
      let relay := (List.range 16).find? (fun q => (s.port q).up)
      match (match s.portTo t with | some q => some q | none => relay) with
      | none => s
      | some q => (s.sendMsg q 9 0 (Config.faultPayload s.freeCtr)).tick) s
  | _, _ => s

/-- The rank that a port's peer holds. -/
def State.rankAt (s : State) (p port : Nat) : Option Nat :=
  match (s.part p).ranks, (s.port port).peer with
  | some ts, some q => (ts.zipIdx.find? (fun t => posRack t.1 == q.rack && posTray t.1 == q.tray && posSlot t.1 == q.slot && t.1 != 0x3FFF)).map (fun t => t.2)
  | _, _ => none

/-- The record of a contained fault is written, and joins the history of 16. -/
def State.recordFault (s : State) (p status detail beat src : Nat) : State :=
  let e : Event := { status := status, part := p, srcKind := src / 65536, src := src % 65536, detail := detail, beat := beat }
  (s.updJob p (fun j => { j with lastFault := status, history := (j.history ++ [e.bytes s.dtb]).drop (j.history.length - 15) })).event e

/-- A partition stops on a contained fault: cores, the claims of every core that faulted (R225), ranks, REC_STATE. -/
def State.contain (s : State) (p : Nat) (im : Image) (status detail beat src : Nat) : State :=
  let s1 := (s.stopCores p).recordFault p status detail beat src
  let s2 := ((s.imageCores p).filter (fun c => (s.core c).seq.run == 5)).foldl (fun t c => t.revokeCore p c) s1
  let lost := if status = Config.stPeerLost && src / 65536 = 2 then s.rankAt p detail else none
  let tolerant := (tpRecords im.bytes 0x06).all Gr.dropTol
  let st := if lost.isSome && !tolerant then 5 else if (s2.part p).rcv.points.isEmpty then 4 else 1
  s2.updRcv p (fun r => { r with state := st, lost := if tolerant then lost else none })

/-- CONTAINED_FAULT: root firmware takes the oldest report of a partition, or another rank's announcement where the rank
has not stopped for a fault of its own, and stops the partition. -/
def execContainedFault (p : Nat) (announced : Bool) (s : State) : R :=
  if 16 ≤ p then .fault .noSuchUnit else
  match (s.part p).image, (s.part p).job.reports with
  | some im, r :: rest =>
    .next ((s.updJob p (fun j => { j with reports := rest })).contain p im r.1 r.2.1 r.2.2.1 r.2.2.2 |>.announce p)
  | some im, [] =>
    if announced && tpModules im.bytes != 1 && !(s.part p).job.stopped then .next (s.contain p im Config.stPeerLost 0 0xFFFFFFFFFFFF (5 * 65536)) else .next s
  | none, _ => .next (s.updJob p (fun j => { j with reports := j.reports.drop 1 }))

/-- STOP: the partition stops without a fault record, rolls back to its latest point and stays frozen there; without one it stays
stopped. -/
def execStop (f : Fn) (n : Nat) (s : State) : R :=
  command 0x0F00 f n s (fun q s =>
    match (s.part q.part).image with
    | none => s.complete f n Config.stNoImage 0 []
    | some im =>
      let cs := geoCores (s.part q.part).geo
      let s1 := cs.foldl (fun s c => s.updSeq c (fun r => { r with cause := 0 })) (s.stopCores q.part)
      let s2 := match (s1.part q.part).rcv.points.getLast? with
        | some t => s1.rollTo q.part im t
        | none => s1
      (s2.updRcv q.part (fun r => { r with state := 1 })).complete f n Config.stOk 0 [])

/-! ## Checkpoints and drains (R463, R465) -/

/-- CHECKPOINT_DUE: rank 0 proposes its FP_COUNT + 4, or the largest answer of a rank that has passed that, plus 4; at another rank
`answers` holds the point that rank 0 proposes. -/
def execCheckpointDue (p : Nat) (answers : List Nat) (s : State) : R :=
  if 16 ≤ p then .fault .noSuchUnit else
  let x := s.part p
  match x.image with
  | none => .next s
  | some im =>
    if !x.job.running || x.rcv.ckptAt != 0 then .next s else
    let own := (s.imageCores p).foldl (fun m c => max m (s.core c).seq.fpCount) 0
    if s.rank p im = some 0 then
      if x.rcv.ckptNext = 0 || s.dtb < x.rcv.ckptNext then .next s else
      let past := answers.filter (fun a => decide (own + 4 ≤ a))
      .next (s.updRcv p (fun r => { r with ckptAt := if past.isEmpty then own + 4 else past.foldl max 0 + 4 }))
    else match answers with
      | a :: _ => if own < a then .next (s.updRcv p (fun r => { r with ckptAt := a })) else .next s
      | [] => .next s

/-- Granules of regions 1, 3 and 6. -/
def calvedGranules (im : Image) : List Nat :=
  ([1, 3, 6].map (fun k => (List.range ((im.region (k + 1) - im.region k) / 4096)).map (fun i => im.region k / 4096 + i))).flatten

/-- The port to the buddy: the same job's rank in the same tray whose slot comes next in cyclic order. -/
def State.buddyPort (s : State) (p : Nat) : Option Nat :=
  match (s.part p).ranks with
  | none => none
  | some ts =>
    let me := s.time.position
    let mates := ts.filter (fun t => t != 0x3FFF && posRack t == posRack me && posTray t == posTray me && posSlot t != posSlot me)
    let dist := fun t => (posSlot t + 8 - posSlot me) % 8
    match mates.foldl (fun m t => match m with | none => some t | some b => if dist t < dist b then some t else some b) none with
    | none => none
    | some t => s.portTo t

/-- CKPT_DRAIN: a buddy exists, and the calf pool holds two drained checkpoints beyond its own copies. -/
def State.drains (s : State) (p : Nat) : Bool :=
  match (s.part p).image with
  | none => false
  | some im => (s.buddyPort p).isSome
      && decide (2 * (calvedGranules im).length + calfHeld (s.part p).rcv ≤ calfRoom (s.part p).geo im)

/-- BUDDY_DRAIN: the next granule of the latest checkpoint goes to the buddy on VC 8; its protection for this checkpoint is lifted and its
copy freed. -/
def execBuddyDrain (p : Nat) (s : State) : R :=
  if 16 ≤ p then .fault .noSuchUnit else
  match (s.part p).image, (s.part p).rcv.points.reverse, s.buddyPort p with
  | some im, q :: rest, some port =>
    if s.memHeld p || !q.isCkpt || !s.drains p then .next s else
    match (calvedGranules im).find? (fun g => !q.drained.contains g) with
    | none => .next s
    | some g =>
      let s := s.loadAt p 2 ((List.range 4096).map (4096 * g + ·))
      let bytes := match q.calf.find? (fun e => e.1 == g) with
        | some e => e.2
        | none => s.readX (s.part p).geo (g * 4096) 4096
      let q2 : RecPoint := { q with drained := q.drained ++ [g], calf := q.calf.filter (fun e => e.1 != g) }
      .next ((s.sendMsg port 8 0 (leBytes 8 g ++ bytes)).updRcv p (fun r => { r with points := (q2 :: rest).reverse, ckptDrain := true }))
  | _, _, _ => .next s

/-- LOCK_WORD_TIMEOUT: a lock word held for 1 ms is revoked: its token advances, it has no holder (R454, R455). -/
def execLockWordTimeout (p n : Nat) (s : State) : R :=
  if 16 ≤ p then .fault .noSuchUnit else
  match (s.part p).rcv.locks[n]? with
  | none => .next s
  | some (addr, token, since_) =>
    if s.memHeld p || decide (s.dtb < since_ + 1000000) then .next s else
    .next ((s.writeP p addr (leBytes 4 ((token + 1) % 2 ^ 32))).updRcv p (fun r => { r with locks := r.locks.eraseIdx n })).answer

end Sys2Proof.Machine
end

