-- ==== Sys2Proof/Machine/Firmware.lean ====
section
/-!
DEFINITION. Sys2Proof/Machine/Firmware.lean: firmware images and their update (R428 to R439), attestation (R440, R441), the journal's
readers and seals (R444, R446), debug unlock (R447) and the restart of service firmware (R452).
-/

namespace Sys2Proof.Machine

/-! ## Firmware images (Table 19.2, R429) -/

namespace Fi
def rootSvn (h : List Byte) : Nat := fbits h 16 5 0
def svcSvn (h : List Byte) : Nat := fbits h 16 12 6
def keySlot (h : List Byte) : Nat := fbits h 16 14 13
def total (h : List Byte) : Nat := fld h 20 4
/-- Record of component `i`, and its fields. -/
def comp (h : List Byte) (i : Nat) : List Byte := sub h (64 + 64 * i) 64
def kind (c : List Byte) : Nat := fld c 0 1
def off (c : List Byte) : Nat := fld c 4 4
def size (c : List Byte) : Nat := fld c 8 4
def digest (c : List Byte) : List Byte := sub c 12 48
/-- The component record of a kind; zeros where the image has none. -/
def ofKind (h : List Byte) (k : Nat) : List Byte :=
  match ((List.range 3).map (comp h)).find? (fun c => kind c == k) with | some c => c | none => List.replicate 64 0
/-- Bytes of a component. -/
def bytes (b : List Byte) (k : Nat) : List Byte := sub b (off (ofKind b k)) (size (ofKind b k))
end Fi

/-- Whether an image is well formed: MAGIC, FORMAT, reserved fields, sizes, one component of each kind inside the image. -/
def imageFormed (b : List Byte) : Bool :=
  let cs := (List.range 3).map (Fi.comp b)
  fld b 0 4 == 0x31474D49 && fbits b 4 15 0 == 1 && fbits b 4 31 16 == 0 && fbits b 16 31 15 == 0 && isZero b 24 40 && isZero b 256 160
    && Fi.total b == b.length && [1, 2, 3].all (fun k => (cs.filter (fun c => Fi.kind c == k)).length == 1)
    && cs.all (fun c => decide (512 ≤ Fi.off c) && decide (Fi.off c + Fi.size c ≤ Fi.total b))
    && decide (Fi.size (Fi.ofKind b 1) ≤ 0x40000) && decide (Fi.size (Fi.ofKind b 2) ≤ 0x8000000)

/-- Whether an image's signature and digests hold against the fused keys. -/
def FwState.imageSigned (f : FwState) (b : List Byte) : Bool :=
  !bit f.revoked (Fi.keySlot b)
    && Config.verifies 0 (Fi.keySlot b) (BitVec.ofNat 384 (leNat (sha384 (b.take 416)))) (BitVec.ofNat 768 (fld b 416 96))
    && [1, 2, 3].all (fun k => sha384 (Fi.bytes b k) == Fi.digest (Fi.ofKind b k))

/-- Whether an image's security versions are at or above the fused counters. -/
def FwState.svnOk (f : FwState) (b : List Byte) : Bool := decide (f.rootSvn ≤ Fi.rootSvn b) && decide (f.svcSvn ≤ Fi.svcSvn b)

/-- Whether an image verifies (R429); one without bytes stands for the image of manufacture, which the manual does not give (log entry 5). -/
def FwState.verified (f : FwState) (b : List Byte) : Bool := b.isEmpty || (imageFormed b && f.imageSigned b && f.svnOk b)

/-- Contents and validity of a slot. -/
def FwState.image (f : FwState) (t : Nat) : List Byte := if t = 0 then f.slotA else f.slotB
def FwState.valid (f : FwState) (t : Nat) : Bool := if t = 0 then f.validA else f.validB
/-- Whether a slot is written and verifies: the check of each boot and each restart (R432, R434). -/
def FwState.sound (f : FwState) (t : Nat) : Bool := f.valid t && f.verified (f.image t)
def FwState.setSlot (f : FwState) (t : Nat) (b : List Byte) (ok : Bool) : FwState :=
  if t = 0 then { f with slotA := b, validA := ok } else { f with slotB := b, validB := ok }

/-! ## FW_UPDATE (R435 to R439) -/

namespace Up
def op (p : List Byte) : Nat := fld p 0 1
def target (p : List Byte) : Nat := fbits p 0 8 8
def key (p : List Byte) : Nat := fbits p 0 10 9
def bytes (p : List Byte) : Nat := fld p 16 4
def bad (p : List Byte) : Bool := fbits p 0 31 11 != 0 || !isZero p 4 4 || decide (3 < op p)
end Up

/-- FW_UPDATE with an operation; a reserved bit or operation is refused by the row of operation 0. -/
def fwUpdate (op : Nat) (f : Fn) (n : Nat) (s : State) (body : Slot → State → State) : R :=
  commandIf (fun q => q.cmd == 0x0680 && (if Up.op q.payload ≤ 3 then Up.op q.payload == op else op == 0)) f n s
    (fun q s => if Up.bad q.payload then s.complete f n Config.stBadField 0 [] else body q s)

/-- Journals an FW_UPDATE operation. -/
def State.jFw (s : State) (f : Fn) (q : Slot) (status : Nat) : State := s.jCmd f 0x0680 status none [] (q.payload.take 20)

/-- The status that an image read for WRITE meets, if any (Table 19.4). -/
def FwState.writeRefusal (f : FwState) (t : Nat) (b : List Byte) : Option Nat :=
  if !imageFormed b || !f.imageSigned b then some Config.stBadSignature
  else if !f.svnOk b then some Config.stRollback
  else if !f.valid (1 - t) then some Config.stBadField
  else none

/-- FW_WRITE: the image is read and verified, the slot is marked invalid, and the image read again is written; the slot is valid only if
the second reading is the first. -/
def execFwWrite (f : Fn) (n : Nat) (first second : Option (List Byte)) (s : State) : R :=
  fwUpdate 0 f n s (fun q s =>
    let len := Up.bytes q.payload
    let t := Up.target q.payload
    if len < 512 || 167772160 < len then s.complete f n Config.stBadLength 0 []
    else match first with
      | none => s.complete f n Config.stDmaError 0 []
      | some b =>
        let b := sub b 0 len
        match s.fw.writeRefusal t b with
        | some st => s.complete f n st 0 []
        | none => match second with
          | none => (({ s with fw := s.fw.setSlot t [] false }).jFw f q Config.stDmaError).complete f n Config.stDmaError 0 []
          | some c =>
            let c := sub c 0 len
            let ok := sha384 c == sha384 b
            let st := if ok then Config.stOk else Config.stBadSignature
            (({ s with fw := s.fw.setSlot t c ok }).jFw f q st).complete f n st 0 [])

/-! ## Restarting service firmware (R434, R437, R452) -/

/-- Ends the normal commands that were taken and have had no effect (R452). -/
def State.endInFlight (s : State) : State :=
  s.posted.foldl (fun s e =>
    let q := e.2.2
    if q.ack && !q.begun && !q.urgent && e.2.1 != 31 then s.complete e.1 e.2.1 Config.stFwRestart 0 [] else s) s

/-- Restarts service firmware from a slot; it stays down where the slot is not valid or its root patch is not the one in force. -/
def State.restartService (s : State) (t : Nat) : State :=
  let s1 := s.endInFlight
  let same := Fi.digest (Fi.ofKind (s.fw.image t) 1) == Fi.digest (Fi.ofKind s.fw.rootHead 1)
  let ok := s.fw.sound t && same
  { s1 with fw := { s1.fw with
    svcRestarts := satAdd 0x1FF s1.fw.svcRestarts 1
    svcRestart := ok
    svcDown := !ok
    svcImage := if ok then t else s1.fw.svcImage
    svcHead := if ok then (s.fw.image t).take 512 else s1.fw.svcHead } }

/-- SERVICE_FW_RESTART: a service core took an exception, or the scan stalled: a restart from slot B. -/
def execServiceFwRestart (s : State) : R :=
  if s.power.off || s.pcie.held || s.fw.svcDown then .next s else .next (s.restartService 1)

/-- FW_ACTIVATE: service firmware restarts from TARGET. -/
def execFwActivate (f : Fn) (n : Nat) (s : State) : R :=
  fwUpdate 1 f n s (fun q s => (((s.jFw f q Config.stOk).complete f n Config.stOk 0 []).restartService (Up.target q.payload)))

/-- FW_ADVANCE_SVN: the fused counters rise to the image in force, where both slots stay bootable. -/
def execFwAdvanceSvn (f : Fn) (n : Nat) (s : State) : R :=
  fwUpdate 2 f n s (fun q s =>
    let x := s.fw
    let r := max x.rootSvn (Fi.rootSvn x.rootHead)
    let v := max x.svcSvn (Fi.svcSvn x.svcHead)
    if [0, 1].all (fun t => x.valid t && decide (r ≤ Fi.rootSvn (x.image t)) && decide (v ≤ Fi.svcSvn (x.image t))) then
      (({ s with fw := { x with rootSvn := r, svcSvn := v } }).jFw f q Config.stOk).complete f n Config.stOk 0 []
    else s.complete f n Config.stRollback 0 [])

/-- FW_REVOKE_KEY: blows a key's revocation fuse. -/
def execFwRevokeKey (f : Fn) (n : Nat) (s : State) : R :=
  fwUpdate 3 f n s (fun q s =>
    let k := Up.key q.payload
    let x := s.fw
    let r := x.revoked ||| 2 ^ k
    if [0, 1].any (fun t => x.valid t && Fi.keySlot (x.image t) == k) || r == 15 then s.complete f n Config.stBadField 0 []
    else (({ s with fw := { x with revoked := r } }).jFw f q Config.stOk).complete f n Config.stOk 0 [])

/-! ## Attestation (R440, R441) -/

/-- The latest seal: its sequence number and the chain value after it. -/
def FwState.lastSeal (f : FwState) : Nat × List Byte :=
  match (f.journal.zipIdx.filter (fun e => e.1.kind == 3)).getLast? with
  | some e => (f.oldest + e.2, jChainAll f.baseH f.oldest (f.journal.take (e.2 + 1)))
  | none => (0, f.baseH)

/-- Bytes 0 to 415 of a report (Table 19.6). -/
def State.attReport (s : State) (nonce : List Byte) (p : Nat) : List Byte :=
  let x := s.fw
  let last := x.lastSeal
  let im := if p < 16 && (s.part p).geo.defined then (s.part p).image else none
  leBytes 4 0x54535441 ++ leBytes 4 1 ++ leBytes 16 serialNo
    ++ leBytes 4 (0x21 + 256 * b2n x.debugSinceCold + 512 * x.svcImage + 1024 * x.revoked)
    ++ leBytes 4 (fld x.rootHead 8 4) ++ leBytes 4 (fld x.svcHead 12 4) ++ leBytes 4 (x.rootSvn + 64 * x.svcSvn)
    ++ leBytes 8 s.dtb ++ leBytes 8 last.1 ++ sub nonce 0 32
    ++ Fi.digest (Fi.ofKind x.rootHead 1) ++ Fi.digest (Fi.ofKind x.svcHead 2) ++ Fi.digest (Fi.ofKind x.rootHead 3) ++ sub last.2 0 48
    ++ leBytes 4 (p % 16 + 16 * b2n im.isSome) ++ leBytes 4 0
    ++ (match im with | some i => sha384 i.bytes | none => List.replicate 48 0) ++ List.replicate 80 0

/-- The signed report, and the certificate where it is asked for. -/
def State.attestation (s : State) (nonce : List Byte) (p : Nat) (cert : Bool) : List Byte :=
  let r := s.attReport nonce p
  r ++ leBytes 96 (Config.signature s.freeCtr (BitVec.ofNat 384 (leNat (sha384 r)))).toNat ++ (if cert then Config.certificate.take 1536 else [])

/-- ATTEST: a PF names the partition, a VF's report covers its own; a VF without a partition gets one with PART_VALID 0. -/
def execAttest (f : Fn) (n : Nat) (s : State) : R :=
  command 0x0601 f n s (fun q s =>
    let p := if isPf f then fbits q.payload 32 3 0 else (s.ownedBy f).getD 16
    s.tick.complete f n Config.stOk 0 (s.attestation (q.payload.take 32) p (fbits q.payload 32 4 4 == 1)))

/-- MCTP_ATTEST: the same request over the sideband, as a PF's; the answer is the status and the report, at most 1,024 bytes (log entry 14). -/
def execMctpAttest (payload : List Byte) (s : State) : R :=
  if s.power.off || s.pcie.held then .next s else
  let ans := if payload.length < 36 then leBytes 1 Config.stBadLength
    else leBytes 1 Config.stOk ++ s.attestation (payload.take 32) (fbits payload 32 3 0) (fbits payload 32 4 4 == 1)
  .next { s.tick with out := { s.out with side := ans.take 1024 } }

/-! ## Reading and sealing the journal (R444, R446) -/

/-- The bytes of journal entry number `i` from the oldest. -/
def FwState.entryBytes (f : FwState) (i : Nat) : List Byte :=
  match f.journal[i]? with
  | none => []
  | some e =>
    let h := jChainAll f.baseH f.oldest (f.journal.take i)
    e.bytes (f.oldest + i) (Config.signature e.sig (BitVec.ofNat 384 (leNat (sha384 (h ++ (e.bytes (f.oldest + i) 0).take 32)))))

/-- OLDEST_SEQ, NEXT_SEQ and up to `count` entries from `first`. -/
def FwState.readJournal (f : FwState) (first count : Nat) : List Byte × List Byte :=
  let i := max first f.oldest - f.oldest
  (leBytes 8 f.oldest ++ leBytes 8 f.nextSeq,
   ((List.range (min count (f.journal.length - i))).map (fun k => f.entryBytes (i + k))).flatten)

/-- JOURNAL_READ: entries in the payload area, at most 31, or written to host memory, at most 65,536. -/
def execJournalRead (f : Fn) (n : Nat) (s : State) : R :=
  command 0x0600 f n s (fun q s =>
    let count := fld q.payload 8 4
    let host := fld q.payload 16 8
    if host = 0 then
      if 31 < count then s.complete f n Config.stBadLength 0 []
      else let r := s.fw.readJournal (fld q.payload 0 8) count; s.complete f n Config.stOk 0 (r.1 ++ r.2)
    else
      let r := s.fw.readJournal (fld q.payload 0 8) (min count 65536)
      (s.toHost f host r.2).complete f n Config.stOk 0 r.1)

/-- MCTP_JOURNAL_READ: the same request over the sideband; the answer is the status, the two numbers and the entries that fit 1,024 bytes
(log entry 14). -/
def execMctpJournalRead (payload : List Byte) (s : State) : R :=
  if s.power.off || s.pcie.held then .next s else
  let ans :=
    if payload.length < 24 then leBytes 1 Config.stBadLength
    else if !isZero payload 16 8 then leBytes 1 Config.stBadField
    else let r := s.fw.readJournal (fld payload 0 8) (min 7 (fld payload 8 4)); leBytes 1 Config.stOk ++ r.1 ++ r.2
  .next { s with out := { s.out with side := ans } }

/-- JOURNAL_SEAL: 1 s after the first unsealed entry, or after 256. -/
def execJournalSeal (s : State) : R :=
  if s.power.off || s.pcie.held then .next s
  else if 0 < s.fw.unsealed && (256 ≤ s.fw.unsealed || s.fw.unsealedSince + 1000000000 ≤ s.dtb) then .next s.seal
  else .next s

/-! ## Debug unlock (R447) -/

/-- DEBUG_UNLOCK with an operation in bits [7:0] of offset 0 (log entry 14); operations above 1 are refused by the row of operation 0. -/
def debugUnlock (op : Nat) (f : Fn) (n : Nat) (s : State) (body : Slot → State → State) : R :=
  commandIf (fun q => q.cmd == 0x0681 && (if fld q.payload 0 1 = 1 then op == 1 else op == 0)) f n s
    (fun q s => if 1 < fld q.payload 0 1 then s.complete f n Config.stBadField 0 []
      else body q s)

/-- DEBUG_CHALLENGE: a random challenge, valid until it is used or the device resets. -/
def execDebugChallenge (f : Fn) (n : Nat) (s : State) : R :=
  debugUnlock 0 f n s (fun _ s =>
    let k := s.freeCtr
    ({ s.tick with fw := { s.fw with challenge := some k } }).complete f n Config.stOk 0 (leBytes 32 (Config.challenge k).toNat))

/-- Whether a token is refused. -/
def State.tokenBad (s : State) (t : List Byte) : Bool :=
  fld t 0 4 != 0x4B544744 || fld t 4 16 != serialNo
    || (match s.fw.challenge with | some k => fld t 20 32 != (Config.challenge k).toNat | none => true)
    || decide (2 < fld t 52 4) || decide (fld t 56 8 ≤ s.dtb)
    || !Config.verifies 1 0 (BitVec.ofNat 384 (leNat (sha384 (sub t 0 64)))) (BitVec.ofNat 768 (fld t 64 96))

/-- DEBUG_TOKEN: a token at offset 8 unlocks JTAG to its SCOPE until EXPIRES; either way the challenge is used up. -/
def execDebugToken (f : Fn) (n : Nat) (s : State) : R :=
  debugUnlock 1 f n s (fun q s =>
    let t := sub q.payload 8 160
    let x := { s.fw with challenge := none }
    if s.tokenBad t then ({ s with fw := x }).complete f n Config.stDebugLocked 0 []
    else
      let s1 : State := { s with fw := { x with debugScope := fld t 52 4 + 1, debugSinceCold := true, debugExpires := fld t 56 8 } }
      (s1.jCmd f 0x0681 Config.stOk none [] (sub t 52 12)).complete f n Config.stOk 0 [])

/-- DEBUG_EXPIRY: JTAG locks again at EXPIRES. -/
def execDebugExpiry (s : State) : R :=
  if s.fw.debugScope != 0 && s.fw.debugExpires ≤ s.dtb then .next { s with fw := { s.fw with debugScope := 0 } } else .next s

end Sys2Proof.Machine
end

