-- ==== Sys2Proof/Machine/Links.lean ====
section
/-!
DEFINITION. Sys2Proof/Machine/Links.lean: the events of the Viltas ports (R275 to R292).
-/

namespace Sys2Proof.Machine

/-! ## Training (R275, R277) -/

/-- Training has completed: the port checks its peer; a miscabled port is reported and journalled. -/
def State.train (s : State) (p : Nat) (q : PeerInfo) : State :=
  let st := s.trainedState p q
  let s1 := (s.setPort p ((s.port p).trained st q s.dtb (Config.equaliser s.freeCtr p) (q.frost || s.power.state == 2))).tick
  if st = 5 then (s1.jEvent Config.stLinkMiscabled p none []).linkEvent Config.stLinkMiscabled p else s1

/-- The peer of a port in UP_UNCHECKED has committed its position: the port is checked against it. -/
def State.peerSet (s : State) (p : Nat) (q : PeerInfo) : State :=
  ((s.setPort p { s.port p with peer := some q }).recheckPorts).timeRefresh

/-- The peer's module has entered or left Frost: the port runs at low rate while either end is in it (R292). -/
def State.peerFrost (s : State) (p : Nat) (q : PeerInfo) : State :=
  s.updPort p (fun x => { x with
    lowRate := q.frost || s.power.state == 2
    peer := x.peer.map (fun r => { r with frost := q.frost }) })

/-- LINK_TRAINED: a port that is down or training, cabled and not disabled, completes its training. At a live port it brings what has
changed at the peer since: in UP_UNCHECKED the position it has set, and that its module has entered or left Frost (log entry 30). -/
def execLinkTrained (port : Nat) (peer : PeerInfo) (s : State) : R :=
  if 16 ≤ port then .fault .noSuchUnit else
  let x := s.port port
  if s.power.off || s.pcie.held || x.disable || x.cblHigh then .next s
  else if x.state ≤ 1 then .next (s.train port peer)
  else if x.state = 2 then .next ((s.peerSet port peer).peerFrost port peer)
  else if x.state = 3 then .next (s.peerFrost port peer)
  else .next s

/-- PORT_RETRAIN: a port in LOST trains again every 10 ms until its peer answers (R288, step 5). -/
def execPortRetrain (port : Nat) (peer : Option PeerInfo) (s : State) : R :=
  if 16 ≤ port then .fault .noSuchUnit else
  let x := s.port port
  if x.state != 4 || s.pcie.held || s.power.off || decide (s.dtb < x.lossAt + 10000000) then .next s
  else match peer with
    | none => .next (s.setPort port { x with lossAt := s.dtb })
    | some q => .next (s.train port q)

/-! ## FLIT_TRANSMIT (R280 to R284, R326) -/

/-- Bytes held in a channel's early-arrival buffer fill it (R329). -/
def State.earlyFull (s : State) (v : Nat) : Bool := decide (0x200000 ≤ (s.chan v).earlyBytes)
/-- Whether a channel carries load messages: a load holds it, or no group of its owner's image uses it (R341, R343). -/
def State.loadChan (s : State) (v : Nat) : Option Nat :=
  let c := s.chan v
  if !c.bound then none else
  match (s.part c.owner).image with
  | none => none
  | some im =>
    if c.loadHold.isSome || !(tpRecords im.bytes 0x06).any (fun r => im.chan (Gr.vcOrd r) == v) then some c.owner else none

/-- The header of Table 15.2. -/
def loadHeaderOf (b : List Byte) : LoadHeader := ⟨fld b 0 4, fbits b 4 1 0, fld b 8 4, fld b 12 4, fld b 16 4, fld b 20 4⟩

/-- Whether a message on channel `v` that begins with `b` is held: for a group that the channel's use by another holds back (R330), or for a
load whose command has not come (R343). -/
def State.holds (s : State) (v : Nat) (b : List Byte) : Bool :=
  let c := s.chan v
  match s.loadChan v with
  | some q => !s.loadTakes q (loadHeaderOf b).loadId
  | none => c.bound && match (s.part c.owner).image with
    | none => false
    | some im => match groupRec im (collHeaderOf b).group with
      | some r => im.chan (Gr.vcOrd r) == v && decide ((collHeaderOf b).kind < 4) && s.chanBusy c.owner (collHeaderOf b).group im (Gr.vcOrd r)
      | none => false

/-- Credits withheld for a full early-arrival buffer, for a delivery that waits for its flag or for a held message, and the
acknowledgements of held messages, are given once the channel takes them (R282, R289, R323, R329, R330). -/
def State.giveCredits (s : State) (p : Nat) : State :=
  (List.range 8).foldl (fun s v =>
    let c := (s.port p).vc v
    if (c.withheld == 0 && c.heldAcks.isEmpty) || s.earlyFull v || (s.chan v).flagWait || (s.chan v).heldMsgs.any (fun m => m.1 == p)
        || (c.inOpen && s.holds v c.inMsg)
        || (match s.loadChan v with | some q => (s.part q).ws.heldVia == some (p, v) && !(s.part q).ws.held.isEmpty | none => false) then s
    else
      let x := (s.port p).setVc v { c with freed := c.freed + c.withheld, withheld := 0, heldAcks := [] }
      s.setPort p { x with acks := x.acks ++ c.heldAcks.map (fun a => (v, a)) }) s

/-- Weight of a collective channel in the window (R326, R359). -/
def State.chanWeight (s : State) (v : Nat) : Nat := if (s.chan v).bound then s.linkWeight (s.chan v).owner else 0

/-- Deficit round-robin: from channel `curVc` on, the first channel that may send, with the deficits of the channels visited
(R326). -/
def State.drr (s : State) (p : Nat) : Nat → Port → Option (Nat × Port)
  | 0, _ => none
  | n + 1, x =>
    let v := x.curVc
    let c := x.vc v
    let next := (v + 1) % 8
    let enter (y : Port) : Port :=
      let d := y.vc next
      { (y.setVc next { d with deficit := if d.out.isEmpty then 0 else d.deficit + 232 * s.chanWeight next }) with curVc := next }
    if c.ready && decide (232 ≤ c.deficit) && s.chanWeight v != 0 then some (v, x.setVc v { c with deficit := c.deficit - 232 })
    else s.drr p n (enter (if c.out.isEmpty then x.setVc v { c with deficit := 0 } else x))

/-- Sends a beat acknowledgement (R289). -/
def State.sendBeatAck (s : State) (p : Nat) (a : Nat × Nat × Nat) (rest : List (Nat × Nat × Nat)) : State :=
  (s.updPort p (fun x => { x with acks := rest })).sendSeq p 3 a.1 false false a.2.1 (leBytes 4 a.2.2)

/-- The slot's collective flit or, with nothing eligible, an idle flit. -/
def State.sendCollective (s : State) (p : Nat) (pick : Option (Nat × Port)) : State :=
  match pick with
  | some (v, x) => (s.setPort p { x with sinceControl := x.sinceControl + 1 }).sendData p v
  | none =>
    let x := s.port p
    (s.setPort p { x.nextCredit with sinceControl := x.sinceControl + 1 }).emit p (x.build 0 0 false false 0 0 [])

/-- One flit slot of a live port: the first eligible item of R284. -/
def State.flitSlot (s : State) (p : Nat) : State :=
  let x := s.port p
  if x.hbDue ≤ s.dtb then s.sendHeartbeat p else
  match x.resend with
  | r :: rest =>
    let s1 := s.setPort p { x with resend := rest, replays := satAdd 0xFFFFFFFF x.replays 1 }
    (match x.replay.find? (fun e => e.1 == r) with | some e => s1.emit p e.2.1 | none => s1)
  | [] =>
    if !x.room then s.sendCollective p none else
    match x.acks with
    | a :: rest => s.sendBeatAck p a rest
    | [] =>
      let pick := if x.state = 3 && !x.lowRate then s.drr p 9 x else none
      if (x.vc 10).ready then s.sendData p 10
      else if ((x.vc 9).ready || (x.vc 8).ready) && (pick.isNone || decide (3 ≤ x.sinceControl)) then
        (s.setPort p { x with sinceControl := 0 }).sendData p (if (x.vc 9).ready then 9 else 8)
      else s.sendCollective p pick

/-- What a training flit names: serial number, POSITION, port and protocol version (R275; log entry 14). -/
def State.trainBytes (s : State) (p : Nat) : List Byte :=
  serialBytes ++ leBytes 4 s.time.position ++ leBytes 1 p ++ leBytes 4 Config.protocolVersion

/-- FLIT_TRANSMIT: one flit slot. A training or miscabled port sends training flits only; a port that is down, lost or disabled sends
nothing. -/
def execFlitTransmit (port : Nat) (s : State) : R :=
  if 16 ≤ port then .fault .noSuchUnit else
  let x := s.port port
  if s.power.off || s.pcie.held then .next s
  else if x.up then .next ((s.giveCredits port).flitSlot port)
  else if x.state = 1 || x.state = 5 then
    .next (s.emit port (flitBytes 4 0 false false 0 0 false 0 0 0 0 (s.trainBytes port)))
  else .next s

/-! ## HEARTBEAT_SEND, HEARTBEAT_RECEIVE (R287, R293 to R297) -/

/-- HEARTBEAT_SEND: a live port's heartbeat falls due. -/
def execHeartbeatSend (port : Nat) (s : State) : R :=
  if 16 ≤ port then .fault .noSuchUnit else
  let x := s.port port
  if x.up && x.hbDue ≤ s.dtb && !s.power.off && !s.pcie.held then .next (s.sendHeartbeat port) else .next s

/-- θ and δ of the exchange that a heartbeat completes; none before the peer has had a heartbeat of this module. -/
def exchange (hb : Heartbeat) : Option (Int × Int) :=
  if hb.tPrevTx = 0 && hb.tPrevRx = 0 then none else
  let back : Int := (hb.arrival : Int) - hb.tSend
  let out : Int := (hb.tPrevRx : Int) - hb.tPrevTx
  some ((back - out).tdiv 2, (back + out).tdiv 2)

/-- Steps the DTB forward to a value; never back (R295). -/
def State.stepDtb (s : State) (v : Int) : State :=
  { s with time := { s.time with dtb := max s.time.dtb v.toNat % 2 ^ 64, dtbLost := false, noParentSince := max s.time.dtb v.toNat } }

/-- A valid heartbeat: the peer lives, its HOPS and STATE are noted, and the exchange steps or steers the DTB (R288, R293 to R297). -/
def State.heartbeat (s : State) (p : Nat) (hb : Heartbeat) : State :=
  let s1 := s.updPort p (fun x => { x with
    hbPrevTx := hb.tSend
    hbPrevRx := hb.arrival
    hbRecv := s.dtb
    hbMissed := satAdd 0xFFFF x.hbMissed ((s.dtb - x.hbRecv + 500) / 1000 - 1) })
  let s2 := { s1 with time := { s1.time with nbrs := Cells.insert s1.time.nbrs p (hb.state % 256, hb.hops % 32) } }
  let s3 := s2.timeRefresh
  match exchange hb with
  | none => s3
  | some (theta, delta) =>
    if s3.time.isGm then
      if s3.time.dtbLost && hb.state != 0 then
        let live := (List.range 16).filter (fun k => (s3.port k).up)
        let s4 := s3.stepDtb ((hb.tSend : Int) + delta)
        if live.all (fun k => s3.time.nbrs.any (fun n => n.1 == k)) then s4 else { s4 with time := { s4.time with dtbLost := true } }
      else s3
    else if s3.time.parentPort = some p then
      if s3.time.dtbLost then s3.stepDtb ((hb.tSend : Int) + delta) else s3.offset theta
    else s3

/-- HEARTBEAT_RECEIVE. -/
def execHeartbeatReceive (port : Nat) (hb : Heartbeat) (s : State) : R :=
  if 16 ≤ port then .fault .noSuchUnit else
  if (s.port port).up && !s.power.off && !s.pcie.held then .next (s.heartbeat port hb) else .next s

/-! ## FLIT_RECEIVE (R279, R280, R282, R285, R289 to R291) -/

/-- A whole message is handed to its destination. -/
def State.deliver (s : State) (p v beat : Nat) (b : List Byte) : State :=
  if 8 ≤ v then
    let s1 := s.updPort p (fun x => x.updVc v (fun c => { c with delivered := c.delivered ++ [(beat, b)] }))
    if v = 9 then s1.hearTell p b else s1
  else
  match s.loadChan v with
  | some q =>
    s.loadMsg q (some (p, v)) (loadHeaderOf b) ((b.drop 24).take (fld b 20 4))
  | none =>
    let s1 := s.releaseHeld v
    s1.collMessage p v (collHeaderOf b) beat (b.drop 24)

/-- An accepted data flit: epoch check, then its part of the message (R280, R290). A flit whose message waits behind another group, or for
room in the early-arrival buffer or for a flag, is not freed, and its message is acknowledged only once it is handed on (R282, R289, R330). -/
def State.dataFlit (s : State) (p : Nat) (f : Flit) : State :=
  let s := if f.vc < 8 then s.releaseHeld f.vc else s
  let x := s.port p
  let c := x.vc f.vc
  let b := (if f.first then [] else c.inMsg) ++ f.payload
  let held := decide (f.vc < 8) && s.holds f.vc b
  let full := (decide (f.vc < 8) && (s.earlyFull f.vc || (s.chan f.vc).flagWait)) || held
  let c1 := if full then { c with withheld := c.withheld + 1 } else { c with freed := c.freed + 1 }
  if f.epoch != c.epoch % 256 then s.setPort p { x.setVc f.vc c1 with fenced := satAdd 0xFFFF x.fenced 1 }
  else if f.vc < 8 && x.state != 3 || (!f.first && !c.inOpen) then s.setPort p (x.setVc f.vc c1)
  else
    let t := if held && (s.loadChan f.vc).isNone then s.holdOn f.vc (collHeaderOf b).group else s
    if !f.last then t.setPort p (x.setVc f.vc { c1 with inMsg := b, inOpen := true })
    else
      let y := x.setVc f.vc { c1 with
        inMsg := []
        inOpen := false
        heldAcks := if held then c.heldAcks ++ [(f.beat, f.seq)] else c.heldAcks }
      (t.setPort p { y with acks := if held then y.acks else y.acks ++ [(f.vc, f.beat, f.seq)] }).deliver p f.vc f.beat b

/-- A beat acknowledgement: its message is done; a load that waited for it may end (R289, R344). -/
def State.beatAck (s : State) (p : Nat) (f : Flit) : State :=
  let v := (s.port p).ownVc f.vc
  let s1 := s.updPort p (fun x => x.updVc v (fun c => { c with unacked := c.unacked.filter (fun u => u.1 != leNat (f.payload.take 4) % 2 ^ 24) }))
  (List.range 16).foldl (fun s q => match (s.part q).ws.load with
    | some l => if Ld.forward l.desc && Ld.outPort l.desc == p then s.loadSettle q else s
    | none => s) s1

/-- Takes the CREDIT and ACK of a flit that is not discarded (R282, R285). A replayed flit carries the CREDIT of its first sending; a value
more than the VC's buffers ahead of the newest is an older one and adds nothing (log entry 133). -/
def Port.control (x : Port) (f : Flit) (now : Nat) : Port :=
  let v := x.ownVc f.creditVc
  let y := if 10 < f.creditVc then x else x.updVc v (fun c =>
    let d := (f.credit + 1024 - c.peerFreed) % 1024
    if d ≤ vcBuffers v then { c with credits := c.credits + d, peerFreed := f.credit } else c)
  y.acked f.ack now

/-- FLIT_RECEIVE: the code corrects up to 8 symbols; a codeword beyond that, or a failed CRC, discards the flit. A data or acknowledgement
flit is accepted in its sequence, a duplicate without effect, or out of order, which sets NAK; a flit that is kept gives credit and
acknowledgement. A heartbeat flit is stamped on arrival. -/
def execFlitReceive (port : Nat) (flit : List Byte) (corrected : Nat) (fecOk : Bool) (s : State) : R :=
  if 16 ≤ port then .fault .noSuchUnit else
  let x := s.port port
  if !x.up || s.power.off || s.pcie.held then .next s else
  if !fecOk || 8 < corrected then .next (s.setPort port { x with fecUncorr := satAdd 0xFFFFFFFF x.fecUncorr 1 })
  else
  let x1 := { x with fecCorr := satAdd 0xFFFFFFFF x.fecCorr corrected }
  if !flitOk flit then .next (s.setPort port { x1 with crcFail := satAdd 0xFFFFFFFF x1.crcFail 1 })
  else
    let f := flitOf flit
    let x2 := x1.control f s.dtb
    let s2 := s.setPort port x2
    let s1 := s.setPort port x1
    if f.ftype = 2 then
      .next (s2.heartbeat port ⟨leNat (f.payload.take 8), leNat ((f.payload.drop 8).take 8), leNat ((f.payload.drop 16).take 8),
        leNat ((f.payload.drop 24).take 1), leNat ((f.payload.drop 25).take 1) % 32, s.dtb⟩)
    else if f.ftype != 1 && f.ftype != 3 then .next s2
    else if f.seq = (x1.rxSeq + 1) % 2 ^ 24 then
      let s3 := s2.setPort port { x2 with rxSeq := f.seq, nak := false }
      if f.ftype = 1 then .next (s3.dataFlit port f) else .next (s3.beatAck port f)
    else if seqLe f.seq x1.rxSeq then .next s1
    else .next (s.setPort port { x1 with nak := true })

/-! ## Replay (R285, R286) -/

/-- NAK_REPLAY: a NAK with ACK `ack` makes the sender resend every unacknowledged flit from ACK + 1. -/
def execNakReplay (port ack : Nat) (s : State) : R :=
  if 16 ≤ port then .fault .noSuchUnit else
  let x := s.port port
  if x.up then .next (s.setPort port (((x.acked (ack % 2 ^ 24) s.dtb).startReplay).retime s.dtb)) else .next s

/-- REPLAY_TIMEOUT: the oldest unacknowledged flit has gone 4 µs. -/
def execReplayTimeout (port : Nat) (s : State) : R :=
  if 16 ≤ port then .fault .noSuchUnit else
  let x := s.port port
  match x.replay with
  | [] => .next s
  | r :: _ => if x.up && x.resend.isEmpty && r.2.2 + 4000 ≤ s.dtb then .next (s.setPort port ((x.startReplay).retime s.dtb)) else .next s

/-- LANE_RELOCK: after 16 replays without progress the lanes re-lock; the replay buffer is kept and replay resumes. -/
def execLaneRelock (port : Nat) (s : State) : R :=
  if 16 ≤ port then .fault .noSuchUnit else
  let x := s.port port
  if x.up && 16 ≤ x.replayTries then
    let y : Port := { x with relocks := x.relocks + 1, replayTries := 0, resend := x.replay.map (fun r => r.1) }
    .next (s.setPort port (y.retime s.dtb))
  else .next s

/-! ## PEER_LOST, BEAT_ACK_DEADLINE, DEPARTURE_NOTICE (R288, R289) -/

/-- Whether a partition has a bound group that meets a condition and has another member over the port. -/
def State.groupOver (s : State) (q port : Nat) (ok : Image → List Byte → Bool) : Bool :=
  match (s.part q).image, (s.port port).peer with
  | some im, some pi => (tpRecords im.bytes 0x06).any (fun r => ok im r && match s.member q im r with
      | none => false
      | some me => (List.range (grN r)).any (fun i => i != me && match s.rankPos q (grRank r i) with
          | some t => pi.rack == posRack t && pi.tray == posTray t && pi.slot == posSlot t
          | none => false))
  | _, _ => false

/-- Reports a port's fault to every partition with such a group: a contained fault each. -/
def State.reportGroups (s : State) (status port : Nat) (ok : Image → List Byte → Bool) : State :=
  (List.range 16).foldl (fun t q => if s.groupOver q port ok then t.report q status port 0xFFFFFFFFFFFF ⟨2, port⟩ else t) s

/-- The steps of R288 on a port whose peer is lost. -/
def State.losePeer (s : State) (p : Nat) : State :=
  let x := s.port p
  let s1 := s.setPort p { x.drop.newEpochs with
    state := 4
    lossAt := s.dtb
    losses := satAdd 0xFFFF x.losses 1
    hbMissed := satAdd 0xFFFF x.hbMissed 4 }
  let s2 := s1.reportGroups Config.stPeerLost p (fun _ _ => true)
  let s3 := if x.departed then s2 else s2.jEvent Config.stPeerLost p none []
  let s4 := { s3 with time := { s3.time with nbrs := Cells.erase s3.time.nbrs p } }
  (s4.timeRefresh.linkEvent Config.stPeerLost p).loadPeerLost p

/-- PEER_LOST: 4,250 ns without a valid heartbeat. -/
def execPeerLost (port : Nat) (s : State) : R :=
  if 16 ≤ port then .fault .noSuchUnit else
  let x := s.port port
  if x.up && x.hbRecv + 4250 ≤ s.dtb then .next (s.losePeer port) else .next s

/-- BEAT_ACK_DEADLINE: the oldest late beat acknowledgement of a channel has missed its deadline of 3 µs; it is reported, the epochs
advance, and the groups on that channel lose the peer. The link stays up. -/
def execBeatAckDeadline (port vc : Nat) (s : State) : R :=
  if 16 ≤ port || 11 ≤ vc then .fault .noSuchUnit else
  let x := s.port port
  let late : Nat × Option Nat → Bool := fun u => match u.2 with | some d => decide (d ≤ s.dtb) | none => false
  if !x.up || !(x.vc vc).unacked.any late then .next s else
  let y := x.updVc vc (fun c => { c with unacked := c.unacked.eraseP late })
  let s1 := (s.setPort port { y.newEpochs with ackLate := satAdd 0xFFFF x.ackLate 1 }).linkEvent Config.stBeatAckLate port
  .next ((s1.linkEvent Config.stPeerLost port).reportGroups Config.stPeerLost port (fun im r => im.chan (Gr.vcOrd r) == vc))

/-- DEPARTURE_NOTICE: the peer announces on VC 9 that it enters Permafrost; its loss will be a departure. -/
def execDepartureNotice (port : Nat) (s : State) : R :=
  if 16 ≤ port then .fault .noSuchUnit else
  let x := s.port port
  if x.up then .next ((s.setPort port { x with departed := true }).jEvent Config.stOk port none []) else .next s

/-! ## The time base (R26, R296, R297) -/

/-- DTB_PARENT_TIMEOUT: no parent for 100 µs. -/
def execDtbParentTimeout (s : State) : R :=
  let t := s.time
  if t.locked && t.parentPort.isNone && !t.isGm && t.noParentSince + 100000 ≤ t.dtb then .next s.unlock.timeRefresh else .next s

/-- DTB_BROADCAST: every copy takes the broadcast count; a copy that is ahead holds until it is caught up. -/
def execDtbBroadcast (s : State) : R :=
  if s.power.off || s.power.state = 3 then .next s else
  let copies := dtbCopies.foldl (fun m k => Cells.put (fun _ => 0) m k (max s.time.dtb (s.time.copy k))) []
  .next { s with time := { s.time with copies := copies } }

/-- PPS_EDGE: a grandmaster with PPS_EN aligns a lost DTB to the next whole second and is steered by every later edge; the input of any
other module is ignored. -/
def execPpsEdge (s : State) : R :=
  let t := s.time
  if !t.isGm || !t.ppsEn || s.power.off || s.pcie.held then .next s else
  let r := t.dtb % 1000000000
  let s1 := if t.dtbLost && t.nbrs.all (fun n => n.2.1 == 0 || !(s.port n.1).up) then s.stepDtb ((t.dtb + (1000000000 - r) % 1000000000 : Nat) : Int)
    else s.offset (if r < 500000000 then (r : Int) else (r : Int) - 1000000000)
  .next { s1 with time := { s1.time with ppsSeen := true, ppsDtb := s1.time.dtb } }

end Sys2Proof.Machine
end

