-- ==== Sys2Proof/Machine/Parts.lean ====
section
/-!
DEFINITION. Sys2Proof/Machine/Parts.lean: staging and commits (R354, R356, R477 to R480), partition commands (R356, R457, R470), SET_TIME
(R295), the link and shelf regrade (R482) and the windows of the cyclic schedule (R358, R360, R365, R401).
-/

namespace Sys2Proof.Machine

/-! ## Staging (R9) -/

/-- Whether two staged values are of one field. -/
def Staged.same : Staged → Staged → Bool
  | .position _, .position _ => true
  | .timeCfg _, .timeCfg _ => true
  | .portCtl p _, .portCtl q _ => p == q
  | .powerCap _, .powerCap _ => true
  | .leakShutdown _, .leakShutdown _ => true
  | .part a, .part b => Pr.part a == Pr.part b
  | .cyclic _, .cyclic _ => true
  | _, _ => false

/-- Stages a value in place of an earlier one of the same field. -/
def State.stage (s : State) (v : Staged) : State :=
  { s with commit := { s.commit with staged := s.commit.staged.filter (fun w => !w.same v) ++ [v] } }

/-! ## Partition records (R354, R356) -/

/-- A partition as the staged records would leave it. -/
def State.staged (s : State) (p : Nat) : Geometry :=
  match s.commit.staged.find? (fun v => match v with | .part r => Pr.part r == p | _ => false) with
  | some (.part r) => geoOfRecord r
  | _ => (s.part p).geo

/-- Whether the ways of a record match its groups on every shelf. -/
def waysFit (r : List Byte) : Bool :=
  (List.range 8).all (fun k => (bits (Pr.groups r) (8 * k + 7) (8 * k) == 0) == (Pr.shelfWays r k == 0))

/-- The refusals of R354 for a partition's record beside the other partitions `others`. -/
def recordRefusal (others : List Geometry) (r : List Byte) : Option Nat :=
  let all := others.filter (fun g => g.defined)
  if Pr.reserved r then some Config.stBadField
  else if Pr.blocks r = 0 || Pr.groups r = 0 then some Config.stBadLength
  else if all.any (fun g => ownerFn g == ownerFn (geoOfRecord r)) then some Config.stBadField
  else if all.any (fun g => (g.blocks &&& Pr.blocks r) != 0 || (g.groups &&& Pr.groups r) != 0 || (g.ways &&& Pr.ways r) != 0) then
    some Config.stBadField
  else if !waysFit r then some Config.stBadField
  else none

/-- Whether a partition's admission is in progress: its ADMIT has been taken and has not completed (R244). -/
def State.admitting (s : State) (p : Nat) : Bool :=
  allFns.any (fun f => (s.fn f).slots.any (fun e => e.2.ack && !e.2.done && e.2.cmd == 0x0200 && e.2.part == p))

/-- Whether a partition counts as running for a change of what it holds (R244). -/
def State.counts (s : State) (p : Nat) : Bool := (s.part p).job.running || s.admitting p

/-- The refusals of R356 for a change of what a partition holds. -/
def changeRefusal (x : Partition) (running : Bool) (r : List Byte) : Option Nat :=
  let memory := x.geo.groups != Pr.groups r || x.geo.ways != Pr.ways r
  if !memory && x.geo.blocks == Pr.blocks r then none
  else if running then some Config.stNeedsQuiesce
  else if !memory then none
  else if x.job.frozen then some Config.stNeedsQuiesce
  else if x.image.isSome then some Config.stPartitionBusy
  else none

/-- Every other partition as the staged records would leave it. -/
def State.othersOf (s : State) (p : Nat) : List Geometry := ((List.range 16).filter (fun q => q != p)).map s.staged

/-- Whether a record is refused: as a new partition's, or as a change of one that is defined. -/
def State.partRefusal (s : State) (r : List Byte) : Option Nat :=
  match recordRefusal (s.othersOf (Pr.part r)) r with
  | some st => some st
  | none => if (s.part (Pr.part r)).geo.defined then changeRefusal (s.part (Pr.part r)) (s.counts (Pr.part r)) r else none

/-- PART_CREATE: checks a record and stages it. Refused from the device reset after END_OF_LIFE was set (R484). -/
def execPartCreate (f : Fn) (n : Nat) (s : State) : R :=
  command 0x0100 f n s (fun q s =>
    let r := q.payload.take 64
    if s.power.barred then s.complete f n Config.stPowerState 0 []
    else if (s.part (Pr.part r)).geo.defined then s.complete f n Config.stBadField 0 []
    else match s.partRefusal r with
      | some st => s.complete f n st 0 []
      | none => (s.stage (.part r)).complete f n Config.stOk 0 [])

/-- PART_CHANGE: checks a changed record and stages it. PART of the header and of the record agree (R420). -/
def execPartChange (f : Fn) (n : Nat) (s : State) : R :=
  command 0x0101 f n s (fun q s =>
    let r := q.payload.take 64
    if Pr.part r != q.part then s.complete f n Config.stBadField 0 []
    else match s.partRefusal r with
      | some st => s.complete f n st 0 []
      | none => (s.stage (.part r)).complete f n Config.stOk 0 [])

/-- PART_DESTROY: refused while the partition runs; otherwise image, sessions and definition go, and a record staged for it with them. -/
def execPartDestroy (f : Fn) (n : Nat) (s : State) : R :=
  command 0x0102 f n s (fun q s =>
    if s.counts q.part then s.complete f n Config.stNeedsQuiesce 0 [] else
    let old := (s.part q.part).geo.record q.part
    let s1 := (s.removePart q.part Config.stNoImage).jCmd f 0x0102 Config.stOk (some q.part) old []
    let s2 : State := { s1 with commit := { s1.commit with
      staged := s1.commit.staged.filter (fun v => match v with | .part r => Pr.part r != q.part | _ => true) } }
    s2.complete f n Config.stOk 0 [])

/-! ## COMMIT (R477 to R480) -/

/-- Whether an image with more than one module is bound. -/
def State.jobBound (s : State) : Bool :=
  (List.range 16).any (fun p => match (s.part p).image with
    | some im => decide (1 < tpModules im.bytes) && (s.part p).ranks.isSome
    | none => false)

/-- Whether a port carries a collective channel of a running partition. -/
def State.carries (s : State) (port : Nat) : Bool :=
  (List.range 16).any (fun p => (s.part p).job.running && s.groupOver p port (fun _ _ => true))

/-- Why a value of the snapshot is refused, with the DETAIL of R477. -/
def State.commitRefusal (s : State) : Staged → Option (Nat × Nat)
  | .position v => if v != s.time.position && s.jobBound then some (Config.stNeedsQuiesce, 0x1008) else none
  | .portCtl p v => if v != b2n (s.port p).disable && s.carries p then some (Config.stNeedsQuiesce, 0x0030 + 0x100 * p) else none
  | .part r => (s.partRefusal r).map (fun st => (st, 0xFFFF))
  | _ => none

/-- COMMIT: a snapshot of every staged value is checked whole and accepted. It waits behind a commit that has not completed. -/
def execCommit (f : Fn) (n : Nat) (s : State) : R :=
  if s.commit.pending && fnOk f && decide (n < 32) then .next s else
  command 0x0010 f n s (fun q s =>
    match s.commit.staged.findSome? s.commitRefusal with
    | some (st, d) => s.complete f n st d []
    | none =>
      let snap := s.commit.staged
      ({ s with commit := { s.commit with staged := [] } }).accept f.port (jFunc f) snap (some (f, n, q.postDtb)) false)

/-! ## SET_TIME (R295) -/

/-- SET_TIME: the DTB steps forward to a value while no image is admitted; it never steps back (log entry 24). -/
def execSetTime (f : Fn) (n : Nat) (s : State) : R :=
  command 0x0011 f n s (fun q s =>
    let v := fld q.payload 0 8
    if (List.range 16).any (fun p => (s.part p).image.isSome) then s.complete f n Config.stNeedsQuiesce 0 []
    else if v < s.dtb then s.complete f n Config.stBadField 0 []
    else (s.stepDtb (v : Int)).complete f n Config.stOk 0 [])

/-! ## The link and shelf regrade (R482) -/

/-- The values that a link and shelf regrade plans: equaliser settings of live ports, interface timing of working shelves. -/
def State.regradePlan (s : State) : List Staged :=
  let k := s.freeCtr + 1
  ((List.range 16).filter (fun p => (s.port p).up)).map (fun p => .equaliser p k)
    ++ ((List.range 8).filter (fun j => !(s.shelf j).halted)).map (fun j => .timing j k)

/-- Runs the link and shelf part: a commit of those values alone. -/
def State.linkRegrade (s : State) (src func : Nat) (cmd : Option (Fn × Nat × Nat)) : State :=
  s.tick.accept src func s.regradePlan cmd true

/-- REGRADE: the link and shelf part runs, and a field part is due at the next Hoar entry. It waits behind a commit. -/
def execRegrade (f : Fn) (n : Nat) (s : State) : R :=
  if s.commit.pending && fnOk f && decide (n < 32) then .next s else
  command 0x0014 f n s (fun q s =>
    ({ s with power := { s.power with regradeDue := true } }).linkRegrade f.port (jFunc f) (some (f, n, q.postDtb)))

/-- REGRADE_TIMER: 24 h of DTB after the last one, the link and shelf part runs in every state but Permafrost. -/
def execRegradeTimer (s : State) : R :=
  if s.power.off || s.power.state = 3 || s.pcie.held || s.commit.pending || s.dtb < s.power.linkRegrade + 86400000000000 then .next s
  else .next (s.linkRegrade 3 0 none)

/-! ## PART_RESET (R470) -/

/-- Core resets of a partition; in Frost they wait for the exit (R476). -/
def State.resetPartCores (s : State) (p : Nat) : State :=
  if s.power.state = 2 then { s with power := { s.power with coreResets := s.power.coreResets ||| (s.part p).geo.blocks } }
  else (geoCores (s.part p).geo).foldl (fun s c => s.resetCore c) s

/-- PART_RESET; uncommitted staged values are lost with it (R9). -/
def execPartReset (f : Fn) (n : Nat) (s : State) : R :=
  command 0x0208 f n s (fun q s =>
    let p := q.part
    let s1 := ((((s.stopCores p).revokeClaims p).revokeChans p).revokeLocks p).revokePairs p
    let s2 := ((s1.clearPart p).resetPartCores p).closeSessions p Config.stSessionState
    let s3 : State := { s2 with commit := { s2.commit with staged := [] } }
    ((s3.retireImage p Config.stAbortedReset).jDo f q).complete f n Config.stOk 0 [])

/-! ## LEASE_BREAK (R456, R457) -/

/-- Nanoseconds for which a function's host lease still holds. -/
def State.leaseLeft (s : State) (f : Fn) : Nat := if (s.fn f).leaseLive then (s.fn f).leaseDtb + 100000000 - s.dtb else 0

/-- Ends the commands of an old owner that were taken and name a partition: ST_NOT_PERMITTED, without an interrupt. -/
def State.dropCommands (s : State) (old : Fn) (p : Nat) (own : Fn × Nat) : State :=
  (s.fn old).slots.foldl (fun s e =>
    if e.2.post && e.2.ack && !e.2.done && touches e.2 == some p && (old, e.1) != own then
      s.setSlot old e.1 (e.2.finish Config.stNotPermitted 0 s.dtb [])
    else s) s

/-- LEASE_BREAK: the partition of a host whose lease has expired goes to a new owner on the issuing port. -/
def execLeaseBreak (f : Fn) (n : Nat) (s : State) : R :=
  command 0x0F03 f n s (fun q s =>
    let p := q.part
    let g := (s.part p).geo
    let old := ownerFn g
    let left := s.leaseLeft old
    let owner := fbits q.payload 0 4 0 + 32 * f.port
    let new := ownerFn { g with owner := owner }
    if left != 0 then s.complete f n Config.stLeaseHeld (max 1 (left / 1000000)) []
    else if fbits q.payload 0 31 5 != 0 || (s.ownedBy new).isSome then s.complete f n Config.stBadField 0 []
    else
      let s1 := (s.revokePairs p).updPart p (fun x => { x with geo := { x.geo with owner := owner, ownGen := (x.geo.ownGen + 1) % 65536 } })
        |>.reroute g |>.reroute { g with owner := owner }
      let s2 := (s1.dropCommands old p (f, n)).jCmd f 0x0F03 Config.stOk (some p) (leBytes 1 g.owner) (leBytes 1 owner)
      s2.complete f n Config.stOk 0 [])

/-! ## CYCLIC_WINDOW_BOUNDARY (R358, R360, R365, R401) -/

/-- The first window at or after `n` that is not skipped. -/
def nextWindow (side : List Byte) (n : Nat) : Option Nat :=
  (List.range (cycWindows side)).find? (fun k => decide (n ≤ k) && winLen side k != 0)

/-- The first hyperperiod start of a side at or after `t`. -/
def hyperFrom (side : List Byte) (t : Nat) : Nat := ceilDiv t (hyperUs side * 1000) * (hyperUs side * 1000)

/-- A window begins: a pair that it does not grant to the partition it serves suspends. -/
def State.enterWindow (s : State) (w start hyper : Nat) : State :=
  let s1 : State := { s with cyc := { s.cyc with window := w, windowStart := start, hyperStart := hyper, idle := false, starting := false } }
  (List.range 12).foldl (fun s k => if s.granted k == some (s.pair k).part then s else s.suspend k) s1

/-- The first hyperperiod of a side that a switch has made active starts at its own multiple of H. -/
def State.startSide (s : State) : State :=
  let t := hyperFrom s.cyc.active s.cyc.windowStart
  match nextWindow s.cyc.active 0 with
  | some w => if t ≤ s.dtb then s.enterWindow w t t else s
  | none => s

/-- A switch of the cyclic table at the instant `t` reaches each shelf and link group as its own copy of the DTB passes it: where one
copy passes later than another, the journal records one mixed window, from the first to the last (R365, R479). -/
def State.straddle (s : State) (t : Nat) : State :=
  let copies := (List.range 12).map (fun k => s.time.copy (4 + k))
  if copies.all (fun c => decide (c < t)) || copies.all (fun c => decide (t ≤ c)) then s else
  let late := copies.foldl (fun m c => max m (t - c)) 0
  s.journal { dtb := 0, kind := 2, src := 3, object := 0x0010, ext := 0xF, old := s.applyRec 0xFFFFFFFFFFFF,
              new := leBytes 8 (s.dtb + late) ++ leBytes 6 0xFFFFFFFFFFFF }

/-- CYCLIC_WINDOW_BOUNDARY: the window in force ends and the next begins; at the end of a hyperperiod an armed switch takes effect. -/
def execCyclicWindowBoundary (s : State) : R :=
  let c := s.cyc
  if s.power.off || s.power.state = 3 || s.pcie.held then .next s
  else if c.starting then .next s.startSide
  else if c.idle then .next s
  else
    let stop := c.windowStart + 1000 * winLen c.active c.window
    if s.dtb < stop then .next s else
    match nextWindow c.active (c.window + 1), c.armed, nextWindow c.active 0 with
    | some w, _, _ => .next (s.enterWindow w stop c.hyperStart)
    | none, some side, _ =>
      .next (State.startSide { s.straddle stop with cyc := { c with
        side := side, gen := (c.gen + 1) % 2 ^ 32, armed := none, starting := true, windowStart := stop } })
    | none, none, some w => .next (s.enterWindow w stop stop)
    | none, none, none => .next s

end Sys2Proof.Machine
end

