-- ==== Sys2Proof/Machine/Resets.lean ====
section
/-!
DEFINITION. Sys2Proof/Machine/Resets.lean: function, device, cold and core resets, boot, and what the PCIe ports do to them (R405, R406,
R418, R432, R433, R449, R453, R468 to R473).
-/

namespace Sys2Proof.Machine

/-! ## Function reset (R418, R471) -/

/-- A slot after a reset: one whose command was taken and not completed keeps its TAG and shows a status (R418). -/
def Slot.cut (q : Slot) (status : Nat) : Slot := if q.post && q.ack && !q.done then { tag := q.tag, status := status, done := true } else {}
/-- Every slot of a function after a reset. -/
def FnState.cutSlots (x : FnState) (status : Nat) : List (Nat × Slot) :=
  x.slots.foldl (fun m e => Cells.put (fun _ => {}) m e.1 (e.2.cut status)) []

/-- Ends the weight loads that a function issued; a companion it issued only loses its command (Table 15.3). -/
def State.abortLoads (s : State) (f : Fn) : State :=
  (List.range 16).foldl (fun s p =>
    match (s.part p).ws.load with
    | none => s
    | some l =>
      if l.cmd.1 = f then s.endLoad p Config.stAbortedReset 0 true
      else if l.comp.map (fun q => q.1) = some f then s.updLoad p (fun l => { l with comp := none }) else s) s

/-- A function reset: slots, event queue, MSI-X state and stamps are cleared, PERMIT and the host lease kept; staged values are lost (R9),
the sessions of the partition it owns close and its weight loads end. -/
def State.functionReset (s : State) (f : Fn) : State :=
  let x := s.fn f
  let s1 := s.setFn f { slots := x.cutSlots Config.stAbortedReset, permit := x.permit, leaseDtb := x.leaseDtb, leaseLive := x.leaseLive }
  let s2 : State := { s1 with commit := { s1.commit with staged := [] } }
  let s3 := match s2.ownedBy f with | some p => s2.closeSessions p Config.stSessionState | none => s2
  s3.abortLoads f

/-- Every function of a port. -/
def State.portReset (s : State) (port : Nat) : State := (List.range 17).foldl (fun s i => s.functionReset ⟨port, i⟩) s

/-! ## Permafrost exit (Table 21.4), which a reset input also starts -/

/-- From Permafrost to Frost: stacks and ports start again, the DTB is to be aligned, and every function is reset. -/
def State.leavePermafrost (s : State) : State :=
  let s1 : State := { s with
    power := { s.power with state := 2, regradeDue := true, fieldRegrade := 0, linkRegrade := 0 }
    time := { s.time with dtb := 0, dtbLost := true, copies := [], nbrs := [], thetas := [], lockCount := 0, locked := false } }
  let s0 := (List.range 8).foldl (fun s k => s.updShelf k (fun x => { x with pcFenced := Config.trainingFails s1.freeCtr k % 2 ^ 64 })) s1
  let s2 := (List.range 16).foldl (fun s p => s.updPort p (fun x => { x with
    state := if x.disable then 7 else if x.cblHigh then 0 else 1, lowRate := true })) s0.tick
  ((s2.portReset 0).portReset 1).timeRefresh

/-! ## Device reset (R469, R473) -/

/-- Shelves whose stack halted. -/
def State.haltedMask (s : State) : Nat := (List.range 8).foldl (fun m k => m + b2n (s.shelf k).halted * 2 ^ k) 0

/-- Journals a partition that a reset removes. -/
def State.journalPart (s : State) (p : Nat) : State :=
  if !(s.part p).geo.defined then s
  else s.journal { dtb := 0, kind := 1, src := 3, part := some p, object := 0x0102, ext := 0xF, old := (s.part p).geo.record p }

/-- Journals a PERMIT that returns to its Device value (R421). -/
def State.journalPermit (s : State) (f : Fn) : State :=
  let now := (s.fn f).permit
  let dev := (fnReset (fnKey f)).permit
  if now = dev then s
  else s.journal { dtb := 0, kind := 1, src := 3, func := jFunc f, object := 0x0001, ext := 0xF, old := leBytes 1 now, new := leBytes 1 dev }

/-- Journals what a device reset returns to its default (R473). -/
def State.journalDefaults (s : State) : State :=
  let vs : List Staged := [.position 0, .timeCfg 0] ++ (List.range 16).map (fun p => .portCtl p 0) ++ [.powerCap 2800, .leakShutdown 0]
  let s1 := vs.foldl (fun s v => s.journalStaged 3 0 v) s
  (List.range 16).foldl State.journalPart (allFns.foldl State.journalPermit s1)

/-- A shelf before the reset clears it: dirty lines are written back; a halted stack's contents are lost. -/
def State.flushShelf (s : State) (k : Nat) : State :=
  let sh := s.shelf k
  if sh.halted then { s.loosePools 16 (0xFF * 2 ^ (8 * k)) with freeCtr := s.freeCtr + 1, hbm := s.hbm.lose (flat (8 * k) 0) (flat (8 * k + 8) 0) s.freeCtr }
  else sh.cache.foldl (fun s l => s.writeBack (lineBase k l.line) l) s

/-- A shelf after a device reset: its stack retrained, PC_FENCED set where that fails (R269); one at 95 °C or more waits to cool (R272). -/
def Shelf.afterReset (x : Shelf) (ev k : Nat) : Shelf :=
  { temp := x.temp, waitCool := decide (95 ≤ x.temp), timingPlan := x.timingPlan, pcFenced := Config.trainingFails ev k % 2 ^ 64 }
/-- A port after a device reset trains again from the stored results (R277). -/
def Port.afterReset (x : Port) : Port :=
  { state := if x.cblHigh then 0 else 1, laneRev := x.laneRev, polInv := x.polInv, cblHigh := x.cblHigh, eqPlan := x.eqPlan, eqFound := x.eqFound }
/-- A function after a device reset. -/
def FnState.afterReset (x : FnState) (key : Nat) : FnState := { (fnReset key) with slots := x.cutSlots Config.stDeviceReset }

/-- What the reset of all logic leaves: fuses, flash, HBM, the DTB and the retention registers (step 3). -/
def State.resetLogic (s : State) (cause : Nat) : State :=
  { s with
    freeCtr := s.freeCtr + 30000
    time := { dtb := s.time.dtb, copies := s.time.copies, dtbLost := s.time.dtbLost }
    commit := {}
    fns := s.fns.foldl (fun m e => Cells.put fnReset m e.1 (e.2.afterReset e.1)) []
    fw := { s.fw with debugScope := 0, debugExpires := 0, challenge := none, svcRestarts := 0, svcRestart := false, svcDown := false }
    parts := s.parts.foldl (fun m e => Cells.put (fun _ => {}) m e.1 e.2.afterRemoval) []
    pcie := { s.pcie with genA := 0, genB := 0 }
    cores := []
    coresLost := some s.freeCtr
    tablesLost := some (s.freeCtr + 10000)
    shelves := (List.range 8).foldl (fun m k => Cells.put (fun _ => {}) m k ((s.shelf k).afterReset s.freeCtr k)) []
    watches := []
    msgs := []
    ports := (List.range 16).foldl (fun m p => Cells.put (fun _ => {}) m p (s.port p).afterReset) []
    chans := []
    groups := []
    cyc := {}
    pairs := []
    power := { s.power with
      state := 0, fatal := false, fatalCause := 0, regrades := 0, resetCause := cause, coreResets := 0, barred := s.power.endOfLife }
    cool := { s.cool with
      pinPeak := 0, cap := 2800, capping := false, leakShutdown := false, vinDips := 0, capMs := 0, fieldSteps := [0, 0, 0, 0]
      fieldBelow := [0, 0, 0, 0], capSamples := [], capTick := 0, capIn := false, capIdle := 100 }
    fields := [] }

/-- Steps 1 to 3 of R469. -/
def State.deviceStop (s : State) (cause : Nat) : State :=
  let s1 := (s.jEvent Config.stDeviceReset 0 none (leBytes 1 cause ++ leBytes 1 s.haltedMask)).journalDefaults
  ((List.range 8).foldl State.flushShelf s1).resetLogic cause

/-- Boot (Table 19.3): slot A, else slot B; its root patch, service firmware and special-function table are loaded, and the boot entry is
journalled and sealed. With neither slot valid, root firmware runs alone (R433). -/
def State.boot (s : State) : State :=
  let x := s.fw
  let ok := x.sound 0 || x.sound 1
  let t := b2n (!x.sound 0 && x.sound 1)
  let b := if ok then x.image t else []
  let s1 : State := { s with fw := { x with
    bootSlot := t
    svcImage := t
    svcDown := !ok
    rootHead := b.take 512
    svcHead := b.take 512
    sft := if b.isEmpty then [] else Fi.bytes b 3 } }
  (s1.journal { dtb := 0, kind := 4 }).seal

/-- A device reset with the event that follows it (R419, R453). -/
def State.deviceReset (s : State) (cause detail : Nat) : State :=
  let s1 := if s.power.state = 3 then s.leavePermafrost else s
  (s1.deviceStop cause).boot.event { status := Config.stDeviceReset, device := true, detail := detail }

/-- DEVICE_RESET. -/
def execDeviceReset (f : Fn) (n : Nat) (s : State) : R := command 0x0012 f n s (fun _ s => s.deviceReset 2 0)

/-- Whether nothing can reset: unpowered, or held in reset. -/
def State.dead (s : State) : Bool := s.power.off || s.pcie.held

/-- PERST_BOTH: both PERST# inputs are asserted: a device reset that is held at step 3. -/
def execPerstBoth (s : State) : R :=
  if s.dead then .next s else
  let s1 := if s.power.state = 3 then s.leavePermafrost else s
  .next { s1.deviceStop 1 with pcie := { s1.pcie with held := true } }

/-- PERST_RELEASE: both inputs are released and the device boots. -/
def execPerstRelease (s : State) : R :=
  if s.power.off || !s.pcie.held then .next s else .next (State.boot { s with pcie := { s.pcie with held := false } })

/-! ## Device-fatal faults (R24, R449, R453) -/

/-- FIELD_PLL_LOCK_LOSS: all four fields stop issuing, and a device-fatal fault is raised. -/
def execFieldPllLockLoss (field : Nat) (s : State) : R :=
  if 4 ≤ field then .fault .noSuchUnit
  else if s.dead || 2 ≤ s.power.state then .next s
  else .next { s with power := { s.power with fatal := true, fatalCause := 1 } }

/-- DEVICE_FATAL_FAULT: a lost PLL lock (1), a lockstep mismatch (2) or a halted stack (3) is journalled and resets the device. -/
def execDeviceFatalFault (cause : Nat) (s : State) : R :=
  if s.dead || !(cause == 2 || ((cause == 1 || cause == 3) && s.power.fatalCause == cause)) then .next s else
  let st := if cause = 3 then Config.stThermalHalt else Config.stDeviceReset
  let s1 := s.jEvent st 0 none (leBytes 1 cause)
  let s2 : State := { s1 with power := { s1.power with fatal := true, lastFatal := st } }
  .next (s2.deviceReset (if cause = 2 then 4 else 3) cause)

/-! ## Core reset, function reset and the PCIe ports (R405, R406, R468) -/

/-- CORE_RESET: root firmware resets a core; the fields are powered in Active and Hoar only. -/
def execCoreReset (c : Nat) (s : State) : R :=
  if Config.cores ≤ c then .fault .noSuchUnit else if s.dead || 2 ≤ s.power.state then .next s else .next (s.resetCore c)

/-- FUNCTION_RESET: an FLR, or PERST# of the function's port alone, which also starts the exit from Permafrost. -/
def execFunctionReset (f : Fn) (s : State) : R :=
  if !fnOk f then .fault .noSuchUnit
  else if s.dead then .next s
  else if s.power.state = 3 then .next s.leavePermafrost
  else .next (s.functionReset f)

/-- Link bit of a port. -/
def PcieState.setLink (x : PcieState) (port : Nat) (b : Bool) : PcieState := if port = 0 then { x with linkA := b } else { x with linkB := b }
def PcieState.link (x : PcieState) (port : Nat) : Bool := if port = 0 then x.linkA else x.linkB

/-- PCIE_LINK_DOWN: the port's link is lost; nothing else changes. -/
def execPcieLinkDown (port : Nat) (s : State) : R :=
  if 2 ≤ port then .fault .noSuchUnit else .next { s with pcie := s.pcie.setLink port false }

/-- PCIE_LINK_UP: a port whose link was down trains, and every function of it is reset. -/
def execPcieLinkUp (port : Nat) (s : State) : R :=
  if 2 ≤ port then .fault .noSuchUnit
  else if s.dead || s.power.state = 3 || s.pcie.link port then .next s
  else .next (State.portReset { s with pcie := s.pcie.setLink port true } port)

end Sys2Proof.Machine
end

