-- ==== Sys2Proof/Machine/Shelf.lean ====
section
/-!
DEFINITION. Sys2Proof/Machine/Shelf.lean: a request at its home bank (R252 to R255, R268 to R270), the reducer operations as rows of
their own (R257, R261, R263), and thermal evaluation (R271, R272).
-/

namespace Sys2Proof.Machine

/-! ## Errors of the stack and the cache (R254, R268 to R270) -/

/-- Fences a pseudo-channel: counted, journalled and reported (R269). -/
def State.fencePc (s : State) (p a : Nat) : State :=
  let k := shelfOf a
  let s1 := s.updShelf k (fun sh => { sh with pcFenced := setBit sh.pcFenced (pcOf a) true, parityFences := satAdd 0xFF sh.parityFences 1 })
  (s1.jEvent Config.stHbmFenced (k * 65536) (some p) (leBytes 8 (pcOf a))).report p Config.stHbmFenced 0 0xFFFFFFFFFFFF ⟨1, k⟩

/-- An uncorrectable error is counted and reported; nothing is delivered. -/
def State.memUe (s : State) (p k : Nat) : State :=
  (s.updShelf k (fun sh => { sh with ueCount := satAdd 0xFFFF sh.ueCount 1 })).report p Config.stMemUncorrectable 0 0xFFFFFFFFFFFF ⟨1, k⟩

/-- What an access to the stack comes to: none where it is refused or not delivered. -/
def State.stackAccess (s : State) (p a : Nat) (isRead : Bool) (ev : MemEvent) : State × Bool :=
  let k := shelfOf a
  let s1 := if ev.parityFails = 0 then s else s.updShelf k (fun sh => { sh with parityRetries := satAdd 0xFFFFFFFF sh.parityRetries 1 })
  if 4 ≤ ev.parityFails then (s1.fencePc p a, false)
  else if isRead && ev.onDie = 2 then (s1.memUe p k, false)
  else if isRead && ev.onDie = 1 then (s1.updShelf k (fun sh => { sh with odeccCorr := satAdd 0xFFFFFFFF sh.odeccCorr 1 }), true)
  else (s1, true)

/-! ## CACHE_ACCESS (R253 to R255) -/

/-- Merges bytes under their element masks; a word of a reducer region is changed by reducers alone (R125, R256; log entry 123). -/
def State.mergeBytes (s : State) (p a : Nat) (ds : List (Byte × Byte)) : State :=
  ds.zipIdx.foldl (fun s d =>
    if d.1.2 = 0 || (s.regionAt p (a + d.2)).isSome then s
    else s.putHb (a + d.2) ((d.1.1 &&& d.1.2) ||| (s.hb (a + d.2) &&& ~~~d.1.2))) s

/-- A read of `n` bytes within a line: classes 0 and 1 allocate it, bulk (2) and sleet (3) reads never do; all but sleet fill what a present
line does not hold. -/
def State.bankRead (s : State) (p cls a n : Nat) (ev : MemEvent) : State :=
  let hit := match s.line a with | some e => (List.range n).all (fun i => e.valid.getD (a % 128 + i) false) | none => false
  let r := if hit then (s, true) else s.stackAccess p a true ev
  if !r.2 then r.1 else
  let s1 := (List.range n).foldl (fun s i => s.useByte p cls (a + i)) r.1
  { s1 with out := { s1.out with readData := leNat ((List.range n).map (fun i => s1.hb (a + i))) } }

/-- A masked write within a line; a bulk write of an absent line goes to the stack with its mask. -/
def State.bankWrite (s : State) (p cls a : Nat) (ds : List (Byte × Byte)) (ev : MemEvent) : State :=
  let s1 := s.haveLine p cls a
  if (s1.line a).isSome then (s1.mergeBytes p a ds).answer
  else
    let r := s1.stackAccess p a false ev
    if r.2 then (r.1.mergeBytes p a ds).answer else r.1

/-- Bytes a request covers, cut at the end of its line. -/
def reqBytes (o : Nat) : CacheReq → Nat
  | .read n => min n (128 - o)
  | .write ds => min ds.length (128 - o)

/-- Serves a request that its home bank accepts. -/
def State.bankServe (s : State) (p cls a : Nat) (req : CacheReq) (ev : MemEvent) : State :=
  let k := shelfOf a
  match s.line a with
  | some _ =>
    if ev.cacheEcc = 2 then
      (s.updShelf k (fun sh => { sh with cache := sh.cache.filter (fun e => e.line != lineOf a) })).memUe p k
    else
      let s1 := if ev.cacheEcc = 1 then s.updShelf k (fun sh => { sh with cacheCorr := satAdd 0xFFFF sh.cacheCorr 1 }) else s
      match req with
      | .read _ => s1.bankRead p cls a (reqBytes (a % 128) req) ev
      | .write ds => s1.bankWrite p cls a (ds.take (reqBytes (a % 128) req)) ev
  | none => match req with
    | .read _ => s.bankRead p cls a (reqBytes (a % 128) req) ev
    | .write ds => s.bankWrite p cls a (ds.take (reqBytes (a % 128) req)) ev

/-- CACHE_ACCESS: a request of class 0 latency-critical, 1 normal, 2 bulk or 3 sleet is served at its home bank; an address of a
group the partition does not own is refused (R232), a fenced one (R269), and a halted stack takes none (R271), nor one whose reset
waits for it to cool (R272). -/
def execCacheAccess (p cls : Nat) (a : PhysAddr) (req : CacheReq) (ev : MemEvent) (s : State) : R :=
  if 16 ≤ p || 4 ≤ cls || 64 ≤ a.group || Config.groupBytes ≤ a.off then .fault .noSuchUnit else
  let f := flat a.group a.off
  if s.shelfHeld (shelfOf f) then .next s
  else if !bit (s.part p).geo.groups a.group then .next (s.report p Config.stAccessRights 0 0xFFFFFFFFFFFF ⟨1, shelfOf f⟩)
  else if s.isFenced f then .next (s.report p Config.stHbmFenced 0 0xFFFFFFFFFFFF ⟨1, shelfOf f⟩)
  else .next (s.bankServe p cls f req ev)

/-! ## REDUCER_OP (R257, R259) -/

/-- Bytes of a REDUCER_OP's word and the format `reducerNew` reads: `wide` 0 INT32, 1 INT64 or 64 bits, 2 UINT32, 3 FP32. -/
def opBytes (wide : Nat) : Nat := if wide = 1 then 8 else 4
def opFmt (wide : Nat) : Nat := if wide = 2 then 1 else if wide = 3 then 2 else 0
/-- Whether Table 12.2 gives the operation in the format. -/
def reducerOk (op wide : Nat) : Bool :=
  match op with
  | 1 => decide (wide ≤ 1)
  | 2 | 3 => wide == 0 || wide == 2 || wide == 3
  | 6 | 7 => decide (wide ≤ 1)
  | _ => false

/-- REDUCER_OP: the word at an interleaved offset takes its new value at its home bank; the old value is answered. A shelf without service
takes none (R271, R272), nor does one in a window with no reducer weight for the partition but for lease locks (R359); a fenced pseudo-channel refuses it (R269). -/
def execReducerOp (p op wide a b addr : Nat) (s : State) : R :=
  if 16 ≤ p then .fault .noSuchUnit else
  if !reducerOk op wide then .next s else
  match interPhys (s.part p).geo addr with
  | none => .next (s.report p Config.stAccessRights 0 0xFFFFFFFFFFFF ⟨1, 0⟩)
  | some f =>
    if s.shelfHeld (shelfOf f) || (decide (op ≤ 3) && s.redShut p) then .next s
    else if s.isFenced f then .next (s.report p Config.stHbmFenced 0 0xFFFFFFFFFFFF ⟨1, shelfOf f⟩) else
    let n := opBytes wide
    let old := s.leX (s.part p).geo addr n
    let t := ((s.storeX p addr (leBytes n (reducerNew op (opFmt wide) n old a b))).noteShelf (shelfOf f) p 0x260 1).answer
    .next { t with out := { t.out with readData := old } }

/-! ## GLACIER_ADD and ORDERED_SUM_CONTRIB (R261 to R263) -/

/-- An entry of a shelf's region table that is in use with the given operation, and holds the element. -/
def State.regionEntry (s : State) (shelf entry op elem : Nat) : Option Region :=
  match (s.shelf shelf).regions[entry]? with
  | none => none
  | some b =>
    let g := regionOf b
    if g.valid && g.op == op && g.elemBytes != 0 && decide ((elem + 1) * g.elemBytes ≤ g.size) && !s.shelfHeld shelf && !s.redShut g.owner
      then some g
    else none

/-- GLACIER_ADD: a contribution, coded in the region's SRC_FMT, enters its element's record. -/
def execGlacierAdd (shelf entry elem x beat : Nat) (s : State) : R :=
  if 8 ≤ shelf || 256 ≤ entry then .fault .noSuchUnit else
  match s.regionEntry shelf entry 4 elem with
  | none => .next s
  | some g => .next (s.glacier shelf entry g elem (decodeCode g.src (x % 2 ^ fmtWidth g.src)).1 (beat % 2 ^ 48))

/-- ORDERED_SUM_CONTRIB: an FP32 contribution with its ordinal enters its element's record. -/
def execOrderedSumContrib (shelf entry elem ordinal x beat : Nat) (s : State) : R :=
  if 8 ≤ shelf || 256 ≤ entry then .fault .noSuchUnit else
  match s.regionEntry shelf entry 5 elem with
  | none => .next s
  | some g => .next (s.ordered shelf entry g elem ordinal (x % 2 ^ 32) (beat % 2 ^ 48))

/-! ## SHELF_THERMAL_EVALUATION (R271, R272) -/

/-- Throttle step and count of evaluations below 80 °C after an evaluation at `t` (Table 12.7, below 105 °C). -/
def thermalStep (t : Int) (step below : Nat) : Nat × Nat :=
  if t < 80 then (if 9 ≤ below then (step - 1, 0) else (step, below + 1))
  else if t < 85 then (step, 0)
  else if t < 95 then (min 3 (step + 1), 0)
  else (max 2 (min 3 (step + 1)), 0)

/-- A stack halts: its shelf's dirty lines are discarded and journalled, and a device-fatal fault is raised. -/
def State.haltStack (s : State) (k : Nat) : State :=
  let dirty : CacheLine → Bool := fun l => l.dirty.any id
  let lost := ((s.shelf k).cache.filter dirty).length
  let s1 := s.updShelf k (fun sh => { sh with halted := true, cache := sh.cache.filter (fun l => !dirty l) })
  let s2 := s1.jEvent Config.stThermalHalt (k * 0x10000) none (leBytes 4 lost)
  ({ s2 with power := { s2.power with fatal := true, fatalCause := 3 } }).event
    { status := Config.stThermalHalt, device := true, srcKind := 1, src := k }

/-- SHELF_THERMAL_EVALUATION: the highest of the temperatures read since the last evaluation sets the throttle step and the refresh interval;
at 105 °C the stack halts. TEMP shows the last of them. A halted stack only shows its temperature. -/
def execShelfThermalEvaluation (shelf : Nat) (temps : List Int) (s : State) : R :=
  if 8 ≤ shelf then .fault .noSuchUnit else
  match temps with
  | [] => .next s
  | t0 :: rest =>
    if s.power.off || s.power.state = 3 then .next s else
    let t := rest.foldl max t0
    let s1 := s.updShelf shelf (fun sh => { sh with temp := min 255 ((rest.getLast?).getD t0).toNat, waitCool := sh.waitCool && decide (95 ≤ t) })
    if (s.shelf shelf).halted then .next s1
    else if 105 ≤ t then .next (s1.haltStack shelf)
    else .next (s1.updShelf shelf (fun sh =>
      let q := thermalStep t sh.step sh.below80
      { sh with
        step := q.1
        below80 := q.2
        refreshX2 := if t < 92 then false else sh.refreshX2 || decide (95 ≤ t)
        stepMax := max sh.stepMax q.1 }))

end Sys2Proof.Machine
end

