-- ==== Sys2Proof/Machine/Admit.lean ====
section
/-!
DEFINITION. Sys2Proof/Machine/Admit.lean: ADMIT with its checks (Tables 5.12 and 11.7, R303), the layout of a partition's HBM (R242) and
what admission sets up (R98, R209, R244, R249, R258); BIND (R299, R300, R303).
-/

namespace Sys2Proof.Machine

/-! ## Records of the tile program -/

/-- A field of a record: offset, bytes, bits; the record is refused where it is not zero. -/
abbrev Zero := Nat × Nat × Nat
/-- Whether the named fields of a record are all 0. -/
def clean (r : List Byte) (zs : List Zero) : Bool := zs.all (fun z => fbits r z.1 z.2.1 z.2.2 == 0)

/-- Reserved fields of each section kind's record (Tables 4.6, 5.3, 5.4, 5.6, 5.9, 5.10, 10.1, 10.2, 10.6, 14.1, 16.5). -/
def secZeros : Nat → List Zero
  | 0x01 => [(0, 31, 3), (12, 31, 0)]
  | 0x02 => [(4, 31, 17), (12, 31, 0), (40, 31, 16), (44, 31, 0)]
  | 0x03 => [(0, 31, 7)]
  | 0x04 => [(0, 31, 20), (4, 31, 23)]
  | 0x05 => [(0, 31, 16), (12, 31, 24)]
  | 0x06 => [(0, 31, 22), (4, 31, 16), (16, 31, 24), (20, 15, 14), (24, 31, 16), (32, 31, 16), (36, 31, 0), (56, 63, 40)]
  | 0x07 => [(0, 31, 12), (16, 63, 49), (24, 63, 0)]
  | 0x08 => [(0, 31, 15), (4, 31, 25), (8, 31, 16), (12, 31, 24)]
  | 0x09 => [(0, 31, 3), (20, 31, 16), (28, 31, 0)]
  | 0x0A => [(0, 63, 48), (16, 31, 25), (20, 31, 24), (24, 63, 0)]
  | 0x0B => [(0, 31, 16), (12, 31, 0)]
  | _ => []

/-- Fewest and most records of a section kind (Table 5.2). -/
def secCount (b : List Byte) : Nat → Nat × Nat
  | 0x01 => (0, 8) | 0x02 => (1, 65536) | 0x03 => (1, 64) | 0x04 => (0, 1048576) | 0x05 => (0, 65536) | 0x06 => (0, 256)
  | 0x07 => (0, 4096) | 0x08 => (0, 1024) | 0x09 => (tpLayers b, tpLayers b) | 0x0A => (1, 2 ^ 32)
  | _ => (100 * tpBlocks b, 100 * tpBlocks b)

/-- The section kinds of Table 5.2. -/
def secKinds : List Nat := [0x01, 0x02, 0x03, 0x04, 0x05, 0x06, 0x07, 0x08, 0x09, 0x0A, 0x0B]

/-- Whether no value of a list occurs twice. -/
def distinct : List Nat → Bool
  | [] => true
  | a :: r => !r.contains a && distinct r

/-- Check 4 on a tensor record (Tables 5.4 and 5.5). -/
def tensorOk (r : List Byte) : Bool :=
  let fmt := fbits r 4 4 0
  let rank := fbits r 4 11 9
  let k := fbits r 40 15 0
  fmtValid fmt && decide (fbits r 4 7 5 ≤ 4) && decide (1 ≤ rank) && decide (rank ≤ 6) && decide (fbits r 4 15 12 ≤ 2)
    && (fbits r 4 15 12 != 2 || rank == 4) && (if fmt = 0x18 then decide (5 ≤ k) && decide (k ≤ 16) else k == 0)
    && (List.range 6).all (fun i =>
      let d := fld r (16 + 4 * i) 4
      (decide (i < rank) || d == 0) && (!bit d 31 || bits d 30 3 == 0))

/-- Check 4 on the records of each kind beside their reserved fields: encodings, ranges and uniqueness (log entry 28). -/
def recordsOk (b : List Byte) : Bool :=
  let nb := 100 * tpBlocks b
  let recs := tpRecords b
  let uniq : Nat → (List Byte → Nat) → Bool := fun k f => distinct ((recs k).map f)
  (recs 0x02).all tensorOk && uniq 0x02 (fun r => fld r 0 4)
    && (recs 0x03).zipIdx.all (fun e => fbits e.1 0 5 0 == e.2 && fld e.1 4 4 % 16 == 0
      && decide (fld e.1 40 4 + fld e.1 44 4 ≤ (recs 0x04).length))
    && (recs 0x04).all (fun r => decide (fbits r 0 19 16 ≤ 6) && decide (fbits r 0 15 0 < nb)
      && (decide (2 ≤ fbits r 0 19 16) || decide (fbits r 4 19 0 < 256)))
    && (recs 0x05).all (fun r => decide (fbits r 4 15 0 < nb) && decide (fbits r 4 31 16 < nb)) && uniq 0x05 (fun r => fbits r 0 15 0)
    && uniq 0x07 (fun r => fbits r 0 11 0)
    && (recs 0x08).all (fun r => decide (1 ≤ fbits r 8 15 0) && decide (fbits r 4 24 0 ≤ 16777216)
      && (fbits r 0 11 10 != 1 || fbits r 12 23 0 == 0)) && uniq 0x08 (fun r => fbits r 0 9 0)
    && (recs 0x0A).all (fun r =>
      let u : UnitId := ⟨fbits r 16 19 16, fbits r 16 15 0⟩
      decide (u.num < ([nb, 8, 16, 256].getD u.kind 0)) && decide (1 ≤ fld r 8 4) && (decide (fld r 8 4 ≤ 1) || decide (1 ≤ fld r 12 4))
        && (recs 0x0A).all (fun q => !planOf q u || fbits q 16 23 20 == fbits r 16 23 20))
    && (recs 0x0B).all (fun r => fld r 4 4 % 16 == 0 && decide (1 ≤ fld r 8 4) && decide (fbits r 0 15 0 < nb))
    && uniq 0x0B (fun r => fbits r 0 15 0)

/-! ## Group records at admission (R303) -/

def sumIn : List Nat := [0x00, 0x01, 0x02, 0x03, 0x04, 0x05, 0x06, 0x07, 0x10, 0x11, 0x12, 0x13, 0x14]
def sumOut : List Nat := [0x00, 0x01, 0x02]
/-- FP32, INT32, INT8, UINT8 (R317). -/
def minMaxFmts : List Nat := [0x00, 0x08, 0x0A, 0x0B]

/-- Whether an area address is 0 or of the interleaved form. -/
def areaOk (a : Nat) : Bool := a == 0 || a / 2 ^ 60 == 1

/-- Whether admission accepts a group record. -/
def groupOk (g : Geometry) (vcs modules : Nat) (r : List Byte) : Bool :=
  let op := Gr.op r
  let red := Gr.redop r
  let ranks := (List.range (grN r)).map (grRank r)
  decide (red ≤ 4) && decide (Gr.padKind r ≤ 4) && fmtValid (Gr.elemFmt r) && fmtValid (Gr.outFmt r) && decide (1 ≤ Gr.chunk r)
    && decide (1 ≤ Gr.pkg r) && decide (Gr.vcOrd r < vcs) && decide (grR3 r ≤ 80) && ranks.all (fun k => decide (k < modules))
    && distinct ranks && ((red == 0) == (op == 2 || op == 3)) && (op != 3 || (grR1 r == 2 && grR2 r == 1 && grR3 r == 1))
    && (red != 1 || (sumIn.contains (Gr.elemFmt r) && sumOut.contains (Gr.outFmt r)))
    && (red != 2 || (Gr.elemFmt r == 0 && sumOut.contains (Gr.outFmt r) && decide (Gr.pkg r ≤ 1024)))
    && ((red != 3 && red != 4) || (minMaxFmts.contains (Gr.elemFmt r) && Gr.outFmt r == Gr.elemFmt r))
    && (!isMx (Gr.elemFmt r) || (Gr.cap r % 32 == 0 && Gr.chunk r % 32 == 0))
    && (decide (2 ≤ op) || Gr.redAddr r != 0) && (op != 2 || Gr.outAddr r != 0) && areaOk (Gr.redAddr r) && areaOk (Gr.outAddr r)
    && (!Gr.overlap r || (Gr.signal r % 4 == 0 && (devPhys g (Gr.signal r)).isSome))

/-! ## Shares of channel groups (R231) -/

/-- In-group offset of the first byte at or after interleaved offset `x` in ordinal `j` of `n`. -/
def inGroup (n j x : Nat) : Nat := (x / 4096 + n - 1 - j) / n * 4096 + (if x / 4096 % n = j then x % 4096 else 0)
/-- Physical group of ordinal `j`. -/
def ordGroup (g : Geometry) (j : Nat) : Nat := (nthBit g.groups j 0 64).getD 0
/-! ## Reducer regions of an image (R258, R314; log entry 29) -/

/-- Reducer operation of a group's REDOP (Tables 12.2 and 14.1). -/
def redCode : Nat → Nat | 1 => 4 | 2 => 5 | 3 => 3 | _ => 2
/-- Groups whose results the reducers form. -/
def groupRecs (b : List Byte) : List (List Byte) := (tpRecords b 0x06).filter (fun r => Gr.redop r != 0 && Gr.redAddr r != 0)
/-- An interleaved range as one region for each channel group it touches. -/
def spread (g : Geometry) (lo hi : Nat) (r : Nat → Region) : List Region :=
  ((List.range (geoG g)).map (fun j =>
    let a := inGroup (geoG g) j lo
    { r j with offset := a, group := ordGroup g j, size := inGroup (geoG g) j hi - a })).filter (fun r => r.size != 0)
/-- The regions of a group: a sum's results in the output area with their records in the reducer area, the words of MAX and MIN in the
reducer area, INT8 and UINT8 extended to 32 bits there (R317). -/
def groupRegions (g : Geometry) (r : List Byte) : List Region :=
  let base : Region := { (default : Region) with op := redCode (Gr.redop r), rnd := Gr.rnd r, sat := Gr.sat r, valid := true }
  let red := bits (Gr.redAddr r) 39 0
  let out := bits (Gr.outAddr r) 39 0
  if Gr.redop r ≤ 2 then
    if Gr.outAddr r = 0 then [] else
    spread g out (out + fmtWidth (Gr.outFmt r) / 8 * Gr.cap r) (fun j =>
      { base with src := Gr.elemFmt r, dst := Gr.outFmt r, expect := Gr.pkg r, recOff := inGroup (geoG g) j red / 64 * 64 })
  else
    let f := if Gr.elemFmt r = 0x00 then 0x00 else 0x08
    spread g red (red + 4 * Gr.cap r) (fun _ => { base with src := f, dst := f })
/-- The regions of the layer monitors: FP32 MAX (R97). -/
def monitorRegions (g : Geometry) (at_ n : Nat) : List Region :=
  spread g at_ (at_ + n) (fun _ => { (default : Region) with op := 3, valid := true })
/-- Whether two regions share bytes. -/
def Region.meets (a b : Region) : Bool := a.group == b.group && decide (a.offset < b.offset + b.size) && decide (b.offset < a.offset + a.size)
/-- Whether no two of a list of regions overlap. -/
def apart : List Region → Bool
  | [] => true
  | a :: r => r.all (fun b => !a.meets b) && apart r
/-- Whether admission accepts an image's regions: whole lines, and no two of them overlap. -/
def regionsOk (g : Geometry) (b : List Byte) : Bool :=
  let rs := (groupRecs b).flatMap (groupRegions g)
  rs.all (fun r => r.offset % 128 == 0) && apart rs

/-! ## The checks of Table 5.12 -/

/-- Largest LIMIT of a patch target (R68, R117). -/
def targetMax : Nat → Nat | 2 => 64 | 3 => 32 | 5 => 2048 | _ => 65535

/-- Whether the header's reserved fields are 0 and its numbers in range. -/
def headerOk (b : List Byte) : Bool :=
  clean b [(8, 63, 48), (16, 63, 48), (24, 31, 8), (32, 31, 7), (36, 31, 14), (40, 31, 11), (48, 63, 0), (56, 63, 0)]
    && decide (1 ≤ fbits b 24 7 0) && decide (fbits b 24 7 0 ≤ 32) && decide (1 ≤ tpBlocks b) && decide (tpBlocks b ≤ 100)
    && decide (1 ≤ tpModules b) && decide (tpModules b ≤ 10240) && decide (tpLayers b ≤ 1024)

/-- Whether every known section has the size of its records and lies in the image, with as many records as Table 5.2 gives. -/
def sectionsFit (b : List Byte) : Bool :=
  decide (fld b 28 4 + 16 * fbits b 24 7 0 ≤ b.length)
    && (tpDir b).all (fun e => let k := fbits e 0 7 0
      !secKinds.contains k || (fld e 8 4 == fld e 12 4 * secRecord k && decide (fld e 4 4 + fld e 8 4 ≤ b.length)))
    && secKinds.all (fun k => let n := (tpRecords b k).length
      decide ((secCount b k).1 ≤ n) && decide (n ≤ (secCount b k).2))
    && (tpRecords b 0x0B).all (fun r => decide (fld r 4 4 + 16 * fld r 8 4 ≤ b.length))

/-- Check 4: reserved fields and encodings. -/
def fieldsOk (b : List Byte) : Bool :=
  headerOk b && (tpDir b).all (fun e => fbits e 0 30 8 == 0)
    && distinct (((tpDir b).map (fun e => fbits e 0 7 0)).filter secKinds.contains)
    && secKinds.all (fun k => (tpRecords b k).all (fun r => clean r (secZeros k))) && recordsOk b

/-- Check 4 on the group records (R303). -/
def groupsOk (g : Geometry) (req b : List Byte) : Bool :=
  let rs := tpRecords b 0x06
  distinct (rs.map (fun r => fbits r 0 7 0)) && rs.all (groupOk g (Req.vcs req) (tpModules b)) && regionsOk g b

/-- Check 9: a kind that is refused, or an accumulating counter in an image no group of which sums in exact mode (R129, R221; log
entry 127). -/
def claimsBad (b : List Byte) : Bool :=
  (tpRecords b 0x08).any (fun r => fbits r 0 11 10 == 0 || fbits r 0 11 10 == 3
    || (fbits r 0 11 10 == 2 && !(tpRecords b 0x06).any (fun q => Gr.redop q == 1)))

/-- The first check of Table 5.12 that fails: its status and order number. -/
def imageRefusal (g : Geometry) (req b : List Byte) : Option (Nat × Nat) :=
  let vars := tpRecords b 0x01
  if fld b 0 4 != 0x31504C54 || fbits b 4 31 16 != 1 then some (Config.stContractVersion, 1)
  else if (tpDir b).any (fun e => fbits e 0 31 31 == 1 && !secKinds.contains (fbits e 0 7 0)) then some (Config.stContractVersion, 2)
  else if !sectionsFit b then some (Config.stBadLength, 3)
  else if !fieldsOk b || !groupsOk g req b then some (Config.stBadField, 4)
  else if vars.any (fun r => decide (fld r 8 4 < fld r 4 4)) || !distinct (vars.map (fun r => fbits r 0 2 0)) then
    some (Config.stShapeRange, 5)
  else if tpBlocks b != Req.blocks req || tpModules b != Req.modules req then some (Config.stBadField, 6)
  else if 2 ^ 48 - 1 < tpBeatsFixed b + Req.iterations req * tpBeatsPerIter b then some (Config.stBeatRange, 7)
  else if (tpRecords b 0x04).any (fun r => decide (targetMax (fbits r 0 19 16) < fbits r 8 31 16)) then some (Config.stBadField, 8)
  else if claimsBad b then some (Config.stClaimDecl, 9)
  else none

/-! ## The layout of Table 11.6 -/

/-- Reserves in force (R245). -/
def widenTsOf (b req : List Byte) : Nat :=
  if Req.widenTs req = 0xFFFFFFFF then (tpRecords b 0x09).foldl (fun n r => n + fbits r 20 15 0) 0 else Req.widenTs req
def widenHbmOf (b req : List Byte) : Nat :=
  if Req.widenHbm req = 0xFFFFFFFF then (tpRecords b 0x09).foldl (fun n r => n + fld r 24 4) 0 else Req.widenHbm req

/-- 64 KiB units that hold `n` bytes. -/
def units64k (n : Nat) : Nat := ceilDiv n 65536
/-- Whether the request names a sequence slot. -/
def namesSlot (req : List Byte) : Bool := Req.slotMask req != 0

/-- Units of regions 1 to 9, in order. -/
def layoutUnits (b req : List Byte) : List Nat :=
  [Req.hbmUsed req,
   units64k (16 * (tpRecords b 0x0B).foldl (fun n r => n + fld r 8 4) 0),
   2 * units64k (32 * tpLayers b),
   units64k ((tpRecords b 0x08).foldl (fun n r => n + 8 * fbits r 4 24 0 + 4 * Req.blocks req * 100 * fbits r 12 23 0) 0),
   units64k (32 * Req.witlog req),
   if namesSlot req then units64k (24576 + 2 * Req.poolPages req + 4 * Req.plEntries req) + Req.poolPages req else 0,
   widenHbmOf b req,
   Req.secondCopy req,
   units64k (2 * copyBytes b)]

/-- Sum of the first `k` entries. -/
def sumTo (l : List Nat) (k : Nat) : Nat := (l.take k).foldl (· + ·) 0
/-- First byte of each region and the end of the last, with an unused entry 0. -/
def regionStarts (us : List Nat) : List Nat := 0 :: (List.range 10).map (fun k => 65536 * sumTo us k)

/-! ## Pinned bytes (R242) -/

/-- Bytes of an interleaved range that lie on shelf `k`. -/
def shelfShare (g : Geometry) (lo hi k : Nat) : Nat :=
  (List.range (geoG g)).foldl (fun n j => if ordGroup g j / 8 = k then n + (inGroup (geoG g) j hi - inGroup (geoG g) j lo) else n) 0

/-- Pinned spans of an image: region 3 and the reference counts (Table 11.6). -/
def pinnedSpans (req : List Byte) (starts : List Nat) : List (Nat × Nat) :=
  (starts.getD 3 0, starts.getD 4 0)
    :: (if namesSlot req then [(starts.getD 6 0 + 24576, starts.getD 6 0 + 24576 + 2 * Req.poolPages req)] else [])

/-- The lines that hold a counter each, pinned: the i-th counter at home on a shelf takes the i-th line of region 4 there (R221, R242; log
entry 27). -/
def counterSpans (g : Geometry) (b : List Byte) (starts : List Nat) : List (Nat × Nat) :=
  let ds := tpRecords b 0x08
  let lo := starts.getD 4 0
  ds.zipIdx.filterMap (fun e =>
    let h := fbits e.1 0 14 12
    let i := ((ds.take e.2).filter (fun r => fbits r 0 14 12 == h)).length
    let lines := ((List.range ((starts.getD 5 0 - lo) / 128)).map (fun q => lo + 128 * q)).filter (fun x =>
      match interPhys g x with | some a => shelfOf a == h | none => false)
    (lines[i]?).map (fun x => (x, x + 128)))

/-- Pinned bytes on a shelf: its share of the spans, and a line for each counter at home there (log entry 27). -/
def pinnedOn (g : Geometry) (b req : List Byte) (starts : List Nat) (k : Nat) : Nat :=
  (pinnedSpans req starts).foldl (fun n e => n + shelfShare g e.1 e.2 k) 0
    + 128 * ((tpRecords b 0x08).filter (fun r => fbits r 0 14 12 == k)).length

/-- Whether the partition holds a channel group of a shelf. -/
def hasShelf (g : Geometry) (k : Nat) : Bool := bits g.groups (8 * k + 7) (8 * k) != 0

/-! ## The checks of Table 11.7 -/

/-- Collective channels that no admitted image holds. -/
def State.freeChans (s : State) : List Nat := (List.range 8).filter (fun v => !(s.chan v).bound)

/-- Sequence slots that other partitions hold. -/
def State.slotsHeld (s : State) (p : Nat) : Nat :=
  (List.range 16).foldl (fun m q => if q = p then m else match (s.part q).image with | some im => m ||| Req.slotMask im.req | none => m) 0

/-- The committed cyclic table: all windows idle until a switch has been committed (R361). -/
def Cyclic.committed (c : Cyclic) : List Byte := if c.idle && !c.starting then [] else c.active
/-- Whether a table has a window that grants pair `k` to partition `p`. -/
def grants (side : List Byte) (k p : Nat) : Bool :=
  (List.range (cycWindows side)).any (fun w => winLen side w != 0 && bits (fld (winEntry side w) 52 8) (5 * k + 4) (5 * k) == 16 + p)
/-- Whether every pair of a mask has a window for the partition. -/
def grantsAll (side : List Byte) (mask p : Nat) : Bool := (List.range 12).all (fun k => !bit mask k || grants side k p)

/-- The result of ADMIT: SHORT_REGION, SHORT_UNITS and the channels given, 0xFF where none (log entry 14). -/
def admitResult (region units : Nat) (chans : List Nat) : List Byte :=
  leBytes 4 region ++ leBytes 4 (min units 0xFFFFFFFF) ++ (List.range 8).map (fun i => BitVec.ofNat 8 (chans.getD i 0xFF))

/-- Checks 10 and 11. -/
def requestRefusal (req : List Byte) : Option (Nat × Nat) :=
  let wr := Req.witRate req
  if !clean req [(12, 7, 7), (12, 31, 22), (20, 31, 5), (100, 63, 0), (108, 63, 0), (116, 63, 0), (124, 31, 0)]
      || !(wr == 0 || (decide (6 ≤ wr) && decide (wr ≤ 12)) || wr == 15) || 10000 < Req.stallMs req || 8 < Req.vcs req
      || (!namesSlot req && (Req.poolPages req != 0 || Req.plEntries req != 0)) then some (Config.stBadField, 10)
  else if Req.witlog req = 0 || (namesSlot req && (Req.poolPages req == 0 || Req.plEntries req == 0)) then some (Config.stBadLength, 11)
  else none

/-- Checks 12 to 19: status, order number and result. -/
def State.capacityRefusal (s : State) (p : Nat) (req b : List Byte) : Option (Nat × Nat × List Byte) :=
  let g := (s.part p).geo
  let us := layoutUnits b req
  let starts := regionStarts us
  let cap := geoG g * Config.groupUnits
  if countBits g.blocks 100 < Req.blocks req then some (Config.stNoCores, 12, [])
  else if 0x100000 < Req.tsUsed req + 256 * widenTsOf b req || 0x100000 < Req.tsUsed req + 256 * maxNeedTs b then
    some (Config.stNoTileStore, 13, [])
  else if (s.slotsHeld p &&& Req.slotMask req) != 0 then some (Config.stNoSlots, 14, [])
  else if s.freeChans.length < Req.vcs req then some (Config.stNoVc, 15, [])
  else if !grantsAll s.cyc.committed (Req.codecMask req) p then some (Config.stNoCodec, 16, [])
  else if (tpRecords b 0x08).any (fun r => !hasShelf g (fbits r 0 14 12))
      || (List.range 8).any (fun k => decide (6291456 * countBits (bits g.ways (16 * k + 15) (16 * k)) 16 < pinnedOn g b req starts k)) then
    some (Config.stNoWays, 17, [])
  else if cap < sumTo us 9 then
    let short := ((List.range 9).find? (fun k => decide (cap < sumTo us (k + 1)))).getD 0 + 1
    some (Config.stNoMemory, 18, admitResult short (sumTo us 9 - cap) [])
  else if (geoCores g).any (fun c => fld (s.core c).sf.active 0 4 != tpSfVersion b) then some (Config.stSfTable, 19, [])
  else none

/-! ## What admission sets up -/

/-- The admitted image. -/
def State.imageOf (s : State) (req b : List Byte) : Image :=
  { bytes := b
    req := req
    widenTs := widenTsOf b req
    widenHbm := widenHbmOf b req
    regions := regionStarts (layoutUnits b req)
    chans := s.freeChans.take (Req.vcs req)
    streams := ((tpRecords b 0x0B).foldl (fun (a : List (Nat × Nat × Nat) × Nat) r =>
      (Cells.put (fun _ => (0, 0)) a.1 (fbits r 0 15 0) (a.2, fld r 8 4), a.2 + 16 * fld r 8 4))
      ([], (regionStarts (layoutUnits b req)).getD 2 0)).1 }

/-- The layer precision table from the defaults section, an empty widen grant table and empty monitor records (R97, R98, R247). -/
def State.writeLayers (s : State) (p : Nat) (im : Image) : State :=
  let n := tpLayers im.bytes
  let s1 := (List.range n).foldl (fun s l =>
    s.writeP p (im.layerAt l) (leBytes 4 0 ++ leBytes 4 0xFFFFFFFF ++ sub ((tpRecords im.bytes 0x09).getD l []) 8 24)) s
  if n = 0 then s1 else (s1.writeP p (im.grantAt 0) (List.replicate (32 * n) 0)).writeP p (im.monAt 0) (List.replicate (16 * n) 0)

/-- Ledgers with every index unclaimed (R222). -/
def State.writeLedgers (s : State) (p : Nat) (im : Image) : State :=
  (tpRecords im.bytes 0x08).foldl (fun s r => s.writeP p (ledgerAt im (fbits r 0 9 0) 0) (List.replicate (8 * fbits r 4 24 0) 0)) s

/-- An empty KV pool, unless the one found in HBM is reused (R188, R249). -/
def State.writePool (s : State) (p : Nat) (im : Image) : State :=
  if !namesSlot im.req || (s.part p).kvKept == some (poolKey im.req (im.region 6) (s.part p).geo.groups) then s
  else (s.writeP p (im.region 6) (List.replicate (24576 + 2 * Req.poolPages im.req) 0)).updPart p (fun x =>
    { x with pinUnits := [] })

/-- Each core's microprogram in region 2, one after another (R209). -/
def State.writeStreams (s : State) (p : Nat) (im : Image) : State :=
  ((tpRecords im.bytes 0x0B).foldl (fun (a : State × Nat) r =>
    let n := 16 * fld r 8 4
    (a.1.writeP p a.2 (sub im.bytes (fld r 4 4) n), a.2 + n)) (s, im.region 2)).1

/-- Holds the lines of a span in the partition's ways, pinned. -/
def State.pinSpan (s : State) (p : Nat) (g : Geometry) (lo hi : Nat) : State :=
  (List.range ((hi - lo + 127) / 128)).foldl (fun s i =>
    match interPhys g (lo + 128 * i) with
    | none => s
    | some a =>
      ((List.range 128).foldl (fun s i => s.useByte p 1 (a / 128 * 128 + i)) s).updShelf (shelfOf a) (fun sh =>
        { sh with cache := sh.cache.map (fun e => if e.line = lineOf a then { e with pinned := true } else e) })) s

/-- Puts an entry into a shelf's region table: the first entry not in use. -/
def Shelf.addRegion (x : Shelf) (e : List Byte) : Shelf :=
  match x.regions.zipIdx.find? (fun q => !(regionOf q.1).valid) with
  | some q => { x with regions := x.regions.set q.2 e }
  | none => if x.regions.length < 256 then { x with regions := x.regions ++ [e] } else x

/-- Writes the entries of a list of regions, and zeroes the records of sums (R258, R260). -/
def State.putRegions (s : State) (p : Nat) (rs : List Region) : State :=
  rs.foldl (fun s r =>
    let s1 := s.updShelf (r.group / 8) (fun x => x.addRegion { r with owner := p, valid := true }.bytes)
    if r.op = 4 then s1.storeF p (r.recAt 0) (List.replicate (64 * (r.size / max 1 r.elemBytes)) 0)
    else if r.op = 5 then s1.storeF p (r.ordAt 0) (List.replicate (ceilDiv (16 + 4 * r.expect) 64 * 64 * (r.size / max 1 r.elemBytes)) 0)
    else s1) s

/-- The entries written at admission: the layer monitors, the outputs of accumulating claims, and, in a job of one module, every group's
(R258). -/
def admitRegions (g : Geometry) (im : Image) : List Region :=
  let acc := (tpRecords im.bytes 0x08).any (fun r => fbits r 0 11 10 == 2)
  let one := decide (tpModules im.bytes ≤ 1)
  monitorRegions g (im.monAt 0) (16 * tpLayers im.bytes)
    ++ ((groupRecs im.bytes).filter (fun r => one || (acc && Gr.redop r == 1))).flatMap (groupRegions g)
/-- The entries written at bind: those of the groups that admission has left (R314). -/
def bindRegions (g : Geometry) (im : Image) : List Region :=
  let acc := (tpRecords im.bytes 0x08).any (fun r => fbits r 0 11 10 == 2)
  (groupRecs im.bytes).flatMap (fun r =>
    if acc && Gr.redop r == 1 then [] else groupRegions g r)

/-- The state after an admission. -/
def State.admitted (s : State) (p : Nat) (im : Image) : State :=
  let g := (s.part p).geo
  let s0 := s.loosePools p g.groups
  let s1 := (((s0.writeLayers p im).writeLedgers p im).writePool p im).writeStreams p im
  let s2 := (pinnedSpans im.req im.regions ++ counterSpans g im.bytes im.regions).foldl (fun s e => s.pinSpan p g e.1 e.2) s1
  let s3 := im.chans.foldl (fun s v => s.updChan v (fun c => { c with bound := true, owner := p })) (s2.putRegions p (admitRegions g im))
  let s4 := (s3.updPart p (fun x => { x with
    image := some im
    job := { lastFault := x.job.lastFault, history := x.job.history, leftTs := 256 * im.widenTs, leftHbm := 65536 * im.widenHbm }
    rcv := { x.rcv with mtbf := 250000000000000000 / tpModules im.bytes, admitDtb := s.dtb } })).loadCores p im
  s4.ckptPlan p im 0

/-- ADMIT: reads the image, makes the checks in order and reserves; DETAIL is the failing check's number. -/
def execAdmit (f : Fn) (n : Nat) (image : Option (List Byte)) (s : State) : R :=
  command 0x0200 f n s (fun q s =>
    let p := q.part
    let req := q.payload.take 128
    if (s.part p).image.isSome then s.complete f n Config.stPartitionBusy 0 []
    else match image with
      | none => s.complete f n Config.stDmaError 0 []
      | some all =>
        let b := sub all 0 (Req.imageBytes req)
        match (imageRefusal (s.part p).geo req b).or (requestRefusal req) with
        | some (st, d) => s.complete f n st d []
        | none => match s.capacityRefusal p req b with
          | some (st, d, r) => s.complete f n st d r
          | none =>
            let im := s.imageOf req b
            ((s.admitted p im).jDo f q).complete f n Config.stOk 0 (admitResult 0 0 im.chans))

/-! ## BIND (R299, R300, R303) -/

/-- Whether two positions are joined by a port (Table 13.1). -/
def joined (a b : Nat) : Bool :=
  (List.range 16).any (fun p => match cabled p (posRack a) (posTray a) (posSlot a) with
    | some (r, t, sl, _) => r == posRack b && t == posTray b && sl == posSlot b
    | none => false)

/-- Whether two positions of one stage's set agree as R303 asks. -/
def placed (k a b : Nat) : Bool :=
  match k with
  | 1 => posRack a == posRack b && posTray a == posTray b
  | 2 => posRack a == posRack b && posSlot a == posSlot b
  | _ => posTray a == posTray b && posSlot a == posSlot b

/-- Whether a bind accepts a group: every set of every stage lies as it must, and its members are joined. -/
def bindOk (ts : List Nat) (r : List Byte) : Bool :=
  let pos := fun i => ts.getD (grRank r i) 0
  if Gr.op r = 3 then placed 1 (pos 0) (pos 1) && joined (pos 0) (pos 1) else
  (List.range (grN r)).all (fun i => (stages r).all (fun k =>
    let rad := Gr.radix r k
    (List.range rad).all (fun d =>
      let j := withDigit r i k d
      i == j || (placed k (pos i) (pos j) && (k == 1 || joined (pos i) (pos j)
        || (Gr.ring r k && nextIn r i k != j && prevIn r i k != j))))))

/-- The refusals of a bind. -/
def State.bindRefusal (s : State) (im : Image) (running : Bool) (q : Slot) : Option Nat :=
  let m := tpModules im.bytes
  let es := (List.range m).map (fun i => fld q.payload (2 * i) 2)
  if running then some Config.stNeedsQuiesce
  else if q.len < 2 * m then some Config.stBadLength
  else if es.any (fun e => decide (2 ^ 14 ≤ e)) || !distinct es || !es.contains (s.time.position % 2 ^ 14) then some Config.stBadField
  else if !(tpRecords im.bytes 0x06).all (bindOk es) then some Config.stBadField
  else none

/-- Root firmware writes the outbound map of every port whose peer is a rank (R304); what a peer names is free until its message on VC 9
is here (log entry 134). -/
def State.outMaps (s : State) (im : Image) (es : List Nat) : State :=
  ((List.range 16).foldl (fun s p => match (s.port p).peer with
    | some q =>
      if !es.any (fun t => posRack t == q.rack && posTray t == q.tray && posSlot t == q.slot) then s
      else s.updPort p (fun x => { im.chans.foldl (fun x v =>
        x.updVc v (fun c => { c with outMap := some (Config.peerChannel s.freeCtr p v % 8) })) x with mapGen := (x.mapGen + 1) % 2 ^ 32 })
    | none => s) s).tick

/-- BIND: the rank table of the job, the region entries of its groups (R314), and the exchange of channel indices and epochs with the
peers (R290, R304); one bound while the job waits for a replacement lets it roll back to a checkpoint, without which it is unrecoverable, and no rank is absent
after it (R466). -/
def execBind (f : Fn) (n : Nat) (s : State) : R :=
  command 0x0201 f n s (fun q s =>
    let x := s.part q.part
    match x.image with
    | none => s.complete f n Config.stNeedsQuiesce 0 []
    | some im => match s.bindRefusal im x.job.running q with
      | some st => s.complete f n st 0 []
      | none =>
        let es := (List.range (tpModules im.bytes)).map (fun i => fld q.payload (2 * i) 2)
        let t := s.updPart q.part (fun x => { x with
          ranks := some es
          rcv := { x.rcv with
            absent := none
            lost := none
            state := if x.rcv.state = 5 then (if x.rcv.points.any (·.isCkpt) then 1 else 4) else x.rcv.state
            replaced := x.rcv.replaced || x.rcv.state == 5 } })
        let g := (s.part q.part).geo
        let due := (bindRegions g im).filter (fun r =>
          !(s.shelf (r.group / 8)).regions.contains { r with owner := q.part, valid := true }.bytes)
        (((((t.putRegions q.part due).outMaps im es).tell q.part).hearAll q.part).jDo f q).complete f n Config.stOk 0 [])

end Sys2Proof.Machine
end

