-- ==== Sys2Proof/Machine/Conv.lean ====
section
/-!
DEFINITION. Sys2Proof/Machine/Conv.lean: window gathering and firn blocks (chapter 09).
-/

namespace Sys2Proof.Machine

/-! ## MOVE_WINDOW (R190 to R195) -/

/-- A window descriptor (Table 9.1), BASE and a tile-store DST_BASE relocated. -/
structure WinDesc where
  base : Nat
  fmt : Nat
  padKind : Nat
  padIsData : Bool
  pad : Nat
  srcW : Nat
  srcH : Nat
  srcT : Nat
  srcC : Nat
  rowStride : Nat
  tStride : Nat
  cStride : Nat
  kw : Nat
  kh : Nat
  kt : Nat
  sw : Nat
  sh : Nat
  st : Nat
  dw : Nat
  dh : Nat
  dt : Nat
  orgW : Int
  orgH : Int
  orgT : Int
  outW : Nat
  outH : Nat
  outT : Nat
  c0 : Nat
  cCount : Nat
  k0 : Nat
  kCount : Nat
  mCount : Nat
  dst : Nat
  dstSpace : Nat
  dstReg : Nat
  dstStride : Nat
deriving DecidableEq, Repr

def winFields (d : List Byte) : WinDesc :=
  { base := fbits d 0 19 0, fmt := fbits d 0 24 20, padKind := fbits d 0 27 25, padIsData := fbits d 0 28 28 = 1, pad := fld d 4 4,
    srcW := fbits d 8 15 0, srcH := fbits d 8 31 16, srcT := fbits d 12 15 0, srcC := fbits d 12 31 16,
    rowStride := fbits d 16 19 0, tStride := fbits d 20 19 0, cStride := fbits d 24 19 0,
    kw := fbits d 28 2 0, kh := fbits d 28 5 3, kt := fbits d 28 8 6, sw := fbits d 28 11 9, sh := fbits d 28 14 12,
    st := fbits d 28 17 15, dw := fbits d 28 20 18, dh := fbits d 28 23 21, dt := fbits d 28 26 24,
    orgW := toSigned 16 (fbits d 32 15 0), orgH := toSigned 16 (fbits d 32 31 16), orgT := toSigned 16 (fbits d 36 15 0),
    outW := fbits d 36 31 16, outH := fbits d 40 15 0, outT := fbits d 40 31 16, c0 := fbits d 44 15 0, cCount := fbits d 44 31 16,
    k0 := fbits d 48 23 0, kCount := fbits d 52 15 0, mCount := fbits d 52 27 16, dst := fbits d 56 19 0, dstSpace := fbits d 56 21 20,
    dstReg := fbits d 56 26 22, dstStride := fbits d 60 19 0 }

def winReserved (d : List Byte) : Bool :=
  fbits d 0 31 29 != 0 || fbits d 16 31 20 != 0 || fbits d 20 31 20 != 0 || fbits d 24 31 20 != 0 || fbits d 28 31 27 != 0
    || fbits d 48 31 24 != 0 || fbits d 52 31 28 != 0 || fbits d 56 31 27 != 0 || fbits d 60 31 20 != 0

/-- Whether a window is legal (R194). -/
def WinDesc.valid (m : WinDesc) : Bool :=
  let w := fmtWidth m.fmt
  let memDst := m.dstSpace != 2
  fmtValid m.fmt && !blocky m.fmt && decide (m.padKind ≤ 4) && m.dstSpace != 3
    && !([m.kw, m.kh, m.kt, m.sw, m.sh, m.st, m.dw, m.dh, m.dt].contains 0)
    && !(memDst && !m.padIsData && m.padKind != 0)
    && decide (m.c0 + m.cCount ≤ m.srcC) && decide (m.k0 + m.kCount ≤ m.cCount * m.kt * m.kh * m.kw)
    && decide (m.mCount ≤ 2048)
    && (if memDst then rangeOk m.dst m.mCount ((w * m.kCount + 7) / 8) m.dstStride (spaceBytes (m.dstSpace == 1))
        else decide (m.mCount * m.kCount ≤ 2048))
    && (m.srcW == 0 || m.srcH == 0 || m.srcT == 0 || m.srcC == 0
        || decide (m.base + (m.srcC - 1) * m.cStride + (m.srcT - 1) * m.tStride + (m.srcH - 1) * m.rowStride
              + (w * m.srcW + 7) / 8 ≤ Config.tsBytes))

/-- Whether the gather writes nothing (R195). -/
def WinDesc.empty (m : WinDesc) : Bool := [m.mCount, m.kCount, m.cCount, m.outW, m.outH, m.outT].contains 0

/-- The stored coordinates (c, t, h, w) of gathered row `r` and column `k`: none where the tap is out of range (R190, R192). -/
def WinDesc.tap (m : WinDesc) (r k : Nat) : Option (Nat × Nat × Nat × Nat) :=
  let c := m.c0 + k % m.cCount
  let tap := k / m.cCount
  let w : Int := m.orgW + (r % m.outW * m.sw + tap % m.kw * m.dw : Nat)
  let h : Int := m.orgH + (r / m.outW % m.outH * m.sh + tap / m.kw % m.kh * m.dh : Nat)
  let t : Int := m.orgT + (r / (m.outW * m.outH) * m.st + tap / (m.kw * m.kh) * m.dt : Nat)
  if 0 ≤ w ∧ w < m.srcW ∧ 0 ≤ h ∧ h < m.srcH ∧ 0 ≤ t ∧ t < m.srcT then some (c, t.toNat, h.toNat, w.toNat) else none

/-- Rows of the gather inside the box. -/
def WinDesc.rows (m : WinDesc) : List Nat := (List.range m.mCount).filter (fun r => decide (r / (m.outW * m.outH) < m.outT))

/-- The pad's code in a memory destination (R71, R192). -/
def WinDesc.padCode (m : WinDesc) : Nat :=
  if m.padKind = 1 then m.pad % 2 ^ fmtWidth m.fmt
  else if m.fmt = 0x1F then 0
  else (convertPlain m.fmt false 0 true 0 (padValue m.padKind m.pad m.fmt)).1

/-- Lane bits of a value in a register destination (R193). -/
def WinDesc.lane (m : WinDesc) (v : Val) : Nat := if isInt m.fmt then (toInt 0x08 true 0 true 0 v).1 else (toFp32 v).1

/-- Code of a stored element (R189). -/
def Core.planar (k : Core) (m : WinDesc) (q : Nat × Nat × Nat × Nat) : Nat :=
  k.ts.getBits (m.base + q.1 * m.cStride + q.2.1 * m.tStride + q.2.2.1 * m.rowStride) (fmtWidth m.fmt * q.2.2.2) (fmtWidth m.fmt)

/-- The core after the gather (R193); the taps are read before anything is written. -/
def Core.gather (k : Core) (m : WinDesc) : Core × Fl :=
  let w := fmtWidth m.fmt
  let els := (m.rows.map (fun r => (List.range m.kCount).map (fun j => (r, j, (m.tap r (m.k0 + j)).map (k.planar m))))).flatten
  if m.dstSpace = 2 then
    ({ k with ve := els.foldl (fun v e =>
        v.setElem m.dstReg (e.1 * m.kCount + e.2.1) (match e.2.2 with
          | some code => ⟨m.lane (decodeCode m.fmt code).1, false⟩
          | none => ⟨m.lane (padValue m.padKind m.pad m.fmt), !m.padIsData⟩)) k.ve },
      { inv := els.any (fun e => match e.2.2 with | some code => (decodeCode m.fmt code).2 | none => false) })
  else
    let ob := m.dstSpace == 1
    (k.setMem ob (els.foldl (fun mm e => mm.putBits (m.dst + e.1 * m.dstStride) (w * e.2.1) w (e.2.2.getD m.padCode)) (k.mem ob)), {})

/-- The taps of the gather, row by row: row, column, coordinates where in range. -/
def WinDesc.taps (m : WinDesc) : List (Nat × Nat × Option (Nat × Nat × Nat × Nat)) :=
  (m.rows.map (fun r => (List.range m.kCount).map (fun j => (r, j, m.tap r (m.k0 + j))))).flatten
/-- Local ranges the gather reads and writes. -/
def WinDesc.reads (m : WinDesc) : List (Bool × Nat × Nat) :=
  m.taps.filterMap (fun e => e.2.2.map (fun q =>
    (false, m.base + q.1 * m.cStride + q.2.1 * m.tStride + q.2.2.1 * m.rowStride + fmtWidth m.fmt * q.2.2.2 / 8, (fmtWidth m.fmt + 14) / 8)))
def WinDesc.writes (m : WinDesc) : List (Bool × Nat × Nat) :=
  if m.dstSpace = 2 then [] else
  m.rows.map (fun r => (m.dstSpace == 1, m.dst + r * m.dstStride, (fmtWidth m.fmt * m.kCount + 7) / 8))

/-- The window descriptor as copied at issue; none where it is illegal. -/
def State.winDesc (s : State) (x : Ctx) : Option WinDesc :=
  let i := x.f 15 8
  let d := (s.core x.c).desc.readN (32 * i) 64
  let m := winFields d
  if i = 255 || winReserved d then none else
  match s.tsAddr x m.base, if m.dstSpace = 0 then s.tsAddr x m.dst else some m.dst with
  | some b, some t => let m := { m with base := b, dst := t }; if m.valid then some m else none
  | _, _ => none

/-- MOVE_WINDOW. -/
def execMoveWindow (c : Nat) (s : State) : R :=
  issue ⟨3, 2, 0⟩ c s (fun x =>
    if x.f 127 41 != 0 || x.f 31 16 != 0 then .illegal else
    match s.winDesc x with
    | none => .illegal
    | some m =>
      if moveWait (s.core c) x [x.f 15 8, x.f 15 8 + 1] then .wait s else
      if m.empty then .spent s else
      s.access x m.reads m.writes (fun s =>
        let r := (s.core c).gather m
        let pads := (m.taps.filter (fun e => e.2.2.isNone)).length
        .done ((s.setCore c (r.1.note 0x062 pads)).addFlags x.p c r.2)))

/-! ## Firn (R200 to R206) -/

/-- A firn parameter entry (Table 9.5). -/
structure FirnParam where
  fmt : Nat
  quarter : Bool
  rnd : Nat
  emin : Nat
deriving DecidableEq, Repr

/-- Decodes an entry; none where an encoding is reserved (R201). -/
def firnParam (e : List Byte) : Option FirnParam :=
  let p : FirnParam := ⟨fbits e 0 4 0, fbits e 0 5 5 = 1, fbits e 0 8 6, fbits e 0 16 9⟩
  let b1 := p.fmt = 3 && p.quarter
  if (p.fmt = 1 || p.fmt = 2 || p.fmt = 3) && (p.rnd = 0 || (p.rnd = 4 && !b1)) && p.emin ≤ 254 && fld e 0 8 / 2 ^ 17 = 0 then some p
  else none

/-- Code width b and block size BB (Table 9.3). -/
def FirnParam.b (p : FirnParam) : Nat := if p.fmt = 3 then (if p.quarter then 1 else 3) else (if p.quarter then 3 else 7)
def FirnParam.bb (p : FirnParam) : Nat := 8 + 8 * p.b
/-- Source format and header format H. -/
def FirnParam.src (p : FirnParam) : FloatFmt := if p.fmt = 1 then bf16 else if p.fmt = 2 then fp16 else e4m3
def FirnParam.hdr (p : FirnParam) : FloatFmt := if p.fmt = 1 then bf16 else fp16

/-- An in-extent element of a block: code position, value, random bits. -/
structure FirnElem where
  i : Nat
  v : Val
  r : Nat
deriving DecidableEq, Repr, Inhabited

/-- The bytes of a block: header and packed codes (R200, Table 9.4). -/
def firnBlock (b minv e maxv : Nat) (nonfinite : Bool) (codes : List (Nat × Nat)) : List Byte :=
  leBytes 4 (minv + e * 2 ^ 16 + b2n nonfinite * 2 ^ 24) ++ leBytes 4 maxv
    ++ leBytes (8 * b) (codes.foldl (fun n q => n + q.2 * 2 ^ (b * q.1)) 0)

/-- Mean of values in H, nearest even (R202). -/
def meanH (h : FloatFmt) (vs : List Val) : Nat :=
  let s := vs.foldl (fun a v => a.add v.toDy) Dy.zero
  (toFloat h 0 false 0 (if s.m = 0 then .zero else .quot s (.ofInt vs.length))).1

/-- `firn_encode` (R202). -/
def firnEncode (p : FirnParam) (xs : List FirnElem) : List Byte :=
  if xs.any (fun x => !x.v.isFin) then firnBlock p.b 0 0 0 true [] else
  match xs with
  | [] => firnBlock p.b 0 0 0 false []
  | x0 :: r =>
    if p.b = 1 then
      let sum := xs.foldl (fun a x => a.add x.v.toDy) Dy.zero
      let n : Dy := .ofInt xs.length
      let up := xs.filter (fun x => sum.le (x.v.toDy.mul n))
      let dn := xs.filter (fun x => !sum.le (x.v.toDy.mul n))
      let hi := meanH p.hdr (up.map (·.v))
      let lo := if dn.isEmpty then hi else meanH p.hdr (dn.map (·.v))
      firnBlock 1 lo 0 hi false (up.map (fun x => (x.i, 1)))
    else
      let lo := r.foldl (fun m x => if vLt x.v m then x.v else m) x0.v
      let hi := r.foldl (fun m x => if vLt m x.v then x.v else m) x0.v
      let range := hi.toDy.sub lo.toDy
      let top : Nat := 2 ^ p.b - 1
      let e := ((List.range 256).find? (fun e => decide (p.emin ≤ e) && range.le ⟨top, (e : Int) - 127⟩)).getD 255
      let code := fun (x : FirnElem) =>
        let d := x.v.toDy.sub lo.toDy
        let u := unitsOf d.m.natAbs 1 d.e ((e : Int) - 127)
        min (roundDiv p.rnd false x.r u.1 u.2) top
      firnBlock p.b (toFloat p.hdr 0 false 0 lo).1 e (toFloat p.hdr 0 false 0 hi).1 false (xs.map (fun x => (x.i, code x)))

/-- Whether a block decodes to NaN everywhere (R203). -/
def firnBad (p : FirnParam) (blk : List Byte) : Bool :=
  fbits blk 0 24 24 = 1 || fbits blk 0 31 25 != 0 || fbits blk 4 31 16 != 0 || (p.b != 1 && fbits blk 0 23 16 == 255)

/-- The smaller of two values, NaN if either is. -/
def vMin (a b : Val) : Val := if a.isNan || b.isNan then .nan else if vLt b a then b else a

/-- Code of element `i` of a block in the source format, and its flags (R203). -/
def firnDecode (p : FirnParam) (blk : List Byte) (i : Nat) : Nat × Fl :=
  if firnBad p blk then (p.src.nanCode.getD 0, {}) else
  let code := bits (leNat (blk.drop 8)) (p.b * i + p.b - 1) (p.b * i)
  let minv := p.hdr.decode (fbits blk 0 15 0)
  let maxv := p.hdr.decode (fbits blk 4 15 0)
  if p.b = 1 then toFloat p.src 0 true 0 (if code = 1 then maxv else minv)
  else toFloat p.src 0 true 0 (vMin (fAdd minv (.fin false code 1 ((fbits blk 0 23 16 : Int) - 127))).1 maxv)

/-- A firn descriptor (Table 9.7), TS_BASE relocated. -/
structure FirnDesc where
  base : Nat
  out : Bool
  param : Nat
  w : Nat
  h : Nat
  rowStride : Nat
  planeStride : Nat
  planes : Nat
  hbm : Nat
  x0 : Nat
  y0 : Nat
  p0 : Nat
  tensor : Nat
  logW : Nat
  logH : Nat
deriving DecidableEq, Repr

def firnFields (d : List Byte) : FirnDesc :=
  { base := fbits d 0 19 0, out := fbits d 0 20 20 = 0, param := fbits d 0 31 24, w := fbits d 4 15 0, h := fbits d 4 31 16,
    rowStride := fbits d 8 19 0, planeStride := fbits d 12 19 0, planes := fbits d 12 31 20, hbm := fld d 16 8,
    x0 := fbits d 24 15 0, y0 := fbits d 24 31 16, p0 := fld d 28 4, tensor := fld d 32 4, logW := fbits d 36 15 0,
    logH := fbits d 36 31 16 }

def firnReserved (d : List Byte) : Bool := fbits d 0 23 21 != 0 || fbits d 8 31 20 != 0 || fld d 40 24 != 0

/-- Whether a firn move is legal (R205, R206). -/
def FirnDesc.valid (m : FirnDesc) (p : FirnParam) : Bool :=
  m.x0 % 8 == 0 && m.y0 % 8 == 0 && decide (m.x0 + m.w ≤ m.logW) && decide (m.y0 + m.h ≤ m.logH)
    && (!m.out || ((m.w % 8 == 0 || m.x0 + m.w == m.logW) && (m.h % 8 == 0 || m.y0 + m.h == m.logH)))
    && addrForm m.hbm && decide (bits m.hbm 63 60 ≤ 2) && m.hbm % p.bb == 0
    && (m.planes == 0 || m.h == 0 || m.w == 0
        || decide (m.base + (m.planes - 1) * m.planeStride + (m.h - 1) * m.rowStride + p.src.width * m.w / 8 ≤ Config.tsBytes))

/-- The blocks a region touches: plane, block row and column relative to the region. -/
def FirnDesc.blocks (m : FirnDesc) : List (Nat × Nat × Nat) :=
  ((List.range m.planes).map (fun p => ((List.range (ceilDiv m.h 8)).map (fun y =>
    (List.range (ceilDiv m.w 8)).map (fun x => (p, y, x)))).flatten)).flatten

/-- HBM address of a block (R200). -/
def FirnDesc.blockAt (m : FirnDesc) (p : FirnParam) (q : Nat × Nat × Nat) : Nat :=
  let bw := ceilDiv m.logW 8
  let bh := ceilDiv m.logH 8
  (m.hbm + (((m.p0 + q.1) * bh + m.y0 / 8 + q.2.1) * bw + m.x0 / 8 + q.2.2) * p.bb) % 2 ^ 64

/-- Positions (y, x, code position) of a block's elements inside the region. -/
def FirnDesc.cells (m : FirnDesc) (q : Nat × Nat × Nat) : List (Nat × Nat × Nat) :=
  ((List.range 64).map (fun i => (8 * q.2.1 + i / 8, 8 * q.2.2 + i % 8, i))).filter (fun e => decide (e.1 < m.h) && decide (e.2.1 < m.w))

/-- Tile-store place of region element (p, y, x): row address and bit offset. -/
def FirnDesc.place (m : FirnDesc) (w p y x : Nat) : Nat × Nat := (m.base + p * m.planeStride + y * m.rowStride, w * x)

/-- The block that a compression forms from the tile store. -/
def Core.firnPack (k : Core) (m : FirnDesc) (p : FirnParam) (seed : Nat) (q : Nat × Nat × Nat) : List Byte :=
  let w := p.src.width
  firnEncode p ((m.cells q).map (fun e =>
    let at_ := m.place w q.1 e.1 e.2.1
    { i := e.2.2, v := p.src.decode (k.ts.getBits at_.1 at_.2 w),
      r := srBits seed m.tensor (((m.p0 + q.1) * m.logH + m.y0 + e.1) * m.logW + m.x0 + e.2.1) k.seq.pass }))

/-- Interleaved offsets of a block's bytes, or the status of the fault. -/
def State.firnPlaces (s : State) (x : Ctx) (m : FirnDesc) (p : FirnParam) (q : Nat × Nat × Nat) : Except Nat (List Nat) :=
  allOk ((List.range p.bb).map (fun i => s.hbmAddr x ((m.blockAt p q + i) % 2 ^ 64)))

/-- Shelves that hold a byte of the blocks at the bucket's bounds; with no block, that of FIRN_BASE (R128). -/
def State.firnShelves (s : State) (x : Ctx) (m : FirnDesc) (p : FirnParam) : List Nat :=
  let full := fun (target v : Nat) => fullField x.im.bytes (s.part x.p).job.bucket x.k target (x.f 15 8) v
  let m := { m with w := full 0 m.w, h := full 1 m.h }
  let all := (m.blocks.map (fun q => match s.firnPlaces x m p q with | .ok l => l | .error _ => [])).flatten
  s.shelvesOf x.p (if all.isEmpty then (match s.hbmAddr x m.hbm with | .ok v => [v] | .error _ => []) else all)

/-- Writes byte `o` of a block: to its place, or, where it begins an element of a reducer region that the block covers, as a contribution to
that element (R259; log entry 123). Answers none on a held-space overflow. -/
def State.firnByte (s : State) (x : Ctx) (refused : List (Nat × Nat)) (blk : List Byte) (o v : Nat) : Option State :=
  match interPhys (s.part x.p).geo v with
  | none => some s
  | some a =>
    if !s.moveServed x.p refused v then some s else
    match s.regionAt x.p a with
    | none => some (s.storeBytes x.p 1 true [(v, blk.getD o 0)])
    | some (e, g) =>
      let i := a % Config.groupBytes - g.offset
      if g.elemBytes = 0 || i % g.elemBytes != 0 || decide (blk.length < o + g.elemBytes) then some s
      else s.regionWrite x (shelfOf a) e g (i / g.elemBytes) (leNat (sub blk o g.elemBytes))

/-- Writes a block; its places are consecutive. -/
def State.firnBytes (s : State) (x : Ctx) (refused : List (Nat × Nat)) (blk : List Byte) : List (Nat × Nat) → Option State
  | [] => some s
  | e :: r => match s.firnByte x refused blk e.1 e.2 with
    | some t => State.firnBytes t x refused blk r
    | none => none

/-- Compresses the region into its blocks. -/
def State.firnOut (s : State) (x : Ctx) (m : FirnDesc) (p : FirnParam) (refused : List (Nat × Nat)) :
    List ((Nat × Nat × Nat) × List Nat) → Option State
  | [] => some s
  | b :: r => match s.firnBytes x refused ((s.core x.c).firnPack m p (Req.seed x.im.req) b.1) (b.2.zipIdx.map (fun e => (e.2, e.1))) with
    | some t => State.firnOut t x m p refused r
    | none => none

/-- Local ranges of the region's rows. -/
def FirnDesc.ranges (m : FirnDesc) (p : FirnParam) : List (Bool × Nat × Nat) :=
  if m.w = 0 then [] else
  ((List.range m.planes).map (fun q => (List.range m.h).map (fun y =>
    (false, m.base + q * m.planeStride + y * m.rowStride, p.src.width * m.w / 8)))).flatten

/-- Decompresses the blocks into the region: the core and its flags. -/
def State.firnIn (s : State) (x : Ctx) (m : FirnDesc) (p : FirnParam) (blks : List ((Nat × Nat × Nat) × List Nat)) : Core × Fl :=
  let g := (s.part x.p).geo
  let w := p.src.width
  blks.foldl (fun (acc : Core × Fl) b =>
    let bytes := b.2.map (fun v => (s.readX g v 1).headD 0)
    let els := (m.cells b.1).map (fun e => (e, firnDecode p bytes e.2.2))
    ({ acc.1 with
        ts := els.foldl (fun mm e => let q := m.place w b.1.1 e.1.1 e.1.2.1; mm.putBits q.1 q.2 w e.2.1) acc.1.ts,
        firnNonfinite := if firnBad p bytes then satAdd 255 acc.1.firnNonfinite 1 else acc.1.firnNonfinite },
     els.foldl (fun f e => f.or e.2.2) acc.2)) (s.core x.c, {})

/-- The firn descriptor and parameter entry as copied at issue; none where the move is illegal. -/
def State.firnDesc (s : State) (x : Ctx) : Option (FirnDesc × FirnParam) :=
  let i := x.f 15 8
  let d := (s.core x.c).desc.readN (32 * i) 64
  let m := firnFields d
  if i = 255 || firnReserved d then none else
  match s.tsAddr x m.base, firnParam (sub (s.core x.c).firn.active (8 * m.param) 8) with
  | some b, some p =>
    let m := { m with base := b }
    if m.valid p && !(bits m.hbm 63 60 == 0x2 && (s.core x.c).wideLayer.isNone) then some (m, p) else none
  | _, _ => none

/-- MOVE_FIRN (R205, R206). -/
def execMoveFirn (c : Nat) (s : State) : R :=
  issue ⟨3, 5, 0⟩ c s (fun x =>
    if x.f 127 41 != 0 || x.f 31 16 != 0 then .illegal else
    match s.firnDesc x with
    | none => .illegal
    | some (m, p) =>
      if moveWait (s.core c) x [x.f 15 8, x.f 15 8 + 1] then .wait s else
      let rs := m.ranges p
      s.access x (if m.out then rs else []) (if m.out then [] else rs) (fun s =>
        match allOk (m.blocks.map (s.firnPlaces x m p)) with
        | .error e => if e = Config.stIllegalInstr then .illegal else .fault e s
        | .ok places =>
          if !m.out && places.flatten.any (s.fencedX x.p) then .fault Config.stHbmFenced s else
          let n := s.countShelves x (s.firnShelves x m p)
          let s1 := n.1
          let blks := m.blocks.zip places
          let beat := (s.core c).seq.curBeat
          if m.out && s.redHeld x.p places.flatten then .wait s
          else if m.out then
            match s1.firnOut x m p n.2 blks with
            | some t => .ofExtent blks.isEmpty (((t.fenceReport x.p beat places.flatten).shelfRefuse x n.2).answer)
            | none => .wait ((s.stopCore c 6 x.w).report x.p Config.stScheduleFault 6 beat ⟨0, c⟩)
          else if !n.2.isEmpty then .done (s1.shelfRefuse x n.2)
          else
            let s2 := s1.loadAt x.p 1 places.flatten
            let r := s2.firnIn x m p blks
            .ofExtent blks.isEmpty ((s2.setCore c r.1).addFlags x.p c r.2)))

end Sys2Proof.Machine
end

