-- ==== Sys2Proof/Machine/Registers.lean ====
section
/-!
DEFINITION. Sys2Proof/Machine/Registers.lean: the register map of the BARs (R408, R409), reads and writes by access code (R6, R7) and the
performance counters (R486 to R495).
-/

namespace Sys2Proof.Machine

/-! ## Control of the counters (R487, R494) -/

/-- Events of a scope (Table 22.4). -/
def eventOk (b : Blk) (e : Nat) : Bool :=
  match b with
  | .core _ => [0x000, 0x001, 0x002, 0x010, 0x011, 0x012, 0x013, 0x020, 0x021, 0x022, 0x023, 0x030, 0x031, 0x032, 0x033, 0x040, 0x050,
      0x051, 0x052, 0x060, 0x061, 0x062, 0x070, 0x071, 0x080, 0x090, 0x091].contains e
  | .field _ => [0x100, 0x101, 0x110, 0x111, 0x112, 0x113, 0x120, 0x121, 0x122, 0x123, 0x130, 0x131, 0x140].contains e
  | .shelf _ => [0x200, 0x210, 0x211, 0x212, 0x220, 0x221, 0x222, 0x223, 0x230, 0x240, 0x241, 0x250, 0x251, 0x260, 0x270, 0x290].contains e

/-- Whether a value written to CTLk holds a reserved encoding (R487). -/
def ctlBad (b : Blk) (k v : Nat) : Bool :=
  !eventOk b (Ctl.event v) || (k == 0 && Ctl.chain v) || (match b with | .shelf _ => false | _ => bit v 36)

/-- What CTLk holds after a write: RW fields as written, OVF cleared by a 1, PART only in a shelf block. -/
def ctlNew (b : Blk) (old v : Nat) : Nat :=
  bits v 13 0 + b2n (Ctl.ovf old && !Ctl.ovf v) * 2 ^ 14 + bits v 31 16 * 2 ^ 16
    + (match b with | .shelf _ => bits v 36 32 * 2 ^ 32 | _ => 0)

/-! ## The map (R408, Table 18.2) -/

/-- A register block and the offset in it. -/
inductive Reg where
  | slot (n o : Nat)
  | ident (o : Nat)
  | msix (o : Nat)
  | pba (o : Nat)
  | ring (o : Nat)
  | core (c o : Nat)
  | ctr (b : Blk) (o : Nat)
  | shelf (k o : Nat)
  | port (p o : Nat)
  | time (o : Nat)
  | chan (v o : Nat)
  | wset (p o : Nat)
  | part (p o : Nat)
  | cyc (o : Nat)
  | pair (k o : Nat)
  | pci (o : Nat)
deriving DecidableEq, Repr

/-- Whether offset `o` of a block with base 0 is of its counters. -/
def inBlk (n o : Nat) : Bool := decide (o < 24 * n)

/-- Registers of a core's debug window (R220). -/
def coreReg (c o : Nat) : Reg := if 0x100 ≤ o && inBlk 8 (o - 0x100) then .ctr (.core c) (o - 0x100) else .core c o
/-- Registers of a shelf's block (R273). -/
def shelfReg (k o : Nat) : Reg := if 0x1000 ≤ o && inBlk 32 (o - 0x1000) then .ctr (.shelf k) (o - 0x1000) else .shelf k o

/-- What BAR0 holds at an offset. -/
def bar0 (o : Nat) : Option Reg :=
  if o < 0x20000 then some (.slot (o / 0x1000) (o % 0x1000))
  else if o < 0x21000 then some (.ident (o - 0x20000))
  else if 0x22000 ≤ o && o < 0x22400 then some (.msix (o - 0x22000))
  else if 0x23000 ≤ o && o < 0x23008 then some (.pba (o - 0x23000))
  else if 0x24000 ≤ o && o < 0x26000 then some (.ring (o - 0x24000))
  else none

/-- What BAR4 holds at an offset. -/
def bar4 (o : Nat) : Option Reg :=
  if o < 0x80000 then some (shelfReg (o / 0x10000) (o % 0x10000))
  else if o < 0x81000 then some (.port (o / 0x100 % 16) (o % 0x100))
  else if o < 0x82000 then some (.time (o - 0x81000))
  else if o < 0x82200 then some (.chan (o / 0x40 % 8) (o % 0x40))
  else if 0x83000 ≤ o && o < 0x83200 then some (.wset (o / 0x20 % 16) (o % 0x20))
  else if 0x84000 ≤ o && o < 0x84400 then some (.part (o / 0x40 % 16) (o % 0x40))
  else if 0x84400 ≤ o && o < 0x84410 then some (.cyc (o - 0x84400))
  else if 0x85000 ≤ o && o < 0x85300 then some (.pair ((o - 0x85000) / 0x40) (o % 0x40))
  else none

/-- The core that a function's debug window shows: core n itself to a PF, contract core n of its partition to a VF (R409). -/
def State.window (s : State) (f : Fn) (n : Nat) : Option Nat :=
  if isPf f then (if n < Config.cores then some n else none)
  else match s.ownedBy f with
    | some p => coreOf (s.part p).geo n
    | none => none

/-- What BAR2 holds at an offset. -/
def State.bar2 (s : State) (f : Fn) (o : Nat) : Option Reg :=
  if 0x3F00000 ≤ o && o < 0x3F04000 then
    (if isPf f && inBlk 32 (o % 0x1000) then some (.ctr (.field ((o - 0x3F00000) / 0x1000)) (o % 0x1000)) else none)
  else (s.window f (o / 0x1000)).map (fun c => coreReg c (o % 0x1000))

/-- Whether a VF sees a register of BAR0 or BAR4; a PF sees all (R409). -/
def State.vfSees (s : State) (f : Fn) : Reg → Bool
  | .slot _ _ => true
  | .ident _ => true
  | .msix _ => true
  | .pba _ => true
  | .ring _ => true
  | .core _ _ => true
  | .ctr (.core _) _ => true
  | .time _ => true
  | .pci _ => true
  | .chan v _ => (s.chan v).bound && s.ownedBy f == some (s.chan v).owner
  | .wset p _ => s.ownedBy f == some p
  | .part p _ => s.ownedBy f == some p
  | .pair k _ => match s.ownedBy f with
      | some p => (match (s.part p).image with | some im => bit (Req.codecMask im.req) k | none => false)
      | none => false
  | _ => false

/-- The register a function sees at an offset, 4-byte aligned; none where it reads 0. BAR 6 stands for the configuration header. -/
def State.regAt (s : State) (f : Fn) (bar off : Nat) : Option Reg :=
  let o := off / 4 * 4
  let r := match bar with
    | 0 => bar0 o
    | 2 => s.bar2 f o
    | 4 => bar4 o
    | 6 => if o < 64 then some (.pci o) else none
    | _ => none
  match r with
  | some x => if isPf f || s.vfSees f x then some x else none
  | none => none

/-! ## Values: the 32-bit words of each block -/

/-- `n` words of a value from offset `o`. -/
def wordsOf (o n v : Nat) : List (Nat × Nat) := (List.range n).map (fun i => (o + 4 * i, v / 2 ^ (32 * i) % 2 ^ 32))

/-- Waits of the vector engine: an empty queue, a clear tile-ready flag (Table 6.7). -/
def State.veWaits (s : State) (c : Nat) : Nat :=
  match s.ctx c with
  | none => 0
  | some x =>
    if x.f 3 0 != 2 then 0 else
    8 * b2n (x.f 7 4 == 2 && (s.core c).mu.ftq.isEmpty) + 16 * b2n (x.f 96 96 == 1 && !bit (s.core c).ready (x.f 104 97))

/-- A core's debug window (R220 and the tables it names). -/
def State.coreWords (s : State) (c : Nat) : List (Nat × Nat) :=
  let k := s.core c
  let q := k.seq
  [(0x00, q.run + 8 * b2n q.stall + 16 * q.loops.length + 256 * q.winM1), (0x04, q.cause + 256 * q.srcKind + 65536 * (q.src % 65536))]
    ++ wordsOf 0x08 2 q.curBeat ++ [(0x10, 16 * q.pc), (0x14, q.faultPc)] ++ wordsOf 0x18 2 q.faultBeat ++ wordsOf 0x20 4 q.faultInstr
    ++ (List.range 4).map (fun i => (0x30 + 4 * i, (k.claim i).idx))
    ++ [(0x40, k.mu.t0.state + 4 * k.mu.t1.state + 16 * k.mu.ftq.length + 256 * b2n k.mu.mcastWait + 512 * b2n k.mu.readyWait
          + 1024 * b2n k.mtxHold + 65536 * k.mu.deepReplays),
        (0x48, k.mu.witq.length + 16 * b2n k.witHoldRead + 65536 * k.mu.fails + 2 ^ 24 * k.mu.lost),
        (0x50, s.veWaits c + 65536 * (k.genShown k.sf) + 2 ^ 24 * (k.genShown k.cb)),
        (0x58, k.ve.flags.vflags),
        (0x60, 65536 * k.firnNonfinite + 2 ^ 24 * (k.genShown k.firn)),
        (0x68, 65536 * k.eccCorr + 2 ^ 24 * b2n k.eccUncorr),
        (0x6C, k.ueAddr + 2 ^ 20 * b2n k.ueOb)]
    ++ wordsOf 0x70 8 k.ready

/-- A counter block as one function sees it. -/
def State.ctrWord (s : State) (f : Fn) (b : Blk) (o : Nat) : Nat :=
  let n := b.size
  let k := o / 8 % n
  let v := if o < 8 * n then s.ctl b k else if o < 16 * n then s.pmc b k else Cells.get (fun _ => 0) (s.fn f).stamps (b.num k)
  if o % 8 = 0 then v % 2 ^ 32 else v / 2 ^ 32

/-- A shelf's registers (Table 12.8). -/
def Shelf.words (x : Shelf) : List (Nat × Nat) :=
  [(0x00, x.temp + 256 * x.step + 1024 * b2n x.refreshX2 + 2048 * b2n x.halted), (0x04, x.stepMax)] ++ wordsOf 0x08 2 x.pcFenced
    ++ [(0x10, x.parityRetries), (0x14, x.parityFences), (0x18, x.odeccCorr), (0x1C, x.cacheCorr + 65536 * x.ueCount)]
    ++ wordsOf 0x20 2 x.wayOwner ++ [(0x28, x.wayValid), (0x2C, x.sleetMissing), (0x30, min 512 x.glOpen.length)]

/-- A port's registers (Table 13.7). -/
def Port.words (x : Port) : List (Nat × Nat) :=
  [(0x00, x.stateRead + 8 * b2n x.laneRev + 16 * x.polInv),
   (0x04, match x.peer with | some q => q.rack % 128 + 128 * (q.tray % 16) + 2048 * (q.slot % 8) + 2 ^ 14 * (q.port % 16) | none => 0)]
    ++ wordsOf 0x08 4 (match x.peer with | some q => q.serial.toNat | none => 0)
    ++ [(0x18, x.fecCorr), (0x1C, x.fecUncorr), (0x20, x.crcFail), (0x24, x.replays), (0x28, x.hbMissed + 65536 * x.losses),
        (0x2C, x.ackLate + 65536 * x.fenced), (0x30, b2n x.disable)]

/-- The time-base registers (Table 13.8). -/
def TimeBase.words (t : TimeBase) : List (Nat × Nat) :=
  wordsOf 0x00 2 t.dtb
    ++ [(0x08, t.position), (0x0C, t.timeCfg),
        (0x10, t.state + 256 * t.parent + 4096 * b2n (t.ppsSeen && decide (t.dtb < t.ppsDtb + 1100000000)) + 65536 * t.hops),
        (0x14, ofSigned 32 t.offset), (0x18, t.unlocks)]

/-- A collective channel's registers (Table 14.10). -/
def State.chanWords (s : State) (v : Nat) : List (Nat × Nat) :=
  let x := s.chan v
  [(0x00, b2n x.bound + 2 * x.owner + 32 * x.group + 2 ^ 13 * b2n x.holdFrom.isSome + 2 ^ 14 * b2n (!x.early.isEmpty) + 2 ^ 15 * b2n x.flagWait),
   (0x04, x.started), (0x08, x.completed), (0x0C, x.earlyBytes), (0x10, x.skewReports + 65536 * x.holds), (0x14, x.dropped),
   (0x18, s.chanWeight v), (0x1C, x.flags), (0x20, x.satCount)]

/-- A partition's weight-set registers (Table 15.7). -/
def Partition.wsetWords (x : Partition) : List (Nat × Nat) :=
  let w := x.ws
  [(0x00, w.st0 + 4 * w.st1 + 16 * b2n w.switchPending + 32 * b2n w.selectWait), (0x04, w.atRequest), (0x08, x.job.nextRequest),
   (0x0C, w.loadId), (0x10, w.chunksKept), (0x14, w.chunksFwd), (0x18, w.lastStatus + 256 * w.crcFails)]

/-- Bits [4:0] of PART_STATE; RUNNING is 1 while the image runs or an admission is in progress (Table 16.9, R244). -/
def State.state5 (s : State) (p : Nat) : Nat :=
  let x := s.part p
  b2n x.geo.defined + 2 * b2n x.image.isSome + 4 * b2n (s.counts p) + 8 * b2n x.job.frozen + 16 * b2n x.fz.armed

/-- A partition's registers (Table 16.9). -/
def State.partWords (s : State) (p : Nat) : List (Nat × Nat) :=
  let x := s.part p
  let cs := (geoCores x.geo).map (fun c => (s.core c).seq)
  [(0x00, s.state5 p + 256 * x.geo.owner), (0x04, x.fz.status + 256 * x.fz.copy)] ++ wordsOf 0x08 4 x.geo.blocks
    ++ wordsOf 0x18 2 x.geo.groups ++ wordsOf 0x20 2 (cs.foldl (fun m q => max m q.fpCount) 0)
    ++ wordsOf 0x28 2 (if x.fz.armed then x.fz.at_ else 0) ++ wordsOf 0x30 2 (cs.foldl (fun m q => max m q.curBeat) 0)

/-- The cyclic registers (Table 16.10). -/
def Cyclic.words (c : Cyclic) : List (Nat × Nat) :=
  [(0x00, c.side + 2 * b2n c.idle + 4 * b2n c.armed.isSome + 256 * (c.window % 256)), (0x04, c.gen)] ++ wordsOf 0x08 2 c.hyperStart

/-- A codec pair's registers (Table 17.8). -/
def Pair.words (x : Pair) : List (Nat × Nat) :=
  [(0x00, x.run + 4 * x.part + 64 * x.session + 1024 * b2n x.faulted),
   (0x04, (List.range 16).foldl (fun a i => a + b2n (x.sess i).isOpen * 2 ^ i) 0), (0x08, x.binOcc), (0x0C, x.pictures),
   (0x10, x.corrupt + 65536 * x.budgetHits), (0x14, x.wdogHits + 65536 * x.suspends), (0x18, x.fenced), (0x1C, x.oob)]

/-- A mailbox slot's words; the payload area holds what was written and the result over it (Table 18.3). -/
def Slot.word (q : Slot) (o : Nat) : Nat :=
  if 0x40 ≤ o then fld q.payload (o - 0x40) 4 else
  match o / 4 with
  | 0 => b2n q.post + 2 * b2n q.urgent
  | 1 => q.cmd + 65536 * q.len + 2 ^ 28 * q.part
  | 2 => q.tag
  | 3 => q.w3 % 128
  | 4 => q.status + 256 * b2n q.ack + 512 * b2n q.done + 65536 * q.detail
  | 5 => q.resultLen
  | 6 => q.postDtb % 2 ^ 32
  | 7 => q.postDtb / 2 ^ 32
  | 8 => q.doneDtb % 2 ^ 32
  | 9 => q.doneDtb / 2 ^ 32
  | _ => 0

/-! ## The identification and status block (Table 18.9 and the words at 0x080, 0x0A0, 0x0D0 and 0x100) -/

/-- The recovery words of a partition (Table 20.4). -/
def RecState.words (r : RecState) : List (Nat × Nat) :=
  [(0xA0, r.fenced), (0xA4, r.state + 8 * b2n r.absent.isSome + 16 * b2n r.ckptDrain + 65536 * r.rollbacks)] ++ wordsOf 0xA8 2 r.rpBeat
    ++ wordsOf 0xB0 2 r.ckptNext
    ++ [(0xB8, r.ckptInterval / 1000000000), (0xBC, r.mtbf / 1000000000), (0xC0, r.lastPause), (0xC4, r.absent.getD 0)]

/-- Sum of FENCED over all partitions. -/
def State.fencedSum (s : State) : Nat := (List.range 16).foldl (fun a p => satAdd 0xFFFFFFFF a (s.part p).rcv.fenced) 0

/-- The recovery words a function sees (R467). -/
def State.recWords (s : State) (f : Fn) : List (Nat × Nat) :=
  match s.ownedBy f with
  | some p => (s.part p).rcv.words
  | none => if isPf f then [(0xA0, s.fencedSum)] else []

/-- REGRADE_DUE (R482). -/
def State.fieldDue (s : State) : Bool := s.power.regradeDue || decide (s.power.fieldRegrade + 86400000000000 ≤ s.dtb)

/-- The field with the smallest headroom and that headroom in mV (R483). -/
def PowerState.worst (x : PowerState) : Nat × Nat :=
  let h := (List.range 4).map (fun f => (8200 - x.volts.getD f 0) / 10)
  (List.range 4).foldl (fun (b : Nat × Nat) f => if h.getD f 0 < b.2 then (f, h.getD f 0) else b) (0, h.getD 0 0)

/-- The power and ageing words (Table 21.7). -/
def State.ageWords (s : State) : List (Nat × Nat) :=
  let x := s.power
  let v := fun f => x.volts.getD f 0 / 10
  [(0xD0, v 0 + 65536 * v 1), (0xD4, v 2 + 65536 * v 3), (0xD8, min 255 x.worst.2 + 256 * x.worst.1),
   (0xDC, b2n s.commit.pending + 2 * b2n s.commit.mixed + 4 * b2n s.fieldDue + 8 * b2n x.endOfLife)]
    ++ wordsOf 0xE0 2 x.fieldRegrade ++ wordsOf 0xE8 2 x.linkRegrade ++ [(0xF0, x.regrades)]

/-- A temperature register: whole degrees, 8 bits. -/
def degrees (t : Int) : Nat := min 255 (t.toNat / 10)
/-- The power and cooling words (Table 23.11). -/
def CoolState.words (x : CoolState) : List (Nat × Nat) :=
  [(0x100, x.vinMv), (0x104, x.pinW + 65536 * x.pinPeak), (0x108, x.cap),
   (0x10C, degrees x.coolantIn + 256 * degrees x.coolantOut + 65536 * degrees (x.fieldTemp.foldl max 0)
     + 2 ^ 24 * degrees (x.stackTemp.foldl max 0)),
   (0x110, b2n x.vinLow + 2 * b2n x.vinHigh + 4 * b2n x.leak + 8 * b2n x.thermAlert + 16 * b2n x.capping + 32 * b2n x.leakShutdown
     + 65536 * x.vinDips),
   (0x114, x.lastShutdown), (0x118, x.capMs)]

/-- The security status words (Table 19.9). -/
def FwState.words (x : FwState) : List (Nat × Nat) :=
  [(0x80, b2n x.validA + 2 * b2n x.validB + 4 * x.bootSlot + 8 * x.debugScope + 32 * b2n x.debugSinceCold + 64 * x.revoked
     + 1024 * x.rootSvn + 65536 * x.svcSvn + 2 ^ 23 * x.svcRestarts)]
    ++ wordsOf 0x88 2 x.nextSeq ++ wordsOf 0x90 2 x.oldest

/-- The device ID a function presents (Table 0.1). -/
def pciDevice (f : Fn) : Nat := if isPf f then Config.deviceId else Config.vfDeviceId
/-- The identification words of a function's PCI configuration header, at the offsets of PCI Express (R2; log entry 111). -/
def pciWords (f : Fn) : List (Nat × Nat) :=
  [(0x00, Config.vendorId + 65536 * pciDevice f), (0x08, Config.revisionId + 256 * Config.classCode),
   (0x2C, Config.subsysVendorId + 65536 * Config.subsysId)]

/-- The identification and status words (Table 18.9). -/
def State.idWords (s : State) (f : Fn) : List (Nat × Nat) :=
  let x := s.fn f
  let own := s.ownedBy f
  [(0x00, Config.vendorId + 65536 * pciDevice f), (0x04, Config.revisionId + 65536 * Config.subsysId)]
    ++ wordsOf 0x08 4 serialNo
    ++ [(0x18, fld s.fw.rootHead 8 4), (0x1C, fld s.fw.svcHead 12 4), (0x20, s.fw.svcImage),
        (0x24, s.power.state + 4 * b2n s.power.fatal + 8 * b2n s.power.marginLow + 16 * b2n s.power.marginExhausted
          + 32 * b2n (s.fw.svcRestart || s.fw.svcDown) + 65536 * s.power.fieldMhz),
        (0x28, f.port + 2 * b2n (isPf f) + 4 * (f.idx - 1) + 64 * own.getD 0 + 1024 * b2n own.isSome),
        (0x2C, x.permit), (0x30, s.commit.gen), (0x34, x.discards), (0x38, x.evqTail + 65536 * x.evqLost), (0x3C, x.evqHead)]
    ++ wordsOf 0x40 2 s.dtb
    ++ [(0x48, s.power.resetCause + 256 * s.power.lastFatal), (0x4C, b2n s.pcie.linkA + 2 * b2n s.pcie.linkB)]
    ++ s.fw.words ++ s.recWords f ++ (if isPf f then s.ageWords ++ s.cool.words else [])

/-- The word of a list at an offset; unlisted offsets read 0. -/
def wordIn (ws : List (Nat × Nat)) (o : Nat) : Nat := match ws.find? (fun e => e.1 == o) with | some e => e.2 % 2 ^ 32 | none => 0

/-- The 32-bit word a function reads from a register it sees. -/
def State.regWord (s : State) (f : Fn) : Reg → Nat
  | .slot n o => (s.slot f n).word o
  | .ident o => wordIn (s.idWords f) o
  | .msix o => if o % 16 = 12 then b2n (bit (s.fn f).msixMask (o / 16)) else Cells.get (fun _ => 0) (s.fn f).msixTable (o / 4)
  | .pba o => bits (s.fn f).msixPend (8 * o + 31) (8 * o)
  | .ring o => fld (Cells.get (fun _ => []) (s.fn f).ring (o / 32)) (o % 32) 4
  | .core c o => wordIn (s.coreWords c) o
  | .ctr b o => s.ctrWord f b o
  | .shelf k o => wordIn (s.shelf k).words o
  | .port p o => wordIn (s.port p).words o
  | .time o => wordIn s.time.words o
  | .chan v o => wordIn (s.chanWords v) o
  | .wset p o => wordIn (s.part p).wsetWords o
  | .part p o => wordIn (s.partWords p) o
  | .cyc o => wordIn s.cyc.words o
  | .pair k o => wordIn (s.pair k).words o
  | .pci o => wordIn (pciWords f) o

/-! ## Clearing by a read (Table 0.4, RC) -/

/-- Clears the RC fields of the identification and status block at an offset. -/
def State.clearId (s : State) (f : Fn) (o : Nat) : State :=
  match o with
  | 0x34 => s.setFn f { s.fn f with discards := 0 }
  | 0x38 => s.setFn f { s.fn f with evqLost := 0 }
  | 0x80 => { s with fw := { s.fw with svcRestarts := 0 } }
  | 0xA0 => match s.ownedBy f with
    | some p => s.updRcv p (fun r => { r with fenced := 0 })
    | none => if isPf f then (List.range 16).foldl (fun s p => s.updRcv p (fun r => { r with fenced := 0 })) s else s
  | 0xA4 => match s.ownedBy f with
    | some p => s.updRcv p (fun r => { r with rollbacks := 0 })
    | none => s
  | 0xF0 => if isPf f then { s with power := { s.power with regrades := 0 } } else s
  | 0x104 => if isPf f then { s with cool := { s.cool with pinPeak := 0 } } else s
  | 0x110 => if isPf f then { s with cool := { s.cool with vinDips := 0 } } else s
  | 0x118 => if isPf f then { s with cool := { s.cool with capMs := 0 } } else s
  | _ => s

/-- Clears the RC fields of a core's window at an offset. -/
def Core.clearRc (k : Core) (o : Nat) : Core :=
  match o with
  | 0x40 => { k with mu := { k.mu with deepReplays := 0 } }
  | 0x48 => { k with mu := { k.mu with fails := 0, lost := 0 } }
  | 0x58 => { k with ve := { k.ve with flags := { k.ve.flags with sat := 0 } } }
  | 0x60 => { k with firnNonfinite := 0 }
  | 0x68 => { k with eccCorr := 0 }
  | _ => k
/-- Of a shelf. -/
def Shelf.clearRc (x : Shelf) (o : Nat) : Shelf :=
  match o with
  | 0x04 => { x with stepMax := 0 }
  | 0x10 => { x with parityRetries := 0 }
  | 0x14 => { x with parityFences := 0 }
  | 0x18 => { x with odeccCorr := 0 }
  | 0x1C => { x with cacheCorr := 0, ueCount := 0 }
  | 0x2C => { x with sleetMissing := 0 }
  | _ => x
/-- Of a port. -/
def Port.clearRc (x : Port) (o : Nat) : Port :=
  match o with
  | 0x18 => { x with fecCorr := 0 }
  | 0x1C => { x with fecUncorr := 0 }
  | 0x20 => { x with crcFail := 0 }
  | 0x24 => { x with replays := 0 }
  | 0x28 => { x with hbMissed := 0, losses := 0 }
  | 0x2C => { x with ackLate := 0, fenced := 0 }
  | _ => x
/-- Of a collective channel. -/
def Channel.clearRc (x : Channel) (o : Nat) : Channel :=
  match o with
  | 0x10 => { x with skewReports := 0, holds := 0 }
  | 0x14 => { x with dropped := 0 }
  | 0x20 => { x with satCount := 0 }
  | _ => x
/-- Of a codec pair. -/
def Pair.clearRc (x : Pair) (o : Nat) : Pair :=
  match o with
  | 0x0C => { x with pictures := 0 }
  | 0x10 => { x with corrupt := 0, budgetHits := 0 }
  | 0x14 => { x with wdogHits := 0, suspends := 0 }
  | 0x18 => { x with fenced := 0 }
  | 0x1C => { x with oob := 0 }
  | _ => x

/-- A read clears the RC fields of the word it reads. -/
def State.clearRc (s : State) (f : Fn) : Reg → State
  | .ident o => s.clearId f o
  | .core c o => s.updCore c (fun k => k.clearRc o)
  | .shelf k o => s.updShelf k (fun x => x.clearRc o)
  | .port p o => s.updPort p (fun x => x.clearRc o)
  | .time o => if o = 0x18 then { s with time := { s.time with unlocks := 0 } } else s
  | .chan v o => s.updChan v (fun x => x.clearRc o)
  | .wset p o => if o = 0x18 then s.updPart p (fun x => { x with ws := { x.ws with crcFails := 0 } }) else s
  | .pair k o => s.updPair k (fun x => x.clearRc o)
  | _ => s

/-- What a read returned. -/
def State.answerRead (s : State) (v stamp : Nat) : State := { s with out := { s.out with readData := v, readStamp := stamp } }

/-- A read of PMCk: VALUE is sampled and the DTB latched for the reading function (R489). -/
def State.readPmc (s : State) (f : Fn) (b : Blk) (k : Nat) : State :=
  let t := s.count b
  let u := t.setFn f { t.fn f with stamps := Cells.put (fun _ => 0) (t.fn f).stamps (b.num k) t.dtb }
  u.answerRead (t.pmc b k) t.dtb

/-- The counter of a PMC register at an offset of its block. -/
def pmcAt (b : Blk) (o : Nat) : Option Nat := if 8 * b.size ≤ o && o < 16 * b.size then some (o / 8 % b.size) else none

/-- REGISTER_READ_CLEAR: the 32-bit word of a register is read; RC fields of it are cleared in the same access. What a function does not
see reads 0 and clears nothing. -/
def execRegisterReadClear (f : Fn) (bar off : Nat) (s : State) : R :=
  if !fnOk f then .fault .noSuchUnit else
  if !s.hostUp then .next s else
  match s.regAt f bar off with
  | none => .next (s.answerRead 0 0)
  | some (.ctr b o) => match pmcAt b o with
    | some k => .next (s.readPmc f b k)
    | none => .next ((s.count b).answerRead ((s.count b).ctrWord f b o) 0)
  | some r => .next ((s.clearRc f r).answerRead (s.regWord f r) 0)

/-! ## Writes (R6, R7, R409) -/

/-- A staged register and whether the value written holds a reserved encoding: RACK above 79, a power cap outside 1,000 to 2,800. -/
def stagedWrite (v : Nat) : Reg → Option (Staged × Bool)
  | .time 0x08 => some (.position (v % 2 ^ 15), decide (79 < posRack v))
  | .time 0x0C => some (.timeCfg (v % 2 ^ 15), decide (79 < posRack v))
  | .port p 0x30 => some (.portCtl p (v % 2), false)
  | .ident 0x108 => some (.powerCap (v % 2 ^ 12), decide (v % 2 ^ 12 < 1000) || decide (2800 < v % 2 ^ 12))
  | .ident 0x110 => some (.leakShutdown (bits v 5 5), false)
  | _ => none

/-- A write to an MSI-X table word: vector control masks a vector, or unmasks it, and a pending one fires (R410). -/
def State.writeMsix (s : State) (f : Fn) (o v : Nat) : State :=
  let x := s.fn f
  let n := o / 16
  if o % 16 != 12 then s.setFn f { x with msixTable := Cells.put (fun _ => 0) x.msixTable (o / 4) (v % 2 ^ 32) }
  else if bit v 0 then s.setFn f { x with msixMask := setBit x.msixMask n true }
  else
    let s1 := s.setFn f { x with msixMask := setBit x.msixMask n false, msixPend := setBit x.msixPend n false }
    if bit x.msixPend n then s1.irq f n else s1

/-- VFLAGS after a write: ones clear (Table 6.5). -/
def flClear (g : Fl) (v : Nat) : Fl := ⟨g.ov && !bit v 0, g.uf && !bit v 1, g.inv && !bit v 2, g.rowEmpty && !bit v 3, g.varClamp && !bit v 4, g.sat⟩

/-- A write to a register that no command and no commit carries, by its access code; RO registers ignore it. -/
def State.writeReg (s : State) (f : Fn) (bar off v : Nat) : Reg → State
  | .ident 0x3C => s.setFn f { s.fn f with evqHead := v % 256 }
  | .msix o => s.writeMsix f o v
  | .core c 0x58 => s.updCore c (fun k => { k with ve := { k.ve with flags := flClear k.ve.flags v } })
  | .core c 0x68 => s.updCore c (fun k => { k with eccUncorr := k.eccUncorr && !bit v 24 })
  | .chan n 0x1C => s.updChan n (fun x => { x with flags := bits x.flags 2 0 &&& (7 - bits v 2 0) })
  | .ctr b o =>
    let k := o / 8
    if 8 * b.size ≤ o then s
    else if ctlBad b k v then s.jDiscard f bar off v
    else let t := s.count b; t.setCtl b k (ctlNew b (t.ctl b k) v)
  | _ => s

/-- REGISTER_WRITE: by access code, RW takes effect, RW1C clears, RWS goes to the staged copy and RO ignores; a reserved encoding, a VF's
write to a staged register and a write to what the function does not see are discarded and journalled. The registers of the mailbox slots
and the counter values have rows of their own; a write to CTLk carries its 64 bits. -/
def execRegisterWrite (f : Fn) (bar off value : Nat) (s : State) : R :=
  if !fnOk f then .fault .noSuchUnit else
  if !s.hostUp then .next s else
  match s.regAt f bar off with
  | none => .next (if isPf f then s else s.jDiscard f bar off value)
  | some r =>
    match stagedWrite value r with
    | some (v, bad) => .next (if bad || !isPf f then s.jDiscard f bar off value else s.stage v)
    | none => .next (s.writeReg f bar off value r)

/-- PMC_READ: the counter value at a PMC register. -/
def execPmcRead (f : Fn) (bar off : Nat) (s : State) : R :=
  if !fnOk f then .fault .noSuchUnit else
  if !s.hostUp then .next s else
  match s.regAt f bar off with
  | some (.ctr b o) => match pmcAt b o with
    | some k => .next (s.readPmc f b k)
    | none => .next s
  | _ => .next (s.answerRead 0 0)

/-- PMC_WRITE: the value replaces VALUE; what a function does not see is discarded and journalled (R409). -/
def execPmcWrite (f : Fn) (bar off value : Nat) (s : State) : R :=
  if !fnOk f then .fault .noSuchUnit else
  if !s.hostUp then .next s else
  match s.regAt f bar off with
  | some (.ctr b o) => match pmcAt b o with
    | some k => .next ((s.count b).setPmc b k (value % 2 ^ 48))
    | none => .next s
  | _ => .next (if isPf f then s else s.jDiscard f bar off value)

end Sys2Proof.Machine
end

