-- ==== Sys2Proof/Machine/Jobs.lean ====
section
/-!
DEFINITION. Sys2Proof/Machine/Jobs.lean: RUN, RETIRE, JOB_STATUS and MEM_COPY (R119, R249, R300, R422 to R424), TABLE_RELOAD (R42, R152,
R201, R360, R363, R364), the posts of the sequence-table commands (R185), SLOT_QUERY and FAULT_QUERY (R178, R450).
-/

namespace Sys2Proof.Machine

/-! ## The request queue (R119, R185) -/

/-- The command in a slot joins the request queue of its partition; it completes where it takes effect. -/
def State.enqueue (s : State) (f : Fn) (n : Nat) (q : Slot) : State :=
  s.updJob q.part (fun j => { j with
    requests := j.requests ++ [{ fn := f, slot := n, cmd := q.cmd, post := q.postDtb, payload := q.payload.take q.len }] })

/-- Whether the queue of a partition holds 16 requests. -/
def State.queueFull (s : State) (p : Nat) : Bool := decide (16 ≤ (s.part p).job.requests.length)

/-! ## RUN (R422) -/

/-- Whether every declared variable lies in its range. -/
def varsInRange (im : Image) (payload : List Byte) : Bool :=
  (tpRecords im.bytes 0x01).all (fun r =>
    let v := (runVars payload).getD (fbits r 0 2 0) 0
    decide (fld r 4 4 ≤ v) && decide (v ≤ fld r 8 4))

/-- The first refusal of a run request, made before its inputs are read. -/
def State.runRefusal (s : State) (p : Nat) (im : Image) (b : List Byte) : Option Nat :=
  if 1 < tpModules im.bytes && (s.part p).ranks.isNone then some Config.stNotBound
  else if 128 < fbits b 32 7 0 then some Config.stBadField
  else if !varsInRange im b then some Config.stShapeRange
  else if s.queueFull p then some Config.stQueueFull
  else if (runRefs b).any (fun r => decide (geoBytes (s.part p).geo < r.2.1 + r.2.2.2)) then some Config.stAccessRights
  else none

/-- A DMA write of normal class into a partition: words of a reducer region keep their values (R256; log entry 123), bytes in a fenced
pseudo-channel are discarded and reported (R269). -/
def State.dmaWrite (s : State) (p x : Nat) (bs : List Byte) : State :=
  let open_ := (placesFrom x bs).filter (fun e => match interPhys (s.part p).geo e.1 with
    | some a => (s.regionAt p a).isNone
    | none => false)
  ((s.storeBytes p 1 false open_).fenceReport p 0xFFFFFFFFFFFF ((List.range bs.length).map (x + ·))).answer

/-- Copies the inputs of a run request, one list of bytes for each input reference in order. -/
def State.copyInputs (s : State) (p : Nat) (refs : List (Nat × Nat × Bool × Nat)) (data : List (List Byte)) : State :=
  ((refs.filter (fun r => !r.2.2.1)).zip data).foldl (fun s e => s.dmaWrite p e.1.2.1 (sub e.2 0 e.1.2.2.2)) s

/-- The first run request starts the image: its cores run (R208), unless a fault has stopped the partition (R450). -/
def State.startImage (s : State) (p : Nat) : State :=
  if (s.part p).job.started || (s.part p).job.stopped then s else
  ((s.imageCores p).foldl (fun s c => s.updCore c (fun k => { k with
      banksDue := false, tally := addAt k.tally 0x1002 1, seq := { winM1 := k.seq.winM1, run := 1, voteAt := (s.part p).job.votes } })) s).updJob p (fun j =>
    { j with started := true, running := true })

/-- RUN: the inputs are copied and the request joins the queue. -/
def execRun (f : Fn) (n : Nat) (inputs : Option (List (List Byte))) (s : State) : R :=
  command 0x0202 f n s (fun q s =>
    let p := q.part
    match (s.part p).image with
    | none => s.complete f n Config.stNoImage 0 []
    | some im => match s.runRefusal p im (q.payload.take q.len) with
      | some st => s.complete f n st 0 []
      | none => match inputs with
        | none => s.complete f n Config.stDmaError 0 []
        | some data => ((s.copyInputs p (runRefs (q.payload.take q.len)) data).enqueue f n q).startImage p)

/-! ## RETIRE and JOB_STATUS -/

/-- RETIRE: the image's reservations return (R249). -/
def execRetire (f : Fn) (n : Nat) (s : State) : R :=
  command 0x0203 f n s (fun q s =>
    if (s.part q.part).image.isNone then s.complete f n Config.stNoImage 0 []
    else ((s.retireImage q.part Config.stNoImage).jDo f q).complete f n Config.stOk 0 [])

/-- VFLAGS of a partition: every core's flags and the sticky reducer flags (Table 18.7). -/
def State.jobFlags (s : State) (p : Nat) : Nat :=
  (geoCores (s.part p).geo).foldl (fun v c => let f := (s.core c).ve.flags; v ||| (f.bits3 + 8 * b2n f.rowEmpty + 16 * b2n f.varClamp))
    (s.part p).job.redFlags

/-- STATE of every layer, two bits each; layers that the image does not have read 0. -/
def State.layerStates (s : State) (p : Nat) : Nat :=
  match (s.part p).image with
  | none => 0
  | some im => (List.range (tpLayers im.bytes)).foldl (fun v l => v + s.layerState p im l * 2 ^ (2 * l)) 0

/-- Results dropped over the channels of a partition (R311). -/
def State.jobDropped (s : State) (p : Nat) : Nat :=
  match (s.part p).image with
  | none => 0
  | some im => im.chans.foldl (fun d v => d + (s.chan v).dropped) 0

/-- The 320 bytes of Table 18.7. -/
def State.jobStatusBytes (s : State) (p : Nat) : List Byte :=
  let x := s.part p
  let j := x.job
  leBytes 4 (s.state5 p + 32 * b2n j.widenDeferred + 64 * b2n (s.allHalted p) + 128 * b2n j.stopped + 256 * j.lastFault)
    ++ leBytes 4 (s.jobFlags p) ++ leBytes 6 (j.nextCommit - 1) ++ leBytes 2 0 ++ leBytes 4 j.nextRequest
    ++ leBytes 4 (min (s.jobDropped p) 0xFFFFFFFF) ++ leBytes 8 j.satTotal ++ leBytes 32 0 ++ leBytes 256 (s.layerStates p)

/-- JOB_STATUS: reads, and clears nothing. -/
def execJobStatus (f : Fn) (n : Nat) (s : State) : R :=
  command 0x0204 f n s (fun q s => s.complete f n Config.stOk 0 (s.jobStatusBytes q.part))

/-! ## MEM_COPY (R424) -/

namespace Mc
def host (b : List Byte) : Nat := fld b 0 8
def off (b : List Byte) : Nat := fld b 8 8
def bytes (b : List Byte) : Nat := fld b 16 8
end Mc

/-- The refusals of a copy. -/
def State.copyRefusal (s : State) (p : Nat) (b : List Byte) : Option Nat :=
  if geoBytes (s.part p).geo < Mc.off b + Mc.bytes b then some Config.stAccessRights else none

/-- The first byte of a range that lies in a fenced pseudo-channel, looked for in every 256-byte piece that the range touches (R251). -/
def State.fencedByte (s : State) (p x n : Nat) : Option Nat :=
  if n = 0 then none else
  ((List.range ((x + n - 1) / 256 - x / 256 + 1)).map (fun i => max x ((x / 256 + i) * 256))).find? (s.fencedX p)

/-- A copy that meets a fenced pseudo-channel is reported as a fault of its shelf (R269). -/
def State.reportFenced (s : State) (p x : Nat) : State :=
  s.report p Config.stHbmFenced 0 0xFFFFFFFFFFFF ⟨1, match interPhys (s.part p).geo x with | some a => shelfOf a | none => 0⟩

/-- MEM_COPY to the device. -/
def execMemCopyToDevice (f : Fn) (n : Nat) (data : Option (List Byte)) (s : State) : R :=
  commandIf (fun q => q.cmd == 0x0205 && fbits (q.payload.take q.len) 24 0 0 == 0) f n s (fun q s =>
    let b := q.payload.take 28
    match s.copyRefusal q.part b with
    | some st => s.complete f n st 0 []
    | none =>
      if Mc.bytes b = 0 then s.complete f n Config.stOk 0 [] else
      match data with
      | none => s.complete f n Config.stDmaError 0 []
      | some d =>
        let bs := sub d 0 (Mc.bytes b)
        (s.dmaWrite q.part (Mc.off b) bs).complete f n
          (if (s.fencedByte q.part (Mc.off b) (Mc.bytes b)).isSome then Config.stHbmFenced else Config.stOk) 0 [])

/-- MEM_COPY to the host. -/
def execMemCopyToHost (f : Fn) (n : Nat) (ok : Bool) (s : State) : R :=
  commandIf (fun q => q.cmd == 0x0205 && fbits (q.payload.take q.len) 24 0 0 == 1) f n s (fun q s =>
    let b := q.payload.take 28
    match s.copyRefusal q.part b with
    | some st => s.complete f n st 0 []
    | none =>
      if Mc.bytes b = 0 then s.complete f n Config.stOk 0 [] else
      match s.fencedByte q.part (Mc.off b) (Mc.bytes b) with
      | some x => (s.reportFenced q.part x).complete f n Config.stHbmFenced 0 []
      | none =>
        if !ok then s.complete f n Config.stDmaError 0 []
        else
          let xs := (List.range (Mc.bytes b)).map (Mc.off b + ·)
          ((s.loadAt q.part 1 xs).toHost f (Mc.host b) (xs.map (s.visibleX q.part))).complete f n Config.stOk 0 [])

/-! ## TABLE_RELOAD (R363, R364; payload of log entry 14) -/

namespace Tr
/-- 0 special functions, 1 codebooks, 2 firn parameters, 3 the cyclic table. -/
def table (b : List Byte) : Nat := fld b 0 1
def side (b : List Byte) : Nat := fbits b 0 8 8
def arm (b : List Byte) : Bool := fbits b 0 9 9 == 1
def beat (b : List Byte) : Nat := fld b 8 6
def bytes (b : List Byte) : Nat := fld b 24 4
def bad (b : List Byte) : Bool := decide (3 < table b)
end Tr

/-- One of a core's tables. -/
def Core.bank (k : Core) (t : Nat) : Bank := if t = 0 then k.sf else if t = 1 then k.cb else k.firn
def Core.setBank (k : Core) (t : Nat) (b : Bank) : Core :=
  if t = 0 then { k with sf := b } else if t = 1 then { k with cb := b } else { k with firn := b }
/-- Fills a side. -/
def Bank.fill (b : Bank) (side : Nat) (d : List Byte) : Bank := if side = 0 then { b with s0 := d } else { b with s1 := d }
/-- Switches to a side. -/
def Bank.switchTo (b : Bank) (side : Nat) : Bank := { b with side := side, gen := (b.gen + 1) % 2 ^ 32, armed := none }
/-- Whether a side is active or the target of an armed switch. -/
def Bank.busy (b : Bank) (side : Nat) : Bool := b.side == side || (match b.armed with | some (t, _) => t == side | none => false)

/-- Whether a side of the cyclic table is active, the target of an armed or staged switch, or awaits its first hyperperiod. -/
def State.cycBusy (s : State) (side : Nat) : Bool :=
  s.cyc.starting || s.cyc.side == side || s.cyc.armed == some side
    || s.commit.staged.any (fun v => match v with | .cyclic t => t == side | _ => false)

/-- Whether the named side may not be reloaded. -/
def State.sideBusy (s : State) (p : Nat) (b : List Byte) : Bool :=
  if Tr.table b = 3 then s.cycBusy (Tr.side b)
  else (geoCores (s.part p).geo).any (fun c => ((s.core c).bank (Tr.table b)).busy (Tr.side b))

/-- Whether a size is that of a side of the table; the manual gives the special-function table's image no size (log entry 6). -/
def sideSize (t n : Nat) (d : List Byte) : Bool :=
  match t with
  | 0 => decide (4 ≤ n)
  | 1 => n == 8192
  | 2 => n == 2048
  | _ => decide (64 ≤ n) && n == 64 + 64 * cycWindows d

/-- Whether an image's streams use stage 4 (R152). -/
def usesStage4 (im : Image) : Bool :=
  (List.range (nCores im.bytes)).any (fun k => (tpStream im.bytes k).any (fun w => bits w.toNat 3 0 == 2 && bit w.toNat 34))

/-- Whether some running image uses stage 4. -/
def State.stage4Runs (s : State) : Bool :=
  (List.range 16).any (fun p => (s.part p).job.running && (match (s.part p).image with | some im => usesStage4 im | none => false))

/-- Whether a cyclic table has no reserved bit set, 1 to 256 windows in their ranges, and H in its range (R357, R358). -/
def cyclicOk (d : List Byte) : Bool :=
  let nw := cycWindows d
  fbits d 0 31 9 == 0 && isZero d 4 60 && decide (1 ≤ nw) && decide (nw ≤ 256)
    && (List.range nw).all (fun w => let e := winEntry d w
      decide (winLen d w ≤ 100000) && fbits e 0 31 22 == 0 && fld e 52 8 / 2 ^ 60 == 0 && isZero e 60 4)
    && decide (1000 ≤ hyperUs d) && decide (hyperUs d ≤ 100000)

/-- Whether every pair that an admitted image's CODEC_MASK names has a window for its partition (R360). -/
def State.codecServed (s : State) (d : List Byte) : Bool :=
  (List.range 16).all (fun p => match (s.part p).image with | some im => grantsAll d (Req.codecMask im.req) p | none => true)

/-- The status with which a table's own checks refuse its contents, if any. -/
def State.contentRefusal (s : State) (p t : Nat) (d : List Byte) : Option Nat :=
  match t with
  | 0 => if s.stage4Runs && (geoCores (s.part p).geo).any (fun c => fld (s.core c).sf.active 0 4 != fld d 0 4) then some Config.stSfTable
         else none
  | 1 => if (List.range 4096).any (fun i => bits (fld d (2 * i) 2) 14 10 == 31) then some Config.stBadCodebook else none
  | 2 => if (List.range 256).any (fun i => (firnParam (sub d (8 * i) 8)).isNone) then some Config.stBadField else none
  | _ => if !cyclicOk d then some Config.stBadField else if !s.codecServed d then some Config.stNoCodec else none

/-- CUR_BEAT_MAX of a partition (Table 16.9). -/
def State.beatMax (s : State) (p : Nat) : Nat := (geoCores (s.part p).geo).foldl (fun m c => max m (s.core c).seq.curBeat) 0

/-- The refusals of a reload with the contents read. -/
def State.reloadRefusal (s : State) (p : Nat) (b d : List Byte) : Option Nat :=
  if !sideSize (Tr.table b) (Tr.bytes b) d then some Config.stBadLength
  else match s.contentRefusal p (Tr.table b) d with
    | some st => some st
    | none => if Tr.table b != 3 && Tr.arm b && decide (Tr.beat b ≤ s.beatMax p) then some Config.stBeatRange else none

/-- Fills the side of every core of the partition and arms it: with no admitted image the switch takes effect at once. -/
def State.reloadCores (s : State) (p : Nat) (b d : List Byte) : State :=
  (geoCores (s.part p).geo).foldl (fun s c => s.updCore c (fun k =>
    let x := (k.bank (Tr.table b)).fill (Tr.side b) d
    k.setBank (Tr.table b) (
      if !Tr.arm b then x
      else if (s.part p).image.isNone then x.switchTo (Tr.side b)
      else { x with armed := some (Tr.side b, Tr.beat b) }))) s

/-- Fills a side of the cyclic table; with ARM a switch to it is staged (R365, R477). -/
def State.reloadCyclic (s : State) (b d : List Byte) : State :=
  let s1 : State := if Tr.side b = 0 then { s with cyc := { s.cyc with s0 := d } } else { s with cyc := { s.cyc with s1 := d } }
  if Tr.arm b then s1.stage (.cyclic (Tr.side b)) else s1

/-- TABLE_RELOAD. -/
def execTableReload (f : Fn) (n : Nat) (data : Option (List Byte)) (s : State) : R :=
  command 0x0206 f n s (fun q s =>
    let b := q.payload.take 32
    if q.len < 32 then s.complete f n Config.stBadLength 0 []
    else if Tr.bad b then s.complete f n Config.stBadField 0 []
    else if s.sideBusy q.part b then s.complete f n Config.stBankActive 0 []
    else if Tr.bytes b = 0 then s.complete f n Config.stBadLength 0 []
    else match data with
      | none => s.complete f n Config.stDmaError 0 []
      | some all =>
        let d := sub all 0 (Tr.bytes b)
        match s.reloadRefusal q.part b d with
        | some st => s.complete f n st 0 []
        | none =>
          if Tr.table b = 3 then (s.reloadCyclic b d).complete f n Config.stOk 0 []
          else ((s.reloadCores q.part b d).jDo f q).complete f n Config.stOk 0 [])

/-! ## The sequence-table commands (R185) and queries -/

/-- A sequence-table command joins the request queue of its partition, and takes effect at a selection point. -/
def postSeq (code : Nat) (f : Fn) (n : Nat) (s : State) : R :=
  command code f n s (fun q s =>
    if (s.part q.part).image.isNone then s.complete f n Config.stNoImage 0 []
    else if s.queueFull q.part then s.complete f n Config.stQueueFull 0 []
    else s.enqueue f n q)

/-- SLOT_OPEN. -/
def execSlotOpen (f : Fn) (n : Nat) (s : State) : R := postSeq 0x0400 f n s
/-- SLOT_FORK. -/
def execSlotFork (f : Fn) (n : Nat) (s : State) : R := postSeq 0x0401 f n s
/-- SLOT_CLOSE. -/
def execSlotClose (f : Fn) (n : Nat) (s : State) : R := postSeq 0x0402 f n s
/-- PREFIX_PIN. -/
def execPrefixPin (f : Fn) (n : Nat) (s : State) : R := postSeq 0x0403 f n s
/-- PREFIX_RELEASE. -/
def execPrefixRelease (f : Fn) (n : Nat) (s : State) : R := postSeq 0x0404 f n s

/-- SLOT_QUERY: the entry of a sequence slot (Table 8.5). -/
def execSlotQuery (f : Fn) (n : Nat) (s : State) : R :=
  command 0x0405 f n s (fun q s =>
    let b := sub (q.payload.take q.len) 0 4
    match (s.part q.part).image with
    | none => s.complete f n Config.stNoImage 0 []
    | some im =>
      if !slotOwned im (fbits b 0 7 0) then s.complete f n Config.stSlotState 0 []
      else s.complete f n Config.stOk 0 (s.seqEnt q.part im (fbits b 0 7 0)))

/-- FAULT_QUERY: the partition's last 16 faults, oldest first. -/
def execFaultQuery (f : Fn) (n : Nat) (s : State) : R :=
  command 0x0F02 f n s (fun q s => s.complete f n Config.stOk 0 (s.part q.part).job.history.flatten)

end Sys2Proof.Machine
end

