-- ==== Sys2Proof/Machine/Power.lean ====
section
/-!
DEFINITION. Sys2Proof/Machine/Power.lean: power states (R474 to R476), the field regrade (R481 to R484), power-on and shutdown (R500 to
R502), capping, field throttling, sensors, leaks and cable presence (R499, R504, R508 to R512).
-/

namespace Sys2Proof.Machine

/-- A device-wide event that is also journalled (R482, R484, R512). -/
def State.note (s : State) (detail : Nat) (new : List Byte) : State :=
  (s.jEvent Config.stOk detail none new).event { status := Config.stOk, device := true, detail := detail }

/-! ## The field regrade (R482 to R484) -/

/-- Field clock planned by a field regrade, in MHz. -/
def PowerState.planMhz (x : PowerState) : Nat := if x.marginExhausted then 900 else 940
/-- V_req + 10 mV of a field, in tenths of a millivolt, by sweep `k`: the sweep starts at the present voltage and steps by 2.5 mV. -/
def PowerState.wanted (x : PowerState) (k f : Nat) : Nat := x.volts.getD f 0 + 25 * Config.requiredSteps k f x.planMhz + 100
/-- A field's voltage after the regrade. -/
def PowerState.newVolt (x : PowerState) (k f : Nat) : Nat := min 8200 (max (x.volts.getD f 0) (x.wanted k f))

/-- What a field part sets. -/
def PowerState.regraded (x : PowerState) (k dtb : Nat) : PowerState :=
  let short := (List.range 4).any (fun f => decide (8200 < x.wanted k f))
  let spent := short && !x.marginExhausted
  let volts := (List.range 4).map (fun f => if spent then 8200 else x.newVolt k f)
  { x with
    volts := volts
    fieldMhz := if spent || x.marginExhausted then 900 else x.fieldMhz
    marginLow := x.marginLow || volts.any (fun v => decide (8200 < v + 200))
    marginExhausted := x.marginExhausted || short
    endOfLife := x.endOfLife || (x.marginExhausted && short)
    regradeDue := false
    fieldRegrade := dtb
    regrades := satAdd 0xFFFF x.regrades 1 }

/-- The field part: it is recorded, and each stage of margin it newly sets is reported. -/
def State.fieldPart (s : State) : State :=
  let old := s.power
  let new := old.regraded s.freeCtr s.dtb
  let s1 : State := { s.tick with power := new }
  let s2 := s1.note 1 ((new.volts.map (leBytes 2)).flatten)
  let s3 := if new.marginLow && !old.marginLow then s2.note 3 [] else s2
  let s4 := if new.marginExhausted && !old.marginExhausted then s3.note 4 [] else s3
  if new.endOfLife && !old.endOfLife then s4.note 5 [] else s4

/-! ## Transitions between power states (Table 21.4) -/

def State.setPower (s : State) (v : Nat) : State := { s with power := { s.power with state := v } }

/-- Active to Hoar: the fields stop issuing, the counters stop (R495), and a field regrade runs where one is due. -/
def State.enterHoar (s : State) : State := let t := s.countAll.setPower 1; if t.fieldDue then t.fieldPart else t

/-- What a core loses when its field is power-gated (Table 21.2); its tables are rewritten before it issues again (R364). -/
def Core.gate (x : Core) (k : Nat) : Core :=
  { x with
    ts := {}
    ob := {}
    desc := { lost := [(0, Config.descBytes, k)] }
    ve := { x.ve with vr := [], vrLost := some k, carry := {} }
    mu := { x.mu with t0 := {}, t1 := {}, ftq := [] }
    ready := 0 }

/-- Every core's field is power-gated. -/
def State.gateFields (s : State) : State :=
  let k := s.freeCtr
  let t : State := { s with freeCtr := k + Config.cores, coresLost := some k, cores := [] }
  { t with cores := s.cores.foldl (fun m e => Cells.put t.coreDefault m e.1 (e.2.gate (k + e.1))) [] }

/-- Hoar to Frost: pairs save their contexts, ports drop to low rate, the fields are power-gated. -/
def State.enterFrost (s : State) : State :=
  let s1 := (List.range 12).foldl State.suspend s
  let s2 := (List.range 16).foldl (fun s p => s.updPort p (fun x => { x with lowRate := true })) s1
  s2.gateFields.setPower 2

/-- Frost to Hoar: ports return to full rate, unless the peer's module is in Frost (R292), and core resets that waited are performed
(R476). -/
def State.leaveFrost (s : State) : State :=
  let s1 := (List.range 16).foldl (fun s p => s.updPort p (fun x => { x with lowRate := x.peer.any (·.frost) })) s
  let s2 := (List.range 100).foldl (fun s b => if bit s1.power.coreResets b then
    (List.range 100).foldl (fun s i => s.resetCore (coreAt b (i / 10) (i % 10))) s else s) s1
  { s2 with power := { s2.power with state := 1, coreResets := 0 } }

/-- A departure notice on VC 9, behind the messages that wait there; it leaves while the channel has credit (R281; log entry 14). -/
def State.sendDeparture (s : State) (p : Nat) : State :=
  if !(s.port p).up then s else
  let s1 := s.sendMsg p 9 0 (leBytes 4 2)
  s1.drainVc p 9 (((s1.port p).vc 9).out.foldl (fun n m => n + m.payload.length / 232 + 1) 0)

/-- Frost to Permafrost: the journal is sealed, peers are told, links go down, stacks and I/O die lose their state, and throttle steps
return to 0 (Table 21.2). -/
def State.enterPermafrost (s : State) : State :=
  let s1 := (List.range 16).foldl State.sendDeparture s.seal
  let k := s1.freeCtr
  let s2 := (List.range 16).foldl (fun s p => s.closeSessions p Config.stSessionState) s1
  { s2 with
    freeCtr := k + 30000
    hbm := { lost := [(0, flat 64 0, k)] }
    coresLost := some k
    tablesLost := some (k + 10000)
    cores := []
    parts := (s2.loosePools 16 (2 ^ 64 - 1)).parts
    shelves := (List.range 8).foldl (fun m j => let x := s2.shelf j
      Cells.put (fun _ => {}) m j { wayOwner := x.wayOwner, wayValid := x.wayValid, timingPlan := x.timingPlan }) []
    ports := (List.range 16).foldl (fun m p => let x := (s2.port p).drop
      Cells.put (fun _ => {}) m p { x with state := if x.disable then 7 else 0, peer := none }) []
    watches := []
    msgs := []
    fields := []
    pcie := { s2.pcie with linkA := false, linkB := false }
    time := { s2.time with nbrs := [] }
    cool := { s2.cool with fieldSteps := [0, 0, 0, 0], fieldBelow := [0, 0, 0, 0] }
    power := { s2.power with state := 3 } }

/-- One transition downwards or upwards. -/
def State.deeper (s : State) : State := if s.power.state = 0 then s.enterHoar else if s.power.state = 1 then s.enterFrost else s.enterPermafrost
def State.shallower (s : State) : State :=
  if s.power.state = 1 then s.setPower 0 else if s.power.state = 2 then s.leaveFrost else s.leavePermafrost

/-- Passes every intermediate state on the way to a target; `n` bounds the way. -/
def State.goTo (s : State) (target : Nat) : Nat → State
  | 0 => s
  | n + 1 => if s.power.state < target then s.deeper.goTo target n else if target < s.power.state then s.shallower.goTo target n else s

/-- Whether every collective channel of every port is empty. -/
def State.channelsEmpty (s : State) : Bool :=
  (List.range 16).all (fun p => (List.range 8).all (fun v =>
    let c := (s.port p).vc v
    c.out.isEmpty && c.unacked.isEmpty && !c.inOpen))

/-- Whether a partition has a load, a freeze or a codec submit in progress. -/
def State.partBusy (s : State) (p : Nat) : Bool :=
  (s.part p).ws.load.isSome || (s.part p).fz.armed || allSessions.any (fun e =>
    let x := s.sess e.1 e.2
    x.isOpen && x.part == p && !(x.submits.isEmpty && x.outputs.isEmpty))

/-- The first partition that `bad` names. -/
def firstPart (bad : Nat → Bool) : Option Nat := (List.range 16).find? bad

/-- DETAIL of the first condition of Table 21.4 that fails on the way to a target. -/
def State.powerRefusal (s : State) (target : Nat) : Option Nat :=
  let cur := s.power.state
  let c1 := if cur < 1 && 1 ≤ target then
      firstPart (fun p => (s.part p).image.isSome && !(s.part p).job.frozen && !(s.part p).job.halted) else none
  let c2 := if cur < 2 && 2 ≤ target then (if s.channelsEmpty then firstPart s.partBusy else some 0xFFFF) else none
  let c3 := if cur < 3 && 3 ≤ target then firstPart (fun p => (s.part p).image.isSome) else none
  (c1.or c2).or c3

/-- POWER_STATE: the device passes to the target state, or is refused. In Permafrost the slot shows completion and no interrupt leaves. -/
def execPowerState (f : Fn) (n : Nat) (s : State) : R :=
  command 0x0013 f n s (fun q s =>
    let target := fbits q.payload 0 1 0
    match s.powerRefusal target with
    | some d => s.complete f n Config.stPowerState d []
    | none =>
      let t := s.goTo target 3
      if target = 3 then t.setSlot f n ((t.slot f n).finish Config.stOk 0 t.dtb []) else t.complete f n Config.stOk 0 [])

/-! ## Power sequencing over the sideband (R511) -/

/-- The sideband's last answer. -/
def State.answerSide (s : State) (b : List Byte) : State := { s with out := { s.out with side := b } }

/-- POWER_STATE_QUERY: OP 0. -/
def execPowerStateQuery (s : State) : R := if s.dead then .next s else .next (s.answerSide (leBytes 1 Config.stOk ++ leBytes 1 s.power.state))

/-- PERMAFROST_EXIT: OP 1; it has no effect in another state. -/
def execPermafrostExit (s : State) : R :=
  if s.dead then .next s
  else .next ((if s.power.state = 3 then s.leavePermafrost else s).answerSide (leBytes 1 Config.stOk))

/-- PERMAFROST_ENTRY: OP 2, under the conditions of Table 21.4. -/
def execPermafrostEntry (s : State) : R :=
  if s.dead then .next s
  else if (s.powerRefusal 3).isSome then .next (s.answerSide (leBytes 1 Config.stPowerState))
  else .next ((s.goTo 3 3).answerSide (leBytes 1 Config.stOk))

/-! ## THERM_ALERT#, leaks and sensors (R508 to R512) -/

/-- Whether a condition of R508 pulls THERM_ALERT# low. -/
def CoolState.alertNow (c : CoolState) : Bool :=
  c.fieldTemp.any (fun t => decide (950 ≤ t)) || c.stackTemp.any (fun t => decide (950 ≤ t)) || decide (550 ≤ c.coolantOut)
    || decide (400 < c.coolantIn) || c.leak

/-- Drives THERM_ALERT#; its assertion is an event. -/
def State.alert (s : State) : State :=
  let on := s.cool.alertNow
  let t : State := { s with cool := { s.cool with thermAlert := on } }
  if on && !s.cool.thermAlert then t.note 18 [] else t

/-- LEAK_DETECT: LEAK_DET# has been low for 10 ms. -/
def execLeakDetect (s : State) : R :=
  if s.power.off || s.cool.leak then .next s
  else .next ((State.note { s with cool := { s.cool with leak := true, leakSince := some s.dtb } } 19 []).alert)

/-- LEAK_CLEAR: LEAK_DET# has been high for 1 s. -/
def execLeakClear (s : State) : R :=
  if s.power.off then .next s else .next (State.alert { s with cool := { s.cool with leak := false, leakSince := none } })

/-- Whether a supply reading is outside the bounds of R501. -/
def outside (mv : Nat) : Bool := decide (mv < 52000) || decide (64000 < mv)

/-- SENSOR_UPDATE: each millisecond's readings; VIN_LOW, VIN_HIGH, VIN_DIPS and the alert follow (R501, R508, R510). -/
def execSensorUpdate (r : Sensors) (s : State) : R :=
  if s.power.off then .next s else
  let c := s.cool
  let low := decide (r.vinMv < 54000)
  let high := decide (63000 < r.vinMv)
  let c1 : CoolState := { c with
    vinMv := r.vinMv
    pinW := r.pinW
    pinPeak := max c.pinPeak r.pinW
    coolantIn := r.coolantIn
    coolantOut := r.coolantOut
    fieldTemp := (List.range 4).map (fun i => r.fields.getD i 0)
    stackTemp := (List.range 8).map (fun i => r.stackTemps.getD i 0)
    ioDie := r.ioDie
    vinLow := low
    vinHigh := high
    vinDips := if outside r.vinMv && !outside c.vinMv then satAdd 0xFFFF c.vinDips 1 else c.vinDips }
  let t : State := { s with cool := c1 }
  let t := if (low && !c.vinLow) || (high && !c.vinHigh) then t.note 16 [] else t
  .next t.alert

/-- Value of a sensor (Table 23.9); none for an unknown ID. -/
def CoolState.sensor (c : CoolState) (id : Nat) : Option Int :=
  if id = 0x01 then some c.vinMv else if id = 0x02 then some c.pinW else if id = 0x03 then some c.coolantIn
  else if id = 0x04 then some c.coolantOut else if id = 0x05 then some (b2n c.leak)
  else if 0x10 ≤ id && id ≤ 0x13 then c.fieldTemp[id - 0x10]?
  else if 0x20 ≤ id && id ≤ 0x27 then c.stackTemp[id - 0x20]?
  else if id = 0x30 then some c.ioDie else none

/-- The 8 bytes of one sensor ID: the value of a field or stack sensor in Permafrost is not given (log entry 4). -/
def State.sensorBytes (s : State) (i id : Nat) : List Byte :=
  match s.cool.sensor id with
  | none => leBytes 8 id
  | some v =>
    if s.power.state = 3 && 0x10 ≤ id && id < 0x30 then leBytes 4 id ++ (List.range 4).map (fun j => Config.freeByte s.freeCtr (4 * i + j))
    else leBytes 1 id ++ leBytes 1 1 ++ leBytes 2 0 ++ leBytes 4 (ofSigned 32 v)

/-- SENSOR_READ: up to 32 sensors over the sideband; without IDs the result is empty. -/
def execSensorRead (payload : List Byte) (s : State) : R :=
  if s.dead then .next s
  else if payload.isEmpty then .next (s.answerSide [])
  else if 32 < payload.length then .next (s.answerSide (leBytes 1 Config.stBadLength))
  else .next (s.tick.answerSide (leBytes 1 Config.stOk ++ (payload.zipIdx.map (fun e => s.sensorBytes e.2 e.1.toNat)).flatten))

/-! ## Capping and field throttling (R499, R508) -/

/-- Whether the power of the samples, newest first, is above a cap: over 1 ms (100 samples) 3,400 W, over 100 ms POWER_CAP_W. -/
def overCap (cap : Nat) (w : List Nat) : Bool :=
  decide (340000 < (w.take 100).foldl (· + ·) 0) || decide (cap * 10000 < w.foldl (· + ·) 0)

/-- POWER_CAP_MEASURE: every 10 µs a sample of input power; slots are removed while an average is above its cap, and each millisecond in
which they were is counted. -/
def execPowerCapMeasure (watts : Nat) (s : State) : R :=
  if s.power.off then .next s else
  let c := s.cool
  let w := (watts :: c.capSamples).take 10000
  let on := overCap c.cap w
  let fresh := on && !c.capIn && c.capIdle == 100
  let used := c.capIn || on
  let last := c.capTick == 99
  let c1 : CoolState := { c with
    capSamples := w
    capping := on
    capTick := (c.capTick + 1) % 100
    capIn := used && !last
    capMs := if last && used then satAdd 0xFFFFFFFF c.capMs 1 else c.capMs
    capIdle := if !last then c.capIdle else if used then 0 else min 100 (c.capIdle + 1) }
  let t : State := { s with cool := c1 }
  .next (if fresh then t.note 17 [] else t)

/-- Throttle step that a field's temperature, in tenths of a degree, asks for. -/
def fieldStep (t : Int) : Nat := if t < 950 then 0 else if t < 1000 then 1 else if t < 1050 then 2 else 3
/-- Lower bound of a step in tenths of a degree. -/
def stepBound (k : Nat) : Int := 900 + 50 * k
/-- Step and count of evaluations below its bound after an evaluation: a step falls by one after 10 of them. -/
def fieldEval (t : Int) (step below : Nat) : Nat × Nat :=
  if step < fieldStep t then (fieldStep t, 0)
  else if step = 0 || stepBound step ≤ t then (step, 0)
  else if below < 9 then (step, below + 1) else (step - 1, 0)

/-- FIELD_THERMAL_EVALUATION: each millisecond, from the field's hottest junction. -/
def execFieldThermalEvaluation (field : Nat) (temp : Int) (s : State) : R :=
  if 4 ≤ field then .fault .noSuchUnit
  else if s.power.off || 2 ≤ s.power.state then .next s
  else
    let c := s.cool
    let q := fieldEval temp (c.fieldSteps.getD field 0) (c.fieldBelow.getD field 0)
    let c1 : CoolState := { c with
      fieldTemp := c.fieldTemp.set field temp
      fieldSteps := c.fieldSteps.set field q.1
      fieldBelow := c.fieldBelow.set field q.2 }
    .next (State.alert { s with cool := c1 })

/-! ## Power-on and shutdown (R500 to R502, R506) -/

/-- What an unpowered module keeps: fuses, flash and the ageing history; its pins; everything else is lost. -/
def State.unpowered (s : State) : State :=
  let k := s.freeCtr
  { pending := s.pending
    freeCtr := k + 30000
    out := s.out
    hbm := { lost := [(0, flat 64 0, k)] }
    coresLost := some k
    tablesLost := some (k + 10000)
    ports := (List.range 16).foldl (fun m p => Cells.put (fun _ => {}) m p { cblHigh := (s.port p).cblHigh }) []
    fw := { s.fw with
      debugScope := 0, debugSinceCold := false, debugExpires := 0, challenge := none, svcRestarts := 0, svcRestart := false
      svcDown := false }
    power := {
      marginLow := s.power.marginLow
      marginExhausted := s.power.marginExhausted
      fieldMhz := s.power.fieldMhz
      volts := s.power.volts
      endOfLife := s.power.endOfLife
      barred := s.power.endOfLife
      pwrGood := false
      refStable := false
      off := true }
    cool := { lastShutdown := s.cool.lastShutdown } }

/-- The cold reset is released once PWR_GOOD and a stable reference are both there (R500, step 5). -/
def State.release (s : State) : State :=
  if s.power.off && s.power.pwrGood && s.power.refStable then State.boot { s with power := { s.power with off := false } } else s

/-- POWER_ON: PWR_EN is high with valid input, and PWR_GOOD rises. -/
def execPowerOn (s : State) : R :=
  if !s.power.off then .next s else .next (State.release { s with power := { s.power with pwrGood := true } })

/-- REFERENCE_CLOCK_STABLE: SYSREF has been stable for 1 ms. -/
def execReferenceClockStable (s : State) : R := .next (State.release { s with power := { s.power with refStable := true } })

/-- Whether a cause of Table 23.4 can start a shutdown: a leak only with LEAK_SHUTDOWN and once it has lasted 1 s (R509). -/
def State.mayShutDown (s : State) (cause : Nat) : Bool :=
  !s.power.off && 1 ≤ cause && (cause ≤ 3 || (cause == 4 && s.cool.leakShutdown && s.cool.leak
    && (match s.cool.leakSince with | some t => decide (t + 1000000000 ≤ s.dtb) | none => false)))

/-- SHUTDOWN_CAUSE: the orderly shutdown of R502: the cause is journalled and recorded, and the module turns off. -/
def execShutdownCause (cause : Nat) (s : State) : R :=
  if !s.mayShutDown cause then .next s else
  let s1 := s.jEvent Config.stOk 0 none (leBytes 1 cause)
  .next (State.unpowered { s1 with cool := { s1.cool with lastShutdown := cause } })

/-! ## CBL_PRESENT_CHANGE (R504) -/

/-- CBL_PRESENT_CHANGE: high holds the port down; low lets it train. -/
def execCblPresentChange (port : Nat) (high : Bool) (s : State) : R :=
  if 16 ≤ port then .fault .noSuchUnit else
  if (s.port port).cblHigh = high then .next s
  else if s.dead || s.power.state = 3 then .next (s.updPort port (fun x => { x with cblHigh := high }))
  else
    let t := if high && (s.port port).up then s.losePeer port else s
    .next (t.updPort port (fun x => { x with cblHigh := high, state := if x.disable then 7 else if high then 0 else 1 }))

end Sys2Proof.Machine
end

