-- ==== Sys2Proof/Machine/Dispatch.lean ====
section
/-!
DEFINITION. Sys2Proof/Machine/Dispatch.lean: one arm per command; each calls its meaning.
-/

namespace Sys2Proof.Machine

def exec (i : Instr) (s : State) : Host.Outcome State Fault Refusal :=
  match i with
  | .mmaZero c => Sys2Proof.Machine.execMmaZero c s
  | .mmaInitC c => Sys2Proof.Machine.execMmaInitC c s
  | .mmaContinue c => Sys2Proof.Machine.execMmaContinue c s
  | .mmaDiagZero c => Sys2Proof.Machine.execMmaDiagZero c s
  | .mmaDiagContinue c => Sys2Proof.Machine.execMmaDiagContinue c s
  | .tileFinish c t => Sys2Proof.Machine.execTileFinish c t s
  | .finishedTilePush c t => Sys2Proof.Machine.execFinishedTilePush c t s
  | .multicastDelivery c row0 col0 rows cols srcBase dstBase len => Sys2Proof.Machine.execMulticastDelivery c row0 col0 rows cols srcBase dstBase len s
  | .heldWriteRelease c => Sys2Proof.Machine.execHeldWriteRelease c s
  | .witnessReference c => Sys2Proof.Machine.execWitnessReference c s
  | .chain c => Sys2Proof.Machine.execChain c s
  | .chainEf c => Sys2Proof.Machine.execChainEf c s
  | .chainFtq c => Sys2Proof.Machine.execChainFtq c s
  | .moveIn c => Sys2Proof.Machine.execMoveIn c s
  | .moveOut c => Sys2Proof.Machine.execMoveOut c s
  | .moveWindow c => Sys2Proof.Machine.execMoveWindow c s
  | .moveMesh c => Sys2Proof.Machine.execMoveMesh c s
  | .moveSleet c => Sys2Proof.Machine.execMoveSleet c s
  | .moveFirn c => Sys2Proof.Machine.execMoveFirn c s
  | .kvPageWrite p addr data => Sys2Proof.Machine.execKvPageWrite p addr data s
  | .beatWait c => Sys2Proof.Machine.execBeatWait c s
  | .signalWait c => Sys2Proof.Machine.execSignalWait c s
  | .flagSet c => Sys2Proof.Machine.execFlagSet c s
  | .flagClear c => Sys2Proof.Machine.execFlagClear c s
  | .freezePoint c => Sys2Proof.Machine.execFreezePoint c s
  | .claim c => Sys2Proof.Machine.execClaim c s
  | .claimRequest p counter => Sys2Proof.Machine.execClaimRequest p counter s
  | .claimDone c => Sys2Proof.Machine.execClaimDone c s
  | .claimDoneAccept p counter => Sys2Proof.Machine.execClaimDoneAccept p counter s
  | .claimLeaseExpiry p counter idx => Sys2Proof.Machine.execClaimLeaseExpiry p counter idx s
  | .selectPoint c => Sys2Proof.Machine.execSelectPoint c s
  | .bucketSelection p => Sys2Proof.Machine.execBucketSelection p s
  | .allReduce c => Sys2Proof.Machine.execAllReduce c s
  | .reduceScatter c => Sys2Proof.Machine.execReduceScatter c s
  | .allGather c => Sys2Proof.Machine.execAllGather c s
  | .p2pSend c => Sys2Proof.Machine.execP2pSend c s
  | .p2pRecv c => Sys2Proof.Machine.execP2pRecv c s
  | .setPass c => Sys2Proof.Machine.execSetPass c s
  | .loop c => Sys2Proof.Machine.execLoop c s
  | .variant c => Sys2Proof.Machine.execVariant c s
  | .nop c => Sys2Proof.Machine.execNop c s
  | .halt c => Sys2Proof.Machine.execHalt c s
  | .messageArrival n => Sys2Proof.Machine.execMessageArrival n s
  | .beatStall c => Sys2Proof.Machine.execBeatStall c s
  | .beatCommit p => Sys2Proof.Machine.execBeatCommit p s
  | .runOutputCopy p ok => Sys2Proof.Machine.execRunOutputCopy p ok s
  | .widenAllocate p pass req => Sys2Proof.Machine.execWidenAllocate p pass req s
  | .cacheAccess p cls a req ev => Sys2Proof.Machine.execCacheAccess p cls a req ev s
  | .reducerOp p op wide a b addr => Sys2Proof.Machine.execReducerOp p op wide a b addr s
  | .glacierAdd shelf entry elem x beat => Sys2Proof.Machine.execGlacierAdd shelf entry elem x beat s
  | .orderedSumContrib shelf entry elem ordinal x beat => Sys2Proof.Machine.execOrderedSumContrib shelf entry elem ordinal x beat s
  | .shelfThermalEvaluation shelf temps => Sys2Proof.Machine.execShelfThermalEvaluation shelf temps s
  | .linkTrained port peer => Sys2Proof.Machine.execLinkTrained port peer s
  | .flitTransmit port => Sys2Proof.Machine.execFlitTransmit port s
  | .flitReceive port flit corrected fecOk => Sys2Proof.Machine.execFlitReceive port flit corrected fecOk s
  | .nakReplay port ack => Sys2Proof.Machine.execNakReplay port ack s
  | .replayTimeout port => Sys2Proof.Machine.execReplayTimeout port s
  | .laneRelock port => Sys2Proof.Machine.execLaneRelock port s
  | .heartbeatSend port => Sys2Proof.Machine.execHeartbeatSend port s
  | .heartbeatReceive port hb => Sys2Proof.Machine.execHeartbeatReceive port hb s
  | .peerLost port => Sys2Proof.Machine.execPeerLost port s
  | .portRetrain port peer => Sys2Proof.Machine.execPortRetrain port peer s
  | .beatAckDeadline port vc => Sys2Proof.Machine.execBeatAckDeadline port vc s
  | .departureNotice port => Sys2Proof.Machine.execDepartureNotice port s
  | .dtbParentTimeout => Sys2Proof.Machine.execDtbParentTimeout s
  | .dtbBroadcast => Sys2Proof.Machine.execDtbBroadcast s
  | .ppsEdge => Sys2Proof.Machine.execPpsEdge s
  | .instanceStart p group => Sys2Proof.Machine.execInstanceStart p group s
  | .collectiveMessage port vc h beat payload => Sys2Proof.Machine.execCollectiveMessage port vc h beat payload s
  | .resultDelivery p group n => Sys2Proof.Machine.execResultDelivery p group n s
  | .orderSkewTimeout ch => Sys2Proof.Machine.execOrderSkewTimeout ch s
  | .hostChunkRead p port chunk data crc => Sys2Proof.Machine.execHostChunkRead p port chunk data crc s
  | .loadDataMessage p h data => Sys2Proof.Machine.execLoadDataMessage p h data s
  | .loadAbortMessage p loadId => Sys2Proof.Machine.execLoadAbortMessage p loadId s
  | .loadEndMessage p loadId => Sys2Proof.Machine.execLoadEndMessage p loadId s
  | .loadCompanionTimeout p => Sys2Proof.Machine.execLoadCompanionTimeout p s
  | .loadHoldTimeout p => Sys2Proof.Machine.execLoadHoldTimeout p s
  | .cyclicWindowBoundary => Sys2Proof.Machine.execCyclicWindowBoundary s
  | .partitionFreeze p => Sys2Proof.Machine.execPartitionFreeze p s
  | .codecPicture pair session cause key nonref frame consumed => Sys2Proof.Machine.execCodecPicture pair session cause key nonref frame consumed s
  | .codecBlockBudget pair damaged => Sys2Proof.Machine.execCodecBlockBudget pair damaged s
  | .codecWatchdog pair damaged => Sys2Proof.Machine.execCodecWatchdog pair damaged s
  | .encodeRingWrite pair => Sys2Proof.Machine.execEncodeRingWrite pair s
  | .pictureOutput pair => Sys2Proof.Machine.execPictureOutput pair s
  | .codecResume pair session => Sys2Proof.Machine.execCodecResume pair session s
  | .codecPairFault pair => Sys2Proof.Machine.execCodecPairFault pair s
  | .mailboxPost f n w0 w1 w2 w3 payload => Sys2Proof.Machine.execMailboxPost f n w0 w1 w2 w3 payload s
  | .mailboxScan => Sys2Proof.Machine.execMailboxScan s
  | .msixUnmask f v => Sys2Proof.Machine.execMsixUnmask f v s
  | .registerWrite f bar off value => Sys2Proof.Machine.execRegisterWrite f bar off value s
  | .registerReadClear f bar off => Sys2Proof.Machine.execRegisterReadClear f bar off s
  | .nopCommand f n => Sys2Proof.Machine.execNopCommand f n s
  | .permitSet f n => Sys2Proof.Machine.execPermitSet f n s
  | .commit f n => Sys2Proof.Machine.execCommit f n s
  | .setTime f n => Sys2Proof.Machine.execSetTime f n s
  | .deviceReset f n => Sys2Proof.Machine.execDeviceReset f n s
  | .powerState f n => Sys2Proof.Machine.execPowerState f n s
  | .regrade f n => Sys2Proof.Machine.execRegrade f n s
  | .regradeTimer => Sys2Proof.Machine.execRegradeTimer s
  | .partCreate f n => Sys2Proof.Machine.execPartCreate f n s
  | .partChange f n => Sys2Proof.Machine.execPartChange f n s
  | .partDestroy f n => Sys2Proof.Machine.execPartDestroy f n s
  | .admitImage f n image => Sys2Proof.Machine.execAdmit f n image s
  | .bind f n => Sys2Proof.Machine.execBind f n s
  | .run f n inputs => Sys2Proof.Machine.execRun f n inputs s
  | .retire f n => Sys2Proof.Machine.execRetire f n s
  | .jobStatus f n => Sys2Proof.Machine.execJobStatus f n s
  | .memCopyToDevice f n data => Sys2Proof.Machine.execMemCopyToDevice f n data s
  | .memCopyToHost f n ok => Sys2Proof.Machine.execMemCopyToHost f n ok s
  | .tableReload f n data => Sys2Proof.Machine.execTableReload f n data s
  | .thaw f n => Sys2Proof.Machine.execThaw f n s
  | .partReset f n => Sys2Proof.Machine.execPartReset f n s
  | .weightLoad f n => Sys2Proof.Machine.execWeightLoad f n s
  | .weightSwitch f n list => Sys2Proof.Machine.execWeightSwitch f n list s
  | .weightSwitchCancel f n => Sys2Proof.Machine.execWeightSwitchCancel f n s
  | .slotOpen f n => Sys2Proof.Machine.execSlotOpen f n s
  | .slotFork f n => Sys2Proof.Machine.execSlotFork f n s
  | .slotClose f n => Sys2Proof.Machine.execSlotClose f n s
  | .prefixPin f n => Sys2Proof.Machine.execPrefixPin f n s
  | .prefixRelease f n => Sys2Proof.Machine.execPrefixRelease f n s
  | .slotQuery f n => Sys2Proof.Machine.execSlotQuery f n s
  | .codecOpen f n => Sys2Proof.Machine.execCodecOpen f n s
  | .codecSubmit f n => Sys2Proof.Machine.execCodecSubmit f n s
  | .codecClose f n => Sys2Proof.Machine.execCodecClose f n s
  | .codecRelease f n => Sys2Proof.Machine.execCodecRelease f n s
  | .journalRead f n => Sys2Proof.Machine.execJournalRead f n s
  | .attest f n => Sys2Proof.Machine.execAttest f n s
  | .fwWrite f n first second => Sys2Proof.Machine.execFwWrite f n first second s
  | .fwActivate f n => Sys2Proof.Machine.execFwActivate f n s
  | .fwAdvanceSvn f n => Sys2Proof.Machine.execFwAdvanceSvn f n s
  | .fwRevokeKey f n => Sys2Proof.Machine.execFwRevokeKey f n s
  | .debugChallenge f n => Sys2Proof.Machine.execDebugChallenge f n s
  | .debugToken f n => Sys2Proof.Machine.execDebugToken f n s
  | .debugExpiry => Sys2Proof.Machine.execDebugExpiry s
  | .stop f n => Sys2Proof.Machine.execStop f n s
  | .freeze f n => Sys2Proof.Machine.execFreeze f n s
  | .faultQuery f n => Sys2Proof.Machine.execFaultQuery f n s
  | .leaseBreak f n => Sys2Proof.Machine.execLeaseBreak f n s
  | .mctpJournalRead payload => Sys2Proof.Machine.execMctpJournalRead payload s
  | .mctpAttest payload => Sys2Proof.Machine.execMctpAttest payload s
  | .sensorRead payload => Sys2Proof.Machine.execSensorRead payload s
  | .powerStateQuery => Sys2Proof.Machine.execPowerStateQuery s
  | .permafrostExit => Sys2Proof.Machine.execPermafrostExit s
  | .permafrostEntry => Sys2Proof.Machine.execPermafrostEntry s
  | .pmcRead f bar off => Sys2Proof.Machine.execPmcRead f bar off s
  | .pmcWrite f bar off value => Sys2Proof.Machine.execPmcWrite f bar off value s
  | .containedFault p announced => Sys2Proof.Machine.execContainedFault p announced s
  | .rollback p fp => Sys2Proof.Machine.execRollback p fp s
  | .serviceFwRestart => Sys2Proof.Machine.execServiceFwRestart s
  | .deviceFatalFault cause => Sys2Proof.Machine.execDeviceFatalFault cause s
  | .fieldPllLockLoss field => Sys2Proof.Machine.execFieldPllLockLoss field s
  | .hostLeaseExpiry f => Sys2Proof.Machine.execHostLeaseExpiry f s
  | .lockWordTimeout p n => Sys2Proof.Machine.execLockWordTimeout p n s
  | .checkpointDue p answers => Sys2Proof.Machine.execCheckpointDue p answers s
  | .buddyDrain p => Sys2Proof.Machine.execBuddyDrain p s
  | .journalSeal => Sys2Proof.Machine.execJournalSeal s
  | .coreReset c => Sys2Proof.Machine.execCoreReset c s
  | .functionReset f => Sys2Proof.Machine.execFunctionReset f s
  | .perstBoth => Sys2Proof.Machine.execPerstBoth s
  | .pcieLinkDown port => Sys2Proof.Machine.execPcieLinkDown port s
  | .powerOn => Sys2Proof.Machine.execPowerOn s
  | .shutdownCause cause => Sys2Proof.Machine.execShutdownCause cause s
  | .leakDetect => Sys2Proof.Machine.execLeakDetect s
  | .leakClear => Sys2Proof.Machine.execLeakClear s
  | .powerCapMeasure watts => Sys2Proof.Machine.execPowerCapMeasure watts s
  | .fieldThermalEvaluation field temp => Sys2Proof.Machine.execFieldThermalEvaluation field temp s
  | .pcieLinkUp port => Sys2Proof.Machine.execPcieLinkUp port s
  | .perstRelease => Sys2Proof.Machine.execPerstRelease s
  | .cblPresentChange port high => Sys2Proof.Machine.execCblPresentChange port high s
  | .referenceClockStable => Sys2Proof.Machine.execReferenceClockStable s
  | .sensorUpdate r => Sys2Proof.Machine.execSensorUpdate r s

end Sys2Proof.Machine
end

