-- ==== Sys2Proof/Machine/Step.lean ====
section
/-!
DEFINITION. Sys2Proof/Machine/Step.lean: one step takes the command at the front of the queue; an empty queue passes one
edge of the 100 MHz reference clock (log entry 1).
-/

namespace Sys2Proof.Machine

/-- The queue without its front command. -/
def State.rest (s : State) : State := { s with pending := s.pending.drop 1 }

/-- One step. -/
def step (s : State) : Host.Outcome State Fault Refusal :=
  match s.pending with
  | [] => .next s.edge
  | c :: _ => exec c s.rest

/-- Puts the command a word spells at the front of the queue; the table gives no row any bits, so no word spells one. -/
def State.withFetchWord (s : State) (nbits w : Nat) : State :=
  match Sys2Proof.decodeTableWord nbits w with
  | some i => { s with pending := i :: s.pending }
  | none => s

end Sys2Proof.Machine
end

