-- ==== Sys2Proof/WellFormed.lean ====
section
/-!
DEFINITION. Sys2Proof/WellFormed.lean: the checks on a command: the units it names exist on the device (R1, R12, R17, R109, R274, R377,
R404, R411), and its values have the widths of their registers and areas (R278, R411, Table 18.3).
-/

namespace Sys2Proof

def coreOk (c : Nat) : Bool := decide (c < 10000)
def partOk (p : Nat) : Bool := decide (p < 16)
def shelfOk (k : Nat) : Bool := decide (k < 8)
def portOk (p : Nat) : Bool := decide (p < 16)
def pcieOk (p : Nat) : Bool := decide (p < 2)
def chanOk (v : Nat) : Bool := decide (v < 8)
def pairOk (k : Nat) : Bool := decide (k < 12)
def sessionOk (k : Nat) : Bool := decide (k < 16)
def fieldOk (k : Nat) : Bool := decide (k < 4)
def groupOk (g : Nat) : Bool := decide (g < 256)
def counterOk (n : Nat) : Bool := decide (n < 1024)
def entryOk (n : Nat) : Bool := decide (n < 256)
/-- Port A or B, and the physical function or one of 16 virtual ones. -/
def Fn.ok (f : Fn) : Bool := decide (f.port < 2) && decide (f.idx ≤ 16)
/-- A mailbox slot of a function. -/
def slotOk (f : Fn) (n : Nat) : Bool := f.ok && decide (n < 32)
/-- A byte of HBM (R17). -/
def PhysAddr.ok (a : PhysAddr) : Bool := decide (a.group < 64) && decide (a.off < 0x300000000)
/-- A rectangle of at most 64 cores inside one field (R82). -/
def rectOk (row0 col0 rows cols : Nat) : Bool :=
  decide (row0 + rows ≤ 50) && decide (col0 + cols ≤ 50) && decide (rows * cols ≤ 64)

/-- Whether every unit a command names exists. -/
def Instr.unitsOk : Instr → Bool
  | .mmaZero c => coreOk c
  | .mmaInitC c => coreOk c
  | .mmaContinue c => coreOk c
  | .mmaDiagZero c => coreOk c
  | .mmaDiagContinue c => coreOk c
  | .tileFinish c t => coreOk c && decide (t < 2)
  | .finishedTilePush c t => coreOk c && decide (t < 2)
  | .multicastDelivery c row0 col0 rows cols _ _ _ => coreOk c && rectOk row0 col0 rows cols
  | .heldWriteRelease c => coreOk c
  | .witnessReference c => coreOk c
  | .chain c => coreOk c
  | .chainEf c => coreOk c
  | .chainFtq c => coreOk c
  | .moveIn c => coreOk c
  | .moveOut c => coreOk c
  | .moveWindow c => coreOk c
  | .moveMesh c => coreOk c
  | .moveSleet c => coreOk c
  | .moveFirn c => coreOk c
  | .kvPageWrite p _ _ => partOk p
  | .beatWait c => coreOk c
  | .signalWait c => coreOk c
  | .flagSet c => coreOk c
  | .flagClear c => coreOk c
  | .freezePoint c => coreOk c
  | .claim c => coreOk c
  | .claimRequest p counter => partOk p && counterOk counter
  | .claimDone c => coreOk c
  | .claimDoneAccept p counter => partOk p && counterOk counter
  | .claimLeaseExpiry p counter _ => partOk p && counterOk counter
  | .selectPoint c => coreOk c
  | .bucketSelection p => partOk p
  | .allReduce c => coreOk c
  | .reduceScatter c => coreOk c
  | .allGather c => coreOk c
  | .p2pSend c => coreOk c
  | .p2pRecv c => coreOk c
  | .setPass c => coreOk c
  | .loop c => coreOk c
  | .variant c => coreOk c
  | .nop c => coreOk c
  | .halt c => coreOk c
  | .messageArrival _ => true
  | .beatStall c => coreOk c
  | .beatCommit p => partOk p
  | .runOutputCopy p _ => partOk p
  | .widenAllocate p _ _ => partOk p
  | .cacheAccess p cls a _ _ => partOk p && decide (cls < 4) && a.ok
  | .reducerOp p _ _ _ _ _ => partOk p
  | .glacierAdd shelf entry _ _ _ => shelfOk shelf && entryOk entry
  | .orderedSumContrib shelf entry _ _ _ _ => shelfOk shelf && entryOk entry
  | .shelfThermalEvaluation shelf _ => shelfOk shelf
  | .linkTrained port _ => portOk port
  | .flitTransmit port => portOk port
  | .flitReceive port _ _ _ => portOk port
  | .nakReplay port _ => portOk port
  | .replayTimeout port => portOk port
  | .laneRelock port => portOk port
  | .heartbeatSend port => portOk port
  | .heartbeatReceive port _ => portOk port
  | .peerLost port => portOk port
  | .portRetrain port _ => portOk port
  | .beatAckDeadline port vc => portOk port && decide (vc < 11)
  | .departureNotice port => portOk port
  | .dtbParentTimeout => true
  | .dtbBroadcast => true
  | .ppsEdge => true
  | .instanceStart p group => partOk p && groupOk group
  | .collectiveMessage port vc _ _ _ => portOk port && chanOk vc
  | .resultDelivery p group _ => partOk p && groupOk group
  | .orderSkewTimeout ch => chanOk ch
  | .hostChunkRead p port _ _ _ => partOk p && pcieOk port
  | .loadDataMessage p _ _ => partOk p
  | .loadAbortMessage p _ => partOk p
  | .loadEndMessage p _ => partOk p
  | .loadCompanionTimeout p => partOk p
  | .loadHoldTimeout p => partOk p
  | .cyclicWindowBoundary => true
  | .partitionFreeze p => partOk p
  | .codecPicture pair session _ _ _ _ _ => pairOk pair && sessionOk session
  | .codecBlockBudget pair _ => pairOk pair
  | .codecWatchdog pair _ => pairOk pair
  | .encodeRingWrite pair => pairOk pair
  | .pictureOutput pair => pairOk pair
  | .codecResume pair session => pairOk pair && sessionOk session
  | .codecPairFault pair => pairOk pair
  | .mailboxPost f n _ _ _ _ _ => slotOk f n
  | .mailboxScan => true
  | .msixUnmask f v => f.ok && decide (v < 64)
  | .registerWrite f _ _ _ => f.ok
  | .registerReadClear f _ _ => f.ok
  | .nopCommand f n => slotOk f n
  | .permitSet f n => slotOk f n
  | .commit f n => slotOk f n
  | .setTime f n => slotOk f n
  | .deviceReset f n => slotOk f n
  | .powerState f n => slotOk f n
  | .regrade f n => slotOk f n
  | .regradeTimer => true
  | .partCreate f n => slotOk f n
  | .partChange f n => slotOk f n
  | .partDestroy f n => slotOk f n
  | .admitImage f n _ => slotOk f n
  | .bind f n => slotOk f n
  | .run f n _ => slotOk f n
  | .retire f n => slotOk f n
  | .jobStatus f n => slotOk f n
  | .memCopyToDevice f n _ => slotOk f n
  | .memCopyToHost f n _ => slotOk f n
  | .tableReload f n _ => slotOk f n
  | .thaw f n => slotOk f n
  | .partReset f n => slotOk f n
  | .weightLoad f n => slotOk f n
  | .weightSwitch f n _ => slotOk f n
  | .weightSwitchCancel f n => slotOk f n
  | .slotOpen f n => slotOk f n
  | .slotFork f n => slotOk f n
  | .slotClose f n => slotOk f n
  | .prefixPin f n => slotOk f n
  | .prefixRelease f n => slotOk f n
  | .slotQuery f n => slotOk f n
  | .codecOpen f n => slotOk f n
  | .codecSubmit f n => slotOk f n
  | .codecClose f n => slotOk f n
  | .codecRelease f n => slotOk f n
  | .journalRead f n => slotOk f n
  | .attest f n => slotOk f n
  | .fwWrite f n _ _ => slotOk f n
  | .fwActivate f n => slotOk f n
  | .fwAdvanceSvn f n => slotOk f n
  | .fwRevokeKey f n => slotOk f n
  | .debugChallenge f n => slotOk f n
  | .debugToken f n => slotOk f n
  | .debugExpiry => true
  | .stop f n => slotOk f n
  | .freeze f n => slotOk f n
  | .faultQuery f n => slotOk f n
  | .leaseBreak f n => slotOk f n
  | .mctpJournalRead _ => true
  | .mctpAttest _ => true
  | .sensorRead _ => true
  | .powerStateQuery => true
  | .permafrostExit => true
  | .permafrostEntry => true
  | .pmcRead f _ _ => f.ok
  | .pmcWrite f _ _ _ => f.ok
  | .containedFault p _ => partOk p
  | .rollback p _ => partOk p
  | .serviceFwRestart => true
  | .deviceFatalFault _ => true
  | .fieldPllLockLoss field => fieldOk field
  | .hostLeaseExpiry f => f.ok
  | .lockWordTimeout p _ => partOk p
  | .checkpointDue p _ => partOk p
  | .buddyDrain p => partOk p
  | .journalSeal => true
  | .coreReset c => coreOk c
  | .functionReset f => f.ok
  | .perstBoth => true
  | .pcieLinkDown port => pcieOk port
  | .powerOn => true
  | .shutdownCause _ => true
  | .leakDetect => true
  | .leakClear => true
  | .powerCapMeasure _ => true
  | .fieldThermalEvaluation field _ => fieldOk field
  | .pcieLinkUp port => pcieOk port
  | .perstRelease => true
  | .cblPresentChange port _ => portOk port
  | .referenceClockStable => true
  | .sensorUpdate _ => true

/-- Whether a command's values have the widths that their places have. -/
def Instr.widthsOk : Instr → Bool
  | .mailboxPost _ _ w0 w1 w2 w3 payload =>
    decide (w0 < 2 ^ 32) && decide (w1 < 2 ^ 32) && decide (w2 < 2 ^ 32) && decide (w3 < 2 ^ 32) && decide (payload.length ≤ 4032)
  | .registerWrite _ _ _ value => decide (value < 2 ^ 64)
  | .pmcWrite _ _ _ value => decide (value < 2 ^ 64)
  | .flitReceive _ flit _ _ => flit.length == 256
  | .loadDataMessage _ _ data => decide (data.length ≤ 65536)
  | .cacheAccess _ _ a req _ =>
    (match req with | .read n => decide (a.off % 128 + n ≤ 128) | .write d => decide (a.off % 128 + d.length ≤ 128))
  | .shelfThermalEvaluation _ temps => temps.length == 8
  | .sensorUpdate r => r.fields.length == 4 && r.stackTemps.length == 8
  | _ => true

/-- A well-formed command. -/
def Instr.wf (i : Instr) : Bool := i.unitsOk && i.widthsOk

end Sys2Proof
end

