-- ==== Sys2Proof/Safety.lean ====
section
/-!
DEFINITION. Sys2Proof/Safety.lean: the words of the statements: when a command has its turn, what completing one leaves, and what
a step may never change.
-/

namespace Sys2Proof.Machine

/-! ## A core row has its turn -/

/-- Core `c` exists and its next instruction, met in context `x`, is a word of row `r` (R114, R208). -/
structure State.Issues (s : State) (c : Nat) (r : Row) (x : Ctx) : Prop where
  core : c < Config.cores
  ctx : s.ctx c = some x
  row : rowOf x.w = some r

/-- Bytes an instruction reads and writes let it go on: no witness holds what it writes, no word it reads has a double error (R91, R229). -/
structure Core.Accesses (k : Core) (reads writes : List (Bool × Nat × Nat)) : Prop where
  free : writes.any (fun w => k.witRange w.1 w.2.1 w.2.2) = false
  sound : k.badWord reads = none
/-- Else it waits for the witness, or stops with the word's place recorded (R91, R227, R229). -/
def State.AccessStops (s : State) (i : Instr) (c : Nat) (x : Ctx) (reads writes : List (Bool × Nat × Nat)) : Prop :=
  (writes.any (fun w => (s.core c).witRange w.1 w.2.1 w.2.2) = true → exec i s = .next (s.setCore c (s.core c).waitWitness)) ∧
  (writes.any (fun w => (s.core c).witRange w.1 w.2.1 w.2.2) = false → ∀ u, (s.core c).badWord reads = some u →
    exec i s = .next ((s.setCore c ((s.core c).uncorrected u)).coreFault x.p c 0 Config.stMemUncorrectable x.w))
/-- Core `t` is core `k` at its next instruction, but for the bytes and vector registers of `t`, its flags and what its accesses and its
performance counters note. -/
def Core.GoesOn (k t : Core) : Prop :=
  t = { k with ts := t.ts, ob := t.ob, ve := t.ve, seq := k.seq.next, tally := t.tally, eccCorr := t.eccCorr, upsets := t.upsets,
               mu := { k.mu with witHold := t.mu.witHold } }

/-- Nothing but core `c` differs. -/
def State.OnlyCore (s t : State) (c : Nat) : Prop :=
  t = { s with cores := t.cores } ∧ ∀ d, d ≠ c → t.core d = s.core d

/-- The row of the core microprogram that a command issues, and its core (Table 5.8). -/
def coreRow : Instr → Option (Row × Nat)
  | .mmaZero c => some (⟨1, 0, 0⟩, c) | .mmaInitC c => some (⟨1, 1, 0⟩, c) | .mmaContinue c => some (⟨1, 2, 0⟩, c)
  | .mmaDiagZero c => some (⟨1, 3, 0⟩, c) | .mmaDiagContinue c => some (⟨1, 4, 0⟩, c)
  | .chain c => some (⟨2, 0, 0⟩, c) | .chainEf c => some (⟨2, 1, 0⟩, c) | .chainFtq c => some (⟨2, 2, 0⟩, c)
  | .moveIn c => some (⟨3, 0, 0⟩, c) | .moveOut c => some (⟨3, 1, 0⟩, c) | .moveWindow c => some (⟨3, 2, 0⟩, c)
  | .moveMesh c => some (⟨3, 3, 0⟩, c) | .moveSleet c => some (⟨3, 4, 0⟩, c) | .moveFirn c => some (⟨3, 5, 0⟩, c)
  | .beatWait c => some (⟨4, 0, 0⟩, c) | .signalWait c => some (⟨4, 1, 0⟩, c) | .flagSet c => some (⟨4, 2, 0⟩, c)
  | .flagClear c => some (⟨4, 2, 1⟩, c) | .freezePoint c => some (⟨4, 3, 0⟩, c) | .claim c => some (⟨4, 4, 0⟩, c)
  | .claimDone c => some (⟨4, 5, 0⟩, c) | .selectPoint c => some (⟨4, 6, 0⟩, c)
  | .allReduce c => some (⟨5, 0, 0⟩, c) | .reduceScatter c => some (⟨5, 1, 0⟩, c) | .allGather c => some (⟨5, 2, 0⟩, c)
  | .p2pSend c => some (⟨5, 3, 0⟩, c) | .p2pRecv c => some (⟨5, 4, 0⟩, c)
  | .setPass c => some (⟨6, 0, 0⟩, c) | .loop c => some (⟨6, 1, 0⟩, c) | .variant c => some (⟨6, 2, 0⟩, c)
  | .nop c => some (⟨6, 3, 0⟩, c) | .halt c => some (⟨6, 4, 0⟩, c)
  | _ => none

/-- The command of a matrix row, and of a vector row. -/
def MmaOp.instr (c : Nat) : MmaOp → Instr
  | .zero => .mmaZero c | .initC => .mmaInitC c | .cont => .mmaContinue c | .diagZero => .mmaDiagZero c | .diagCont => .mmaDiagContinue c

/-! ## A mailbox command has its turn -/

/-- Slot `n` of function `f` holds `q`, a taken command that `is` accepts, its turn has come and no check of its header, of the power state
or of a STOP refuses it (R414, R417, R451, R476). -/
structure State.Carries (s : State) (f : Fn) (n : Nat) (is : Slot → Bool) (q : Slot) : Prop where
  fn : fnOk f = true
  slot : n < 32
  turn : s.turn f n is = some q
  header : s.headerCheck f n q = none
  power : s.powerRefuses q = false
  stop : s.stopRefuses q = false

/-- The state in which a command's own effect starts: its slot is marked as begun. -/
def State.begun (s : State) (f : Fn) (n : Nat) (q : Slot) : State := s.setSlot f n { q with begun := true }

/-- A slot that holds a command of a code; of FW_UPDATE, DEBUG_UNLOCK, MEM_COPY and WEIGHT_SWITCH, of one of their rows. -/
def isCmd (code : Nat) : Slot → Bool := fun q => q.cmd == code
def isFwOp (op : Nat) : Slot → Bool := fun q => q.cmd == 0x0680 && (if Up.op q.payload ≤ 3 then Up.op q.payload == op else op == 0)
def isUnlock (op : Nat) : Slot → Bool := fun q => q.cmd == 0x0681 && (if fld q.payload 0 1 = 1 then op == 1 else op == 0)
def isCopy (dir : Nat) : Slot → Bool := fun q => q.cmd == 0x0205 && fbits (q.payload.take q.len) 24 0 0 == dir
def isSwitch : Slot → Bool := fun q => q.cmd == 0x0301 && !swCancel q.payload
def isSwitchCancel : Slot → Bool := fun q => q.cmd == 0x0301 && swCancel q.payload

/-- Slot `n` of function `f` holds a command that has begun and has not completed. -/
structure State.Waits (t : State) (f : Fn) (n : Nat) : Prop where
  post : (t.slot f n).post = true
  ack : (t.slot f n).ack = true
  begun : (t.slot f n).begun = true
  done : (t.slot f n).done = false

/-- Slot `n` of function `f` reads as completed with a status and a result (R413). -/
structure State.Completed (t : State) (f : Fn) (n status : Nat) (result : List Byte) : Prop where
  done : (t.slot f n).done = true
  post : (t.slot f n).post = false
  status : (t.slot f n).status = status
  len : (t.slot f n).resultLen = result.length
  bytes : (t.slot f n).payload.take result.length = result

/-! ## Memory -/

/-- Every line a shelf's cache holds is one of the shelf's own and has its 128 bytes (R251, R252). -/
def State.CachesOk (s : State) : Prop :=
  ∀ k l, l ∈ (s.shelf k).cache → l.line < 805306368 ∧ l.valid.length = 128 ∧ l.dirty.length = 128 ∧ l.bytes.length = 128
/-- No pseudo-channel is fenced (R269). -/
def State.NoFence (s : State) : Prop := ∀ k, (s.shelf k).pcFenced = 0
/-- Whether an address is that of one of `n` bytes of a partition's interleaved space from `x` on. -/
def State.Within (s : State) (p x n a : Nat) : Prop := ∃ i, i < n ∧ interPhys (s.part p).geo (x + i) = some a

/-! ## What no step changes -/

/-- The tables of functions and of each function's slots have the canonical form. -/
def State.MailboxesCanonical (s : State) : Prop :=
  Cells.wf fnReset s.fns = true ∧ ∀ e, e ∈ s.fns → Cells.wf (fun _ => ({} : Slot)) e.2.slots = true

/-- The journal `g` continues `f`: nothing but the `k` oldest entries left (past the end of `f`, ones appended since), and what was
appended follows (R443, R445). -/
def FwState.Continues (f g : FwState) : Prop := ∃ k more, g.journal = f.journal.drop k ++ more ∧ g.oldest = f.oldest + k

end Sys2Proof.Machine
end

