-- ==== Sys2Proof/Certificates/Slice0/Obligations.lean ====
section
/-!
DEFINITION. Sys2Proof/Certificates/Slice0/Obligations.lean: the statements, each with the rules it rests on.
-/

open Sys2Proof Sys2Proof.Machine

/-- For every command c and state s whose queue begins with c: one step of s is exec of c on s with the queue's rest. An empty queue
passes one clock edge of the time base, which may bring an upset to a local memory, and no command runs (the model's choice, log entries 1
and 43). [95_what_each_step_holds.md, 18_host_interface_and_mailboxes.md] -/
def Obligations.StepRunsTheFrontCommand : Prop :=
  (∀ (c : Instr) (q : List Instr) (s : State), s.pending = c :: q → step s = exec c { s with pending := q }) ∧
  (∀ s : State, s.pending = [] → step s = .next s.edge)

/-- For every command and every state: where every unit the command names exists (cores below 10,000, partitions below 16, shelves, ports
and channels below their counts, functions and slots of the module), exec answers a next state, and otherwise it stops with the fault
noSuchUnit. No command is ever refused. (That a missing unit is a fault is the model's choice, log entry 7.) [00_scope.md,
01_device_organisation.md, 12_shelf_and_hbm.md, 13_viltas_links.md, 17_codec_pairs.md, 18_host_interface_and_mailboxes.md] -/
def Obligations.UnitsDecideTheStop : Prop :=
  ∀ (c : Instr) (s : State),
    (c.unitsOk = true → ∃ t, exec c s = .next t) ∧ (c.unitsOk = false → exec c s = .fault .noSuchUnit)

/-- For every command and every state, the next state's queue of waiting commands is the one it was given: commands enter the queue from
outside only. [18_host_interface_and_mailboxes.md, 95_what_each_step_holds.md] -/
def Obligations.CommandsKeepTheQueue : Prop :=
  ∀ (c : Instr) (s t : State), exec c s = .next t → t.pending = s.pending

/-- For every state whose HBM contents are in canonical form (addresses strictly rising, no entry equal to what an unlisted byte reads
as), whatever command is at the front of its queue or with an empty queue: if the step answers a next state, that state's HBM contents are
in canonical form too. For every state in which each line of every shelf's cache is a line of that shelf with its 128 bytes and marks, so
it is after the step. (The forms are the model's own, log entry 3.) [11_memory_tiers_and_admission.md, 12_shelf_and_hbm.md] -/
def Obligations.HbmStaysCanonical : Prop :=
  (∀ s t : State, s.hbm.wf = true → step s = .next t → t.hbm.wf = true) ∧
  (∀ s t : State, s.CachesOk → step s = .next t → t.CachesOk)

/-- For every state and whatever step it takes: the journal after it is the journal before it with some of its oldest entries gone,
followed by what was appended; the sequence number of the oldest entry grows by the number of entries gone (entries that the step itself
appended and the ring lost again among them), so sequence numbers never repeat and never go back (R443, R445). Every reset keeps it (Table
21.2). [19_firmware_security_attestation.md, 21_resets_power_states_ageing.md] -/
def Obligations.JournalIsAppendOnly : Prop :=
  ∀ s t : State, step s = .next t → s.fw.Continues t.fw ∧ s.fw.nextSeq ≤ t.fw.nextSeq

/-- For every command and every state: the fused security version numbers of root and service firmware do not fall, and a revoked signing
key stays revoked. [19_firmware_security_attestation.md] -/
def Obligations.FusesOnlyBlow : Prop :=
  ∀ (c : Instr) (s t : State), exec c s = .next t →
    s.fw.rootSvn ≤ t.fw.rootSvn ∧ s.fw.svcSvn ≤ t.fw.svcSvn ∧ ∀ i, bit s.fw.revoked i = true → bit t.fw.revoked i = true

/-- After reset the queue is empty; every core is idle (RUN 0, beat 0, PC 0) with both tiles free and every flag clear; PERMIT reads 0xFF
in a physical function and 0xBE in a virtual one (R421, R427); no partition is defined; every port, shelf, channel and codec pair reads
its reset value; nothing is staged; the HBM image is canonical and every byte reads 0 (a choice of the model, log entry 3); the journal
holds the boot entry and its seal (log entry 5). [18_host_interface_and_mailboxes.md, 10_core_sequencer_and_work_claims.md,
12_shelf_and_hbm.md, 13_viltas_links.md, 16_partitions_and_scheduling.md, 17_codec_pairs.md, 19_firmware_security_attestation.md] -/
def Obligations.ResetLeaves : Prop :=
  State.reset.pending = [] ∧ State.reset.hbm.wf = true ∧ (∀ a, State.reset.hb a = 0) ∧
  (∀ c, (State.reset.core c).seq.run = 0 ∧ (State.reset.core c).seq.curBeat = 0 ∧ (State.reset.core c).seq.pc = 0 ∧
    (State.reset.core c).mu.t0.state = 0 ∧ (State.reset.core c).mu.t1.state = 0 ∧ (State.reset.core c).ready = 0) ∧
  (∀ f : Fn, (State.reset.fn f).permit = if f.idx % 32 = 0 then 0xFF else 0xBE) ∧
  (∀ f n, (State.reset.slot f n).post = false) ∧
  (∀ p, (State.reset.part p).geo.defined = false ∧ (State.reset.part p).image = none) ∧
  (∀ p, (State.reset.port p).state = 0) ∧ (∀ k, (State.reset.shelf k).wayValid = 0 ∧ (State.reset.shelf k).pcFenced = 0) ∧
  (∀ ch, (State.reset.chan ch).bound = false ∧ (State.reset.chan ch).started = 0xFFFFFFFF) ∧
  (∀ k, (State.reset.pair k).run = 0) ∧ State.reset.commit.staged = [] ∧ State.reset.power.state = 0 ∧
  State.reset.fw.nextSeq = 2

/-- For each of the 33 rows of the core microprogram, core c below 10,000 and context x: if the core's next word is of no row (a reserved
class or OP), the core stops with an illegal instruction recorded in its FAULT registers and the fault is reported for its partition; if
the word is of another row, nothing changes; a core with nothing to issue is left alone. Recording an illegal instruction at core c of
partition p: the core reads RUN 5 with the cause, the beat, the byte offset of the instruction and its word; one report with the status
joins the partition's queue; other cores, the core's memories and HBM are unchanged. [R114, R208, R219, R449, R450] -/
def Obligations.CoreRowsIssueTheirOwnWordOrStop : Prop :=
  (∀ (i : Instr) (r : Row) (c : Nat) (s : State), coreRow i = some (r, c) → c < Config.cores →
    (s.ctx c = none → exec i s = .next s) ∧
    ∀ x, s.ctx c = some x →
      (rowOf x.w = none → exec i s = .next (s.coreFault x.p c 1 Config.stIllegalInstr x.w)) ∧
      (∀ r', rowOf x.w = some r' → r' ≠ r → exec i s = .next s)) ∧
  (∀ (s : State) (p c cause st w : Nat),
    let t := s.coreFault p c cause st w
    (t.core c).seq.run = 5 ∧ (t.core c).seq.cause = cause ∧ (t.core c).seq.faultPc = 16 * (s.core c).seq.pc ∧
    (t.core c).seq.faultBeat = (s.core c).seq.curBeat ∧ (t.core c).seq.faultInstr = w ∧ (t.core c).seq.pc = (s.core c).seq.pc ∧
    (t.core c).ts = (s.core c).ts ∧ (t.core c).ob = (s.core c).ob ∧ (t.core c).mu = (s.core c).mu ∧ (t.core c).ve = (s.core c).ve ∧
    (t.part p).job.reports = (s.part p).job.reports ++ [(st, cause, (s.core c).seq.curBeat, c)] ∧
    (∀ d, d ≠ c → t.core d = s.core d) ∧ t = { s with cores := t.cores, parts := t.parts })

/-- Where the core's next word is FLAG_SET (FLAG_CLEAR, NOP) with its reserved bits 0: the instruction answers a next state; FLAG_SET sets
and FLAG_CLEAR clears READY_FLAGS bit [15:8] and no other bit; the core goes on to the next instruction; nothing else of the core but its
performance tally, and nothing outside it, changes. SET_PASS with every earlier instruction of the core complete sets the pass number to
[39:8]; into another pass it waits for the widening vote of this one. HALT outside a body, with no tile draining, ends the stream: RUN 4
at the same instruction; in a body it is illegal. LOOP with a legal body and a COUNT above 0 opens a frame over the next BODY
instructions, and with COUNT 0 goes on after the body. In each case the core's memories, accumulators and flags stay as they are, other
cores and every byte of HBM too; HALT may end the partition's open request and the image, whose units then apply a commit that waits for
them; the others change nothing outside the core. [R322, R208, R216, R217, R119] -/
def Obligations.ScalarAndFlagRowsComplete : Prop :=
  ((∀ (c : Nat) (s : State) (x : Ctx), s.Issues c ⟨4, 2, 0⟩ x → x.f 127 17 = 0 → ∃ t, exec (.flagSet c) s = .next t ∧
    (∀ j, bit (t.core c).ready j = (bit (s.core c).ready j || decide (j = x.f 15 8))) ∧
    t.core c = { s.core c with ready := (t.core c).ready, seq := (s.core c).seq.next, tally := (t.core c).tally } ∧ s.OnlyCore t c) ∧
  (∀ (c : Nat) (s : State) (x : Ctx), s.Issues c ⟨4, 2, 1⟩ x → x.f 127 17 = 0 → ∃ t, exec (.flagClear c) s = .next t ∧
    (∀ j, bit (t.core c).ready j = (bit (s.core c).ready j && !decide (j = x.f 15 8))) ∧
    t.core c = { s.core c with ready := (t.core c).ready, seq := (s.core c).seq.next, tally := (t.core c).tally } ∧ s.OnlyCore t c) ∧
  (∀ (c : Nat) (s : State) (x : Ctx), s.Issues c ⟨6, 3, 0⟩ x → x.f 127 8 = 0 → ∃ t, exec (.nop c) s = .next t ∧
    t.core c = { s.core c with seq := (s.core c).seq.next, tally := (t.core c).tally } ∧ s.OnlyCore t c)) ∧
  ((∀ (c : Nat) (s : State) (x : Ctx), s.Issues c ⟨6, 0, 0⟩ x → x.f 127 40 = 0 → s.allDone c = true →
    (x.f 39 8 ≠ (s.core c).seq.pass → s.votePending x.p c x.im = true → exec (.setPass c) s = .next s) ∧
    (x.f 39 8 = (s.core c).seq.pass ∨ s.votePending x.p c x.im = false → ∃ t, exec (.setPass c) s = .next t ∧
      (t.core c).seq = ({ (s.core c).seq with pass := x.f 39 8, voteAt := (s.part x.p).job.votes } : Seq).next ∧
      t.core c = { s.core c with seq := (t.core c).seq, tally := (t.core c).tally } ∧ s.OnlyCore t c)) ∧
  (∀ (c : Nat) (s : State) (x : Ctx), s.Issues c ⟨6, 4, 0⟩ x → x.f 127 8 = 0 → (s.core c).seq.loops = [] → (s.core c).quiet = true →
    ∃ t u : State, exec (.halt c) s = .next t ∧ (t = u.updCore c (fun k => k.note 0x010 1) ∨ t = u.releaseUnits.updCore c (fun k => k.note 0x010 1)) ∧
      u.core c = { s.core c with seq := { (s.core c).seq with run := 4, stall := false, waitFrom := none } } ∧
      (∀ d, d ≠ c → u.core d = s.core d) ∧ u = { s with cores := u.cores, parts := u.parts }) ∧
  (∀ (c : Nat) (s : State) (x : Ctx), s.Issues c ⟨6, 4, 0⟩ x → (s.core c).seq.loops ≠ [] →
    exec (.halt c) s = .next (s.coreFault x.p c 1 Config.stIllegalInstr x.w)) ∧
  (∀ (c : Nat) (s : State) (x : Ctx), s.Issues c ⟨6, 1, 0⟩ x → x.f 127 60 = 0 → x.f 27 8 ≠ 0 → (s.core c).seq.loops.length < 4 →
    (s.core c).seq.pc + 1 + x.f 27 8 ≤ bodyEnd (s.core c).seq x.len →
    ∃ t, exec (.loop c) s = .next t ∧
      (t.core c).seq = (if x.f 59 28 = 0 then settle 16 { (s.core c).seq with pc := (s.core c).seq.pc + 1 + x.f 27 8, run := 1, waitFrom := none }
        else ({ (s.core c).seq with loops := ⟨(s.core c).seq.pc + 1, x.f 27 8, x.f 59 28, 0⟩ :: (s.core c).seq.loops } : Seq).next) ∧
      t.core c = { s.core c with seq := (t.core c).seq, tally := (t.core c).tally } ∧ s.OnlyCore t c))

/-- At the end of the innermost body, with no variant in force: while fewer than COUNT passes have run the core goes back to the body's
first instruction with one more pass counted; after the last pass the frame is gone and the core stands at the instruction after the body,
with the enclosing frame's end settled in the same way. With its reserved bits 0, a LAYER the image has and both variants inside the
enclosing body: the core goes on at the wide variant's first instruction where the layer's STATE is wide, else at the narrow one's, inside
a variant frame that ends with that variant and leads past both. Nothing but the core's sequencer and performance tally changes. [R217,
R98, R104] -/
def Obligations.LoopsAndVariantsRun : Prop :=
  (∀ (n : Nat) (q : Seq) (l : LoopFrame) (r : List LoopFrame), q.loops = l :: r → q.variants = [] → q.pc = l.start + l.body →
    settle (n + 1) q = if l.iter + 1 < l.count then { q with pc := l.start, loops := { l with iter := l.iter + 1 } :: r }
      else settle n { q with loops := r }) ∧
  (∀ (c : Nat) (s : State) (x : Ctx), s.Issues c ⟨6, 2, 0⟩ x → x.f 127 58 = 0 → x.f 17 8 < tpLayers x.im.bytes →
    (s.core c).seq.pc + 1 + x.f 37 18 + x.f 57 38 ≤ bodyEnd (s.core c).seq x.len →
    ∃ t, exec (.variant c) s = .next t ∧
      (let q := (s.core c).seq
       let wide : Bool := decide (s.layerState x.p x.im (x.f 17 8) = 1)
       let first := if wide then q.pc + 1 + x.f 37 18 else q.pc + 1
       let stop := if wide then q.pc + 1 + x.f 37 18 + x.f 57 38 else q.pc + 1 + x.f 37 18
       let v : VariantFrame := ⟨x.f 17 8, wide, first, stop, q.pc + 1 + x.f 37 18 + x.f 57 38⟩
       (t.core c).seq = settle 16 { q with pc := first, run := 1, waitFrom := none, variants := v :: q.variants }) ∧
      t.core c = { s.core c with seq := (t.core c).seq, tally := (t.core c).tally } ∧ s.OnlyCore t c)

/-- With reserved bits 0 and a target beat t at or after the core's beat: where every beat up to t has its expected messages, the core
enters beat t + 1, forgets the messages of earlier beats, switches the tables whose beat has come and goes on; otherwise it waits (RUN 2)
in its beat with nothing else changed. A target before the core's beat is a schedule fault with cause 5. Nothing else of the core but its
performance tally, and nothing outside it, changes when it completes or waits. With reserved bits 0, a legal CMP and an aligned address
inside the partition's memory: a core that has registered no watch goes on at once where the word meets CMP against VALUE, and otherwise
registers one watch at the word and waits (RUN 3); with a watch registered it goes on when the home bank has answered, and waits unchanged
until then. It writes no memory. [R212, R213, R364, R28, R30, R31, R216, R214] -/
def Obligations.WaitsComplete : Prop :=
  (∀ (c : Nat) (s : State) (x : Ctx), s.Issues c ⟨4, 0, 0⟩ x → x.f 127 57 = 0 →
    (let q := (s.core c).seq
     let b := beatTarget x q.curBeat
     (b < q.curBeat → exec (.beatWait c) s = .next ((s.stopCore c 5 x.w).report x.p Config.stScheduleFault 5 q.curBeat ⟨0, c⟩)) ∧
     (q.curBeat ≤ b → beatsFull x.im x.unit q.recv q.curBeat b = true → ∃ t, exec (.beatWait c) s = .next t ∧
        (t.core c).seq = ({ q with curBeat := b + 1, recv := q.recv.filter (fun e => b + 1 ≤ e.1) } : Seq).next ∧
        (t.core c).seq.curBeat = b + 1 ∧
        t.core c = { (s.core c).switchTables (b + 1) with seq := (t.core c).seq, tally := (t.core c).tally } ∧ s.OnlyCore t c) ∧
     (q.curBeat ≤ b → beatsFull x.im x.unit q.recv q.curBeat b = false → ∃ t, exec (.beatWait c) s = .next t ∧
        (t.core c).seq.run = 2 ∧ (t.core c).seq.curBeat = q.curBeat ∧ (t.core c).seq.pc = q.pc ∧
        t.core c = { s.core c with seq := (t.core c).seq } ∧ s.OnlyCore t c))) ∧
  (∀ (c : Nat) (s : State) (x : Ctx) (a : Nat), s.Issues c ⟨4, 1, 0⟩ x → x.f 127 82 = 0 → x.f 81 80 < 2 → x.f 47 8 % 4 = 0 →
    devPhys (s.part x.p).geo (x.f 47 8) = some a →
    (let w : Watch := { part := x.p, core := c, addr := a, value := x.f 79 48, cmp := x.f 81 80 }
     ((s.watches.find? (fun v => v.core == c)) = none → watchMet w (s.wordAt a) = true →
       exec (.signalWait c) s = .next (s.advance c)) ∧
     ((s.watches.find? (fun v => v.core == c)) = none → watchMet w (s.wordAt a) = false →
       ∃ t, exec (.signalWait c) s = .next t ∧ t.watches = s.watches ++ [w] ∧ (t.core c).seq.run = 3 ∧ (t.core c).seq.pc = (s.core c).seq.pc ∧
         t.hbm = s.hbm ∧ t.shelves = s.shelves ∧ ∀ d, d ≠ c → t.core d = s.core d) ∧
     (∀ v, s.watches.find? (fun v => v.core == c) = some v → v.answered = true →
       ∃ t, exec (.signalWait c) s = .next t ∧ t.watches = s.watches.filter (fun v => v.core != c) ∧
         (t.core c).seq = (s.core c).seq.next ∧ t.hbm = s.hbm ∧ t.shelves = s.shelves ∧ ∀ d, d ≠ c → t.core d = s.core d) ∧
     (∀ v, s.watches.find? (fun v => v.core == c) = some v → v.answered = false → exec (.signalWait c) s = .next s)))

/-- SELECT_POINT with reserved bits 0 and every earlier instruction complete parks the core on the selection signal (RUN 3, same
instruction); the partition's open request may end there. FREEZE_POINT with reserved bits 0, every earlier instruction complete, both
tiles free, an empty finished-tile queue, no row carry, no open claim, every handed-off instance complete and every live range inside its
space adds 1 to FP_COUNT, records FP_ID and its list, and goes on; it waits for the partition where the point is a freeze's, a
checkpoint's or a request's. Neither changes a local memory, another core, or a byte of HBM. [R118, R119, R367, R370, R371] -/
def Obligations.PointRowsComplete : Prop :=
  (∀ (c : Nat) (s : State) (x : Ctx), s.Issues c ⟨4, 6, 0⟩ x → x.f 127 8 = 0 → s.allDone c = true →
    ∃ t, exec (.selectPoint c) s = .next t ∧
      t.core c = { s.core c with seq := { (s.core c).seq with selectWait := true, run := 3, stall := false, waitFrom := none }, tally := (t.core c).tally } ∧
      (∀ d, d ≠ c → t.core d = s.core d) ∧ t = { s with cores := t.cores, parts := t.parts }) ∧
  (∀ (c : Nat) (s : State) (x : Ctx) (es : List (List Byte)), s.Issues c ⟨4, 3, 0⟩ x → x.f 127 76 = 0 → s.allDone c = true →
    s.liveList (s.part x.p).geo (x.f 59 20) (x.f 75 60) = some es → es.all liveOk = true →
    (s.core c).mu.t0.state = 0 → (s.core c).mu.t1.state = 0 → (s.core c).mu.ftq = [] → (s.core c).ve.carry.isOpen = false →
    (s.core c).claims.any (·.isOpen) = false → s.handedOff x.p c = false →
    ∃ t, exec (.freezePoint c) s = .next t ∧ (t.core c).seq.fpCount = (s.core c).seq.fpCount + 1 ∧ (t.core c).seq.fpId = x.f 19 8 ∧
      (t.core c).seq.fpWait = s.parksAt x.p c ((s.core c).seq.fpCount + 1) ∧
      t.core c = { s.core c with seq := (t.core c).seq, tally := (t.core c).tally } ∧ (∀ d, d ≠ c → t.core d = s.core d) ∧
      t = { s with cores := t.cores, parts := t.parts })

/-- For MMA_ZERO, MMA_INIT_C, MMA_CONTINUE, MMA_DIAG_ZERO and MMA_DIAG_CONTINUE at core c: where the encoding and its descriptors let it
issue, nothing makes it wait and it reads no word with a double error, it answers a next state. Lane (i, n) of the named tile is then the
start value (0; the element of C; what the tile held) with the products of row i of A and column n of B added block after block; a
diagonal form reads column n mod w. The tile reads draining after LAST and accumulating otherwise; one of no row or lane that finishes
with ROUTE 0 is free at once. The other tile, both local memories, the descriptors, the queues, the claim slots and the vector engine are
unchanged; the core goes on, its performance tally and its count of corrected words aside; nothing outside it changes. [R57, R61, R62,
R63, R64, R65, R67, R70, R196, R208] -/
def Obligations.MatrixRowsComplete : Prop :=
  ∀ (op : MmaOp) (r : Row) (c : Nat) (s : State) (x : Ctx) (g : MmaArgs),
    coreRow (op.instr c) = some (r, c) → s.Issues c r x → mmaArgs op s x = some g → mmaWait op (s.core c) g = false →
    (s.core c).badWord g.reads = none → ∃ t, exec (op.instr c) s = .next t ∧ s.OnlyCore t c ∧
      (let k := s.core c
       let u := (t.core c).mu
       let diag := if op.diag then some g.f.dlog2 else none
       let a := fun i => (List.range g.f.k).map (fun j => k.elem g.a i j)
       let b := fun n => (List.range g.f.k).map (fun i => k.elem g.b i (if op.diag then n % (32 / 2 ^ g.f.dlog2) else n))
       let start : Nat → Nat → Accum := fun i n => match g.c with
         | some q => accumOf (k.elem q i n)
         | none => if op.starts then {} else (k.mu.tile g.f.tile).lane i n
       let gone : Prop := (g.f.m = 0 ∨ g.f.n = 0) ∧ g.f.last = true ∧ g.f.route = 0
       (gone → u.tile g.f.tile = {}) ∧
       (¬ gone → (u.tile g.f.tile).state = (if g.f.last then 2 else 1) ∧ (u.tile g.f.tile).m = g.f.m ∧ (u.tile g.f.tile).n = g.f.n) ∧
       (∀ i n, i < g.f.m → n < g.f.n → (u.tile g.f.tile).lane i n =
         (laneAdd g.isInt { start i n with inv := (start i n).inv || laneBad (a i) (b n) } (laneProds diag n (a i) (b n))).1) ∧
       u.tile (1 - g.f.tile) = k.mu.tile (1 - g.f.tile) ∧ u.ftq = k.mu.ftq ∧ u.witq = k.mu.witq ∧ u.heldWrites = k.mu.heldWrites ∧
       t.core c = { k with mu := u, seq := k.seq.next, tally := (t.core c).tally, eccCorr := (t.core c).eccCorr })

/-- For each of the five matrix instructions at core c: where the encoding or a descriptor is illegal the core stops with an illegal
instruction recorded and reported; where it would read a word with a double error the core records the word's place and faults with
ST_MEM_UNCORRECTABLE; where the tile, a claim reply, a ready flag or a multicast delivery is still to come, the next state differs only in
the core's two wait bits, and the same instruction is met again. [R68, R69, R80, R82, R197, R208, R219, R227, R229] -/
def Obligations.MatrixRowsStopOrWait : Prop :=
  ∀ (op : MmaOp) (r : Row) (c : Nat) (s : State) (x : Ctx), coreRow (op.instr c) = some (r, c) → s.Issues c r x →
    (mmaArgs op s x = none → exec (op.instr c) s = .next (s.coreFault x.p c 1 Config.stIllegalInstr x.w)) ∧
    (∀ g u, mmaArgs op s x = some g → mmaWait op (s.core c) g = false → (s.core c).badWord g.reads = some u →
      exec (op.instr c) s = .next ((s.setCore c ((s.core c).uncorrected u)).coreFault x.p c 0 Config.stMemUncorrectable x.w)) ∧
    ∀ g, mmaArgs op s x = some g → mmaWait op (s.core c) g = true → ∃ t, exec (op.instr c) s = .next t ∧ s.OnlyCore t c ∧
      t.core c = { s.core c with mu := { (s.core c).mu with readyWait := (t.core c).mu.readyWait, mcastWait := (t.core c).mu.mcastWait } }

/-- TILE_FINISH of a draining tile whose turn has come, with room in the witness queue if the tile is selected: a ROUTE 0 tile is
converted row by row through its output descriptor into the tile store, its flags and saturations are reported, the saturations merge into
the layer's monitor, and the tile is free; it waits while another witness holds bytes it writes; another tile becomes ready to push and
writes nothing; a selected tile joins the witness queue. FINISHED_TILE_PUSH of a ready tile, with fewer than 8 entries queued, appends its
entry and frees the tile. The other tile, the operand buffer, the descriptors, other cores and, the monitor's record apart, every byte of
HBM are unchanged. [R64, R72, R75, R76, R77, R79, R90, R91] -/
def Obligations.TilesFinish : Prop :=
  ∀ (c i p : Nat) (s : State) (im : Image) (f : Finish), c < Config.cores → i < 2 → s.partOf c = some p → (s.part p).image = some im →
    ((s.core c).mu.tile i).finish = some f → ((s.core c).mu.tile i).state = 2 → drainTurn (s.core c).mu i f = true →
    (let k := s.core c
     let a := k.mu.tile i
     let o := outFields f.out
     let seed := Req.seed im.req
     let sel := witSelected im o k.seq.pass
     (a.prepared = false → (sel = true → k.mu.witq.length < 4) → finishHeld k i a f = true →
       exec (.tileFinish c i) s = .next (s.setCore c k.waitWitness)) ∧
     (a.prepared = false → (sel = true → k.mu.witq.length < 4) → finishHeld k i a f = false →
       ∃ t, exec (.tileFinish c i) s = .next (if f.route = 0 then t.monitor p f.layer (finishRoute0 k a f seed).2.sat 0 0 false else t) ∧
         t = { s with cores := t.cores, parts := t.parts } ∧ (∀ d, d ≠ c → t.core d = s.core d) ∧
         t.core c = { k with ts := (t.core c).ts, mu := (t.core c).mu, ve := { k.ve with flags := (t.core c).ve.flags }, upsets := (t.core c).upsets } ∧
         (t.core c).mu.tile (1 - i) = k.mu.tile (1 - i) ∧ (t.core c).mu.ftq = k.mu.ftq ∧
         (t.core c).mu.witq = (if sel then k.mu.witq ++ [witnessOf a f seed k.seq.pass] else k.mu.witq) ∧
         (f.route ≠ 0 → (t.core c).mu.tile i = { a with prepared := true, wit := false } ∧ (t.core c).ts = k.ts) ∧
         (f.route = 0 → (t.core c).mu.tile i = {} ∧
           (t.core c).ts = (if (f.written a.m a.n).2 = 0 then k.ts else
             (List.range (f.written a.m a.n).1).foldl (finishWrite a o (Ccw.of o.ccw).dst seed k.seq.pass (f.written a.m a.n).2) k.ts))) ∧
     (a.prepared = true → k.mu.ftq.length < 8 →
       ∃ t, exec (.finishedTilePush c i) s = .next t ∧ t = { s with cores := t.cores, parts := t.parts } ∧ (∀ d, d ≠ c → t.core d = s.core d) ∧
         t.core c = { k with mu := (t.core c).mu, ve := { k.ve with flags := (t.core c).ve.flags } } ∧
         (t.core c).mu.ftq = k.mu.ftq ++ [ftqEntry a f] ∧ (t.core c).mu.tile i = {} ∧
         (t.core c).mu.tile (1 - i) = k.mu.tile (1 - i) ∧ (t.core c).mu.witq = k.mu.witq))

/-- MULTICAST_DELIVERY inside the field and the operand buffers, after every earlier message of the core to one of them, to cores of one
partition that have freed the range, whose windows hold the beat and at which nothing holds the range back: every core of the rectangle
gets the sender's bytes at the destination and notes the delivery; every core outside it is unchanged (the sender counts words it
corrected). HELD_WRITE_RELEASE lands every held write that no witness holds, in order, at that core only; a write that a witness holds
stays. (That a delivery counts against no EXPECT, and when a range is free, are the model's choices, log entries 98 and 116.) [R82, R29,
R79, R91] -/
def Obligations.DeliveriesLand : Prop :=
  (∀ (c row0 col0 rows cols src dst len : Nat) (s : State) (x : Ctx), c < Config.cores → row0 + rows ≤ 50 → col0 + cols ≤ 50 →
    rows * cols ≤ 64 → s.ctx c = some x → src + len ≤ Config.obBytes → dst + len ≤ Config.obBytes →
    (let cs := rectCores c row0 col0 rows cols
     let b := (s.core c).seq.curBeat
     let bs := (s.core c).ob.readN src len
     (∀ m, m ∈ s.msgs → m.src = ⟨0, c⟩ → m.dst.kind = 0 → m.dst.num ∉ cs) → (s.core c).badWord [(true, src, len)] = none →
     (∀ d, d ∈ cs → s.partOf d = some x.p ∧ (s.core d).seq.curBeat ≤ b ∧ b ≤ (s.core d).seq.curBeat + (s.core d).seq.winM1 ∧
       (s.core d).holds ⟨true, dst, bs, []⟩ = false ∧
       ∀ q, q ∈ (s.core d).mu.mcast → q.beat < (s.core d).seq.curBeat ∨ q.base + q.len ≤ dst ∨ dst + len ≤ q.base) →
     ∃ t, exec (.multicastDelivery c row0 col0 rows cols src dst len) s = .next t ∧ t = { s with cores := t.cores, fieldTally := t.fieldTally } ∧
       (∀ d, d ∉ cs → t.core d = { s.core d with eccCorr := (t.core d).eccCorr } ∧ (d ≠ c → t.core d = s.core d)) ∧
       ∀ d, d ∈ cs → (t.core d).ob = (s.core d).ob.writeN dst bs ∧
         (t.core d).mu.mcast = (s.core d).mu.mcast ++ [⟨b, dst, len⟩] ∧
         (let u := t.core d
          u = { s.core d with ob := u.ob, mu := { (s.core d).mu with mcast := u.mu.mcast }, upsets := u.upsets, eccCorr := u.eccCorr }))) ∧
  (∀ (c : Nat) (s : State), c < Config.cores → ∃ t, exec (.heldWriteRelease c) s = .next t ∧ s.OnlyCore t c ∧
    (let k := s.core c
     (∀ w r, k.mu.heldWrites = w :: r → k.witHeld w = true → w ∈ (t.core c).mu.heldWrites) ∧
     ((∀ w, w ∈ k.mu.heldWrites → k.witHeld w = false) → (t.core c).mu.heldWrites = [] ∧
      t.core c = k.mu.heldWrites.foldl Core.land { k with mu := { k.mu with heldWrites := [], reading := [] } })))

/-- WITNESS_REFERENCE with a witness w at the head of core c's queue, while the partition's memory is served: w leaves the queue, the
local memories and other cores stay as they are, and no byte of HBM changes but those of the layer's monitor record and of the next
witness-log entry. Where every compared element passes and the image does not log all witnesses, nothing but the monitor's merge follows:
the record's DEV_MAX word becomes the FP32 MAX of itself and the deviation. Each element that fails counts in FAILS (saturating at 255)
and is reported, and the beat of the tile is marked so that it does not commit. [R92, R93, R94, R95, R97, R22] -/
def Obligations.WitnessReferenceCompletes : Prop :=
  ∀ (c p : Nat) (s : State) (im : Image) (w : Witness) (rest : List Witness), c < Config.cores → s.partOf c = some p →
    (s.part p).image = some im → (s.core c).mu.witq = w :: rest → s.memHeld p = false →
    ∃ t, exec (.witnessReference c) s = .next t ∧ (t.core c).mu.witq = rest ∧ (t.core c).ts = (s.core c).ts ∧ (t.core c).ob = (s.core c).ob ∧
      (∀ d, d ≠ c → t.core d = s.core d) ∧
      (let es := w.ys.filterMap w.compare
       let n := (es.filter (fun e => !e.pass)).length
       let g := (s.part p).geo
       (s.CachesOk → ∀ a, ¬ s.Within p (im.monAt w.layer) 16 a → ¬ s.Within p (im.region 5 + 32 * (s.part p).job.witNext) 32 a → t.hb a = s.hb a) ∧
       (es.all (·.pass) = true → Req.logAll im.req = false →
         t = (s.updCore c (fun k => { k with mu := { k.mu with witq := rest } })).monitor p w.layer 0 0 (witDev es) false) ∧
       (es.all (·.pass) = true → (t.core c).mu.fails = (s.core c).mu.fails ∧ (t.part p).job.witFail = (s.part p).job.witFail) ∧
       (es.all (·.pass) = true → Req.logAll im.req = false → s.CachesOk → s.NoFence → tpLayers im.bytes ≤ 1024 → w.layer < tpLayers im.bytes →
         (∀ i, i < 4 → (interPhys g (im.monAt w.layer + 8 + i)).isSome = true) → witDev es ≠ 0 →
         t.leX g (im.monAt w.layer + 8) 4 = minMax true 0x00 (s.leX g (im.monAt w.layer + 8) 4) (witDev es)) ∧
       (es.all (·.pass) = false → (t.core c).mu.fails = satAdd 255 (s.core c).mu.fails n ∧
         (t.part p).job.witFail = w.beat :: (s.part p).job.witFail ∧
         ∃ mid, (t.part p).job.reports = (s.part p).job.reports ++ mid ++ List.replicate n (Config.stWitnessFail, 0, w.beat, c)))

/-- For CHAIN, CHAIN_EF and CHAIN_FTQ at core c with a legal encoding and nothing to wait for: bytes a witness holds make it wait, a
double error stops it; else it answers a next state in which the tile store and the vector registers are those of the chain's stages,
VFLAGS has gained the flags and SAT_COUNT the saturations (capped at 65,535), a CHAIN_FTQ with POP has dropped the head of the
finished-tile queue, the layer's monitors have merged what stage 7 or the carry gives them, and the core goes on, one issue slot noted.
COUNT 0 changes no register, no byte and no flag. A register destination without error feedback writes no byte of the tile store. The
operand buffer, the descriptors, the tiles, the witness queue and the claim slots are unchanged; outside the core nothing changes but its
partition's record and, where a monitor merges, that record's bytes. [R131, R133, R137, R141, R142, R143, R144, R80, R208, R91, R227] -/
def Obligations.ChainRowsComplete : Prop :=
  ∀ (i : Instr) (r : Row) (c : Nat) (s : State) (x : Ctx) (a : VecArgs), i ∈ [Instr.chain c, .chainEf c, .chainFtq c] →
    coreRow i = some (r, c) → s.Issues c r x → vecArgs s x = some a → vecWait (s.core c) a = false →
    s.AccessStops i c x a.reads a.writes ∧
    ((s.core c).Accesses a.reads a.writes →
     let k := s.core c
     let v := k.chain a (Req.seed x.im.req)
     ∃ u t : State, exec i s = .next t ∧
       t = (match v.mon with | some m => u.monitor x.p m.1 m.2.1 m.2.2.1 0 m.2.2.2 | none => u).updCore c
         (fun q => q.retire (if a.f.count = 0 then 0x011 else 0x010)) ∧
       u = { s with cores := u.cores, parts := u.parts } ∧ (∀ d, d ≠ c → u.core d = s.core d ∧ t.core d = s.core d) ∧
       (let e := u.core c
        e = { k with ts := v.k.ts, ve := { v.k.ve with flags := e.ve.flags }, tally := e.tally, eccCorr := e.eccCorr, upsets := e.upsets,
                     mu := { k.mu with ftq := if a.f.ftq && a.f.pop then k.mu.ftq.drop 1 else k.mu.ftq, witHold := e.mu.witHold } }) ∧
       t.core c = (u.core c).retire (if a.f.count = 0 then 0x011 else 0x010) ∧
       (t.core c).ve.flags.inv = (k.ve.flags.inv || v.fl.inv) ∧ (t.core c).ve.flags.ov = (k.ve.flags.ov || v.fl.ov) ∧
       (t.core c).ve.flags.uf = (k.ve.flags.uf || v.fl.uf) ∧ (t.core c).ve.flags.sat = min 0xFFFF (k.ve.flags.sat + v.fl.sat) ∧
       (a.f.count = 0 → (t.core c).ts = k.ts ∧ (t.core c).ve.vr = k.ve.vr ∧ (t.core c).ve.carry = k.ve.carry ∧ v.fl = {} ∧ v.mon = none) ∧
       (a.f.regDst = true → (t.core c).ts = k.ts) ∧
       (v.mon = none → t.hbm = s.hbm ∧ t.shelves = s.shelves) ∧
       (∀ m, v.mon = some m → s.CachesOk → ∀ b, ¬ s.Within x.p (x.im.monAt m.1) 16 b → t.hb b = s.hb b))

/-- With a legal encoding and descriptor and nothing to wait for: bytes a witness holds make the move wait, a double error stops it; else,
with every source byte readable, MOVE_IN writes its converted elements and pads row by row into the named local space; MOVE_WINDOW writes
the gathered rows, or nothing where the gather is empty; MOVE_SLEET writes each row, zeros for a missing one. Where a shelf refuses the
message of a MOVE_IN or MOVE_SLEET, nothing is written and each refusal is reported. The other local space and the descriptors of the
core, all other cores and every byte of HBM are unchanged (a cache line may be filled or replaced). The shelves' counting changes no more
than the partition's unit records where no commit waits. [R233, R235, R190, R192, R193, R195, R264, R143, R254, R91, R227] -/
def Obligations.LocalMovesComplete : Prop :=
  (∀ (c : Nat) (s : State) (x : Ctx) (m : MoveDesc), s.Issues c ⟨3, 0, 0⟩ x → x.f 127 41 = 0 →
    s.moveDesc x (x.f 31 16) true = some m → moveWait (s.core c) x [x.f 15 8] = false →
    (let len := x.f 31 16
     let w := fmtWidth (Ccw.of m.ccw).dst
     let empty : Bool := decide (len = 0 ∨ m.cols = 0 ∨ m.vrows = 0)
     let writes := if empty then [] else m.ranges len m.cols w
     let s0 := s.accessed c [] writes
     s.AccessStops (.moveIn c) c x [] writes ∧
     ((s.core c).Accesses [] writes → ∀ els, (if empty then .ok [] else s0.moveInElems x m len) = Except.ok els → ∀ s1 es,
       s0.countShelves x (s0.moveShelves x m len (fmtWidth (Ccw.of m.ccw).src)) = (s1, es) →
       (s.commit.waiting = [] → s1 = { s0 with parts := s1.parts }) ∧
       (es ≠ [] → exec (.moveIn c) s = .next ((s1.shelfRefuse x es).advance c)) ∧
       (es = [] → ∃ t, exec (.moveIn c) s = .next t ∧
         t = { s1 with cores := t.cores, parts := t.parts, shelves := t.shelves, hbm := t.hbm } ∧ (∀ d, d ≠ c → t.core d = s1.core d) ∧
         (t.core c).mem m.ob = els.foldl (fun mm q => mm.putBits (m.base + q.1 * m.lstride) (w * q.2.1) w q.2.2.1) ((s1.core c).mem m.ob) ∧
         (t.core c).mem (!m.ob) = (s1.core c).mem (!m.ob) ∧ (s1.CachesOk → ∀ a, t.hb a = s1.hb a) ∧
         (s1.core c).GoesOn (t.core c) ∧ (t.core c).ve = { (s1.core c).ve with flags := (t.core c).ve.flags })))) ∧
  (∀ (c : Nat) (s : State) (x : Ctx) (m : WinDesc), s.Issues c ⟨3, 2, 0⟩ x → x.f 127 41 = 0 → x.f 31 16 = 0 → s.winDesc x = some m →
    moveWait (s.core c) x [x.f 15 8, x.f 15 8 + 1] = false →
    (m.empty = true → exec (.moveWindow c) s = .next (s.updCore c (fun k => k.retire 0x011))) ∧
    (m.empty = false → s.AccessStops (.moveWindow c) c x m.reads m.writes) ∧
    (m.empty = false → (s.core c).Accesses m.reads m.writes →
      ∃ t, exec (.moveWindow c) s = .next t ∧ t = { s with cores := t.cores, parts := t.parts } ∧ (∀ d, d ≠ c → t.core d = s.core d) ∧
      (m.dstSpace = 2 → (t.core c).ve.vr = ((s.core c).gather m).1.ve.vr ∧ (t.core c).ts = (s.core c).ts ∧ (t.core c).ob = (s.core c).ob) ∧
      (m.dstSpace ≠ 2 → (t.core c).ve.vr = (s.core c).ve.vr ∧
        (t.core c).mem (m.dstSpace == 1) = ((s.core c).gather m).1.mem (m.dstSpace == 1) ∧
        (t.core c).mem (!(m.dstSpace == 1)) = (s.core c).mem (!(m.dstSpace == 1))) ∧
      (s.core c).GoesOn (t.core c))) ∧
  (∀ (c ib db : Nat) (s : State) (x : Ctx), s.Issues c ⟨3, 4, 0⟩ x → x.f 127 41 = 0 →
    (let len := x.f 31 16
     let d := (s.core c).descriptor (x.f 15 8)
     let m : SleetDesc := { sleetFields d with idx := ib, dst := db }
     let reads := [(false, ib, (if m.idx64 then 8 else 4) * len)]
     let writes := (List.range len).map (fun n => (m.ob, db + n * m.dstStride, 32 * m.gran))
     let s0 := s.accessed c reads writes
     s.tsAddr x (sleetFields d).idx = some ib → s.locAddr x (sleetFields d).ob (sleetFields d).dst = some db → m.valid d len = true →
     moveWait (s.core c) x [x.f 15 8] = false →
     s.AccessStops (.moveSleet c) c x reads writes ∧
     ((s.core c).Accesses reads writes → ∀ rows, allOk ((List.range len).map (s0.sleetRow x m)) = .ok rows → ∀ s1 es,
       s0.countShelves x (s0.shelvesOf x.p (if (rows.map (·.2)).flatten.isEmpty then s0.sleetTable x m else (rows.map (·.2)).flatten)) = (s1, es) →
       (s.commit.waiting = [] → s1 = { s0 with parts := s1.parts }) ∧
       (es ≠ [] → exec (.moveSleet c) s = .next ((s1.shelfRefuse x es).advance c)) ∧
       (es = [] → ∃ t, exec (.moveSleet c) s = .next t ∧ t = { s1 with cores := t.cores, shelves := t.shelves } ∧
         (∀ d, d ≠ c → t.core d = s1.core d) ∧
         (t.core c).mem m.ob = rows.zipIdx.foldl (fun mm q => mm.writeN (m.dst + q.2 * m.dstStride) q.1.1) ((s1.core c).mem m.ob) ∧
         (t.core c).mem (!m.ob) = (s1.core c).mem (!m.ob) ∧ (∀ a, t.hb a = s1.hb a) ∧
         (s1.core c).GoesOn (t.core c) ∧ (t.core c).ve = (s1.core c).ve))))

/-- With a legal encoding and descriptor and nothing to wait for: a double error in a byte it reads stops it; else, to an HBM address
whose bytes are all legal, with no reducer region there: every byte of HBM other than the places of the written elements reads as before.
To the KV pool: a stale holder's write is discarded and counted; else, inside its layers and range and no shelf refusing the message, the
slot's new end joins the beat's appends. The core's local memories, descriptors, tiles and claim slots are unchanged, as are all other
cores. [R236, R125, R181, R183, R210, R69, R269, R227] -/
def Obligations.MoveOutCompletes : Prop :=
  ∀ (c : Nat) (s : State) (x : Ctx) (m : MoveDesc), s.Issues c ⟨3, 1, 0⟩ x → x.f 127 41 = 0 →
    s.moveDesc x (x.f 31 16) false = some m → moveWait (s.core c) x [x.f 15 8] = false →
    (let w := fmtWidth (Ccw.of m.ccw).dst
     let rows := if m.cols = 0 || m.vcols = 0 then 0 else min (x.f 31 16) m.vrows
     let reads := m.ranges rows m.vcols (fmtWidth (Ccw.of m.ccw).src)
     let s0 := s.accessed c reads []
     let a := kvAddr m.hbm
     s.redHeld x.p (s.movePlaces x m rows w) = false →
     s.AccessStops (.moveOut c) c x reads [] ∧
     ((s.core c).Accesses reads [] → ∀ s1 es, s0.countShelves x (s0.moveShelves x m (x.f 31 16) w) = (s1, es) →
      (let e := s1.seqEnt x.p x.im a.slot
       let stays : State → Prop := fun t => (∀ d, d ≠ c → t.core d = s1.core d) ∧ (s1.core c).GoesOn (t.core c) ∧
         (t.core c).ts = (s1.core c).ts ∧ (t.core c).ob = (s1.core c).ob ∧ (t.core c).ve = { (s1.core c).ve with flags := (t.core c).ve.flags }
       (s.commit.waiting = [] → s1 = { s0 with parts := s1.parts }) ∧
       (bits m.hbm 63 60 ≠ 0xB → (∀ r i, r < rows → i < (w * m.vcols + 7) / 8 → ∃ o, s0.srcPlace x m r i = .ok o) →
         (∀ b, s1.regionAt x.p b = none) →
         ∃ t, exec (.moveOut c) s = .next t ∧ stays t ∧ (s1.CachesOk → ∀ b,
           (∀ r q v, r < rows → q < m.vcols → v ∈ s0.elemPlaces x m w r q → interPhys (s1.part x.p).geo v ≠ some b) → t.hb b = s1.hb b)) ∧
       (bits m.hbm 63 60 = 0xB → slotOwned x.im a.slot = true → rows ≠ 0 → kvStale e a = true →
         ∃ t, exec (.moveOut c) s = .next t ∧ stays t ∧ (∀ b, t.hb b = s1.hb b) ∧
           (t.part x.p).rcv.fenced = satAdd 0xFFFFFFFF (s1.part x.p).rcv.fenced 1) ∧
       (bits m.hbm 63 60 = 0xB → slotOwned x.im a.slot = true → rows ≠ 0 → kvStale e a = false → a.layer < Ent.layers e →
         kvRangeOk e a.token rows = true → es = [] →
         ∃ t, exec (.moveOut c) s = .next t ∧ stays t ∧
           (t.part x.p).job.appends = (s1.part x.p).job.appends ++ [(a.slot, a.token + rows, (s1.core c).seq.curBeat)]))))

/-- MOVE_MESH with a legal descriptor, a destination core of its partition and nothing to wait for (a double error in what it reads stops
it) sends one message of the issuing beat that carries its rows, and writes nothing itself. MOVE_FIRN with legal descriptor, parameter and
addresses: compressing, outside reducer regions, only bytes of its blocks may change in HBM and the core's memories stay; decompressing,
its region's elements are written into the tile store and the count of bad blocks grows, and no byte of HBM changes, unless a shelf
refuses the message: then nothing is written and each refusal is reported. The core goes on; other cores are unchanged. [R218, R205, R206,
R200, R269, R15, R91, R227] -/
def Obligations.MeshAndFirnComplete : Prop :=
  (∀ (c src dst : Nat) (s : State) (x : Ctx), s.Issues c ⟨3, 3, 0⟩ x → x.f 127 41 = 0 → x.f 31 16 = 0 →
    (let k := s.core c
     let d := k.descriptor (x.f 15 8)
     let m := meshDesc d
     let reads := (List.range m.rows).map (fun r => (false, src + r * m.srcStride, m.rowBytes))
     meshReserved d = false → m.core < Config.cores → s.tsAddr x m.src = some src → s.tsAddr x m.dst = some dst →
     s.partOf m.core = some x.p → rangeOk src m.rows m.rowBytes m.srcStride Config.tsBytes = true →
     rangeOk dst m.rows m.rowBytes m.dstStride Config.tsBytes = true → k.draining = false → k.claimWait [x.f 15 8] = false →
     (x.f 32 32 = 1 → bit k.ready (x.f 40 33) = true) →
     s.AccessStops (.moveMesh c) c x reads [] ∧
     (k.Accesses reads [] → ∃ t msg, exec (.moveMesh c) s = .next t ∧ t = { s with cores := t.cores, msgs := s.msgs ++ [msg] } ∧
       msg.part = x.p ∧ msg.src = ⟨0, c⟩ ∧ msg.dst = ⟨0, m.core⟩ ∧ msg.beat = k.seq.curBeat ∧
       (m.rowBytes ≠ 0 → msg.land = (List.range m.rows).map
         (fun r => (⟨false, dst + r * m.dstStride, k.ts.readN (src + r * m.srcStride) m.rowBytes, []⟩ : LocalWrite))) ∧
       k.GoesOn (t.core c) ∧ (t.core c).ts = k.ts ∧ (t.core c).ob = k.ob ∧ (t.core c).ve = k.ve ∧ ∀ d, d ≠ c → t.core d = s.core d))) ∧
  (∀ (c : Nat) (s : State) (x : Ctx) (m : FirnDesc) (p : FirnParam), s.Issues c ⟨3, 5, 0⟩ x →
    x.f 127 41 = 0 → x.f 31 16 = 0 → s.firnDesc x = some (m, p) → moveWait (s.core c) x [x.f 15 8, x.f 15 8 + 1] = false →
    (let reads := if m.out then m.ranges p else []
     let writes := if m.out then [] else m.ranges p
     let s0 := s.accessed c reads writes
     s.AccessStops (.moveFirn c) c x reads writes ∧
     ((s.core c).Accesses reads writes → ∀ places, allOk (m.blocks.map (s0.firnPlaces x m p)) = .ok places → ∀ s1 es,
       s0.countShelves x (s0.firnShelves x m p) = (s1, es) →
       (s.commit.waiting = [] → s1 = { s0 with parts := s1.parts }) ∧
       (m.out = true → s0.redHeld x.p places.flatten = false → (∀ b, s1.regionAt x.p b = none) →
         ∃ t, exec (.moveFirn c) s = .next t ∧ (s1.core c).GoesOn (t.core c) ∧ (t.core c).ts = (s1.core c).ts ∧
           (t.core c).ob = (s1.core c).ob ∧ (t.core c).ve = (s1.core c).ve ∧ (∀ d, d ≠ c → t.core d = s1.core d) ∧
           (s1.CachesOk → ∀ b, (∀ v, v ∈ places.flatten → interPhys (s1.part x.p).geo v ≠ some b) → t.hb b = s1.hb b)) ∧
       (m.out = false → places.flatten.any (s0.fencedX x.p) = false →
         (es ≠ [] → exec (.moveFirn c) s = .next ((s1.shelfRefuse x es).advance c)) ∧
         (es = [] → ∃ t, exec (.moveFirn c) s = .next t ∧
           (let s2 := s1.loadAt x.p 1 places.flatten
            let r := (s2.firnIn x m p (m.blocks.zip places)).1
            (t.core c).ts = r.ts ∧ (t.core c).ob = (s1.core c).ob ∧ (t.core c).firnNonfinite = r.firnNonfinite ∧
            ({ s1.core c with firnNonfinite := r.firnNonfinite }).GoesOn (t.core c) ∧
            (t.core c).ve = { (s1.core c).ve with flags := (t.core c).ve.flags } ∧
            (∀ d, d ≠ c → t.core d = s1.core d) ∧ (s1.CachesOk → ∀ b, t.hb b = s1.hb b)))))))

/-- MESSAGE_ARRIVAL of the oldest message between two units. At a core of a partition with an admitted image: inside the core's window and
below the beat's expected count it is counted in its beat and its bytes land (a write that the core holds back joins its held writes), the
message is gone, a BEAT_WAIT in progress starts its stall clock again, and nothing else changes; late, early or surplus, it is discarded
and the core stops with its cause, beat and source recorded. At another unit it is counted, or discarded and reported. BEAT_STALL of a
core that has waited for the stall limit sets the STALL bit, sends one event and the core goes on waiting; a second evaluation changes
nothing. [R213, R210, R219, R15, R214, R79, R91] -/
def Obligations.MessagesLandOrFault : Prop :=
  (∀ (n : Nat) (s : State) (m : Msg) (im : Image), s.msgs[n]? = some m →
    (s.msgs.take n).any (fun e => e.src == m.src && e.dst == m.dst) = false → (s.part m.part).image = some im →
    (let c := m.dst.num
     let k := s.core c
     let q := k.seq
     let u : UnitId := ⟨0, contractOf (s.part m.part).geo c⟩
     let got := Cells.get (fun _ => 0) q.recv m.beat
     let seq := { q with recv := addRecv q.recv m.beat, waitFrom := if q.run = 2 then q.waitFrom.map (fun _ => s.dtb) else q.waitFrom }
     (m.dst.kind = 0 → q.curBeat ≤ m.beat → m.beat ≤ q.curBeat + q.winM1 → got < planExpect im u m.beat →
       ∃ t, exec (.messageArrival n) s = .next t ∧ t = { s with cores := t.cores, msgs := s.msgs.eraseIdx n } ∧
         (t.core c).seq = seq ∧ Cells.get (fun _ => 0) (t.core c).seq.recv m.beat = got + 1 ∧ (∀ d, d ≠ c → t.core d = s.core d) ∧
         ((∀ w, w ∈ m.land → k.holds w = false) → t.core c = { m.land.foldl Core.land k with seq := seq }) ∧
         (∀ w, m.land = [w] → k.holds w = true → (t.core c).mu.heldWrites = k.mu.heldWrites ++ [w] ∧ (t.core c).ts = k.ts ∧
           (t.core c).ob = k.ob)) ∧
     (m.dst.kind = 0 → (m.beat < q.curBeat ∨ q.curBeat + q.winM1 < m.beat ∨ planExpect im u m.beat ≤ got) →
       ∃ t, exec (.messageArrival n) s = .next t ∧ (t.core c).seq.run = 5 ∧ (t.core c).seq.faultBeat = m.beat ∧
         (t.core c).seq.cause = (if m.beat < q.curBeat then 2 else if q.curBeat + q.winM1 < m.beat then 3 else 4) ∧
         (t.core c).seq.src = m.src.num ∧ (t.core c).seq.srcKind = m.src.kind ∧
         (t.core c).ts = k.ts ∧ (t.core c).ob = k.ob ∧ (t.core c).seq.recv = q.recv ∧
         t.msgs = s.msgs.eraseIdx n ∧ t.hbm = s.hbm ∧ ∀ d, d ≠ c → t.core d = s.core d) ∧
     (m.dst.kind ≠ 0 →
       let s1 := { s with msgs := s.msgs.eraseIdx n }
       let b := unitAdvance im m.dst m.beat (m.beat + 1) ((s.part m.part).job.unit m.dst)
       (∀ cause, unitCheck im m.dst b m.beat = some cause →
         exec (.messageArrival n) s = .next (s1.report m.part Config.stScheduleFault cause m.beat m.dst)) ∧
       (unitCheck im m.dst b m.beat = none → ∃ s2 : State, exec (.messageArrival n) s = .next (s2.boundary m.part m.dst) ∧
         s2 = { s1 with parts := s2.parts } ∧ (s2.part m.part).job.unit m.dst = { b with recv := addRecv b.recv m.beat })))) ∧
  (∀ (c t0 : Nat) (s : State) (x : Ctx), c < Config.cores → s.ctx c = some x → (s.core c).seq.waitFrom = some t0 →
    (s.core c).seq.run = 2 ∨ (s.core c).seq.run = 3 →
    ((s.core c).seq.stall = true → exec (.beatStall c) s = .next s) ∧
    ((s.core c).seq.stall = false → t0 + stallNs x.im ≤ s.dtb → ∃ t, exec (.beatStall c) s = .next t ∧
      t.core c = { s.core c with seq := { (s.core c).seq with stall := true } } ∧ (∀ d, d ≠ c → t.core d = s.core d) ∧
      t = { s with cores := t.cores, fns := t.fns, out := t.out }))

/-- CLAIM with legal fields, a declared counter, a patch of no descriptor that the stream uses otherwise, a free slot and no patch pending
on its descriptor opens the slot as pending and joins the end of the counter's queue. CLAIM_DONE with every earlier instruction complete
presents the slot's index and token at the counter, or does nothing where the slot is not open. The core goes on; its other claim slots,
memories, descriptors, tiles and vector engine are unchanged, as is everything outside it but the named counter. [R221, R222, R223, R224] -/
def Obligations.ClaimRowsComplete : Prop :=
  (∀ (c : Nat) (s : State) (x : Ctx), s.Issues c ⟨4, 4, 0⟩ x → x.f 127 28 = 0 → (s.core c).claims.length = 4 →
    (let k := s.core c
     let sl := x.f 27 26
     let d := k.descriptor (x.f 25 18)
     patchBad d = false → patchesOther x.im x.k d = false → (claimRec x.im (x.f 17 8)).isSome = true → (k.claim sl).isOpen = false → (k.claim sl).done = false →
     k.claimWait [x.f 25 18] = false →
     ∃ t, exec (.claim c) s = .next t ∧ t = { s with cores := t.cores, parts := t.parts } ∧ (∀ e, e ≠ c → t.core e = s.core e) ∧
       (t.core c).claim sl = { counter := x.f 17 8, isOpen := true, pending := true, patch := d } ∧
       (∀ n, n ≠ sl → (t.core c).claim n = k.claim n) ∧ t.core c = { k with claims := (t.core c).claims, seq := k.seq.next, tally := (t.core c).tally } ∧
       ((t.part x.p).counter (x.f 17 8)).queue = ((s.part x.p).counter (x.f 17 8)).queue ++ [{ core := c, slot := sl }] ∧
       (∀ n, n ≠ x.f 17 8 → (t.part x.p).counter n = (s.part x.p).counter n) ∧ ∀ p, p ≠ x.p → t.part p = s.part p)) ∧
  (∀ (c : Nat) (s : State) (x : Ctx), s.Issues c ⟨4, 5, 0⟩ x → x.f 25 8 = 0 → x.f 127 28 = 0 → s.allDone c = true →
    (s.core c).claims.length = 4 →
    (let k := s.core c
     let q := k.claim (x.f 27 26)
     (q.isOpen = false → ∃ t, exec (.claimDone c) s = .next t ∧ t = s.advance c) ∧
     (q.isOpen = true → ∃ t, exec (.claimDone c) s = .next t ∧ t = { s with cores := t.cores, parts := t.parts } ∧
       (∀ e, e ≠ c → t.core e = s.core e) ∧ (t.core c).claim (x.f 27 26) = { q with done := true } ∧
       (∀ n, n ≠ x.f 27 26 → (t.core c).claim n = k.claim n) ∧ t.core c = { k with claims := (t.core c).claims, seq := k.seq.next, tally := (t.core c).tally } ∧
       ((t.part x.p).counter q.counter).dones = ((s.part x.p).counter q.counter).dones ++
         [{ core := c, slot := x.f 27 26, idx := q.idx, tok := q.tok }] ∧ ∀ p, p ≠ x.p → t.part p = s.part p)))

/-- For a partition with an admitted image whose memory is served. CLAIM_REQUEST serves the oldest request: the lowest index to be
reissued, else the next index below LIMIT, with the counter's epoch as token; past LIMIT the slot reads EXHAUSTED and closes.
CLAIM_DONE_ACCEPT of a presentation whose ledger entry is claimed by its core under its token takes its held contributions out of the
counter; any other presentation is discarded and counted and no byte of HBM changes. CLAIM_LEASE_EXPIRY changes nothing before the lease
has run out; after it, a claim still open is given back for reissue under a new epoch, with its contributions dropped. [R221, R222, R223,
R224, R225, R454] -/
def Obligations.CountersServeClaims : Prop :=
  ∀ (p n : Nat) (s : State) (im : Image), p < 16 → n < 1024 → (s.part p).image = some im → s.memHeld p = false →
    (let k := (s.part p).counter n
     (∀ (q : ClaimReq) (rest : List ClaimReq), k.queue = q :: rest → q.slot < 4 → (s.core q.core).claims.length = 4 →
       ∃ t, exec (.claimRequest p n) s = .next t ∧ ((t.part p).counter n).queue = rest ∧ (∀ d, d ≠ q.core → t.core d = s.core d) ∧
         (t.core q.core).seq = (s.core q.core).seq ∧ (t.core q.core).ts = (s.core q.core).ts ∧
         ((t.core q.core).claim q.slot).pending = false ∧
         (∀ j, j ≠ q.slot → (t.core q.core).claim j = (s.core q.core).claim j) ∧
         ((t.part p).counter n).epoch = k.epoch ∧
         (k.reissue = [] → k.next < claimLimit im n → ((t.part p).counter n).next = k.next + 1 ∧
           ((t.core q.core).claim q.slot).idx = k.next ∧ ((t.core q.core).claim q.slot).tok = k.epoch) ∧
         (k.reissue = [] → claimLimit im n ≤ k.next → ((t.part p).counter n).next = k.next ∧
           ((t.core q.core).claim q.slot).idx = 0xFFFFFFFF ∧ ((t.core q.core).claim q.slot).isOpen = false ∧ ∀ a, t.hb a = s.hb a) ∧
         (∀ i, i ∈ k.reissue → (∀ j, j ∈ k.reissue → i ≤ j) → ((t.part p).counter n).next = k.next ∧
           ((t.core q.core).claim q.slot).idx = i ∧ i ∉ ((t.part p).counter n).reissue)) ∧
     (∀ (q : ClaimReq) (rest : List ClaimReq), k.dones = q :: rest →
       ∃ t, exec (.claimDoneAccept p n) s = .next t ∧ ((t.part p).counter n).dones = rest ∧ (∀ d, d ≠ q.core → t.core d = s.core d) ∧
         (ledgerIs (s.ledger p im n q.idx) 1 q.core q.tok = true →
           ((t.part p).counter n).held = k.held.filter (fun h => !(h.idx == q.idx && h.tok == q.tok)) ∧
           ((t.part p).counter n).takenAt = k.takenAt.filter (fun e => e.1 != q.idx)) ∧
         (ledgerIs (s.ledger p im n q.idx) 1 q.core q.tok = false → (∀ a, t.hb a = s.hb a) ∧
           (t.part p).rcv.fenced = satAdd 0xFFFFFFFF (s.part p).rcv.fenced 1 ∧ ((t.part p).counter n).held = k.held)) ∧
     (∀ (i at_ : Nat), k.takenAt.find? (fun e => e.1 == i) = some (i, at_) →
       (s.dtb < at_ + claimLease im n → exec (.claimLeaseExpiry p n i) s = .next s) ∧
       (at_ + claimLease im n ≤ s.dtb → ∃ t, exec (.claimLeaseExpiry p n i) s = .next t ∧ (∀ d, t.core d = s.core d) ∧
         (bits (s.ledger p im n i) 1 0 = 1 → ((t.part p).counter n).epoch = (k.epoch + 1) % 2 ^ 32 ∧
           ((t.part p).counter n).reissue = k.reissue ++ [i] ∧ ((t.part p).counter n).held = k.held.filter (fun h => h.idx != i)) ∧
         (bits (s.ledger p im n i) 1 0 ≠ 1 → t = s))))

/-- BUCKET_SELECTION of a partition parked at its selection point, neither frozen nor stopped, with service firmware running and its
memory served: a sequence-table command leaves the queue; a run request while no weight slot is ACTIVE, or while a due switch waits for
its slot, only sets SELECT_WAIT; a run request that no bucket covers leaves the queue and the cores stay parked; otherwise the first
bucket that covers the variables is recorded with them, the signal word grows by 1, the request is open, and every parked core goes on at
the bucket's ENTRY with its loops closed. [R116, R117, R118, R119, R185, R345, R349] -/
def Obligations.BucketSelectionTakesTheRequest : Prop :=
  ∀ (p : Nat) (s : State) (im : Image) (q : Request) (rest : List Request), p < 16 → (s.part p).image = some im →
    (s.part p).job.requests = q :: rest → s.parked p = true → (s.part p).job.frozen = false → (s.part p).job.stopped = false →
    s.fw.svcRestart = false → s.fw.svcDown = false → s.memHeld p = false →
    ∃ t, exec (.bucketSelection p) s = .next t ∧
      (q.cmd ≠ 0x0202 → (t.part p).job.requests = rest) ∧
      (q.cmd = 0x0202 → ((s.part p).ws.active = none ∨ (s.part p).ws.holds (s.part p).job.nextRequest = true) →
        (t.part p).ws = { (s.part p).ws with selectWait := true } ∧ (t.part p).job = (s.part p).job ∧ ∀ c, t.core c = s.core c) ∧
      (q.cmd = 0x0202 → (s.part p).ws.active ≠ none → (s.part p).ws.holds (s.part p).job.nextRequest = false →
        (t.part p).job.requests = rest ∧ (t.part p).job.nextRequest = (s.part p).job.nextRequest + 1 ∧
        (selectBucket im (runVars q.payload) = none → (t.part p).job.opened = (s.part p).job.opened ∧ ∀ c, t.core c = s.core c) ∧
        ∀ b r, selectBucket im (runVars q.payload) = some (b, r) →
          (t.part p).job.bucket = b ∧ (t.part p).job.vars = runVars q.payload ∧ (t.part p).job.opened = some q ∧
          (t.part p).job.selSignal = (s.part p).job.selSignal + 1 ∧
          ∀ c, c ∈ s.imageCores p → (s.core c).seq.selectWait = true →
            (t.core c).seq.pc = fld r 4 4 / 16 ∧ (t.core c).seq.run = 1 ∧ (t.core c).seq.selectWait = false ∧
            (t.core c).seq.loops = [] ∧ (t.core c).seq.curBeat = (s.core c).seq.curBeat)

/-- BEAT_COMMIT of a started partition, neither stopped nor frozen, its memory served, whose next beat has been reached: where the beat
may not commit, nothing changes; where it may, and no commit waits for a unit, that beat is committed, the KV appends and the landed
results of beats up to it leave their lists and the later ones stay, and no core and no other partition changes. RUN_OUTPUT_COPY of a
request whose ending beat has committed, with memory and DMA served, every output inside the partition's memory and the transfer done: the
outputs' bytes go to the host in order, a result of a beat that has not committed left out, the request leaves the list, and no byte of
HBM and no core changes. [R215, R183, R422, R216, R319, R271] -/
def Obligations.CommitsAndOutputsComplete : Prop :=
  (∀ (p : Nat) (s : State) (im : Image), p < 16 → (s.part p).image = some im → (s.part p).job.started = true →
    (s.part p).job.stopped = false → (s.part p).job.frozen = false → s.memHeld p = false → (s.part p).job.nextCommit ≤ s.topBeat p →
    (let b := (s.part p).job.nextCommit
     (s.mayCommit p im b = false → exec (.beatCommit p) s = .next s) ∧
     (s.mayCommit p im b = true → ∃ t, exec (.beatCommit p) s = .next t ∧ (s.commit.waiting = [] →
       (t.part p).job.nextCommit = b + 1 ∧ (t.part p).job.appends = (s.part p).job.appends.filter (fun a => decide (b < a.2.2)) ∧
       (∀ l, l ∈ (t.part p).job.landed ↔ l ∈ (s.part p).job.landed ∧ ∀ n, l.beat = some n → b < n) ∧ (∀ c, t.core c = s.core c) ∧
       ∀ r, r ≠ p → t.part r = s.part r)))) ∧
  (∀ (p : Nat) (s : State) (q : Request) (b : Nat), p < 16 → s.memHeld p = false → s.dmaShut p = false →
    (s.part p).job.ending.find? (fun e => decide (e.2 < (s.part p).job.nextCommit)) = some (q, b) →
    ((runRefs q.payload).filter (fun r => r.2.2.1)).any (fun r => decide (geoBytes (s.part p).geo < r.2.1 + r.2.2.2)) = false →
    ∃ t, exec (.runOutputCopy p true) s = .next t ∧
      (t.part p).job.ending = (s.part p).job.ending.filter (fun o => o != (q, b)) ∧ (∀ c, t.core c = s.core c) ∧
      (s.CachesOk → (∀ a, t.hb a = s.hb a) ∧
        t.out.host = s.out.host ++ ((runRefs q.payload).filter (fun r => r.2.2.1)).map
          (fun r => (q.fn.port, r.1, (List.range r.2.2.2).map (fun i => s.visibleX p (r.2.1 + i))))))

/-- WIDEN_ALLOCATE for a partition with an admitted image: while a core still has a witness to check, or the memory is not served, nothing
happens; else the vote counts as applied, the monitor records are cleared, the reserve left never grows, no core changes, and no byte of
HBM outside the layer precision table's STATE, REQ and WIDEN_PASS, the widen grant table and the monitor records changes; where no layer
of another module or of this one (a dropped module's count as none) requests widening, the reserve and the deferral flag stay as they
were. One layer of the allocation takes its needs from the reserve exactly where it requests, is narrow, nothing was deferred before it
and its needs fit (a layer without needs takes nothing and is never deferred). [R97, R98, R100, R101, R102, R247] -/
def Obligations.WidenAllocateCompletes : Prop :=
  (∀ (p pass : Nat) (req : List Byte) (s : State) (im : Image), p < 16 → (s.part p).image = some im →
    (let waits : Bool := s.memHeld p || (s.imageCores p).any (fun c => (s.core c).witPending)
     (waits = true → exec (.widenAllocate p pass req) s = .next s) ∧
     (waits = false → ∃ t, exec (.widenAllocate p pass req) s = .next t ∧ (t.part p).job.votes = (s.part p).job.votes + 1 ∧
      (t.part p).job.leftTs ≤ (s.part p).job.leftTs ∧ (t.part p).job.leftHbm ≤ (s.part p).job.leftHbm ∧ (∀ c, t.core c = s.core c) ∧
      ((∀ l, l < tpLayers im.bytes → req.getD l 0 ≠ 1 ∧ (s.ownRequests p im).getD l false = false) →
        (t.part p).job.leftTs = (s.part p).job.leftTs ∧ (t.part p).job.leftHbm = (s.part p).job.leftHbm ∧
        (t.part p).job.widenDeferred = (s.part p).job.widenDeferred) ∧
      (s.CachesOk → s.NoFence → tpLayers im.bytes ≤ 1024 → ∀ l, l < tpLayers im.bytes → t.monOf p im l = {}) ∧
      (s.CachesOk → ∀ a, (∀ l, l < tpLayers im.bytes → ¬ s.Within p (im.layerAt l) 8 a ∧ ¬ s.Within p (im.grantAt l) 8 a ∧
        ¬ s.Within p (im.monAt l) 16 a) → t.hb a = s.hb a)))) ∧
  (∀ (p pass l : Nat) (im : Image) (req : Bool) (a : Alloc),
    (let st := bits (a.s.leX (a.s.part p).geo (im.layerAt l) 1) 1 0
     let fits : Bool := !a.stopped && decide (im.needTs l * 256 ≤ a.ts ∧ im.needHbm l * 65536 ≤ a.hbm)
     let free : Bool := decide (im.needTs l = 0 ∧ im.needHbm l = 0)
     let b := allocLayer p im pass req l a
     (req = true → st = 0 → fits = true → b.ts = a.ts - im.needTs l * 256 ∧ b.hbm = a.hbm - im.needHbm l * 65536 ∧ b.stopped = a.stopped) ∧
     (req = true → st = 0 → fits = false → b.ts = a.ts ∧ b.hbm = a.hbm ∧ b.stopped = (a.stopped || !free)) ∧
     (req = false ∨ st ≠ 0 → b.ts = a.ts ∧ b.hbm = a.hbm ∧ b.stopped = a.stopped)))

/-- KV_PAGE_WRITE to a slot the image holds, with memory served: with a stale generation, the write is counted as fenced and no byte
changes; outside the slot's layers or range, the access is reported and no byte changes; to a page that is mapped and not shared, only
bytes of the token's row may change. No core changes. [R181, R183, R187, R232, R454] -/
def Obligations.KvPageWriteCompletes : Prop :=
  ∀ (p addr : Nat) (data : List Byte) (s : State) (im : Image), p < 16 → (s.part p).image = some im → s.memHeld p = false → bits addr 63 60 = 0xB →
    addrForm addr = true → slotOwned im (kvAddr addr).slot = true →
    (let a := kvAddr addr
     let e := s.seqEnt p im a.slot
     let page := s.leX (s.part p).geo (Ent.listAt e a.layer (a.token / Ent.tpp e)) 4
     let row := poolPage im page + 32768 * a.half + a.token % Ent.tpp e * Ent.kw e
     (kvStale e a = true → ∃ t, exec (.kvPageWrite p addr data) s = .next t ∧ t.hbm = s.hbm ∧ t.shelves = s.shelves ∧
       (t.part p).rcv.fenced = satAdd 0xFFFFFFFF (s.part p).rcv.fenced 1 ∧ t.cores = s.cores) ∧
     (kvStale e a = false → (Ent.layers e ≤ a.layer ∨ kvRangeOk e a.token 1 = false) → ∃ t, exec (.kvPageWrite p addr data) s = .next t ∧
       t.hbm = s.hbm ∧ t.shelves = s.shelves ∧ t.cores = s.cores ∧ (t.part p).job.reports.length = (s.part p).job.reports.length + 1) ∧
     (kvStale e a = false → a.layer < Ent.layers e → kvRangeOk e a.token 1 = true → ∃ t, exec (.kvPageWrite p addr data) s = .next t ∧
       t.cores = s.cores ∧
       (page ≠ 0xFFFFFFFF → s.refs p im page ≤ 1 → s.CachesOk → ∀ b, (∀ i, i < Ent.kw e → interPhys (s.part p).geo (row + i) ≠ some b) →
         t.hb b = s.hb b)))

/-- LINK_TRAINED at a powered, cabled and enabled port that is down or training, and PORT_RETRAIN with an answering peer 10 ms after a
loss: the port reads UP, UP_UNCHECKED or MISCABLED as its position and its peer's say, knows its peer, has full credits on every channel,
sequence numbers and replay buffer at their start, and keeps its epochs and the first equaliser settings found since a cold reset; it runs
at low rate while either end is in Frost. At a port in UP_UNCHECKED LINK_TRAINED brings the peer's new position, at a port in UP or
UP_UNCHECKED that its module has entered or left Frost (the model's choice, log entry 30). PORT_RETRAIN without an answer only restarts
the 10 ms. Other ports, cores and HBM are unchanged. [R274, R275, R277, R282, R288, R290, R292] -/
def Obligations.PortsTrain : Prop :=
  ∀ (p : Nat) (q : PeerInfo) (s : State), p < 16 → s.power.off = false → s.pcie.held = false →
    (let fresh : State → Prop := fun t => (t.port p).state = s.trainedState p q ∧ (t.port p).peer = some q ∧ (t.port p).txSeq = 0 ∧
       (t.port p).rxSeq = 0 ∧ (t.port p).replay = [] ∧ (t.port p).acks = [] ∧ (t.port p).lowRate = (q.frost || s.power.state == 2) ∧
       (∀ e, (s.port p).eqFound = some e → (t.port p).eqFound = some e) ∧ (t.port p).eqFound.isSome = true ∧
       (∀ v, v < 11 → ((t.port p).vc v).credits = vcBuffers v ∧ ((t.port p).vc v).freed = 0 ∧
         ((t.port p).vc v).epoch = ((s.port p).vc v).epoch ∧ ((t.port p).vc v).out = ((s.port p).vc v).out) ∧
       (∀ k, k ≠ p → t.port k = s.port k) ∧ t.cores = s.cores ∧ t.hbm = s.hbm ∧ t.parts = s.parts
     ((s.port p).disable = false → (s.port p).cblHigh = false → (s.port p).state ≤ 1 → ∃ t, exec (.linkTrained p q) s = .next t ∧ fresh t) ∧
     ((s.port p).disable = false → (s.port p).cblHigh = false → (s.port p).state = 2 → ∃ t, exec (.linkTrained p q) s = .next t ∧
       (t.port p).state = s.trainedState p q ∧ (t.port p).peer = some q ∧ (t.port p).replay = (s.port p).replay ∧ (t.port p).lowRate = (q.frost || s.power.state == 2) ∧ t.cores = s.cores) ∧
     ((s.port p).disable = false → (s.port p).cblHigh = false → (s.port p).state = 3 → exec (.linkTrained p q) s = .next (s.setPort p { s.port p with
       lowRate := q.frost || s.power.state == 2, peer := (s.port p).peer.map (fun r => { r with frost := q.frost }) })) ∧
     ((s.port p).state = 4 → (s.port p).lossAt + 10000000 ≤ s.dtb →
       (∃ t, exec (.portRetrain p (some q)) s = .next t ∧ fresh t) ∧
       exec (.portRetrain p none) s = .next (s.setPort p { s.port p with lossAt := s.dtb })))

/-- FLIT_TRANSMIT on a live port appends at most one flit to what left the module, on that port; a due heartbeat goes first and is due
again 1,000 ns later; with no heartbeat or replay due and a full replay buffer an idle flit goes, which joins no buffer; with room, no
acknowledgement due and a message on VC 10 with a credit, the flit carries the next sequence number, joins the replay buffer and takes one
credit. (Acknowledgements and credits that were withheld are given first.) A training or miscabled port sends one training flit that names
the module, its POSITION, the port and the protocol version, and keeps its state. HEARTBEAT_SEND of a due heartbeat sends it and consumes
no sequence number. Other ports are unchanged. [R280, R281, R284, R285, R287, R275] -/
def Obligations.FlitsLeave : Prop :=
  (∀ (p : Nat) (s : State), p < 16 → s.power.off = false → s.pcie.held = false → (s.port p).up = true →
    (let x := (s.giveCredits p).port p
     ∃ t fs, exec (.flitTransmit p) s = .next t ∧ t.out.flits = s.out.flits ++ fs ∧ fs.length ≤ 1 ∧ (∀ f, f ∈ fs → f.1 = p) ∧
      (∀ k, k ≠ p → t.port k = s.port k) ∧ t.cores = s.cores ∧ t.parts = s.parts ∧ t.hbm = s.hbm ∧
      (x.hbDue ≤ s.dtb → fs.length = 1 ∧ (∀ f, f ∈ fs → (flitOf f.2).ftype = 2) ∧ (t.port p).hbDue = s.dtb + 1000 ∧
        (t.port p).txSeq = (s.port p).txSeq ∧ (t.port p).replay = (s.port p).replay) ∧
      (s.dtb < x.hbDue → x.resend = [] → x.room = false → fs.length = 1 ∧ (∀ f, f ∈ fs → (flitOf f.2).ftype = 0) ∧
        (t.port p).txSeq = (s.port p).txSeq ∧ (t.port p).replay = (s.port p).replay) ∧
      (s.dtb < x.hbDue → x.resend = [] → x.room = true → x.acks = [] → (x.vc 10).ready = true →
        (t.port p).txSeq = ((s.port p).txSeq + 1) % 2 ^ 24 ∧ ((t.port p).vc 10).credits = ((s.port p).vc 10).credits - 1 ∧
        ∃ f, fs = [(p, f)] ∧ (t.port p).replay = (s.port p).replay ++ [((t.port p).txSeq, f, s.dtb)]))) ∧
  (∀ (p : Nat) (s : State), p < 16 → s.power.off = false → s.pcie.held = false → (s.port p).state = 1 ∨ (s.port p).state = 5 →
    ∃ f, exec (.flitTransmit p) s = .next (s.emit p f) ∧ (flitOf f).ftype = 4 ∧ (flitOf f).payload = s.trainBytes p) ∧
  (∀ (p : Nat) (s : State), p < 16 → s.power.off = false → s.pcie.held = false → (s.port p).up = true → (s.port p).hbDue ≤ s.dtb →
    ∃ t f, exec (.heartbeatSend p) s = .next t ∧ t.out.flits = s.out.flits ++ [(p, f)] ∧ (flitOf f).ftype = 2 ∧
      (t.port p).hbDue = s.dtb + 1000 ∧ (t.port p).txSeq = (s.port p).txSeq ∧ (t.port p).replay = (s.port p).replay ∧
      ∀ k, k ≠ p → t.port k = s.port k)

/-- FLIT_RECEIVE on a live port. A flit with more than 8 symbols in error, or that the code cannot correct, or whose CRC or encoding is
wrong, is counted and changes nothing else. A sound data or acknowledgement flit that is a duplicate changes nothing but the count of
corrected symbols; one out of order also sets NAK. One in order advances the sequence, clears NAK and, with a wrong epoch, is counted as
fenced and dropped; the LAST flit of a message on VC 8 to 10 with the right epoch hands the whole message to firmware and has it
acknowledged; one that is not LAST is kept with the message's part. A flit that carries no sequence number changes no sequence. [R278,
R279, R280, R282, R285, R290] -/
def Obligations.FlitsAreChecked : Prop :=
  ∀ (p n : Nat) (flit : List Byte) (s : State), p < 16 → (s.port p).up = true → s.power.off = false → s.pcie.held = false →
    (let x := s.port p
     let f := flitOf flit
     let next := (x.rxSeq + 1) % 2 ^ 24
     let c := x.vc f.vc
     let b := (if f.first then [] else c.inMsg) ++ f.payload
     let lost := { x with fecUncorr := satAdd 0xFFFFFFFF x.fecUncorr 1 }
     let fixed := { x with fecCorr := satAdd 0xFFFFFFFF x.fecCorr n }
     exec (.flitReceive p flit n false) s = .next (s.setPort p lost) ∧
     (8 < n → exec (.flitReceive p flit n true) s = .next (s.setPort p lost)) ∧
     (n ≤ 8 → flitOk flit = false →
       exec (.flitReceive p flit n true) s = .next (s.setPort p { fixed with crcFail := satAdd 0xFFFFFFFF x.crcFail 1 })) ∧
     (n ≤ 8 → flitOk flit = true → f.ftype = 0 ∨ f.ftype = 4 → ∃ t, exec (.flitReceive p flit n true) s = .next t ∧
       t = { s with ports := t.ports } ∧ (∀ k, k ≠ p → t.port k = s.port k) ∧ (t.port p).rxSeq = x.rxSeq ∧ (t.port p).nak = x.nak) ∧
     (n ≤ 8 → flitOk flit = true → f.ftype = 1 ∨ f.ftype = 3 → f.seq ≠ next →
       exec (.flitReceive p flit n true) s = .next (s.setPort p { fixed with nak := x.nak || !seqLe f.seq x.rxSeq })) ∧
     (n ≤ 8 → flitOk flit = true → f.ftype = 1 → f.seq = next → ∃ t, exec (.flitReceive p flit n true) s = .next t ∧
       (f.epoch ≠ c.epoch % 256 → (t.port p).rxSeq = next ∧ (t.port p).nak = false ∧ (t.port p).fenced = satAdd 0xFFFF x.fenced 1 ∧
         ((t.port p).vc f.vc).delivered = c.delivered ∧ (8 ≤ f.vc → t = { s with ports := t.ports })) ∧
       (f.epoch = c.epoch % 256 → 8 ≤ f.vc → (f.first = true ∨ c.inOpen = true) → (t.port p).rxSeq = next ∧ (t.port p).nak = false ∧
         (f.last = true → ((t.port p).vc f.vc).delivered = c.delivered ++ [(f.beat, b)] ∧ ((t.port p).vc f.vc).inOpen = false ∧
           (t.port p).acks = x.acks ++ [(f.vc, f.beat, f.seq)]) ∧
         (f.last = false → ((t.port p).vc f.vc).delivered = c.delivered ∧ ((t.port p).vc f.vc).inMsg = b) ∧
         t = { s with ports := t.ports })))

/-- NAK_REPLAY on a live port drops the flits the acknowledgement covers and queues every other flit of the replay buffer for sending
again, in order, with its timer restarted. REPLAY_TIMEOUT does the same without an acknowledgement once the oldest flit has gone 4 µs and
no replay is under way, and nothing before. LANE_RELOCK after 16 replays without progress counts the re-lock, keeps the buffer and replays
it. No flit of the buffer is changed, and nothing else changes. [R285, R286] -/
def Obligations.ReplayKeepsTheBuffer : Prop :=
  ∀ (p : Nat) (s : State), p < 16 → (s.port p).up = true →
    (let x := s.port p
     (∀ ack, ∃ t, exec (.nakReplay p ack) s = .next t ∧ t = { s with ports := t.ports } ∧ (∀ k, k ≠ p → t.port k = s.port k) ∧
       (let left := x.replay.filter (fun r => !seqLe r.1 (ack % 2 ^ 24))
        (t.port p).replay = left.map (fun r => (r.1, r.2.1, s.dtb)) ∧ (t.port p).resend = left.map (·.1) ∧
        (t.port p).txSeq = x.txSeq ∧ (t.port p).rxSeq = x.rxSeq ∧ (t.port p).state = x.state)) ∧
     (∀ r rest, x.replay = r :: rest → x.resend = [] →
       (s.dtb < r.2.2 + 4000 → exec (.replayTimeout p) s = .next s) ∧
       (r.2.2 + 4000 ≤ s.dtb → exec (.replayTimeout p) s = .next (s.setPort p { x with
         replay := x.replay.map (fun r => (r.1, r.2.1, s.dtb)), resend := x.replay.map (·.1), replayTries := x.replayTries + 1 }))) ∧
     (16 ≤ x.replayTries → exec (.laneRelock p) s = .next (s.setPort p { x with
         replay := x.replay.map (fun r => (r.1, r.2.1, s.dtb)), resend := x.replay.map (·.1), replayTries := 0, relocks := x.relocks + 1 })) ∧
     (x.replayTries < 16 → exec (.laneRelock p) s = .next s))

/-- HEARTBEAT_RECEIVE on a live port notes the time, the peer's STATE and HOPS and both stamps, and the port stays as it is. PEER_LOST
changes nothing while a heartbeat came within 4,250 ns; later the port is LOST, counts the loss, holds no flit for replay and has the next
epoch on each collective channel. BEAT_ACK_DEADLINE counts one late acknowledgement, takes it from the list, and advances those epochs
while the link stays as it was. DEPARTURE_NOTICE notes the departure and appends one journal entry. [R287, R288, R289, R290, R443] -/
def Obligations.PeersAreTracked : Prop :=
  ∀ (p : Nat) (s : State), p < 16 → (s.port p).up = true →
    (let x := s.port p
     (∀ hb : Heartbeat, s.power.off = false → s.pcie.held = false → ∃ t, exec (.heartbeatReceive p hb) s = .next t ∧
       (t.port p).hbRecv = s.dtb ∧ (t.port p).hbPrevTx = hb.tSend ∧ (t.port p).hbPrevRx = hb.arrival ∧ (t.port p).state = x.state ∧
       (t.port p).vcs = x.vcs ∧ (∀ k, k ≠ p → t.port k = s.port k) ∧ t.cores = s.cores ∧ t.parts = s.parts ∧ t.hbm = s.hbm) ∧
     (s.dtb < x.hbRecv + 4250 → exec (.peerLost p) s = .next s) ∧
     (x.hbRecv + 4250 ≤ s.dtb → ∃ t, exec (.peerLost p) s = .next t ∧ (t.port p).state = 4 ∧ (t.port p).lossAt = s.dtb ∧
       (t.port p).losses = satAdd 0xFFFF x.losses 1 ∧ (t.port p).replay = [] ∧ (t.port p).peer = x.peer ∧
       (∀ v, v < 8 → ((t.port p).vc v).epoch = ((x.vc v).epoch + 1) % 256) ∧ (∀ k, k ≠ p → (t.port k).state = (s.port k).state) ∧
       t.cores = s.cores ∧ t.hbm = s.hbm) ∧
     (∀ v, v < 11 → (∃ e d, (e, some d) ∈ (x.vc v).unacked ∧ d ≤ s.dtb) → ∃ t, exec (.beatAckDeadline p v) s = .next t ∧
       (t.port p).ackLate = satAdd 0xFFFF x.ackLate 1 ∧ ((t.port p).vc v).unacked.length + 1 = (x.vc v).unacked.length ∧ (t.port p).state = x.state ∧ (t.port p).replay = x.replay ∧
       (∀ w, w < 8 → ((t.port p).vc w).epoch = ((x.vc w).epoch + 1) % 256) ∧ (∀ k, k ≠ p → t.port k = s.port k) ∧
       t.cores = s.cores ∧ t.hbm = s.hbm) ∧
     (∃ t, exec (.departureNotice p) s = .next t ∧ (t.port p).departed = true ∧ t.port p = { x with departed := true } ∧
       (∀ k, k ≠ p → t.port k = s.port k) ∧ t.fw.nextSeq = s.fw.nextSeq + 1 + (if s.fw.journal.length + 2 ≤ journalCap then 0 else 1) ∧
       t.cores = s.cores ∧ t.parts = s.parts))

/-- An empty queue's clock edge adds 9, 10 or 11 to the DTB modulo 2^64, 10 except on the last edge of every 100 (the model's tick, log
entry 1), and changes nothing else but the list of wrong bits of a core's memories (log entry 43). DTB_BROADCAST brings every one of the
19 copies to the broadcast count unless it is ahead. PPS_EDGE at a grandmaster with PPS_EN: a lost DTB, no live peer reporting a valid
one, steps to the next whole second, else the DTB is not stepped and the offset becomes the median of the last 8 (a middle rounded towards
0 is the model's choice, log entry 15). DTB_PARENT_TIMEOUT of a locked module without a parent for 100 µs leaves LOCKED and counts it
once; earlier it changes nothing. [R26, R295, R296, R297] -/
def Obligations.TimeBaseRuns : Prop :=
  (∀ s : State, s.pending = [] → s.power.off = false → s.power.state ≠ 3 → ∃ t d, step s = .next t ∧ t = { s with time := t.time, cores := t.cores, freeCtr := t.freeCtr } ∧
    (∀ c, t.core c = { s.core c with upsets := (t.core c).upsets }) ∧
    t.time.dtb = (s.time.dtb + d) % 2 ^ 64 ∧ 9 ≤ d ∧ d ≤ 11 ∧ (s.time.slewEdge ≠ 99 → d = 10)) ∧
  (∀ s : State, s.power.off = false → s.power.state ≠ 3 → ∃ t, exec .dtbBroadcast s = .next t ∧ t = { s with time := t.time } ∧
    t.time = { s.time with copies := t.time.copies } ∧ ∀ k, k < 19 → t.time.copy k = max s.time.dtb (s.time.copy k)) ∧
  (∀ s : State, s.time.isGm = true → s.time.ppsEn = true → s.power.off = false → s.pcie.held = false → s.time.dtb + 1000000000 < 2 ^ 64 →
    ∃ t, exec .ppsEdge s = .next t ∧ t.time.ppsSeen = true ∧ t.time.ppsDtb = t.time.dtb ∧
      (s.time.dtbLost = true → (∀ n, n ∈ s.time.nbrs → n.2.1 = 0 ∨ (s.port n.1).up = false) → t.time.dtb % 1000000000 = 0 ∧ s.time.dtb ≤ t.time.dtb ∧
        t.time.dtb < s.time.dtb + 1000000000 ∧ t.time.dtbLost = false) ∧
      (s.time.dtbLost = false ∨ (∃ n, n ∈ s.time.nbrs ∧ n.2.1 ≠ 0 ∧ (s.port n.1).up = true) → t.time.dtb = s.time.dtb ∧ t.time.offset = median (t.time.thetas.map (·.2)) ∧
        t.time.thetas.length ≤ 8)) ∧
  (∀ s : State, s.time.locked = true → s.time.parentPort = none → s.time.isGm = false →
    (s.time.dtb < s.time.noParentSince + 100000 → exec .dtbParentTimeout s = .next s) ∧
    (s.time.noParentSince + 100000 ≤ s.time.dtb → ∃ t, exec .dtbParentTimeout s = .next t ∧ t.time.locked = false ∧
      t.time.unlocks = satAdd 0xFFFF s.time.unlocks 1 ∧ t.time.dtb = s.time.dtb ∧ t.ports = s.ports ∧ t.cores = s.cores ∧ t.parts = s.parts))

/-- For ALL_REDUCE, REDUCE_SCATTER, ALL_GATHER, P2P_SEND and P2P_RECV with a legal encoding, descriptor and group and nothing at the core
to wait for: on a busy channel the core waits and the hold begins; an instance outside its window waits; a double error in what the
hand-off reads stops it; a late, early or surplus count at the group unit stops the core with its cause. Else, with an instance not
completed, of which it covers no element too often and meets no open record of another beat: the core goes on with its memories and
registers as they were, and no other core changes. Where the instance has not started, it holds the contribution (ordinal, first index,
the elements read below CAP) and its beat, the posted range of a receiving hand-off, and the core. [R305, R306, R307, R308, R309, R310,
R330, R208, R227, R246] -/
def Obligations.HandOffsComplete : Prop :=
  ∀ (i : Instr) (rw : Row) (c g me : Nat) (s : State) (x : Ctx) (r : List Byte) (d : CollDesc),
    i ∈ [Instr.allReduce c, .reduceScatter c, .allGather c, .p2pSend c, .p2pRecv c] → coreRow i = some (rw, c) → s.Issues c rw x →
    x.f 23 16 = g → groupRec x.im g = some r → s.member x.p x.im r = some me →
    (let k := s.core c
     let raw := k.descriptor (x.f 15 8)
     let q := handPseq x k.seq
     let ch := x.im.chan (Gr.vcOrd r)
     let reads := if x.f 67 67 = 1 then handReads r d else []
     let s0 := s.accessed c reads []
     let els := if x.f 67 67 = 1 then handElems k (Gr.elemFmt r) d else []
     let keep := (els.zipIdx.filter (fun e => d.elem0 + e.2 < Gr.cap r)).map (·.1)
     let old := ((s.grp x.p g).inst q).getD { seq := q }
     let I0 := if old.cores.isEmpty then { old with beat := k.seq.curBeat } else old
     s.handDesc x r (collDesc raw) = some d → collReserved raw = false → s.handIllegal x r me d = false → k.draining = false →
     k.claimWait [x.f 15 8] = false → (x.f 69 69 = 1 → bit k.ready (x.f 77 70) = true) →
     (s.chanBusy x.p g x.im (Gr.vcOrd r) = true → ∃ t, exec i s = .next t ∧ t = { s with chans := t.chans } ∧
       (t.chan ch).holdFrom = some (((s.chan ch).holdFrom).getD s.dtb)) ∧
     (s.chanBusy x.p g x.im (Gr.vcOrd r) = false → ((s.grp x.p g).isStarted q || (s.grp x.p g).mayStart (Gr.window r) q) = false →
       exec i s = .next s) ∧
     (s.chanBusy x.p g x.im (Gr.vcOrd r) = false → ((s.grp x.p g).isStarted q || (s.grp x.p g).mayStart (Gr.window r) q) = true →
       s.AccessStops i c x reads [] ∧
       (k.Accesses reads [] →
        (∀ cause, s0.countUnit x.p ⟨3, g⟩ k.seq.curBeat = .error cause → exec i s = .next (s0.handFault x g cause)) ∧
        (∀ s1, s0.countUnit x.p ⟨3, g⟩ k.seq.curBeat = .ok s1 → (s.grp x.p g).isDone q = true → exec i s = .next (s1.handFault x g 2)) ∧
        (∀ s1, s0.countUnit x.p ⟨3, g⟩ k.seq.curBeat = .ok s1 → (s.grp x.p g).isDone q = false →
         (∀ e, e < keep.length → isSurplus r I0 (x.f 93 78) (d.elem0 + e) = false ∧ offBeat r I0 k.seq.curBeat (d.elem0 + e) = false) →
         ∃ t, exec i s = .next t ∧ k.GoesOn (t.core c) ∧ (t.core c).ts = k.ts ∧ (t.core c).ob = k.ob ∧ (t.core c).ve = k.ve ∧
          (∀ e, e ≠ c → t.core e = s.core e) ∧
          ((s.grp x.p g).isStarted q = false → ∃ I, (t.grp x.p g).inst q = some I ∧ I.beat = I0.beat ∧ c ∈ I.cores ∧
           I.contrib = I0.contrib ++ (if keep.isEmpty then [] else [(x.f 93 78, d.elem0, keep)]) ∧
           I.beats = I0.beats ++ (if keep.isEmpty then [] else [k.seq.curBeat]) ∧
           I.posted = (if x.f 68 68 = 1 then I0.posted ++ [⟨c, d.dstOb, d.dst, d.dstScale, d.elem0, d.count, d.flag, false⟩] else I0.posted) ∧
           I.got = I0.got ∧ I.results = I0.results ∧ I.failed = I0.failed)))))

/-- For a declared group with an instance handed off and not started: outside the window nothing changes; on a busy channel only the
channel's hold begins or goes on; else the lowest waiting instance is started, the channel shows the highest started and its group, and
the early arrivals of that instance have left the channel's buffer. No core changes. [R309, R328, R329, R330] -/
def Obligations.InstanceStartCompletes : Prop :=
  ∀ (p g q : Nat) (s : State) (im : Image) (r : List Byte), p < 16 → g < 256 → (s.part p).image = some im → groupRec im g = some r →
    (s.grp p g).waiting = some q →
    (let ch := im.chan (Gr.vcOrd r)
     ((s.grp p g).mayStart (Gr.window r) q = false → exec (.instanceStart p g) s = .next s) ∧
     ((s.grp p g).mayStart (Gr.window r) q = true → s.chanBusy p g im (Gr.vcOrd r) = true → ∃ t, exec (.instanceStart p g) s = .next t ∧
       t = { s with chans := t.chans } ∧ (t.chan ch).holdFrom = some (((s.chan ch).holdFrom).getD s.dtb) ∧
       (t.chan ch).started = (s.chan ch).started) ∧
     ((s.grp p g).mayStart (Gr.window r) q = true → s.chanBusy p g im (Gr.vcOrd r) = false → ∃ t, exec (.instanceStart p g) s = .next t ∧
       (t.grp p g).isStarted q = true ∧ (t.grp p g).started = some (max (((s.grp p g).started).getD 0) q) ∧
       (t.chan ch).started = max (((s.grp p g).started).getD 0) q ∧ (t.chan ch).group = g ∧
       (t.chan ch).early = (s.chan ch).early.filter (fun e => !(e.2.1.group == g && e.2.1.pseq == q)) ∧ ∀ c, t.core c = s.core c))

/-- COLLECTIVE_MESSAGE on a channel with nothing held: unbound, nothing changes; of a group the channel does not carry, or of a reserved
kind, it is reported and dropped; on a busy channel it joins the held messages; of a completed instance it is reported as late; beyond the
instance window the channel counts an order skew; of a beat below the group unit's that its instance does not hold, or beyond its window,
it is reported; of an instance inside the window that has not started it joins the early arrivals, and of one below the highest started it
lands; a point-to-point message that the port's plan counts and refuses is reported there. ORDER_SKEW_TIMEOUT with no message held: no
hold or a hold below 20 µs changes nothing, a hold that still stands after 20 µs is counted and reported once, and one whose channel is
free ends (the model's choice). No core changes while no commit waits. [R309, R320, R328, R329, R330, R331, R213] -/
def Obligations.CollectiveMessagesAreSorted : Prop :=
  (∀ (port ch beat : Nat) (h : CollHeader) (b : List Byte) (s : State), port < 16 → ch < 8 → beat < 2 ^ 48 → (s.chan ch).heldMsgs = [] →
    ∃ t, exec (.collectiveMessage port ch h beat b) s = .next t ∧ (s.commit.waiting = [] → ∀ c, t.core c = s.core c) ∧
      ((s.chan ch).bound = false → t = s) ∧
      ∀ im, (s.chan ch).bound = true → (s.part (s.chan ch).owner).image = some im →
        (let p := (s.chan ch).owner
         (groupRec im h.group = none → (t.part p).job.reports = (s.part p).job.reports ++ [(Config.stScheduleFault, 0, beat, 2 * 65536 + port)] ∧
           t.chans = s.chans ∧ t.groups = s.groups) ∧
         ∀ r, groupRec im h.group = some r →
           ((im.chan (Gr.vcOrd r) ≠ ch ∨ 4 ≤ h.kind) →
             (t.part p).job.reports = (s.part p).job.reports ++ [(Config.stScheduleFault, 0, beat, 2 * 65536 + port)] ∧
             t.chans = s.chans ∧ t.groups = s.groups) ∧
           (im.chan (Gr.vcOrd r) = ch → h.kind < 4 → s.chanBusy p h.group im (Gr.vcOrd r) = true →
             (t.chan ch).heldMsgs = [(port, h, beat, b)] ∧ (t.chan ch).holdFrom = some (((s.chan ch).holdFrom).getD s.dtb) ∧
             t.groups = s.groups) ∧
           (im.chan (Gr.vcOrd r) = ch → h.kind < 4 → s.chanBusy p h.group im (Gr.vcOrd r) = false →
             (let x := s.grp p h.group
              let s0 := match x.started with | some n => n + 1 | none => 0
              let u : UnitId := ⟨3, h.group⟩
              let cur := (unitAdvance im u beat (beat + 1) ((s.part p).job.unit u)).cur
              let own : Bool := match x.inst h.pseq with | some I => !I.cores.isEmpty && I.beat == beat | none => false
              let fault : Nat → Nat → Prop := fun cause src => (t.part p).job.reports = (s.part p).job.reports ++
                [(Config.stScheduleFault, cause, beat, src)] ∧ t.chans = s.chans ∧ t.groups = s.groups
              let plain : Prop := Gr.op r ≠ 3 ∨ planHas im ⟨2, port⟩ = false
              (x.isDone h.pseq = true → fault 2 (3 * 65536 + h.group)) ∧
              (s0 + Gr.window r ≤ h.pseq → (t.chan ch).skewReports = satAdd 0xFFFF (s.chan ch).skewReports 1 ∧ t.groups = s.groups) ∧
              (x.isDone h.pseq = false → h.pseq < s0 + Gr.window r → beat < cur → own = false → fault 2 (3 * 65536 + h.group)) ∧
              (x.isDone h.pseq = false → h.pseq < s0 + Gr.window r → cur ≤ beat ∨ own = true → cur + planWin im u < beat →
                fault 3 (3 * 65536 + h.group)) ∧
              (x.isDone h.pseq = false → h.pseq < s0 + Gr.window r → cur ≤ beat ∨ own = true → beat ≤ cur + planWin im u →
                (plain → s0 ≤ h.pseq → (t.chan ch).early = (s.chan ch).early ++ [(port, h, beat, b)] ∧ t.groups = s.groups) ∧
                (plain → h.pseq < s0 → t = s.landStage p im r h beat b) ∧
                (¬ plain → ∀ cause, s.countUnit p ⟨2, port⟩ beat = .error cause → fault cause (2 * 65536 + port)))))) ) ∧
  (∀ (ch : Nat) (s : State), ch < 8 → (s.chan ch).heldMsgs = [] → ∃ t, exec (.orderSkewTimeout ch) s = .next t ∧ (∀ c, t.core c = s.core c) ∧
    ((s.chan ch).holdFrom = none → t = s) ∧
    ∀ t0, (s.chan ch).holdFrom = some t0 →
      (s.stillHeld ch = false → (t.chan ch).holdFrom = none ∧ t.parts = s.parts) ∧
      (s.stillHeld ch = true → s.dtb < t0 + 20000 → t = s) ∧
      (s.stillHeld ch = true → t0 + 20000 ≤ s.dtb → (t.chan ch).holdFrom = none ∧
        (t.chan ch).skewReports = satAdd 0xFFFF (s.chan ch).skewReports 1 ∧
        (t.part (s.chan ch).owner).job.reports = (s.part (s.chan ch).owner).job.reports ++
          [(Config.stOrderSkew, 0, 0xFFFFFFFFFFFF, 3 * 65536 + (s.chan ch).holdGroup)]))

/-- RESULT_DELIVERY of the n-th posted range that awaits delivery: before its results are here nothing changes; with its flag still set
only the channel's FLAG_WAIT is set; else the packed results, with their scales, are written at the posting core, and its flag is set
where the group is not a background group. The core's other flags, its sequencer, descriptors and tiles, and every other core are
unchanged. [R321, R322, R323, R324] -/
def Obligations.ResultDeliveryCompletes : Prop :=
  ∀ (p g n q at_ : Nat) (s : State) (im : Image) (r : List Byte) (I : Instance) (post : Posted), p < 16 → g < 256 →
    (s.part p).image = some im → groupRec im g = some r → (s.grp p g).awaiting[n]? = some (q, at_, post) → (s.grp p g).inst q = some I →
    (let c := post.core
     let ch := im.chan (Gr.vcOrd r)
     (s.deliverable p g im r I post = false → exec (.resultDelivery p g n) s = .next s) ∧
     (s.deliverable p g im r I post = true → Gr.overlap r = false → bit (s.core c).ready post.flag = true →
       exec (.resultDelivery p g n) s = .next (s.setChan ch { s.chan ch with flagWait := true })) ∧
     (s.deliverable p g im r I post = true → Gr.overlap r = true ∨ bit (s.core c).ready post.flag = false →
       ∃ t, exec (.resultDelivery p g n) s = .next t ∧ (∀ d, d ≠ c → t.core d = s.core d) ∧
         (let k1 := (s.core c).landAll (postedWrites r I post)
          t.core c = { k1 with ready := (t.core c).ready } ∧ (t.core c).seq = (s.core c).seq ∧ (t.core c).desc = (s.core c).desc ∧
          ∀ j, bit (t.core c).ready j = (bit (s.core c).ready j || (!Gr.overlap r && decide (j = post.flag)))) ∧
         (t.chan ch).flagWait = false))

/-- CACHE_ACCESS of a partition inside the address space: a shelf whose stack is halted or waits to cool takes nothing; an address of a
group the partition does not own, or of a fenced pseudo-channel, is reported and changes nothing else. A read of any class without errors
answers the bytes at the address, up to the end of the line, and changes no byte. A write without errors changes no byte of HBM but those
its masks name inside the line, each to its old bits with the masked ones replaced (outside reducer regions, whose words only reducers
change). REDUCER_OP with an operation its format has, at a word whose shelf serves and nothing fences, in a window that serves the
partition's reducers, answers the old word, writes the new one and only its bytes, and leaves every core as it is. [R252, R253, R254,
R255, R256, R257, R258, R268, R269, R271, R272, R125] -/
def Obligations.BankRequestsComplete : Prop :=
  (∀ (p cls : Nat) (a : PhysAddr) (req : CacheReq) (ev : MemEvent) (s : State), p < 16 → cls < 4 → a.group < 64 → a.off < Config.groupBytes →
    (let f := flat a.group a.off
     let sh := s.shelf (shelfOf f)
     (sh.halted = true ∨ sh.waitCool = true → exec (.cacheAccess p cls a req ev) s = .next s) ∧
     (sh.halted = false → sh.waitCool = false → bit (s.part p).geo.groups a.group = false →
       exec (.cacheAccess p cls a req ev) s = .next (s.report p Config.stAccessRights 0 0xFFFFFFFFFFFF ⟨1, shelfOf f⟩)) ∧
     (sh.halted = false → sh.waitCool = false → bit (s.part p).geo.groups a.group = true → s.isFenced f = true →
       exec (.cacheAccess p cls a req ev) s = .next (s.report p Config.stHbmFenced 0 0xFFFFFFFFFFFF ⟨1, shelfOf f⟩)) ∧
     (sh.halted = false → sh.waitCool = false → bit (s.part p).geo.groups a.group = true → s.isFenced f = false →
       ev.parityFails = 0 → ev.onDie = 0 → ev.cacheEcc = 0 →
       (∀ n, req = .read n → ∃ t, exec (.cacheAccess p cls a req ev) s = .next t ∧ t.cores = s.cores ∧ t.parts = s.parts ∧
         (s.CachesOk → t.out.readData = leNat ((List.range (min n (128 - f % 128))).map (fun i => s.hb (f + i))) ∧ ∀ b, t.hb b = s.hb b)) ∧
       (∀ ds, req = .write ds → ∃ t, exec (.cacheAccess p cls a req ev) s = .next t ∧ t.cores = s.cores ∧ t.parts = s.parts ∧
         (s.CachesOk →
          (∀ b, (∀ i v, i < min ds.length (128 - f % 128) → ds[i]? = some v → v.2 ≠ 0 → b ≠ f + i) → t.hb b = s.hb b) ∧
          ∀ i v, i < min ds.length (128 - f % 128) → ds[i]? = some v → s.regionAt p (f + i) = none →
            t.hb (f + i) = ((v.1 &&& v.2) ||| (s.hb (f + i) &&& ~~~v.2))))))) ∧
  (∀ (p op wide a b addr f : Nat) (s : State), p < 16 → reducerOk op wide = true → interPhys (s.part p).geo addr = some f →
    s.shelfHeld (shelfOf f) = false → (op ≤ 3 → s.redShut p = false) → s.isFenced f = false →
    ∃ t, exec (.reducerOp p op wide a b addr) s = .next t ∧ (∀ c, t.core c = s.core c) ∧
      t.out.readData = s.leX (s.part p).geo addr (opBytes wide) ∧
      (s.CachesOk → (∀ b, ¬ s.Within p addr (opBytes wide) b → t.hb b = s.hb b) ∧
        (s.NoFence → (∀ i, i < opBytes wide → (interPhys (s.part p).geo (addr + i)).isSome = true ∧ s.fixedAt p (addr + i) = false) →
          t.leX (s.part p).geo addr (opBytes wide) =
            reducerNew op (opFmt wide) (opBytes wide) (s.leX (s.part p).geo addr (opBytes wide)) a b % 256 ^ opBytes wide)))

/-- GLACIER_ADD to a glacier element whose record is empty or of the same beat: with more contributions still expected, its 64-byte record
takes the contribution, no other byte changes and the element is open; one of another beat, or to a region that expects none, is a
schedule fault of the shelf and changes no byte; ORDERED_SUM_CONTRIB with an ordinal not seen and more still expected: only its record's
bytes may change and the ordinal is noted; an ordinal seen before is a schedule fault of the shelf and changes no byte.
SHELF_THERMAL_EVALUATION of a running stack below 105 °C records its last temperature and steps the throttle by its highest as Table 12.7
says; at 105 °C the stack halts and its dirty lines are gone; a halted stack stays halted. No core changes. [R260, R261, R262, R263, R271,
R272] -/
def Obligations.ShelfEventsComplete : Prop :=
  (∀ (k e i x beat : Nat) (s : State) (g : Region), k < 8 → e < 256 → s.regionEntry k e 4 i = some g →
    (let old := glOf (s.readF (g.recAt i) 64)
     let v := (decodeCode g.src (x % 2 ^ fmtWidth g.src)).1
     ∃ t, exec (.glacierAdd k e i x beat) s = .next t ∧ (∀ c, t.core c = s.core c) ∧
       (old.count = 0 ∨ old.beat = beat % 2 ^ 48 → g.expect ≠ 0 → old.count + 1 ≠ g.expect →
         (e, i) ∈ (t.shelf k).glOpen ∧
         (s.CachesOk → s.NoFence → t.readF (g.recAt i) 64 = (old.add v (beat % 2 ^ 48)).bytes) ∧
         (s.CachesOk → ∀ b, (b < g.recAt i ∨ g.recAt i + 64 ≤ b) → t.hb b = s.hb b)) ∧
       (g.expect = 0 ∨ (old.count ≠ 0 ∧ old.beat ≠ beat % 2 ^ 48) → (∀ b, t.hb b = s.hb b) ∧
         (t.part g.owner).job.reports.length = (s.part g.owner).job.reports.length + 1))) ∧
  (∀ (k e i ord x beat : Nat) (s : State) (g : Region), k < 8 → e < 256 → s.regionEntry k e 5 i = some g →
    (let seen := ((s.shelf k).ordSeen.filter (fun o => o.1 == e && o.2.1 == i)).map (·.2.2)
     let at_ := g.ordAt i
     ∃ t, exec (.orderedSumContrib k e i ord x beat) s = .next t ∧ (∀ c, t.core c = s.core c) ∧
       (ord < g.expect → ord ∉ seen → seen = [] ∨ s.leF (at_ + 4) 6 = beat % 2 ^ 48 → seen.length + 1 ≠ g.expect →
         (e, i, ord) ∈ (t.shelf k).ordSeen ∧ (s.CachesOk → ∀ b, (b < at_ ∨ at_ + 16 + 4 * g.expect ≤ b) → t.hb b = s.hb b)) ∧
       (ord ∈ seen → (∀ b, t.hb b = s.hb b) ∧ (t.part g.owner).job.reports.length = (s.part g.owner).job.reports.length + 1))) ∧
  (∀ (k : Nat) (t0 : Int) (rest : List Int) (s : State), k < 8 → s.power.off = false → s.power.state ≠ 3 →
    (let tmp := rest.foldl max t0
     let sh := s.shelf k
     ∃ t, exec (.shelfThermalEvaluation k (t0 :: rest)) s = .next t ∧ (∀ c, t.core c = s.core c) ∧ (t.shelf k).temp = min 255 ((rest.getLast?).getD t0).toNat ∧
       (sh.halted = true → (t.shelf k).halted = true ∧ (t.shelf k).step = sh.step) ∧
       (sh.halted = false → 105 ≤ tmp → (t.shelf k).halted = true ∧ (∀ l, l ∈ (t.shelf k).cache → l.dirty.any id = false) ∧
         t.power.fatal = true ∧ t.hbm = s.hbm) ∧
       (sh.halted = false → tmp < 105 → (t.shelf k).halted = false ∧ (t.shelf k).cache = sh.cache ∧ t.hbm = s.hbm ∧
         (85 ≤ tmp → (t.shelf k).step = (if tmp < 95 then min 3 (sh.step + 1) else max 2 (min 3 (sh.step + 1)))) ∧
         (80 ≤ tmp → tmp < 85 → (t.shelf k).step = sh.step) ∧
         (tmp < 80 → (t.shelf k).step = (if 9 ≤ sh.below80 then sh.step - 1 else sh.step)) ∧
         (95 ≤ tmp → (t.shelf k).refreshX2 = true) ∧ (tmp < 92 → (t.shelf k).refreshX2 = false))))

/-- HOST_CHUNK_READ of a chunk that a load which does not forward keeps: a failed access ends the load with ST_DMA_ERROR and a wrong
checksum with ST_LOAD_CHECK, the slot empty; a right one writes the bytes at their place in the slot, and the load goes on with one more
chunk kept or, with its last, ends with ST_OK, the slot ACTIVE where no slot was and else LOADED. A LOAD_DATA_MESSAGE, LOAD_ABORT_MESSAGE
or LOAD_END_MESSAGE that no load over a link with its LOAD_ID takes is held; a piece of a chunk joins the pieces of its load; an abort
taken ends the load with ST_LOAD_ABORTED and an end taken is noted. LOAD_COMPANION_TIMEOUT and LOAD_HOLD_TIMEOUT act after 100 ms and not
before. Cores are unchanged. [R336, R339, R340, R342, R343, R344] -/
def Obligations.LoadRowsComplete : Prop :=
  (∀ (p port c crc : Nat) (b : List Byte) (s : State) (im : Image) (l : Load), p < 16 → port < 2 → (s.part p).image = some im →
    (s.part p).ws.load = some l → Ld.link l.desc = false → Ld.forward l.desc = false → Ld.dual l.desc = false → l.cmd.1.port = port →
    c < Ld.chunks l.desc → Ld.keeps l.desc c = true → l.seen.contains c = false → l.ready = [] → l.fwd = Ld.fwdCount l.desc →
    b.length = Ld.chunkLen l.desc c →
    (let d := l.desc
     let w := (s.part p).ws
     let u := s.writeX p (w.base im (Ld.slot d) + (c - Ld.keepFirst d) * 2 ^ Ld.log2 d) b
     (∃ t, exec (.hostChunkRead p port c none crc) s = .next t ∧ t.cores = s.cores ∧ t.hbm = s.hbm ∧ (t.part p).ws.load = none ∧
       (t.part p).ws.lastStatus = Config.stDmaError ∧ (t.part p).ws.stOf (Ld.slot d) = 0) ∧
     (crc32c b ≠ crc % 2 ^ 32 → ∃ t, exec (.hostChunkRead p port c (some b) crc) s = .next t ∧ t.cores = s.cores ∧ t.hbm = s.hbm ∧
       (t.part p).ws.load = none ∧ (t.part p).ws.lastStatus = Config.stLoadCheck ∧ (t.part p).ws.stOf (Ld.slot d) = 0 ∧
       (t.part p).ws.crcFails = satAdd 0xFF w.crcFails 1) ∧
     (crc32c b = crc % 2 ^ 32 → ∃ t, exec (.hostChunkRead p port c (some b) crc) s = .next t ∧ t.cores = s.cores ∧ t.hbm = u.hbm ∧
       t.shelves = u.shelves ∧ (t.part p).ws.chunksKept = (w.chunksKept + 1) % 2 ^ 32 ∧
       (l.kept + 1 ≠ Ld.keepCount d → (t.part p).ws.load = some { l with seen := l.seen ++ [c], kept := l.kept + 1 } ∧
         (t.part p).ws.stOf (Ld.slot d) = w.stOf (Ld.slot d)) ∧
       (l.kept + 1 = Ld.keepCount d → (t.part p).ws.load = none ∧ (t.part p).ws.lastStatus = Config.stOk ∧
         (t.part p).ws.stOf (Ld.slot d) = (if w.active.isNone then 3 else 2))))) ∧
  (∀ (p : Nat) (h : LoadHeader) (b : List Byte) (s : State), p < 16 → ∃ t, exec (.loadDataMessage p h b) s = .next t ∧ t.cores = s.cores ∧
    (s.loadTakes p h.loadId = false → t = { s with parts := t.parts } ∧ (t.part p).ws.load = (s.part p).ws.load ∧
      (t.part p).ws.held = (s.part p).ws.held ++ [({ h with kind := 0 }, b)]) ∧
    ∀ im l, (s.part p).image = some im → (s.part p).ws.load = some l → Ld.link l.desc = true → Ld.id l.desc = h.loadId →
      l.seen.contains h.chunk = false → h.chunk < Ld.chunks l.desc →
      ((l.pieces.filter (fun q => q.1 == h.chunk)).foldl (fun n q => n + q.2.2.length) 0) + b.length < Ld.chunkLen l.desc h.chunk →
      t = { s with parts := t.parts } ∧ (t.part p).ws.load = some { l with pieces := l.pieces ++ [(h.chunk, h.first, b)] }) ∧
  (∀ (p id : Nat) (s : State), p < 16 → s.loadTakes p id = false →
    (∃ t, exec (.loadAbortMessage p id) s = .next t ∧ t = { s with parts := t.parts } ∧ (t.part p).ws.load = (s.part p).ws.load ∧
      (t.part p).ws.held = (s.part p).ws.held ++ [(⟨id, 1, 0, 0, 0, 0⟩, [])]) ∧
    (∃ t, exec (.loadEndMessage p id) s = .next t ∧ t = { s with parts := t.parts } ∧ (t.part p).ws.load = (s.part p).ws.load ∧
      (t.part p).ws.held = (s.part p).ws.held ++ [(⟨id, 2, 0, 0, 0, 0⟩, [])])) ∧
  (∀ (p id : Nat) (s : State) (im : Image) (l : Load), p < 16 → (s.part p).image = some im → (s.part p).ws.load = some l →
    (Ld.link l.desc = true → Ld.id l.desc = id → ∃ t, exec (.loadAbortMessage p id) s = .next t ∧ t.cores = s.cores ∧ t.hbm = s.hbm ∧ (t.part p).ws.load = none ∧
      (t.part p).ws.lastStatus = Config.stLoadAborted ∧ (t.part p).ws.stOf (Ld.slot l.desc) = 0) ∧
    (Ld.id l.desc = id → Ld.link l.desc = true → Ld.forward l.desc = false → l.kept ≠ Ld.keepCount l.desc →
      ∃ t, exec (.loadEndMessage p id) s = .next t ∧ t = { s with parts := t.parts } ∧
        (t.part p).ws.load = some { l with endSeen := true })) ∧
  (∀ (p : Nat) (s : State) (im : Image) (l : Load), p < 16 → (s.part p).image = some im → (s.part p).ws.load = some l →
    Ld.dual l.desc = true → l.comp = none →
    (s.dtb < l.start + 100000000 → exec (.loadCompanionTimeout p) s = .next s) ∧
    (l.start + 100000000 ≤ s.dtb → ∃ t, exec (.loadCompanionTimeout p) s = .next t ∧ t.cores = s.cores ∧ (t.part p).ws.load = none ∧
      (t.part p).ws.lastStatus = Config.stLoadAborted)) ∧
  (∀ (p : Nat) (s : State), p < 16 → (s.part p).ws.held ≠ [] →
    (s.dtb < (s.part p).ws.heldFrom + 100000000 → exec (.loadHoldTimeout p) s = .next s) ∧
    ((s.part p).ws.heldFrom + 100000000 ≤ s.dtb → ∃ t, exec (.loadHoldTimeout p) s = .next t ∧ t.cores = s.cores ∧ t.hbm = s.hbm ∧
      (t.part p).ws.held = [] ∧ ((s.part p).image.isSome = true → (t.part p).ws.load = none)))

/-- CYCLIC_WINDOW_BOUNDARY: with the schedule idle, or before the window's end, nothing changes; at its end the next window that is not
skipped begins where it ended, or the first one of a new hyperperiod, or an armed switch makes its side active; every pair that the new
window does not grant to the partition it serves is suspended and every other pair stays as it was. PARTITION_FREEZE: without an image,
frozen, stopped, not ready or with a shelf that serves no access nothing changes; armed with every core halted it reports ENDED; at an
armed point with its beats committed it ends with ST_HBM_FENCED, nothing frozen and no recovery point, where the copy meets a fence, and
else the partition is frozen, every core of the image reads RUN 6 and every other core is as it was. [R358, R360, R365, R366, R367, R370,
R371, R401] -/
def Obligations.WindowsAndFreezesComplete : Prop :=
  (∀ s : State, s.power.off = false → s.power.state ≠ 3 → s.pcie.held = false → s.cyc.starting = false →
    (let c := s.cyc
     let stop := c.windowStart + 1000 * winLen c.active c.window
     (c.idle = true ∨ s.dtb < stop → exec .cyclicWindowBoundary s = .next s) ∧
     (c.idle = false → stop ≤ s.dtb → c.armed = none → ∀ w, (nextWindow c.active (c.window + 1)).or (nextWindow c.active 0) = some w →
       ∃ t, exec .cyclicWindowBoundary s = .next t ∧ t.cores = s.cores ∧ t.cyc.side = c.side ∧ t.cyc.window = w ∧ t.cyc.windowStart = stop ∧
         t.cyc.hyperStart = (if (nextWindow c.active (c.window + 1)).isSome then c.hyperStart else stop) ∧
         ∀ k, k < 12 → (t.granted k = some (s.pair k).part → t.pair k = s.pair k) ∧
           (t.granted k ≠ some (s.pair k).part → (s.pair k).run = 1 → (s.sess k (s.pair k).session).isOpen = true →
             (t.pair k).run = 0 ∧ (t.pair k).suspends = satAdd 0xFFFF (s.pair k).suspends 1 ∧
             (t.sess k (s.pair k).session).saved = true)) ∧
     (∀ side, c.idle = false → stop ≤ s.dtb → c.armed = some side → nextWindow c.active (c.window + 1) = none →
       ∃ t, exec .cyclicWindowBoundary s = .next t ∧ t.cores = s.cores ∧ t.cyc.side = side ∧ t.cyc.gen = (c.gen + 1) % 2 ^ 32 ∧
         t.cyc.armed = none))) ∧
  (∀ (p : Nat) (s : State), p < 16 →
    (let x := s.part p
     (x.image = none ∨ x.job.frozen = true ∨ x.job.stopped = true ∨ s.memHeld p = true → exec (.partitionFreeze p) s = .next s) ∧
     ∀ im, x.image = some im → x.job.frozen = false → x.job.stopped = false → s.memHeld p = false →
       (x.fz.armed = false → s.freezeReady p im = none → exec (.partitionFreeze p) s = .next s) ∧
       (x.fz.armed = true → s.allHalted p = true → ∃ t, exec (.partitionFreeze p) s = .next t ∧ t.cores = s.cores ∧ t.hbm = s.hbm ∧
         (t.part p).fz.armed = false ∧ (t.part p).fz.cmd = none ∧ (t.part p).fz.status = Config.stOk) ∧
       (∀ fp id, x.fz.armed = true → s.allHalted p = false → s.freezeReady p im = some (fp, id, true) → x.fz.at_ = fp → x.rcv.ckptAt ≠ fp →
         s.topBeat p ≤ x.job.nextCommit → s.commit.waiting = [] →
         let into := if x.fz.seq = 0 then 0 else 1 - x.fz.copy
         (s.copyFenced p im into = true → ∃ t, exec (.partitionFreeze p) s = .next t ∧ t.cores = s.cores ∧
           (t.part p).job.frozen = false ∧ (t.part p).fz.armed = false ∧ (t.part p).fz.cmd = none ∧
           (t.part p).fz.status = Config.stHbmFenced ∧ (t.part p).fz.seq = x.fz.seq ∧ (t.part p).rcv.points = x.rcv.points) ∧
         (s.copyFenced p im into = false → ∃ t, exec (.partitionFreeze p) s = .next t ∧
           (t.part p).job.frozen = true ∧ (t.part p).job.running = false ∧ (t.part p).fz.armed = false ∧
           (t.part p).fz.seq = x.fz.seq + 1 ∧ (t.part p).rcv.rpBeat = s.topBeat p ∧
           (∀ c, c ∈ s.imageCores p → (t.core c).seq.run = 6 ∧ (t.core c).seq.pc = (s.core c).seq.pc ∧ (t.core c).ts = (s.core c).ts) ∧
           ∀ c, c ∉ s.imageCores p → t.core c = s.core c))))

/-- CODEC_PICTURE where it is not the session's turn, or with a cause the stream cannot give, changes nothing. A decode session below its
limit, with bytes left at the head submit and a free frame buffer, appends a picture with its number, cause, key mark, buffer and bytes to
those that await output, and the pair serves the session; an encode session consumes its submit and appends the coded picture.
PICTURE_OUTPUT with nothing to put out changes nothing; of a picture without planar output it writes the report and adds 1 to the signal
word, counts it, and the index goes up by one. CODEC_BLOCK_BUDGET (robust mode only) and CODEC_WATCHDOG mark the last picture with causes
2 and 3 and the damaged blocks; a pair that serves nothing is left alone. Cores are unchanged. [R386, R387, R388, R390, R392, R393, R395,
R398] -/
def Obligations.CodecPicturesComplete : Prop :=
  (∀ (k i cause frame n : Nat) (key nonref : Bool) (s : State), k < 12 → i < 16 →
    (let x := s.sess k i
     let g := (s.part x.part).geo
     (s.nextSession k ≠ some i → exec (.codecPicture k i cause key nonref frame n) s = .next s) ∧
     (Cd.encode x.desc = false → streamCause x.desc x.submits n cause = false → exec (.codecPicture k i cause key nonref frame n) s = .next s) ∧
     (s.nextSession k = some i → s.pictureOpen k = false → x.atLimit = false → x.frameFree frame = true → x.closing = 0 →
       (∀ u rest b subs, Cd.encode x.desc = false → Cd.skipNonref x.desc = false → streamCause x.desc x.submits n cause = true → n ≠ 0 → x.submits = u :: rest → u.left ≠ 0 →
         s.parse g n x.submits = some (b, subs) → ∃ t v, exec (.codecPicture k i cause key nonref frame n) s = .next t ∧ t.cores = s.cores ∧
           (t.pair k).run = 1 ∧ (t.pair k).session = i ∧ (t.pair k).part = x.part ∧ (t.sess k i).outputs = x.outputs ++ [v] ∧
           v.num = x.coded ∧ v.frame = some frame ∧ v.key = key ∧ v.cause = cause ∧ v.bytes = n ∧ v.encode = false ∧
           (t.sess k i).coded = x.coded + 1 ∧ (t.sess k i).hist = x.hist ++ b) ∧
       (∀ u rest, Cd.encode x.desc = true → x.submits = u :: rest → fld u.record 8 5 ≠ 0 →
         ∃ t v, exec (.codecPicture k i cause key nonref frame n) s = .next t ∧ t.cores = s.cores ∧ (t.pair k).run = 1 ∧
           (t.sess k i).submits = rest ∧ (t.sess k i).outputs = x.outputs ++ [v] ∧ v.num = x.coded ∧ v.frame = some frame ∧
           v.encode = true ∧ v.written = false ∧ v.bytes = v.coded.length ∧ v.key = x.nextKey (fbits u.record 4 1 1 = 1) ∧
           (t.sess k i).coded = x.coded + 1)))) ∧
  (∀ (k i : Nat) (s : State) (u : Picture), k < 12 →
    (let x := s.sess k i
     (s.outNext k = none → exec (.pictureOutput k) s = .next s) ∧
     (s.outNext k = some (i, u) →
       Cd.colour x.desc = 0 → x.closing = 0 → ∃ t, exec (.pictureOutput k) s = .next t ∧ t.cores = s.cores ∧
         (t.sess k i).outputs = x.outputs.erase u ∧ (t.sess k i).outIndex = (x.outIndex + 1) % 2 ^ 32 ∧ (t.sess k i).selected = x.selected ∧
         (t.pair k).pictures = satAdd 0xFFFFFFFF (s.pair k).pictures 1 ∧
         (t.pair k).corrupt = (if u.cause ≠ 0 ∨ u.refCorrupt = true then satAdd 0xFFFF (s.pair k).corrupt 1 else (s.pair k).corrupt) ∧
         t.hbm = ((s.writeP x.part (Cd.addr x.desc 32 + 32 * (x.outIndex % Cd.reports x.desc))
           (report17 u x.outIndex 0 false s.dtb)).answer.signalAdd x.part (Cd.signal x.desc)).hbm))) ∧
  (∀ (k d : Nat) (s : State), k < 12 →
    (let i := (s.pair k).session
     let x := s.sess k i
     ((s.pair k).run ≠ 1 → exec (.codecBlockBudget k d) s = .next s ∧ exec (.codecWatchdog k d) s = .next s) ∧
     ((s.pair k).run = 1 → Cd.conceal x.desc = true → exec (.codecBlockBudget k d) s = .next s) ∧
     (∀ u, (s.pair k).run = 1 → x.outputs.getLast? = some u → u.cause = 0 → u.skipped = false → u.written = false →
       (Cd.conceal x.desc = false → ∃ t v, exec (.codecBlockBudget k d) s = .next t ∧ t.cores = s.cores ∧
         (t.sess k i).outputs.getLast? = some v ∧ v.cause = 2 ∧ v.damaged = u.damaged + d ∧ v.num = u.num ∧
         (t.pair k).budgetHits = satAdd 0xFFFF (s.pair k).budgetHits 1) ∧
       (∃ t v, exec (.codecWatchdog k d) s = .next t ∧ t.cores = s.cores ∧
         (t.sess k i).outputs.getLast? = some v ∧ v.cause = 3 ∧ v.damaged = u.damaged + d ∧ v.num = u.num ∧
         (t.pair k).wdogHits = satAdd 0xFFFF (s.pair k).wdogHits 1))))

/-- ENCODE_RING_WRITE of the first waiting picture: without room, or with a shelf that serves no access, nothing changes; with room the
picture is written, PRODUCED goes up by its bytes, and no byte of HBM outside the ring changes; one larger than the ring is dropped with
cause 9 and the next coded picture is a key picture. CODEC_RESUME of an open saved session of the partition the window grants the pair to,
with the pair idle: the pair serves it, nothing else of the session changes. CODEC_PAIR_FAULT of a pair that serves an open session: the
session closes, the pair is idle under a new token and the partition's last fault is ST_CODEC_FAULT; otherwise nothing changes. Cores are
unchanged. [R400, R401, R402, R455] -/
def Obligations.CodecPairsComplete : Prop :=
  (∀ (k : Nat) (s : State) (u : Picture) (r : List Picture), k < 12 → (s.pair k).run = 1 →
    (let i := (s.pair k).session
     let x := s.sess k i
     let d := x.desc
     let g := (s.part x.part).geo
     let room := Cd.ring d - 64
     let used := (x.produced + 2 ^ 64 - s.leX g (Cd.addr d 112 + 8) 8) % 2 ^ 64
     (s.memHeld x.part = true → exec (.encodeRingWrite k) s = .next s) ∧ (s.memHeld x.part = false →
     x.outputs = u :: r → u.encode = true → u.written = false → 64 ≤ Cd.ring d →
     (u.coded.length ≤ room → room < used + u.coded.length → exec (.encodeRingWrite k) s = .next s) ∧
     (u.coded.length ≤ room → used + u.coded.length ≤ room → ∃ t, exec (.encodeRingWrite k) s = .next t ∧ t.cores = s.cores ∧
       (t.sess k i).produced = (x.produced + u.coded.length) % 2 ^ 64 ∧
       (t.sess k i).outputs = { u with written := true, offset := 64 + x.produced % room } :: r ∧
       (s.CachesOk → ∀ b, (∀ j, j < Cd.ring d → interPhys g (Cd.addr d 112 + j) ≠ some b) → t.hb b = s.hb b)) ∧
     (room < u.coded.length → ∃ t, exec (.encodeRingWrite k) s = .next t ∧ t.cores = s.cores ∧ t.hbm = s.hbm ∧
       (t.sess k i).outputs = { u with written := true, dropped := true, cause := 9, bytes := 0, offset := 0 } :: r ∧
       (t.sess k i).nextKey false = true)))) ∧
  (∀ (k i : Nat) (s : State), k < 12 → i < 16 →
    ((s.sess k i).saved = false ∨ (s.pair k).run ≠ 0 → exec (.codecResume k i) s = .next s) ∧
    ((s.sess k i).isOpen = true → (s.sess k i).saved = true → (s.pair k).run = 0 → s.pairMay k (s.sess k i).part = true →
      ∃ t, exec (.codecResume k i) s = .next t ∧ t.cores = s.cores ∧ t.hbm = s.hbm ∧ (t.pair k).run = 1 ∧ (t.pair k).session = i ∧
        (t.pair k).part = (s.sess k i).part ∧ t.sess k i = { s.sess k i with saved := false })) ∧
  (∀ (k : Nat) (s : State), k < 12 →
    (let x := s.sess k (s.pair k).session
     ((s.pair k).run ≠ 1 ∨ x.isOpen = false → exec (.codecPairFault k) s = .next s) ∧
     ((s.pair k).run = 1 → x.isOpen = true → s.power.off = false → s.pcie.held = false → ∃ t, exec (.codecPairFault k) s = .next t ∧
       t.cores = s.cores ∧ t.hbm = s.hbm ∧ (t.sess k (s.pair k).session).isOpen = false ∧ (t.pair k).run = 0 ∧
       (t.pair k).token = ((s.pair k).token + 1) % 65536 ∧ (t.part x.part).job.lastFault = Config.stCodecFault)))

/-- MAILBOX_POST to a slot the device holds changes nothing but DISCARDS. A normal command posted with POST 1 stands in its slot with its
header, tag, payload and POST_DTB, not taken, and the function's lease is renewed; an urgent one, or one of slot 31, is taken at once, and
refused with ST_BAD_COMMAND where it is none. MAILBOX_SCAN with one command not taken takes it and leaves every other slot; with none it
only shows that service firmware runs. MSIX_UNMASK clears the vector's mask and pending bits, no other vector's, and sends the pending
message. HOST_LEASE_EXPIRY ends a lease 100 ms after the last POST and not before. [R410, R412, R413, R414, R415, R416, R456] -/
def Obligations.MailboxRowsComplete : Prop :=
  (∀ (f : Fn) (n w0 w1 w2 w3 : Nat) (b : List Byte) (s : State), fnOk f = true → n < 32 → s.hostUp = true →
    (let q := s.slot f n
     (q.post = true → q.done = false → exec (.mailboxPost f n w0 w1 w2 w3 b) s =
       .next (s.setFn f { s.fn f with discards := satAdd 0xFFFFFFFF (s.fn f).discards 1 })) ∧
     ((q.post = false ∨ q.done = true) → bit w0 0 = true → ∃ t, exec (.mailboxPost f n w0 w1 w2 w3 b) s = .next t ∧
       t = { s with fns := t.fns, out := t.out } ∧ (t.fn f).leaseDtb = s.dtb ∧ (t.fn f).leaseLive = true ∧
       (∀ m, m ≠ n → t.slot f m = s.slot f m) ∧ (∀ g, fnKey g ≠ fnKey f → t.fn g = s.fn g) ∧
       (t.slot f n).cmd = bits w1 15 0 ∧ (t.slot f n).len = bits w1 27 16 ∧ (t.slot f n).part = bits w1 31 28 ∧
       (t.slot f n).tag = w2 % 2 ^ 32 ∧ (t.slot f n).postDtb = s.dtb ∧ (t.slot f n).urgent = bit w0 1 ∧
       (t.slot f n).payload.take (min b.length 4032) = b.take 4032 ∧
       (bit w0 1 = false → n ≠ 31 → (t.slot f n).post = true ∧ (t.slot f n).ack = false ∧ (t.slot f n).done = false) ∧
       (bit w0 1 = true ∨ n = 31 → (t.slot f n).ack = true ∧
         (badCommand n (t.slot f n) = true → t.Completed f n Config.stBadCommand []))))) ∧
  (∀ s : State, s.hostUp = true →
    (s.posted.filter (fun e => !e.2.2.ack) = [] → exec .mailboxScan s = .next { s with fw := { s.fw with svcRestart := false } }) ∧
    (∀ f n q, fnOk f = true → s.posted.filter (fun e => !e.2.2.ack) = [(f, n, q)] → s.slot f n = q → ∃ t, exec .mailboxScan s = .next t ∧
      t = { s with fns := t.fns, out := t.out, fw := { s.fw with svcRestart := false } } ∧ (t.slot f n).ack = true ∧
      (∀ m, m ≠ n → t.slot f m = s.slot f m) ∧
      (badCommand n q = false → s.noService = false → t.slot f n = { q with ack := true }) ∧
      (badCommand n q = true → t.Completed f n Config.stBadCommand []))) ∧
  (∀ (f : Fn) (v : Nat) (s : State), fnOk f = true → v < 64 → ∃ t, exec (.msixUnmask f v) s = .next t ∧
    t = { s with fns := t.fns, out := t.out } ∧ (∀ j, bit (t.fn f).msixMask j = (bit (s.fn f).msixMask j && !decide (j = v))) ∧
    (∀ j, bit (t.fn f).msixPend j = (bit (s.fn f).msixPend j && !decide (j = v))) ∧ (∀ m, t.slot f m = s.slot f m) ∧
    t.out.irqs = (if bit (s.fn f).msixPend v = true then s.out.irqs ++ [(f, v)] else s.out.irqs)) ∧
  (∀ (f : Fn) (s : State), fnOk f = true →
    ((s.fn f).leaseLive = false ∨ s.dtb < (s.fn f).leaseDtb + 100000000 → exec (.hostLeaseExpiry f) s = .next s) ∧
    ((s.fn f).leaseLive = true → (s.fn f).leaseDtb + 100000000 ≤ s.dtb →
      exec (.hostLeaseExpiry f) s = .next (s.setFn f { s.fn f with leaseLive := false })))

/-- What a function does not see reads 0 and clears nothing; a read answers the register's word, and of the RC fields DISCARDS, EVQ_LOST
and a channel's skew counts the read leaves 0. A write to a register that staged values carry is staged by a physical function, discarded
and journalled where the value is reserved or the function is virtual; a virtual function's write to what it does not see is discarded and
journalled, a physical function's ignored. Where no counter of the block counts (none enabled or chained, or below Active) PMC_READ
answers VALUE and latches the time base for the reading function, and PMC_WRITE replaces VALUE by the low 48 bits and leaves the block's
other counters; a core's or shelf's counter that is enabled and not chained first adds what its mode makes of the block's totals, in mode
0 the sum of its event. Cores' memories and HBM are unchanged. [R6, R7, R9, R408, R409, R487, R489, R490] -/
def Obligations.RegistersFollowTheirAccessCodes : Prop :=
  (∀ (f : Fn) (bar off : Nat) (s : State), fnOk f = true → s.hostUp = true →
    (s.regAt f bar off = none → exec (.registerReadClear f bar off) s = .next { s with out := { s.out with readData := 0, readStamp := 0 } }) ∧
    (∀ r, s.regAt f bar off = some r → (∀ b o, r ≠ .ctr b o) → ∃ t, exec (.registerReadClear f bar off) s = .next t ∧
      t.out.readData = s.regWord f r ∧ t.hbm = s.hbm ∧ (∀ c, (t.core c).ts = (s.core c).ts ∧ (t.core c).seq = (s.core c).seq) ∧
      (r = .ident 0x34 → (t.fn f).discards = 0) ∧ (r = .ident 0x38 → (t.fn f).evqLost = 0 ∧ (t.fn f).evqTail = (s.fn f).evqTail) ∧
      (∀ v, r = .chan v 0x10 → (t.chan v).skewReports = 0 ∧ (t.chan v).holds = 0 ∧ (t.chan v).dropped = (s.chan v).dropped) ∧
      (∀ n o, r = .slot n o → t = { s with out := t.out }))) ∧
  (∀ (f : Fn) (bar off v : Nat) (s : State), fnOk f = true → s.hostUp = true →
    (s.regAt f bar off = none → exec (.registerWrite f bar off v) s = .next (if isPf f then s else s.jDiscard f bar off v)) ∧
    (∀ r x bad, s.regAt f bar off = some r → stagedWrite v r = some (x, bad) →
      exec (.registerWrite f bar off v) s = .next (if bad = true ∨ isPf f = false then s.jDiscard f bar off v else s.stage x)) ∧
    (s.regAt f bar off = some (.ident 0x3C) → exec (.registerWrite f bar off v) s = .next (s.setFn f { s.fn f with evqHead := v % 256 })) ∧
    (∀ n o, s.regAt f bar off = some (.slot n o) → exec (.registerWrite f bar off v) s = .next s)) ∧
  (∀ (f : Fn) (bar off v k o : Nat) (b : Blk) (s : State), fnOk f = true → s.hostUp = true → s.regAt f bar off = some (.ctr b o) →
    pmcAt b o = some k →
    (s.power.state ≠ 0 ∨ (∀ j, j < b.size → Ctl.en (s.ctl b j) = false ∧ Ctl.chain (s.ctl b j) = false) →
      (∃ t, exec (.pmcRead f bar off) s = .next t ∧ t.out.readData = s.pmc b k ∧ t.out.readStamp = s.dtb ∧
        Cells.get (fun _ => 0) (t.fn f).stamps (b.num k) = s.dtb ∧ t.parts = s.parts ∧ t.hbm = s.hbm ∧
        (s.power.state ≠ 0 → t = { s with fns := t.fns, out := t.out })) ∧
      (∃ t, exec (.pmcWrite f bar off v) s = .next t ∧ t.pmc b k = v % 2 ^ 48 ∧ (∀ j, j < b.size → j ≠ k → t.pmc b j = s.pmc b j) ∧
        (∀ j, j < b.size → t.ctl b j = s.ctl b j) ∧ t.hbm = s.hbm ∧ ∀ c, (t.core c).seq = (s.core c).seq)) ∧
    (s.power.state = 0 → (∀ n, b ≠ .field n) → Ctl.en (s.ctl b k) = true → Ctl.chain (s.ctl b k) = false →
      (let c := s.ctl b k
       let add := modeAdds c (s.totals b c) (Config.freeNat (s.freeCtr + 8192 + k))
       (∃ t, exec (.pmcRead f bar off) s = .next t ∧ t.out.readData = (s.pmc b k + add) % 2 ^ 48 ∧ t.out.readStamp = s.dtb ∧
         t.parts = s.parts ∧ t.hbm = s.hbm ∧ (∀ j, (t.core j).seq = (s.core j).seq) ∧
         (Ctl.mode c = 0 → add = (s.totals b c).sum (Ctl.event c))) ∧
       (∃ t, exec (.pmcWrite f bar off v) s = .next t ∧ t.pmc b k = v % 2 ^ 48 ∧ t.hbm = s.hbm ∧ ∀ j, (t.core j).seq = (s.core j).seq))))

/-- With its turn come and nothing against it: NOP completes and changes nothing else; PERMIT_SET replaces the function's PERMIT, answers
the old one and journals a change; SET_TIME steps the time base; COMMIT of values that wait for no unit of a running plan completes, the
staged copy is empty and COMMIT_GEN has advanced, and a committed power cap is in force; REGRADE marks the field part due and its link
part is under way or done; DEVICE_RESET leaves every slot empty or completed with ST_DEVICE_RESET, no partition, idle cores, the device
Active, and the time base; POWER_STATE takes the device to its target. REGRADE_TIMER acts 24 h after the last one and not before. [R9,
R295, R420, R421, R443, R469, R474, R476, R477, R478, R479, R482] -/
def Obligations.DeviceCommandsComplete : Prop :=
  (∀ (f : Fn) (n : Nat) (s : State) (q : Slot), s.Carries f n (isCmd 0x0000) q → ∃ t, exec (.nopCommand f n) s = .next t ∧
    t.Completed f n Config.stOk [] ∧ t = { s with fns := t.fns, out := t.out }) ∧
  (∀ (f : Fn) (n : Nat) (s : State) (q : Slot), s.Carries f n (isCmd 0x0001) q → ∃ t, exec (.permitSet f n) s = .next t ∧
    t.Completed f n Config.stOk (leBytes 1 (s.fn f).permit) ∧ (t.fn f).permit = fld q.payload 0 1 ∧
    t = { s with fns := t.fns, out := t.out, fw := t.fw } ∧ ((s.fn f).permit = fld q.payload 0 1 → t.fw = s.fw) ∧
    ((s.fn f).permit ≠ fld q.payload 0 1 → ∃ e, t.fw.journal.getLast? = some e ∧ e.kind = 1 ∧ e.object = 1 ∧ e.dtb = s.dtb ∧
      e.old = leBytes 1 (s.fn f).permit ∧ e.new = leBytes 1 (fld q.payload 0 1))) ∧
  (∀ (f : Fn) (n : Nat) (s : State) (q : Slot), s.Carries f n (isCmd 0x0011) q → (∀ p, p < 16 → (s.part p).image = none) →
    s.dtb ≤ fld q.payload 0 8 → ∃ t, exec (.setTime f n) s = .next t ∧ t.Completed f n Config.stOk [] ∧
      t.dtb = fld q.payload 0 8 ∧ t.cores = s.cores ∧ t.parts = s.parts ∧ t.hbm = s.hbm ∧ t.fw = s.fw) ∧
  (∀ (f : Fn) (n : Nat) (s : State) (q : Slot), s.Carries f n (isCmd 0x0010) q → s.commit.pending = false →
    (∀ v, v ∈ s.commit.staged → (s.begun f n q).commitRefusal v = none) → (∀ p, p < 16 → (s.part p).job.running = false) →
    ∃ t, exec (.commit f n) s = .next t ∧ t.Completed f n Config.stOk [] ∧ t.commit.staged = [] ∧ t.commit.pending = false ∧
      t.commit.gen = (s.commit.gen + 1) % 2 ^ 32 ∧ ∀ w, s.commit.staged = [.powerCap w] → t.cool = { s.cool with cap := w }) ∧
  (∀ (f : Fn) (n : Nat) (s : State) (q : Slot), s.Carries f n (isCmd 0x0014) q → s.commit.pending = false → ∃ t,
    exec (.regrade f n) s = .next t ∧ t.power.regradeDue = true ∧ t.commit.regrade = true ∧ t.cores = s.cores ∧
    ((∀ p, p < 16 → (s.part p).job.running = false) → t.Completed f n Config.stOk [] ∧ t.power.linkRegrade = s.dtb ∧
      t.power.regrades = satAdd 0xFFFF s.power.regrades 1)) ∧
  (∀ s : State, s.power.off = false → s.power.state ≠ 3 → s.pcie.held = false → s.commit.pending = false →
    (s.dtb < s.power.linkRegrade + 86400000000000 → exec .regradeTimer s = .next s) ∧
    (s.power.linkRegrade + 86400000000000 ≤ s.dtb → (∀ p, p < 16 → (s.part p).job.running = false) → ∃ t,
      exec .regradeTimer s = .next t ∧ t.power.linkRegrade = s.dtb ∧ t.cores = s.cores ∧ t.power.regradeDue = s.power.regradeDue)) ∧
  (∀ (f : Fn) (n : Nat) (s : State) (q : Slot), s.Carries f n (isCmd 0x0012) q → ∃ t, exec (.deviceReset f n) s = .next t ∧
    t.power.state = 0 ∧ t.power.resetCause = 2 ∧
    (∀ p, (t.part p).geo.defined = false ∧ (t.part p).image = none ∧ (t.part p).job = {} ∧ (t.part p).rcv = {}) ∧ t.commit = {} ∧ t.dtb = s.dtb ∧ t.cores = [] ∧
    (∀ c, (t.core c).seq.run = 0 ∧ (t.core c).ready = 0) ∧
    ∀ g m, fnOk g = true → t.slot g m = {} ∨
      ((t.slot g m).done = true ∧ (t.slot g m).post = false ∧ (t.slot g m).status = Config.stDeviceReset)) ∧
  (∀ (f : Fn) (n : Nat) (s : State) (q : Slot), s.Carries f n (isCmd 0x0013) q → s.power.state < 3 →
    (s.begun f n q).powerRefusal (fbits q.payload 0 1 0) = none → ∃ t, exec (.powerState f n) s = .next t ∧
      t.power.state = fbits q.payload 0 1 0 ∧ t.Completed f n Config.stOk [] ∧
      (s.power.state = fbits q.payload 0 1 0 → t = { s with fns := t.fns, out := t.out }))

/-- With its turn come and its own checks passed: PART_CREATE and PART_CHANGE stage the record; PART_DESTROY leaves the partition
undefined, without an image, its ownership generation advanced; PART_RESET leaves no image and, above Frost with no commit waiting, idle
cores; JOB_STATUS and FAULT_QUERY answer their data and change nothing else; LEASE_BREAK of an expired lease makes the new owner own the
partition under a new generation, and of one that holds completes with ST_LEASE_HELD; STOP without a recovery point leaves the partition
stopped with its cores in RUN 5 and CAUSE 0, and with one frozen; FREEZE arms the freeze and waits; THAW of a complete copy leaves the
partition running, and of HBM it writes only instruction words that patches had changed. [R356, R369, R372, R450, R451, R454, R456, R457,
R470] -/
def Obligations.PartitionCommandsComplete : Prop :=
  (∀ (f : Fn) (n : Nat) (s : State) (q : Slot), s.Carries f n (isCmd 0x0100) q → s.power.barred = false →
    (s.part (Pr.part (q.payload.take 64))).geo.defined = false → (s.begun f n q).partRefusal (q.payload.take 64) = none →
    ∃ t, exec (.partCreate f n) s = .next t ∧ t.Completed f n Config.stOk [] ∧ t = { s with fns := t.fns, out := t.out, commit := t.commit } ∧
      t.commit = (s.stage (.part (q.payload.take 64))).commit) ∧
  (∀ (f : Fn) (n : Nat) (s : State) (q : Slot), s.Carries f n (isCmd 0x0101) q → Pr.part (q.payload.take 64) = q.part →
    (s.begun f n q).partRefusal (q.payload.take 64) = none → ∃ t, exec (.partChange f n) s = .next t ∧ t.Completed f n Config.stOk [] ∧
      t = { s with fns := t.fns, out := t.out, commit := t.commit } ∧ t.commit = (s.stage (.part (q.payload.take 64))).commit) ∧
  (∀ (f : Fn) (n : Nat) (s : State) (q : Slot), s.Carries f n (isCmd 0x0102) q → (s.begun f n q).counts q.part = false →
    ∃ t, exec (.partDestroy f n) s = .next t ∧ t.Completed f n Config.stOk [] ∧ (t.part q.part).geo.defined = false ∧
      (t.part q.part).image = none ∧ (t.part q.part).geo.ownGen = ((s.part q.part).geo.ownGen + 1) % 65536) ∧
  (∀ (f : Fn) (n : Nat) (s : State) (q : Slot), s.Carries f n (isCmd 0x0208) q → ∃ t, exec (.partReset f n) s = .next t ∧
    t.Completed f n Config.stOk [] ∧ (t.part q.part).image = none ∧ (t.part q.part).job.running = false ∧
    (s.power.state < 2 → s.commit.waiting = [] → ∀ c, c ∈ geoCores (s.part q.part).geo → (t.core c).seq.run = 0)) ∧
  (∀ (f : Fn) (n : Nat) (s : State) (q : Slot), s.Carries f n (isCmd 0x0204) q → ∃ t, exec (.jobStatus f n) s = .next t ∧
    t.Completed f n Config.stOk (s.jobStatusBytes q.part) ∧ t = { s with fns := t.fns, out := t.out }) ∧
  (∀ (f : Fn) (n : Nat) (s : State) (q : Slot), s.Carries f n (isCmd 0x0F02) q → ∃ t, exec (.faultQuery f n) s = .next t ∧
    t.Completed f n Config.stOk (s.part q.part).job.history.flatten ∧ t = { s with fns := t.fns, out := t.out }) ∧
  (∀ (f : Fn) (n : Nat) (s : State) (q : Slot), s.Carries f n (isCmd 0x0F03) q →
    (let b := s.begun f n q
     let g := (s.part q.part).geo
     let own := fbits q.payload 0 4 0 + 32 * f.port
     (b.leaseLeft (ownerFn g) ≠ 0 → ∃ t, exec (.leaseBreak f n) s = .next t ∧ t.Completed f n Config.stLeaseHeld [] ∧ t.parts = s.parts) ∧
     (b.leaseLeft (ownerFn g) = 0 → fbits q.payload 0 31 5 = 0 → (b.ownedBy (ownerFn { g with owner := own })).isSome = false →
       ∃ t, exec (.leaseBreak f n) s = .next t ∧ t.Completed f n Config.stOk [] ∧ (t.part q.part).geo.owner = own ∧
         (t.part q.part).geo.ownGen = (g.ownGen + 1) % 65536 ∧ (t.part q.part).image = (s.part q.part).image ∧ t.cores = s.cores ∧
         t.hbm = s.hbm))) ∧
  (∀ (f : Fn) (n : Nat) (s : State) (q : Slot), s.Carries f n (isCmd 0x0F00) q → (s.part q.part).image.isSome = true →
    s.commit.waiting = [] → ∃ t, exec (.stop f n) s = .next t ∧ t.Completed f n Config.stOk [] ∧ (t.part q.part).rcv.state = 1 ∧
      (t.part q.part).job.stopped = true ∧ (t.part q.part).job.running = false ∧ (t.part q.part).job.history = (s.part q.part).job.history ∧
      ((s.part q.part).rcv.points = [] → ∀ c, c ∈ geoCores (s.part q.part).geo → (t.core c).seq.run = 5 ∧ (t.core c).seq.cause = 0) ∧
      ((s.part q.part).rcv.points ≠ [] → (t.part q.part).job.frozen = true)) ∧
  (∀ (f : Fn) (n : Nat) (s : State) (q : Slot) (im : Image), s.Carries f n (isCmd 0x0F01) q → (s.part q.part).image = some im →
    (s.part q.part).job.frozen = false → (s.part q.part).fz.armed = false → (s.part q.part).fz.cmd = none →
    (fld q.payload 0 8 = 0 → tpModules im.bytes = 1) →
    (fld q.payload 0 8 ≠ 0 → ∀ c, c ∈ s.imageCores q.part → (s.core c).seq.fpCount < fld q.payload 0 8) →
    ∃ t, exec (.freeze f n) s = .next t ∧ t.Waits f n ∧ t = { s with fns := t.fns, parts := t.parts } ∧ (t.part q.part).fz.armed = true ∧
      (t.part q.part).fz.at_ = fld q.payload 0 8 ∧ (t.part q.part).fz.cmd = some (f, n, q.postDtb)) ∧
  (∀ (f : Fn) (n c : Nat) (s : State) (q : Slot) (im : Image), s.Carries f n (isCmd 0x0207) q → (s.part q.part).image = some im →
    s.thawCheck q.part im = .ok c → ∃ t, exec (.thaw f n) s = .next t ∧ t.Completed f n Config.stOk [] ∧
      (t.part q.part).job.running = true ∧ (t.part q.part).job.frozen = false ∧ (t.part q.part).job.stopped = false ∧
      (s.CachesOk → ∀ b, (∀ e, e ∈ (if c = 0 then (s.part q.part).fz.saved0 else (s.part q.part).fz.saved1).patched →
        ¬ s.Within q.part e.1 e.2.length b) → t.hb b = s.hb b) ∧
      (t.part q.part).fz.status = Config.stOk ∧ ∀ d, d ∉ s.imageCores q.part → t.core d = s.core d)

/-- With its turn come and its own checks passed: ADMIT leaves the image admitted with the channels it answers bound to the partition;
BIND sets the rank table, and writes HBM only where its groups keep sums of records; RUN queues the request, and the first one starts the
image; RETIRE leaves no image and its channels unbound; MEM_COPY to the device writes the bytes, and meeting a fenced pseudo-channel
completes with ST_HBM_FENCED; MEM_COPY to the host writes what is visible of them to host memory and changes no byte of HBM; TABLE_RELOAD
without ARM fills the named side of every core of the partition, or of the cyclic table, and switches nothing. [R119, R208, R244, R249,
R300, R363, R364, R420, R422, R424] -/
def Obligations.JobCommandsComplete : Prop :=
  (∀ (f : Fn) (n : Nat) (img : List Byte) (s : State) (q : Slot), s.Carries f n (isCmd 0x0200) q → (s.part q.part).image = none →
    (let b := s.begun f n q
     let req := q.payload.take 128
     let all := sub img 0 (Req.imageBytes req)
     (imageRefusal (s.part q.part).geo req all).or (requestRefusal req) = none → b.capacityRefusal q.part req all = none →
     ∃ t, exec (.admitImage f n (some img)) s = .next t ∧ (t.part q.part).image = some (b.imageOf req all) ∧
       t.Completed f n Config.stOk (admitResult 0 0 (b.imageOf req all).chans) ∧ (t.part q.part).geo = (s.part q.part).geo ∧
       ∀ v, v ∈ (b.imageOf req all).chans → (t.chan v).bound = true ∧ (t.chan v).owner = q.part)) ∧
  (∀ (f : Fn) (n : Nat) (s : State) (q : Slot) (im : Image), s.Carries f n (isCmd 0x0201) q → (s.part q.part).image = some im →
    (s.begun f n q).bindRefusal im (s.part q.part).job.running q = none → ∃ t, exec (.bind f n) s = .next t ∧
      t.Completed f n Config.stOk [] ∧ t.cores = s.cores ∧ (t.part q.part).rcv.absent = none ∧
      ((∀ r, r ∈ bindRegions (s.part q.part).geo im → r.op ≠ 4 ∧ r.op ≠ 5) → t.hbm = s.hbm) ∧
      (t.part q.part).ranks = some ((List.range (tpModules im.bytes)).map (fun i => fld q.payload (2 * i) 2))) ∧
  (∀ (f : Fn) (n : Nat) (data : List (List Byte)) (s : State) (q : Slot) (im : Image), s.Carries f n (isCmd 0x0202) q →
    (s.part q.part).image = some im → (s.begun f n q).runRefusal q.part im (q.payload.take q.len) = none →
    ∃ t, exec (.run f n (some data)) s = .next t ∧ t.Waits f n ∧
      (t.part q.part).job.requests = (s.part q.part).job.requests ++
        [{ fn := f, slot := n, cmd := q.cmd, post := q.postDtb, payload := q.payload.take q.len }] ∧
      ((s.part q.part).job.started = true → t.cores = s.cores) ∧
      ((s.part q.part).job.started = false → (s.part q.part).job.stopped = false →
        (t.part q.part).job.started = true ∧ (t.part q.part).job.running = true ∧
        ∀ c, c ∈ s.imageCores q.part → (t.core c).seq.run = 1)) ∧
  (∀ (f : Fn) (n : Nat) (s : State) (q : Slot) (im : Image), s.Carries f n (isCmd 0x0203) q → (s.part q.part).image = some im →
    ∃ t, exec (.retire f n) s = .next t ∧ t.Completed f n Config.stOk [] ∧ (t.part q.part).image = none ∧
      (t.part q.part).job.requests = [] ∧ ∀ v, v ∈ im.chans → (t.chan v).bound = false) ∧
  (∀ (f : Fn) (n : Nat) (d : List Byte) (s : State) (q : Slot), s.Carries f n (isCopy 0) q →
    (let b := q.payload.take 28
     s.copyRefusal q.part b = none → Mc.bytes b ≠ 0 →
     (s.fencedByte q.part (Mc.off b) (Mc.bytes b) = none → ∃ t, exec (.memCopyToDevice f n (some d)) s = .next t ∧
       t.Completed f n Config.stOk [] ∧ t.cores = s.cores ∧ t.parts = s.parts ∧
       t.hbm = (s.dmaWrite q.part (Mc.off b) (sub d 0 (Mc.bytes b))).hbm ∧
       t.shelves = (s.dmaWrite q.part (Mc.off b) (sub d 0 (Mc.bytes b))).shelves) ∧
     (∀ x, s.fencedByte q.part (Mc.off b) (Mc.bytes b) = some x → ∃ t, exec (.memCopyToDevice f n (some d)) s = .next t ∧
       t.Completed f n Config.stHbmFenced [] ∧ t.cores = s.cores))) ∧
  (∀ (f : Fn) (n : Nat) (s : State) (q : Slot), s.Carries f n (isCopy 1) q →
    (let b := q.payload.take 28
     s.copyRefusal q.part b = none → Mc.bytes b ≠ 0 → s.fencedByte q.part (Mc.off b) (Mc.bytes b) = none →
     ∃ t, exec (.memCopyToHost f n true) s = .next t ∧ t.Completed f n Config.stOk [] ∧ t.cores = s.cores ∧ t.parts = s.parts ∧
       (s.CachesOk → ∀ a, t.hb a = s.hb a) ∧ t.out.host = s.out.host ++
         [(f.port, Mc.host b, (List.range (Mc.bytes b)).map (fun i => s.visibleX q.part (Mc.off b + i)))])) ∧
  (∀ (f : Fn) (n : Nat) (img : List Byte) (s : State) (q : Slot), s.Carries f n (isCmd 0x0206) q → 32 ≤ q.len →
    (let b := q.payload.take 32
     let d := sub img 0 (Tr.bytes b)
     Tr.bad b = false → s.sideBusy q.part b = false → Tr.bytes b ≠ 0 → s.reloadRefusal q.part b d = none → Tr.arm b = false →
     ∃ t, exec (.tableReload f n (some img)) s = .next t ∧ t.Completed f n Config.stOk [] ∧ t.hbm = s.hbm ∧
       (Tr.table b = 3 → t.cores = s.cores ∧ t.cyc.side = s.cyc.side ∧ (if Tr.side b = 0 then t.cyc.s0 else t.cyc.s1) = d ∧
         (if Tr.side b = 0 then t.cyc.s1 = s.cyc.s1 else t.cyc.s0 = s.cyc.s0)) ∧
       (Tr.table b ≠ 3 → t.cyc = s.cyc ∧ ∀ c, c ∈ geoCores (s.part q.part).geo →
         (t.core c).bank (Tr.table b) = ((s.core c).bank (Tr.table b)).fill (Tr.side b) d ∧ (t.core c).seq = (s.core c).seq)))

/-- With its turn come and its own checks passed: WEIGHT_LOAD that keeps chunks leaves its slot LOADING and waits; WEIGHT_SWITCH leaves a
switch pending at its request, and WEIGHT_SWITCH_CANCEL drops it; SLOT_OPEN, SLOT_FORK, SLOT_CLOSE, PREFIX_PIN and PREFIX_RELEASE join the
request queue and wait; SLOT_QUERY answers the slot's entry; CODEC_OPEN opens the lowest session that is not open under a new generation
and answers its handle; CODEC_SUBMIT queues its record and waits; CODEC_CLOSE without DRAIN of a session with nothing to output closes it;
CODEC_RELEASE completes and, where its buffer awaits no output, the buffer no longer awaits release. Cores and HBM are unchanged. [R178,
R185, R336, R339, R347, R349, R384, R386, R390, R402] -/
def Obligations.SlotCommandsComplete : Prop :=
  (∀ (f : Fn) (n : Nat) (s : State) (q : Slot) (im : Image), s.Carries f n (isCmd 0x0300) q → (s.part q.part).image = some im →
    (let d := q.payload.take 64
     (s.part q.part).ws.load = none → (s.part q.part).ws.held = [] → s.loadRefusal q.part im d = none → Ld.keepCount d ≠ 0 →
     ∃ t l, exec (.weightLoad f n) s = .next t ∧ t.Waits f n ∧ t.cores = s.cores ∧ t.hbm = s.hbm ∧ (t.part q.part).ws.load = some l ∧
       l.desc = d ∧ l.cmd = (f, n, q.postDtb) ∧ l.kept = 0 ∧ l.start = s.dtb ∧ (t.part q.part).ws.stOf (Ld.slot d) = 1 ∧
       (t.part q.part).ws.loadId = Ld.id d)) ∧
  (∀ (f : Fn) (n : Nat) (l : List Byte) (s : State) (q : Slot) (im : Image), s.Carries f n isSwitch q → (s.part q.part).image = some im →
    swCount q.payload ≠ 0 →
    (let es := (List.range (swCount q.payload)).map (fun i => sub l (8 * i) 8)
     s.switchRefusal q.part im q.payload es = none → ∃ t, exec (.weightSwitch f n (some l)) s = .next t ∧ t.Completed f n Config.stOk [] ∧
       t.cores = s.cores ∧ t.hbm = s.hbm ∧ (t.part q.part).ws.switchPending = true ∧ (t.part q.part).ws.switchTo = swSlot q.payload ∧
       (t.part q.part).ws.atRequest = swAt q.payload ∧ (t.part q.part).ws.relocs = es)) ∧
  (∀ (f : Fn) (n : Nat) (s : State) (q : Slot), s.Carries f n isSwitchCancel q → (s.part q.part).ws.switchPending = true →
    ∃ t, exec (.weightSwitchCancel f n) s = .next t ∧ t.Completed f n Config.stOk [] ∧ t.cores = s.cores ∧ t.hbm = s.hbm ∧
      (t.part q.part).ws = { (s.part q.part).ws with switchPending := false, selectWait := false }) ∧
  (∀ (code : Nat) (i : Instr) (f : Fn) (n : Nat) (s : State) (q : Slot),
    (code, i) ∈ [(0x0400, Instr.slotOpen f n), (0x0401, .slotFork f n), (0x0402, .slotClose f n), (0x0403, .prefixPin f n),
      (0x0404, .prefixRelease f n)] → s.Carries f n (isCmd code) q → (s.part q.part).image.isSome = true → s.queueFull q.part = false →
    ∃ t, exec i s = .next t ∧ t.Waits f n ∧ t = { s with fns := t.fns, parts := t.parts } ∧
      (t.part q.part).job.requests = (s.part q.part).job.requests ++
        [{ fn := f, slot := n, cmd := q.cmd, post := q.postDtb, payload := q.payload.take q.len }]) ∧
  (∀ (f : Fn) (n : Nat) (s : State) (q : Slot) (im : Image), s.Carries f n (isCmd 0x0405) q → (s.part q.part).image = some im →
    (let b := sub (q.payload.take q.len) 0 4
     slotOwned im (fbits b 0 7 0) = true → ∃ t, exec (.slotQuery f n) s = .next t ∧
       t.Completed f n Config.stOk (s.seqEnt q.part im (fbits b 0 7 0)) ∧ t = { s with fns := t.fns, out := t.out })) ∧
  (∀ (f : Fn) (n i : Nat) (s : State) (q : Slot), s.Carries f n (isCmd 0x0500) q →
    (let d := q.payload.take 128
     let k := Cd.pair d
     s.openRefusal q.part d = none → (List.range 16).find? (fun i => !(s.sess k i).isOpen) = some i →
     ∃ t, exec (.codecOpen f n) s = .next t ∧ t.cores = s.cores ∧ t.hbm = s.hbm ∧ (t.sess k i).isOpen = true ∧ (t.sess k i).desc = d ∧
       (t.sess k i).part = q.part ∧ (t.sess k i).gen = ((s.sess k i).gen + 1) % 65536 ∧ (t.sess k i).submits = [] ∧
       t.Completed f n Config.stOk (leBytes 4 (handleOf k i (t.sess k i).gen)) ∧ ∀ j, j ≠ i → t.sess k j = s.sess k j)) ∧
  (∀ (f : Fn) (n k i : Nat) (s : State) (q : Slot), s.Carries f n (isCmd 0x0501) q →
    (let b := q.payload.take 128
     s.byHandle q.part (fbits b 0 23 0) = some (k, i) → submitBad b = false → fld b 24 5 = 0 →
     (s.sess k i).closing = 0 → (s.sess k i).submits.length < 32 → ∃ t, exec (.codecSubmit f n) s = .next t ∧ t.Waits f n ∧
       t = { s with fns := t.fns, pairs := t.pairs } ∧ t.sess k i = { s.sess k i with
         submits := (s.sess k i).submits ++ [{ fn := f, slot := n, post := q.postDtb, record := b }] })) ∧
  (∀ (f : Fn) (n k i : Nat) (s : State) (q : Slot), s.Carries f n (isCmd 0x0502) q →
    s.byHandle q.part (fbits q.payload 0 23 0) = some (k, i) → (s.sess k i).closing = 0 → fbits q.payload 4 0 0 = 0 →
    (s.sess k i).outputs = [] → (s.sess k i).submits = [] → ∃ t, exec (.codecClose f n) s = .next t ∧ t.Completed f n Config.stOk [] ∧
      t.cores = s.cores ∧ t.hbm = s.hbm ∧ t.sess k i = { gen := (s.sess k i).gen }) ∧
  (∀ (f : Fn) (n k i : Nat) (s : State) (q : Slot), s.Carries f n (isCmd 0x0503) q →
    s.byHandle q.part (fbits q.payload 0 23 0) = some (k, i) → fld q.payload 4 4 < Cd.pool (s.sess k i).desc →
    ∃ t, exec (.codecRelease f n) s = .next t ∧ t.Completed f n Config.stOk [] ∧ t.cores = s.cores ∧ t.hbm = s.hbm ∧
      ((∀ u, u ∈ (s.sess k i).outputs → u.frame ≠ some (fld q.payload 4 4)) →
        ∀ e, e ∈ (t.sess k i).frames → e.1 = fld q.payload 4 4 → e.2.outWait = false ∧ e.2.mark ≠ 3))

/-- With its turn come and its own checks passed: FW_WRITE leaves the second reading in the named slot, valid exactly where it has the
first one's digest, and the other slot as it was; FW_ACTIVATE of a slot that verifies with the root patch in force restarts service
firmware from it, of any other slot leaves it down; FW_ADVANCE_SVN raises the counters to the image in force or is refused; FW_REVOKE_KEY
blows one fuse or is refused; ATTEST answers the report and JOURNAL_READ the entries; DEBUG_CHALLENGE leaves a challenge, and DEBUG_TOKEN,
used up either way, unlocks only with a right token. DEBUG_EXPIRY, JOURNAL_SEAL and SERVICE_FW_RESTART act when due; the two sideband rows
answer, and change nothing else but the free values' counter. HBM and cores are unchanged. [R433, R434, R435, R436, R437, R438, R439,
R440, R441, R444, R446, R447] -/
def Obligations.FirmwareRowsComplete : Prop :=
  (∀ (f : Fn) (n : Nat) (a b : List Byte) (s : State) (q : Slot), s.Carries f n (isFwOp 0) q →
    (let len := Up.bytes q.payload
     let k := Up.target q.payload
     let c := sub b 0 len
     Up.bad q.payload = false → 512 ≤ len → len ≤ 167772160 → s.fw.writeRefusal k (sub a 0 len) = none →
     (let ok := sha384 c == sha384 (sub a 0 len)
      ∃ t, exec (.fwWrite f n (some a) (some b)) s = .next t ∧ t.Completed f n (if ok then Config.stOk else Config.stBadSignature) [] ∧
        t.fw.image k = c ∧ t.fw.valid k = ok ∧ t.fw.image (1 - k) = s.fw.image (1 - k) ∧ t.fw.valid (1 - k) = s.fw.valid (1 - k) ∧
        t = { s with fns := t.fns, out := t.out, fw := t.fw }))) ∧
  (∀ (f : Fn) (n : Nat) (s : State) (q : Slot), s.Carries f n (isFwOp 1) q → Up.bad q.payload = false →
    (let k := Up.target q.payload
     let ok := s.fw.sound k && Fi.digest (Fi.ofKind (s.fw.image k) 1) == Fi.digest (Fi.ofKind s.fw.rootHead 1)
     ∃ t, exec (.fwActivate f n) s = .next t ∧ (t.slot f n).done = true ∧ t.fw.svcDown = !ok ∧ t.fw.svcRestart = ok ∧
       t.fw.svcRestarts = satAdd 0x1FF s.fw.svcRestarts 1 ∧ (ok = true → t.fw.svcImage = k ∧ t.fw.svcHead = (s.fw.image k).take 512) ∧
       t.cores = s.cores ∧ t.hbm = s.hbm)) ∧
  (∀ (f : Fn) (n : Nat) (s : State) (q : Slot), s.Carries f n (isFwOp 2) q → Up.bad q.payload = false →
    (let r := max s.fw.rootSvn (Fi.rootSvn s.fw.rootHead)
     let v := max s.fw.svcSvn (Fi.svcSvn s.fw.svcHead)
     let ok := ∀ k, k < 2 → s.fw.valid k = true ∧ r ≤ Fi.rootSvn (s.fw.image k) ∧ v ≤ Fi.svcSvn (s.fw.image k)
     (ok → ∃ t, exec (.fwAdvanceSvn f n) s = .next t ∧ t.Completed f n Config.stOk [] ∧ t.fw.rootSvn = r ∧ t.fw.svcSvn = v ∧
       t = { s with fns := t.fns, out := t.out, fw := t.fw }) ∧
     (¬ ok → ∃ t, exec (.fwAdvanceSvn f n) s = .next t ∧ t.Completed f n Config.stRollback [] ∧ t.fw = s.fw))) ∧
  (∀ (f : Fn) (n : Nat) (s : State) (q : Slot), s.Carries f n (isFwOp 3) q → Up.bad q.payload = false →
    (let k := Up.key q.payload
     (s.fw.revoked ||| 2 ^ k ≠ 15 → (∀ j, j < 2 → s.fw.valid j = true → Fi.keySlot (s.fw.image j) ≠ k) →
       ∃ t, exec (.fwRevokeKey f n) s = .next t ∧ t.Completed f n Config.stOk [] ∧ t.fw.revoked = (s.fw.revoked ||| 2 ^ k) ∧
         t = { s with fns := t.fns, out := t.out, fw := t.fw }) ∧
     (s.fw.revoked ||| 2 ^ k = 15 → ∃ t, exec (.fwRevokeKey f n) s = .next t ∧ t.Completed f n Config.stBadField [] ∧ t.fw = s.fw))) ∧
  (∀ (f : Fn) (n : Nat) (s : State) (q : Slot), s.Carries f n (isCmd 0x0601) q →
    ∃ t, exec (.attest f n) s = .next t ∧ t.Completed f n Config.stOk (s.attestation (q.payload.take 32)
        (if isPf f then fbits q.payload 32 3 0 else ((s.begun f n q).ownedBy f).getD 16) (fbits q.payload 32 4 4 == 1)) ∧
      t = { s with fns := t.fns, out := t.out, freeCtr := t.freeCtr }) ∧
  (∀ (f : Fn) (n : Nat) (s : State) (q : Slot), s.Carries f n (isCmd 0x0600) q →
    (let r := s.fw.readJournal (fld q.payload 0 8) (min 65536 (fld q.payload 8 4))
     (fld q.payload 16 8 = 0 → fld q.payload 8 4 ≤ 31 → ∃ t, exec (.journalRead f n) s = .next t ∧
       t.Completed f n Config.stOk (r.1 ++ r.2) ∧ t = { s with fns := t.fns, out := t.out } ∧ t.out.host = s.out.host) ∧
     (fld q.payload 16 8 ≠ 0 → ∃ t, exec (.journalRead f n) s = .next t ∧ t.Completed f n Config.stOk r.1 ∧
       t = { s with fns := t.fns, out := t.out } ∧ t.out.host = s.out.host ++ [(f.port, fld q.payload 16 8, r.2)]))) ∧
  (∀ (f : Fn) (n : Nat) (s : State) (q : Slot), s.Carries f n (isUnlock 0) q → fld q.payload 0 1 = 0 →
    ∃ t, exec (.debugChallenge f n) s = .next t ∧ t.fw = { s.fw with challenge := some s.freeCtr } ∧
      t.Completed f n Config.stOk (leBytes 32 (Config.challenge s.freeCtr).toNat) ∧ t.cores = s.cores ∧ t.hbm = s.hbm) ∧
  (∀ (f : Fn) (n : Nat) (s : State) (q : Slot), s.Carries f n (isUnlock 1) q →
    (let k := sub q.payload 8 160
     (s.tokenBad k = true → ∃ t, exec (.debugToken f n) s = .next t ∧ t.Completed f n Config.stDebugLocked [] ∧
       t.fw = { s.fw with challenge := none }) ∧
     (s.tokenBad k = false → ∃ t, exec (.debugToken f n) s = .next t ∧ t.Completed f n Config.stOk [] ∧ t.fw.challenge = none ∧
       t.fw.debugScope = fld k 52 4 + 1 ∧ t.fw.debugExpires = fld k 56 8 ∧ t.fw.debugSinceCold = true ∧ t.cores = s.cores))) ∧
  (∀ s : State, (s.fw.debugScope = 0 ∨ s.dtb < s.fw.debugExpires → exec .debugExpiry s = .next s) ∧
    (s.fw.debugScope ≠ 0 → s.fw.debugExpires ≤ s.dtb → exec .debugExpiry s = .next { s with fw := { s.fw with debugScope := 0 } })) ∧
  (∀ s : State, s.power.off = false → s.pcie.held = false →
    (s.fw.unsealed = 0 ∨ (s.fw.unsealed < 256 ∧ s.dtb < s.fw.unsealedSince + 1000000000) → exec .journalSeal s = .next s) ∧
    (s.fw.unsealed ≠ 0 → 256 ≤ s.fw.unsealed ∨ s.fw.unsealedSince + 1000000000 ≤ s.dtb → ∃ t e, exec .journalSeal s = .next t ∧
      t.fw.unsealed = 0 ∧ t.fw.journal.getLast? = some e ∧ e.kind = 3 ∧ t = { s with fw := t.fw, freeCtr := t.freeCtr }) ∧
    (s.fw.svcDown = true → exec .serviceFwRestart s = .next s) ∧
    (s.fw.svcDown = false → ∃ t, exec .serviceFwRestart s = .next t ∧ t.fw.svcRestarts = satAdd 0x1FF s.fw.svcRestarts 1 ∧
      (s.fw.sound 1 = true → Fi.digest (Fi.ofKind (s.fw.image 1) 1) = Fi.digest (Fi.ofKind s.fw.rootHead 1) →
        t.fw.svcImage = 1 ∧ t.fw.svcRestart = true) ∧ t = { s with fns := t.fns, out := t.out, fw := t.fw }) ∧
    (∀ b : List Byte, 24 ≤ b.length → fld b 16 8 = 0 →
      (let r := s.fw.readJournal (fld b 0 8) (min 7 (fld b 8 4))
       exec (.mctpJournalRead b) s = .next { s with out := { s.out with side := leBytes 1 Config.stOk ++ r.1 ++ r.2 } })) ∧
    (∀ b : List Byte, 36 ≤ b.length → ∃ t, exec (.mctpAttest b) s = .next t ∧
      t = { s with out := t.out, freeCtr := s.freeCtr + 1 } ∧ t.out.side = (leBytes 1 Config.stOk ++
        s.attestation (b.take 32) (fbits b 32 3 0) (fbits b 32 4 4 == 1)).take 1024))

/-- CONTAINED_FAULT with a report queued stops the partition: every core of its blocks reads RUN 5, the oldest report leaves the queue,
its status is the last fault, and REC_STATE says what follows; without one and without an announcement nothing changes. ROLLBACK to a
point, with fewer than three to it before, leaves the partition running with one more rollback counted; the fourth leaves it frozen with
REC_STATE 3. FIELD_PLL_LOCK_LOSS raises the fatal state; DEVICE_FATAL_FAULT resets the device and records LAST_FATAL. LOCK_WORD_TIMEOUT
revokes a lock held for 1 ms and no earlier. CHECKPOINT_DUE sets the next checkpoint's point at rank 0. BUDDY_DRAIN sends the first
granule not drained and frees its copy. [R24, R450, R453, R454, R460, R461, R463, R464, R465, R466] -/
def Obligations.FaultsAndRecoveryComplete : Prop :=
  (∀ (p : Nat) (a : Bool) (s : State) (im : Image), p < 16 → (s.part p).image = some im →
    ((s.part p).job.reports = [] → a = false → exec (.containedFault p a) s = .next s) ∧
    (∀ st d b src rest, (s.part p).job.reports = (st, d, b, src) :: rest → s.commit.waiting = [] → ∃ t,
      exec (.containedFault p a) s = .next t ∧ (∃ more, (t.part p).job.reports = rest ++ more) ∧ (t.part p).job.stopped = true ∧
      (t.part p).job.running = false ∧ (t.part p).job.lastFault = st ∧ ((t.part p).rcv.state = 1 ∨ (t.part p).rcv.state = 4 ∨
        (t.part p).rcv.state = 5) ∧ (t.part p).image = some im ∧ ∀ c, c ∈ geoCores (s.part p).geo → (t.core c).seq.run = 5)) ∧
  (∀ (p fp : Nat) (s : State) (im : Image) (q : RecPoint), p < 16 → (s.part p).image = some im → (s.part p).job.stopped = true →
    (s.part p).job.frozen = false → (s.part p).rcv.state = 1 → s.commit.waiting = [] → s.memHeld p = false →
    ((s.part p).rcv.points.filter (fun q => q.fp == fp && (!(s.part p).rcv.replaced || q.isCkpt))).getLast? = some q →
    (tpModules im.bytes ≤ 1 → fp = (s.part p).rcv.points.foldl (fun m t => max m t.fp) 0) →
    ∃ t, exec (.rollback p fp) s = .next t ∧ (t.part p).rcv.rollbacks = satAdd 0xFF (s.part p).rcv.rollbacks 1 ∧
      (t.part p).image = some im ∧ (t.part p).job.nextCommit = q.beat ∧
      (((s.part p).rcv.ledger.filter (fun e => e.1 == fp)).length < 3 → (t.part p).job.running = true ∧ (t.part p).job.frozen = false ∧
        (t.part p).rcv.state = 0) ∧
      (3 ≤ ((s.part p).rcv.ledger.filter (fun e => e.1 == fp)).length → (t.part p).job.frozen = true ∧ (t.part p).job.running = false ∧
        (t.part p).rcv.state = 3)) ∧
  (∀ (k : Nat) (s : State), k < 4 → s.dead = false → s.power.state < 2 →
    exec (.fieldPllLockLoss k) s = .next { s with power := { s.power with fatal := true, fatalCause := 1 } }) ∧
  (∀ (cause : Nat) (s : State), s.dead = false → cause = 2 ∨ ((cause = 1 ∨ cause = 3) ∧ s.power.fatalCause = cause) → ∃ t,
    exec (.deviceFatalFault cause) s = .next t ∧ t.power.state = 0 ∧ t.power.fatal = false ∧ t.power.fatalCause = 0 ∧
    t.power.lastFatal = (if cause = 3 then Config.stThermalHalt else Config.stDeviceReset) ∧
    t.power.resetCause = (if cause = 2 then 4 else 3) ∧ (∀ p, (t.part p).geo.defined = false ∧ (t.part p).image = none) ∧ t.cores = []) ∧
  (∀ (p n : Nat) (s : State), p < 16 →
    ((s.part p).rcv.locks[n]? = none → exec (.lockWordTimeout p n) s = .next s) ∧
    ∀ a tok t0, (s.part p).rcv.locks[n]? = some (a, tok, t0) →
      (s.memHeld p = true ∨ s.dtb < t0 + 1000000 → exec (.lockWordTimeout p n) s = .next s) ∧
      (s.memHeld p = false → t0 + 1000000 ≤ s.dtb → ∃ t, exec (.lockWordTimeout p n) s = .next t ∧ (t.part p).rcv.locks = (s.part p).rcv.locks.eraseIdx n ∧
        t.hbm = (s.writeP p a (leBytes 4 ((tok + 1) % 2 ^ 32))).hbm ∧ t.cores = s.cores)) ∧
  (∀ (p : Nat) (as_ : List Nat) (s : State) (im : Image), p < 16 → (s.part p).image = some im →
    (let own := (s.imageCores p).foldl (fun m c => max m (s.core c).seq.fpCount) 0
     let past := as_.filter (fun a => decide (own + 4 ≤ a))
     ((s.part p).job.running = false ∨ (s.part p).rcv.ckptAt ≠ 0 → exec (.checkpointDue p as_) s = .next s) ∧
     ((s.part p).job.running = true → (s.part p).rcv.ckptAt = 0 → s.rank p im = some 0 → (s.part p).rcv.ckptNext ≠ 0 →
       (s.dtb < (s.part p).rcv.ckptNext → exec (.checkpointDue p as_) s = .next s) ∧
       ((s.part p).rcv.ckptNext ≤ s.dtb → ∃ t, exec (.checkpointDue p as_) s = .next t ∧ t = { s with parts := t.parts } ∧
         (t.part p).rcv.ckptAt = (if past = [] then own + 4 else past.foldl max 0 + 4))))) ∧
  (∀ (p port g : Nat) (s : State) (im : Image) (q : RecPoint) (rest : List RecPoint), p < 16 → (s.part p).image = some im →
    (s.part p).rcv.points.reverse = q :: rest → s.buddyPort p = some port →
    (q.isCkpt = false ∨ s.drains p = false ∨ s.memHeld p = true → exec (.buddyDrain p) s = .next s) ∧
    (q.isCkpt = true → s.drains p = true → s.memHeld p = false → (calvedGranules im).find? (fun g => !q.drained.contains g) = some g →
      ∃ t, exec (.buddyDrain p) s = .next t ∧ t.cores = s.cores ∧ t.hbm = s.hbm ∧ (t.part p).rcv.points.reverse =
        { q with drained := q.drained ++ [g], calf := q.calf.filter (fun e => e.1 != g) } :: rest ∧ (t.part p).rcv.ckptDrain = true ∧
        ∃ m, ((t.port port).vc 8).out = ((s.port port).vc 8).out ++ [m]))

/-- CORE_RESET leaves the core idle with its local memories and counters reading 0, the table sides of a core of a partition as they were
and due for a rewrite, nothing staged, and every other core, HBM and the journal as they were. FUNCTION_RESET empties the function's
slots, or shows a taken command as ended with ST_ABORTED_RESET, and clears its event queue and DISCARDS and masks every vector (the
model's choice, log entry 17); PERMIT and the host lease stay; in Permafrost it begins the exit. PERST_BOTH holds the device reset,
PERST_RELEASE boots it; nothing happens to a device that is off or held. A link that goes down changes only its bit, and one that comes up
resets the port's functions. POWER_ON and REFERENCE_CLOCK_STABLE release the cold reset together and not alone. [R228, R405, R406, R418,
R468, R469, R471, R472, R500] -/
def Obligations.ResetRowsComplete : Prop :=
  (∀ (c : Nat) (s : State), c < Config.cores → s.dead = false → s.power.state < 2 → ∃ t, exec (.coreReset c) s = .next t ∧
    (t.core c).seq.run = 0 ∧ (t.core c).seq.pc = 0 ∧ (t.core c).ready = 0 ∧ (∀ a, (t.core c).ts.read a = 0) ∧ (∀ a, (t.core c).ob.read a = 0) ∧
    ((s.partOf c).isSome = true → (t.core c).sf = (s.core c).sf ∧ (t.core c).cb = (s.core c).cb ∧ (t.core c).firn = (s.core c).firn ∧
      (t.core c).banksDue = true) ∧ (∀ k, Cells.get (fun _ => 0) (t.core c).pmc k = 0) ∧ t.commit.staged = [] ∧ (∀ d, d ≠ c → t.core d = s.core d) ∧ t.hbm = s.hbm ∧ t.fw = s.fw ∧
    t.parts = s.parts) ∧
  (∀ (f : Fn) (s : State), fnOk f = true → s.dead = false →
    (s.power.state ≠ 3 → ∃ t, exec (.functionReset f) s = .next t ∧ (t.fn f).permit = (s.fn f).permit ∧
      (t.fn f).leaseDtb = (s.fn f).leaseDtb ∧ (t.fn f).discards = 0 ∧ (t.fn f).msixMask = 2 ^ 64 - 1 ∧ t.commit.staged = [] ∧ t.cores = s.cores ∧
      t.hbm = s.hbm ∧ ∀ n, t.slot f n = {} ∨ ((t.slot f n).done = true ∧ (t.slot f n).post = false ∧ (t.slot f n).status = Config.stAbortedReset)) ∧
    (s.power.state = 3 → ∃ t, exec (.functionReset f) s = .next t ∧ t.power.state = 2 ∧ t.power.regradeDue = true)) ∧
  (∀ s : State, (s.dead = true → exec .perstBoth s = .next s) ∧
    (s.dead = false → ∃ t, exec .perstBoth s = .next t ∧ t.pcie.held = true ∧ t.power.state = 0 ∧ t.power.resetCause = 1 ∧
      (∀ p, (t.part p).geo.defined = false ∧ (t.part p).image = none) ∧ t.cores = [] ∧ t.fw.rootSvn = s.fw.rootSvn) ∧
    (s.power.off = true ∨ s.pcie.held = false → exec .perstRelease s = .next s) ∧
    (s.power.off = false → s.pcie.held = true → ∃ t e, exec .perstRelease s = .next t ∧ t.pcie.held = false ∧
      t.fw.svcDown = (!s.fw.sound 0 && !s.fw.sound 1) ∧ t.fw.svcImage = (if s.fw.sound 0 = false ∧ s.fw.sound 1 = true then 1 else 0) ∧
      t.fw.unsealed = 0 ∧ t.fw.journal.getLast? = some e ∧ e.kind = 3)) ∧
  (∀ (port : Nat) (s : State), port < 2 → (∃ t, exec (.pcieLinkDown port) s = .next t ∧ t = { s with pcie := t.pcie } ∧
      t.pcie.link port = false ∧ t.pcie.link (1 - port) = s.pcie.link (1 - port)) ∧
    (s.pcie.link port = true → exec (.pcieLinkUp port) s = .next s) ∧
    (s.pcie.link port = false → s.dead = false → s.power.state ≠ 3 → ∃ t, exec (.pcieLinkUp port) s = .next t ∧
      t.pcie.link port = true ∧ t.commit.staged = [] ∧ t.cores = s.cores ∧ t.hbm = s.hbm ∧
      ∀ i, i ≤ 16 → (t.fn ⟨port, i⟩).discards = 0 ∧ (t.fn ⟨port, i⟩).permit = (s.fn ⟨port, i⟩).permit)) ∧
  (∀ s : State, (s.power.off = false → exec .powerOn s = .next s) ∧
    (s.power.off = true → s.power.refStable = false → exec .powerOn s = .next { s with power := { s.power with pwrGood := true } }) ∧
    (s.power.off = true → s.power.pwrGood = false →
      exec .referenceClockStable s = .next { s with power := { s.power with refStable := true } }) ∧
    (s.power.off = true → s.power.refStable = true → ∃ t, exec .powerOn s = .next t ∧ t.power.off = false ∧ t.hbm = s.hbm) ∧
    (s.power.off = true → s.power.pwrGood = true → ∃ t, exec .referenceClockStable s = .next t ∧ t.power.off = false ∧ t.hbm = s.hbm))

/-- A shutdown cause that may act turns the module off and records itself; any other changes nothing. LEAK_DETECT sets LEAK once and notes
its time, LEAK_CLEAR clears it. SENSOR_UPDATE records the readings, the input flags by the bounds of R501, and the highest power.
POWER_CAP_MEASURE caps exactly while an average is above its cap. FIELD_THERMAL_EVALUATION raises a field's step at once and lowers it by
one after ten evaluations below its bound. PERMAFROST_EXIT leads to Frost, PERMAFROST_ENTRY to Permafrost where its conditions hold;
POWER_STATE_QUERY and SENSOR_READ answer and change nothing else but the free values' counter. CBL_PRESENT_CHANGE to high holds the port,
to low lets it train. [R474, R475, R499, R501, R502, R504, R508, R509, R510, R511] -/
def Obligations.SupplyRowsComplete : Prop :=
  (∀ (cause : Nat) (s : State), (s.mayShutDown cause = false → exec (.shutdownCause cause) s = .next s) ∧
    (s.mayShutDown cause = true → ∃ t, exec (.shutdownCause cause) s = .next t ∧ t.power.off = true ∧ t.cool.lastShutdown = cause ∧
      t.parts = [] ∧ t.cores = [] ∧ t.fw.rootSvn = s.fw.rootSvn ∧ t.power.volts = s.power.volts ∧
      ∃ e, t.fw.journal.getLast? = some e ∧ e.kind = 2 ∧ e.new = leBytes 1 cause)) ∧
  (∀ s : State, s.power.off = false → (s.cool.leak = true → exec .leakDetect s = .next s) ∧
    (s.cool.leak = false → ∃ t, exec .leakDetect s = .next t ∧ t.cool.leak = true ∧ t.cool.leakSince = some s.dtb ∧
      t.cool.thermAlert = true ∧ t.cores = s.cores ∧ t.hbm = s.hbm) ∧
    (∃ t, exec .leakClear s = .next t ∧ t.cool.leak = false ∧ t.cool.leakSince = none ∧ t.cores = s.cores ∧ t.hbm = s.hbm) ∧
    ∀ r : Sensors, ∃ t, exec (.sensorUpdate r) s = .next t ∧ t.cool.vinMv = r.vinMv ∧ t.cool.pinW = r.pinW ∧
      t.cool.pinPeak = max s.cool.pinPeak r.pinW ∧ t.cool.vinLow = decide (r.vinMv < 54000) ∧ t.cool.vinHigh = decide (63000 < r.vinMv) ∧
      t.cool.thermAlert = t.cool.alertNow ∧ t.cores = s.cores ∧ t.hbm = s.hbm ∧ t.parts = s.parts) ∧
  (∀ (w : Nat) (s : State), s.power.off = false → ∃ t, exec (.powerCapMeasure w) s = .next t ∧
    t.cool.capSamples = (w :: s.cool.capSamples).take 10000 ∧ t.cool.capping = overCap s.cool.cap t.cool.capSamples ∧
    t.cool.cap = s.cool.cap ∧ t.cores = s.cores ∧ t.hbm = s.hbm ∧
    (s.cool.capTick ≠ 99 → t.cool.capMs = s.cool.capMs ∧ t.cool.capTick = (s.cool.capTick + 1) % 100)) ∧
  (∀ (k : Nat) (x : Int) (s : State), k < 4 → s.power.off = false → s.power.state < 2 → s.cool.fieldSteps.length = 4 →
    s.cool.fieldBelow.length = 4 → ∃ t, exec (.fieldThermalEvaluation k x) s = .next t ∧ t.cores = s.cores ∧ t.hbm = s.hbm ∧
      (let old := s.cool.fieldSteps.getD k 0
       let new := t.cool.fieldSteps.getD k 0
       (old < fieldStep x → new = fieldStep x) ∧ (fieldStep x ≤ old → stepBound old ≤ x → new = old) ∧
       (0 < old → fieldStep x ≤ old → x < stepBound old → new = if s.cool.fieldBelow.getD k 0 < 9 then old else old - 1)) ∧
      ∀ j, j ≠ k → t.cool.fieldSteps.getD j 0 = s.cool.fieldSteps.getD j 0) ∧
  (∀ s : State, s.dead = false →
    exec .powerStateQuery s = .next { s with out := { s.out with side := leBytes 1 Config.stOk ++ leBytes 1 s.power.state } } ∧
    (∃ t, exec .permafrostExit s = .next t ∧ t.power.state = (if s.power.state = 3 then 2 else s.power.state) ∧
      t.out.side = leBytes 1 Config.stOk ∧ t.cores = s.cores ∧ t.hbm = s.hbm) ∧
    ((s.powerRefusal 3).isSome = true →
      exec .permafrostEntry s = .next { s with out := { s.out with side := leBytes 1 Config.stPowerState } }) ∧
    (s.powerRefusal 3 = none → s.power.state ≤ 3 → ∃ t, exec .permafrostEntry s = .next t ∧ t.power.state = 3 ∧
      t.out.side = leBytes 1 Config.stOk) ∧
    ∀ b : List Byte, (32 < b.length → exec (.sensorRead b) s = .next { s with out := { s.out with side := leBytes 1 Config.stBadLength } }) ∧
      (b ≠ [] → b.length ≤ 32 → ∃ t, exec (.sensorRead b) s = .next t ∧ t = { s with out := t.out, freeCtr := s.freeCtr + 1 } ∧
        t.out.side.length = 1 + 8 * b.length)) ∧
  (∀ (p : Nat) (high : Bool) (s : State), p < 16 → ((s.port p).cblHigh = high → exec (.cblPresentChange p high) s = .next s) ∧
    ((s.port p).cblHigh ≠ high → ∃ t, exec (.cblPresentChange p high) s = .next t ∧ (t.port p).cblHigh = high ∧ t.cores = s.cores ∧
      t.hbm = s.hbm ∧ (s.dead = false → s.power.state ≠ 3 → (s.port p).disable = false →
        (t.port p).state = (if high then 0 else 1))))

/-- Every reset leaves nothing staged: a core reset, a partition reset, a device reset by its command, by both reset inputs or after a
device-fatal fault, a function reset by its row or by a link that comes up, and the cold reset that follows a loss of power. A commit of
values that all equal their committed values changes no field of the journal; and one that stages such a value beside a changed power cap
makes exactly one entry. Formalises: "Staged values that have not been committed are lost at every kind of reset. An RWS field whose
staged value equals its committed value at commit time counts as unchanged and makes no journal entry." [R9] -/
def Obligations.StagedValuesAreLostAtReset : Prop :=
  (∀ (c : Nat) (s : State), c < Config.cores → s.dead = false → s.power.state < 2 → ∃ t, exec (.coreReset c) s = .next t ∧
    t.commit.staged = []) ∧
  (∀ (f : Fn) (n : Nat) (s : State) (q : Slot), s.Carries f n (isCmd 0x0208) q → ∃ t, exec (.partReset f n) s = .next t ∧
    t.commit.staged = []) ∧
  (∀ (f : Fn) (n : Nat) (s : State) (q : Slot), s.Carries f n (isCmd 0x0012) q → ∃ t, exec (.deviceReset f n) s = .next t ∧
    t.commit.staged = []) ∧
  (∀ s : State, s.dead = false → ∃ t, exec .perstBoth s = .next t ∧ t.commit.staged = []) ∧
  (∀ s : State, s.dead = false → ∃ t, exec (.deviceFatalFault 2) s = .next t ∧ t.commit.staged = []) ∧
  (∀ (f : Fn) (s : State), fnOk f = true → s.dead = false → ∃ t, exec (.functionReset f) s = .next t ∧ t.commit.staged = []) ∧
  (∀ (port : Nat) (s : State), port < 2 → s.dead = false → s.power.state ≠ 3 → s.pcie.link port = false →
    ∃ t, exec (.pcieLinkUp port) s = .next t ∧ t.commit.staged = []) ∧
  (∀ (cause : Nat) (s : State), s.mayShutDown cause = true → ∃ t, exec (.shutdownCause cause) s = .next t ∧ t.commit.staged = []) ∧
  (∀ (f : Fn) (n : Nat) (s : State) (q : Slot), s.Carries f n (isCmd 0x0010) q → s.commit.pending = false →
    (∀ v, v ∈ s.commit.staged → (s.begun f n q).commitRefusal v = none) →
    (∀ v, v ∈ s.commit.staged → s.committed v = v) → ∃ t, exec (.commit f n) s = .next t ∧ t.fw = s.fw ∧ t.Completed f n Config.stOk []) ∧
  (∀ (f : Fn) (n w : Nat) (s : State) (q : Slot), s.Carries f n (isCmd 0x0010) q → s.commit.pending = false →
    s.commit.staged = [.leakShutdown (b2n s.cool.leakShutdown), .powerCap w] → w ≠ s.cool.cap → w < 65536 → s.cool.cap < 65536 → s.fw.journal.length + 2 ≤ journalCap →
    ∃ t, exec (.commit f n) s = .next t ∧ t.fw.nextSeq = s.fw.nextSeq + 1 ∧ t.cool.cap = w)

/-- Sending vector v of a function: unmasked, the message goes out; masked, only its pending bit changes. A completed command whose slot
asks for an interrupt sends the vector that its slot names, and an event entered into the queue of a function sends vector 0. MSIX_UNMASK
of any of the 64 vectors fires a pending one once and leaves it neither masked nor pending; a vector above 63 does not exist. Formalises:
"Each function has 64 MSI-X vectors. Vector 0 signals the event queue. A mailbox completion raises the vector its slot names. A masked
vector sets its pending bit and fires when unmasked, as MSI-X requires." [R410] -/
def Obligations.InterruptsGoToTheirVectors : Prop :=
  (∀ (f : Fn) (v : Nat) (s : State),
    (bit (s.fn f).msixMask v = false → s.irq f v = { s with out := { s.out with irqs := s.out.irqs ++ [(f, v)] } }) ∧
    (bit (s.fn f).msixMask v = true → (s.irq f v).out = s.out ∧ (∀ j, bit ((s.irq f v).fn f).msixPend j =
      (bit (s.fn f).msixPend j || decide (j = v))) ∧ ((s.irq f v).fn f).msixMask = (s.fn f).msixMask ∧
      s.irq f v = { s with fns := (s.irq f v).fns })) ∧
  (∀ (f : Fn) (n st d : Nat) (r : List Byte) (s : State), bit (s.slot f n).w3 6 = false →
    bit (s.fn f).msixMask (bits (s.slot f n).w3 5 0) = false →
    (s.complete f n st d r).out.irqs = s.out.irqs ++ [(f, bits (s.slot f n).w3 5 0)]) ∧
  (∀ (f : Fn) (b : List Byte) (s : State), ((s.fn f).evqTail + 1) % 256 ≠ (s.fn f).evqHead → bit (s.fn f).msixMask 0 = false →
    (s.eventTo b f).out.irqs = s.out.irqs ++ [(f, 0)] ∧
    Cells.get (fun _ => []) ((s.eventTo b f).fn f).ring (s.fn f).evqTail = b) ∧
  (∀ (f : Fn) (v : Nat) (s : State), fnOk f = true → v < 64 → ∃ t, exec (.msixUnmask f v) s = .next t ∧
    bit (t.fn f).msixMask v = false ∧ bit (t.fn f).msixPend v = false ∧
    t.out.irqs = (if bit (s.fn f).msixPend v = true then s.out.irqs ++ [(f, v)] else s.out.irqs)) ∧
  (∀ (f : Fn) (v : Nat) (s : State), 64 ≤ v → exec (.msixUnmask f v) s = .fault .noSuchUnit)

/-- From every state of a powered device above Frost, FIELD_PLL_LOCK_LOSS of any of the four fields answers a state with the device-fatal
condition raised for cause 1, in which no core of any field has an instruction to issue and each of the 33 core rows, for every core,
changes nothing. What happens then is DEVICE_FATAL_FAULT's. Formalises: "If any field PLL loses lock, all four fields stop issuing at the
next field cycle, and the device raises a device-fatal fault." [R24] -/
def Obligations.LostLockStopsEveryField : Prop :=
  ∀ (k : Nat) (s : State), k < 4 → s.dead = false → s.power.state < 2 → ∃ t, exec (.fieldPllLockLoss k) s = .next t ∧
    t.power.fatal = true ∧ t.power.fatalCause = 1 ∧ (∀ c, t.ctx c = none) ∧
    ∀ (i : Instr) (r : Row) (c : Nat), coreRow i = some (r, c) → c < Config.cores → exec i t = .next t

/-- Every code of INT32, INT16, INT8, INT4 and INT2 reads as its two's complement value, so INT4 from −8 to 7 and INT2 from −2 to 1; every
UINT8 code as itself; the ternary codes 00, 01 and 11 as 0, +1 and −1; and the ternary code 10 as 0, setting INVALID, which no other of
these codes does. Formalises: "INT32, INT16, INT8, INT4 and INT2 are two's complement. INT4 spans −8 to 7 and INT2 spans −2 to 1. UINT8
spans 0 to 255." [R35] -/
def Obligations.IntegerCodesRead : Prop :=
  (∀ fmt w c : Nat, (fmt, w) ∈ [(0x08, 32), (0x09, 16), (0x0A, 8), (0x0C, 4), (0x0D, 2)] → c < 2 ^ w →
    decodeCode fmt c = (Val.ofDy (.ofInt (if c < 2 ^ (w - 1) then (c : Int) else (c : Int) - 2 ^ w)), false)) ∧
  (∀ c, c < 256 → decodeCode 0x0B c = (Val.fin false c 1 0, false)) ∧
  decodeCode 0x0E 0 = (.zero, false) ∧ decodeCode 0x0E 1 = (.fin false 1 1 0, false) ∧ decodeCode 0x0E 3 = (.fin true 1 1 0, false) ∧
  decodeCode 0x0E 2 = (.zero, true)

/-- For every state whose table of functions is canonical (keys strictly rising, no entry equal to what an unlisted one reads as), with
every function's table of slots canonical too: whatever step it takes, the state after it has both. (The form is the model's own; the
statement on what resets do to slots rests on it.) [18_host_interface_and_mailboxes.md] -/
def Obligations.MailboxTablesStayCanonical : Prop :=
  ∀ s t : State, s.MailboxesCanonical → step s = .next t → t.MailboxesCanonical

/-- In a state whose mailbox tables are canonical: a function reset leaves each slot of the function clear, but that a slot whose command
was taken and not completed keeps its TAG and reads STATUS ST_ABORTED_RESET and DONE = 1, and no interrupt of that function is sent; a
device reset by its command leaves every slot of every function so, with ST_DEVICE_RESET, and sends no message (every vector is masked
after a reset: the model's way of MSI-X being disabled, log entry 17). Formalises: "A slot whose command was taken but not completed keeps
its TAG, and reads STATUS = ST_ABORTED_RESET (0x04) and DONE = 1." [R418] -/
def Obligations.ResetsCutSlots : Prop :=
  (∀ (f : Fn) (s : State), fnOk f = true → s.dead = false → s.power.state ≠ 3 → s.MailboxesCanonical →
    ∃ t l, exec (.functionReset f) s = .next t ∧ t.out.irqs = s.out.irqs ++ l ∧ (∀ v, (f, v) ∉ l) ∧
      ∀ n, t.slot f n = (if (s.slot f n).post && (s.slot f n).ack && !(s.slot f n).done
        then { tag := (s.slot f n).tag, status := Config.stAbortedReset, done := true } else {})) ∧
  (∀ (f : Fn) (n : Nat) (s : State) (q : Slot), s.Carries f n (isCmd 0x0012) q → s.MailboxesCanonical →
    ∃ t, exec (.deviceReset f n) s = .next t ∧ t.out.irqs = s.out.irqs ∧
      ∀ g m, t.slot g m = (if (s.slot g m).post && (s.slot g m).ack && !(s.slot g m).done
        then { tag := (s.slot g m).tag, status := Config.stDeviceReset, done := true } else {}))
end

