-- ==== Sys2Proof/Laws/Cells.lean ====
section
/-!
SUPPORT. Sys2Proof/Laws/Cells.lean: reading after writing in sparse tables and byte memories, and that every operation on them keeps
the canonical form.
-/

namespace Sys2Proof.Machine

variable {α : Type}

theorem Cells.get_insert_self (d : Nat → α) (m : List (Nat × α)) (k : Nat) (v : α) : Cells.get d (Cells.insert m k v) k = v := by
  induction m with
  | nil => simp [Cells.insert, Cells.get]
  | cons e r ih =>
    simp only [Cells.insert]
    split
    · simp [Cells.get]
    · split
      · simp [Cells.get]
      · simp [Cells.get, *]

theorem Cells.get_insert_other (d : Nat → α) (m : List (Nat × α)) {k j : Nat} (v : α) (h : j ≠ k) :
    Cells.get d (Cells.insert m k v) j = Cells.get d m j := by
  induction m with
  | nil => simp [Cells.insert, Cells.get, h]
  | cons e r ih =>
    simp only [Cells.insert]
    split
    · rename_i hk
      simp [Cells.get, h, ← hk]
    · split
      · simp [Cells.get, h]
      · simp [Cells.get, ih]

theorem Cells.get_erase_self (d : Nat → α) (m : List (Nat × α)) (k : Nat) : Cells.get d (Cells.erase m k) k = d k := by
  induction m with
  | nil => rfl
  | cons e r ih =>
    by_cases h : e.1 = k
    · simpa [Cells.erase, h] using ih
    · have h2 : (e.1 != k) = true := by simp [h]
      simp only [Cells.erase, List.filter_cons, h2, if_true, Cells.get, if_neg (Ne.symm h)]
      exact ih

theorem Cells.get_erase_other (d : Nat → α) (m : List (Nat × α)) {k j : Nat} (h : j ≠ k) :
    Cells.get d (Cells.erase m k) j = Cells.get d m j := by
  induction m with
  | nil => rfl
  | cons e r ih =>
    by_cases he : e.1 = k
    · have hj : j ≠ e.1 := by omega
      have h2 : (e.1 != k) = false := by simp [he]
      simp only [Cells.erase, List.filter_cons, h2, Cells.get, if_neg hj]
      exact ih
    · have h2 : (e.1 != k) = true := by simp [he]
      simp only [Cells.erase, List.filter_cons, h2, if_true, Cells.get]
      split
      · rfl
      · exact ih

/-- A key reads as what was last put there. -/
@[simp] theorem Cells.get_put_self [DecidableEq α] (d : Nat → α) (m : List (Nat × α)) (k : Nat) (v : α) : Cells.get d (Cells.put d m k v) k = v := by
  unfold Cells.put
  split
  · rename_i h
    rw [Cells.get_erase_self, h]
  · exact Cells.get_insert_self d m k v

/-- Every other key reads as before. -/
@[simp] theorem Cells.get_put_other [DecidableEq α] (d : Nat → α) (m : List (Nat × α)) {k j : Nat} (v : α) (h : j ≠ k) :
    Cells.get d (Cells.put d m k v) j = Cells.get d m j := by
  unfold Cells.put
  split
  · exact Cells.get_erase_other d m h
  · exact Cells.get_insert_other d m v h

/-- What a key reads as after a write, in one line. -/
theorem Cells.get_put [DecidableEq α] (d : Nat → α) (m : List (Nat × α)) (k j : Nat) (v : α) :
    Cells.get d (Cells.put d m k v) j = if j = k then v else Cells.get d m j := by
  by_cases h : j = k
  · subst h; simp
  · simp [h]

theorem Cells.wf_cons [DecidableEq α] (d : Nat → α) (e : Nat × α) (r : List (Nat × α)) :
    Cells.wf d (e :: r) = true ↔ e.2 ≠ d e.1 ∧ (∀ f, f ∈ r → e.1 < f.1) ∧ Cells.wf d r = true := by
  simp [Cells.wf, and_assoc]

theorem Cells.mem_insert {m : List (Nat × α)} {k : Nat} {v : α} {f : Nat × α} (h : f ∈ Cells.insert m k v) : f = (k, v) ∨ f ∈ m := by
  induction m with
  | nil => simpa [Cells.insert] using h
  | cons e r ih =>
    simp only [Cells.insert] at h
    split at h
    · rcases List.mem_cons.1 h with h | h
      · exact .inl h
      · exact .inr (List.mem_cons_of_mem _ h)
    · split at h
      · rcases List.mem_cons.1 h with h | h
        · exact .inl h
        · exact .inr h
      · rcases List.mem_cons.1 h with h | h
        · exact .inr (h ▸ List.mem_cons_self ..)
        · rcases ih h with h | h
          · exact .inl h
          · exact .inr (List.mem_cons_of_mem _ h)

theorem Cells.wf_filter [DecidableEq α] (d : Nat → α) (p : Nat × α → Bool) {m : List (Nat × α)} (h : Cells.wf d m = true) :
    Cells.wf d (m.filter p) = true := by
  induction m with
  | nil => rfl
  | cons e r ih =>
    rw [Cells.wf_cons] at h
    rw [List.filter_cons]
    split
    · rw [Cells.wf_cons]
      exact ⟨h.1, fun f hf => h.2.1 f (List.mem_filter.1 hf).1, ih h.2.2⟩
    · exact ih h.2.2

theorem Cells.wf_insert [DecidableEq α] (d : Nat → α) {m : List (Nat × α)} {k : Nat} {v : α} (hv : v ≠ d k) (h : Cells.wf d m = true) :
    Cells.wf d (Cells.insert m k v) = true := by
  induction m with
  | nil => simpa [Cells.insert, Cells.wf] using hv
  | cons e r ih =>
    have h0 := h
    rw [Cells.wf_cons] at h
    simp only [Cells.insert]
    split
    · rename_i hk
      rw [Cells.wf_cons]
      exact ⟨hv, fun f hf => hk ▸ h.2.1 f hf, h.2.2⟩
    · split
      · rename_i hk hlt
        rw [Cells.wf_cons]
        refine ⟨hv, fun f hf => ?_, h0⟩
        rcases List.mem_cons.1 hf with hf | hf
        · exact hf ▸ hlt
        · exact Nat.lt_trans hlt (h.2.1 f hf)
      · rename_i hk hlt
        rw [Cells.wf_cons]
        refine ⟨h.1, fun f hf => ?_, ih h.2.2⟩
        rcases Cells.mem_insert hf with hf | hf
        · subst hf
          show e.1 < k
          omega
        · exact h.2.1 f hf

/-- A write keeps the canonical form. -/
theorem Cells.wf_put [DecidableEq α] (d : Nat → α) {m : List (Nat × α)} (k : Nat) (v : α) (h : Cells.wf d m = true) : Cells.wf d (Cells.put d m k v) = true := by
  unfold Cells.put
  split
  · exact Cells.wf_filter d _ h
  · rename_i hv
    exact Cells.wf_insert d hv h

theorem Cells.mem_put [DecidableEq α] {d : Nat → α} {m : List (Nat × α)} {k : Nat} {v : α} {f : Nat × α} (h : f ∈ Cells.put d m k v) : f = (k, v) ∨ f ∈ m := by
  unfold Cells.put at h
  split at h
  · exact .inr (List.mem_filter.1 h).1
  · exact Cells.mem_insert h

/-! ## Little-endian values -/

@[simp] theorem length_leBytes (n : Nat) : ∀ v : Nat, (leBytes n v).length = n := by
  induction n with
  | zero => exact fun _ => rfl
  | succ n ih => exact fun v => by simp [leBytes, ih]

/-- A value's low bytes read back as the value, modulo 256 to their number. -/
theorem leNat_leBytes (n : Nat) : ∀ v : Nat, leNat (leBytes n v) = v % 256 ^ n := by
  induction n with
  | zero => intro v; simp [leBytes, leNat, Nat.mod_one]
  | succ n ih =>
    intro v
    have h : (BitVec.ofNat 8 v).toNat = v % 256 := by simp
    rw [leBytes, leNat, ih, h, Nat.pow_succ, Nat.mul_comm (256 ^ n) 256, Nat.mod_mul]

/-! ## Byte memories -/

@[simp] theorem Mem.read_write_self (m : Mem) (a : Nat) (b : Byte) : (m.write a b).read a = b := Cells.get_put_self m.dflt m.cells a b

@[simp] theorem Mem.read_write_other (m : Mem) {a x : Nat} (b : Byte) (h : x ≠ a) : (m.write a b).read x = m.read x :=
  Cells.get_put_other m.dflt m.cells b h

/-- A byte write keeps the canonical form. -/
theorem Mem.wf_write (m : Mem) (a : Nat) (b : Byte) (h : m.wf = true) : (m.write a b).wf = true := Cells.wf_put m.dflt a b h

/-- So does a run of bytes. -/
theorem Mem.wf_writeN (bs : List Byte) : ∀ (m : Mem) (a : Nat), m.wf = true → (m.writeN a bs).wf = true := by
  induction bs with
  | nil => exact fun _ _ h => h
  | cons b r ih => exact fun m a h => ih (m.write a b) (a + 1) (m.wf_write a b h)

/-- Bytes outside the run read as before. -/
theorem Mem.read_writeN_other (bs : List Byte) : ∀ (m : Mem) (a x : Nat), x < a ∨ a + bs.length ≤ x → (m.writeN a bs).read x = m.read x := by
  induction bs with
  | nil => exact fun _ _ _ _ => rfl
  | cons b r ih =>
    intro m a x h
    have hx : x ≠ a := by simp only [List.length_cons] at h; omega
    rw [Mem.writeN, ih _ _ _ (by simp only [List.length_cons] at h; omega), Mem.read_write_other _ _ hx]

/-- Bytes inside the run read as written. -/
theorem Mem.read_writeN_self (bs : List Byte) : ∀ (m : Mem) (a i : Nat), i < bs.length → (m.writeN a bs).read (a + i) = bs.getD i 0 := by
  induction bs with
  | nil => intro _ _ _ h; simp at h
  | cons b r ih =>
    intro m a i h
    cases i with
    | zero =>
      rw [Mem.writeN, Nat.add_zero, Mem.read_writeN_other r _ _ _ (by omega)]
      simp
    | succ i =>
      have h2 : i < r.length := by simpa using h
      rw [Mem.writeN, show a + (i + 1) = a + 1 + i by omega, ih _ _ _ h2]
      simp

/-- Losing a range keeps the canonical form: the bytes it listed there are gone. -/
theorem Mem.wf_lose (m : Mem) (lo hi k : Nat) (h : m.wf = true) : (m.lose lo hi k).wf = true := by
  have key : ∀ l : List Host.Cell, Cells.wf m.dflt l = true → Cells.wf (m.lose lo hi k).dflt (l.filter (fun e => e.1 < lo || hi ≤ e.1)) = true := by
    intro l
    induction l with
    | nil => exact fun _ => rfl
    | cons e r ih =>
      intro h
      rw [Cells.wf_cons] at h
      rw [List.filter_cons]
      split
      · rename_i hp
        rw [Cells.wf_cons]
        refine ⟨?_, fun f hf => h.2.1 f (List.mem_filter.1 hf).1, ih h.2.2⟩
        have hn : (decide (lo ≤ e.1) && decide (e.1 < hi)) = false := by
          simp only [Bool.or_eq_true, decide_eq_true_eq] at hp
          simp only [Bool.and_eq_false_iff, decide_eq_false_iff_not]
          omega
        have hd : (m.lose lo hi k).dflt e.1 = m.dflt e.1 := by
          simp only [Mem.lose, Mem.dflt, List.find?_cons, hn]
        rw [hd]
        exact h.1
      · exact ih h.2.2
  exact key m.cells h

/-- So do the little-endian and bit-field stores. -/
theorem Mem.wf_putLe (m : Mem) (a n v : Nat) (h : m.wf = true) : (m.putLe a n v).wf = true := m.wf_writeN _ a h
theorem Mem.wf_putBits (m : Mem) (a lo w v : Nat) (h : m.wf = true) : (m.putBits a lo w v).wf = true := m.wf_putLe _ _ _ h

/-- A memory made of bytes has the form. -/
theorem Mem.wf_ofBytes (b : List Byte) : (Mem.ofBytes b).wf = true := by
  have key : ∀ (l : List Byte) (k : Nat), Cells.wf (Mem.dflt {}) (((l.zipIdx k).filter (fun e => e.1 != 0)).map (fun e => (e.2, e.1))) = true ∧
      ∀ f, f ∈ ((l.zipIdx k).filter (fun e => e.1 != 0)).map (fun e => (e.2, e.1)) → k ≤ f.1 := by
    intro l
    induction l with
    | nil => exact fun k => ⟨rfl, by simp⟩
    | cons x r ih =>
      intro k
      have h := ih (k + 1)
      rw [List.zipIdx_cons, List.filter_cons]
      split
      · rename_i hx
        rw [List.map_cons, Cells.wf_cons]
        refine ⟨⟨by simpa [Mem.dflt] using hx, fun f hf => h.2 f hf, h.1⟩, fun f hf => ?_⟩
        rcases List.mem_cons.1 hf with hf | hf
        · exact hf ▸ Nat.le_refl _
        · exact Nat.le_of_succ_le (h.2 f hf)
      · exact ⟨h.1, fun f hf => Nat.le_of_succ_le (h.2 f hf)⟩
  exact (key b 0).1

end Sys2Proof.Machine
end

