-- ==== Sys2Proof/Laws/State.lean ====
section
/-!
SUPPORT. Sys2Proof/Laws/State.lean: one lemma for each field and each update of the state, and what each unit reads as after one.
-/

namespace Sys2Proof.Machine

variable (s : State)

/-! ## setCore -/

@[simp] theorem State.setCore_pending (c : Nat) (x : Core) : (s.setCore c x).pending = s.pending := rfl
@[simp] theorem State.setCore_freeCtr (c : Nat) (x : Core) : (s.setCore c x).freeCtr = s.freeCtr := rfl
@[simp] theorem State.setCore_time (c : Nat) (x : Core) : (s.setCore c x).time = s.time := rfl
@[simp] theorem State.setCore_commit (c : Nat) (x : Core) : (s.setCore c x).commit = s.commit := rfl
@[simp] theorem State.setCore_fns (c : Nat) (x : Core) : (s.setCore c x).fns = s.fns := rfl
@[simp] theorem State.setCore_pcie (c : Nat) (x : Core) : (s.setCore c x).pcie = s.pcie := rfl
@[simp] theorem State.setCore_fw (c : Nat) (x : Core) : (s.setCore c x).fw = s.fw := rfl
@[simp] theorem State.setCore_parts (c : Nat) (x : Core) : (s.setCore c x).parts = s.parts := rfl
@[simp] theorem State.setCore_coresLost (c : Nat) (x : Core) : (s.setCore c x).coresLost = s.coresLost := rfl
@[simp] theorem State.setCore_tablesLost (c : Nat) (x : Core) : (s.setCore c x).tablesLost = s.tablesLost := rfl
@[simp] theorem State.setCore_hbm (c : Nat) (x : Core) : (s.setCore c x).hbm = s.hbm := rfl
@[simp] theorem State.setCore_shelves (c : Nat) (x : Core) : (s.setCore c x).shelves = s.shelves := rfl
@[simp] theorem State.setCore_watches (c : Nat) (x : Core) : (s.setCore c x).watches = s.watches := rfl
@[simp] theorem State.setCore_msgs (c : Nat) (x : Core) : (s.setCore c x).msgs = s.msgs := rfl
@[simp] theorem State.setCore_ports (c : Nat) (x : Core) : (s.setCore c x).ports = s.ports := rfl
@[simp] theorem State.setCore_chans (c : Nat) (x : Core) : (s.setCore c x).chans = s.chans := rfl
@[simp] theorem State.setCore_groups (c : Nat) (x : Core) : (s.setCore c x).groups = s.groups := rfl
@[simp] theorem State.setCore_cyc (c : Nat) (x : Core) : (s.setCore c x).cyc = s.cyc := rfl
@[simp] theorem State.setCore_pairs (c : Nat) (x : Core) : (s.setCore c x).pairs = s.pairs := rfl
@[simp] theorem State.setCore_power (c : Nat) (x : Core) : (s.setCore c x).power = s.power := rfl
@[simp] theorem State.setCore_cool (c : Nat) (x : Core) : (s.setCore c x).cool = s.cool := rfl
@[simp] theorem State.setCore_fields (c : Nat) (x : Core) : (s.setCore c x).fields = s.fields := rfl
@[simp] theorem State.setCore_fieldTally (c : Nat) (x : Core) : (s.setCore c x).fieldTally = s.fieldTally := rfl
@[simp] theorem State.setCore_out (c : Nat) (x : Core) : (s.setCore c x).out = s.out := rfl

/-! ## setPart -/

@[simp] theorem State.setPart_pending (p : Nat) (x : Partition) : (s.setPart p x).pending = s.pending := rfl
@[simp] theorem State.setPart_freeCtr (p : Nat) (x : Partition) : (s.setPart p x).freeCtr = s.freeCtr := rfl
@[simp] theorem State.setPart_time (p : Nat) (x : Partition) : (s.setPart p x).time = s.time := rfl
@[simp] theorem State.setPart_commit (p : Nat) (x : Partition) : (s.setPart p x).commit = s.commit := rfl
@[simp] theorem State.setPart_fns (p : Nat) (x : Partition) : (s.setPart p x).fns = s.fns := rfl
@[simp] theorem State.setPart_pcie (p : Nat) (x : Partition) : (s.setPart p x).pcie = s.pcie := rfl
@[simp] theorem State.setPart_fw (p : Nat) (x : Partition) : (s.setPart p x).fw = s.fw := rfl
@[simp] theorem State.setPart_cores (p : Nat) (x : Partition) : (s.setPart p x).cores = s.cores := rfl
@[simp] theorem State.setPart_coresLost (p : Nat) (x : Partition) : (s.setPart p x).coresLost = s.coresLost := rfl
@[simp] theorem State.setPart_tablesLost (p : Nat) (x : Partition) : (s.setPart p x).tablesLost = s.tablesLost := rfl
@[simp] theorem State.setPart_hbm (p : Nat) (x : Partition) : (s.setPart p x).hbm = s.hbm := rfl
@[simp] theorem State.setPart_shelves (p : Nat) (x : Partition) : (s.setPart p x).shelves = s.shelves := rfl
@[simp] theorem State.setPart_watches (p : Nat) (x : Partition) : (s.setPart p x).watches = s.watches := rfl
@[simp] theorem State.setPart_msgs (p : Nat) (x : Partition) : (s.setPart p x).msgs = s.msgs := rfl
@[simp] theorem State.setPart_ports (p : Nat) (x : Partition) : (s.setPart p x).ports = s.ports := rfl
@[simp] theorem State.setPart_chans (p : Nat) (x : Partition) : (s.setPart p x).chans = s.chans := rfl
@[simp] theorem State.setPart_groups (p : Nat) (x : Partition) : (s.setPart p x).groups = s.groups := rfl
@[simp] theorem State.setPart_cyc (p : Nat) (x : Partition) : (s.setPart p x).cyc = s.cyc := rfl
@[simp] theorem State.setPart_pairs (p : Nat) (x : Partition) : (s.setPart p x).pairs = s.pairs := rfl
@[simp] theorem State.setPart_power (p : Nat) (x : Partition) : (s.setPart p x).power = s.power := rfl
@[simp] theorem State.setPart_cool (p : Nat) (x : Partition) : (s.setPart p x).cool = s.cool := rfl
@[simp] theorem State.setPart_fields (p : Nat) (x : Partition) : (s.setPart p x).fields = s.fields := rfl
@[simp] theorem State.setPart_fieldTally (p : Nat) (x : Partition) : (s.setPart p x).fieldTally = s.fieldTally := rfl
@[simp] theorem State.setPart_out (p : Nat) (x : Partition) : (s.setPart p x).out = s.out := rfl

/-! ## setShelf -/

@[simp] theorem State.setShelf_pending (k : Nat) (x : Shelf) : (s.setShelf k x).pending = s.pending := rfl
@[simp] theorem State.setShelf_freeCtr (k : Nat) (x : Shelf) : (s.setShelf k x).freeCtr = s.freeCtr := rfl
@[simp] theorem State.setShelf_time (k : Nat) (x : Shelf) : (s.setShelf k x).time = s.time := rfl
@[simp] theorem State.setShelf_commit (k : Nat) (x : Shelf) : (s.setShelf k x).commit = s.commit := rfl
@[simp] theorem State.setShelf_fns (k : Nat) (x : Shelf) : (s.setShelf k x).fns = s.fns := rfl
@[simp] theorem State.setShelf_pcie (k : Nat) (x : Shelf) : (s.setShelf k x).pcie = s.pcie := rfl
@[simp] theorem State.setShelf_fw (k : Nat) (x : Shelf) : (s.setShelf k x).fw = s.fw := rfl
@[simp] theorem State.setShelf_parts (k : Nat) (x : Shelf) : (s.setShelf k x).parts = s.parts := rfl
@[simp] theorem State.setShelf_cores (k : Nat) (x : Shelf) : (s.setShelf k x).cores = s.cores := rfl
@[simp] theorem State.setShelf_coresLost (k : Nat) (x : Shelf) : (s.setShelf k x).coresLost = s.coresLost := rfl
@[simp] theorem State.setShelf_tablesLost (k : Nat) (x : Shelf) : (s.setShelf k x).tablesLost = s.tablesLost := rfl
@[simp] theorem State.setShelf_hbm (k : Nat) (x : Shelf) : (s.setShelf k x).hbm = s.hbm := rfl
@[simp] theorem State.setShelf_watches (k : Nat) (x : Shelf) : (s.setShelf k x).watches = s.watches := rfl
@[simp] theorem State.setShelf_msgs (k : Nat) (x : Shelf) : (s.setShelf k x).msgs = s.msgs := rfl
@[simp] theorem State.setShelf_ports (k : Nat) (x : Shelf) : (s.setShelf k x).ports = s.ports := rfl
@[simp] theorem State.setShelf_chans (k : Nat) (x : Shelf) : (s.setShelf k x).chans = s.chans := rfl
@[simp] theorem State.setShelf_groups (k : Nat) (x : Shelf) : (s.setShelf k x).groups = s.groups := rfl
@[simp] theorem State.setShelf_cyc (k : Nat) (x : Shelf) : (s.setShelf k x).cyc = s.cyc := rfl
@[simp] theorem State.setShelf_pairs (k : Nat) (x : Shelf) : (s.setShelf k x).pairs = s.pairs := rfl
@[simp] theorem State.setShelf_power (k : Nat) (x : Shelf) : (s.setShelf k x).power = s.power := rfl
@[simp] theorem State.setShelf_cool (k : Nat) (x : Shelf) : (s.setShelf k x).cool = s.cool := rfl
@[simp] theorem State.setShelf_fields (k : Nat) (x : Shelf) : (s.setShelf k x).fields = s.fields := rfl
@[simp] theorem State.setShelf_fieldTally (k : Nat) (x : Shelf) : (s.setShelf k x).fieldTally = s.fieldTally := rfl
@[simp] theorem State.setShelf_out (k : Nat) (x : Shelf) : (s.setShelf k x).out = s.out := rfl

/-! ## setPort -/

@[simp] theorem State.setPort_pending (k : Nat) (x : Port) : (s.setPort k x).pending = s.pending := rfl
@[simp] theorem State.setPort_freeCtr (k : Nat) (x : Port) : (s.setPort k x).freeCtr = s.freeCtr := rfl
@[simp] theorem State.setPort_time (k : Nat) (x : Port) : (s.setPort k x).time = s.time := rfl
@[simp] theorem State.setPort_commit (k : Nat) (x : Port) : (s.setPort k x).commit = s.commit := rfl
@[simp] theorem State.setPort_fns (k : Nat) (x : Port) : (s.setPort k x).fns = s.fns := rfl
@[simp] theorem State.setPort_pcie (k : Nat) (x : Port) : (s.setPort k x).pcie = s.pcie := rfl
@[simp] theorem State.setPort_fw (k : Nat) (x : Port) : (s.setPort k x).fw = s.fw := rfl
@[simp] theorem State.setPort_parts (k : Nat) (x : Port) : (s.setPort k x).parts = s.parts := rfl
@[simp] theorem State.setPort_cores (k : Nat) (x : Port) : (s.setPort k x).cores = s.cores := rfl
@[simp] theorem State.setPort_coresLost (k : Nat) (x : Port) : (s.setPort k x).coresLost = s.coresLost := rfl
@[simp] theorem State.setPort_tablesLost (k : Nat) (x : Port) : (s.setPort k x).tablesLost = s.tablesLost := rfl
@[simp] theorem State.setPort_hbm (k : Nat) (x : Port) : (s.setPort k x).hbm = s.hbm := rfl
@[simp] theorem State.setPort_shelves (k : Nat) (x : Port) : (s.setPort k x).shelves = s.shelves := rfl
@[simp] theorem State.setPort_watches (k : Nat) (x : Port) : (s.setPort k x).watches = s.watches := rfl
@[simp] theorem State.setPort_msgs (k : Nat) (x : Port) : (s.setPort k x).msgs = s.msgs := rfl
@[simp] theorem State.setPort_chans (k : Nat) (x : Port) : (s.setPort k x).chans = s.chans := rfl
@[simp] theorem State.setPort_groups (k : Nat) (x : Port) : (s.setPort k x).groups = s.groups := rfl
@[simp] theorem State.setPort_cyc (k : Nat) (x : Port) : (s.setPort k x).cyc = s.cyc := rfl
@[simp] theorem State.setPort_pairs (k : Nat) (x : Port) : (s.setPort k x).pairs = s.pairs := rfl
@[simp] theorem State.setPort_power (k : Nat) (x : Port) : (s.setPort k x).power = s.power := rfl
@[simp] theorem State.setPort_cool (k : Nat) (x : Port) : (s.setPort k x).cool = s.cool := rfl
@[simp] theorem State.setPort_fields (k : Nat) (x : Port) : (s.setPort k x).fields = s.fields := rfl
@[simp] theorem State.setPort_fieldTally (k : Nat) (x : Port) : (s.setPort k x).fieldTally = s.fieldTally := rfl
@[simp] theorem State.setPort_out (k : Nat) (x : Port) : (s.setPort k x).out = s.out := rfl

/-! ## setChan -/

@[simp] theorem State.setChan_pending (k : Nat) (x : Channel) : (s.setChan k x).pending = s.pending := rfl
@[simp] theorem State.setChan_freeCtr (k : Nat) (x : Channel) : (s.setChan k x).freeCtr = s.freeCtr := rfl
@[simp] theorem State.setChan_time (k : Nat) (x : Channel) : (s.setChan k x).time = s.time := rfl
@[simp] theorem State.setChan_commit (k : Nat) (x : Channel) : (s.setChan k x).commit = s.commit := rfl
@[simp] theorem State.setChan_fns (k : Nat) (x : Channel) : (s.setChan k x).fns = s.fns := rfl
@[simp] theorem State.setChan_pcie (k : Nat) (x : Channel) : (s.setChan k x).pcie = s.pcie := rfl
@[simp] theorem State.setChan_fw (k : Nat) (x : Channel) : (s.setChan k x).fw = s.fw := rfl
@[simp] theorem State.setChan_parts (k : Nat) (x : Channel) : (s.setChan k x).parts = s.parts := rfl
@[simp] theorem State.setChan_cores (k : Nat) (x : Channel) : (s.setChan k x).cores = s.cores := rfl
@[simp] theorem State.setChan_coresLost (k : Nat) (x : Channel) : (s.setChan k x).coresLost = s.coresLost := rfl
@[simp] theorem State.setChan_tablesLost (k : Nat) (x : Channel) : (s.setChan k x).tablesLost = s.tablesLost := rfl
@[simp] theorem State.setChan_hbm (k : Nat) (x : Channel) : (s.setChan k x).hbm = s.hbm := rfl
@[simp] theorem State.setChan_shelves (k : Nat) (x : Channel) : (s.setChan k x).shelves = s.shelves := rfl
@[simp] theorem State.setChan_watches (k : Nat) (x : Channel) : (s.setChan k x).watches = s.watches := rfl
@[simp] theorem State.setChan_msgs (k : Nat) (x : Channel) : (s.setChan k x).msgs = s.msgs := rfl
@[simp] theorem State.setChan_ports (k : Nat) (x : Channel) : (s.setChan k x).ports = s.ports := rfl
@[simp] theorem State.setChan_groups (k : Nat) (x : Channel) : (s.setChan k x).groups = s.groups := rfl
@[simp] theorem State.setChan_cyc (k : Nat) (x : Channel) : (s.setChan k x).cyc = s.cyc := rfl
@[simp] theorem State.setChan_pairs (k : Nat) (x : Channel) : (s.setChan k x).pairs = s.pairs := rfl
@[simp] theorem State.setChan_power (k : Nat) (x : Channel) : (s.setChan k x).power = s.power := rfl
@[simp] theorem State.setChan_cool (k : Nat) (x : Channel) : (s.setChan k x).cool = s.cool := rfl
@[simp] theorem State.setChan_fields (k : Nat) (x : Channel) : (s.setChan k x).fields = s.fields := rfl
@[simp] theorem State.setChan_fieldTally (k : Nat) (x : Channel) : (s.setChan k x).fieldTally = s.fieldTally := rfl
@[simp] theorem State.setChan_out (k : Nat) (x : Channel) : (s.setChan k x).out = s.out := rfl

/-! ## setPair -/

@[simp] theorem State.setPair_pending (k : Nat) (x : Pair) : (s.setPair k x).pending = s.pending := rfl
@[simp] theorem State.setPair_freeCtr (k : Nat) (x : Pair) : (s.setPair k x).freeCtr = s.freeCtr := rfl
@[simp] theorem State.setPair_time (k : Nat) (x : Pair) : (s.setPair k x).time = s.time := rfl
@[simp] theorem State.setPair_commit (k : Nat) (x : Pair) : (s.setPair k x).commit = s.commit := rfl
@[simp] theorem State.setPair_fns (k : Nat) (x : Pair) : (s.setPair k x).fns = s.fns := rfl
@[simp] theorem State.setPair_pcie (k : Nat) (x : Pair) : (s.setPair k x).pcie = s.pcie := rfl
@[simp] theorem State.setPair_fw (k : Nat) (x : Pair) : (s.setPair k x).fw = s.fw := rfl
@[simp] theorem State.setPair_parts (k : Nat) (x : Pair) : (s.setPair k x).parts = s.parts := rfl
@[simp] theorem State.setPair_cores (k : Nat) (x : Pair) : (s.setPair k x).cores = s.cores := rfl
@[simp] theorem State.setPair_coresLost (k : Nat) (x : Pair) : (s.setPair k x).coresLost = s.coresLost := rfl
@[simp] theorem State.setPair_tablesLost (k : Nat) (x : Pair) : (s.setPair k x).tablesLost = s.tablesLost := rfl
@[simp] theorem State.setPair_hbm (k : Nat) (x : Pair) : (s.setPair k x).hbm = s.hbm := rfl
@[simp] theorem State.setPair_shelves (k : Nat) (x : Pair) : (s.setPair k x).shelves = s.shelves := rfl
@[simp] theorem State.setPair_watches (k : Nat) (x : Pair) : (s.setPair k x).watches = s.watches := rfl
@[simp] theorem State.setPair_msgs (k : Nat) (x : Pair) : (s.setPair k x).msgs = s.msgs := rfl
@[simp] theorem State.setPair_ports (k : Nat) (x : Pair) : (s.setPair k x).ports = s.ports := rfl
@[simp] theorem State.setPair_chans (k : Nat) (x : Pair) : (s.setPair k x).chans = s.chans := rfl
@[simp] theorem State.setPair_groups (k : Nat) (x : Pair) : (s.setPair k x).groups = s.groups := rfl
@[simp] theorem State.setPair_cyc (k : Nat) (x : Pair) : (s.setPair k x).cyc = s.cyc := rfl
@[simp] theorem State.setPair_power (k : Nat) (x : Pair) : (s.setPair k x).power = s.power := rfl
@[simp] theorem State.setPair_cool (k : Nat) (x : Pair) : (s.setPair k x).cool = s.cool := rfl
@[simp] theorem State.setPair_fields (k : Nat) (x : Pair) : (s.setPair k x).fields = s.fields := rfl
@[simp] theorem State.setPair_fieldTally (k : Nat) (x : Pair) : (s.setPair k x).fieldTally = s.fieldTally := rfl
@[simp] theorem State.setPair_out (k : Nat) (x : Pair) : (s.setPair k x).out = s.out := rfl

/-! ## setFn -/

@[simp] theorem State.setFn_pending (f : Fn) (x : FnState) : (s.setFn f x).pending = s.pending := rfl
@[simp] theorem State.setFn_freeCtr (f : Fn) (x : FnState) : (s.setFn f x).freeCtr = s.freeCtr := rfl
@[simp] theorem State.setFn_time (f : Fn) (x : FnState) : (s.setFn f x).time = s.time := rfl
@[simp] theorem State.setFn_commit (f : Fn) (x : FnState) : (s.setFn f x).commit = s.commit := rfl
@[simp] theorem State.setFn_pcie (f : Fn) (x : FnState) : (s.setFn f x).pcie = s.pcie := rfl
@[simp] theorem State.setFn_fw (f : Fn) (x : FnState) : (s.setFn f x).fw = s.fw := rfl
@[simp] theorem State.setFn_parts (f : Fn) (x : FnState) : (s.setFn f x).parts = s.parts := rfl
@[simp] theorem State.setFn_cores (f : Fn) (x : FnState) : (s.setFn f x).cores = s.cores := rfl
@[simp] theorem State.setFn_coresLost (f : Fn) (x : FnState) : (s.setFn f x).coresLost = s.coresLost := rfl
@[simp] theorem State.setFn_tablesLost (f : Fn) (x : FnState) : (s.setFn f x).tablesLost = s.tablesLost := rfl
@[simp] theorem State.setFn_hbm (f : Fn) (x : FnState) : (s.setFn f x).hbm = s.hbm := rfl
@[simp] theorem State.setFn_shelves (f : Fn) (x : FnState) : (s.setFn f x).shelves = s.shelves := rfl
@[simp] theorem State.setFn_watches (f : Fn) (x : FnState) : (s.setFn f x).watches = s.watches := rfl
@[simp] theorem State.setFn_msgs (f : Fn) (x : FnState) : (s.setFn f x).msgs = s.msgs := rfl
@[simp] theorem State.setFn_ports (f : Fn) (x : FnState) : (s.setFn f x).ports = s.ports := rfl
@[simp] theorem State.setFn_chans (f : Fn) (x : FnState) : (s.setFn f x).chans = s.chans := rfl
@[simp] theorem State.setFn_groups (f : Fn) (x : FnState) : (s.setFn f x).groups = s.groups := rfl
@[simp] theorem State.setFn_cyc (f : Fn) (x : FnState) : (s.setFn f x).cyc = s.cyc := rfl
@[simp] theorem State.setFn_pairs (f : Fn) (x : FnState) : (s.setFn f x).pairs = s.pairs := rfl
@[simp] theorem State.setFn_power (f : Fn) (x : FnState) : (s.setFn f x).power = s.power := rfl
@[simp] theorem State.setFn_cool (f : Fn) (x : FnState) : (s.setFn f x).cool = s.cool := rfl
@[simp] theorem State.setFn_fields (f : Fn) (x : FnState) : (s.setFn f x).fields = s.fields := rfl
@[simp] theorem State.setFn_fieldTally (f : Fn) (x : FnState) : (s.setFn f x).fieldTally = s.fieldTally := rfl
@[simp] theorem State.setFn_out (f : Fn) (x : FnState) : (s.setFn f x).out = s.out := rfl

/-! ## setSlot -/

@[simp] theorem State.setSlot_pending (f : Fn) (n : Nat) (x : Slot) : (s.setSlot f n x).pending = s.pending := rfl
@[simp] theorem State.setSlot_freeCtr (f : Fn) (n : Nat) (x : Slot) : (s.setSlot f n x).freeCtr = s.freeCtr := rfl
@[simp] theorem State.setSlot_time (f : Fn) (n : Nat) (x : Slot) : (s.setSlot f n x).time = s.time := rfl
@[simp] theorem State.setSlot_commit (f : Fn) (n : Nat) (x : Slot) : (s.setSlot f n x).commit = s.commit := rfl
@[simp] theorem State.setSlot_pcie (f : Fn) (n : Nat) (x : Slot) : (s.setSlot f n x).pcie = s.pcie := rfl
@[simp] theorem State.setSlot_fw (f : Fn) (n : Nat) (x : Slot) : (s.setSlot f n x).fw = s.fw := rfl
@[simp] theorem State.setSlot_parts (f : Fn) (n : Nat) (x : Slot) : (s.setSlot f n x).parts = s.parts := rfl
@[simp] theorem State.setSlot_cores (f : Fn) (n : Nat) (x : Slot) : (s.setSlot f n x).cores = s.cores := rfl
@[simp] theorem State.setSlot_coresLost (f : Fn) (n : Nat) (x : Slot) : (s.setSlot f n x).coresLost = s.coresLost := rfl
@[simp] theorem State.setSlot_tablesLost (f : Fn) (n : Nat) (x : Slot) : (s.setSlot f n x).tablesLost = s.tablesLost := rfl
@[simp] theorem State.setSlot_hbm (f : Fn) (n : Nat) (x : Slot) : (s.setSlot f n x).hbm = s.hbm := rfl
@[simp] theorem State.setSlot_shelves (f : Fn) (n : Nat) (x : Slot) : (s.setSlot f n x).shelves = s.shelves := rfl
@[simp] theorem State.setSlot_watches (f : Fn) (n : Nat) (x : Slot) : (s.setSlot f n x).watches = s.watches := rfl
@[simp] theorem State.setSlot_msgs (f : Fn) (n : Nat) (x : Slot) : (s.setSlot f n x).msgs = s.msgs := rfl
@[simp] theorem State.setSlot_ports (f : Fn) (n : Nat) (x : Slot) : (s.setSlot f n x).ports = s.ports := rfl
@[simp] theorem State.setSlot_chans (f : Fn) (n : Nat) (x : Slot) : (s.setSlot f n x).chans = s.chans := rfl
@[simp] theorem State.setSlot_groups (f : Fn) (n : Nat) (x : Slot) : (s.setSlot f n x).groups = s.groups := rfl
@[simp] theorem State.setSlot_cyc (f : Fn) (n : Nat) (x : Slot) : (s.setSlot f n x).cyc = s.cyc := rfl
@[simp] theorem State.setSlot_pairs (f : Fn) (n : Nat) (x : Slot) : (s.setSlot f n x).pairs = s.pairs := rfl
@[simp] theorem State.setSlot_power (f : Fn) (n : Nat) (x : Slot) : (s.setSlot f n x).power = s.power := rfl
@[simp] theorem State.setSlot_cool (f : Fn) (n : Nat) (x : Slot) : (s.setSlot f n x).cool = s.cool := rfl
@[simp] theorem State.setSlot_fields (f : Fn) (n : Nat) (x : Slot) : (s.setSlot f n x).fields = s.fields := rfl
@[simp] theorem State.setSlot_fieldTally (f : Fn) (n : Nat) (x : Slot) : (s.setSlot f n x).fieldTally = s.fieldTally := rfl
@[simp] theorem State.setSlot_out (f : Fn) (n : Nat) (x : Slot) : (s.setSlot f n x).out = s.out := rfl

/-! ## setGrp -/

@[simp] theorem State.setGrp_pending (p g : Nat) (x : GroupState) : (s.setGrp p g x).pending = s.pending := rfl
@[simp] theorem State.setGrp_freeCtr (p g : Nat) (x : GroupState) : (s.setGrp p g x).freeCtr = s.freeCtr := rfl
@[simp] theorem State.setGrp_time (p g : Nat) (x : GroupState) : (s.setGrp p g x).time = s.time := rfl
@[simp] theorem State.setGrp_commit (p g : Nat) (x : GroupState) : (s.setGrp p g x).commit = s.commit := rfl
@[simp] theorem State.setGrp_fns (p g : Nat) (x : GroupState) : (s.setGrp p g x).fns = s.fns := rfl
@[simp] theorem State.setGrp_pcie (p g : Nat) (x : GroupState) : (s.setGrp p g x).pcie = s.pcie := rfl
@[simp] theorem State.setGrp_fw (p g : Nat) (x : GroupState) : (s.setGrp p g x).fw = s.fw := rfl
@[simp] theorem State.setGrp_parts (p g : Nat) (x : GroupState) : (s.setGrp p g x).parts = s.parts := rfl
@[simp] theorem State.setGrp_cores (p g : Nat) (x : GroupState) : (s.setGrp p g x).cores = s.cores := rfl
@[simp] theorem State.setGrp_coresLost (p g : Nat) (x : GroupState) : (s.setGrp p g x).coresLost = s.coresLost := rfl
@[simp] theorem State.setGrp_tablesLost (p g : Nat) (x : GroupState) : (s.setGrp p g x).tablesLost = s.tablesLost := rfl
@[simp] theorem State.setGrp_hbm (p g : Nat) (x : GroupState) : (s.setGrp p g x).hbm = s.hbm := rfl
@[simp] theorem State.setGrp_shelves (p g : Nat) (x : GroupState) : (s.setGrp p g x).shelves = s.shelves := rfl
@[simp] theorem State.setGrp_watches (p g : Nat) (x : GroupState) : (s.setGrp p g x).watches = s.watches := rfl
@[simp] theorem State.setGrp_msgs (p g : Nat) (x : GroupState) : (s.setGrp p g x).msgs = s.msgs := rfl
@[simp] theorem State.setGrp_ports (p g : Nat) (x : GroupState) : (s.setGrp p g x).ports = s.ports := rfl
@[simp] theorem State.setGrp_chans (p g : Nat) (x : GroupState) : (s.setGrp p g x).chans = s.chans := rfl
@[simp] theorem State.setGrp_cyc (p g : Nat) (x : GroupState) : (s.setGrp p g x).cyc = s.cyc := rfl
@[simp] theorem State.setGrp_pairs (p g : Nat) (x : GroupState) : (s.setGrp p g x).pairs = s.pairs := rfl
@[simp] theorem State.setGrp_power (p g : Nat) (x : GroupState) : (s.setGrp p g x).power = s.power := rfl
@[simp] theorem State.setGrp_cool (p g : Nat) (x : GroupState) : (s.setGrp p g x).cool = s.cool := rfl
@[simp] theorem State.setGrp_fields (p g : Nat) (x : GroupState) : (s.setGrp p g x).fields = s.fields := rfl
@[simp] theorem State.setGrp_fieldTally (p g : Nat) (x : GroupState) : (s.setGrp p g x).fieldTally = s.fieldTally := rfl
@[simp] theorem State.setGrp_out (p g : Nat) (x : GroupState) : (s.setGrp p g x).out = s.out := rfl

/-! ## tick -/

@[simp] theorem State.tick_pending : (s.tick).pending = s.pending := rfl
@[simp] theorem State.tick_time : (s.tick).time = s.time := rfl
@[simp] theorem State.tick_commit : (s.tick).commit = s.commit := rfl
@[simp] theorem State.tick_fns : (s.tick).fns = s.fns := rfl
@[simp] theorem State.tick_pcie : (s.tick).pcie = s.pcie := rfl
@[simp] theorem State.tick_fw : (s.tick).fw = s.fw := rfl
@[simp] theorem State.tick_parts : (s.tick).parts = s.parts := rfl
@[simp] theorem State.tick_cores : (s.tick).cores = s.cores := rfl
@[simp] theorem State.tick_coresLost : (s.tick).coresLost = s.coresLost := rfl
@[simp] theorem State.tick_tablesLost : (s.tick).tablesLost = s.tablesLost := rfl
@[simp] theorem State.tick_hbm : (s.tick).hbm = s.hbm := rfl
@[simp] theorem State.tick_shelves : (s.tick).shelves = s.shelves := rfl
@[simp] theorem State.tick_watches : (s.tick).watches = s.watches := rfl
@[simp] theorem State.tick_msgs : (s.tick).msgs = s.msgs := rfl
@[simp] theorem State.tick_ports : (s.tick).ports = s.ports := rfl
@[simp] theorem State.tick_chans : (s.tick).chans = s.chans := rfl
@[simp] theorem State.tick_groups : (s.tick).groups = s.groups := rfl
@[simp] theorem State.tick_cyc : (s.tick).cyc = s.cyc := rfl
@[simp] theorem State.tick_pairs : (s.tick).pairs = s.pairs := rfl
@[simp] theorem State.tick_power : (s.tick).power = s.power := rfl
@[simp] theorem State.tick_cool : (s.tick).cool = s.cool := rfl
@[simp] theorem State.tick_fields : (s.tick).fields = s.fields := rfl
@[simp] theorem State.tick_fieldTally : (s.tick).fieldTally = s.fieldTally := rfl
@[simp] theorem State.tick_out : (s.tick).out = s.out := rfl

/-! ## answer -/

@[simp] theorem State.answer_pending : (s.answer).pending = s.pending := rfl
@[simp] theorem State.answer_freeCtr : (s.answer).freeCtr = s.freeCtr := rfl
@[simp] theorem State.answer_time : (s.answer).time = s.time := rfl
@[simp] theorem State.answer_commit : (s.answer).commit = s.commit := rfl
@[simp] theorem State.answer_fns : (s.answer).fns = s.fns := rfl
@[simp] theorem State.answer_pcie : (s.answer).pcie = s.pcie := rfl
@[simp] theorem State.answer_fw : (s.answer).fw = s.fw := rfl
@[simp] theorem State.answer_parts : (s.answer).parts = s.parts := rfl
@[simp] theorem State.answer_cores : (s.answer).cores = s.cores := rfl
@[simp] theorem State.answer_coresLost : (s.answer).coresLost = s.coresLost := rfl
@[simp] theorem State.answer_tablesLost : (s.answer).tablesLost = s.tablesLost := rfl
@[simp] theorem State.answer_hbm : (s.answer).hbm = s.hbm := rfl
@[simp] theorem State.answer_shelves : (s.answer).shelves = s.shelves := rfl
@[simp] theorem State.answer_msgs : (s.answer).msgs = s.msgs := rfl
@[simp] theorem State.answer_ports : (s.answer).ports = s.ports := rfl
@[simp] theorem State.answer_chans : (s.answer).chans = s.chans := rfl
@[simp] theorem State.answer_groups : (s.answer).groups = s.groups := rfl
@[simp] theorem State.answer_cyc : (s.answer).cyc = s.cyc := rfl
@[simp] theorem State.answer_pairs : (s.answer).pairs = s.pairs := rfl
@[simp] theorem State.answer_power : (s.answer).power = s.power := rfl
@[simp] theorem State.answer_cool : (s.answer).cool = s.cool := rfl
@[simp] theorem State.answer_fields : (s.answer).fields = s.fields := rfl
@[simp] theorem State.answer_fieldTally : (s.answer).fieldTally = s.fieldTally := rfl
@[simp] theorem State.answer_out : (s.answer).out = s.out := rfl

/-! ## journal -/

@[simp] theorem State.journal_pending (e : JEntry) : (s.journal e).pending = s.pending := rfl
@[simp] theorem State.journal_freeCtr (e : JEntry) : (s.journal e).freeCtr = s.freeCtr := rfl
@[simp] theorem State.journal_time (e : JEntry) : (s.journal e).time = s.time := rfl
@[simp] theorem State.journal_commit (e : JEntry) : (s.journal e).commit = s.commit := rfl
@[simp] theorem State.journal_fns (e : JEntry) : (s.journal e).fns = s.fns := rfl
@[simp] theorem State.journal_pcie (e : JEntry) : (s.journal e).pcie = s.pcie := rfl
@[simp] theorem State.journal_parts (e : JEntry) : (s.journal e).parts = s.parts := rfl
@[simp] theorem State.journal_cores (e : JEntry) : (s.journal e).cores = s.cores := rfl
@[simp] theorem State.journal_coresLost (e : JEntry) : (s.journal e).coresLost = s.coresLost := rfl
@[simp] theorem State.journal_tablesLost (e : JEntry) : (s.journal e).tablesLost = s.tablesLost := rfl
@[simp] theorem State.journal_hbm (e : JEntry) : (s.journal e).hbm = s.hbm := rfl
@[simp] theorem State.journal_shelves (e : JEntry) : (s.journal e).shelves = s.shelves := rfl
@[simp] theorem State.journal_watches (e : JEntry) : (s.journal e).watches = s.watches := rfl
@[simp] theorem State.journal_msgs (e : JEntry) : (s.journal e).msgs = s.msgs := rfl
@[simp] theorem State.journal_ports (e : JEntry) : (s.journal e).ports = s.ports := rfl
@[simp] theorem State.journal_chans (e : JEntry) : (s.journal e).chans = s.chans := rfl
@[simp] theorem State.journal_groups (e : JEntry) : (s.journal e).groups = s.groups := rfl
@[simp] theorem State.journal_cyc (e : JEntry) : (s.journal e).cyc = s.cyc := rfl
@[simp] theorem State.journal_pairs (e : JEntry) : (s.journal e).pairs = s.pairs := rfl
@[simp] theorem State.journal_power (e : JEntry) : (s.journal e).power = s.power := rfl
@[simp] theorem State.journal_cool (e : JEntry) : (s.journal e).cool = s.cool := rfl
@[simp] theorem State.journal_fields (e : JEntry) : (s.journal e).fields = s.fields := rfl
@[simp] theorem State.journal_fieldTally (e : JEntry) : (s.journal e).fieldTally = s.fieldTally := rfl
@[simp] theorem State.journal_out (e : JEntry) : (s.journal e).out = s.out := rfl

/-! ## jCmd -/

@[simp] theorem State.jCmd_pending (f : Fn) (cmd st : Nat) (p : Option Nat) (old new : List Byte) : (s.jCmd f cmd st p old new).pending = s.pending := rfl
@[simp] theorem State.jCmd_freeCtr (f : Fn) (cmd st : Nat) (p : Option Nat) (old new : List Byte) : (s.jCmd f cmd st p old new).freeCtr = s.freeCtr := rfl
@[simp] theorem State.jCmd_time (f : Fn) (cmd st : Nat) (p : Option Nat) (old new : List Byte) : (s.jCmd f cmd st p old new).time = s.time := rfl
@[simp] theorem State.jCmd_commit (f : Fn) (cmd st : Nat) (p : Option Nat) (old new : List Byte) : (s.jCmd f cmd st p old new).commit = s.commit := rfl
@[simp] theorem State.jCmd_fns (f : Fn) (cmd st : Nat) (p : Option Nat) (old new : List Byte) : (s.jCmd f cmd st p old new).fns = s.fns := rfl
@[simp] theorem State.jCmd_pcie (f : Fn) (cmd st : Nat) (p : Option Nat) (old new : List Byte) : (s.jCmd f cmd st p old new).pcie = s.pcie := rfl
@[simp] theorem State.jCmd_parts (f : Fn) (cmd st : Nat) (p : Option Nat) (old new : List Byte) : (s.jCmd f cmd st p old new).parts = s.parts := rfl
@[simp] theorem State.jCmd_cores (f : Fn) (cmd st : Nat) (p : Option Nat) (old new : List Byte) : (s.jCmd f cmd st p old new).cores = s.cores := rfl
@[simp] theorem State.jCmd_coresLost (f : Fn) (cmd st : Nat) (p : Option Nat) (old new : List Byte) : (s.jCmd f cmd st p old new).coresLost = s.coresLost := rfl
@[simp] theorem State.jCmd_tablesLost (f : Fn) (cmd st : Nat) (p : Option Nat) (old new : List Byte) : (s.jCmd f cmd st p old new).tablesLost = s.tablesLost := rfl
@[simp] theorem State.jCmd_hbm (f : Fn) (cmd st : Nat) (p : Option Nat) (old new : List Byte) : (s.jCmd f cmd st p old new).hbm = s.hbm := rfl
@[simp] theorem State.jCmd_shelves (f : Fn) (cmd st : Nat) (p : Option Nat) (old new : List Byte) : (s.jCmd f cmd st p old new).shelves = s.shelves := rfl
@[simp] theorem State.jCmd_watches (f : Fn) (cmd st : Nat) (p : Option Nat) (old new : List Byte) : (s.jCmd f cmd st p old new).watches = s.watches := rfl
@[simp] theorem State.jCmd_msgs (f : Fn) (cmd st : Nat) (p : Option Nat) (old new : List Byte) : (s.jCmd f cmd st p old new).msgs = s.msgs := rfl
@[simp] theorem State.jCmd_ports (f : Fn) (cmd st : Nat) (p : Option Nat) (old new : List Byte) : (s.jCmd f cmd st p old new).ports = s.ports := rfl
@[simp] theorem State.jCmd_chans (f : Fn) (cmd st : Nat) (p : Option Nat) (old new : List Byte) : (s.jCmd f cmd st p old new).chans = s.chans := rfl
@[simp] theorem State.jCmd_groups (f : Fn) (cmd st : Nat) (p : Option Nat) (old new : List Byte) : (s.jCmd f cmd st p old new).groups = s.groups := rfl
@[simp] theorem State.jCmd_cyc (f : Fn) (cmd st : Nat) (p : Option Nat) (old new : List Byte) : (s.jCmd f cmd st p old new).cyc = s.cyc := rfl
@[simp] theorem State.jCmd_pairs (f : Fn) (cmd st : Nat) (p : Option Nat) (old new : List Byte) : (s.jCmd f cmd st p old new).pairs = s.pairs := rfl
@[simp] theorem State.jCmd_power (f : Fn) (cmd st : Nat) (p : Option Nat) (old new : List Byte) : (s.jCmd f cmd st p old new).power = s.power := rfl
@[simp] theorem State.jCmd_cool (f : Fn) (cmd st : Nat) (p : Option Nat) (old new : List Byte) : (s.jCmd f cmd st p old new).cool = s.cool := rfl
@[simp] theorem State.jCmd_fields (f : Fn) (cmd st : Nat) (p : Option Nat) (old new : List Byte) : (s.jCmd f cmd st p old new).fields = s.fields := rfl
@[simp] theorem State.jCmd_fieldTally (f : Fn) (cmd st : Nat) (p : Option Nat) (old new : List Byte) : (s.jCmd f cmd st p old new).fieldTally = s.fieldTally := rfl
@[simp] theorem State.jCmd_out (f : Fn) (cmd st : Nat) (p : Option Nat) (old new : List Byte) : (s.jCmd f cmd st p old new).out = s.out := rfl

/-! ## jEvent -/

@[simp] theorem State.jEvent_pending (st obj : Nat) (p : Option Nat) (new : List Byte) : (s.jEvent st obj p new).pending = s.pending := rfl
@[simp] theorem State.jEvent_freeCtr (st obj : Nat) (p : Option Nat) (new : List Byte) : (s.jEvent st obj p new).freeCtr = s.freeCtr := rfl
@[simp] theorem State.jEvent_time (st obj : Nat) (p : Option Nat) (new : List Byte) : (s.jEvent st obj p new).time = s.time := rfl
@[simp] theorem State.jEvent_commit (st obj : Nat) (p : Option Nat) (new : List Byte) : (s.jEvent st obj p new).commit = s.commit := rfl
@[simp] theorem State.jEvent_fns (st obj : Nat) (p : Option Nat) (new : List Byte) : (s.jEvent st obj p new).fns = s.fns := rfl
@[simp] theorem State.jEvent_pcie (st obj : Nat) (p : Option Nat) (new : List Byte) : (s.jEvent st obj p new).pcie = s.pcie := rfl
@[simp] theorem State.jEvent_parts (st obj : Nat) (p : Option Nat) (new : List Byte) : (s.jEvent st obj p new).parts = s.parts := rfl
@[simp] theorem State.jEvent_cores (st obj : Nat) (p : Option Nat) (new : List Byte) : (s.jEvent st obj p new).cores = s.cores := rfl
@[simp] theorem State.jEvent_coresLost (st obj : Nat) (p : Option Nat) (new : List Byte) : (s.jEvent st obj p new).coresLost = s.coresLost := rfl
@[simp] theorem State.jEvent_tablesLost (st obj : Nat) (p : Option Nat) (new : List Byte) : (s.jEvent st obj p new).tablesLost = s.tablesLost := rfl
@[simp] theorem State.jEvent_hbm (st obj : Nat) (p : Option Nat) (new : List Byte) : (s.jEvent st obj p new).hbm = s.hbm := rfl
@[simp] theorem State.jEvent_shelves (st obj : Nat) (p : Option Nat) (new : List Byte) : (s.jEvent st obj p new).shelves = s.shelves := rfl
@[simp] theorem State.jEvent_watches (st obj : Nat) (p : Option Nat) (new : List Byte) : (s.jEvent st obj p new).watches = s.watches := rfl
@[simp] theorem State.jEvent_msgs (st obj : Nat) (p : Option Nat) (new : List Byte) : (s.jEvent st obj p new).msgs = s.msgs := rfl
@[simp] theorem State.jEvent_ports (st obj : Nat) (p : Option Nat) (new : List Byte) : (s.jEvent st obj p new).ports = s.ports := rfl
@[simp] theorem State.jEvent_chans (st obj : Nat) (p : Option Nat) (new : List Byte) : (s.jEvent st obj p new).chans = s.chans := rfl
@[simp] theorem State.jEvent_groups (st obj : Nat) (p : Option Nat) (new : List Byte) : (s.jEvent st obj p new).groups = s.groups := rfl
@[simp] theorem State.jEvent_cyc (st obj : Nat) (p : Option Nat) (new : List Byte) : (s.jEvent st obj p new).cyc = s.cyc := rfl
@[simp] theorem State.jEvent_pairs (st obj : Nat) (p : Option Nat) (new : List Byte) : (s.jEvent st obj p new).pairs = s.pairs := rfl
@[simp] theorem State.jEvent_power (st obj : Nat) (p : Option Nat) (new : List Byte) : (s.jEvent st obj p new).power = s.power := rfl
@[simp] theorem State.jEvent_cool (st obj : Nat) (p : Option Nat) (new : List Byte) : (s.jEvent st obj p new).cool = s.cool := rfl
@[simp] theorem State.jEvent_fields (st obj : Nat) (p : Option Nat) (new : List Byte) : (s.jEvent st obj p new).fields = s.fields := rfl
@[simp] theorem State.jEvent_fieldTally (st obj : Nat) (p : Option Nat) (new : List Byte) : (s.jEvent st obj p new).fieldTally = s.fieldTally := rfl
@[simp] theorem State.jEvent_out (st obj : Nat) (p : Option Nat) (new : List Byte) : (s.jEvent st obj p new).out = s.out := rfl

/-! ## jDiscard -/

@[simp] theorem State.jDiscard_pending (f : Fn) (bar off v : Nat) : (s.jDiscard f bar off v).pending = s.pending := rfl
@[simp] theorem State.jDiscard_freeCtr (f : Fn) (bar off v : Nat) : (s.jDiscard f bar off v).freeCtr = s.freeCtr := rfl
@[simp] theorem State.jDiscard_time (f : Fn) (bar off v : Nat) : (s.jDiscard f bar off v).time = s.time := rfl
@[simp] theorem State.jDiscard_commit (f : Fn) (bar off v : Nat) : (s.jDiscard f bar off v).commit = s.commit := rfl
@[simp] theorem State.jDiscard_fns (f : Fn) (bar off v : Nat) : (s.jDiscard f bar off v).fns = s.fns := rfl
@[simp] theorem State.jDiscard_pcie (f : Fn) (bar off v : Nat) : (s.jDiscard f bar off v).pcie = s.pcie := rfl
@[simp] theorem State.jDiscard_parts (f : Fn) (bar off v : Nat) : (s.jDiscard f bar off v).parts = s.parts := rfl
@[simp] theorem State.jDiscard_cores (f : Fn) (bar off v : Nat) : (s.jDiscard f bar off v).cores = s.cores := rfl
@[simp] theorem State.jDiscard_coresLost (f : Fn) (bar off v : Nat) : (s.jDiscard f bar off v).coresLost = s.coresLost := rfl
@[simp] theorem State.jDiscard_tablesLost (f : Fn) (bar off v : Nat) : (s.jDiscard f bar off v).tablesLost = s.tablesLost := rfl
@[simp] theorem State.jDiscard_hbm (f : Fn) (bar off v : Nat) : (s.jDiscard f bar off v).hbm = s.hbm := rfl
@[simp] theorem State.jDiscard_shelves (f : Fn) (bar off v : Nat) : (s.jDiscard f bar off v).shelves = s.shelves := rfl
@[simp] theorem State.jDiscard_watches (f : Fn) (bar off v : Nat) : (s.jDiscard f bar off v).watches = s.watches := rfl
@[simp] theorem State.jDiscard_msgs (f : Fn) (bar off v : Nat) : (s.jDiscard f bar off v).msgs = s.msgs := rfl
@[simp] theorem State.jDiscard_ports (f : Fn) (bar off v : Nat) : (s.jDiscard f bar off v).ports = s.ports := rfl
@[simp] theorem State.jDiscard_chans (f : Fn) (bar off v : Nat) : (s.jDiscard f bar off v).chans = s.chans := rfl
@[simp] theorem State.jDiscard_groups (f : Fn) (bar off v : Nat) : (s.jDiscard f bar off v).groups = s.groups := rfl
@[simp] theorem State.jDiscard_cyc (f : Fn) (bar off v : Nat) : (s.jDiscard f bar off v).cyc = s.cyc := rfl
@[simp] theorem State.jDiscard_pairs (f : Fn) (bar off v : Nat) : (s.jDiscard f bar off v).pairs = s.pairs := rfl
@[simp] theorem State.jDiscard_power (f : Fn) (bar off v : Nat) : (s.jDiscard f bar off v).power = s.power := rfl
@[simp] theorem State.jDiscard_cool (f : Fn) (bar off v : Nat) : (s.jDiscard f bar off v).cool = s.cool := rfl
@[simp] theorem State.jDiscard_fields (f : Fn) (bar off v : Nat) : (s.jDiscard f bar off v).fields = s.fields := rfl
@[simp] theorem State.jDiscard_fieldTally (f : Fn) (bar off v : Nat) : (s.jDiscard f bar off v).fieldTally = s.fieldTally := rfl
@[simp] theorem State.jDiscard_out (f : Fn) (bar off v : Nat) : (s.jDiscard f bar off v).out = s.out := rfl

/-! ## report -/

@[simp] theorem State.report_pending (p st d b : Nat) (u : UnitId) : (s.report p st d b u).pending = s.pending := rfl
@[simp] theorem State.report_freeCtr (p st d b : Nat) (u : UnitId) : (s.report p st d b u).freeCtr = s.freeCtr := rfl
@[simp] theorem State.report_time (p st d b : Nat) (u : UnitId) : (s.report p st d b u).time = s.time := rfl
@[simp] theorem State.report_commit (p st d b : Nat) (u : UnitId) : (s.report p st d b u).commit = s.commit := rfl
@[simp] theorem State.report_fns (p st d b : Nat) (u : UnitId) : (s.report p st d b u).fns = s.fns := rfl
@[simp] theorem State.report_pcie (p st d b : Nat) (u : UnitId) : (s.report p st d b u).pcie = s.pcie := rfl
@[simp] theorem State.report_fw (p st d b : Nat) (u : UnitId) : (s.report p st d b u).fw = s.fw := rfl
@[simp] theorem State.report_cores (p st d b : Nat) (u : UnitId) : (s.report p st d b u).cores = s.cores := rfl
@[simp] theorem State.report_coresLost (p st d b : Nat) (u : UnitId) : (s.report p st d b u).coresLost = s.coresLost := rfl
@[simp] theorem State.report_tablesLost (p st d b : Nat) (u : UnitId) : (s.report p st d b u).tablesLost = s.tablesLost := rfl
@[simp] theorem State.report_hbm (p st d b : Nat) (u : UnitId) : (s.report p st d b u).hbm = s.hbm := rfl
@[simp] theorem State.report_shelves (p st d b : Nat) (u : UnitId) : (s.report p st d b u).shelves = s.shelves := rfl
@[simp] theorem State.report_watches (p st d b : Nat) (u : UnitId) : (s.report p st d b u).watches = s.watches := rfl
@[simp] theorem State.report_msgs (p st d b : Nat) (u : UnitId) : (s.report p st d b u).msgs = s.msgs := rfl
@[simp] theorem State.report_ports (p st d b : Nat) (u : UnitId) : (s.report p st d b u).ports = s.ports := rfl
@[simp] theorem State.report_chans (p st d b : Nat) (u : UnitId) : (s.report p st d b u).chans = s.chans := rfl
@[simp] theorem State.report_groups (p st d b : Nat) (u : UnitId) : (s.report p st d b u).groups = s.groups := rfl
@[simp] theorem State.report_cyc (p st d b : Nat) (u : UnitId) : (s.report p st d b u).cyc = s.cyc := rfl
@[simp] theorem State.report_pairs (p st d b : Nat) (u : UnitId) : (s.report p st d b u).pairs = s.pairs := rfl
@[simp] theorem State.report_power (p st d b : Nat) (u : UnitId) : (s.report p st d b u).power = s.power := rfl
@[simp] theorem State.report_cool (p st d b : Nat) (u : UnitId) : (s.report p st d b u).cool = s.cool := rfl
@[simp] theorem State.report_fields (p st d b : Nat) (u : UnitId) : (s.report p st d b u).fields = s.fields := rfl
@[simp] theorem State.report_fieldTally (p st d b : Nat) (u : UnitId) : (s.report p st d b u).fieldTally = s.fieldTally := rfl
@[simp] theorem State.report_out (p st d b : Nat) (u : UnitId) : (s.report p st d b u).out = s.out := rfl

/-! ## begun -/

@[simp] theorem State.begun_pending (f : Fn) (n : Nat) (q : Slot) : (s.begun f n q).pending = s.pending := rfl
@[simp] theorem State.begun_freeCtr (f : Fn) (n : Nat) (q : Slot) : (s.begun f n q).freeCtr = s.freeCtr := rfl
@[simp] theorem State.begun_time (f : Fn) (n : Nat) (q : Slot) : (s.begun f n q).time = s.time := rfl
@[simp] theorem State.begun_commit (f : Fn) (n : Nat) (q : Slot) : (s.begun f n q).commit = s.commit := rfl
@[simp] theorem State.begun_pcie (f : Fn) (n : Nat) (q : Slot) : (s.begun f n q).pcie = s.pcie := rfl
@[simp] theorem State.begun_fw (f : Fn) (n : Nat) (q : Slot) : (s.begun f n q).fw = s.fw := rfl
@[simp] theorem State.begun_parts (f : Fn) (n : Nat) (q : Slot) : (s.begun f n q).parts = s.parts := rfl
@[simp] theorem State.begun_cores (f : Fn) (n : Nat) (q : Slot) : (s.begun f n q).cores = s.cores := rfl
@[simp] theorem State.begun_coresLost (f : Fn) (n : Nat) (q : Slot) : (s.begun f n q).coresLost = s.coresLost := rfl
@[simp] theorem State.begun_tablesLost (f : Fn) (n : Nat) (q : Slot) : (s.begun f n q).tablesLost = s.tablesLost := rfl
@[simp] theorem State.begun_hbm (f : Fn) (n : Nat) (q : Slot) : (s.begun f n q).hbm = s.hbm := rfl
@[simp] theorem State.begun_shelves (f : Fn) (n : Nat) (q : Slot) : (s.begun f n q).shelves = s.shelves := rfl
@[simp] theorem State.begun_watches (f : Fn) (n : Nat) (q : Slot) : (s.begun f n q).watches = s.watches := rfl
@[simp] theorem State.begun_msgs (f : Fn) (n : Nat) (q : Slot) : (s.begun f n q).msgs = s.msgs := rfl
@[simp] theorem State.begun_ports (f : Fn) (n : Nat) (q : Slot) : (s.begun f n q).ports = s.ports := rfl
@[simp] theorem State.begun_chans (f : Fn) (n : Nat) (q : Slot) : (s.begun f n q).chans = s.chans := rfl
@[simp] theorem State.begun_groups (f : Fn) (n : Nat) (q : Slot) : (s.begun f n q).groups = s.groups := rfl
@[simp] theorem State.begun_cyc (f : Fn) (n : Nat) (q : Slot) : (s.begun f n q).cyc = s.cyc := rfl
@[simp] theorem State.begun_pairs (f : Fn) (n : Nat) (q : Slot) : (s.begun f n q).pairs = s.pairs := rfl
@[simp] theorem State.begun_power (f : Fn) (n : Nat) (q : Slot) : (s.begun f n q).power = s.power := rfl
@[simp] theorem State.begun_cool (f : Fn) (n : Nat) (q : Slot) : (s.begun f n q).cool = s.cool := rfl
@[simp] theorem State.begun_fields (f : Fn) (n : Nat) (q : Slot) : (s.begun f n q).fields = s.fields := rfl
@[simp] theorem State.begun_fieldTally (f : Fn) (n : Nat) (q : Slot) : (s.begun f n q).fieldTally = s.fieldTally := rfl
@[simp] theorem State.begun_out (f : Fn) (n : Nat) (q : Slot) : (s.begun f n q).out = s.out := rfl

/-! ## toHost -/

@[simp] theorem State.toHost_pending (f : Fn) (a : Nat) (bs : List Byte) : (s.toHost f a bs).pending = s.pending := rfl
@[simp] theorem State.toHost_freeCtr (f : Fn) (a : Nat) (bs : List Byte) : (s.toHost f a bs).freeCtr = s.freeCtr := rfl
@[simp] theorem State.toHost_time (f : Fn) (a : Nat) (bs : List Byte) : (s.toHost f a bs).time = s.time := rfl
@[simp] theorem State.toHost_commit (f : Fn) (a : Nat) (bs : List Byte) : (s.toHost f a bs).commit = s.commit := rfl
@[simp] theorem State.toHost_fns (f : Fn) (a : Nat) (bs : List Byte) : (s.toHost f a bs).fns = s.fns := rfl
@[simp] theorem State.toHost_pcie (f : Fn) (a : Nat) (bs : List Byte) : (s.toHost f a bs).pcie = s.pcie := rfl
@[simp] theorem State.toHost_fw (f : Fn) (a : Nat) (bs : List Byte) : (s.toHost f a bs).fw = s.fw := rfl
@[simp] theorem State.toHost_parts (f : Fn) (a : Nat) (bs : List Byte) : (s.toHost f a bs).parts = s.parts := rfl
@[simp] theorem State.toHost_cores (f : Fn) (a : Nat) (bs : List Byte) : (s.toHost f a bs).cores = s.cores := rfl
@[simp] theorem State.toHost_coresLost (f : Fn) (a : Nat) (bs : List Byte) : (s.toHost f a bs).coresLost = s.coresLost := rfl
@[simp] theorem State.toHost_tablesLost (f : Fn) (a : Nat) (bs : List Byte) : (s.toHost f a bs).tablesLost = s.tablesLost := rfl
@[simp] theorem State.toHost_hbm (f : Fn) (a : Nat) (bs : List Byte) : (s.toHost f a bs).hbm = s.hbm := rfl
@[simp] theorem State.toHost_shelves (f : Fn) (a : Nat) (bs : List Byte) : (s.toHost f a bs).shelves = s.shelves := rfl
@[simp] theorem State.toHost_watches (f : Fn) (a : Nat) (bs : List Byte) : (s.toHost f a bs).watches = s.watches := rfl
@[simp] theorem State.toHost_msgs (f : Fn) (a : Nat) (bs : List Byte) : (s.toHost f a bs).msgs = s.msgs := rfl
@[simp] theorem State.toHost_ports (f : Fn) (a : Nat) (bs : List Byte) : (s.toHost f a bs).ports = s.ports := rfl
@[simp] theorem State.toHost_chans (f : Fn) (a : Nat) (bs : List Byte) : (s.toHost f a bs).chans = s.chans := rfl
@[simp] theorem State.toHost_groups (f : Fn) (a : Nat) (bs : List Byte) : (s.toHost f a bs).groups = s.groups := rfl
@[simp] theorem State.toHost_cyc (f : Fn) (a : Nat) (bs : List Byte) : (s.toHost f a bs).cyc = s.cyc := rfl
@[simp] theorem State.toHost_pairs (f : Fn) (a : Nat) (bs : List Byte) : (s.toHost f a bs).pairs = s.pairs := rfl
@[simp] theorem State.toHost_power (f : Fn) (a : Nat) (bs : List Byte) : (s.toHost f a bs).power = s.power := rfl
@[simp] theorem State.toHost_cool (f : Fn) (a : Nat) (bs : List Byte) : (s.toHost f a bs).cool = s.cool := rfl
@[simp] theorem State.toHost_fields (f : Fn) (a : Nat) (bs : List Byte) : (s.toHost f a bs).fields = s.fields := rfl
@[simp] theorem State.toHost_fieldTally (f : Fn) (a : Nat) (bs : List Byte) : (s.toHost f a bs).fieldTally = s.fieldTally := rfl

/-! ## answerRead -/

@[simp] theorem State.answerRead_pending (v st : Nat) : (s.answerRead v st).pending = s.pending := rfl
@[simp] theorem State.answerRead_freeCtr (v st : Nat) : (s.answerRead v st).freeCtr = s.freeCtr := rfl
@[simp] theorem State.answerRead_time (v st : Nat) : (s.answerRead v st).time = s.time := rfl
@[simp] theorem State.answerRead_commit (v st : Nat) : (s.answerRead v st).commit = s.commit := rfl
@[simp] theorem State.answerRead_fns (v st : Nat) : (s.answerRead v st).fns = s.fns := rfl
@[simp] theorem State.answerRead_pcie (v st : Nat) : (s.answerRead v st).pcie = s.pcie := rfl
@[simp] theorem State.answerRead_fw (v st : Nat) : (s.answerRead v st).fw = s.fw := rfl
@[simp] theorem State.answerRead_parts (v st : Nat) : (s.answerRead v st).parts = s.parts := rfl
@[simp] theorem State.answerRead_cores (v st : Nat) : (s.answerRead v st).cores = s.cores := rfl
@[simp] theorem State.answerRead_coresLost (v st : Nat) : (s.answerRead v st).coresLost = s.coresLost := rfl
@[simp] theorem State.answerRead_tablesLost (v st : Nat) : (s.answerRead v st).tablesLost = s.tablesLost := rfl
@[simp] theorem State.answerRead_hbm (v st : Nat) : (s.answerRead v st).hbm = s.hbm := rfl
@[simp] theorem State.answerRead_shelves (v st : Nat) : (s.answerRead v st).shelves = s.shelves := rfl
@[simp] theorem State.answerRead_watches (v st : Nat) : (s.answerRead v st).watches = s.watches := rfl
@[simp] theorem State.answerRead_msgs (v st : Nat) : (s.answerRead v st).msgs = s.msgs := rfl
@[simp] theorem State.answerRead_ports (v st : Nat) : (s.answerRead v st).ports = s.ports := rfl
@[simp] theorem State.answerRead_chans (v st : Nat) : (s.answerRead v st).chans = s.chans := rfl
@[simp] theorem State.answerRead_groups (v st : Nat) : (s.answerRead v st).groups = s.groups := rfl
@[simp] theorem State.answerRead_cyc (v st : Nat) : (s.answerRead v st).cyc = s.cyc := rfl
@[simp] theorem State.answerRead_pairs (v st : Nat) : (s.answerRead v st).pairs = s.pairs := rfl
@[simp] theorem State.answerRead_power (v st : Nat) : (s.answerRead v st).power = s.power := rfl
@[simp] theorem State.answerRead_cool (v st : Nat) : (s.answerRead v st).cool = s.cool := rfl
@[simp] theorem State.answerRead_fields (v st : Nat) : (s.answerRead v st).fields = s.fields := rfl
@[simp] theorem State.answerRead_fieldTally (v st : Nat) : (s.answerRead v st).fieldTally = s.fieldTally := rfl

/-! ## answerSide -/

@[simp] theorem State.answerSide_pending (b : List Byte) : (s.answerSide b).pending = s.pending := rfl
@[simp] theorem State.answerSide_freeCtr (b : List Byte) : (s.answerSide b).freeCtr = s.freeCtr := rfl
@[simp] theorem State.answerSide_time (b : List Byte) : (s.answerSide b).time = s.time := rfl
@[simp] theorem State.answerSide_commit (b : List Byte) : (s.answerSide b).commit = s.commit := rfl
@[simp] theorem State.answerSide_fns (b : List Byte) : (s.answerSide b).fns = s.fns := rfl
@[simp] theorem State.answerSide_pcie (b : List Byte) : (s.answerSide b).pcie = s.pcie := rfl
@[simp] theorem State.answerSide_fw (b : List Byte) : (s.answerSide b).fw = s.fw := rfl
@[simp] theorem State.answerSide_parts (b : List Byte) : (s.answerSide b).parts = s.parts := rfl
@[simp] theorem State.answerSide_cores (b : List Byte) : (s.answerSide b).cores = s.cores := rfl
@[simp] theorem State.answerSide_coresLost (b : List Byte) : (s.answerSide b).coresLost = s.coresLost := rfl
@[simp] theorem State.answerSide_tablesLost (b : List Byte) : (s.answerSide b).tablesLost = s.tablesLost := rfl
@[simp] theorem State.answerSide_hbm (b : List Byte) : (s.answerSide b).hbm = s.hbm := rfl
@[simp] theorem State.answerSide_shelves (b : List Byte) : (s.answerSide b).shelves = s.shelves := rfl
@[simp] theorem State.answerSide_watches (b : List Byte) : (s.answerSide b).watches = s.watches := rfl
@[simp] theorem State.answerSide_msgs (b : List Byte) : (s.answerSide b).msgs = s.msgs := rfl
@[simp] theorem State.answerSide_ports (b : List Byte) : (s.answerSide b).ports = s.ports := rfl
@[simp] theorem State.answerSide_chans (b : List Byte) : (s.answerSide b).chans = s.chans := rfl
@[simp] theorem State.answerSide_groups (b : List Byte) : (s.answerSide b).groups = s.groups := rfl
@[simp] theorem State.answerSide_cyc (b : List Byte) : (s.answerSide b).cyc = s.cyc := rfl
@[simp] theorem State.answerSide_pairs (b : List Byte) : (s.answerSide b).pairs = s.pairs := rfl
@[simp] theorem State.answerSide_power (b : List Byte) : (s.answerSide b).power = s.power := rfl
@[simp] theorem State.answerSide_cool (b : List Byte) : (s.answerSide b).cool = s.cool := rfl
@[simp] theorem State.answerSide_fields (b : List Byte) : (s.answerSide b).fields = s.fields := rfl
@[simp] theorem State.answerSide_fieldTally (b : List Byte) : (s.answerSide b).fieldTally = s.fieldTally := rfl

/-! ## The update operations are the writes -/

theorem State.updCore_eq (c : Nat) (f : Core → Core) : s.updCore c f = s.setCore c (f (s.core c)) := rfl
theorem State.updPart_eq (p : Nat) (f : Partition → Partition) : s.updPart p f = s.setPart p (f (s.part p)) := rfl
theorem State.updShelf_eq (k : Nat) (f : Shelf → Shelf) : s.updShelf k f = s.setShelf k (f (s.shelf k)) := rfl
theorem State.updPort_eq (k : Nat) (f : Port → Port) : s.updPort k f = s.setPort k (f (s.port k)) := rfl
theorem State.updChan_eq (k : Nat) (f : Channel → Channel) : s.updChan k f = s.setChan k (f (s.chan k)) := rfl
theorem State.updPair_eq (k : Nat) (f : Pair → Pair) : s.updPair k f = s.setPair k (f (s.pair k)) := rfl
theorem State.updSeq_eq (c : Nat) (f : Seq → Seq) : s.updSeq c f = s.setCore c { s.core c with seq := f (s.core c).seq } := rfl
theorem State.updJob_eq (p : Nat) (f : JobState → JobState) : s.updJob p f = s.setPart p { s.part p with job := f (s.part p).job } := rfl
theorem State.updRcv_eq (p : Nat) (f : RecState → RecState) : s.updRcv p f = s.setPart p { s.part p with rcv := f (s.part p).rcv } := rfl
theorem State.begun_eq (f : Fn) (n : Nat) (q : Slot) : s.begun f n q = s.setSlot f n { q with begun := true } := rfl

/-! ## A unit reads as what was written, every other as before -/

theorem State.core_setCore (c d : Nat) (x : Core) : (s.setCore c x).core d = if d = c then x else s.core d := by
  have h : (s.setCore c x).coreDefault = s.coreDefault := rfl
  simp only [State.core, h]
  exact Cells.get_put _ _ _ _ _
@[simp] theorem State.core_setCore_self (c : Nat) (x : Core) : (s.setCore c x).core c = x := by simp [State.core_setCore]
@[simp] theorem State.core_setCore_other {c d : Nat} (x : Core) (h : d ≠ c) : (s.setCore c x).core d = s.core d := by
  simp [State.core_setCore, h]
theorem State.part_setPart (p j : Nat) (x : Partition) : (s.setPart p x).part j = if j = p then x else s.part j := Cells.get_put _ _ _ _ _
@[simp] theorem State.part_setPart_self (p : Nat) (x : Partition) : (s.setPart p x).part p = x := by simp [State.part_setPart]
@[simp] theorem State.part_setPart_other {p j : Nat} (x : Partition) (h : j ≠ p) : (s.setPart p x).part j = s.part j := by
  simp [State.part_setPart, h]
theorem State.shelf_setShelf (k j : Nat) (x : Shelf) : (s.setShelf k x).shelf j = if j = k then x else s.shelf j := Cells.get_put _ _ _ _ _
@[simp] theorem State.shelf_setShelf_self (k : Nat) (x : Shelf) : (s.setShelf k x).shelf k = x := by simp [State.shelf_setShelf]
@[simp] theorem State.shelf_setShelf_other {k j : Nat} (x : Shelf) (h : j ≠ k) : (s.setShelf k x).shelf j = s.shelf j := by
  simp [State.shelf_setShelf, h]
theorem State.port_setPort (k j : Nat) (x : Port) : (s.setPort k x).port j = if j = k then x else s.port j := Cells.get_put _ _ _ _ _
@[simp] theorem State.port_setPort_self (k : Nat) (x : Port) : (s.setPort k x).port k = x := by simp [State.port_setPort]
@[simp] theorem State.port_setPort_other {k j : Nat} (x : Port) (h : j ≠ k) : (s.setPort k x).port j = s.port j := by
  simp [State.port_setPort, h]
theorem State.chan_setChan (k j : Nat) (x : Channel) : (s.setChan k x).chan j = if j = k then x else s.chan j := Cells.get_put _ _ _ _ _
@[simp] theorem State.chan_setChan_self (k : Nat) (x : Channel) : (s.setChan k x).chan k = x := by simp [State.chan_setChan]
@[simp] theorem State.chan_setChan_other {k j : Nat} (x : Channel) (h : j ≠ k) : (s.setChan k x).chan j = s.chan j := by
  simp [State.chan_setChan, h]
theorem State.pair_setPair (k j : Nat) (x : Pair) : (s.setPair k x).pair j = if j = k then x else s.pair j := Cells.get_put _ _ _ _ _
@[simp] theorem State.pair_setPair_self (k : Nat) (x : Pair) : (s.setPair k x).pair k = x := by simp [State.pair_setPair]
@[simp] theorem State.pair_setPair_other {k j : Nat} (x : Pair) (h : j ≠ k) : (s.setPair k x).pair j = s.pair j := by
  simp [State.pair_setPair, h]
theorem State.fn_setFn (f g : Fn) (x : FnState) : (s.setFn f x).fn g = if fnKey g = fnKey f then x else s.fn g := Cells.get_put _ _ _ _ _
@[simp] theorem State.fn_setFn_self (f : Fn) (x : FnState) : (s.setFn f x).fn f = x := by simp [State.fn_setFn]
@[simp] theorem State.fn_setFn_other {f g : Fn} (x : FnState) (h : fnKey g ≠ fnKey f) : (s.setFn f x).fn g = s.fn g := by
  simp [State.fn_setFn, h]
theorem State.grp_setGrp (p g q h : Nat) (x : GroupState) :
    (s.setGrp p g x).grp q h = if q * 256 + h = p * 256 + g then x else s.grp q h := Cells.get_put _ _ _ _ _
@[simp] theorem State.grp_setGrp_self (p g : Nat) (x : GroupState) : (s.setGrp p g x).grp p g = x := by simp [State.grp_setGrp]

/-- A slot of a function reads as what was put into it; every other slot of every function as before. -/
theorem State.slot_setSlot (f g : Fn) (n m : Nat) (x : Slot) :
    (s.setSlot f n x).slot g m = if fnKey g = fnKey f ∧ m = n then x else s.slot g m := by
  unfold State.slot State.setSlot
  rw [State.fn_setFn]
  by_cases h : fnKey g = fnKey f
  · have hg : s.fn g = s.fn f := by unfold State.fn; rw [h]
    rw [if_pos h, Cells.get_put, hg]
    by_cases hm : m = n <;> simp [h, hm]
  · simp [h]
@[simp] theorem State.slot_setSlot_self (f : Fn) (n : Nat) (x : Slot) : (s.setSlot f n x).slot f n = x := by simp [State.slot_setSlot]
/-- Writing a slot changes nothing of its function but its slots. -/
theorem State.fn_setSlot (f : Fn) (n : Nat) (x : Slot) :
    (s.setSlot f n x).fn f = { s.fn f with slots := Cells.put (fun _ => {}) (s.fn f).slots n x } := State.fn_setFn_self s f _

/-! ## Reading a unit where another kind was written -/

@[simp] theorem State.setCore_part (c : Nat) (x : Core) (q0 : Nat) : (s.setCore c x).part q0 = s.part q0 := rfl
@[simp] theorem State.setCore_shelf (c : Nat) (x : Core) (j0 : Nat) : (s.setCore c x).shelf j0 = s.shelf j0 := rfl
@[simp] theorem State.setCore_port (c : Nat) (x : Core) (q0 : Nat) : (s.setCore c x).port q0 = s.port q0 := rfl
@[simp] theorem State.setCore_chan (c : Nat) (x : Core) (v0 : Nat) : (s.setCore c x).chan v0 = s.chan v0 := rfl
@[simp] theorem State.setCore_pair (c : Nat) (x : Core) (j0 : Nat) : (s.setCore c x).pair j0 = s.pair j0 := rfl
@[simp] theorem State.setCore_hb (c : Nat) (x : Core) (a0 : Nat) : (s.setCore c x).hb a0 = s.hb a0 := rfl
@[simp] theorem State.setPart_core (p : Nat) (x : Partition) (d0 : Nat) : (s.setPart p x).core d0 = s.core d0 := rfl
@[simp] theorem State.setPart_shelf (p : Nat) (x : Partition) (j0 : Nat) : (s.setPart p x).shelf j0 = s.shelf j0 := rfl
@[simp] theorem State.setPart_port (p : Nat) (x : Partition) (q0 : Nat) : (s.setPart p x).port q0 = s.port q0 := rfl
@[simp] theorem State.setPart_chan (p : Nat) (x : Partition) (v0 : Nat) : (s.setPart p x).chan v0 = s.chan v0 := rfl
@[simp] theorem State.setPart_pair (p : Nat) (x : Partition) (j0 : Nat) : (s.setPart p x).pair j0 = s.pair j0 := rfl
@[simp] theorem State.setPart_hb (p : Nat) (x : Partition) (a0 : Nat) : (s.setPart p x).hb a0 = s.hb a0 := rfl
@[simp] theorem State.setShelf_core (k : Nat) (x : Shelf) (d0 : Nat) : (s.setShelf k x).core d0 = s.core d0 := rfl
@[simp] theorem State.setShelf_part (k : Nat) (x : Shelf) (q0 : Nat) : (s.setShelf k x).part q0 = s.part q0 := rfl
@[simp] theorem State.setShelf_port (k : Nat) (x : Shelf) (q0 : Nat) : (s.setShelf k x).port q0 = s.port q0 := rfl
@[simp] theorem State.setShelf_chan (k : Nat) (x : Shelf) (v0 : Nat) : (s.setShelf k x).chan v0 = s.chan v0 := rfl
@[simp] theorem State.setShelf_pair (k : Nat) (x : Shelf) (j0 : Nat) : (s.setShelf k x).pair j0 = s.pair j0 := rfl
@[simp] theorem State.setPort_core (k : Nat) (x : Port) (d0 : Nat) : (s.setPort k x).core d0 = s.core d0 := rfl
@[simp] theorem State.setPort_part (k : Nat) (x : Port) (q0 : Nat) : (s.setPort k x).part q0 = s.part q0 := rfl
@[simp] theorem State.setPort_shelf (k : Nat) (x : Port) (j0 : Nat) : (s.setPort k x).shelf j0 = s.shelf j0 := rfl
@[simp] theorem State.setPort_chan (k : Nat) (x : Port) (v0 : Nat) : (s.setPort k x).chan v0 = s.chan v0 := rfl
@[simp] theorem State.setPort_pair (k : Nat) (x : Port) (j0 : Nat) : (s.setPort k x).pair j0 = s.pair j0 := rfl
@[simp] theorem State.setPort_hb (k : Nat) (x : Port) (a0 : Nat) : (s.setPort k x).hb a0 = s.hb a0 := rfl
@[simp] theorem State.setChan_core (k : Nat) (x : Channel) (d0 : Nat) : (s.setChan k x).core d0 = s.core d0 := rfl
@[simp] theorem State.setChan_part (k : Nat) (x : Channel) (q0 : Nat) : (s.setChan k x).part q0 = s.part q0 := rfl
@[simp] theorem State.setChan_shelf (k : Nat) (x : Channel) (j0 : Nat) : (s.setChan k x).shelf j0 = s.shelf j0 := rfl
@[simp] theorem State.setChan_port (k : Nat) (x : Channel) (q0 : Nat) : (s.setChan k x).port q0 = s.port q0 := rfl
@[simp] theorem State.setChan_pair (k : Nat) (x : Channel) (j0 : Nat) : (s.setChan k x).pair j0 = s.pair j0 := rfl
@[simp] theorem State.setChan_hb (k : Nat) (x : Channel) (a0 : Nat) : (s.setChan k x).hb a0 = s.hb a0 := rfl
@[simp] theorem State.setPair_core (k : Nat) (x : Pair) (d0 : Nat) : (s.setPair k x).core d0 = s.core d0 := rfl
@[simp] theorem State.setPair_part (k : Nat) (x : Pair) (q0 : Nat) : (s.setPair k x).part q0 = s.part q0 := rfl
@[simp] theorem State.setPair_shelf (k : Nat) (x : Pair) (j0 : Nat) : (s.setPair k x).shelf j0 = s.shelf j0 := rfl
@[simp] theorem State.setPair_port (k : Nat) (x : Pair) (q0 : Nat) : (s.setPair k x).port q0 = s.port q0 := rfl
@[simp] theorem State.setPair_chan (k : Nat) (x : Pair) (v0 : Nat) : (s.setPair k x).chan v0 = s.chan v0 := rfl
@[simp] theorem State.setPair_hb (k : Nat) (x : Pair) (a0 : Nat) : (s.setPair k x).hb a0 = s.hb a0 := rfl
@[simp] theorem State.setFn_core (f : Fn) (x : FnState) (d0 : Nat) : (s.setFn f x).core d0 = s.core d0 := rfl
@[simp] theorem State.setFn_part (f : Fn) (x : FnState) (q0 : Nat) : (s.setFn f x).part q0 = s.part q0 := rfl
@[simp] theorem State.setFn_shelf (f : Fn) (x : FnState) (j0 : Nat) : (s.setFn f x).shelf j0 = s.shelf j0 := rfl
@[simp] theorem State.setFn_port (f : Fn) (x : FnState) (q0 : Nat) : (s.setFn f x).port q0 = s.port q0 := rfl
@[simp] theorem State.setFn_chan (f : Fn) (x : FnState) (v0 : Nat) : (s.setFn f x).chan v0 = s.chan v0 := rfl
@[simp] theorem State.setFn_pair (f : Fn) (x : FnState) (j0 : Nat) : (s.setFn f x).pair j0 = s.pair j0 := rfl
@[simp] theorem State.setFn_hb (f : Fn) (x : FnState) (a0 : Nat) : (s.setFn f x).hb a0 = s.hb a0 := rfl
@[simp] theorem State.setSlot_core (f : Fn) (n : Nat) (x : Slot) (d0 : Nat) : (s.setSlot f n x).core d0 = s.core d0 := rfl
@[simp] theorem State.setSlot_part (f : Fn) (n : Nat) (x : Slot) (q0 : Nat) : (s.setSlot f n x).part q0 = s.part q0 := rfl
@[simp] theorem State.setSlot_shelf (f : Fn) (n : Nat) (x : Slot) (j0 : Nat) : (s.setSlot f n x).shelf j0 = s.shelf j0 := rfl
@[simp] theorem State.setSlot_port (f : Fn) (n : Nat) (x : Slot) (q0 : Nat) : (s.setSlot f n x).port q0 = s.port q0 := rfl
@[simp] theorem State.setSlot_chan (f : Fn) (n : Nat) (x : Slot) (v0 : Nat) : (s.setSlot f n x).chan v0 = s.chan v0 := rfl
@[simp] theorem State.setSlot_pair (f : Fn) (n : Nat) (x : Slot) (j0 : Nat) : (s.setSlot f n x).pair j0 = s.pair j0 := rfl
@[simp] theorem State.setSlot_hb (f : Fn) (n : Nat) (x : Slot) (a0 : Nat) : (s.setSlot f n x).hb a0 = s.hb a0 := rfl
@[simp] theorem State.setGrp_core (p g : Nat) (x : GroupState) (d0 : Nat) : (s.setGrp p g x).core d0 = s.core d0 := rfl
@[simp] theorem State.setGrp_part (p g : Nat) (x : GroupState) (q0 : Nat) : (s.setGrp p g x).part q0 = s.part q0 := rfl
@[simp] theorem State.setGrp_shelf (p g : Nat) (x : GroupState) (j0 : Nat) : (s.setGrp p g x).shelf j0 = s.shelf j0 := rfl
@[simp] theorem State.setGrp_port (p g : Nat) (x : GroupState) (q0 : Nat) : (s.setGrp p g x).port q0 = s.port q0 := rfl
@[simp] theorem State.setGrp_chan (p g : Nat) (x : GroupState) (v0 : Nat) : (s.setGrp p g x).chan v0 = s.chan v0 := rfl
@[simp] theorem State.setGrp_pair (p g : Nat) (x : GroupState) (j0 : Nat) : (s.setGrp p g x).pair j0 = s.pair j0 := rfl
@[simp] theorem State.setGrp_hb (p g : Nat) (x : GroupState) (a0 : Nat) : (s.setGrp p g x).hb a0 = s.hb a0 := rfl
@[simp] theorem State.begun_core (f : Fn) (n : Nat) (q : Slot) (d0 : Nat) : (s.begun f n q).core d0 = s.core d0 := rfl
@[simp] theorem State.begun_part (f : Fn) (n : Nat) (q : Slot) (q0 : Nat) : (s.begun f n q).part q0 = s.part q0 := rfl
@[simp] theorem State.begun_shelf (f : Fn) (n : Nat) (q : Slot) (j0 : Nat) : (s.begun f n q).shelf j0 = s.shelf j0 := rfl
@[simp] theorem State.begun_port (f : Fn) (n : Nat) (q : Slot) (q0 : Nat) : (s.begun f n q).port q0 = s.port q0 := rfl
@[simp] theorem State.begun_chan (f : Fn) (n : Nat) (q : Slot) (v0 : Nat) : (s.begun f n q).chan v0 = s.chan v0 := rfl
@[simp] theorem State.begun_pair (f : Fn) (n : Nat) (q : Slot) (j0 : Nat) : (s.begun f n q).pair j0 = s.pair j0 := rfl
@[simp] theorem State.begun_hb (f : Fn) (n : Nat) (q : Slot) (a0 : Nat) : (s.begun f n q).hb a0 = s.hb a0 := rfl

end Sys2Proof.Machine
end

