-- ==== Sys2Proof/Laws/Ops.lean ====
section
/-!
SUPPORT. Sys2Proof/Laws/Ops.lean: what each shared operation can do, said once: the fields it may change, and what it leaves in them.
-/

namespace Sys2Proof.Machine

/-! ## Interrupts, events and completion -/

/-- Sending a vector changes the function's pending bits, or the messages sent. -/
theorem State.irq_frame (s : State) (f : Fn) (v : Nat) : s.irq f v = { s with fns := (s.irq f v).fns, out := (s.irq f v).out } := by
  unfold State.irq; split <;> rfl
/-- An unmasked vector is a message. -/
theorem State.irq_unmasked {s : State} {f : Fn} {v : Nat} (h : bit (s.fn f).msixMask v = false) :
    s.irq f v = { s with out := { s.out with irqs := s.out.irqs ++ [(f, v)] } } := by simp [State.irq, h]
/-- A masked vector is a pending bit. -/
theorem State.irq_masked {s : State} {f : Fn} {v : Nat} (h : bit (s.fn f).msixMask v = true) :
    s.irq f v = s.setFn f { s.fn f with msixPend := setBit (s.fn f).msixPend v true } := by simp [State.irq, h]
/-- Sending a vector leaves every slot as it was. -/
@[simp] theorem State.irq_slot (s : State) (f g : Fn) (v n : Nat) : (s.irq f v).slot g n = s.slot g n := by
  unfold State.irq
  split
  · unfold State.slot
    rw [State.fn_setFn]
    split
    · rename_i h
      unfold State.fn
      rw [h]
    · rfl
  · rfl

/-- Entering an event changes functions and what the module sends. -/
theorem State.eventTo_frame (s : State) (b : List Byte) (f : Fn) :
    s.eventTo b f = { s with fns := (s.eventTo b f).fns, out := (s.eventTo b f).out } := by
  unfold State.eventTo
  simp only
  split
  · rfl
  · rw [State.irq_frame]; rfl

/-- So does sending it to several functions. -/
theorem State.events_frame (b : List Byte) (l : List Fn) : ∀ s : State,
    l.foldl (fun s f => s.eventTo b f) s =
      { s with fns := (l.foldl (fun s f => s.eventTo b f) s).fns, out := (l.foldl (fun s f => s.eventTo b f) s).out } := by
  induction l with
  | nil => exact fun _ => rfl
  | cons f r ih =>
    intro s
    rw [List.foldl_cons, ih, State.eventTo_frame]

/-- An event changes functions and what the module sends. -/
theorem State.event_frame (s : State) (e : Event) : s.event e = { s with fns := (s.event e).fns, out := (s.event e).out } :=
  State.events_frame _ _ s

/-- Completing a command changes functions and what the module sends. -/
theorem State.complete_frame (s : State) (f : Fn) (n st d : Nat) (r : List Byte) :
    s.complete f n st d r = { s with fns := (s.complete f n st d r).fns, out := (s.complete f n st d r).out } := by
  unfold State.complete
  simp only
  split
  · rfl
  · rw [State.irq_frame]; rfl
/-- The slot of a completed command. -/
theorem State.complete_slot (s : State) (f g : Fn) (n m st d : Nat) (r : List Byte) :
    (s.complete f n st d r).slot g m =
      if fnKey g = fnKey f ∧ m = n then (s.slot f n).finish st d s.dtb r else s.slot g m := by
  unfold State.complete
  simp only
  split
  · rw [State.slot_setSlot]
  · rw [State.irq_slot, State.slot_setSlot]
/-- A completed command reads as completed with its status and result (R413). -/
theorem State.complete_completed (s : State) (f : Fn) (n st d : Nat) (r : List Byte) : (s.complete f n st d r).Completed f n st r := by
  have h : (s.complete f n st d r).slot f n = (s.slot f n).finish st d s.dtb r := by simp [State.complete_slot]
  constructor <;> rw [h] <;> simp [Slot.finish]
/-- What a completion does outside the functions and the module's output reads as before. -/
@[simp] theorem State.complete_core (s : State) (f : Fn) (n st d : Nat) (r : List Byte) (c : Nat) :
    (s.complete f n st d r).core c = s.core c := by rw [State.complete_frame]; rfl
@[simp] theorem State.complete_part (s : State) (f : Fn) (n st d : Nat) (r : List Byte) (p : Nat) :
    (s.complete f n st d r).part p = s.part p := by rw [State.complete_frame]; rfl
@[simp] theorem State.complete_hb (s : State) (f : Fn) (n st d : Nat) (r : List Byte) (a : Nat) :
    (s.complete f n st d r).hb a = s.hb a := by rw [State.complete_frame]; rfl

/-! ## Carrying out a command -/

/-- A command that nothing refuses starts with its slot marked. -/
theorem commandIf_carries {s : State} {f : Fn} {n : Nat} {is : Slot → Bool} {q : Slot} (h : s.Carries f n is q)
    (body : Slot → State → State) : commandIf is f n s body = .next (body q (s.begun f n q)) := by
  unfold commandIf
  simp [h.fn, h.turn, h.header, h.power, h.stop, Nat.not_le.2 h.slot, State.begun]
theorem command_carries {s : State} {f : Fn} {n code : Nat} {q : Slot} (h : s.Carries f n (isCmd code) q)
    (body : Slot → State → State) : command code f n s body = .next (body q (s.begun f n q)) := commandIf_carries h body
/-- A missing function or slot is the one stop. -/
theorem commandIf_fault {f : Fn} {n : Nat} (h : fnOk f = false ∨ 32 ≤ n) (is : Slot → Bool) (s : State) (body : Slot → State → State) :
    commandIf is f n s body = .fault .noSuchUnit := by
  unfold commandIf
  rcases h with h | h <;> simp [h]
/-- A slot without such a command is left alone. -/
theorem commandIf_none {s : State} {f : Fn} {n : Nat} {is : Slot → Bool} (hf : fnOk f = true) (hn : n < 32) (h : s.turn f n is = none)
    (body : Slot → State → State) : commandIf is f n s body = .next s := by
  unfold commandIf
  simp [hf, h, Nat.not_le.2 hn]

/-! ## The journal -/

theorem FwState.Continues.refl (f : FwState) : f.Continues f := ⟨0, [], by simp, by simp⟩
theorem FwState.Continues.trans {f g h : FwState} (a : f.Continues g) (b : g.Continues h) : f.Continues h := by
  obtain ⟨k, m, hj, ho⟩ := a
  obtain ⟨k2, m2, hj2, ho2⟩ := b
  exact ⟨k + k2, m.drop (k2 - (f.journal.length - k)) ++ m2, by simp [hj2, hj, List.drop_append, List.drop_drop], by omega⟩
/-- Sequence numbers never go back. -/
theorem FwState.Continues.nextSeq_le {f g : FwState} (h : f.Continues g) : f.nextSeq ≤ g.nextSeq := by
  obtain ⟨k, m, hj, ho⟩ := h
  simp only [FwState.nextSeq, hj, ho, List.length_append, List.length_drop]
  omega
/-- What appending an entry does: perhaps the oldest block leaves, and the new entry is the last (R445). -/
theorem FwState.append_cases (f : FwState) (e : JEntry) :
    (f.journal.length + 2 ≤ journalCap ∧ f.append e = { f with journal := f.journal ++ [e] }) ∨
    (journalCap < f.journal.length + 2 ∧ ∃ t h, f.append e = { f with
      journal := f.journal.drop journalBlock ++ [t] ++ [e], oldest := f.oldest + journalBlock, baseH := h, unsealed := f.unsealed + 1 }) := by
  unfold FwState.append
  by_cases h : f.journal.length + 2 ≤ journalCap
  · exact .inl ⟨h, by simp [h]⟩
  · exact .inr ⟨by omega, _, _, by rw [if_neg h]⟩
/-- Appending continues the journal. -/
theorem FwState.append_continues (f : FwState) (e : JEntry) : f.Continues (f.append e) := by
  rcases f.append_cases e with ⟨-, h⟩ | ⟨-, t, b, h⟩ <;> rw [h]
  · exact ⟨0, [e], by simp, rfl⟩
  · exact ⟨journalBlock, [t] ++ [e], by simp, rfl⟩
/-- The appended entry is the last. -/
theorem FwState.append_last (f : FwState) (e : JEntry) : (f.append e).journal.getLast? = some e := by
  rcases f.append_cases e with ⟨-, h⟩ | ⟨-, t, b, h⟩ <;> rw [h] <;> simp
/-- Appending leaves the fused counters and the revoked keys. -/
theorem FwState.append_fuses (f : FwState) (e : JEntry) :
    (f.append e).rootSvn = f.rootSvn ∧ (f.append e).svcSvn = f.svcSvn ∧ (f.append e).revoked = f.revoked := by
  rcases f.append_cases e with ⟨-, h⟩ | ⟨-, t, b, h⟩ <;> rw [h] <;> exact ⟨rfl, rfl, rfl⟩

/-- Journalling changes the firmware's state only. -/
theorem State.journal_frame (s : State) (e : JEntry) : s.journal e = { s with fw := (s.journal e).fw } := rfl
/-- It continues the journal with the entry, stamped with the DTB. -/
theorem State.journal_continues (s : State) (e : JEntry) : s.fw.Continues (s.journal e).fw := s.fw.append_continues { e with dtb := s.dtb }
/-- Sealing changes the firmware's state and takes one free value. -/
theorem State.seal_frame (s : State) : s.seal = { s with fw := s.seal.fw, freeCtr := s.freeCtr + 1 } := rfl
theorem State.seal_continues (s : State) : s.fw.Continues s.seal.fw := s.fw.append_continues _
theorem State.seal_unsealed (s : State) : s.seal.fw.unsealed = 0 := rfl

/-! ## HBM -/

/-- A write to the stack changes HBM; one to a line, its shelf. -/
theorem State.putHb_frame (s : State) (a : Nat) (b : Byte) :
    s.putHb a b = { s with hbm := (s.putHb a b).hbm, shelves := (s.putHb a b).shelves } := by unfold State.putHb; split <;> rfl
/-- It keeps the canonical form. -/
theorem State.putHb_wf (s : State) (a : Nat) (b : Byte) (h : s.hbm.wf = true) : (s.putHb a b).hbm.wf = true := by
  unfold State.putHb
  split
  · exact Mem.wf_write _ _ _ h
  · exact h
/-- Writing a line back changes HBM. -/
theorem State.writeBack_frame (s : State) (base : Nat) (l : CacheLine) : s.writeBack base l = { s with hbm := (s.writeBack base l).hbm } := by
  unfold State.writeBack; rfl
theorem State.writeBack_wf (s : State) (base : Nat) (l : CacheLine) (h : s.hbm.wf = true) : (s.writeBack base l).hbm.wf = true := by
  have key : ∀ (r : List Nat) (m : Mem), m.wf = true → (r.foldl (fun m i =>
      if l.dirty.getD i false then m.write (base + i) (l.bytes.getD i 0) else m) m).wf = true := by
    intro r
    induction r with
    | nil => exact fun _ h => h
    | cons i r ih =>
      intro m hm
      rw [List.foldl_cons]
      apply ih
      split
      · exact Mem.wf_write _ _ _ hm
      · exact hm
  exact key (List.range 128) s.hbm h
/-- A write lands at its place, whether the stack or a line holds it, in a state whose lines are whole. -/
theorem State.hb_of_no_line {s : State} {a : Nat} (h : s.line a = none) : s.hb a = s.hbm.read a := by simp [State.hb, h]
theorem State.putHb_of_no_line {s : State} {a : Nat} (h : s.line a = none) (b : Byte) : s.putHb a b = { s with hbm := s.hbm.write a b } := by
  simp [State.putHb, h]

/-- Reading one place after a write at another changes nothing, where no shelf holds a line of either. -/
theorem State.putHb_hb_uncached {s : State} {a x : Nat} (b : Byte) (ha : s.line a = none) (hx : s.line x = none) :
    (s.putHb a b).hb x = if x = a then b else s.hb x := by
  have hl : (s.putHb a b).line x = none := by rw [State.putHb_of_no_line ha]; exact hx
  rw [State.hb_of_no_line hl, State.hb_of_no_line hx, State.putHb_of_no_line ha]
  by_cases h : x = a
  · subst h; simp
  · simp [h]

/-- Whether two states differ in nothing but HBM and the shelves: what a request at its home bank may change. -/
def State.MemOnly (s t : State) : Prop := ∃ m k, t = { s with hbm := m, shelves := k }
theorem State.MemOnly.refl (s : State) : s.MemOnly s := ⟨_, _, rfl⟩
theorem State.MemOnly.trans {s t u : State} (h : s.MemOnly t) (g : t.MemOnly u) : s.MemOnly u := by
  obtain ⟨m, k, rfl⟩ := h
  obtain ⟨n, j, rfl⟩ := g
  exact ⟨n, j, rfl⟩
theorem State.MemOnly.eq {s t : State} (h : s.MemOnly t) : t = { s with hbm := t.hbm, shelves := t.shelves } := by
  obtain ⟨m, k, rfl⟩ := h
  rfl
/-- What such states agree in. -/
theorem State.MemOnly.part {s t : State} (h : s.MemOnly t) (p : Nat) : t.part p = s.part p := by obtain ⟨m, k, rfl⟩ := h; rfl
theorem State.MemOnly.core {s t : State} (h : s.MemOnly t) (c : Nat) : t.core c = s.core c := by obtain ⟨m, k, rfl⟩ := h; rfl

theorem State.updShelf_memOnly (s : State) (k : Nat) (f : Shelf → Shelf) : s.MemOnly (s.updShelf k f) := ⟨_, _, rfl⟩
theorem State.updShelf_hbm (s : State) (k : Nat) (f : Shelf → Shelf) : (s.updShelf k f).hbm = s.hbm := rfl
theorem State.writeBack_memOnly (s : State) (base : Nat) (l : CacheLine) : s.MemOnly (s.writeBack base l) := ⟨_, _, rfl⟩
theorem State.putHb_memOnly (s : State) (a : Nat) (b : Byte) : s.MemOnly (s.putHb a b) := ⟨_, _, s.putHb_frame a b⟩
/-- A line that leaves or is allocated changes memory only, and keeps the canonical form. -/
theorem State.evict_spec (s : State) (k l : Nat) : s.MemOnly (s.evict k l) ∧ (s.hbm.wf = true → (s.evict k l).hbm.wf = true) := by
  unfold State.evict
  split
  · exact ⟨.refl _, id⟩
  · exact ⟨(s.writeBack_memOnly _ _).trans (State.updShelf_memOnly _ _ _), fun h => by
      rw [State.updShelf_hbm]; exact s.writeBack_wf _ _ h⟩
theorem State.allocLine_spec (s : State) (p k l : Nat) :
    s.MemOnly (s.allocLine p k l) ∧ (s.hbm.wf = true → (s.allocLine p k l).hbm.wf = true) := by
  unfold State.allocLine
  simp only
  split
  · exact ⟨.refl _, id⟩
  · split
    · exact ⟨.refl _, id⟩
    · rename_i v _
      exact ⟨(s.evict_spec k v.line).1.trans (State.updShelf_memOnly _ _ _), (s.evict_spec k v.line).2⟩
theorem State.haveLine_spec (s : State) (p cls a : Nat) :
    s.MemOnly (s.haveLine p cls a) ∧ (s.hbm.wf = true → (s.haveLine p cls a).hbm.wf = true) := by
  unfold State.haveLine
  split
  · exact s.allocLine_spec _ _ _
  · exact ⟨.refl _, id⟩
/-- So does a read of a byte at its home bank, and a write. -/
theorem State.useByte_spec (s : State) (p cls a : Nat) :
    s.MemOnly (s.useByte p cls a) ∧ (s.hbm.wf = true → (s.useByte p cls a).hbm.wf = true) := by
  unfold State.useByte
  simp only
  split
  · exact s.haveLine_spec p cls a
  · exact ⟨(s.haveLine_spec p cls a).1.trans (State.updShelf_memOnly _ _ _), (s.haveLine_spec p cls a).2⟩
theorem State.loadAt_spec (p cls : Nat) (xs : List Nat) : ∀ s : State,
    s.MemOnly (s.loadAt p cls xs) ∧ (s.hbm.wf = true → (s.loadAt p cls xs).hbm.wf = true) := by
  unfold State.loadAt
  induction xs with
  | nil => exact fun s => ⟨.refl _, id⟩
  | cons x r ih =>
    intro s
    rw [List.foldl_cons]
    split
    · rename_i a _
      exact ⟨(s.useByte_spec p cls a).1.trans (ih _).1, fun h => (ih _).2 ((s.useByte_spec p cls a).2 h)⟩
    · exact ih s
theorem State.storeByte_spec (s : State) (p cls a : Nat) (b : Byte) :
    s.MemOnly (s.storeByte p cls a b) ∧ (s.hbm.wf = true → (s.storeByte p cls a b).hbm.wf = true) := by
  unfold State.storeByte
  split
  · exact ⟨.refl _, id⟩
  · exact ⟨(s.haveLine_spec p cls a).1.trans (State.putHb_memOnly _ a b), fun h => State.putHb_wf _ a b ((s.haveLine_spec p cls a).2 h)⟩

/-! ## Faults, counters and calving -/

/-- Stopping a core changes that core's sequencer only. -/
theorem State.stopCore_frame (s : State) (c cause w : Nat) : s.OnlyCore (s.stopCore c cause w) c :=
  ⟨rfl, fun _ h => State.core_setCore_other _ _ h⟩
/-- A report joins the partition's queue and changes nothing else. -/
theorem State.report_frame (s : State) (p st d b : Nat) (u : UnitId) : s.report p st d b u = { s with parts := (s.report p st d b u).parts } := rfl
theorem State.report_part (s : State) (p q st d b : Nat) (u : UnitId) : (s.report p st d b u).part q =
    if q = p then { s.part p with job := { (s.part p).job with
      reports := (s.part p).job.reports ++ [(st, d, b, u.kind * 65536 + u.num)] } } else s.part q := State.part_setPart _ _ _ _
/-- A core's fault changes cores and partitions. -/
theorem State.coreFault_frame (s : State) (p c cause st w : Nat) :
    s.coreFault p c cause st w = { s with cores := (s.coreFault p c cause st w).cores, parts := (s.coreFault p c cause st w).parts } := rfl
theorem State.schedFault_frame (s : State) (p c cause b : Nat) (u : UnitId) :
    s.schedFault p c cause b u = { s with cores := (s.schedFault p c cause b u).cores, parts := (s.schedFault p c cause b u).parts } := rfl
/-- Counting a fenced write changes its partition. -/
theorem State.fence_frame (s : State) (p n : Nat) : s.fence p n = { s with parts := (s.fence p n).parts } := rfl
/-- Calving changes the partition's recovery points; one that is given up also sends an event. -/
theorem State.calve_frame (s : State) (p x : Nat) :
    s.calve p x = { s with parts := (s.calve p x).parts, fns := (s.calve p x).fns, out := (s.calve p x).out } := by
  unfold State.calve
  split
  · split
    · split
      · rfl
      · rw [State.event_frame]; rfl
    · rfl
  · rfl
/-- A store changes HBM, shelves and what calving changes; it keeps the canonical form. -/
theorem State.storeBytes_spec (p cls : Nat) (lift : Bool) (es : List (Nat × Byte)) : ∀ s : State,
    (s.storeBytes p cls lift es = { s with
      hbm := (s.storeBytes p cls lift es).hbm, shelves := (s.storeBytes p cls lift es).shelves, parts := (s.storeBytes p cls lift es).parts,
      fns := (s.storeBytes p cls lift es).fns, out := (s.storeBytes p cls lift es).out }) ∧
    (s.hbm.wf = true → (s.storeBytes p cls lift es).hbm.wf = true) := by
  induction es with
  | nil => exact fun s => ⟨rfl, id⟩
  | cons e r ih =>
    intro s
    have hc : ∀ x, (if lift then s.calve p x else s) = { s with
        parts := (if lift then s.calve p x else s).parts, fns := (if lift then s.calve p x else s).fns,
        out := (if lift then s.calve p x else s).out } := by
      intro x
      split
      · exact s.calve_frame p x
      · rfl
    rw [State.storeBytes]
    split
    · rename_i a _
      split
      · exact ih s
      · have hb := (if lift then s.calve p e.1 else s).storeByte_spec p cls a e.2
        refine ⟨?_, fun h => (ih _).2 (hb.2 ?_)⟩
        · have h1 := (ih ((if lift then s.calve p e.1 else s).storeByte p cls a e.2)).1
          rw [h1, hb.1.eq, hc]
        · rw [hc]; exact h
    · exact ih s
/-- What a fence discards is reported: the partition's queue of reports. -/
theorem State.fenceReport_frame (s : State) (p beat : Nat) (xs : List Nat) :
    s.fenceReport p beat xs = { s with parts := (s.fenceReport p beat xs).parts } := by
  unfold State.fenceReport
  split
  · rfl
  · exact s.report_frame _ _ _ _ _
theorem State.storeAt_frame (s : State) (p cls : Nat) (lift : Bool) (x : Nat) (bs : List Byte) : s.storeAt p cls lift x bs =
    { s with hbm := (s.storeAt p cls lift x bs).hbm, shelves := (s.storeAt p cls lift x bs).shelves,
             parts := (s.storeAt p cls lift x bs).parts, fns := (s.storeAt p cls lift x bs).fns,
             out := (s.storeAt p cls lift x bs).out } := by
  unfold State.storeAt
  rw [State.fenceReport_frame, (State.storeBytes_spec p cls lift (placesFrom x bs) s).1]
theorem State.storeAt_wf (s : State) (p cls : Nat) (lift : Bool) (x : Nat) (bs : List Byte) (h : s.hbm.wf = true) :
    (s.storeAt p cls lift x bs).hbm.wf = true := by
  unfold State.storeAt
  rw [State.fenceReport_frame]
  exact (State.storeBytes_spec p cls lift (placesFrom x bs) s).2 h
/-- The three kinds of writes keep the canonical form. -/
theorem State.storeX_wf (s : State) (p x : Nat) (bs : List Byte) (h : s.hbm.wf = true) : (s.storeX p x bs).hbm.wf = true := s.storeAt_wf _ _ _ _ _ h
theorem State.writeP_wf (s : State) (p x : Nat) (bs : List Byte) (h : s.hbm.wf = true) : (s.writeP p x bs).hbm.wf = true := s.storeAt_wf _ _ _ _ _ h
theorem State.writeX_wf (s : State) (p x : Nat) (bs : List Byte) (h : s.hbm.wf = true) : (s.writeX p x bs).hbm.wf = true := s.storeAt_wf _ _ _ _ _ h

/-! ## Accesses to local memories -/

/-- What an instruction's accesses do: it waits for a witness, stops at a double error, or its body runs (R91, R227, R229). -/
theorem State.access_cases (s : State) (x : Ctx) (reads writes : List (Bool × Nat × Nat)) (body : State → Issue) :
    (writes.any (fun w => (s.core x.c).witRange w.1 w.2.1 w.2.2) = true ∧
      s.access x reads writes body = .wait (s.setCore x.c (s.core x.c).waitWitness)) ∨
    (writes.any (fun w => (s.core x.c).witRange w.1 w.2.1 w.2.2) = false ∧ ∃ u, (s.core x.c).badWord reads = some u ∧
      s.access x reads writes body = .fault Config.stMemUncorrectable (s.setCore x.c ((s.core x.c).uncorrected u))) ∨
    ((s.core x.c).Accesses reads writes ∧ s.access x reads writes body = body (s.accessed x.c reads writes)) := by
  unfold State.access
  by_cases h : writes.any (fun w => (s.core x.c).witRange w.1 w.2.1 w.2.2) = true
  · exact .inl ⟨h, if_pos h⟩
  · have h0 : writes.any (fun w => (s.core x.c).witRange w.1 w.2.1 w.2.2) = false := by simpa using h
    cases hb : (s.core x.c).badWord reads with
    | some u => exact .inr (.inl ⟨h0, u, rfl, by simp only [h0, hb]; rfl⟩)
    | none => exact .inr (.inr ⟨⟨h0, hb⟩, by simp only [h0, hb]; rfl⟩)
/-- Accesses without an upset and without a hold leave the state as it is. -/
theorem State.accessed_plain {s : State} {c : Nat} (h : (s.core c).upsets = []) (g : (s.core c).mu.witHold = false)
    (reads writes : List (Bool × Nat × Nat)) : s.accessed c reads writes = s := by simp [State.accessed, h, g]
/-- They change that core only. -/
theorem State.accessed_frame (s : State) (c : Nat) (reads writes : List (Bool × Nat × Nat)) : s.OnlyCore (s.accessed c reads writes) c := by
  unfold State.accessed
  simp only
  split
  · exact ⟨rfl, fun _ _ => rfl⟩
  · exact ⟨rfl, fun _ h => State.core_setCore_other _ _ h⟩

/-! ## Issue at a core -/

/-- A core's turn is one of these: nothing to issue, a word of no row, a word of another row, or the row's own body. -/
theorem issue_cases (r : Row) (c : Nat) (s : State) (body : Ctx → Issue) (h : c < Config.cores) :
    (s.ctx c = none ∧ issue r c s body = .next s) ∨
    ∃ x, s.ctx c = some x ∧
      ((rowOf x.w = none ∧ issue r c s body = finish x s .illegal) ∨
       (∃ r', rowOf x.w = some r' ∧ r' ≠ r ∧ issue r c s body = .next s) ∨
       (rowOf x.w = some r ∧ issue r c s body = finish x s (body x))) := by
  unfold issue
  rw [if_neg (Nat.not_le.2 h)]
  cases hx : s.ctx c with
  | none => exact .inl ⟨rfl, rfl⟩
  | some x =>
    refine .inr ⟨x, rfl, ?_⟩
    cases hr : rowOf x.w with
    | none => simp [hr]
    | some r' =>
      by_cases e : r' = r
      · simp [hr, e]
      · simp [hr, e]
/-- The core's next word is of the row: its body runs. -/
theorem issue_of_issues {s : State} {c : Nat} {r : Row} {x : Ctx} (h : s.Issues c r x) (body : Ctx → Issue) :
    issue r c s body = finish x s (body x) := by
  unfold issue
  simp [Nat.not_le.2 h.core, h.ctx, h.row]
/-- The context is of the core it was asked for. -/
theorem State.ctx_core {s : State} {c : Nat} {x : Ctx} (h : s.ctx c = some x) :
    x.c = c ∧ s.partOf c = some x.p ∧ (s.part x.p).image = some x.im ∧ x.k = contractOf (s.part x.p).geo c := by
  unfold State.ctx at h
  split at h
  · cases h
  · split at h
    · cases h
    · simp only at h
      split at h
      · split at h
        · cases h
        · cases h; exact ⟨rfl, ‹_›, ‹_›, rfl⟩
      · cases h
/-- A retired instruction: the next one, and a note for the counters. -/
theorem Core.retire_frame (k : Core) (e : Nat) : k.retire e = { k with seq := k.seq.next, tally := (k.retire e).tally } := rfl
/-- Going on changes the core's sequencer and its notes only. -/
theorem State.advance_core (s : State) (c d : Nat) :
    (s.advance c).core d = if d = c then (s.core c).retire 0x010 else s.core d := State.core_setCore _ _ _ _
theorem State.advance_frame (s : State) (c : Nat) : s.OnlyCore (s.advance c) c := ⟨rfl, fun _ h => State.core_setCore_other _ _ h⟩

end Sys2Proof.Machine
end

