-- ==== Sys2Proof/Laws/PerInstr.lean ====
section
/-!
SUPPORT. Sys2Proof/Laws/PerInstr.lean: the family CoreUnits: a row of the core microprogram names no unit but its core.
-/

namespace Sys2Proof.Laws.CoreUnits

/-- Where a command issues a row of a core's microprogram, the units it names exist exactly where its core does. -/
def Statement (i : Instr) : Prop := ∀ r c, Machine.coreRow i = some (r, c) → i.unitsOk = decide (c < Config.cores)

theorem mmaZero : ∀ c, Statement (.mmaZero c) := by intros; intro r c h; cases h; rfl
theorem mmaInitC : ∀ c, Statement (.mmaInitC c) := by intros; intro r c h; cases h; rfl
theorem mmaContinue : ∀ c, Statement (.mmaContinue c) := by intros; intro r c h; cases h; rfl
theorem mmaDiagZero : ∀ c, Statement (.mmaDiagZero c) := by intros; intro r c h; cases h; rfl
theorem mmaDiagContinue : ∀ c, Statement (.mmaDiagContinue c) := by intros; intro r c h; cases h; rfl
theorem tileFinish : ∀ c t, Statement (.tileFinish c t) := by intros; intro r c h; cases h
theorem finishedTilePush : ∀ c t, Statement (.finishedTilePush c t) := by intros; intro r c h; cases h
theorem multicastDelivery : ∀ c row0 col0 rows cols srcBase dstBase len, Statement (.multicastDelivery c row0 col0 rows cols srcBase dstBase len) := by intros; intro r c h; cases h
theorem heldWriteRelease : ∀ c, Statement (.heldWriteRelease c) := by intros; intro r c h; cases h
theorem witnessReference : ∀ c, Statement (.witnessReference c) := by intros; intro r c h; cases h
theorem chain : ∀ c, Statement (.chain c) := by intros; intro r c h; cases h; rfl
theorem chainEf : ∀ c, Statement (.chainEf c) := by intros; intro r c h; cases h; rfl
theorem chainFtq : ∀ c, Statement (.chainFtq c) := by intros; intro r c h; cases h; rfl
theorem moveIn : ∀ c, Statement (.moveIn c) := by intros; intro r c h; cases h; rfl
theorem moveOut : ∀ c, Statement (.moveOut c) := by intros; intro r c h; cases h; rfl
theorem moveWindow : ∀ c, Statement (.moveWindow c) := by intros; intro r c h; cases h; rfl
theorem moveMesh : ∀ c, Statement (.moveMesh c) := by intros; intro r c h; cases h; rfl
theorem moveSleet : ∀ c, Statement (.moveSleet c) := by intros; intro r c h; cases h; rfl
theorem moveFirn : ∀ c, Statement (.moveFirn c) := by intros; intro r c h; cases h; rfl
theorem kvPageWrite : ∀ p addr data, Statement (.kvPageWrite p addr data) := by intros; intro r c h; cases h
theorem beatWait : ∀ c, Statement (.beatWait c) := by intros; intro r c h; cases h; rfl
theorem signalWait : ∀ c, Statement (.signalWait c) := by intros; intro r c h; cases h; rfl
theorem flagSet : ∀ c, Statement (.flagSet c) := by intros; intro r c h; cases h; rfl
theorem flagClear : ∀ c, Statement (.flagClear c) := by intros; intro r c h; cases h; rfl
theorem freezePoint : ∀ c, Statement (.freezePoint c) := by intros; intro r c h; cases h; rfl
theorem claim : ∀ c, Statement (.claim c) := by intros; intro r c h; cases h; rfl
theorem claimRequest : ∀ p counter, Statement (.claimRequest p counter) := by intros; intro r c h; cases h
theorem claimDone : ∀ c, Statement (.claimDone c) := by intros; intro r c h; cases h; rfl
theorem claimDoneAccept : ∀ p counter, Statement (.claimDoneAccept p counter) := by intros; intro r c h; cases h
theorem claimLeaseExpiry : ∀ p counter idx, Statement (.claimLeaseExpiry p counter idx) := by intros; intro r c h; cases h
theorem selectPoint : ∀ c, Statement (.selectPoint c) := by intros; intro r c h; cases h; rfl
theorem bucketSelection : ∀ p, Statement (.bucketSelection p) := by intros; intro r c h; cases h
theorem allReduce : ∀ c, Statement (.allReduce c) := by intros; intro r c h; cases h; rfl
theorem reduceScatter : ∀ c, Statement (.reduceScatter c) := by intros; intro r c h; cases h; rfl
theorem allGather : ∀ c, Statement (.allGather c) := by intros; intro r c h; cases h; rfl
theorem p2pSend : ∀ c, Statement (.p2pSend c) := by intros; intro r c h; cases h; rfl
theorem p2pRecv : ∀ c, Statement (.p2pRecv c) := by intros; intro r c h; cases h; rfl
theorem setPass : ∀ c, Statement (.setPass c) := by intros; intro r c h; cases h; rfl
theorem loop : ∀ c, Statement (.loop c) := by intros; intro r c h; cases h; rfl
theorem variant : ∀ c, Statement (.variant c) := by intros; intro r c h; cases h; rfl
theorem nop : ∀ c, Statement (.nop c) := by intros; intro r c h; cases h; rfl
theorem halt : ∀ c, Statement (.halt c) := by intros; intro r c h; cases h; rfl
theorem messageArrival : ∀ n, Statement (.messageArrival n) := by intros; intro r c h; cases h
theorem beatStall : ∀ c, Statement (.beatStall c) := by intros; intro r c h; cases h
theorem beatCommit : ∀ p, Statement (.beatCommit p) := by intros; intro r c h; cases h
theorem runOutputCopy : ∀ p ok, Statement (.runOutputCopy p ok) := by intros; intro r c h; cases h
theorem widenAllocate : ∀ p pass req, Statement (.widenAllocate p pass req) := by intros; intro r c h; cases h
theorem cacheAccess : ∀ p cls a req ev, Statement (.cacheAccess p cls a req ev) := by intros; intro r c h; cases h
theorem reducerOp : ∀ p op wide a b addr, Statement (.reducerOp p op wide a b addr) := by intros; intro r c h; cases h
theorem glacierAdd : ∀ shelf entry elem x beat, Statement (.glacierAdd shelf entry elem x beat) := by intros; intro r c h; cases h
theorem orderedSumContrib : ∀ shelf entry elem ordinal x beat, Statement (.orderedSumContrib shelf entry elem ordinal x beat) := by intros; intro r c h; cases h
theorem shelfThermalEvaluation : ∀ shelf temps, Statement (.shelfThermalEvaluation shelf temps) := by intros; intro r c h; cases h
theorem linkTrained : ∀ port peer, Statement (.linkTrained port peer) := by intros; intro r c h; cases h
theorem flitTransmit : ∀ port, Statement (.flitTransmit port) := by intros; intro r c h; cases h
theorem flitReceive : ∀ port flit corrected fecOk, Statement (.flitReceive port flit corrected fecOk) := by intros; intro r c h; cases h
theorem nakReplay : ∀ port ack, Statement (.nakReplay port ack) := by intros; intro r c h; cases h
theorem replayTimeout : ∀ port, Statement (.replayTimeout port) := by intros; intro r c h; cases h
theorem laneRelock : ∀ port, Statement (.laneRelock port) := by intros; intro r c h; cases h
theorem heartbeatSend : ∀ port, Statement (.heartbeatSend port) := by intros; intro r c h; cases h
theorem heartbeatReceive : ∀ port hb, Statement (.heartbeatReceive port hb) := by intros; intro r c h; cases h
theorem peerLost : ∀ port, Statement (.peerLost port) := by intros; intro r c h; cases h
theorem portRetrain : ∀ port peer, Statement (.portRetrain port peer) := by intros; intro r c h; cases h
theorem beatAckDeadline : ∀ port vc, Statement (.beatAckDeadline port vc) := by intros; intro r c h; cases h
theorem departureNotice : ∀ port, Statement (.departureNotice port) := by intros; intro r c h; cases h
theorem dtbParentTimeout : Statement (.dtbParentTimeout) := by intro r c h; cases h
theorem dtbBroadcast : Statement (.dtbBroadcast) := by intro r c h; cases h
theorem ppsEdge : Statement (.ppsEdge) := by intro r c h; cases h
theorem instanceStart : ∀ p group, Statement (.instanceStart p group) := by intros; intro r c h; cases h
theorem collectiveMessage : ∀ port vc h beat payload, Statement (.collectiveMessage port vc h beat payload) := by intros; intro r c h; cases h
theorem resultDelivery : ∀ p group n, Statement (.resultDelivery p group n) := by intros; intro r c h; cases h
theorem orderSkewTimeout : ∀ ch, Statement (.orderSkewTimeout ch) := by intros; intro r c h; cases h
theorem hostChunkRead : ∀ p port chunk data crc, Statement (.hostChunkRead p port chunk data crc) := by intros; intro r c h; cases h
theorem loadDataMessage : ∀ p h data, Statement (.loadDataMessage p h data) := by intros; intro r c h; cases h
theorem loadAbortMessage : ∀ p loadId, Statement (.loadAbortMessage p loadId) := by intros; intro r c h; cases h
theorem loadEndMessage : ∀ p loadId, Statement (.loadEndMessage p loadId) := by intros; intro r c h; cases h
theorem loadCompanionTimeout : ∀ p, Statement (.loadCompanionTimeout p) := by intros; intro r c h; cases h
theorem loadHoldTimeout : ∀ p, Statement (.loadHoldTimeout p) := by intros; intro r c h; cases h
theorem cyclicWindowBoundary : Statement (.cyclicWindowBoundary) := by intro r c h; cases h
theorem partitionFreeze : ∀ p, Statement (.partitionFreeze p) := by intros; intro r c h; cases h
theorem codecPicture : ∀ pair session cause key nonref frame consumed, Statement (.codecPicture pair session cause key nonref frame consumed) := by intros; intro r c h; cases h
theorem codecBlockBudget : ∀ pair damaged, Statement (.codecBlockBudget pair damaged) := by intros; intro r c h; cases h
theorem codecWatchdog : ∀ pair damaged, Statement (.codecWatchdog pair damaged) := by intros; intro r c h; cases h
theorem encodeRingWrite : ∀ pair, Statement (.encodeRingWrite pair) := by intros; intro r c h; cases h
theorem pictureOutput : ∀ pair, Statement (.pictureOutput pair) := by intros; intro r c h; cases h
theorem codecResume : ∀ pair session, Statement (.codecResume pair session) := by intros; intro r c h; cases h
theorem codecPairFault : ∀ pair, Statement (.codecPairFault pair) := by intros; intro r c h; cases h
theorem mailboxPost : ∀ f n w0 w1 w2 w3 payload, Statement (.mailboxPost f n w0 w1 w2 w3 payload) := by intros; intro r c h; cases h
theorem mailboxScan : Statement (.mailboxScan) := by intro r c h; cases h
theorem msixUnmask : ∀ f v, Statement (.msixUnmask f v) := by intros; intro r c h; cases h
theorem registerWrite : ∀ f bar off value, Statement (.registerWrite f bar off value) := by intros; intro r c h; cases h
theorem registerReadClear : ∀ f bar off, Statement (.registerReadClear f bar off) := by intros; intro r c h; cases h
theorem nopCommand : ∀ f n, Statement (.nopCommand f n) := by intros; intro r c h; cases h
theorem permitSet : ∀ f n, Statement (.permitSet f n) := by intros; intro r c h; cases h
theorem commit : ∀ f n, Statement (.commit f n) := by intros; intro r c h; cases h
theorem setTime : ∀ f n, Statement (.setTime f n) := by intros; intro r c h; cases h
theorem deviceReset : ∀ f n, Statement (.deviceReset f n) := by intros; intro r c h; cases h
theorem powerState : ∀ f n, Statement (.powerState f n) := by intros; intro r c h; cases h
theorem regrade : ∀ f n, Statement (.regrade f n) := by intros; intro r c h; cases h
theorem regradeTimer : Statement (.regradeTimer) := by intro r c h; cases h
theorem partCreate : ∀ f n, Statement (.partCreate f n) := by intros; intro r c h; cases h
theorem partChange : ∀ f n, Statement (.partChange f n) := by intros; intro r c h; cases h
theorem partDestroy : ∀ f n, Statement (.partDestroy f n) := by intros; intro r c h; cases h
theorem admitImage : ∀ f n image, Statement (.admitImage f n image) := by intros; intro r c h; cases h
theorem bind : ∀ f n, Statement (.bind f n) := by intros; intro r c h; cases h
theorem run : ∀ f n inputs, Statement (.run f n inputs) := by intros; intro r c h; cases h
theorem retire : ∀ f n, Statement (.retire f n) := by intros; intro r c h; cases h
theorem jobStatus : ∀ f n, Statement (.jobStatus f n) := by intros; intro r c h; cases h
theorem memCopyToDevice : ∀ f n data, Statement (.memCopyToDevice f n data) := by intros; intro r c h; cases h
theorem memCopyToHost : ∀ f n ok, Statement (.memCopyToHost f n ok) := by intros; intro r c h; cases h
theorem tableReload : ∀ f n data, Statement (.tableReload f n data) := by intros; intro r c h; cases h
theorem thaw : ∀ f n, Statement (.thaw f n) := by intros; intro r c h; cases h
theorem partReset : ∀ f n, Statement (.partReset f n) := by intros; intro r c h; cases h
theorem weightLoad : ∀ f n, Statement (.weightLoad f n) := by intros; intro r c h; cases h
theorem weightSwitch : ∀ f n list, Statement (.weightSwitch f n list) := by intros; intro r c h; cases h
theorem weightSwitchCancel : ∀ f n, Statement (.weightSwitchCancel f n) := by intros; intro r c h; cases h
theorem slotOpen : ∀ f n, Statement (.slotOpen f n) := by intros; intro r c h; cases h
theorem slotFork : ∀ f n, Statement (.slotFork f n) := by intros; intro r c h; cases h
theorem slotClose : ∀ f n, Statement (.slotClose f n) := by intros; intro r c h; cases h
theorem prefixPin : ∀ f n, Statement (.prefixPin f n) := by intros; intro r c h; cases h
theorem prefixRelease : ∀ f n, Statement (.prefixRelease f n) := by intros; intro r c h; cases h
theorem slotQuery : ∀ f n, Statement (.slotQuery f n) := by intros; intro r c h; cases h
theorem codecOpen : ∀ f n, Statement (.codecOpen f n) := by intros; intro r c h; cases h
theorem codecSubmit : ∀ f n, Statement (.codecSubmit f n) := by intros; intro r c h; cases h
theorem codecClose : ∀ f n, Statement (.codecClose f n) := by intros; intro r c h; cases h
theorem codecRelease : ∀ f n, Statement (.codecRelease f n) := by intros; intro r c h; cases h
theorem journalRead : ∀ f n, Statement (.journalRead f n) := by intros; intro r c h; cases h
theorem attest : ∀ f n, Statement (.attest f n) := by intros; intro r c h; cases h
theorem fwWrite : ∀ f n first second, Statement (.fwWrite f n first second) := by intros; intro r c h; cases h
theorem fwActivate : ∀ f n, Statement (.fwActivate f n) := by intros; intro r c h; cases h
theorem fwAdvanceSvn : ∀ f n, Statement (.fwAdvanceSvn f n) := by intros; intro r c h; cases h
theorem fwRevokeKey : ∀ f n, Statement (.fwRevokeKey f n) := by intros; intro r c h; cases h
theorem debugChallenge : ∀ f n, Statement (.debugChallenge f n) := by intros; intro r c h; cases h
theorem debugToken : ∀ f n, Statement (.debugToken f n) := by intros; intro r c h; cases h
theorem debugExpiry : Statement (.debugExpiry) := by intro r c h; cases h
theorem stop : ∀ f n, Statement (.stop f n) := by intros; intro r c h; cases h
theorem freeze : ∀ f n, Statement (.freeze f n) := by intros; intro r c h; cases h
theorem faultQuery : ∀ f n, Statement (.faultQuery f n) := by intros; intro r c h; cases h
theorem leaseBreak : ∀ f n, Statement (.leaseBreak f n) := by intros; intro r c h; cases h
theorem mctpJournalRead : ∀ payload, Statement (.mctpJournalRead payload) := by intros; intro r c h; cases h
theorem mctpAttest : ∀ payload, Statement (.mctpAttest payload) := by intros; intro r c h; cases h
theorem sensorRead : ∀ payload, Statement (.sensorRead payload) := by intros; intro r c h; cases h
theorem powerStateQuery : Statement (.powerStateQuery) := by intro r c h; cases h
theorem permafrostExit : Statement (.permafrostExit) := by intro r c h; cases h
theorem permafrostEntry : Statement (.permafrostEntry) := by intro r c h; cases h
theorem pmcRead : ∀ f bar off, Statement (.pmcRead f bar off) := by intros; intro r c h; cases h
theorem pmcWrite : ∀ f bar off value, Statement (.pmcWrite f bar off value) := by intros; intro r c h; cases h
theorem containedFault : ∀ p announced, Statement (.containedFault p announced) := by intros; intro r c h; cases h
theorem rollback : ∀ p fp, Statement (.rollback p fp) := by intros; intro r c h; cases h
theorem serviceFwRestart : Statement (.serviceFwRestart) := by intro r c h; cases h
theorem deviceFatalFault : ∀ cause, Statement (.deviceFatalFault cause) := by intros; intro r c h; cases h
theorem fieldPllLockLoss : ∀ field, Statement (.fieldPllLockLoss field) := by intros; intro r c h; cases h
theorem hostLeaseExpiry : ∀ f, Statement (.hostLeaseExpiry f) := by intros; intro r c h; cases h
theorem lockWordTimeout : ∀ p n, Statement (.lockWordTimeout p n) := by intros; intro r c h; cases h
theorem checkpointDue : ∀ p answers, Statement (.checkpointDue p answers) := by intros; intro r c h; cases h
theorem buddyDrain : ∀ p, Statement (.buddyDrain p) := by intros; intro r c h; cases h
theorem journalSeal : Statement (.journalSeal) := by intro r c h; cases h
theorem coreReset : ∀ c, Statement (.coreReset c) := by intros; intro r c h; cases h
theorem functionReset : ∀ f, Statement (.functionReset f) := by intros; intro r c h; cases h
theorem perstBoth : Statement (.perstBoth) := by intro r c h; cases h
theorem pcieLinkDown : ∀ port, Statement (.pcieLinkDown port) := by intros; intro r c h; cases h
theorem powerOn : Statement (.powerOn) := by intro r c h; cases h
theorem shutdownCause : ∀ cause, Statement (.shutdownCause cause) := by intros; intro r c h; cases h
theorem leakDetect : Statement (.leakDetect) := by intro r c h; cases h
theorem leakClear : Statement (.leakClear) := by intro r c h; cases h
theorem powerCapMeasure : ∀ watts, Statement (.powerCapMeasure watts) := by intros; intro r c h; cases h
theorem fieldThermalEvaluation : ∀ field temp, Statement (.fieldThermalEvaluation field temp) := by intros; intro r c h; cases h
theorem pcieLinkUp : ∀ port, Statement (.pcieLinkUp port) := by intros; intro r c h; cases h
theorem perstRelease : Statement (.perstRelease) := by intro r c h; cases h
theorem cblPresentChange : ∀ port high, Statement (.cblPresentChange port high) := by intros; intro r c h; cases h
theorem referenceClockStable : Statement (.referenceClockStable) := by intro r c h; cases h
theorem sensorUpdate : ∀ r, Statement (.sensorUpdate r) := by intros; intro r c h; cases h

end Sys2Proof.Laws.CoreUnits
end

