-- ==== Sys2Proof/Tests/Small.lean ====
section
/-!
SUPPORT. Sys2Proof/Tests/Small.lean: the small states that the tests run on, and how a witness is shown to meet a statement's hypotheses.
-/

namespace Sys2Proof.Tests

open Sys2Proof.Machine

/-! ## Images -/

/-- A record of `n` bytes from fields (offset, bytes, value) over zeros. -/
def record (n : Nat) (fs : List (Nat × Nat × Nat)) : List Byte :=
  fs.foldl (fun r f => r.take f.1 ++ leBytes f.2.1 f.2.2 ++ r.drop (f.1 + f.2.1)) (List.replicate n 0)

/-- A tile program: a header of 64 bytes, the directory, then the sections (kind, records). -/
def program (blocks modules layers : Nat) (secs : List (Nat × List (List Byte))) : List Byte :=
  let dir := secs.foldl (fun (d : List Byte × Nat) e =>
    (d.1 ++ record 16 [(0, 4, e.1), (4, 4, d.2), (8, 4, e.2.flatten.length), (12, 4, e.2.length)], d.2 + e.2.flatten.length))
    ([], 64 + 16 * secs.length)
  record 64 [(24, 1, secs.length), (28, 4, 64), (32, 1, blocks), (36, 2, modules), (40, 2, layers)] ++ dir.1
    ++ (secs.map (fun e => e.2.flatten)).flatten

/-- An admitted image with one stream, that of contract core 0; its regions lie 64 KiB apart. -/
def image (bytes : List Byte) (stream : List Word128) : Image :=
  { bytes := bytes, req := [], widenTs := 0, widenHbm := 0, regions := (List.range 11).map (fun i => 65536 * i), chans := [0, 1],
    streams := if stream.isEmpty then [] else [(0, (131072, stream.length))] }
/-- The words of that stream in region 2. -/
def streamHbm (stream : List Word128) : Mem := Mem.writeN {} 131072 (stream.flatMap (fun w => leBytes 16 w.toNat))

/-! ## States -/

/-- A partition of block 0 and channel group 0 with an image that runs. -/
def part1 (im : Image) : Partition :=
  { geo := { defined := true, blocks := 1, groups := 1 }, image := some im, job := { started := true, running := true } }

/-- Core 0 of partition 0 runs the given core state. -/
def coreWith (im : Image) (k : Core) : State := { State.reset with parts := [(0, part1 im)], cores := [(0, k)] }

/-- The same with the stream that the image names for core 0 in memory. -/
def coreAt0 (bytes : List Byte) (stream : List Word128) (k : Core) : State := { coreWith (image bytes stream) k with hbm := streamHbm stream }

/-- A core that runs. -/
def running : Core := { Core.reset with seq := { run := 1 } }

/-- Core 0 is at one instruction. -/
def one (w : Word128) : State := coreAt0 [] [w] running

/-- Core 0 is at one instruction with a descriptor table and an image. -/
def withDesc (bytes : List Byte) (w : Word128) (d : List Byte) : State := coreAt0 bytes [w] { running with desc := Mem.ofBytes d }

/-- Partition 0 has an image, and no core but those of reset. -/
def admitted (im : Image) (f : Partition → Partition) : State := { State.reset with parts := [(0, f (part1 im))] }

/-- All 100 cores of block 0 in one state. -/
def block0 (k : Core) : List (Nat × Core) := (List.range 100).map (fun i => (i / 10 * 50 + i % 10, k))

/-! ## Witnesses -/

/-- Shelves as reset leaves them cache no line and fence nothing. -/
theorem cachesOk_of_reset {s : State} (h : s.shelves = []) : s.CachesOk := by
  intro k l hl
  rw [State.shelf, h] at hl
  cases hl
theorem noFence_of_reset {s : State} (h : s.shelves = []) : s.NoFence := by
  intro k
  rw [State.shelf, h]
  rfl

/-- What an instruction's accesses meet: a witness that holds what it writes, a double error in what it reads, or neither. -/
def meets (k : Core) (reads writes : List (Bool × Nat × Nat)) : Nat :=
  if writes.any (fun w => k.witRange w.1 w.2.1 w.2.2) then 1 else if (k.badWord reads).isSome then 2 else 0
theorem accesses_of {k : Core} {reads writes : List (Bool × Nat × Nat)} (h : meets k reads writes = 0) : k.Accesses reads writes := by
  unfold meets at h
  split at h
  · cases h
  · rename_i hw
    split at h
    · cases h
    · rename_i hb
      exact ⟨Bool.eq_false_iff.mpr hw, Option.not_isSome_iff_eq_none.mp hb⟩
/-- A core with double errors in word 0 of both local memories, and with a witness that holds 64 bytes of both. -/
def badAt0 (k : Core) : Core := { k with upsets := [⟨false, 0, true⟩, ⟨true, 0, true⟩] }
def witAt0 (k : Core) : Core := { k with mu := { k.mu with
  witq := [⟨false, 0, [], 0, 0, 0, 0, [], [⟨[], [], none, [(false, 0, 64), (true, 0, 64)]⟩], []⟩] } }
/-- The three of them: 0 as it is, 1 held by the witness, 2 with the errors. -/
def metAt0 (n : Nat) (k : Core) : Core := if n = 1 then witAt0 k else if n = 2 then badAt0 k else k

/-- What a core's next word must meet, as a check that evaluates. -/
def issuesB (s : State) (c : Nat) (r : Row) (P : Ctx → Bool) : Bool :=
  decide (c < Config.cores) && match s.ctx c with | some x => rowOf x.w == some r && P x | none => false
theorem issues_of {s : State} {c : Nat} {r : Row} (P : Ctx → Bool) (h : issuesB s c r P = true) : ∃ x, s.Issues c r x ∧ P x = true := by
  unfold issuesB at h
  split at h
  · rename_i x hx
    simp only [Bool.and_eq_true, decide_eq_true_eq, beq_iff_eq] at h
    exact ⟨x, ⟨h.1, hx, h.2.1⟩, h.2.2⟩
  · simp at h

/-- What a mailbox command must meet, as a check that evaluates. -/
def carriesB (s : State) (f : Fn) (n : Nat) (is : Slot → Bool) (P : Slot → Bool) : Bool :=
  fnOk f && decide (n < 32) && match s.turn f n is with
    | some q => s.headerCheck f n q == none && !s.powerRefuses q && !s.stopRefuses q && P q
    | none => false
theorem carries_of {s : State} {f : Fn} {n : Nat} {is : Slot → Bool} (P : Slot → Bool) (h : carriesB s f n is P = true) :
    ∃ q, s.Carries f n is q ∧ P q = true := by
  unfold carriesB at h
  split at h
  · rename_i q hq
    simp only [Bool.and_eq_true, decide_eq_true_eq, beq_iff_eq, Bool.not_eq_true'] at h
    exact ⟨q, ⟨h.1.1, h.1.2, hq, h.2.1.1.1, h.2.1.1.2, h.2.1.2⟩, h.2.2⟩
  · simp at h

/-- Physical function 0 of port A holds, in slot 0, a taken command with a payload; the rest is as given. -/
def box (s : State) (cmd len part : Nat) (payload : List Byte) : State :=
  { s with fns := [(0, { slots := [(0, { post := true, ack := true, cmd := cmd, len := len, part := part, payload := payload })] })] }

/-- The function that posts in these tests. -/
def pfA : Fn := ⟨0, 0⟩

end Sys2Proof.Tests
end

