-- ==== Sys2Proof/Tests/Slice0.lean ====
section
/-!
SUPPORT. Sys2Proof/Tests/Slice0.lean: the checks of WellFormed with a command that each refuses, and small tests whose expected values
come from the manual's worked examples and tables (named with each).
-/

namespace Sys2Proof.Tests

-- The kernel evaluates these theorems; one after another, so that no thread waits for another.
set_option Elab.async false

open Sys2Proof.Machine

/-! ## WellFormed: a command at the end of its range, and one past it -/

theorem smoke_core : (Instr.nop 9999).wf = true ∧ (Instr.nop 10000).wf = false := by decide +kernel
theorem smoke_part : (Instr.beatCommit 15).wf = true ∧ (Instr.beatCommit 16).wf = false := by decide +kernel
theorem smoke_shelf : (Instr.glacierAdd 7 255 0 0 0).wf = true ∧ (Instr.glacierAdd 8 0 0 0 0).wf = false := by decide +kernel
theorem smoke_entry : (Instr.orderedSumContrib 0 256 0 0 0 0).wf = false := by decide +kernel
theorem smoke_port : (Instr.replayTimeout 15).wf = true ∧ (Instr.replayTimeout 16).wf = false := by decide +kernel
theorem smoke_pcie : (Instr.pcieLinkDown 1).wf = true ∧ (Instr.pcieLinkDown 2).wf = false := by decide +kernel
theorem smoke_chan : (Instr.orderSkewTimeout 7).wf = true ∧ (Instr.orderSkewTimeout 8).wf = false := by decide +kernel
theorem smoke_vc : (Instr.beatAckDeadline 0 10).wf = true ∧ (Instr.beatAckDeadline 0 11).wf = false := by decide +kernel
theorem smoke_pair : (Instr.pictureOutput 11).wf = true ∧ (Instr.pictureOutput 12).wf = false := by decide +kernel
theorem smoke_session : (Instr.codecResume 0 15).wf = true ∧ (Instr.codecResume 0 16).wf = false := by decide +kernel
theorem smoke_field : (Instr.fieldPllLockLoss 3).wf = true ∧ (Instr.fieldPllLockLoss 4).wf = false := by decide +kernel
theorem smoke_group : (Instr.instanceStart 0 255).wf = true ∧ (Instr.instanceStart 0 256).wf = false := by decide +kernel
theorem smoke_counter : (Instr.claimRequest 0 1023).wf = true ∧ (Instr.claimRequest 0 1024).wf = false := by decide +kernel
theorem smoke_tile : (Instr.tileFinish 0 1).wf = true ∧ (Instr.tileFinish 0 2).wf = false := by decide +kernel
theorem smoke_rect : (Instr.multicastDelivery 0 42 42 8 8 0 0 64).wf = true ∧ (Instr.multicastDelivery 0 43 0 8 8 0 0 64).wf = false ∧
    (Instr.multicastDelivery 0 0 0 9 8 0 0 64).wf = false := by decide +kernel
theorem smoke_function : (Instr.functionReset ⟨1, 16⟩).wf = true ∧ (Instr.functionReset ⟨2, 0⟩).wf = false ∧
    (Instr.functionReset ⟨0, 17⟩).wf = false := by decide +kernel
theorem smoke_slot : (Instr.run ⟨0, 0⟩ 31 none).wf = true ∧ (Instr.run ⟨0, 0⟩ 32 none).wf = false := by decide +kernel
theorem smoke_vector : (Instr.msixUnmask ⟨0, 0⟩ 63).wf = true ∧ (Instr.msixUnmask ⟨0, 0⟩ 64).wf = false := by decide +kernel
theorem smoke_cache : (Instr.cacheAccess 0 3 ⟨63, 0x2FFFFFFFF⟩ (.read 1) {}).wf = true ∧ (Instr.cacheAccess 0 4 ⟨0, 0⟩ (.read 1) {}).wf = false ∧
    (Instr.cacheAccess 0 0 ⟨64, 0⟩ (.read 1) {}).wf = false ∧ (Instr.cacheAccess 0 0 ⟨0, 0x300000000⟩ (.read 1) {}).wf = false ∧
    (Instr.cacheAccess 0 0 ⟨0, 1⟩ (.read 128) {}).wf = false ∧ (Instr.cacheAccess 0 0 ⟨0, 127⟩ (.write [(0, 0), (0, 0)]) {}).wf = false := by decide +kernel
theorem smoke_post : (Instr.mailboxPost ⟨0, 0⟩ 0 (2 ^ 32) 0 0 0 []).wf = false ∧ (Instr.mailboxPost ⟨0, 0⟩ 0 0 (2 ^ 32) 0 0 []).wf = false ∧
    (Instr.mailboxPost ⟨0, 0⟩ 0 0 0 (2 ^ 32) 0 []).wf = false ∧ (Instr.mailboxPost ⟨0, 0⟩ 0 0 0 0 (2 ^ 32) []).wf = false ∧
    (Instr.mailboxPost ⟨0, 0⟩ 0 0 0 0 0 (List.replicate 4033 0)).wf = false := by decide +kernel
theorem smoke_value : (Instr.registerWrite ⟨0, 0⟩ 0 0 (2 ^ 64)).wf = false ∧ (Instr.pmcWrite ⟨0, 0⟩ 2 0 (2 ^ 64)).wf = false := by decide +kernel
theorem smoke_flit : (Instr.flitReceive 0 (List.replicate 255 0) 0 true).wf = false := by decide +kernel
theorem smoke_temps : (Instr.shelfThermalEvaluation 0 [0]).wf = false ∧ (Instr.sensorUpdate ⟨0, 0, 0, 0, [], [], 0⟩).wf = false := by decide +kernel

/-! ## Number formats (chapter 02) -/

/-- The bounds of INT4 and INT2 (R35), the ends of INT32, and the four ternary codes. -/
theorem test_integer_codes : decodeCode 0x0C 7 = (.fin false 7 1 0, false) ∧ decodeCode 0x0C 8 = (.fin true 8 1 0, false) ∧
    decodeCode 0x0D 1 = (.fin false 1 1 0, false) ∧ decodeCode 0x0D 2 = (.fin true 2 1 0, false) ∧
    decodeCode 0x08 0xFFFFFFFF = (.fin true 1 1 0, false) ∧ decodeCode 0x0B 255 = (.fin false 255 1 0, false) ∧ decodeCode 0x0E 2 = (.zero, true) := by
  decide +kernel
/-- The example of R38: 5.0, −0.3, 1.25 and 7.0 into MXFP4 give the scale code 0x7F, the codes 6, 9, 2, 7, OVERFLOW and one saturation. -/
theorem test_mxfp4_block :
    let vs : List Val := [.fin false 5 1 0, .fin true 3 10 0, .fin false 5 4 0, .fin false 7 1 0] ++ List.replicate 28 .zero
    let r := mxEncode 0x14 0 true false (vs.map (fun v => (v, 0)))
    r.1 = 0x7F ∧ r.2.1.take 4 = [(6, false), (9, false), (2, false), (7, true)] ∧ r.2.2.ov = true ∧ r.2.2.sat = 1 := by decide +kernel
/-- The example of R46: 2.5 into E2M1 with the random bits 0x3A1C07 gives 3, code 5; with bits at or above one half it gives 2, code 4. -/
theorem test_stochastic : (convertPlain 0x07 false 4 true 0x3A1C07 (.fin false 5 2 0)).1 = 5 ∧
    (convertPlain 0x07 false 4 true 0x800000 (.fin false 5 2 0)).1 = 4 := by decide +kernel
/-- 460 into E4M3 rounds to 448 without overflowing, and 465 overflows: to 448 or to NaN (the table of overflows). -/
theorem test_e4m3_overflow : convertPlain 0x03 false 0 true 0 (.fin false 460 1 0) = (0x7E, {}) ∧
    (convertPlain 0x03 false 0 true 0 (.fin false 465 1 0)).1 = 0x7E ∧ (convertPlain 0x03 false 0 true 0 (.fin false 465 1 0)).2.ov = true ∧
    (convertPlain 0x03 false 0 false 0 (.fin false 465 1 0)).1 = 0x7F := by decide +kernel
/-- The example of Table 2.6: 0x2280 is FP32 to MXFP4, nearest even, saturating, and 0x3280 the same with stochastic rounding. -/
theorem test_control_word : Ccw.of 0x2280 = ⟨0, 0x14, 0, true, false, false⟩ ∧ (Ccw.of 0x3280).rnd = 4 := by decide +kernel

/-! ## Error feedback, attention, latents (chapters 04, 08, 09) -/

/-- Table 4.2: passes 1 and 2 of x = 2.4 give 2 and 3 in E2M1, and the carries 0.375 and −0.21875 in E5M2. -/
theorem test_error_feedback :
    let x := (toFp32 (.fin false 12 5 0)).1
    let v2 := fAdd (ofFp32 x) (.fin false 3 1 (-3))
    (convertPlain 0x07 false 0 true 0 (ofFp32 x)).1 = 4 ∧
    (convertPlain 0x04 false 0 true 0 (fAdd (ofFp32 x) (.fin true 2 1 0)).1).1 = (convertPlain 0x04 false 0 true 0 (.fin false 3 1 (-3))).1 ∧
    (convertPlain 0x07 false 0 true 0 v2.1).1 = 5 ∧
    (convertPlain 0x04 false 0 true 0 (fAdd v2.1 (.fin true 3 1 0)).1).1 = (convertPlain 0x04 false 0 true 0 (.fin true 7 1 (-5))).1 := by decide +kernel
/-- The latent example: from −1.0 to 2.5 at rate 1/4 the header is 80 BF 7E 00 20 40 00 00; 0.80078125 has the code 4 and decodes to 1.0,
2.296875 the code 7 and 2.5. -/
theorem test_latent_block :
    let p : FirnParam := ⟨1, false, 0, 0⟩
    let b := firnEncode { p with quarter := true } [⟨0, .fin true 1 1 0, 0⟩, ⟨1, .fin false 5 1 (-1), 0⟩, ⟨2, .fin false 205 1 (-8), 0⟩, ⟨3, .fin false 147 1 (-6), 0⟩]
    b.take 8 = [0x80, 0xBF, 0x7E, 0x00, 0x20, 0x40, 0x00, 0x00] ∧ bits (leNat (b.drop 8)) 11 0 = 7 * 8 + 4 * 64 + 7 * 512 ∧
    (firnDecode { p with quarter := true } b 2).1 = 0x3F80 ∧ (firnDecode { p with quarter := true } b 3).1 = 0x4020 := by decide +kernel

/-! ## Memory and reducers (chapters 01, 11, 12) -/

/-- Channel group 45 lies on shelf 5. -/
theorem test_group_shelf : shelfOf (flat 45 0) = 5 := by decide +kernel
/-- Table 11.8: the regions of the example, and their running total of 1,628,121 units. -/
theorem test_layout : sumTo [1146880, units64k (400 * 16384 * 16), 2 * units64k (32 * 24), 0, units64k (32 * 65536),
    units64k (24576 + 2 * 70000 + 4 * 70000) + 70000, 0, 393216, 16384] 9 = 1628121 := by decide +kernel
/-- The glacier example: 2^100, 1.0 and −2^100 end at 2^149 in ACC, and read 1.0. -/
theorem test_glacier :
    let r := (((glOf (List.replicate 64 0)).add (.fin false 1 1 100) 5).add (.fin false 1 1 0) 5).add (.fin true 1 1 100) 5
    r.acc = 2 ^ 149 ∧ r.count = 3 ∧ glacierRound r 0x00 0 true = (0x3F800000, {}) ∧ glOf r.bytes = r := by decide +kernel
/-- Table 12.2: an ADD wraps, a MIN of FP32 takes −1.0 before 2.0, a CAS that does not match changes nothing. -/
theorem test_reducer : reducerNew 1 0 4 0xFFFFFFFF 2 0 = 1 ∧ reducerNew 2 2 4 0x40000000 0xBF800000 0 = 0xBF800000 ∧ reducerNew 7 0 4 5 4 9 = 5 := by
  decide +kernel
/-- Table 12.7's example: 86 °C gives steps 1, 2 and 3, 96 °C keeps 3, 90 °C holds it, and the tenth evaluation below 80 °C lowers it. -/
theorem test_throttle : thermalStep 86 0 0 = (1, 0) ∧ thermalStep 86 1 0 = (2, 0) ∧ thermalStep 86 2 0 = (3, 0) ∧ thermalStep 96 3 0 = (3, 0) ∧
    thermalStep 84 3 5 = (3, 0) ∧ thermalStep 79 3 8 = (3, 9) ∧ thermalStep 79 3 9 = (2, 0) := by decide +kernel

/-! ## The core (chapters 03, 10) -/

/-- The core state after a step. -/
def after (i : Instr) (s : State) (P : State → Bool) : Bool := match exec i s with | .next t => P t | _ => false
/-- FLAG_SET of flag 255 sets the highest bit of READY_FLAGS and advances one instruction. -/
theorem test_flag_set : after (.flagSet 0) (one 0xFF24) (fun t => (t.core 0).ready == 2 ^ 255 && (t.core 0).seq.pc == 1) = true := by decide +kernel
/-- HALT leaves RUN 4 (Table 10.5). -/
theorem test_halt : after (.halt 0) (one 0x46) (fun t => (t.core 0).seq.run == 4) = true := by decide +kernel
/-- A word of a reserved class is an illegal instruction: the core faults with the word recorded (R214). -/
theorem test_illegal : after (.nop 0) (one 0x07) (fun t => (t.core 0).seq.faultInstr == 7 && (t.part 0).job.reports.length == 1) = true := by decide +kernel

/-! ## Links, recovery, host (chapters 13, 18, 20) -/

/-- An even number of exchanges: the median is the mean of the middle two; the example's θ of 19 ns. -/
theorem test_median : median [19] = 19 ∧ median [1, 40, 19, 3] = 11 := by decide +kernel
/-- The interval of the example: √(2 × 2.0 s × 244,140.625 s) is 988.2 s. -/
theorem test_checkpoint_interval : isqrt 80 (2 * 2000000000 * 244140625000000) / 100000000 = 9882 := by decide +kernel
/-- A flit carries its fields and payload, and a changed byte fails its check (R278, R279). -/
theorem test_flit : let f := flitBytes 1 10 true true 0 0 false 7 0 0 5 [0xAB]
    flitOk f = true ∧ (flitOf f).seq = 7 ∧ (flitOf f).beat = 5 ∧ (flitOf f).payload = [0xAB] ∧ flitOk (f.set 16 0xAC) = false := by decide +kernel
/-- NOP completes with ST_OK and an empty result; the slot is the host's again (R413). -/
theorem test_nop : after (.nopCommand pfA 0) (box State.reset 0 0 0 []) (fun t =>
    let q := t.slot pfA 0
    q.done && !q.post && q.status == 0 && q.resultLen == 0) = true := by decide +kernel
/-- A virtual function may not post COMMIT: ST_NOT_PERMITTED (R421). -/
theorem test_not_permitted : let f : Fn := ⟨0, 1⟩
    after (.commit f 0) (State.reset.setFn f { slots := [(0, { post := true, ack := true, cmd := 0x0010 })] })
      (fun t => (t.slot f 0).status == Config.stNotPermitted) = true := by decide +kernel
/-- The digest of no bytes (FIPS 180-4's SHA-384) and CRC-32C's check value, that of the digits 1 to 9. -/
theorem test_digest : leNat (sha384 [] |>.take 4) = 0xA760B038 ∧ crc32c [0x31, 0x32, 0x33, 0x34, 0x35, 0x36, 0x37, 0x38, 0x39] = 0xE3069283 := by
  decide +kernel

end Sys2Proof.Tests
end

