-- ==== Sys2Proof/Tests/WitCmd.lean ====
section
/-!
SUPPORT. Sys2Proof/Tests/WitCmd.lean: states that meet the hypotheses of the statements about mailbox commands, faults, resets and the
supply, one for each clause.
-/

namespace Sys2Proof.Tests

-- The kernel evaluates these theorems; one after another, so that no thread waits for another.
set_option Elab.async false

open Sys2Proof.Machine

/-- As `box`, with an urgent command. -/
def boxU (s : State) (cmd len part : Nat) (payload : List Byte) : State :=
  { s with fns := [(0, { slots := [(0, { post := true, ack := true, urgent := true, cmd := cmd, len := len, part := part, payload := payload })] })] }
/-- What the command in slot 0 meets with a given code, and a condition. -/
def carries (s : State) (cmd : Nat) (P : Slot → Bool) : Bool := carriesB s pfA 0 (isCmd cmd) P
/-- A command without an operand that needs no partition. -/
def plain (cmd : Nat) : State := box State.reset cmd 0 0 []
/-- The image of an otherwise empty partition. -/
def im1 : Image := image (program 1 1 1 []) []
def part0 (f : Partition → Partition) : State := admitted im1 f
/-- Partition 0 holds block 0 and group 0, and nothing more. -/
def bare : State := { State.reset with parts := [(0, { geo := { defined := true, blocks := 1, groups := 1 } })] }

/-! ## The device -/

theorem wit_Device_plain : ∀ c, c ∈ [0x0000, 0x0010, 0x0012, 0x0014] → carries (plain c) c (fun _ =>
    !(plain c).commit.pending && (plain c).commit.staged.isEmpty && (List.range 16).all (fun p => !((plain c).part p).job.running)) = true := by
  decide +kernel
/-- A PERMIT that is the function's own, and one that is not. -/
theorem wit_Device_permit : carries (box State.reset 1 1 0 [0xFF#8]) 1 (fun q => fld q.payload 0 1 == 0xFF) = true ∧
    carries (box State.reset 1 1 0 [0#8]) 1 (fun q => fld q.payload 0 1 == 0) = true ∧ (State.reset.fn pfA).permit = 0xFF := by decide +kernel
theorem wit_Device_setTime : carries (box State.reset 0x0011 8 0 (leBytes 8 (2 ^ 64 - 1))) 0x0011 (fun q => fld q.payload 0 8 == 2 ^ 64 - 1) = true ∧
    (∀ p, p < 16 → (State.reset.part p).image = none) := by decide +kernel
/-- A cap alone is staged, at the ends of its range; a field of the leak register beside it. -/
def caps (l : List Staged) : State := { plain 0x0010 with commit := { staged := l } }
theorem wit_Device_commit : ∀ w, w ∈ [1000, 2800] → let s := caps [.powerCap w]
    carries s 0x0010 (fun q => s.commit.staged == [.powerCap w] && s.commit.staged.all (fun v => (s.begun pfA 0 q).commitRefusal v == none)) = true := by
  decide +kernel
theorem wit_Device_regradeTimer : ∀ d, d ∈ [86399999999999, 86400000000000] → let s : State := { State.reset with time := { dtb := d } }
    s.commit.pending = false ∧ (s.dtb < s.power.linkRegrade + 86400000000000 ↔ d = 86399999999999) := by decide +kernel
theorem wit_Device_power : ∀ n, n ∈ [0, 1, 2] → let s := box State.reset 0x0013 4 0 (leBytes 4 n)
    carries s 0x0013 (fun q => decide (s.power.state < 3) && fbits q.payload 0 31 2 == 0 && fbits q.payload 0 1 0 == n &&
      (s.begun pfA 0 q).powerRefusal n == none) = true := by decide +kernel

/-! ## Partitions -/

/-- A record of partition 15 (virtual function 6 of port A), and one of partition 0 that owner 0 keeps, with its groups changed. -/
def rec15 : List Byte := record 64 [(0, 4, 15 + 5 * 16), (16, 4, 2), (32, 8, 2), (40, 2, 2)]
def rec0 : List Byte := record 64 [(0, 4, 0), (16, 4, 1), (32, 8, 3), (40, 2, 1)]
theorem wit_Part_create : let s := box State.reset 0x0100 64 0 rec15
    carries s 0x0100 (fun q => !s.power.barred && !(s.part (Pr.part (q.payload.take 64))).geo.defined &&
      (s.begun pfA 0 q).partRefusal (q.payload.take 64) == none && Pr.part (q.payload.take 64) == 15) = true := by decide +kernel
theorem wit_Part_change : let s := box bare 0x0101 64 0 rec0
    carries s 0x0101 (fun q => Pr.part (q.payload.take 64) == q.part && (s.begun pfA 0 q).partRefusal (q.payload.take 64) == none) = true := by
  decide +kernel
theorem wit_Part_idle : ∀ c, c ∈ [0x0102, 0x0208, 0x0204] → carries (box bare c 0 0 []) c (fun q => !((box bare c 0 0 []).begun pfA 0 q).counts 0) = true := by
  decide +kernel
theorem wit_Part_faults : carries (boxU bare 0x0F02 0 0 []) 0x0F02 (fun _ => true) = true := by decide +kernel
/-- The owner's lease holds, or has ended; the new owner is virtual function 6 of the port. -/
theorem wit_Part_lease : ∀ b, let s := box bare 0x0F03 4 0 (leBytes 4 5)
    let t := s.setFn ⟨0, 1⟩ { leaseLive := b }
    carries t 0x0F03 (fun q => ((t.begun pfA 0 q).leaseLeft (ownerFn (t.part 0).geo) != 0) == b && fbits q.payload 0 31 5 == 0 &&
      !((t.begun pfA 0 q).ownedBy (ownerFn { (t.part 0).geo with owner := 5 })).isSome) = true := by decide +kernel
/-- A recovery point at FP_COUNT `n`. -/
def point (n : Nat) : RecPoint := { fp := n, beat := 0, copy := 0, nextRequest := 0 }
theorem wit_Part_stop : ∀ n, n ∈ [0, 1] → let s := boxU (part0 (fun x => { x with rcv := { points := List.replicate n (point 1) } })) 0x0F00 0 0 []
    carries s 0x0F00 (fun q => (s.part q.part).image.isSome && s.commit.waiting.isEmpty && ((s.part q.part).rcv.points == []) == (n == 0)) = true := by
  decide +kernel
/-- A FREEZE at the next point with one module, and at point 1 with cores that have passed none. -/
theorem wit_Part_freeze : ∀ n, n ∈ [0, 1] → let s := boxU (part0 id) 0x0F01 8 0 (leBytes 8 n)
    carries s 0x0F01 (fun q => (s.part q.part).image == some im1 && !(s.part q.part).job.frozen && !(s.part q.part).fz.armed &&
      (s.part q.part).fz.cmd == none && fld q.payload 0 8 == n && tpModules im1.bytes == 1 &&
      (s.imageCores 0).all (fun c => decide ((s.core c).seq.fpCount < 1))) = true := by decide +kernel
/-- A complete copy 0 of 100 cores: its MAGIC, STATE 2 and the count of cores. -/
def thawed : State :=
  let s := part0 (fun x => { x with job := { frozen := true } })
  let h := copyHeader 2 1 0 1 0 0 false (List.replicate 8 0) 100 9216 0 0
  { s with hbm := { cells := h.zipIdx.filterMap (fun (e : Byte × Nat) => if e.1 = 0 then none else some (589824 + e.2, e.1)) } }
theorem wit_Part_thaw : carries (box thawed 0x0207 0 0 []) 0x0207 (fun q => (thawed.part q.part).image == some im1 &&
    match (box thawed 0x0207 0 0 []).thawCheck q.part im1 with | .ok c => c == 0 | .error _ => false) = true := by decide +kernel

/-! ## Jobs -/

/-- An image that admission accepts: one block, a tensor, a point, a beat plan and a stream of one word for each core. -/
def goodImage : List Byte :=
  let b := program 1 1 0 [(0x02, [record 48 [(4, 2, 2 ^ 9)]]), (0x03, [record 48 []]), (0x0A, [record 32 [(8, 4, 1)]]),
    (0x0B, (List.range 100).map (fun i => record 16 [(0, 2, i), (8, 4, 1)]))]
  record 8 [(0, 4, 0x31504C54), (6, 2, 1)] ++ sub b 8 36 ++ leBytes 4 Config.sfVersion ++ b.drop 48
def goodReq : List Byte := record 128 [(8, 4, goodImage.length), (12, 2, 1 + 2 ^ 8), (32, 4, 1)]
theorem wit_Job_admit : let s := box bare 0x0200 128 0 goodReq
    carries s 0x0200 (fun q => let b := s.begun pfA 0 q
      (s.part q.part).image == none && sub goodImage 0 (Req.imageBytes (q.payload.take 128)) == goodImage &&
      (imageRefusal (s.part q.part).geo (q.payload.take 128) goodImage).or (requestRefusal (q.payload.take 128)) == none &&
      b.capacityRefusal q.part (q.payload.take 128) goodImage == none) = true := by decide +kernel
theorem wit_Job_bind : let s := box (part0 (fun x => { x with job := {} })) 0x0201 2 0 [0, 0]
    carries s 0x0201 (fun q => (s.part q.part).image == some im1 && (s.begun pfA 0 q).bindRefusal im1 (s.part q.part).job.running q == none &&
      (bindRegions (s.part q.part).geo im1).all (fun r => r.op != 4 && r.op != 5)) = true := by
  decide +kernel
/-- The first request of an image, and a later one. -/
theorem wit_Job_run : ∀ b, let s := box (part0 (fun x => { x with job := { started := b } })) 0x0202 40 0 (List.replicate 40 0)
    carries s 0x0202 (fun q => (s.part q.part).image == some im1 && (s.begun pfA 0 q).runRefusal q.part im1 (q.payload.take q.len) == none &&
      (s.part q.part).job.started == b && !(s.part q.part).job.stopped) = true := by decide +kernel
theorem wit_Job_retire : carries (box (part0 id) 0x0203 0 0 []) 0x0203 (fun q => ((part0 id).part q.part).image.isSome) = true := by decide +kernel
/-- A copy of the last byte of the space, with its pseudo-channel fenced or not. -/
def copy (dir fence : Nat) : State :=
  box { bare with shelves := [(0, { pcFenced := fence })] } 0x0205 28 0 (leBytes 8 7 ++ leBytes 8 (Config.groupBytes - 1) ++ leBytes 8 1 ++ leBytes 4 dir)
def copyIs (dir fence : Nat) : Bool :=
  carriesB (copy dir fence) pfA 0 (isCopy dir) (fun q => let b := q.payload.take 28
    (copy dir fence).copyRefusal q.part b == none && Mc.bytes b == 1 && ((copy dir fence).fencedByte q.part (Mc.off b) 1).isSome == (fence != 0))
theorem wit_Job_copy : copyIs 0 0 = true ∧ copyIs 0 255 = true ∧ copyIs 1 0 = true := by decide +kernel
/-- A reload of side 1 with `n` bytes of a table. -/
def reload (t : Nat) (d : List Byte) : State := box bare 0x0206 32 0 (record 32 [(0, 1, t), (1, 1, 1), (24, 4, d.length)])
def reloadIs (t : Nat) (d : List Byte) : Bool :=
  carries (reload t d) 0x0206 (fun q => let b := q.payload.take 32
    decide (32 ≤ q.len) && sub d 0 (Tr.bytes b) == d && !Tr.bad b && !(reload t d).sideBusy q.part b && Tr.bytes b != 0 &&
    (reload t d).reloadRefusal q.part b d == none && !Tr.arm b && Tr.table b == t)
theorem wit_Job_reload_core : reloadIs 0 sfImageReset = true := by decide +kernel
theorem wit_Job_reload_cyclic : reloadIs 3 (record 128 [(0, 2, 1), (64, 4, 1000)]) = true := by decide +kernel

/-! ## Weight slots, sequence slots, sessions -/

/-- The partition's request reserves a second copy of 1 MiB and a channel, names sequence slot 255 and codec pair 11. -/
def imReq : Image := { im1 with req := record 128 [(52, 4, 16), (60, 4, 2 ^ 16 + 2 ^ 31), (95, 1, 128)] }
def slots (f : Partition → Partition) : State := admitted imReq f
theorem wit_Slot_load : let s := box (slots id) 0x0300 64 0 (record 64 [(0, 4, 7), (4, 4, 1 + 20 * 2 ^ 12), (24, 8, 2 ^ 20), (36, 4, 1)])
    carries s 0x0300 (fun q => (s.part q.part).image == some imReq && (s.part q.part).ws.load == none && (s.part q.part).ws.held.isEmpty &&
      s.loadRefusal q.part imReq (q.payload.take 64) == none && Ld.keepCount (q.payload.take 64) == 1) = true := by decide +kernel
/-- Slot 0 is ACTIVE and slot 1 LOADED; the pointer relocated is word 0 of core 0's descriptor 0, inside slot 0. -/
def switching (pend : Bool) (cancel : Nat) : State :=
  let s := slots (fun x => { x with ws := { st0 := 3, st1 := 2, base0 := some 0, slotBytes := 2 ^ 20, switchPending := pend } })
  box { s with cores := [(0, { Core.reset with desc := Mem.ofBytes (leBytes 8 (2 ^ 60)) })] } 0x0301 32 0
    (record 32 [(0, 4, 3 + cancel), (4, 4, 0), (16, 4, 1)])
theorem wit_Slot_switch : carriesB (switching false 0) pfA 0 isSwitch (fun q => ((switching false 0).part q.part).image == some imReq &&
    swCount q.payload == 1 && (switching false 0).switchRefusal q.part imReq q.payload [sub (List.replicate 8 0) 0 8] == none) = true := by
  decide +kernel
theorem wit_Slot_cancel : carriesB (switching true 4) pfA 0 isSwitchCancel (fun q => ((switching true 4).part q.part).ws.switchPending) = true := by
  decide +kernel
theorem wit_Slot_queue : ∀ c, c ∈ [0x0400, 0x0401, 0x0402, 0x0403, 0x0404] → carries (box (slots id) c 0 0 []) c (fun q =>
    ((slots id).part q.part).image.isSome && !(slots id).queueFull q.part) = true := by decide +kernel
theorem wit_Slot_query : carries (box (slots id) 0x0405 4 0 (leBytes 4 255)) 0x0405 (fun q => let b := sub (q.payload.take q.len) 0 4
    fbits b 0 31 8 == 0 && slotOwned imReq (fbits b 0 7 0) && fbits b 0 7 0 == 255) = true := by decide +kernel
/-- A decode session on pair 11 of 64 by 64 with 4 buffers. -/
def open11 : List Byte := record 128 [(0, 4, 11 * 16), (4, 4, 64 + 64 * 65536), (8, 4, 8 + 4 * 16), (12, 4, 0xFFFFFFFF), (16, 8, 2 ^ 60),
  (24, 8, 2 ^ 60 + 0x100000), (32, 8, 2 ^ 60 + 0x800000), (40, 4, 8), (44, 4, 0x900000)]
/-- Every session of the pair but the last is open. -/
def pairs15 (l : List (Nat × Session)) (cmd len : Nat) (b : List Byte) : State := box { slots id with pairs := [(11, { sessions := l })] } cmd len 0 b
theorem wit_Slot_open : let s := pairs15 ((List.range 15).map (fun i => (i, { isOpen := true }))) 0x0500 128 open11
    carries s 0x0500 (fun q => let d := q.payload.take 128
      s.openRefusal q.part d == none && (List.range 16).find? (fun i => !(s.sess (Cd.pair d) i).isOpen) == some 15) = true := by decide +kernel
/-- Session 15 of the pair under generation 65,535. -/
def sess15 (x : Session) : List (Nat × Session) := [(15, { x with isOpen := true, gen := 65535, desc := open11 })]
def handle15 : Nat := handleOf 11 15 65535
theorem wit_Slot_submit :
    let x : Session := { submits := List.replicate 31 { fn := pfA, slot := 1, post := 0, record := [] } }
    let s := pairs15 (sess15 x) 0x0501 128 (record 128 [(0, 4, handle15)])
    carries s 0x0501 (fun q => let b := q.payload.take 128
      s.byHandle q.part (fbits b 0 23 0) == some (11, 15) && !submitBad b && fld b 24 5 == 0 &&
      (s.sess 11 15).closing == 0 && decide ((s.sess 11 15).submits.length < 32)) = true := by decide +kernel
theorem wit_Slot_close : let s := pairs15 (sess15 {}) 0x0502 8 (leBytes 4 handle15 ++ leBytes 4 0)
    carries s 0x0502 (fun q => s.byHandle q.part (fbits q.payload 0 23 0) == some (11, 15) && (s.sess 11 15).closing == 0 &&
      fbits q.payload 4 0 0 == 0 && (s.sess 11 15).outputs.isEmpty && (s.sess 11 15).submits.isEmpty) = true := by decide +kernel
theorem wit_Slot_release : let s := pairs15 (sess15 { frames := [(3, ⟨3, false, 0, 0, false⟩)] }) 0x0503 8 (leBytes 4 handle15 ++ leBytes 4 3)
    carries s 0x0503 (fun q => s.byHandle q.part (fbits q.payload 0 23 0) == some (11, 15) &&
      decide (fld q.payload 4 4 < Cd.pool (s.sess 11 15).desc) && (s.sess 11 15).outputs.isEmpty) = true := by decide +kernel

end Sys2Proof.Tests
end

