-- ==== Sys2Proof/Tests/WitCore.lean ====
section
/-!
SUPPORT. Sys2Proof/Tests/WitCore.lean: for each statement about the queue, reset and the core rows, states that meet its hypotheses, one
for each clause.
-/

namespace Sys2Proof.Tests

-- The kernel evaluates these theorems; one after another, so that no thread waits for another.
set_option Elab.async false

open Sys2Proof.Machine

/-! ## The queue, the invariants and reset -/

theorem wit_StepRunsTheFrontCommand : ({ State.reset with pending := [.nop 0] } : State).pending = .nop 0 :: [] ∧ State.reset.pending = [] := by
  decide +kernel
theorem wit_UnitsDecideTheStop : (Instr.nop 9999).unitsOk = true ∧ (Instr.nop 10000).unitsOk = false := by decide +kernel
theorem wit_CommandsKeepTheQueue : exec (.nop 9999) State.reset = .next State.reset := rfl
/-- A state whose HBM lists a byte, and its step. -/
def hbmOne : State := { State.reset with hbm := ({} : Mem).write 5 7 }
theorem wit_HbmStaysCanonical : hbmOne.hbm.wf = true ∧ hbmOne.CachesOk ∧ step hbmOne = .next hbmOne.edge :=
  ⟨by decide +kernel, cachesOk_of_reset rfl, rfl⟩
theorem wit_JournalIsAppendOnly : step State.reset = .next State.reset.edge := rfl
theorem wit_MailboxTablesStayCanonical : (box State.reset 0 0 0 []).MailboxesCanonical ∧ step (box State.reset 0 0 0 []) =
    .next (box State.reset 0 0 0 []).edge := ⟨⟨by decide +kernel, by decide +kernel⟩, rfl⟩
theorem wit_FusesOnlyBlow : exec .leakClear State.reset = .next State.reset ∧
    bit ({ State.reset with fw := { State.reset.fw with revoked := 8 } } : State).fw.revoked 3 = true := ⟨rfl, by decide +kernel⟩

/-! ## Issue -/

theorem wit_CoreRows_nothing : coreRow (.nop 9999) = some (⟨6, 3, 0⟩, 9999) ∧ 9999 < Config.cores ∧ (State.reset.ctx 9999).isNone := by decide +kernel
theorem wit_CoreRows_reserved : ((one 0x07).ctx 0).any (fun x => rowOf x.w == none) = true ∧
    ((one 0x66).ctx 0).any (fun x => rowOf x.w == none) = true := by decide +kernel
theorem wit_CoreRows_other : ((one 0x46).ctx 0).any (fun x => rowOf x.w == some ⟨6, 4, 0⟩ && rowOf x.w != some ⟨6, 3, 0⟩) = true := by decide +kernel

/-- FLAG_SET of flag 255, FLAG_CLEAR of flag 0, NOP. -/
theorem wit_Scalar_flagSet : issuesB (one 0xFF24) 0 ⟨4, 2, 0⟩ (fun x => x.f 127 17 = 0) = true := by decide +kernel
theorem wit_Scalar_flagClear : issuesB (one 0x10024) 0 ⟨4, 2, 1⟩ (fun x => x.f 127 17 = 0) = true := by decide +kernel
theorem wit_Scalar_nop : issuesB (one 0x36) 0 ⟨6, 3, 0⟩ (fun x => x.f 127 8 = 0) = true := by decide +kernel
/-- SET_PASS while the vote of a layer with error feedback is to come, into another pass and into the same one; and with no vote to come. -/
def passAt (w : Word128) (vote : Bool) : State :=
  let s := coreAt0 (program 1 1 1 []) [w] running
  if vote then { s with hbm := s.hbm.writeN (65536 * 3 + 32768 + 12) [1] } else s
def passOk (w : Word128) (vote new : Bool) : Bool := issuesB (passAt w vote) 0 ⟨6, 0, 0⟩ (fun x =>
    let s := passAt w vote
    x.f 127 40 = 0 && s.allDone 0 && s.votePending x.p 0 x.im == vote && (x.f 39 8 != (s.core 0).seq.pass) == new)
theorem wit_Scalar_setPass : passOk 0xFFFFFFFF06 true true = true ∧ passOk 0x06 true false = true ∧ passOk 0xFFFFFFFF06 false true = true := by
  decide +kernel
theorem wit_Scalar_halt : issuesB (one 0x46) 0 ⟨6, 4, 0⟩ (fun x => x.f 127 8 = 0 && ((one 0x46).core 0).seq.loops.isEmpty &&
    ((one 0x46).core 0).quiet) = true := by decide +kernel
theorem wit_Scalar_haltInBody : issuesB (coreAt0 [] [0x46] { running with seq := { run := 1, loops := [⟨0, 1, 1, 0⟩] } }) 0 ⟨6, 4, 0⟩
    (fun _ => true) = true := by decide +kernel
/-- A LOOP of one NOP, COUNT 1 and COUNT 0. -/
def loopAt (w : Word128) : State := coreAt0 [] [w, 0x36] running
def loopOk (w : Word128) : Bool := issuesB (loopAt w) 0 ⟨6, 1, 0⟩ (fun x =>
    let q := ((loopAt w).core 0).seq
    x.f 127 60 = 0 && x.f 27 8 ≠ 0 && q.loops.length < 4 && q.pc + 1 + x.f 27 8 ≤ bodyEnd q x.len)
theorem wit_Scalar_loop : loopOk 0x10000116 = true ∧ loopOk 0x116 = true := by decide +kernel
theorem wit_Loops_end : let q : Seq := { pc := 2, loops := [⟨1, 1, 2, 0⟩] }
    q.loops = ⟨1, 1, 2, 0⟩ :: [] ∧ q.variants = [] ∧ q.pc = 1 + 1 := by decide +kernel
/-- VARIANT of layer 0 with one narrow and one wide instruction, in an image of one layer. -/
def variantAt : State := coreAt0 (program 1 1 1 []) [0x4000040026, 0x36, 0x36] running
theorem wit_Loops_variant : issuesB variantAt 0 ⟨6, 2, 0⟩ (fun x =>
    let q := (variantAt.core 0).seq
    x.f 127 58 = 0 && x.f 17 8 < tpLayers x.im.bytes && q.pc + 1 + x.f 37 18 + x.f 57 38 ≤ bodyEnd q x.len) = true := by decide +kernel

/-! ## Waits and points -/

/-- A beat plan: core 0 expects one message in beat 0. -/
def plan1 : List Byte := program 1 1 0 [(0x0A, [record 32 [(8, 4, 1), (20, 3, 1)]])]
theorem wit_Waits_early : issuesB (coreAt0 [] [0x04] { running with seq := { run := 1, curBeat := 1 } }) 0 ⟨4, 0, 0⟩ (fun x =>
    x.f 127 57 = 0 && beatTarget x 1 < 1) = true := by decide +kernel
theorem wit_Waits_full : issuesB (one 0x04) 0 ⟨4, 0, 0⟩ (fun x =>
    x.f 127 57 = 0 && 0 ≤ beatTarget x 0 && beatsFull x.im x.unit [] 0 (beatTarget x 0)) = true := by decide +kernel
theorem wit_Waits_waits : issuesB (coreAt0 plan1 [0x04] running) 0 ⟨4, 0, 0⟩ (fun x =>
    x.f 127 57 = 0 && !beatsFull x.im x.unit [] 0 (beatTarget x 0)) = true := by decide +kernel
/-- SIGNAL_WAIT at device address 0 for the value 0 (met) and 1 (not met); a watch that is and is not answered. -/
def signalOk (s : State) (x : Ctx) (met : Bool) : Bool :=
  x.f 127 82 = 0 && x.f 81 80 < 2 && x.f 47 8 % 4 = 0 && match devPhys (s.part x.p).geo (x.f 47 8) with
    | some a => watchMet { part := x.p, core := 0, addr := a, value := x.f 79 48, cmp := x.f 81 80 } (s.wordAt a) == met
    | none => false
theorem wit_Waits_signal : issuesB (one 0x14) 0 ⟨4, 1, 0⟩ (fun x => signalOk (one 0x14) x true && (one 0x14).watches.isEmpty) = true ∧
    issuesB (one 0x1000000000014) 0 ⟨4, 1, 0⟩ (fun x => signalOk (one 0x1000000000014) x false) = true := by decide +kernel
def watched (b : Bool) : State := { one 0x14 with watches := [{ part := 0, core := 0, addr := 0, value := 0, cmp := 0, answered := b }] }
theorem wit_Waits_watched : ∀ b, issuesB (watched b) 0 ⟨4, 1, 0⟩ (fun x => signalOk (watched b) x true &&
    ((watched b).watches.find? (fun v => v.core == 0)).any (fun v => v.answered == b)) = true := by decide +kernel
theorem wit_Points_select : issuesB (one 0x64) 0 ⟨4, 6, 0⟩ (fun x => x.f 127 8 = 0 && (one 0x64).allDone 0) = true := by decide +kernel
theorem wit_Points_freeze : issuesB (one 0x34) 0 ⟨4, 3, 0⟩ (fun x =>
    let s := one 0x34
    x.f 127 76 = 0 && s.allDone 0 && (match s.liveList (s.part x.p).geo (x.f 59 20) (x.f 75 60) with | some es => es.all liveOk | none => false)
      && (s.core 0).mu.t0.state = 0 && (s.core 0).mu.t1.state = 0 && (s.core 0).mu.ftq = [] && !(s.core 0).ve.carry.isOpen
      && !(s.core 0).claims.any (·.isOpen) && !s.handedOff x.p 0) = true := by decide +kernel

/-! ## Matrix and vector rows -/

/-- Operand 0: a 1 × 1 BF16 matrix in the tile store. -/
def mat1 : List Byte := record 32 [(0, 4, 1 * 2 ^ 21), (4, 2, 1), (6, 2, 1)]
/-- The matrix rows with M = N = K = 1 and LAST; a continuing row meets a tile of that shape. -/
def mmaState (op : Nat) (flag : Nat) : State := coreAt0 [] [BitVec.ofNat 128 (1 + 16 * op + 2 ^ 32 + 2 ^ 40 + 2 ^ 47 + 2 ^ 53 + 2 ^ 70 + 2 ^ 71 + flag)]
  { running with desc := Mem.ofBytes mat1, mu := { t0 := if op = 2 then { state := 1, m := 1, n := 1 } else if op = 4 then
      { state := 1, m := 1, n := 1, diag := some 0 } else {} } }
theorem wit_MatrixRowsComplete : ∀ e, e ∈ [(0, MmaOp.zero), (1, .initC), (2, .cont), (3, .diagZero), (4, .diagCont)] →
    issuesB (mmaState e.1 0) 0 ⟨1, e.1, 0⟩ (fun x => match mmaArgs e.2 (mmaState e.1 0) x with
      | some g => !mmaWait e.2 ((mmaState e.1 0).core 0) g && ((mmaState e.1 0).core 0).badWord g.reads == none
      | none => false) = true := by decide +kernel
/-- The same with USE_READY on a flag that is clear, and with a reserved bit set. -/
theorem wit_MatrixRowsStopOrWait : ∀ e, e ∈ [(0, MmaOp.zero), (1, .initC), (2, .cont), (3, .diagZero), (4, .diagCont)] →
    issuesB (mmaState e.1 (2 ^ 73)) 0 ⟨1, e.1, 0⟩ (fun x => match mmaArgs e.2 (mmaState e.1 (2 ^ 73)) x with
      | some g => mmaWait e.2 ((mmaState e.1 (2 ^ 73)).core 0) g
      | none => false) = true ∧
    issuesB (mmaState e.1 (2 ^ 127)) 0 ⟨1, e.1, 0⟩ (fun x => (mmaArgs e.2 (mmaState e.1 (2 ^ 127)) x).isNone) = true := by decide +kernel

/-- The same where word 0 of the tile store has a double error. -/
def mmaBad (op : Nat) : State := (mmaState op 0).updCore 0 (fun k => { k with upsets := [⟨false, 0, true⟩] })
theorem wit_MatrixRowsStopOrWait_bad : ∀ e, e ∈ [(0, MmaOp.zero), (1, .initC), (2, .cont), (3, .diagZero), (4, .diagCont)] →
    issuesB (mmaBad e.1) 0 ⟨1, e.1, 0⟩ (fun x => match mmaArgs e.2 (mmaBad e.1) x with
      | some g => !mmaWait e.2 ((mmaBad e.1).core 0) g && ((mmaBad e.1).core 0).badWord g.reads == some ⟨false, 0, true⟩
      | none => false) = true := by decide +kernel

/-- A tile of one lane that drains into tile-store byte 0, not yet converted or ready to push; `held`: the other tile's witness has yet to
read that byte. -/
def draining (route : Nat) (prepared held : Bool) : State := coreAt0 [] [] { running with mu := {
  t0 := if held then { state := 1, wit := true, parts := [⟨[], [], none, [(false, 0, 1)]⟩] } else {}
  t1 := { state := 2, m := 1, n := 1, prepared := prepared, finish := some ⟨route, record 32 [(4, 2, 1), (6, 2, 1)], 1, 1, 0, 0, 0⟩ } } }
theorem wit_TilesFinish : ∀ r, r ∈ [0, 1] → ∀ b h,
    let k := (draining r b h).core 0
    (draining r b h).partOf 0 = some 0 ∧ ((draining r b h).part 0).image.isSome = true ∧ (k.mu.tile 1).state = 2 ∧
    ((k.mu.tile 1).finish).any (fun f => drainTurn k.mu 1 f && finishHeld k 1 (k.mu.tile 1) f == (h && r == 0)) = true ∧
    (k.mu.tile 1).prepared = b ∧ k.mu.witq.length < 4 ∧ k.mu.ftq.length < 8 := by
  decide +kernel
/-- A multicast to core 0 itself, one byte at the top of the operand buffer. -/
theorem wit_Deliveries_multicast : rectCores 0 0 0 1 1 = [0] ∧ ((one 0x36).ctx 0).isSome = true ∧ 0x1FFFF + 1 ≤ Config.obBytes ∧
    (one 0x36).partOf 0 = some 0 ∧ ((one 0x36).core 0).seq.curBeat = 0 ∧ ((one 0x36).core 0).mu.witq = [] ∧
    ((one 0x36).core 0).holds ⟨true, 0x1FFFF, ((one 0x36).core 0).ob.readN 0 1, []⟩ = false ∧ ((one 0x36).core 0).mu.mcast = [] ∧
    (one 0x36).msgs = [] ∧ ((one 0x36).core 0).badWord [(true, 0, 1)] = none := by decide +kernel
/-- A held write of byte 0, with and without a witness that has yet to read it. -/
def heldAt (b : Bool) : Core := { running with mu := {
  heldWrites := [⟨false, 0, [7], []⟩]
  witq := if b then [⟨false, 0, [], 0, 0, 0, 0, [], [⟨[], [], none, [(false, 0, 1)]⟩], []⟩] else [] } }
theorem wit_Deliveries_release : 0 < Config.cores ∧ ∀ b, (heldAt b).witHeld ⟨false, 0, [7], []⟩ = b := by decide +kernel
/-- A witness that passes (the least FP32 number, rounded to it from 0) and one that fails (1 compared with 0), of layer 0 of an image of one. -/
def witness (bad : Bool) : Witness := ⟨false, 0, record 32 [(16, 2, 1 * 2 ^ 10)], 0, 0, 0, 0, [], [], [(0, if bad then .fin false 1 1 0 else .fin false 1 1 (-149), false, 0)]⟩
def witnessed (bad : Bool) : State := coreAt0 (program 1 1 1 []) [] { running with mu := { witq := [witness bad] } }
theorem wit_WitnessReference : ∀ b, (witnessed b).partOf 0 = some 0 ∧ ((witnessed b).core 0).mu.witq = [witness b] ∧
    (witnessed b).memHeld 0 = false ∧ ((witness b).ys.filterMap (witness b).compare).all (·.pass) = !b := by decide +kernel
theorem wit_WitnessReference_merges : (witnessed false).CachesOk ∧ (witnessed false).NoFence ∧ Req.logAll [] = false ∧
    (let im := image (program 1 1 1 []) []
     0 < tpLayers im.bytes ∧ tpLayers im.bytes ≤ 1024 ∧ witDev ((witness false).ys.filterMap (witness false).compare) ≠ 0 ∧
     ∀ i, i < 4 → (interPhys ((witnessed false).part 0).geo (im.monAt 0 + 8 + i)).isSome = true) :=
  ⟨cachesOk_of_reset rfl, noFence_of_reset rfl, by decide +kernel⟩

/-- CHAIN from a register with COUNT 0, CHAIN_EF of no element to a plane, and CHAIN_FTQ of the head of the queue. -/
def chainState (op : Nat) : State :=
  let w : Nat := if op = 1 then 0x12 + 33 * 2 ^ 31 + 1 * 2 ^ 55 + 2 * 2 ^ 63 else 2 + 16 * op + 2 ^ 31
  coreAt0 [] [BitVec.ofNat 128 w] { running with
    desc := Mem.ofBytes (record 96 [(4, 1, if op = 1 then 2 else 6), (2, 2, 0x1 * 2 ^ 5), (64, 4, 4 * 2 ^ 20)])
    mu := { ftq := [⟨false, 1, 1, [0]⟩] } }
def chainOk (op : Nat) : Bool := issuesB (chainState op) 0 ⟨2, op, 0⟩ (fun x => match vecArgs (chainState op) x with
  | some a => !vecWait ((chainState op).core 0) a && meets ((chainState op).core 0) a.reads a.writes == 0
  | none => false)
theorem wit_ChainRows : chainOk 0 = true ∧ chainOk 1 = true ∧ chainOk 2 = true := by decide +kernel
/-- A CHAIN of one FP32 element from tile-store byte 0 to byte 0 that reports to its layer's monitor; as it is, held by a witness, and with a
double error. -/
def copyState (n : Nat) : State := coreAt0 [] [BitVec.ofNat 128 (2 + 1 * 2 ^ 8 + 0xC1 * 2 ^ 31 + 3 * 2 ^ 47 + 1 * 2 ^ 55)] (metAt0 n { running with
  desc := Mem.ofBytes (record 128 [(4, 1, 8), (36, 2, 1), (38, 2, 1), (100, 2, 1), (102, 2, 1)]) })
theorem wit_ChainRows_access : ∀ n, n < 3 → issuesB (copyState n) 0 ⟨2, 0, 0⟩ (fun x => match vecArgs (copyState n) x with
  | some a => !vecWait ((copyState n).core 0) a && meets ((copyState n).core 0) a.reads a.writes == n &&
      (((copyState n).core 0).chain a 0).mon.isSome
  | none => false) = true := by decide +kernel

end Sys2Proof.Tests
end

