-- ==== Sys2Proof/Tests/WitHost.lean ====
section
/-!
SUPPORT. Sys2Proof/Tests/WitHost.lean: states that meet the hypotheses of the statements about shelves, loads, windows, freezes, codec
pairs, the mailbox and the registers, one for each clause.
-/

namespace Sys2Proof.Tests

-- The kernel evaluates these theorems; one after another, so that no thread waits for another.
set_option Elab.async false

open Sys2Proof.Machine

/-! ## Shelves -/

/-- Partition 15 holds group 63 alone; shelf 7 is as given. -/
def banks (x : Shelf) : State :=
  { State.reset with parts := [(15, { geo := { defined := true, blocks := 1, groups := 2 ^ 63 } })], shelves := [(7, x)] }
/-- Address `o` of group 63, with its shelf's flag, its owner's and its fence. -/
def bankIs (x : Shelf) (g o : Nat) (halted cool owned fenced : Bool) : Bool :=
  let s := banks x
  let f := flat g o
  decide (g < 64 ∧ o < Config.groupBytes ∧ shelfOf f = 7) && (s.shelf 7).halted == halted && (s.shelf 7).waitCool == cool
    && bit (s.part 15).geo.groups g == owned && s.isFenced f == fenced
theorem wit_Bank_halted : bankIs { halted := true } 63 0 true false true false = true := by decide +kernel
theorem wit_Bank_waits : bankIs { waitCool := true } 63 (Config.groupBytes - 1) false true true false = true := by decide +kernel
theorem wit_Bank_foreign : bankIs {} 56 0 false false false false = true := by decide +kernel
theorem wit_Bank_fenced : bankIs { pcFenced := 2 ^ 64 - 1 } 63 0 false false true true = true := by decide +kernel
/-- A read of class 2, one of class 0 that its line holds, and a write of class 1 to a line that is present. -/
theorem wit_Bank_read : bankIs {} 63 127 false false true false = true ∧ 2 ≤ 2 ∧ min 2 (128 - flat 63 127 % 128) = 1 := by decide +kernel
def lineAt : CacheLine := { freshLine (lineOf (flat 63 0)) 0 with valid := List.replicate 128 true }
theorem wit_Bank_line : bankIs { cache := [lineAt] } 63 0 false false true false = true ∧
    (banks { cache := [lineAt] }).line (flat 63 0) = some lineAt ∧ lineAt.valid.getD 127 false = true := by decide +kernel
theorem wit_Bank_reducer : reducerOk 7 1 = true ∧ interPhys ((banks {}).part 15).geo 0 = some (flat 63 0) ∧ (banks {}).isFenced (flat 63 0) = false ∧
    (banks {}).shelfHeld 7 = false ∧ (banks {}).redShut 15 = false := by
  decide +kernel
theorem wit_Bank_bytes : ∀ a, ({ banks {} with shelves := [] } : State).regionAt 15 a = none ∧ (banks {}).fixedAt 15 a = false :=
  fun _ => ⟨rfl, rfl⟩

/-- Shelf 7 with a table of 256 region entries, the last of 64 bytes with 4-byte elements in group 63 of partition 15. -/
def regionAt255 (op expect : Nat) (x : Shelf) : State :=
  banks { x with regions := List.replicate 255 (List.replicate 32 0) ++
    [record 32 [(4, 2, 63 * 4 + 15 * 256 + 4096), (8, 4, 64), (12, 2, op), (16, 3, expect), (24, 4, 4096)]] }
def regionIs (op expect i : Nat) (x : Shelf) : Bool :=
  match (regionAt255 op expect x).regionEntry 7 255 op i with
  | some g => g.owner == 15 && g.expect == expect && g.group == 63
  | none => false
/-- A record without contributions, one of another beat, and a sum that nothing is expected of; the last element of the region. -/
theorem wit_Shelf_glacier : regionIs 4 2 15 {} = true ∧ regionIs 4 0 15 {} = true ∧
    (glOf ((regionAt255 4 2 {}).readF (flat 63 4096) 64)).count = 0 := by decide +kernel
theorem wit_Shelf_glacier_other :
    let g : Region := ⟨0, 63, 15, true, 64, 4, 0, 0, 0, false, 2, 4096⟩
    let s := (regionAt255 4 2 {}).storeF 15 (g.recAt 0) ({ glOf (List.replicate 64 0) with count := 1, beat := 5 } : GlRecord).bytes
    let old := glOf (s.readF (g.recAt 0) 64)
    (s.regionEntry 7 255 4 0).isSome = true ∧ old.count ≠ 0 ∧ old.beat ≠ 6 % 2 ^ 48 := by decide +kernel
theorem wit_Shelf_ordered : regionIs 5 3 15 {} = true ∧ regionIs 5 3 15 { ordSeen := [(255, 15, 2)] } = true ∧ 2 < 3 ∧ 2 ∉ ([] : List Nat) := by
  decide +kernel
/-- Running and halted stacks, and temperatures on each side of every bound. -/
theorem wit_Shelf_thermal : State.reset.power.off = false ∧ State.reset.power.state ≠ 3 ∧ (State.reset.shelf 7).halted = false ∧
    ((banks { halted := true }).shelf 7).halted = true ∧ (105 : Int) ≤ [].foldl max 105 ∧ [].foldl max (104 : Int) < 105 ∧ (95 : Int) ≤ [].foldl max 95 ∧
    [].foldl max (79 : Int) < 80 ∧ [].foldl max (84 : Int) < 85 := by decide +kernel

/-! ## Loads -/

/-- A load descriptor: LOAD_ID 7, slot 1, chunks of 1 MiB (LOG2 20 at bits 16:12), with more flags, bytes, and the chunks kept. -/
def loadDesc (flags bytes keep : Nat) : List Byte := record 128 [(0, 4, 7), (4, 4, 1 + flags + 20 * 2 ^ 12), (24, 8, bytes), (36, 4, keep)]
def loading (d : List Byte) (l : Load → Load) : State :=
  admitted (image (program 1 1 1 []) []) (fun x => { x with ws := { base0 := some 0, load := some (l { desc := d, cmd := (pfA, 0, 0) }) } })
def loadIs (s : State) (d : List Byte) (P : Load → Bool) : Bool :=
  match (s.part 0).image, (s.part 0).ws.load with | some _, some l => l.desc == d && P l | _, _ => false
/-- The last chunk of a load, of four bytes, the first and the last kept; and a chunk with others to come. -/
theorem wit_Load_chunk : ∀ n, n ∈ [1, 2] → let d := loadDesc 0 1048580 n
    loadIs (loading d id) d (fun l => !Ld.link l.desc && !Ld.forward l.desc && !Ld.dual l.desc && l.cmd.1.port == 0 && decide (0 < Ld.chunks l.desc) &&
      Ld.keeps l.desc 0 && Ld.chunkLen l.desc 0 == 1048576 && Ld.chunkLen l.desc 1 == 4 && l.fwd == Ld.fwdCount l.desc && l.kept + 1 != 3 &&
      (l.kept + 1 == Ld.keepCount l.desc) == (n == 1)) = true := by decide +kernel
theorem wit_Load_crc : crc32c (List.replicate 4 (0 : Byte)) % 2 ^ 32 = crc32c (List.replicate 4 0) ∧ crc32c (List.replicate 4 (0 : Byte)) ≠ 0 % 2 ^ 32 ∧
    (List.replicate 4 (0 : Byte)).length = Ld.chunkLen (loadDesc 0 4 1) 0 := by decide +kernel
theorem wit_Load_piece : ((admitted (image [] []) id).part 0).ws.load = none ∧ (admitted (image [] []) id).loadTakes 0 7 = false ∧ (let d := loadDesc 4 1048580 2
    loadIs (loading d id) d (fun l => Ld.link l.desc && Ld.id l.desc == 7 && decide (1 < Ld.chunks l.desc) && decide (3 < Ld.chunkLen l.desc 1) &&
      !Ld.forward l.desc && l.kept != Ld.keepCount l.desc) = true) := by decide +kernel
theorem wit_Load_companion : let d := loadDesc 2 4 1
    loadIs (loading d id) d (fun l => Ld.dual l.desc && l.comp.isNone && decide (l.start + 100000000 = 100000000)) = true := by decide +kernel
theorem wit_Load_hold : let s := admitted (image [] []) (fun x => { x with ws := { held := [(⟨7, 0, 1, 0, 0, 0⟩, [])] } })
    (s.part 0).ws.held ≠ [] ∧ (s.part 0).ws.heldFrom + 100000000 = 100000000 ∧ (s.part 0).image.isSome = true := by decide +kernel

/-! ## Windows and freezes -/

/-- A side of two windows: window 0 of 5 µs grants every pair to partition 15, window 1 of `n` µs grants none. -/
def side (n : Nat) : List Byte := record 192 [(0, 2, 2), (64, 4, 5), (64 + 52, 8, 2 ^ 60 - 1), (128, 4, n)]
/-- The schedule is at the end of a window. -/
def cyc (n w : Nat) (armed : Option Nat) : State :=
  { State.reset with cyc := { idle := false, s0 := side n, s1 := side 0, window := w, armed := armed },
                     time := { dtb := 5000 },
                     pairs := [(11, { run := 1, part := 15, sessions := [(0, { isOpen := true, part := 15 })] })] }
theorem wit_Window_idle : State.reset.cyc.idle = true ∧ State.reset.power.off = false ∧ State.reset.power.state ≠ 3 ∧ State.reset.pcie.held = false ∧
    State.reset.cyc.starting = false := by decide +kernel
/-- The end of window 0, a nanosecond before it, the next window and the wrap past a skipped one. -/
theorem wit_Window_next : let s := cyc 3 0 none
    s.cyc.starting = false ∧ s.cyc.windowStart + 1000 * winLen s.cyc.active s.cyc.window = s.dtb ∧ nextWindow s.cyc.active 1 = some 1 ∧
    s.granted 11 = some 15 ∧ (s.sess 11 (s.pair 11).session).isOpen = true ∧ (s.pair 11).run = 1 ∧
    nextWindow (cyc 0 0 none).cyc.active 1 = none ∧ nextWindow (cyc 0 0 none).cyc.active 0 = some 0 := by decide +kernel
theorem wit_Window_regrants : let s := cyc 3 0 none
    ({ s with cyc := { s.cyc with window := 1 } } : State).granted 11 ≠ some (s.pair 11).part ∧ (cyc 0 0 none).granted 11 = some (s.pair 11).part := by
  decide +kernel
theorem wit_Window_switch : let s := cyc 0 0 (some 1)
    s.cyc.armed = some 1 ∧ s.cyc.windowStart + 1000 * winLen s.cyc.active 0 ≤ s.dtb ∧ nextWindow s.cyc.active (s.cyc.window + 1) = none := by decide +kernel

/-- Partition 0 has an image of one block whose 100 cores are as given. -/
def blockOf (k : Core) (f : Partition → Partition) : State :=
  { admitted (image (program 1 1 1 [(0x07, [record 32 []])]) [] ) f with cores := block0 k }
theorem wit_Freeze_idle : (State.reset.part 15).image = none := by decide +kernel
theorem wit_Freeze_stopped : ∀ b, ((admitted (image [] []) (fun x => { x with job := { frozen := b, stopped := !b } })).part 0).job.frozen = b ∧
    ((admitted (image [] []) (fun x => { x with job := { frozen := b, stopped := !b } })).part 0).job.stopped = !b := by decide +kernel
theorem wit_Freeze_held : ({ State.reset with parts := [(0, part1 (image [] []))], shelves := [(0, { halted := true })] } : State).memHeld 0 = true := by
  decide +kernel
def frzIs (s : State) (armed halted : Bool) (ready : Option (Nat × Nat × Bool)) (fenced : Bool := false) : Bool :=
  let x := s.part 0
  match x.image with
  | some im => !s.memHeld 0 && s.copyFenced 0 im 0 == fenced && x.fz.seq == 0 && !x.job.frozen && !x.job.stopped && x.fz.armed == armed && s.allHalted 0 == halted && s.freezeReady 0 im == ready
      && decide (s.topBeat 0 ≤ x.job.nextCommit) && s.commit.waiting.isEmpty && x.rcv.ckptAt == 0
  | none => false
/-- Cores of an image that run, that have halted, and that wait at freeze point 2 which is armed. -/
theorem wit_Freeze_notReady : frzIs (blockOf running id) false false none = true := by decide +kernel
theorem wit_Freeze_ended : frzIs (blockOf { running with seq := { run := 4 } } (fun x => { x with fz := { armed := true } })) true true none = true := by
  decide +kernel
def atPoint : State := blockOf { running with seq := { run := 2, fpWait := true, fpCount := 2, fpId := 9 } }
    (fun x => { x with fz := { armed := true, at_ := 2 } })
theorem wit_Freeze_point : frzIs atPoint true false (some (2, 9, true)) = true ∧
    frzIs { atPoint with shelves := [(0, { pcFenced := 2 ^ 64 - 1 })] } true false (some (2, 9, true)) true = true := by decide +kernel

/-! ## Codec pairs -/

/-- A session descriptor: encoding or not (bit 0), with `flags` more, 16 by 16 of 8 bits, 4 buffers, no limit, 8 reports; the output ring,
if any, of `ring` bytes. -/
def cdesc (enc flags ring : Nat) : List Byte :=
  record 128 [(0, 4, enc + flags + 11 * 16), (4, 4, 16 + 16 * 65536), (8, 4, 8 + 4 * 16), (12, 4, 0xFFFFFFFF), (40, 2, 8), (112, 4, 65536), (120, 4, ring)]
/-- Pair 11 serves session 15 of partition 0, to which every window grants it. -/
def codec (run : Nat) (x : Session) : State :=
  { admitted (image [] []) id with
      cyc := { idle := false, s0 := record 128 [(0, 2, 1), (64, 4, 5), (64 + 52, 8, 16 * (2 ^ 60 - 1) / 31)] },
      pairs := [(11, { run := run, session := 15, sessions := [(15, { x with isOpen := true })] })] }
/-- A submit record of `n` bytes at offset 4,096. -/
def submit (n : Nat) : Submit := { fn := pfA, slot := 0, post := 0, record := record 32 [(8, 4, 4096), (16, 4, n)] }
def turnIs (x : Session) : Bool :=
  let s := codec 0 x
  s.nextSession 11 == some 15 && !s.pictureOpen 11 && !(s.sess 11 15).atLimit && (s.sess 11 15).frameFree 3 && (s.sess 11 15).closing == 0
theorem wit_Picture_none : (codec 0 {}).nextSession 11 ≠ some 15 := by decide +kernel
theorem wit_Picture_decode : let x : Session := { desc := cdesc 0 0 0, submits := [submit 5] }
    turnIs x = true ∧ Cd.encode x.desc = false ∧ Cd.skipNonref x.desc = false ∧ streamCause x.desc x.submits 5 1 = true ∧ streamCause x.desc x.submits 5 8 = false ∧ (submit 5).left = 5 ∧
    ((codec 0 x).parse ((codec 0 x).part 0).geo 5 x.submits).isSome = true ∧ ((codec 0 x).parse ((codec 0 x).part 0).geo 6 x.submits).isSome = false := by
  decide +kernel
theorem wit_Picture_encode : let x : Session := { desc := cdesc 1 0 4096, submits := [submit 0] }
    turnIs x = true ∧ Cd.encode x.desc = true ∧ fld (submit 0).record 8 5 ≠ 0 := by decide +kernel
/-- A coded picture in the ring, ready for its report. -/
def pic (written : Bool) (n : Nat) : Picture := { num := 0, frame := some 3, encode := true, coded := List.replicate n 7, written := written }
theorem wit_Codec_output : let x : Session := { desc := cdesc 1 0 4096, outputs := [pic true 4] }
    let s := codec 1 x
    s.outNext 11 = some (15, pic true 4) ∧ Cd.colour x.desc = 0 ∧ x.closing = 0 ∧ (codec 0 {}).outNext 11 = none := by decide +kernel
/-- A pair that serves nothing, one whose session conceals, and one whose last picture may still be abandoned. -/
theorem wit_Abandon : ((codec 0 {}).pair 11).run ≠ 1 ∧ Cd.conceal (cdesc 0 8 0) = true ∧ Cd.conceal (cdesc 0 0 0) = false ∧
    (let s := codec 1 { desc := cdesc 0 0 0, outputs := [{ num := 0, frame := some 3 }] }
     (s.pair 11).run = 1 ∧ (s.sess 11 15).outputs.getLast? = some { num := 0, frame := some 3 }) := by decide +kernel
/-- The ring of 4,096 bytes has room for 4,032: a picture of 4 with the ring empty, with 4,032 bytes not yet read, and a picture of 4,033. -/
theorem wit_Ring : ∀ e, e ∈ [(4, 0), (4, 4032), (4033, 0)] → let x : Session := { desc := cdesc 1 0 4096, outputs := [pic false e.1], produced := e.2 }
    let s := codec 1 x
    let y := s.sess 11 15
    let room := Cd.ring y.desc - 64
    let used := (y.produced + 2 ^ 64 - s.leX (s.part y.part).geo (Cd.addr y.desc 112 + 8) 8) % 2 ^ 64
    s.memHeld y.part = false ∧ 64 ≤ Cd.ring y.desc ∧ y.outputs = pic false e.1 :: [] ∧ room = 4032 ∧ used = e.2 ∧ (decide (room < (pic false e.1).coded.length)) = decide (e.1 = 4033) ∧
    (pic false e.1).coded.length = e.1 := by decide +kernel
theorem wit_Ring_held : ({ codec 1 {} with shelves := [(0, { waitCool := true })] } : State).memHeld ((codec 1 {}).sess 11 15).part = true := by
  decide +kernel
theorem wit_Resume : let s := codec 0 { saved := true }
    (s.sess 11 15).isOpen = true ∧ (s.sess 11 15).saved = true ∧ (s.pair 11).run = 0 ∧ s.pairMay 11 (s.sess 11 15).part = true ∧
    ((codec 0 {}).sess 11 15).saved = false := by decide +kernel
theorem wit_PairFault : let s := codec 1 {}
    (s.pair 11).run = 1 ∧ (s.sess 11 (s.pair 11).session).isOpen = true ∧ s.power.off = false ∧ s.pcie.held = false := by decide +kernel

/-! ## Mailbox and registers -/

/-- Slot 31 of the last virtual function of port B held by the device, and free. -/
def lastVf : Fn := ⟨1, 16⟩
theorem wit_Post : fnOk lastVf = true ∧ State.reset.hostUp = true ∧ (State.reset.slot lastVf 31).post = false ∧
    (let s := State.reset.setFn lastVf { slots := [(31, { post := true })] }
     (s.slot lastVf 31).post = true ∧ (s.slot lastVf 31).done = false) := by decide +kernel
/-- An urgent NOP is a bad command, as is one in slot 31; an urgent FREEZE is none. -/
theorem wit_Post_bad : badCommand 0 { cmd := 0, urgent := true } = true ∧ badCommand 31 { cmd := 0 } = true ∧ badCommand 31 { cmd := 0x0F01, urgent := true } = false := by
  decide +kernel
def postedOne (n : Nat) : State := State.reset.setFn lastVf { slots := [(n, { post := true, cmd := 0 })] }
theorem wit_Scan : State.reset.posted.filter (fun e => !e.2.2.ack) = [] ∧ ∀ n, n ∈ [0, 31] →
    (postedOne n).posted.filter (fun e => !e.2.2.ack) = [(lastVf, n, { post := true, cmd := 0 })] ∧ (postedOne n).slot lastVf n = { post := true, cmd := 0 } ∧
    (postedOne n).noService = false ∧ badCommand n { post := true, cmd := 0 } = decide (n = 31) := by decide +kernel
theorem wit_Lease : let s : State := { State.reset.setFn lastVf { leaseLive := true, leaseDtb := 5 } with time := { dtb := 100000005 } }
    (s.fn lastVf).leaseLive = true ∧ (s.fn lastVf).leaseDtb + 100000000 = s.dtb ∧ (State.reset.fn lastVf).leaseLive = false := by decide +kernel
/-- A hole of BAR0, the last words of some blocks, a port a virtual function does not see. -/
theorem wit_Reg_read : State.reset.regAt pfA 0 0x21000 = none ∧ State.reset.regAt pfA 0 0x20034 = some (.ident 0x34) ∧
    State.reset.regAt pfA 0 0x20038 = some (.ident 0x38) ∧ State.reset.regAt pfA 4 0x821D0 = some (.chan 7 0x10) ∧
    State.reset.regAt pfA 0 0x1FFFC = some (.slot 31 0xFFC) ∧ State.reset.regAt lastVf 4 0x80F30 = none := by decide +kernel
theorem wit_Reg_write : State.reset.regAt pfA 0 0x20108 = some (.ident 0x108) ∧ stagedWrite 999 (.ident 0x108) = some (.powerCap 999, true) ∧
    stagedWrite 1000 (.ident 0x108) = some (.powerCap 1000, false) ∧ State.reset.regAt lastVf 0 0x20108 = some (.ident 0x108) ∧
    State.reset.regAt pfA 0 0x2003C = some (.ident 0x3C) := by decide +kernel
theorem wit_Reg_pmc : State.reset.regAt pfA 2 0x3F030F8 = some (.ctr (.field 3) 0xF8) ∧ State.reset.regAt pfA 2 0x3F031F8 = some (.ctr (.field 3) 0x1F8) ∧
    pmcAt (.field 3) 0x1F8 = some 31 ∧ (∀ j, j < 32 → Ctl.en (State.reset.ctl (.field 3) j) = false ∧ Ctl.chain (State.reset.ctl (.field 3) j) = false) := by
  decide +kernel
/-- Counter 0 of core 0 counts, in an active module; and any counter in Frost. -/
theorem wit_Reg_pmcCounts : let s : State := { State.reset with cores := [(0, { Core.reset with ctl := [(0, 2 ^ 12 + 0x010)] })] }
    s.regAt pfA 2 0x140 = some (.ctr (.core 0) 0x40) ∧ pmcAt (.core 0) 0x40 = some 0 ∧ s.power.state = 0 ∧ Ctl.en (s.ctl (.core 0) 0) = true ∧
    Ctl.chain (s.ctl (.core 0) 0) = false ∧ Ctl.mode (s.ctl (.core 0) 0) = 0 ∧ ({ s with power := { state := 2 } } : State).power.state ≠ 0 := by
  decide +kernel

end Sys2Proof.Tests
end

