-- ==== Sys2Proof/Tests/WitLink.lean ====
section
/-!
SUPPORT. Sys2Proof/Tests/WitLink.lean: states that meet the hypotheses of the statements about ports, the time base and collectives, one
for each clause.
-/

namespace Sys2Proof.Tests

-- The kernel evaluates these theorems; one after another, so that no thread waits for another.
set_option Elab.async false

open Sys2Proof.Machine

/-! ## Ports -/

/-- Port 15 in a given state. -/
def portAt (x : Port) : State := { State.reset with ports := [(15, x)] }
theorem wit_Ports_train : ∀ n, n ∈ [0, 1, 2, 3] → let s := portAt { state := n }
    s.power.off = false ∧ s.pcie.held = false ∧ (s.port 15).disable = false ∧ (s.port 15).cblHigh = false ∧ (s.port 15).state = n := by
  decide +kernel
theorem wit_Ports_retrain : let s : State := { portAt { state := 4, lossAt := 7 } with time := { dtb := 10000007 } }
    (s.port 15).state = 4 ∧ (s.port 15).lossAt + 10000000 = s.dtb := by decide +kernel
theorem wit_Ports_equaliser : ((portAt { state := 1, eqFound := some 7 }).port 15).eqFound = some 7 := by decide +kernel
/-- A live port whose heartbeat is due, one whose replay buffer is full, and one that has a message on VC 10 and one credit. -/
theorem wit_Flits_heartbeat : (portAt { state := 2 }).power.off = false ∧ ((portAt { state := 2 }).port 15).up = true ∧
    ((portAt { state := 2 }).port 15).hbDue ≤ (portAt { state := 2 }).dtb := by decide +kernel
theorem wit_Flits_full : let x := ((portAt { state := 2, hbDue := 1, replay := List.replicate 4096 (1, [], 0) }).giveCredits 15).port 15
    x.up = true ∧ 0 < x.hbDue ∧ x.resend = [] ∧ x.room = false := by decide +kernel
theorem wit_Flits_data : let s := portAt { state := 3, hbDue := 1, vcs := [(10, { out := [{ beat := 0, payload := [7] }], credits := 1 })] }
    let x := (s.giveCredits 15).port 15
    (s.port 15).up = true ∧ s.dtb < x.hbDue ∧ x.resend = [] ∧ x.room = true ∧ x.acks = [] ∧ (x.vc 10).ready = true := by decide +kernel
theorem wit_Flits_training : ((portAt { state := 1 }).port 15).state = 1 ∧ ((portAt { state := 5 }).port 15).state = 5 := by decide +kernel
/-- Flits of VC 10 at a live port with sequence 0, by type, sequence number and epoch; the last flit of a message. -/
def flit (ftype seq epoch : Nat) (last : Bool) : List Byte := flitBytes ftype 10 true last 0 0 false seq epoch 0 0 [7]
def flitIs (ftype seq epoch : Nat) (last : Bool) : Bool :=
  let f := flitOf (flit ftype seq epoch last)
  flitOk (flit ftype seq epoch last) && f.ftype == ftype && f.seq == seq && f.epoch == epoch && f.last == last && f.first && f.vc == 10
theorem wit_FlitsChecked : ((portAt { state := 2 }).port 15).up = true ∧ flitOk [] = false ∧ flitIs 0 0 0 false = true ∧ flitIs 1 2 0 true = true ∧
    flitIs 1 1 0 true = true ∧ flitIs 1 1 0 false = true ∧ flitIs 1 1 1 true = true ∧ flitIs 3 0 0 true = true := by decide +kernel
/-- A flit sent 4 µs ago, one sent a nanosecond later, and a port after 16 replays and after 15. -/
theorem wit_Replay : let x : Port := { state := 2, replay := [(1, [], 0)], replayTries := 16 }
    x.up = true ∧ x.replay = (1, [], 0) :: [] ∧ x.resend = [] ∧ 0 + 4000 ≤ ({ portAt x with time := { dtb := 4000 } } : State).dtb ∧
    ({ portAt x with time := { dtb := 3999 } } : State).dtb < 0 + 4000 ∧ 16 ≤ x.replayTries ∧ ({ x with replayTries := 15 } : Port).replayTries < 16 := by
  decide +kernel
theorem wit_Peers : let x : Port := { state := 3, hbRecv := 7, vcs := [(10, { unacked := [(1, some 5)] })] }
    x.up = true ∧ ({ portAt x with time := { dtb := 4256 } } : State).dtb < x.hbRecv + 4250 ∧
    x.hbRecv + 4250 ≤ ({ portAt x with time := { dtb := 4257 } } : State).dtb ∧ (1, some 5) ∈ (x.vc 10).unacked ∧
    5 ≤ ({ portAt x with time := { dtb := 5 } } : State).dtb := by decide +kernel

/-! ## The time base -/

theorem wit_Time_edge : State.reset.pending = [] ∧ State.reset.power.off = false ∧ State.reset.power.state ≠ 3 ∧ State.reset.time.slewEdge ≠ 99 := by
  decide +kernel
/-- A grandmaster with PPS_EN that has lost its count, and one that has not. -/
def gm (b : Bool) : TimeBase := { position := 2 ^ 14, timeCfg := 2 ^ 14, dtbLost := b }
theorem wit_Time_pps : ∀ b, (gm b).isGm = true ∧ (gm b).ppsEn = true ∧ (gm b).dtbLost = b ∧ (gm b).nbrs = [] ∧ (gm b).dtb + 1000000000 < 2 ^ 64 := by
  decide +kernel
/-- A live neighbour with a valid DTB at a grandmaster that has lost its own. -/
theorem wit_Time_ppsHeard : let s : State := { portAt { state := 2 } with time := { gm true with nbrs := [(15, 1, 0)] } }
    s.time.dtbLost = true ∧ (15, 1, 0) ∈ s.time.nbrs ∧ (s.port 15).up = true ∧ s.pcie.held = false := by decide +kernel
theorem wit_Time_parent : let t : TimeBase := { locked := true, noParentSince := 1, dtb := 100001 }
    t.locked = true ∧ t.parentPort = none ∧ t.isGm = false ∧ t.noParentSince + 100000 ≤ t.dtb ∧ ({ t with dtb := 100000 } : TimeBase).dtb < t.noParentSince + 100000 := by
  decide +kernel

/-! ## Collectives -/

/-- Group 0 of an operation: FP32, CAP and CHUNK 1, one hand-off a core group, window 1; `n` members of rank stride 1. -/
def group1 (op n : Nat) : List Byte := record 64 [(0, 4, op * 2 ^ 8), (12, 4, 1), (16, 3, 1), (22, 2, 1), (24, 1, n - 1), (28, 2, 1)]
/-- A plan record: unit `num` of a kind expects one message in beat 0. -/
def expects (kind num : Nat) : List Byte := record 32 [(8, 4, 1), (16, 3, kind * 65536 + num), (20, 3, 1)]
def collProg (op : Nat) (plan : List (List Byte)) : List Byte :=
  program 1 2 0 [(0x06, [group1 (min op 3) (if 3 ≤ op then 2 else 1), record 64 [(0, 1, 255)]]), (0x0A, plan)]
def collImage (op : Nat) (plan : List (List Byte)) (stream : List Word128) : Image :=
  { image (collProg op plan) stream with req := if op = 4 then record 128 [(13, 1, 2)] else [] }
/-- A hand-off of one element of instance `q`: contributing, but for P2P_RECV, which receives at member 1; the state of group 0 and of its
unit in the plan, and what the access meets. -/
def collState (op q n : Nat) (g : GroupState) (unit : BeatUnit) : State :=
  let w := [BitVec.ofNat 128 (5 + 16 * op + q * 2 ^ 24 + if op = 4 then 2 ^ 68 else 2 ^ 67)]
  let im := collImage op [expects 3 0] w
  let s := coreWith im (metAt0 n { running with desc := Mem.ofBytes (record 32 [(12, 4, if op = 4 then 0 else 1)]) })
  { s with parts := [(0, { part1 im with ranks := some [5, 0], job := { started := true, running := true, units := [(3 * 65536, unit)] } })]
           groups := [(0, g)], hbm := streamHbm w }
/-- What the hand-off meets: 0 a busy channel, 1 its window, 2 an access that stops it, 3 a count refused, 4 a completed instance, 5 nothing. -/
def handCase (s : State) (op : Nat) : Option Nat :=
  match s.ctx 0 with
  | none => none
  | some x => match groupRec x.im 0 with
    | none => none
    | some r => match s.member x.p x.im r with
      | none => none
      | some me =>
        let k := s.core 0
        let raw := k.descriptor (x.f 15 8)
        match s.handDesc x r (collDesc raw) with
        | none => none
        | some d =>
          let q := handPseq x k.seq
          let reads := if x.f 67 67 = 1 then handReads r d else []
          let s0 := s.accessed 0 reads []
          let els := if x.f 67 67 = 1 then handElems k (Gr.elemFmt r) d else []
          let keep := (els.zipIdx.filter (fun e => d.elem0 + e.2 < Gr.cap r)).map (·.1)
          let I0 : Instance := ((s.grp x.p 0).inst q).getD { seq := q }
          if !(rowOf x.w == some ⟨5, op, 0⟩ && x.f 23 16 = 0 && !collReserved raw && !s.handIllegal x r me d && !k.draining &&
              !k.claimWait [x.f 15 8] && x.f 69 69 = 0) then none
          else if s.chanBusy x.p 0 x.im (Gr.vcOrd r) then some 0
          else if !((s.grp x.p 0).isStarted q || (s.grp x.p 0).mayStart (Gr.window r) q) then some 1
          else if meets k reads [] != 0 then some 2
          else match s0.countUnit x.p ⟨3, 0⟩ k.seq.curBeat with
            | .error _ => some 3
            | .ok _ => if (s.grp x.p 0).isDone q then some 4
              else if (List.range keep.length).all (fun e => !isSurplus r I0 (x.f 93 78) (d.elem0 + e) && !offBeat r I0 k.seq.curBeat (d.elem0 + e))
                then some 5 else none
theorem wit_HandOffs : ∀ op, op < 5 → handCase (collState op 0 0 {} {}) op = some 5 ∧
    handCase { collState op 0 0 {} {} with chans := [(0, { loadHold := some 1 })] } op = some 0 ∧
    handCase (collState op 1 0 {} {}) op = some 1 ∧ handCase (collState op 0 0 {} { recv := [(0, 1)] }) op = some 3 ∧
    handCase (collState op 0 0 { started := some 0 } {}) op = some 4 ∧ (op < 4 → handCase (collState op 0 2 {} {}) op = some 2) := by
  decide +kernel

/-- Group 0 with instance 0, or 1, handed off and not started; its channel free or held by a load. -/
def startState (q : Nat) (busy : Bool) : State :=
  let s := admitted (collImage 0 [] []) id
  { s with groups := [(0, { insts := [{ seq := q, cores := [0] }] })], chans := [(0, { loadHold := if busy then some 1 else none })] }
theorem wit_InstanceStart : ∀ b, ((startState 0 b).grp 0 0).waiting = some 0 ∧ ((startState 0 b).grp 0 0).mayStart 1 0 = true ∧
    (startState 0 b).chanBusy 0 0 (collImage 0 [] []) 0 = b ∧ ((startState 1 b).grp 0 0).waiting = some 1 ∧
    ((startState 1 b).grp 0 0).mayStart 1 1 = false ∧ (groupRec (collImage 0 [] []) 0).any (fun r => Gr.window r == 1) = true := by decide +kernel

/-- Channel 0 bound to partition 0, nothing held; group 0 has completed instance 0. -/
def chanState (busy : Bool) : State := { admitted (collImage 0 [] []) id with
  groups := [(0, { started := some 0 })], chans := [(0, { bound := true, loadHold := if busy then some 1 else none })] }
/-- An unbound channel, no such group, group 255 of channel 0 with a reserved kind, a busy channel, a completed instance, the first
instance beyond the window, and the last inside it. -/
theorem wit_Messages_sorted : (State.reset.chan 7).bound = false ∧ ((chanState true).chan 0).bound = true ∧ ((chanState true).chan 0).heldMsgs = [] ∧
    (groupRec (collImage 0 [] []) 1).isNone = true ∧ (groupRec (collImage 0 [] []) 255).isSome = true ∧
    (chanState true).chanBusy 0 0 (collImage 0 [] []) 0 = true ∧ (chanState false).chanBusy 0 0 (collImage 0 [] []) 0 = false ∧
    ((chanState false).grp 0 0).isDone 0 = true ∧ ((chanState false).grp 0 0).isStarted 1 = false ∧
    (unitAdvance (collImage 0 [] []) ⟨3, 0⟩ 0 1 (((chanState false).part 0).job.unit ⟨3, 0⟩)).cur = 0 ∧
    planHas (collImage 0 [] []) ⟨2, 15⟩ = false ∧ (collImage 0 [] []).chan 0 = 0 ∧ (chanState false).commit.waiting = [] := by decide +kernel
/-- The group unit is past beat 0, or in it with one message to come; instance 0 has started and not completed. -/
def chanUnit (op : Nat) (plan : List (List Byte)) (units : List (Nat × BeatUnit)) : State :=
  let im := collImage op plan []
  { admitted im (fun x => { x with job := { x.job with units := units } }) with
    groups := [(0, { started := some 0, insts := [{ seq := 0 }] })], chans := [(0, { bound := true })] }
theorem wit_Messages_beats : (unitAdvance (collImage 0 [] []) ⟨3, 0⟩ 0 1 (((chanUnit 0 [] [(3 * 65536, { cur := 1 })]).part 0).job.unit ⟨3, 0⟩)).cur = 1 ∧
    (unitAdvance (collImage 0 [expects 3 0] []) ⟨3, 0⟩ 5 6 (((chanUnit 0 [expects 3 0] []).part 0).job.unit ⟨3, 0⟩)).cur = 0 ∧
    planWin (collImage 0 [expects 3 0] []) ⟨3, 0⟩ = 0 ∧ ((chanUnit 0 [] []).grp 0 0).isDone 0 = false ∧
    ((chanUnit 0 [] []).grp 0 0).isStarted 0 = true := by decide +kernel
/-- Port 15 expects one point-to-point message in beat 0 and has it. -/
theorem wit_Messages_port : planHas (collImage 3 [expects 2 15] []) ⟨2, 15⟩ = true ∧
    (groupRec (collImage 3 [expects 2 15] []) 0).any (fun r => Gr.op r == 3) = true ∧
    (match (chanUnit 3 [expects 2 15] [(2 * 65536 + 15, { recv := [(0, 1)] })]).countUnit 0 ⟨2, 15⟩ 0 with | .error c => c | .ok _ => 0) = 4 := by
  decide +kernel
/-- No hold, a hold of 20 µs that stands, one of a nanosecond less, and one whose channel is free. -/
def skew (at_ : Nat) (busy : Bool) : State := { admitted (collImage 0 [] []) id with
  chans := [(7, { bound := true, holdFrom := some 3, holdGroup := 0 }), (8, {})], time := { dtb := at_ }
  groups := if busy then [(255, { insts := [{ seq := 0 }] })] else [] }
theorem wit_OrderSkew : (State.reset.chan 7).holdFrom = none ∧ ((skew 20003 true).chan 7).holdFrom = some 3 ∧ (skew 20003 true).stillHeld 7 = true ∧
    (skew 20003 false).stillHeld 7 = false ∧ 3 + 20000 ≤ (skew 20003 true).dtb ∧ (skew 20002 true).dtb < 3 + 20000 ∧
    ((skew 20003 true).chan 7).heldMsgs = [] := by decide +kernel

/-- A posted range of one element of instance 0 at core 0, with its result, without it, and with its flag set. -/
def posted (results : Bool) (ready : Nat) : State := { coreWith (collImage 0 [] []) { Core.reset with ready := ready } with
  groups := [(0, { started := some 0, insts := [{ seq := 0, posted := [⟨0, false, 0, 0, 0, 1, 255, false⟩], results := if results then [(0, 7, 0)] else [] }] })] }
theorem wit_ResultDelivery : ∀ b, ((posted b 0).grp 0 0).awaiting[0]? = some (0, 0, ⟨0, false, 0, 0, 0, 1, 255, false⟩) ∧
    (((posted b 0).grp 0 0).inst 0).any (fun I => (groupRec (collImage 0 [] []) 0).any (fun r =>
      (posted b 0).deliverable 0 0 (collImage 0 [] []) r I ⟨0, false, 0, 0, 0, 1, 255, false⟩ == b && !Gr.overlap r)) = true ∧
    bit ((posted b 0).core 0).ready 255 = false ∧ bit ((posted b (2 ^ 255)).core 0).ready 255 = true := by decide +kernel

end Sys2Proof.Tests
end

