-- ==== Sys2Proof/Tests/WitMove.lean ====
section
/-!
SUPPORT. Sys2Proof/Tests/WitMove.lean: states that meet the hypotheses of the statements about moves, the KV pool, messages, claims,
selection, commits and widening, one for each clause.
-/

namespace Sys2Proof.Tests

-- The kernel evaluates these theorems; one after another, so that no thread waits for another.
set_option Elab.async false

open Sys2Proof.Machine

/-! ## Moves -/

/-- A plan in which shelf 0 expects one message in beat 0; without it no shelf expects any and each refuses. -/
def shelfPlan (b : Bool) : List Byte := if b then program 1 1 0 [(0x0A, [record 32 [(8, 4, 1), (16, 3, 0x10000), (20, 3, 1)]])] else []
/-- One FP32 element at HBM byte 0 and tile-store byte 0. -/
def moveDesc1 : List Byte := record 32 [(20, 2, 1), (22, 2, 1), (26, 2, 1)]
def moveState (op : Nat) (plan : Bool) (n : Nat) : State :=
  coreAt0 (shelfPlan plan) [BitVec.ofNat 128 (3 + 16 * op + 2 ^ 16)] (metAt0 n { running with desc := Mem.ofBytes moveDesc1 })
def moveInOk (plan : Bool) (n : Nat) : Bool := issuesB (moveState 0 plan n) 0 ⟨3, 0, 0⟩ (fun x =>
    let s := moveState 0 plan n
    x.f 127 41 = 0 && match s.moveDesc x (x.f 31 16) true with
      | none => false
      | some m =>
        let writes := m.ranges 1 m.cols (fmtWidth (Ccw.of m.ccw).dst)
        let s0 := s.accessed 0 [] writes
        !moveWait (s.core 0) x [x.f 15 8] && m.cols = 1 && m.vrows = 1 && meets (s.core 0) [] writes == n && (s0.moveInElems x m 1).isOk &&
          (s0.countShelves x (s0.moveShelves x m 1 (fmtWidth (Ccw.of m.ccw).src))).2.isEmpty == plan)
theorem wit_LocalMoves_in : moveInOk true 0 = true ∧ moveInOk false 0 = true ∧ moveInOk true 1 = true := by decide +kernel
/-- A window of one FP32 element into the tile store (space 0) and into a register (space 2), and an empty one. -/
def winDesc1 (space count : Nat) : List Byte :=
  record 64 [(8, 2, 1), (10, 2, 1), (12, 2, 1), (14, 2, 1), (28, 4, 0x1249249), (36, 4, 65536), (40, 4, 65537), (44, 4, 65536), (52, 4, count + count * 65536),
    (56, 4, space * 2 ^ 20)]
def winState (space count n : Nat) : State := coreAt0 [] [0x23] (metAt0 n { running with desc := Mem.ofBytes (winDesc1 space count) })
def winOk (space count n : Nat) : Bool := issuesB (winState space count n) 0 ⟨3, 2, 0⟩ (fun x =>
    let s := winState space count n
    x.f 127 41 = 0 && x.f 31 16 = 0 && match s.winDesc x with
      | none => false
      | some m => !moveWait (s.core 0) x [x.f 15 8, x.f 15 8 + 1] && m.empty == (count == 0) && m.dstSpace == space
        && (m.empty || meets (s.core 0) m.reads m.writes == n))
theorem wit_LocalMoves_window : winOk 0 1 0 = true ∧ winOk 2 1 0 = true ∧ winOk 0 0 0 = true ∧ winOk 0 1 1 = true ∧ winOk 2 1 2 = true := by
  decide +kernel
/-- A gather of one granule from row 0 of a table of one row. -/
def sleetState (plan : Bool) (n : Nat) : State :=
  coreAt0 (shelfPlan plan) [0x10043] (metAt0 n { running with desc := Mem.ofBytes (record 32 [(12, 4, 1), (20, 4, 32)]) })
def sleetOk (plan : Bool) (n : Nat) : Bool := issuesB (sleetState plan n) 0 ⟨3, 4, 0⟩ (fun x =>
    let s := sleetState plan n
    let d := (s.core 0).descriptor (x.f 15 8)
    x.f 127 41 = 0 && match s.tsAddr x (sleetFields d).idx, s.locAddr x (sleetFields d).ob (sleetFields d).dst with
      | some ib, some db =>
        let m : SleetDesc := { sleetFields d with idx := ib, dst := db }
        let len := x.f 31 16
        let reads := [(false, ib, (if m.idx64 then 8 else 4) * len)]
        let writes := (List.range len).map (fun n => (m.ob, db + n * m.dstStride, 32 * m.gran))
        let s0 := s.accessed 0 reads writes
        m.valid d len && !moveWait (s.core 0) x [x.f 15 8] && meets (s.core 0) reads writes == n && match allOk ((List.range len).map (s0.sleetRow x m)) with
          | .ok rows => !(rows.map (·.2)).flatten.isEmpty && (s0.countShelves x (s0.shelvesOf x.p (rows.map (·.2)).flatten)).2.isEmpty == plan
          | .error _ => false
      | _, _ => false)
theorem wit_LocalMoves_sleet : sleetOk true 0 = true ∧ sleetOk false 0 = true ∧ sleetOk true 1 = true ∧ sleetOk true 2 = true := by decide +kernel

def moveOutOk (plan : Bool) (n : Nat) : Bool := issuesB (moveState 1 plan n) 0 ⟨3, 1, 0⟩ (fun x =>
    let s := moveState 1 plan n
    x.f 127 41 = 0 && match s.moveDesc x (x.f 31 16) false with
      | none => false
      | some m =>
        let reads := m.ranges 1 m.vcols (fmtWidth (Ccw.of m.ccw).src)
        let s0 := s.accessed 0 reads []
        !moveWait (s.core 0) x [x.f 15 8] && bits m.hbm 63 60 ≠ 0xB && m.cols = 1 && m.vcols = 1 && m.vrows = 1 &&
          !s.redHeld x.p (s.movePlaces x m 1 32) && meets (s.core 0) reads [] == n && (s0.countShelves x (s0.moveShelves x m 1 32)).1.shelves.isEmpty
          && (List.range 4).all (fun i => (s0.srcPlace x m 0 i).isOk))
theorem wit_MoveOut_hbm : moveOutOk true 0 = true ∧ moveOutOk false 0 = true ∧ moveOutOk true 2 = true := by decide +kernel

/-- Sequence slot 0 of partition 0: open, one layer, 8 tokens of 32 KiB, its first page mapped to page 0. -/
def kvImage (stream : List Word128) : Image := { image (shelfPlan true) stream with req := record 128 [(64, 1, 1)] }
def kvState (stream : List Word128) (k : Core) : State :=
  let s := coreWith (kvImage stream) k
  { s with hbm := Mem.writeN (streamHbm stream) 393216 (record 32 [(0, 1, 1), (8, 1, 8), (16, 1, 1), (24, 8, 2 ^ 60 + 417792)]) }
def kvMove (gen : Nat) : State := kvState [0x10013] { running with desc := Mem.ofBytes (record 32 [(0, 8, 0xB * 2 ^ 60 + gen * 2 ^ 43),
  (20, 2, 1), (22, 2, 1), (26, 2, 1)]) }
def kvMoveOk (gen : Nat) : Bool := issuesB (kvMove gen) 0 ⟨3, 1, 0⟩ (fun x =>
    let s := kvMove gen
    x.f 127 41 = 0 && match s.moveDesc x (x.f 31 16) false with
      | none => false
      | some m =>
        let a := kvAddr m.hbm
        let e := s.seqEnt x.p x.im a.slot
        let reads := m.ranges 1 m.vcols (fmtWidth (Ccw.of m.ccw).src)
        let s0 := s.accessed 0 reads []
        bits m.hbm 63 60 = 0xB && slotOwned x.im a.slot && m.vrows = 1 && m.cols = 1 && m.vcols = 1 && (kvStale e a == (gen == 1)) && a.layer < Ent.layers e &&
          kvRangeOk e a.token 1 && !s.redHeld x.p (s.movePlaces x m 1 32) && meets (s.core 0) reads [] == 0 &&
          (s0.countShelves x (s0.moveShelves x m 1 32)).2.isEmpty)
theorem wit_MoveOut_kv : kvMoveOk 0 = true ∧ kvMoveOk 1 = true := by decide +kernel
/-- No byte of them is a reducer region's. -/
theorem wit_MoveOut_noRegion : ∀ b, (moveState 1 true 0).regionAt 0 b = none := fun _ => rfl
/-- A write of one row: fresh, stale, and past the slot's tokens; the page is mapped and not shared. -/
def kvWrite (addr : Nat) : Bool × Bool × Bool :=
  let s := kvState [] running
  let im := kvImage []
  let a := kvAddr addr
  let e := s.seqEnt 0 im a.slot
  (addrForm addr && slotOwned im a.slot && bits addr 63 60 == 0xB, kvStale e a, decide (a.layer < Ent.layers e) && kvRangeOk e a.token 1)
theorem wit_KvPageWrite : kvWrite (0xB * 2 ^ 60) = (true, false, true) ∧ kvWrite (0xB * 2 ^ 60 + 2 ^ 43) = (true, true, true) ∧
    kvWrite (0xB * 2 ^ 60 + 8) = (true, false, false) ∧ kvWrite (0xB * 2 ^ 60 + 2 ^ 25) = (true, false, false) ∧
    (let s := kvState [] running
     let e := s.seqEnt 0 (kvImage []) 0
     s.memHeld 0 = false ∧ s.leX (s.part 0).geo (Ent.listAt e 0 0) 4 = 0 ∧ s.refs 0 (kvImage []) 0 ≤ 1) := by decide +kernel

/-- A mesh move of one byte to core 0 itself. -/
def meshState (n : Nat) : State := coreAt0 [] [0x33] (metAt0 n { running with desc := Mem.ofBytes (record 32 [(12, 2, 1), (16, 4, 1)]) })
def meshOk (n : Nat) : Bool := issuesB (meshState n) 0 ⟨3, 3, 0⟩ (fun x =>
    let s := meshState n
    let k := s.core 0
    let d := k.descriptor (x.f 15 8)
    let m := meshDesc d
    x.f 127 41 = 0 && x.f 31 16 = 0 && !meshReserved d && m.core < Config.cores && m.rowBytes ≠ 0 && match s.tsAddr x m.src, s.tsAddr x m.dst with
      | some src, some dst => s.partOf m.core == some x.p && meets k [(false, src, 1)] [] == n && m.rows = 1 && m.rowBytes = 1 && rangeOk src m.rows m.rowBytes m.srcStride Config.tsBytes &&
          rangeOk dst m.rows m.rowBytes m.dstStride Config.tsBytes && !k.draining && !k.claimWait [x.f 15 8] && x.f 32 32 = 0
      | _, _ => false)
theorem wit_Mesh : meshOk 0 = true ∧ meshOk 2 = true := by decide +kernel
/-- A firn move of one block of 8 × 8 BF16 elements, out and in. -/
def firnState (plan : Bool) (dir n : Nat) : State := coreAt0 (shelfPlan plan) [0x53] (metAt0 n { running with
  firn := { s0 := record 8 [(0, 1, 1)] }
  desc := Mem.ofBytes (record 64 [(0, 4, dir * 2 ^ 20), (4, 2, 8), (6, 2, 8), (8, 4, 16), (12, 4, 2 ^ 20), (36, 2, 8), (38, 2, 8)]) })
def firnOk (plan : Bool) (dir n : Nat) : Bool := issuesB (firnState plan dir n) 0 ⟨3, 5, 0⟩ (fun x =>
    let s := firnState plan dir n
    x.f 127 41 = 0 && x.f 31 16 = 0 && match s.firnDesc x with
      | none => false
      | some (m, p) => !moveWait (s.core 0) x [x.f 15 8, x.f 15 8 + 1] && (m.out == (dir == 0)) && m.blocks.length == 1 &&
        (let reads := if m.out then m.ranges p else []
         let writes := if m.out then [] else m.ranges p
         let s0 := s.accessed 0 reads writes
         meets (s.core 0) reads writes == n && match allOk (m.blocks.map (s0.firnPlaces x m p)) with
        | .ok places => (s0.countShelves x (s0.firnShelves x m p)).2.isEmpty == plan && !places.flatten.any (s0.fencedX x.p) &&
            !s0.redHeld x.p places.flatten
        | .error _ => false))
theorem wit_Firn : firnOk true 0 0 = true ∧ firnOk true 1 0 = true ∧ firnOk false 1 0 = true ∧ firnOk true 1 1 = true ∧ firnOk true 0 2 = true := by
  decide +kernel

/-! ## Messages -/

/-- Two messages of one beat from two units for core 0, which is in beat 1 and expects one there. -/
def inFlight1 (beat got : Nat) : State :=
  let im := image (program 1 1 0 [(0x0A, [record 32 [(0, 6, 1), (8, 4, 1), (20, 3, 1)]])]) []
  let s := coreWith im { running with seq := { run := 1, curBeat := 1, recv := if got = 0 then [] else [(1, got)] } }
  { s with msgs := [⟨0, ⟨0, 1⟩, ⟨0, 0⟩, beat, [⟨false, 0xFFFFF, [7], []⟩]⟩, ⟨0, ⟨0, 2⟩, ⟨0, 0⟩, beat, []⟩] }
def arrives (s : State) (n : Nat) : Option (Nat × Nat × Bool) := match s.msgs[n]?, (s.part 0).image with
  | some m, some im => if (s.msgs.take n).any (fun e => e.src == m.src && e.dst == m.dst) then none else
      let q := (s.core 0).seq
      some (m.beat, planExpect im ⟨0, contractOf (s.part 0).geo 0⟩ m.beat,
        decide (q.curBeat ≤ m.beat ∧ m.beat ≤ q.curBeat + q.winM1 ∧ Cells.get (fun _ => 0) q.recv m.beat < planExpect im ⟨0, 0⟩ m.beat))
  | _, _ => none
theorem wit_Messages_lands : arrives (inFlight1 1 0) 1 = some (1, 1, true) ∧ ((inFlight1 1 0).core 0).holds ⟨false, 0xFFFFF, [7], []⟩ = false := by decide +kernel
/-- The same message where a witness holds the byte. -/
def inFlightHeld : State := (inFlight1 1 0).updCore 0 (fun k => { k with mu := { k.mu with
  witq := [⟨false, 0, [], 0, 0, 0, 0, [], [⟨[], [], none, [(false, 0xFFFFF, 1)]⟩], []⟩] } })
theorem wit_Messages_held : arrives { inFlightHeld with msgs := inFlightHeld.msgs.take 1 } 0 = some (1, 1, true) ∧
    (inFlightHeld.core 0).holds ⟨false, 0xFFFFF, [7], []⟩ = true := by decide +kernel
/-- A message for shelf 0 that the plan expects, and one more of the same beat. -/
def toShelf (got : Nat) : State := { (admitted (image (shelfPlan true) []) (fun x => { x with
    job := { x.job with units := if got = 0 then [] else [(65536, { recv := [(0, 1)] })] } })) with msgs := [⟨0, ⟨0, 1⟩, ⟨1, 0⟩, 0, []⟩] }
theorem wit_Messages_unit : ∀ got, got < 2 → let im := image (shelfPlan true) []
    unitCheck im ⟨1, 0⟩ (unitAdvance im ⟨1, 0⟩ 0 1 (((toShelf got).part 0).job.unit ⟨1, 0⟩)) 0 = (if got = 0 then none else some 4) := by
  decide +kernel
/-- Late, early, surplus. -/
theorem wit_Messages_faults : arrives (inFlight1 0 0) 1 = some (0, 0, false) ∧ arrives (inFlight1 2 0) 1 = some (2, 0, false) ∧
    arrives (inFlight1 1 1) 1 = some (1, 1, false) := by decide +kernel
/-- A wait of exactly the stall limit, not yet and already reported. -/
def stalled (b : Bool) : State := { coreAt0 [] [0x04] { running with seq := { run := 2, waitFrom := some 5, stall := b } } with
  time := { dtb := 100000005 } }
theorem wit_BeatStall : ∀ b, ((stalled b).ctx 0).any (fun x => decide (5 + stallNs x.im ≤ (stalled b).dtb)) = true ∧
    ((stalled b).core 0).seq.waitFrom = some 5 ∧ ((stalled b).core 0).seq.stall = b := by decide +kernel

/-! ## Claims -/

/-- Counter 1023 with LIMIT 1 and a lease of 1 µs. -/
def claimProg : List Byte := program 1 1 0 [(0x08, [record 16 [(0, 2, 1023), (4, 4, 1), (8, 2, 1)]])]
def claimState (w : Nat) (cl : List ClaimSlot) (q : Counter) : State :=
  let im := image claimProg [BitVec.ofNat 128 w]
  let s := coreAt0 claimProg [BitVec.ofNat 128 w] { running with claims := cl }
  { s with parts := [(0, { part1 im with counters := [(1023, q)] })] }
theorem wit_Claim : issuesB (claimState (0x44 + 1023 * 256 + 3 * 2 ^ 26) [{}, {}, {}, {}] {}) 0 ⟨4, 4, 0⟩ (fun x =>
    let k := (claimState (0x44 + 1023 * 256 + 3 * 2 ^ 26) [{}, {}, {}, {}] {}).core 0
    x.f 127 28 = 0 && k.claims.length = 4 && !patchBad (k.descriptor (x.f 25 18)) && !patchesOther x.im x.k (k.descriptor (x.f 25 18)) && (claimRec x.im (x.f 17 8)).isSome &&
      !(k.claim (x.f 27 26)).isOpen && !(k.claim (x.f 27 26)).done && !k.claimWait [x.f 25 18]) = true := by decide +kernel
def doneState (b : Bool) : State := claimState (0x54 + 3 * 2 ^ 26) [{}, {}, {}, { isOpen := b, counter := 1023, idx := 0 }] {}
theorem wit_ClaimDone : ∀ b, issuesB (doneState b) 0 ⟨4, 5, 0⟩ (fun x =>
    x.f 25 8 = 0 && x.f 127 28 = 0 && (doneState b).allDone 0 && ((doneState b).core 0).claims.length = 4 &&
      ((doneState b).core 0).claim (x.f 27 26) == { isOpen := b, counter := 1023, idx := 0 }) = true := by decide +kernel
/-- A request while an index is left, past LIMIT, and with an index to reissue. -/
def counterState (next : Nat) (re : List Nat) : State := claimState 0 [{}, {}, {}, {}] { next := next, reissue := re, queue := [{ core := 0, slot := 3 }] }
theorem wit_Counters_request : ∀ e, e ∈ [(0, []), (1, []), (1, [2, 0])] →
    let s := counterState e.1 e.2
    s.memHeld 0 = false ∧
    ((s.part 0).counter 1023).queue = { core := 0, slot := 3 } :: [] ∧ (s.core 0).claims.length = 4 ∧
      ((s.part 0).image).any (fun im => claimLimit im 1023 == 1) = true := by decide +kernel
/-- A presentation that the ledger holds as claimed by core 0 under token 0, and one that it does not. -/
def presented (tok : Nat) : State := { claimState 0 [{}, {}, {}, {}] { dones := [{ core := 0, slot := 3, idx := 0, tok := tok }], takenAt := [(0, 7)] } with
  hbm := Mem.writeN {} (65536 * 4) [1], time := { dtb := 1007 } }
theorem wit_Counters_done : ledgerIs ((presented 0).ledger 0 (image claimProg [0]) 1023 0) 1 0 0 = true ∧
    ledgerIs ((presented 1).ledger 0 (image claimProg [0]) 1023 0) 1 0 1 = false := by decide +kernel
/-- A lease at its end (7 + 1,000 ns), one not at its end, and one whose index is not claimed. -/
theorem wit_Counters_lease : (((presented 0).part 0).counter 1023).takenAt.find? (fun e => e.1 == 0) = some (0, 7) ∧
    7 + claimLease (image claimProg [0]) 1023 = (presented 0).dtb ∧ bits ((presented 0).ledger 0 (image claimProg [0]) 1023 0) 1 0 = 1 ∧
    ({ presented 0 with time := { dtb := 1006 } } : State).dtb < 7 + claimLease (image claimProg [0]) 1023 ∧
    bits (({ presented 0 with hbm := {} } : State).ledger 0 (image claimProg [0]) 1023 0) 1 0 = 0 := by decide +kernel

/-! ## Selection, commits, outputs -/

/-- A partition parked at its selection point, with a run request or a sequence command first; one bucket that covers V0 up to 1. -/
def bucketProg : List Byte := program 1 1 0 [(0x01, [record 16 []]), (0x03, [record 48 [(8, 4, 1)]])]
def request (cmd v0 : Nat) : Request := ⟨⟨0, 0⟩, 0, cmd, 0, record 40 [(0, 4, v0)]⟩
def atSelection (cmd v0 : Nat) (ws : WeightState) : State :=
  let s := admitted (image bucketProg []) (fun x => { x with ws := ws, job := { x.job with requests := [request cmd v0] } })
  { s with cores := block0 { Core.reset with seq := { run := 3, selectWait := true } } }
def selectionOk (s : State) : Bool :=
  s.parked 0 && !(s.part 0).job.frozen && !(s.part 0).job.stopped && !s.fw.svcRestart && !s.fw.svcDown && !s.memHeld 0 && (s.part 0).image.isSome
theorem wit_Bucket_sequence : selectionOk (atSelection 0x0400 0 {}) = true := by decide +kernel
theorem wit_Bucket_noSlot : selectionOk (atSelection 0x0202 1 {}) = true ∧ ({} : WeightState).active = none := by decide +kernel
theorem wit_Bucket_holds : selectionOk (atSelection 0x0202 1 { st0 := 3, switchPending := true, switchTo := 1 }) = true ∧
    ({ st0 := 3, switchPending := true, switchTo := 1 } : WeightState).holds 0 = true := by decide +kernel
theorem wit_Bucket_selects : selectionOk (atSelection 0x0202 1 { st0 := 3 }) = true ∧ ({ st0 := 3 } : WeightState).active = some 0 ∧
    ({ st0 := 3 } : WeightState).holds 0 = false ∧ (selectBucket (image bucketProg []) (runVars (request 0x0202 1).payload)).isSome = true ∧
    (selectBucket (image bucketProg []) (runVars (request 0x0202 2).payload)).isSome = false ∧ 0 ∈ (atSelection 0x0202 1 { st0 := 3 }).imageCores 0 := by
  decide +kernel

/-- Beat 0 with every core halted in it may commit; with core 0 running it may not. -/
def committing (run0 : Nat) : State := { admitted (image (program 1 1 0 []) []) id with
  cores := (0, { Core.reset with seq := { run := run0 } }) :: (block0 { Core.reset with seq := { run := 4 } }).drop 1 }
theorem wit_Commit : (committing 4).mayCommit 0 (image (program 1 1 0 []) []) 0 = true ∧
    (committing 1).mayCommit 0 (image (program 1 1 0 []) []) 0 = false ∧ ((committing 4).part 0).job.nextCommit ≤ (committing 4).topBeat 0 ∧
    ((committing 4).part 0).job.started = true ∧ ((committing 4).part 0).job.stopped = false ∧ ((committing 4).part 0).job.frozen = false ∧
    (committing 4).memHeld 0 = false ∧ (committing 4).commit.waiting = [] := by decide +kernel
/-- A request that ended in beat 0, with one output of 1 byte at the last byte of the partition's memory. -/
def outputReq : Request := ⟨⟨0, 0⟩, 0, 0x0202, 0, record 64 [(32, 1, 1), (48, 8, 2 ^ 63 + 0x2FFFFFFFF), (56, 8, 1)]⟩
def ended : State := admitted (image [] []) (fun x => { x with job := { x.job with nextCommit := 1, ending := [(outputReq, 0)] } })
theorem wit_Output : (ended.part 0).job.ending.find? (fun e => decide (e.2 < (ended.part 0).job.nextCommit)) = some (outputReq, 0) ∧
    ((runRefs outputReq.payload).filter (fun r => r.2.2.1)).any (fun r => decide (geoBytes (ended.part 0).geo < r.2.1 + r.2.2.2)) = false ∧
    (runRefs outputReq.payload).length = 1 ∧ ended.memHeld 0 = false ∧ ended.dmaShut 0 = false := by decide +kernel
theorem wit_Output_caches : ended.CachesOk := cachesOk_of_reset rfl

/-! ## Widening -/

/-- One layer that needs 1 unit of the tile-store reserve. -/
def widenProg : List Byte := program 1 1 1 [(0x09, [record 32 [(20, 2, 1)]])]
def widened : State := admitted (image widenProg []) id
theorem wit_Widen_runs : (widened.part 0).image.isSome = true ∧ tpLayers (image widenProg []).bytes = 1 ∧
    ((List.range 1).all (fun l => !(widened.ownRequests 0 (image widenProg [])).getD l false)) = true ∧ widened.memHeld 0 = false ∧
    (widened.imageCores 0).any (fun c => (widened.core c).witPending) = false := by decide +kernel
theorem wit_Widen_caches : widened.CachesOk ∧ widened.NoFence := ⟨cachesOk_of_reset rfl, noFence_of_reset rfl⟩
/-- Core 0 has a witness to check. -/
def widenWaits : State := { widened with cores := [(0, { running with mu := { witq := [⟨false, 0, [], 0, 0, 0, 0, [], [], []⟩] } })] }
theorem wit_Widen_waits : (widenWaits.imageCores 0).any (fun c => (widenWaits.core c).witPending) = true := by decide +kernel
/-- The layer is narrow; its needs of 256 bytes fit 256 and not 255. -/
theorem wit_Widen_layer : bits (widened.leX (widened.part 0).geo ((image widenProg []).layerAt 0) 1) 1 0 = 0 ∧
    (image widenProg []).needTs 0 * 256 = 256 ∧ (image widenProg []).needHbm 0 * 65536 = 0 := by decide +kernel

end Sys2Proof.Tests
end

