-- ==== Sys2Proof/Tests/WitReset.lean ====
section
/-!
SUPPORT. Sys2Proof/Tests/WitReset.lean: states that meet the hypotheses of the statements about firmware, faults, resets, the supply and
interrupts, one for each clause.
-/

namespace Sys2Proof.Tests

-- The kernel evaluates these theorems; one after another, so that no thread waits for another.
set_option Elab.async false

open Sys2Proof.Machine

/-! ## Firmware -/

/-- An FW_UPDATE operation on a target, with the bytes of an image or a key. -/
def update (f : FwState) (op target key bytes : Nat) : State :=
  box { State.reset with fw := f } 0x0680 20 0 (record 20 [(0, 2, op + target * 2 ^ 8 + key * 2 ^ 9), (16, 4, bytes)])
def updateIs (f : FwState) (op target key bytes : Nat) : Bool :=
  carriesB (update f op target key bytes) pfA 0 (isFwOp op) (fun q =>
    !Up.bad q.payload && Up.target q.payload == target && Up.key q.payload == key && Up.bytes q.payload == bytes)
theorem wit_Fw_rows : updateIs {} 0 1 0 512 = true ∧ updateIs {} 0 0 0 167772160 = true ∧ updateIs {} 1 1 0 0 = true ∧ updateIs {} 2 0 0 0 = true ∧
    updateIs {} 3 0 3 0 = true := by decide +kernel
/-- An image of 512 bytes whose three components are empty. -/
def comp (k : Nat) : List Byte := record 12 [(0, 1, k), (4, 4, 512)] ++ sha384 [] ++ leBytes 4 0
def fwImage : List Byte := record 64 [(0, 4, 0x31474D49), (4, 2, 1), (20, 4, 512)] ++ comp 1 ++ comp 2 ++ comp 3 ++ List.replicate 256 0
/-- Where its signature verifies, nothing refuses it beside a valid slot. -/
theorem wit_Fw_write (h : Config.verifies 0 (Fi.keySlot fwImage) (BitVec.ofNat 384 (leNat (sha384 (fwImage.take 416))))
    (BitVec.ofNat 768 (fld fwImage 416 96)) = true) : ({} : FwState).writeRefusal 0 fwImage = none := by
  have h1 : imageFormed fwImage = true := by decide +kernel
  have h2 : [1, 2, 3].all (fun k => sha384 (Fi.bytes fwImage k) == Fi.digest (Fi.ofKind fwImage k)) = true := by decide +kernel
  have h3 : bit ({} : FwState).revoked (Fi.keySlot fwImage) = false := by decide +kernel
  have h4 : ({} : FwState).svnOk fwImage = true ∧ ({} : FwState).valid 1 = true := by decide +kernel
  simp only [FwState.writeRefusal, FwState.imageSigned, h, h1, h2, h3, h4.1, h4.2]
  rfl
/-- Slots that are valid and whose root patch is the one in force; a counter above what the slots hold. -/
theorem wit_Fw_activate : ({} : FwState).valid 1 = true ∧
    Fi.digest (Fi.ofKind (({} : FwState).image 1) 1) = Fi.digest (Fi.ofKind ({} : FwState).rootHead 1) := by decide +kernel
/-- A slot as manufactured verifies; one marked not valid does not. -/
theorem wit_Fw_sound : ({} : FwState).sound 1 = true ∧ ({ validA := false, validB := false } : FwState).sound 0 = false ∧
    ({ validA := false, validB := false } : FwState).sound 1 = false := by decide +kernel
theorem wit_Fw_advance : (∀ k, k < 2 → ({} : FwState).valid k = true ∧ 0 ≤ Fi.rootSvn (({} : FwState).image k) ∧ 0 ≤ Fi.svcSvn (({} : FwState).image k)) ∧
    ¬ (1 ≤ Fi.rootSvn (({ rootSvn := 1 } : FwState).image 0)) := by decide +kernel
theorem wit_Fw_revoke : (0 ||| 2 ^ 3 ≠ 15) ∧ (7 ||| 2 ^ 3 = 15) ∧ ∀ j, j < 2 → Fi.keySlot (({} : FwState).image j) ≠ 3 := by decide +kernel
theorem wit_Fw_attest : carriesB (box State.reset 0x0601 36 0 (List.replicate 36 0)) pfA 0 (isCmd 0x0601) (fun q => fbits q.payload 32 31 5 == 0) = true := by
  decide +kernel
/-- 31 entries into the slot, and 65,536 into host memory. -/
theorem wit_Fw_journal : ∀ e, e ∈ [(0, 31), (4096, 65536)] →
    carriesB (box State.reset 0x0600 24 0 (record 24 [(8, 4, e.2), (16, 8, e.1)])) pfA 0 (isCmd 0x0600) (fun q =>
      fld q.payload 12 4 == 0 && fld q.payload 16 8 == e.1 && fld q.payload 8 4 == e.2) = true := by decide +kernel
/-- A challenge, and a token given without one. -/
theorem wit_Fw_debug : carriesB (box State.reset 0x0681 8 0 (List.replicate 8 0)) pfA 0 (isUnlock 0) (fun q => fld q.payload 0 8 == 0) = true ∧
    carriesB (box State.reset 0x0681 168 0 (record 168 [(0, 1, 1)])) pfA 0 (isUnlock 1) (fun q =>
      fbits q.payload 0 31 8 == 0 && fld q.payload 4 4 == 0 && fld (sub q.payload 8 160) 0 4 != 0x4B544744) = true := by decide +kernel
/-- The seal and the expiry at their bounds, with an entry and a lock to act on, and without. -/
theorem wit_Fw_due : let f : FwState := { unsealed := 255, debugScope := 3, debugExpires := 1000000000 }
    ∀ d, d ∈ [999999999, 1000000000] → let s : State := { State.reset with fw := f, time := { dtb := d } }
      (s.fw.unsealed < 256 ∧ s.dtb < s.fw.unsealedSince + 1000000000 ↔ d = 999999999) ∧ (s.fw.debugExpires ≤ s.dtb ↔ d = 1000000000) ∧
      s.fw.svcDown = false ∧ s.power.off = false ∧ s.pcie.held = false := by decide +kernel
theorem wit_Fw_sideband : let b := List.replicate 36 (0 : Byte)
    24 ≤ b.length ∧ fld b 12 4 = 0 ∧ fld b 16 8 = 0 ∧ 36 ≤ b.length ∧ fbits b 32 31 5 = 0 := by decide +kernel

/-! ## Faults and recovery -/

def im1' : Image := image (program 1 1 1 []) []
def recov (j : JobState) (r : RecState) : State := admitted im1' (fun x => { x with job := j, rcv := r })
/-- A report waits, and none does. -/
theorem wit_Fault_contained : ∀ n, n ∈ [0, 1] → let s := recov { running := true, reports := List.replicate n (0x40, 0, 5, 9) } {}
    (s.part 0).image = some im1' ∧ s.commit.waiting = [] ∧ (s.part 0).job.reports.length = n := by decide +kernel
/-- A point with two rollbacks to it, and with three. -/
def back (n : Nat) : State :=
  recov { stopped := true } { state := 1, points := [{ fp := 3, beat := 7, copy := 1, nextRequest := 0 }], ledger := List.replicate n (3, 0, 0) }
theorem wit_Fault_rollback : ∀ n, n ∈ [2, 3] → let x := (back n).part 0
    (back n).memHeld 0 = false ∧ x.image = some im1' ∧ x.job.stopped = true ∧ x.job.frozen = false ∧ x.rcv.state = 1 ∧ (back n).commit.waiting = [] ∧
    (x.rcv.points.filter (fun q => q.fp == 3 && (!x.rcv.replaced || q.isCkpt))).getLast?.isSome = true ∧
    3 = x.rcv.points.foldl (fun m t => max m t.fp) 0 ∧ (x.rcv.ledger.filter (fun e => e.1 == 3)).length = n := by decide +kernel
theorem wit_Fault_device : State.reset.dead = false ∧ State.reset.power.state < 2 ∧
    ({ State.reset with power := { fatalCause := 3 } } : State).power.fatalCause = 3 := by decide +kernel
theorem wit_Fault_lock : ∀ d, d ∈ [1000004, 1000005] → let s : State := { recov {} { locks := [(64, 2 ^ 32 - 1, 5)] } with time := { dtb := d } }
    s.memHeld 0 = false ∧ ({ s with shelves := [(0, { halted := true })] } : State).memHeld 0 = true ∧ (s.part 0).rcv.locks[0]? = some (64, 2 ^ 32 - 1, 5) ∧ (s.part 0).rcv.locks[1]? = none ∧ (5 + 1000000 ≤ s.dtb ↔ d = 1000005) := by decide +kernel
theorem wit_Fault_ckpt : ∀ d, d ∈ [8, 9] → let s : State := { recov { running := true } { ckptNext := 9 } with time := { dtb := d } }
    (s.part 0).image = some im1' ∧ (s.part 0).job.running = true ∧ (s.part 0).rcv.ckptAt = 0 ∧ s.rank 0 im1' = some 0 ∧ (s.part 0).rcv.ckptNext ≠ 0 ∧
    ((s.part 0).rcv.ckptNext ≤ s.dtb ↔ d = 9) ∧ [3, 4].filter (fun a => decide (0 + 4 ≤ a)) = [4] := by decide +kernel
/-- Two ranks in one tray, the buddy on port 15; region 1 holds one granule. -/
def buddyImage : Image := { image (program 1 2 1 []) [] with regions := [0, 0, 4096, 4096, 4096, 4096, 4096, 4096, 4096, 4096, 4096] }
def buddy (isCkpt : Bool) : State :=
  { State.reset with
    parts := [(0, { part1 buddyImage with ranks := some [0, 2 ^ 11], rcv := { points := [{ fp := 1, beat := 0, copy := 0, nextRequest := 0, isCkpt := isCkpt }] } })]
    ports := [(15, { state := 3, peer := some { (default : PeerInfo) with slot := 1 } })] }
theorem wit_Fault_drain : ∀ b, ((buddy b).part 0).image = some buddyImage ∧ (buddy b).buddyPort 0 = some 15 ∧ (buddy b).drains 0 = true ∧ (buddy b).memHeld 0 = false ∧
    ((buddy b).part 0).rcv.points.reverse = [{ fp := 1, beat := 0, copy := 0, nextRequest := 0, isCkpt := b }] ∧
    (calvedGranules buddyImage).find? (fun g => !([] : List Nat).contains g) = some 0 := by decide +kernel

/-! ## Resets -/

theorem wit_Reset_up : State.reset.dead = false ∧ State.reset.power.state < 2 ∧ State.reset.power.state ≠ 3 ∧ State.reset.pcie.link 0 = false ∧
    fnOk ⟨1, 16⟩ = true ∧ 9999 < Config.cores := by decide +kernel
theorem wit_Reset_ofPartition : ((admitted im1' id).partOf 0).isSome = true ∧ (admitted im1' id).dead = false ∧ (admitted im1' id).power.state < 2 := by
  decide +kernel
theorem wit_Reset_permafrost : ({ State.reset with power := { state := 3 } } : State).power.state = 3 ∧
    ({ State.reset with power := { state := 3 } } : State).dead = false := by decide +kernel
/-- A device that is off, and one that is held; a link that is up. -/
theorem wit_Reset_dead : ({ State.reset with power := { off := true } } : State).dead = true ∧
    ({ State.reset with pcie := { State.reset.pcie with held := true } } : State).pcie.held = true := by decide +kernel
/-- Power good alone, the clock alone. -/
theorem wit_Reset_cold : ∀ a b, let s : State := { State.reset with power := { off := true, pwrGood := a, refStable := b } }
    s.power.off = true ∧ s.power.pwrGood = a ∧ s.power.refStable = b := by decide +kernel
theorem wit_Reset_canonical : Cells.wf fnReset State.reset.fns = true ∧
    (let s := box State.reset 0x0012 0 0 []
     Cells.wf fnReset s.fns = true ∧ (∀ e, e ∈ s.fns → Cells.wf (fun _ => ({} : Slot)) e.2.slots = true) ∧
     carriesB s pfA 0 (isCmd 0x0012) (fun _ => (s.slot pfA 0).post && (s.slot pfA 0).ack && !(s.slot pfA 0).done) = true) := by decide +kernel
/-- Values staged that equal the committed ones, and a changed cap beside one. -/
def staged (l : List Staged) : State := { box State.reset 0x0010 0 0 [] with commit := { staged := l } }
theorem wit_Staged_equal : let s := staged [.position 0, .powerCap State.reset.cool.cap]
    carriesB s pfA 0 (isCmd 0x0010) (fun q => !s.commit.pending &&
      s.commit.staged.all (fun v => (s.begun pfA 0 q).commitRefusal v == none && s.committed v == v)) = true := by decide +kernel
theorem wit_Staged_changed : let s := staged [.leakShutdown (b2n State.reset.cool.leakShutdown), .powerCap 1000]
    carriesB s pfA 0 (isCmd 0x0010) (fun _ => s.commit.staged == [.leakShutdown (b2n s.cool.leakShutdown), .powerCap 1000] && s.cool.cap != 1000 &&
      decide (s.cool.cap < 65536) && decide (s.fw.journal.length + 2 ≤ journalCap)) = true := by decide +kernel

/-! ## The supply -/

theorem wit_Supply_shutdown : State.reset.mayShutDown 1 = true ∧ State.reset.mayShutDown 5 = false ∧
    ({ State.reset with cool := { leak := true, leakSince := some 0, leakShutdown := true }, time := { dtb := 1000000000 } } : State).mayShutDown 4 = true := by
  decide +kernel
theorem wit_Supply_leak : State.reset.power.off = false ∧ State.reset.cool.leak = false ∧
    ({ State.reset with cool := { leak := true } } : State).cool.leak = true := by decide +kernel
theorem wit_Supply_cap : State.reset.power.off = false ∧ State.reset.cool.capTick ≠ 99 := by decide +kernel
/-- A field whose step is 0, and one whose step is 2, at a temperature of each side of the bounds. -/
theorem wit_Supply_field : let s : State := { State.reset with cool := { fieldSteps := [0, 0, 0, 2], fieldBelow := [0, 0, 0, 9] } }
    s.cool.fieldSteps.length = 4 ∧ s.cool.fieldBelow.length = 4 ∧ s.power.off = false ∧ s.power.state < 2 ∧ s.cool.fieldSteps.getD 0 0 < fieldStep 950 ∧
    fieldStep 999 ≤ s.cool.fieldSteps.getD 3 0 ∧ (999 : Int) < stepBound 2 ∧ stepBound 0 ≤ 900 := by decide +kernel
theorem wit_Supply_frost : State.reset.dead = false ∧ State.reset.powerRefusal 3 = none ∧ State.reset.power.state ≤ 3 ∧
    ((admitted im1' id).powerRefusal 3).isSome = true := by decide +kernel
theorem wit_Supply_sensors : (List.replicate 33 (0 : Byte)).length = 33 ∧ List.replicate 32 (0 : Byte) ≠ [] := by decide +kernel
theorem wit_Supply_cable : (State.reset.port 15).cblHigh = false ∧ State.reset.dead = false ∧ State.reset.power.state ≠ 3 ∧
    (State.reset.port 15).disable = false := by decide +kernel

/-! ## Interrupts -/

theorem wit_Irq : let s := State.reset.setFn pfA { msixMask := 2 ^ 63, msixPend := 2 ^ 63 }
    bit (s.fn pfA).msixMask 63 = true ∧ bit (s.fn pfA).msixMask 0 = false ∧ bit (s.slot pfA 0).w3 6 = false ∧
    bit (s.fn pfA).msixMask (bits (s.slot pfA 0).w3 5 0) = false ∧ ((s.fn pfA).evqTail + 1) % 256 ≠ (s.fn pfA).evqHead ∧
    bit (s.fn pfA).msixPend 63 = true := by decide +kernel

end Sys2Proof.Tests
end

section
namespace Sys2Proof.Machine

/-! ## Folds -/

/-- What each turn of a loop leaves alone, the loop leaves alone. -/
theorem foldl_keeps {σ β α : Type} (π : σ → α) {f : σ → β → σ} (h : ∀ s b, π (f s b) = π s) (l : List β) (s : σ) :
    π (l.foldl f s) = π s := by
  induction l generalizing s with
  | nil => rfl
  | cons b r ih => rw [List.foldl_cons, ih, h]

/-- A loop whose turns change cores only changes cores only. -/
theorem foldl_coresOnly {β : Type} {f : State → β → State} (h : ∀ s b, f s b = { s with cores := (f s b).cores }) (l : List β) (s : State) :
    l.foldl f s = { s with cores := (l.foldl f s).cores } := by
  induction l generalizing s with
  | nil => rfl
  | cons b r ih => rw [List.foldl_cons, ih, h]

/-! ## Staged values and commits: what leaves them alone -/

section Commit
variable (s : State)

@[simp] theorem State.updCore_commit (c : Nat) (f : Core → Core) : (s.updCore c f).commit = s.commit := rfl
@[simp] theorem State.updSeq_commit (c : Nat) (f : Seq → Seq) : (s.updSeq c f).commit = s.commit := rfl
@[simp] theorem State.updPart_commit (p : Nat) (f : Partition → Partition) : (s.updPart p f).commit = s.commit := rfl
@[simp] theorem State.updJob_commit (p : Nat) (f : JobState → JobState) : (s.updJob p f).commit = s.commit := rfl
@[simp] theorem State.updRcv_commit (p : Nat) (f : RecState → RecState) : (s.updRcv p f).commit = s.commit := rfl
@[simp] theorem State.updWs_commit (p : Nat) (f : WeightState → WeightState) : (s.updWs p f).commit = s.commit := rfl
@[simp] theorem State.updLoad_commit (p : Nat) (f : Load → Load) : (s.updLoad p f).commit = s.commit := rfl
@[simp] theorem State.updShelf_commit (k : Nat) (f : Shelf → Shelf) : (s.updShelf k f).commit = s.commit := rfl
@[simp] theorem State.updPort_commit (k : Nat) (f : Port → Port) : (s.updPort k f).commit = s.commit := rfl
@[simp] theorem State.updChan_commit (k : Nat) (f : Channel → Channel) : (s.updChan k f).commit = s.commit := rfl
@[simp] theorem State.updPair_commit (k : Nat) (f : Pair → Pair) : (s.updPair k f).commit = s.commit := rfl
@[simp] theorem State.updSess_commit (k i : Nat) (f : Session → Session) : (s.updSess k i f).commit = s.commit := rfl
@[simp] theorem State.updGrp_commit (p g : Nat) (f : GroupState → GroupState) : (s.updGrp p g f).commit = s.commit := rfl
@[simp] theorem State.sendMsg_commit (p vc b : Nat) (m : List Byte) : (s.sendMsg p vc b m).commit = s.commit := rfl
@[simp] theorem State.sendLoad_commit (p port : Nat) (im : Image) (d : List Byte) (k c r : Nat) (b : List Byte) :
    (s.sendLoad p port im d k c r b).commit = s.commit := rfl
@[simp] theorem State.timeRefresh_commit : s.timeRefresh.commit = s.commit := rfl

@[simp] theorem State.event_commit (e : Event) : (s.event e).commit = s.commit := by rw [State.event_frame]
@[simp] theorem State.complete_commit (f : Fn) (n st d : Nat) (r : List Byte) : (s.complete f n st d r).commit = s.commit := by
  rw [State.complete_frame]
@[simp] theorem State.storeAt_commit (p cls : Nat) (lift : Bool) (x : Nat) (bs : List Byte) :
    (s.storeAt p cls lift x bs).commit = s.commit := by rw [State.storeAt_frame]
@[simp] theorem State.storeX_commit (p x : Nat) (bs : List Byte) : (s.storeX p x bs).commit = s.commit := s.storeAt_commit _ _ _ _ _
@[simp] theorem State.calve_commit (p x : Nat) : (s.calve p x).commit = s.commit := by rw [State.calve_frame]
@[simp] theorem State.storeByte_commit (p cls a : Nat) (b : Byte) : (s.storeByte p cls a b).commit = s.commit := by
  rw [(s.storeByte_spec p cls a b).1.eq]

end Commit

/-- Completing a command where it still waits changes functions and what the module sends. -/
theorem State.completeIf_frame (s : State) (f : Fn) (n post st d : Nat) (r : List Byte) :
    s.completeIf f n post st d r = { s with fns := (s.completeIf f n post st d r).fns, out := (s.completeIf f n post st d r).out } := by
  unfold State.completeIf
  dsimp only
  split
  · exact s.complete_frame f n st d r
  · rfl
@[simp] theorem State.completeIf_commit (s : State) (f : Fn) (n post st d : Nat) (r : List Byte) :
    (s.completeIf f n post st d r).commit = s.commit := by rw [State.completeIf_frame]

@[simp] theorem State.endLoad_commit (s : State) (p st w : Nat) (down : Bool) : (s.endLoad p st w down).commit = s.commit := by
  unfold State.endLoad
  split
  · rename_i l _ _
    cases l.comp <;> simp [apply_ite State.commit]
  · rfl

@[simp] theorem State.closeSession_commit (s : State) (k i st : Nat) : (s.closeSession k i st).commit = s.commit := by
  unfold State.closeSession
  dsimp only
  split
  · rfl
  · split <;> simp [foldl_keeps State.commit]

@[simp] theorem State.closeSessions_commit (s : State) (p st : Nat) : (s.closeSessions p st).commit = s.commit :=
  foldl_keeps State.commit (fun s e => by split <;> simp) _ s

@[simp] theorem State.endPending_commit (s : State) (p st : Nat) : (s.endPending p st).commit = s.commit := by
  unfold State.endPending
  dsimp only
  split
  all_goals
    simp only [State.endLoad_commit, State.updPart_commit, State.completeIf_commit, State.updJob_commit]
    exact foldl_keeps State.commit (fun s q => by simp) _ s

@[simp] theorem State.storeRun_commit (p : Nat) (bs : List Byte) : ∀ (s : State) (a : Nat), (s.storeRun p a bs).commit = s.commit := by
  induction bs with
  | nil => exact fun _ _ => rfl
  | cons b r ih => intro s a; simp [State.storeRun, ih]

@[simp] theorem State.storeF_commit (s : State) (p a : Nat) (bs : List Byte) : (s.storeF p a bs).commit = s.commit := by
  unfold State.storeF
  dsimp only
  split <;> simp

/-- A store that takes place where a region is found. -/
theorem State.storeF_found_commit (s : State) (p : Nat) (o : Option Region) (a : Region → Nat) (bs : Region → List Byte) :
    (match o with | some g => s.storeF p (a g) (bs g) | none => s).commit = s.commit := by
  split
  · exact State.storeF_commit _ _ _ _
  · rfl

@[simp] theorem State.zeroRecords_commit (s : State) (p k : Nat) : (s.zeroRecords p k).commit = s.commit := by
  unfold State.zeroRecords
  dsimp only
  rw [foldl_keeps State.commit, foldl_keeps State.commit]
  · exact fun s o => s.storeF_found_commit p _ (fun g => g.recAt o.2) (fun _ => leBytes 64 0)
  · exact fun s o => s.storeF_found_commit p _ (fun g => g.ordAt o.2.1) (fun g => leBytes (16 + 4 * g.expect) 0)

@[simp] theorem State.zeroBanks_commit (s : State) (p g : Nat) : (s.zeroBanks p g).commit = s.commit := by
  unfold State.zeroBanks
  repeat' split
  all_goals simp

@[simp] theorem State.clearPart_commit (s : State) (p : Nat) : (s.clearPart p).commit = s.commit := by
  unfold State.clearPart
  dsimp only
  rw [foldl_keeps State.commit (fun s g => by split <;> simp), foldl_keeps State.commit (fun s v => by simp),
    foldl_keeps State.commit (fun s k => by simp), foldl_keeps State.commit (fun s k => by simp)]

/-! ## Applying a staged value -/

theorem State.reroute_frame (s : State) (g : Geometry) : s.reroute g = { s with pcie := (s.reroute g).pcie } := by
  unfold State.reroute
  split <;> rfl

theorem State.loadCores_frame (s : State) (p : Nat) (im : Image) : s.loadCores p im = { s with cores := (s.loadCores p im).cores } :=
  foldl_coresOnly (fun s k => by split <;> rfl) _ s

theorem State.moveCores_frame (s old : State) (p : Nat) (im : Image) :
    s.moveCores old p im = { s with cores := (s.moveCores old p im).cores } := by
  have vacate := foldl_coresOnly (f := fun (s : State) c => s.updCore c Core.vacate) (fun _ _ => rfl) (geoCores (old.part p).geo) s
  unfold State.moveCores
  dsimp only
  split
  · rw [foldl_coresOnly (fun s k => by split <;> rfl), vacate]
  · rw [State.loadCores_frame, vacate]

/-- Writing a partition's isolation registers changes partitions, cores and routes. -/
theorem State.applyPart_frame (s : State) (r : List Byte) :
    s.applyPart r = { s with parts := (s.applyPart r).parts, cores := (s.applyPart r).cores, pcie := (s.applyPart r).pcie } := by
  unfold State.applyPart
  dsimp only
  split
  · split
    · rw [State.moveCores_frame, State.reroute_frame]; rfl
    · rw [State.reroute_frame]; rfl
  · rw [State.reroute_frame]; rfl

/-- Giving a shelf's ways changes HBM and the shelf. -/
theorem State.applyWays_frame (s : State) (k p m : Nat) :
    s.applyWays k p m = { s with hbm := (s.applyWays k p m).hbm, shelves := (s.applyWays k p m).shelves } := by
  have back : ∀ (l : List CacheLine) (s : State), l.foldl (fun s l => s.writeBack (lineBase k l.line) l) s =
      { s with hbm := (l.foldl (fun s l => s.writeBack (lineBase k l.line) l) s).hbm } := by
    intro l
    induction l with
    | nil => exact fun _ => rfl
    | cons b r ih => intro s; rw [List.foldl_cons, ih, State.writeBack_frame]
  unfold State.applyWays
  dsimp only
  rw [back]
  rfl

theorem State.slot_of_fns {s t : State} (h : t.fns = s.fns) (g : Fn) (m : Nat) : t.slot g m = s.slot g m := by
  unfold State.slot State.fn
  rw [h]

/-- Writing a function but for its slots leaves every slot. -/
theorem State.slot_setFn_slots (s : State) (f g : Fn) (x : FnState) (m : Nat) (h : x.slots = (s.fn f).slots) :
    (s.setFn f x).slot g m = s.slot g m := by
  unfold State.slot
  rw [State.fn_setFn]
  split
  · rename_i hg
    unfold State.fn at h ⊢
    rw [h, hg]
  · rfl

@[simp] theorem State.eventTo_slot (s : State) (b : List Byte) (f g : Fn) (m : Nat) : (s.eventTo b f).slot g m = s.slot g m := by
  unfold State.eventTo
  dsimp only
  split
  · exact State.slot_setFn_slots _ _ _ _ _ rfl
  · rw [State.irq_slot]
    exact State.slot_setFn_slots _ _ _ _ _ rfl

@[simp] theorem State.event_slot (s : State) (e : Event) (g : Fn) (m : Nat) : (s.event e).slot g m = s.slot g m :=
  foldl_keeps (fun s : State => s.slot g m) (fun _ _ => State.eventTo_slot _ _ _ _ _) _ s

/-- A port that a new position makes miscabled is set down, journalled and reported. -/
theorem State.recheckPorts_keeps {α : Type} (π : State → α) (port : ∀ (t : State) p x, π (t.setPort p x) = π t)
    (journal : ∀ (t : State) st p f b, π (t.jEvent st p f b) = π t) (event : ∀ (t : State) e, π (t.event e) = π t) (s : State) :
    π s.recheckPorts = π s :=
  foldl_keeps π (fun s p => by
    dsimp only
    split
    · rfl
    · split
      · rfl
      · split
        · rw [State.linkEvent, event, journal, port]
        · exact port _ _ _) _ s
theorem State.recheckPorts_commit (s : State) : s.recheckPorts.commit = s.commit :=
  s.recheckPorts_keeps State.commit (fun _ _ _ => rfl) (fun _ _ _ _ _ => rfl) (fun _ _ => State.event_commit _ _)
theorem State.recheckPorts_slot (s : State) (g : Fn) (m : Nat) : s.recheckPorts.slot g m = s.slot g m :=
  s.recheckPorts_keeps (fun t => t.slot g m) (fun _ _ _ => rfl) (fun _ _ _ _ _ => rfl) (fun _ _ => State.event_slot _ _ _ _)

end Sys2Proof.Machine
end

section
namespace Sys2Proof.Machine

/-- Applying a value touches nothing of the commit itself. -/
@[simp] theorem State.applyStaged_commit (s : State) (v : Staged) : (s.applyStaged v).commit = s.commit := by
  cases v with
  | position v => simp [State.applyStaged, State.recheckPorts_commit]
  | part r => rw [State.applyStaged, State.applyPart_frame]
  | ways k r => rw [State.applyStaged, State.applyWays_frame]
  | cyclic side => rw [State.applyStaged]; split <;> rfl
  | _ => simp [State.applyStaged]

theorem State.timeRefresh_slot (s : State) (g : Fn) (m : Nat) : s.timeRefresh.slot g m = s.slot g m := rfl

/-- Nor any mailbox slot: what it sends are events. -/
@[simp] theorem State.applyStaged_slot (s : State) (v : Staged) (g : Fn) (m : Nat) : (s.applyStaged v).slot g m = s.slot g m := by
  cases v with
  | position v => rw [State.applyStaged, State.timeRefresh_slot, State.recheckPorts_slot]; rfl
  | part r => exact State.slot_of_fns (by rw [State.applyStaged, State.applyPart_frame]) g m
  | ways k r => exact State.slot_of_fns (by rw [State.applyStaged, State.applyWays_frame]) g m
  | cyclic side => exact State.slot_of_fns (by rw [State.applyStaged]; split <;> rfl) g m
  | _ => exact State.slot_of_fns (by rfl) g m

/-- A loop whose turns change the firmware's state only changes that only. -/
theorem foldl_fwOnly {β : Type} {f : State → β → State} (h : ∀ s b, f s b = { s with fw := (f s b).fw }) (l : List β) (s : State) :
    l.foldl f s = { s with fw := (l.foldl f s).fw } := by
  induction l generalizing s with
  | nil => rfl
  | cons b r ih => rw [List.foldl_cons, ih, h]

/-- Journalling a value's changed fields changes the firmware's state only. -/
theorem State.journalStaged_frame (s : State) (src func : Nat) (v : Staged) :
    s.journalStaged src func v = { s with fw := (s.journalStaged src func v).fw } := by
  unfold State.journalStaged
  refine foldl_fwOnly (fun s e => ?_) _ s
  dsimp only
  split <;> (split <;> rfl)

/-! ## Closing a commit -/

/-- The last unit has applied: nothing is pending, and COMMIT_GEN has advanced (R478). -/
theorem State.closeCommit_commit (s : State) (last : List Byte) : (s.closeCommit last).commit =
    { s.commit with pending := false, mixed := false, later := false, gen := (s.commit.gen + 1) % 2 ^ 32 } := by
  have journalled : ∀ (b : Bool) (r : JEntry), (if b then s.journal r else s).commit = s.commit := fun b r => by cases b <;> rfl
  have regraded : ∀ (b : Bool) (t u : State) (e : Event), u.commit = t.commit → (if b then u.event e else t).commit = t.commit :=
    fun b t u e h => by
      cases b
      · rfl
      · exact (State.event_commit u e).trans h
  unfold State.closeCommit
  dsimp only
  split
  · rw [State.completeIf_commit, regraded _ _ _ _ (by rfl)]
    dsimp only
    rw [journalled]
  · rw [regraded _ _ _ _ (by rfl)]
    dsimp only
    rw [journalled]

/-- The parts that fall due apply; what is staged stays. -/
theorem State.applyDue_staged (s : State) (due : Nat → Bool) (b : Nat) : (s.applyDue due b).commit.staged = s.commit.staged := by
  have apply : ∀ (l : List (Nat × Staged)) (s : State), (l.foldl (fun s e => s.applyStaged e.2) s).commit = s.commit :=
    foldl_keeps State.commit (fun s e => s.applyStaged_commit e.2)
  unfold State.applyDue
  dsimp only
  split
  · rfl
  · split
    · rw [State.closeCommit_commit, apply]
    · rw [apply]
theorem State.releaseUnits_staged (s : State) : s.releaseUnits.commit.staged = s.commit.staged := s.applyDue_staged _ _

/-- Retiring an image may let units apply a commit that waits; what is staged stays. -/
theorem State.retireImage_staged (s : State) (p st : Nat) : (s.retireImage p st).commit.staged = s.commit.staged := by
  unfold State.retireImage
  split
  · rfl
  · dsimp only
    rw [State.releaseUnits_staged, State.updPart_commit, foldl_keeps State.commit (fun s k => by simp),
      foldl_keeps State.commit (fun s g => by simp), foldl_keeps State.commit (fun s v => by simp),
      foldl_keeps State.commit (fun s c => by simp)]
    simp

/-! ## Every reset drops what is staged (R9) -/

theorem State.clearStamps_commit (s : State) (hit : Nat → Bool) : (s.clearStamps hit).commit = s.commit := by
  unfold State.clearStamps
  exact foldl_keeps State.commit (fun s f => by rfl) _ s

theorem State.resetCore_staged (s : State) (c : Nat) : (s.resetCore c).commit.staged = [] := by
  unfold State.resetCore
  dsimp only
  rw [State.clearStamps_commit]

@[simp] theorem State.abortLoads_commit (s : State) (f : Fn) : (s.abortLoads f).commit = s.commit :=
  foldl_keeps State.commit (fun s p => by
    repeat' split
    all_goals simp) _ s

theorem State.functionReset_staged (s : State) (f : Fn) : (s.functionReset f).commit.staged = [] := by
  unfold State.functionReset
  dsimp only
  rw [State.abortLoads_commit]
  split <;> simp

/-- The last of a port's functions to be reset leaves nothing staged. -/
theorem State.portReset_staged (s : State) (port : Nat) : (s.portReset port).commit.staged = [] := by
  unfold State.portReset
  rw [List.range_succ, List.foldl_append, List.foldl_cons, List.foldl_nil, State.functionReset_staged]

theorem State.leavePermafrost_staged (s : State) : s.leavePermafrost.commit.staged = [] := by
  unfold State.leavePermafrost
  simp only [State.timeRefresh_commit, State.portReset_staged]

@[simp] theorem State.deviceStop_commit (s : State) (cause : Nat) : (s.deviceStop cause).commit = {} := rfl
@[simp] theorem State.boot_commit (s : State) : s.boot.commit = s.commit := rfl
theorem State.deviceReset_commit (s : State) (cause d : Nat) : (s.deviceReset cause d).commit = {} := by
  unfold State.deviceReset
  dsimp only
  rw [State.event_commit, State.boot_commit, State.deviceStop_commit]

theorem exec_partReset (f : Fn) (n : Nat) (s : State) : exec (.partReset f n) s = execPartReset f n s := rfl

/-- What a partition reset ends with: the staged values are gone before the image goes, and nothing after that stages one. -/
theorem State.retired_staged (s : State) (f : Fn) (n p st : Nat) (q : Slot) (h : s.commit.staged = []) :
    (((s.retireImage p st).jDo f q).complete f n Config.stOk 0 []).commit.staged = [] := by
  rw [State.complete_commit, State.jDo, State.jCmd_commit, State.retireImage_staged, h]

/-- PART_RESET in two strokes: what is staged goes, then the image retires and the command completes (R470). -/
theorem partReset_eq {s : State} {f : Fn} {n : Nat} {q : Slot} (h : s.Carries f n (isCmd 0x0208) q) :
    ∃ s2 : State, exec (.partReset f n) s = .next (((({ s2 with commit := { s2.commit with staged := [] } } : State).retireImage q.part
      Config.stAbortedReset).jDo f q).complete f n Config.stOk 0 []) := by
  rw [exec_partReset, execPartReset, command_carries h]
  exact ⟨_, rfl⟩

end Sys2Proof.Machine
end

section
namespace Sys2Proof.Machine

/-! ## A command that has its turn -/

/-- What stands in the slot of a command that has its turn. -/
theorem State.Carries.slot_eq {s : State} {f : Fn} {n : Nat} {is : Slot → Bool} {q : Slot} (h : s.Carries f n is q) :
    s.slot f n = q ∧ q.post = true ∧ q.ack = true ∧ q.done = false ∧ s.served n q = true := by
  have turn := h.turn
  unfold State.turn at turn
  dsimp only at turn
  split at turn
  · rename_i c
    cases turn
    simp only [Bool.and_eq_true, Bool.not_eq_true'] at c
    obtain ⟨⟨⟨⟨⟨⟨⟨hp, ha⟩, hd⟩, -⟩, -⟩, hs⟩, -⟩, -⟩ := c
    exact ⟨rfl, hp, ha, hd, hs⟩
  · cases turn

/-- A command that has its turn runs while hosts reach the device. -/
theorem State.Carries.hostUp {s : State} {f : Fn} {n : Nat} {is : Slot → Bool} {q : Slot} (h : s.Carries f n is q) : s.hostUp = true := by
  have served := h.slot_eq.2.2.2.2
  unfold State.served at served
  simp only [Bool.and_eq_true] at served
  exact served.1

/-- The slot of a command that has begun. -/
@[simp] theorem State.begun_slot (s : State) (f : Fn) (n : Nat) (q : Slot) : (s.begun f n q).slot f n = { q with begun := true } :=
  s.slot_setSlot_self f n _
/-- Marking a slot as begun changes nothing of its function but its slots. -/
theorem State.fn_begun (s : State) (f : Fn) (n : Nat) (q : Slot) :
    (s.begun f n q).fn f = { s.fn f with slots := Cells.put (fun _ => {}) (s.fn f).slots n { q with begun := true } } := s.fn_setSlot f n _

/-- A command that still stands in its slot completes. -/
theorem State.completeIf_waiting {s : State} {f : Fn} {n : Nat} {q : Slot} (h : s.slot f n = q) (hp : q.post = true) (ha : q.ack = true)
    (hd : q.done = false) (st d : Nat) (r : List Byte) : s.completeIf f n q.postDtb st d r = s.complete f n st d r := by
  simp [State.completeIf, h, hp, ha, hd]

/-! ## An accepted commit (R477 to R480) -/

/-- The values of a snapshot whose committed value differs. -/
def State.changedOf (s : State) (snap : List Staged) : List Staged := snap.filter (fun v => s.committed v != v)
/-- Their parts, unit by unit. -/
def State.partsIn (s : State) (snap : List Staged) : List Staged := ((s.changedOf snap).map s.partsOf).flatten
/-- Whether a part waits for the beat boundary of its unit. -/
def State.defers (s : State) (v : Staged) : Bool := match v.unit with | some u => s.serves u | none => false
/-- What acceptance does at once: changed fields are journalled, and every part that waits for no unit applies. -/
def State.acceptNow (s : State) (src func : Nat) (snap : List Staged) : State :=
  ((s.partsIn snap).filter (fun v => !s.defers v)).foldl (fun s v => s.applyStaged v)
    ((s.changedOf snap).foldl (fun s v => s.journalStaged src func v) s)
/-- The commit's own record at acceptance. -/
def State.acceptedCommit (s : State) (c : CommitState) (snap : List Staged) (cmd : Option (Fn × Nat × Nat)) (regrade : Bool) : CommitState :=
  let later := ((s.partsIn snap).filter s.defers).map (fun v => (v.unit.getD 0, v))
  let now := (s.partsIn snap).filter (fun v => !s.defers v)
  { c with
    pending := true
    waiting := later
    later := !later.isEmpty
    mixed := !later.isEmpty && !now.isEmpty
    firstRec := if now.isEmpty then [] else s.applyRec 0xFFFFFFFFFFFF
    cmd := cmd
    regrade := regrade }
/-- The state in which a commit stands accepted and not closed. -/
def State.accepted (s : State) (src func : Nat) (snap : List Staged) (cmd : Option (Fn × Nat × Nat)) (regrade : Bool) : State :=
  { s.acceptNow src func snap with commit := s.acceptedCommit (s.acceptNow src func snap).commit snap cmd regrade }

/-- A commit closes at once where no part of it waits. -/
theorem State.accept_eq (s : State) (src func : Nat) (snap : List Staged) (cmd : Option (Fn × Nat × Nat)) (regrade : Bool) :
    s.accept src func snap cmd regrade =
      if (((s.partsIn snap).filter s.defers).map (fun v => (v.unit.getD 0, v))).isEmpty then
        (s.accepted src func snap cmd regrade).closeCommit (s.applyRec 0xFFFFFFFFFFFF)
      else s.accepted src func snap cmd regrade := rfl

/-- While no partition runs, no unit serves a beat plan. -/
theorem State.serves_of_not_running {s : State} (h : ∀ p, p < 16 → (s.part p).job.running = false) (u : Nat) : s.serves u = false := by
  unfold State.serves
  rw [List.any_eq_false]
  intro p hp
  simp [h p (List.mem_range.1 hp)]
theorem State.defers_of_not_running {s : State} (h : ∀ p, p < 16 → (s.part p).job.running = false) (v : Staged) : s.defers v = false := by
  unfold State.defers
  split
  · exact State.serves_of_not_running h _
  · rfl

/-- With nothing that waits, the commit closes at its acceptance. -/
theorem State.accept_at_once {s : State} {snap : List Staged} (h : ∀ v, v ∈ s.partsIn snap → s.defers v = false) (src func : Nat)
    (cmd : Option (Fn × Nat × Nat)) (regrade : Bool) :
    s.accept src func snap cmd regrade = (s.accepted src func snap cmd regrade).closeCommit (s.applyRec 0xFFFFFFFFFFFF) ∧
      (s.accepted src func snap cmd regrade).commit.later = false := by
  have none : (s.partsIn snap).filter s.defers = [] := List.filter_eq_nil_iff.2 (fun v hv => by simp [h v hv])
  rw [State.accept_eq]
  simp [none, State.accepted, State.acceptedCommit]

/-- What each turn of a loop over a list leaves alone, the loop leaves alone. -/
theorem foldl_keeps_mem {σ β α : Type} (π : σ → α) {f : σ → β → σ} {l : List β} (h : ∀ s, ∀ b, b ∈ l → π (f s b) = π s) (s : σ) :
    π (l.foldl f s) = π s := by
  induction l generalizing s with
  | nil => rfl
  | cons b r ih => rw [List.foldl_cons, ih (fun s c hc => h s c (List.mem_cons_of_mem b hc)), h s b (List.mem_cons_self ..)]

/-- What journalling and every part's application leave alone, acceptance leaves alone. -/
theorem State.acceptNow_keeps {α : Type} (π : State → α) {s : State} {src func : Nat} {snap : List Staged}
    (hj : ∀ t v, π (State.journalStaged t src func v) = π t) (ha : ∀ t v, v ∈ s.partsIn snap → π (State.applyStaged t v) = π t) :
    π (s.acceptNow src func snap) = π s := by
  unfold State.acceptNow
  rw [foldl_keeps_mem π (fun t v hv => ha t v (List.mem_filter.1 hv).1), foldl_keeps π hj]
@[simp] theorem State.acceptNow_commit (s : State) (src func : Nat) (snap : List Staged) : (s.acceptNow src func snap).commit = s.commit :=
  State.acceptNow_keeps State.commit (fun t v => by rw [State.journalStaged_frame]) (fun t v _ => t.applyStaged_commit v)
@[simp] theorem State.acceptNow_slot (s : State) (src func : Nat) (snap : List Staged) (g : Fn) (m : Nat) :
    (s.acceptNow src func snap).slot g m = s.slot g m :=
  State.acceptNow_keeps (fun t => t.slot g m) (fun t v => State.slot_of_fns (by rw [State.journalStaged_frame]) g m)
    (fun t v _ => t.applyStaged_slot v g m)

/-- A commit's record once it has closed. -/
def CommitState.closed (c : CommitState) : CommitState := { c with pending := false, mixed := false, later := false, gen := (c.gen + 1) % 2 ^ 32 }

/-- A plain commit of which no part was late ends with its command. -/
theorem State.closeCommit_plain {s : State} {f : Fn} {n post : Nat} (hl : s.commit.later = false) (hr : s.commit.regrade = false)
    (hc : s.commit.cmd = some (f, n, post)) (last : List Byte) :
    s.closeCommit last = ({ s with commit := s.commit.closed } : State).completeIf f n post Config.stOk 0 [] := by
  simp [State.closeCommit, hl, hr, hc, CommitState.closed]

/-! ## COMMIT -/

/-- The state whose staged copy a COMMIT has taken as its snapshot. -/
def State.snapped (s : State) : State := { s with commit := { s.commit with staged := [] } }

@[simp] theorem State.snapped_fw (s : State) : s.snapped.fw = s.fw := rfl
@[simp] theorem State.snapped_cool (s : State) : s.snapped.cool = s.cool := rfl

theorem exec_commit (f : Fn) (n : Nat) (s : State) : exec (.commit f n) s = execCommit f n s := rfl

/-- A COMMIT whose turn has come and of which no value is refused is accepted (R477). -/
theorem commit_accepts {s : State} {f : Fn} {n : Nat} {q : Slot} (h : s.Carries f n (isCmd 0x0010) q) (hp : s.commit.pending = false)
    (hr : ∀ v, v ∈ s.commit.staged → (s.begun f n q).commitRefusal v = none) :
    exec (.commit f n) s =
      .next ((s.begun f n q).snapped.accept f.port (jFunc f) s.commit.staged (some (f, n, q.postDtb)) false) := by
  rw [exec_commit, execCommit, command_carries h]
  have none : s.commit.staged.findSome? (s.begun f n q).commitRefusal = none := List.findSome?_eq_none_iff.2 hr
  simp [hp, none, State.snapped]

/-- With nothing that waits for a unit, it completes at once. -/
theorem commit_completes {s : State} {f : Fn} {n : Nat} {q : Slot} (h : s.Carries f n (isCmd 0x0010) q) (hp : s.commit.pending = false)
    (hr : ∀ v, v ∈ s.commit.staged → (s.begun f n q).commitRefusal v = none)
    (hd : ∀ v, v ∈ (s.begun f n q).snapped.partsIn s.commit.staged → (s.begun f n q).snapped.defers v = false) :
    ∃ u : State, u = (s.begun f n q).snapped.acceptNow f.port (jFunc f) s.commit.staged ∧ ∃ c : CommitState, c.staged = [] ∧
      c.pending = false ∧ c.gen = (s.commit.gen + 1) % 2 ^ 32 ∧
      exec (.commit f n) s = .next (({ u with commit := c } : State).complete f n Config.stOk 0 []) := by
  obtain ⟨-, hpost, hack, hdone, -⟩ := h.slot_eq
  obtain ⟨he, hl⟩ := State.accept_at_once hd f.port (jFunc f) (some (f, n, q.postDtb)) false
  refine ⟨_, rfl, ((s.begun f n q).snapped.accepted f.port (jFunc f) s.commit.staged (some (f, n, q.postDtb)) false).commit.closed, ?_, rfl, ?_, ?_⟩
  · simp [State.accepted, State.acceptedCommit, CommitState.closed, State.snapped]
  · simp [State.accepted, State.acceptedCommit, CommitState.closed, State.snapped]
  · rw [commit_accepts h hp hr, he, State.closeCommit_plain hl rfl rfl]
    have slot : ∀ c, State.slot { (s.begun f n q).snapped.acceptNow f.port (jFunc f) s.commit.staged with commit := c } f n =
        { q with begun := true } := fun c =>
      ((s.begun f n q).snapped.acceptNow_slot f.port (jFunc f) s.commit.staged f n).trans (s.begun_slot f n q)
    exact congrArg _ (State.completeIf_waiting (slot _) hpost hack hdone _ _ _)

/-- Values that equal their committed values have no part to apply (R9). -/
theorem State.changedOf_of_same {s : State} {snap : List Staged} (h : ∀ v, v ∈ snap → s.committed v = v) : s.changedOf snap = [] :=
  List.filter_eq_nil_iff.2 (fun v hv => by simp [h v hv])
/-- What is committed does not depend on the slots nor on the staged copy. -/
theorem State.snapped_committed (s : State) (f : Fn) (n : Nat) (q : Slot) (v : Staged) :
    (s.begun f n q).snapped.committed v = s.committed v := by cases v <;> rfl

/-- A commit of unchanged values completes and leaves the journal alone (R9). -/
theorem commit_unchanged {s : State} {f : Fn} {n : Nat} {q : Slot} (h : s.Carries f n (isCmd 0x0010) q) (hp : s.commit.pending = false)
    (hr : ∀ v, v ∈ s.commit.staged → (s.begun f n q).commitRefusal v = none) (hs : ∀ v, v ∈ s.commit.staged → s.committed v = v) :
    ∃ t, exec (.commit f n) s = .next t ∧ t.fw = s.fw ∧ t.Completed f n Config.stOk [] := by
  have same : (s.begun f n q).snapped.changedOf s.commit.staged = [] :=
    State.changedOf_of_same (fun v hv => (s.snapped_committed f n q v).trans (hs v hv))
  have no_part : (s.begun f n q).snapped.partsIn s.commit.staged = [] := by simp [State.partsIn, same]
  obtain ⟨u, hu, c, -, -, -, e⟩ := commit_completes h hp hr (by simp [no_part])
  have hfw : u.fw = s.fw := by simp [hu, State.acceptNow, no_part, same]
  exact ⟨_, e, by rw [State.complete_frame]; exact hfw, State.complete_completed _ _ _ _ _ _⟩

/-! ## A changed power cap -/

/-- Two bytes tell two values below 65,536 apart. -/
theorem leBytes_two_ne {v w : Nat} (hv : v < 65536) (hw : w < 65536) (h : v ≠ w) : leBytes 2 v ≠ leBytes 2 w := by
  intro e
  have := congrArg leNat e
  rw [leNat_leBytes, leNat_leBytes, Nat.mod_eq_of_lt (by omega), Nat.mod_eq_of_lt (by omega)] at this
  exact h this

/-- A value of one field that differs from the committed one makes one entry. -/
theorem State.journalStaged_one {s : State} {v : Staged} {x y : Nat × Nat × Nat × List Byte} (hv : v.fields = [x])
    (ho : (s.committed v).fields = [y]) (hne : y.2.2.2 ≠ x.2.2.2) (src func : Nat) : ∃ e, s.journalStaged src func v = s.journal e := by
  unfold State.journalStaged
  simp only [hv, ho, List.zipIdx_cons, List.zipIdx_nil, List.foldl_cons, List.foldl_nil, List.getElem?_cons_zero, if_neg hne]
  exact ⟨_, rfl⟩

/-- An entry that the ring has room for takes the next sequence number. -/
theorem State.journal_nextSeq {s : State} (h : s.fw.journal.length + 2 ≤ journalCap) (e : JEntry) :
    (s.journal e).fw.nextSeq = s.fw.nextSeq + 1 := by
  rcases s.fw.append_cases { e with dtb := s.dtb } with ⟨-, eq⟩ | ⟨full, -⟩
  · simp [State.journal, FwState.nextSeq, eq, Nat.add_assoc]
  · omega

/-- One that stages an unchanged value beside a changed power cap makes one entry, and the cap is in force (R9, R479). -/
theorem commit_changed_cap {s : State} {f : Fn} {n w : Nat} {q : Slot} (h : s.Carries f n (isCmd 0x0010) q) (hp : s.commit.pending = false)
    (hs : s.commit.staged = [.leakShutdown (b2n s.cool.leakShutdown), .powerCap w]) (hw : leBytes 2 s.cool.cap ≠ leBytes 2 w)
    (hroom : s.fw.journal.length + 2 ≤ journalCap) :
    ∃ t, exec (.commit f n) s = .next t ∧ t.fw.nextSeq = s.fw.nextSeq + 1 ∧ t.cool.cap = w := by
  have hne : s.cool.cap ≠ w := fun e => hw (by rw [e])
  have changed : (s.begun f n q).snapped.changedOf s.commit.staged = [.powerCap w] := by
    simp [State.changedOf, hs, State.committed, hne]
  have parts : (s.begun f n q).snapped.partsIn s.commit.staged = [.powerCap w] := by simp [State.partsIn, changed, State.partsOf]
  obtain ⟨u, hu, c, -, -, -, e⟩ := commit_completes h hp (by simp [hs, State.commitRefusal]) (by simp [parts, State.defers, Staged.unit])
  obtain ⟨je, hj⟩ := State.journalStaged_one (s := (s.begun f n q).snapped) (v := .powerCap w) rfl rfl hw f.port (jFunc f)
  have hu2 : u = (((s.begun f n q).snapped.journal je).applyStaged (.powerCap w)) := by
    simp [hu, State.acceptNow, parts, changed, State.defers, Staged.unit, hj]
  refine ⟨_, e, ?_, ?_⟩
  · rw [State.complete_frame, hu2]
    exact State.journal_nextSeq (s := (s.begun f n q).snapped) hroom je
  · rw [State.complete_frame, hu2]
    rfl

/-! ## The resets' rows -/

theorem exec_coreReset (c : Nat) (s : State) : exec (.coreReset c) s = execCoreReset c s := rfl
theorem exec_deviceReset (f : Fn) (n : Nat) (s : State) : exec (.deviceReset f n) s = execDeviceReset f n s := rfl
theorem exec_perstBoth (s : State) : exec .perstBoth s = execPerstBoth s := rfl
theorem exec_deviceFatalFault (c : Nat) (s : State) : exec (.deviceFatalFault c) s = execDeviceFatalFault c s := rfl
theorem exec_functionReset (f : Fn) (s : State) : exec (.functionReset f) s = execFunctionReset f s := rfl
theorem exec_pcieLinkUp (p : Nat) (s : State) : exec (.pcieLinkUp p) s = execPcieLinkUp p s := rfl
theorem exec_shutdownCause (c : Nat) (s : State) : exec (.shutdownCause c) s = execShutdownCause c s := rfl

/-- A DEVICE_RESET whose turn has come resets the device. -/
theorem deviceReset_carries {s : State} {f : Fn} {n : Nat} {q : Slot} (h : s.Carries f n (isCmd 0x0012) q) :
    exec (.deviceReset f n) s = .next ((s.begun f n q).deviceReset 2 0) := by
  rw [exec_deviceReset, execDeviceReset, command_carries h]

/-- Settles O55: every reset ends in an operation that empties the staged copy, and a commit journals only the values that differ. -/
theorem stagedValuesAreLostAtReset : Obligations.StagedValuesAreLostAtReset := by
  unfold Obligations.StagedValuesAreLostAtReset
  refine ⟨?core, ?part, ?device, ?perst, ?fatal, ?function, ?link, ?supply, ?same, ?changed⟩
  case core =>
    intro c s hc hd hp
    exact ⟨_, by rw [exec_coreReset, execCoreReset, if_neg (by omega), if_neg (by simp [hd]; omega)], s.resetCore_staged c⟩
  case part =>
    intro f n s q h
    obtain ⟨s2, e⟩ := partReset_eq h
    exact ⟨_, e, State.retired_staged _ _ _ _ _ _ rfl⟩
  case device =>
    intro f n s q h
    exact ⟨_, deviceReset_carries h, by rw [State.deviceReset_commit]⟩
  case perst =>
    intro s hd
    rw [exec_perstBoth, execPerstBoth, if_neg (by simp [hd])]
    exact ⟨_, rfl, rfl⟩
  case fatal =>
    intro s hd
    exact ⟨_, by rw [exec_deviceFatalFault, execDeviceFatalFault, if_neg (by simp [hd])], by rw [State.deviceReset_commit]⟩
  case function =>
    intro f s hf hd
    rw [exec_functionReset, execFunctionReset, if_neg (by simp [hf]), if_neg (by simp [hd])]
    split
    · exact ⟨_, rfl, s.leavePermafrost_staged⟩
    · exact ⟨_, rfl, s.functionReset_staged f⟩
  case link =>
    intro port s hp hd hs hl
    exact ⟨_, by rw [exec_pcieLinkUp, execPcieLinkUp, if_neg (by omega), if_neg (by simp [hd, hs, hl])], State.portReset_staged _ port⟩
  case supply =>
    intro cause s h
    exact ⟨_, by rw [exec_shutdownCause, execShutdownCause, if_neg (by simp [h])], rfl⟩
  case same => exact fun f n s q h hp hr hs => commit_unchanged h hp hr hs
  case changed =>
    exact fun f n w s q h hp hs hne hw hc hj => commit_changed_cap h hp hs (leBytes_two_ne hc hw (Ne.symm hne)) hj

end Sys2Proof.Machine
end

section
namespace Sys2Proof.Machine

/-! ## What a function keeps -/

/-- A part of a function's state that a write to a function does not change reads as before, in every function. -/
theorem State.fn_setFn_keeps {α : Type} (π : FnState → α) {s : State} {f : Fn} {x : FnState} (h : π x = π (s.fn f)) (g : Fn) :
    π ((s.setFn f x).fn g) = π (s.fn g) := by
  rw [State.fn_setFn]
  split
  · rename_i hg
    rw [h]
    unfold State.fn
    rw [hg]
  · rfl

/-- Completing a command leaves every PERMIT. -/
theorem State.complete_permit (s : State) (f g : Fn) (n st d : Nat) (r : List Byte) :
    ((s.complete f n st d r).fn g).permit = (s.fn g).permit := by
  have slot : ∀ x, ((s.setSlot f n x).fn g).permit = (s.fn g).permit := fun x => State.fn_setFn_keeps FnState.permit (by rfl) g
  have irq : ∀ (u : State) v, ((u.irq f v).fn g).permit = (u.fn g).permit := by
    intro u v
    unfold State.irq
    split
    · exact State.fn_setFn_keeps FnState.permit (by rfl) g
    · rfl
  unfold State.complete
  dsimp only
  split
  · exact slot _
  · rw [irq, slot]

/-! ## NOP, PERMIT_SET and SET_TIME -/

theorem exec_nopCommand (f : Fn) (n : Nat) (s : State) : exec (.nopCommand f n) s = execNopCommand f n s := rfl
theorem exec_permitSet (f : Fn) (n : Nat) (s : State) : exec (.permitSet f n) s = execPermitSet f n s := rfl
theorem exec_setTime (f : Fn) (n : Nat) (s : State) : exec (.setTime f n) s = execSetTime f n s := rfl

theorem nopCommand_completes {s : State} {f : Fn} {n : Nat} {q : Slot} (h : s.Carries f n (isCmd 0x0000) q) :
    ∃ t, exec (.nopCommand f n) s = .next t ∧ t.Completed f n Config.stOk [] ∧ t = { s with fns := t.fns, out := t.out } := by
  rw [exec_nopCommand, execNopCommand, command_carries h]
  exact ⟨_, rfl, State.complete_completed _ _ _ _ _ _, State.complete_frame _ _ _ _ _ _⟩

/-- The entry that journals a command is the journal's last. -/
theorem State.jCmd_last (s : State) (f : Fn) (cmd st : Nat) (p : Option Nat) (old new : List Byte) :
    ∃ e, (s.jCmd f cmd st p old new).fw.journal.getLast? = some e ∧ e.kind = 1 ∧ e.object = cmd ∧ e.dtb = s.dtb ∧ e.old = old ∧ e.new = new :=
  ⟨_, FwState.append_last _ _, rfl, rfl, rfl, rfl, rfl⟩

@[simp] theorem State.complete_fw (s : State) (f : Fn) (n st d : Nat) (r : List Byte) : (s.complete f n st d r).fw = s.fw := by
  rw [State.complete_frame]
/-- Completing a command in a state that differs in the firmware's state and functions only. -/
theorem State.complete_frame_fw {s u : State} {a : List (Nat × FnState)} {b : FwState} (h : u = { s with fns := a, fw := b }) (f : Fn) (n st d : Nat) (r : List Byte) :
    u.complete f n st d r =
      { s with fns := (u.complete f n st d r).fns, out := (u.complete f n st d r).out, fw := (u.complete f n st d r).fw } := by
  subst h
  rw [State.complete_fw]
  exact State.complete_frame _ f n st d r

theorem permitSet_completes {s : State} {f : Fn} {n : Nat} {q : Slot} (h : s.Carries f n (isCmd 0x0001) q) :
    ∃ t, exec (.permitSet f n) s = .next t ∧ t.Completed f n Config.stOk (leBytes 1 (s.fn f).permit) ∧
      (t.fn f).permit = fld q.payload 0 1 ∧ t = { s with fns := t.fns, out := t.out, fw := t.fw } ∧
      ((s.fn f).permit = fld q.payload 0 1 → t.fw = s.fw) ∧
      ((s.fn f).permit ≠ fld q.payload 0 1 → ∃ e, t.fw.journal.getLast? = some e ∧ e.kind = 1 ∧ e.object = 1 ∧ e.dtb = s.dtb ∧
        e.old = leBytes 1 (s.fn f).permit ∧ e.new = leBytes 1 (fld q.payload 0 1)) := by
  have old : ((s.begun f n q).fn f).permit = (s.fn f).permit := by rw [State.fn_begun]
  rw [exec_permitSet, execPermitSet, command_carries h]
  dsimp only
  rw [old]
  split
  · rename_i same
    refine ⟨_, rfl, State.complete_completed _ _ _ _ _ _, ?_, State.complete_frame_fw rfl f n _ _ _, fun _ => ?_, fun ne => absurd same.symm ne⟩
    · rw [State.complete_permit, State.fn_setFn_self]
    · rw [State.complete_fw]; rfl
  · rename_i differs
    refine ⟨_, rfl, State.complete_completed _ _ _ _ _ _, ?_, State.complete_frame_fw rfl f n _ _ _, fun eq => absurd eq.symm differs,
      fun _ => ?_⟩
    · rw [State.complete_permit, State.fn_setFn_self]
    · rw [State.complete_fw]
      exact (s.begun f n q).jCmd_last f 0x0001 0 none _ _

/-- A little-endian value of some bytes is below the power of 256 to their number. -/
theorem leNat_lt (l : List Byte) : leNat l < 256 ^ l.length := by
  induction l with
  | nil => simp [leNat]
  | cons b r ih =>
    have hb := b.isLt
    rw [leNat, List.length_cons, Nat.pow_succ]
    omega
theorem length_sub (l : List Byte) (a n : Nat) : (sub l a n).length = n := by
  simp only [sub, List.length_append, List.length_take, List.length_drop, List.length_replicate]
  omega
theorem fld_lt (l : List Byte) (a n : Nat) : fld l a n < 256 ^ n := by
  have h := leNat_lt (sub l a n)
  rwa [length_sub] at h

theorem setTime_completes {s : State} {f : Fn} {n : Nat} {q : Slot} (h : s.Carries f n (isCmd 0x0011) q)
    (none_admitted : ∀ p, p < 16 → (s.part p).image = none) (later : s.dtb ≤ fld q.payload 0 8) :
    ∃ t, exec (.setTime f n) s = .next t ∧ t.Completed f n Config.stOk [] ∧ t.dtb = fld q.payload 0 8 ∧ t.cores = s.cores ∧
      t.parts = s.parts ∧ t.hbm = s.hbm ∧ t.fw = s.fw := by
  have no_image : (List.range 16).any (fun p => ((s.begun f n q).part p).image.isSome) = false := by
    rw [List.any_eq_false]
    intro p hp
    simp [none_admitted p (List.mem_range.1 hp)]
  have in_order : ¬ fld q.payload 0 8 < (s.begun f n q).dtb := Nat.not_lt.2 later
  rw [exec_setTime, execSetTime, command_carries h]
  dsimp only
  rw [no_image, if_neg Bool.false_ne_true, if_neg in_order]
  refine ⟨_, rfl, State.complete_completed _ _ _ _ _ _, ?_, ?_⟩
  · rw [State.complete_frame]
    have value : max s.dtb (fld q.payload 0 8) % 2 ^ 64 = fld q.payload 0 8 := by
      rw [Nat.max_eq_right later]
      exact Nat.mod_eq_of_lt (fld_lt q.payload 0 8)
    exact value
  · rw [State.complete_frame]
    exact ⟨rfl, rfl, rfl, rfl⟩

/-! ## COMMIT while nothing runs -/

@[simp] theorem State.snapped_part (s : State) (p : Nat) : s.snapped.part p = s.part p := rfl

theorem commit_not_running {s : State} {f : Fn} {n : Nat} {q : Slot} (h : s.Carries f n (isCmd 0x0010) q) (hp : s.commit.pending = false)
    (hr : ∀ v, v ∈ s.commit.staged → (s.begun f n q).commitRefusal v = none) (hn : ∀ p, p < 16 → (s.part p).job.running = false) :
    ∃ t, exec (.commit f n) s = .next t ∧ t.Completed f n Config.stOk [] ∧ t.commit.staged = [] ∧ t.commit.pending = false ∧
      t.commit.gen = (s.commit.gen + 1) % 2 ^ 32 ∧ ∀ w, s.commit.staged = [.powerCap w] → t.cool = { s.cool with cap := w } := by
  have defers := State.defers_of_not_running (s := (s.begun f n q).snapped) (by simpa using hn)
  obtain ⟨u, hu, c, staged, pending, gen, e⟩ := commit_completes h hp hr (fun v _ => defers v)
  refine ⟨_, e, State.complete_completed _ _ _ _ _ _, by simp [staged], by simp [pending], by simp [gen], fun w hw => ?_⟩
  rw [State.complete_frame]
  show u.cool = _
  by_cases same : s.cool.cap = w
  · have changed : (s.begun f n q).snapped.changedOf s.commit.staged = [] := by simp [State.changedOf, hw, State.committed, same]
    simp [hu, State.acceptNow, State.partsIn, changed, ← same]
  · have changed : (s.begun f n q).snapped.changedOf s.commit.staged = [.powerCap w] := by
      simp [State.changedOf, hw, State.committed, same]
    simp only [hu, State.acceptNow, State.partsIn, changed, defers, State.partsOf, List.map_cons, List.map_nil, List.flatten_cons,
      List.flatten_nil, List.append_nil, Bool.not_false, List.filter_true, List.foldl_cons, List.foldl_nil, State.applyStaged]
    rw [State.journalStaged_frame]
    rfl

end Sys2Proof.Machine
end

section
namespace Sys2Proof.Machine

/-! ## The link and shelf regrade (R482) -/

/-- Whether a staged value is one that a regrade plans. -/
def Staged.ofRegrade : Staged → Bool
  | .equaliser _ _ => true
  | .timing _ _ => true
  | _ => false

theorem State.regradePlan_ofRegrade (s : State) {v : Staged} (h : v ∈ s.regradePlan) : v.ofRegrade = true := by
  simp only [State.regradePlan, List.mem_append, List.mem_map] at h
  rcases h with ⟨p, -, rfl⟩ | ⟨j, -, rfl⟩ <;> rfl

/-- Every such value is one part. -/
theorem State.partsIn_ofRegrade {s : State} {snap : List Staged} (h : ∀ v, v ∈ snap → v.ofRegrade = true) {v : Staged}
    (hv : v ∈ s.partsIn snap) : v.ofRegrade = true := by
  simp only [State.partsIn, State.changedOf, List.mem_flatten, List.mem_map, List.mem_filter] at hv
  obtain ⟨l, ⟨w, ⟨hw, -⟩, rfl⟩, hl⟩ := hv
  have ofw := h w hw
  cases w <;> simp_all [Staged.ofRegrade, State.partsOf]

/-- Such a value is written at a port or a shelf. -/
theorem State.applyStaged_ofRegrade (s : State) {v : Staged} (h : v.ofRegrade = true) :
    s.applyStaged v = { s with ports := (s.applyStaged v).ports, shelves := (s.applyStaged v).shelves } := by
  cases v with
  | equaliser p k => rfl
  | timing k n => rfl
  | _ => cases h

/-- What neither the journal, the ports nor the shelves hold, the acceptance of a regrade's values leaves alone. -/
theorem State.acceptNow_regrade {α : Type} (π : State → α) (hπ : ∀ (t : State) w a b, π { t with fw := w, ports := a, shelves := b } = π t)
    {s : State} {snap : List Staged} (h : ∀ v, v ∈ snap → v.ofRegrade = true) (src func : Nat) : π (s.acceptNow src func snap) = π s := by
  refine State.acceptNow_keeps π (fun t v => ?_) (fun t v hv => ?_)
  · rw [State.journalStaged_frame]; exact hπ t _ t.ports t.shelves
  · rw [State.applyStaged_ofRegrade t (State.partsIn_ofRegrade h hv)]; exact hπ t t.fw _ _

/-- A commit some of whose parts were late journals its mixed window (R479). -/
def State.noteLate (s : State) (last : List Byte) : State :=
  if s.commit.later then s.journal { dtb := 0, kind := 2, src := 4, object := 0x0010, ext := 0xF, old := s.commit.firstRec, new := last } else s
theorem State.noteLate_frame (s : State) (last : List Byte) : s.noteLate last = { s with fw := (s.noteLate last).fw } := by
  unfold State.noteLate
  split <;> rfl

/-- A regrade's commit as it closes: it is recorded and reported (R482). -/
def State.regraded (s : State) (last : List Byte) : State :=
  let t := s.noteLate last
  ({ t with
    commit := { t.commit with pending := false, mixed := false, later := false, gen := (s.commit.gen + 1) % 2 ^ 32 }
    power := { t.power with linkRegrade := s.dtb, regrades := satAdd 0xFFFF t.power.regrades 1 } } : State).event
      { status := Config.stOk, device := true, detail := 2 }

theorem State.closeCommit_regraded {s : State} (hr : s.commit.regrade = true) (last : List Byte) :
    s.closeCommit last = match s.commit.cmd with
      | some (f, n, post) => (s.regraded last).completeIf f n post Config.stOk 0 []
      | none => s.regraded last := by
  simp only [State.closeCommit, State.regraded, hr]
  rfl

theorem State.regraded_cores (s : State) (last : List Byte) : (s.regraded last).cores = s.cores := by
  rw [State.regraded, State.event_frame, State.noteLate_frame]
theorem State.regraded_commit (s : State) (last : List Byte) : (s.regraded last).commit = s.commit.closed := by
  rw [State.regraded, State.event_frame, State.noteLate_frame]
  rfl
theorem State.regraded_power (s : State) (last : List Byte) :
    (s.regraded last).power = { s.power with linkRegrade := s.dtb, regrades := satAdd 0xFFFF s.power.regrades 1 } := by
  rw [State.regraded, State.event_frame, State.noteLate_frame]
theorem State.regraded_slot (s : State) (last : List Byte) (g : Fn) (m : Nat) : (s.regraded last).slot g m = s.slot g m := by
  rw [State.regraded, State.event_slot, State.noteLate_frame]
  rfl

/-- What a regrade's commit leaves as it closes, whichever way it was asked for. -/
theorem State.closeCommit_keeps {s : State} (hr : s.commit.regrade = true) (last : List Byte) :
    (s.closeCommit last).cores = s.cores ∧ (s.closeCommit last).commit.regrade = true ∧
      (s.closeCommit last).power.regradeDue = s.power.regradeDue := by
  have regraded : (s.regraded last).cores = s.cores ∧ (s.regraded last).commit.regrade = true ∧
      (s.regraded last).power.regradeDue = s.power.regradeDue := by
    rw [State.regraded_cores, State.regraded_commit, State.regraded_power]
    exact ⟨rfl, hr, rfl⟩
  rw [State.closeCommit_regraded hr]
  split
  · rw [State.completeIf_frame]; exact regraded
  · exact regraded

/-- The acceptance of a link and shelf regrade, before its commit closes. -/
def State.regradeAccepted (s : State) (src func : Nat) (cmd : Option (Fn × Nat × Nat)) : State := s.tick.accepted src func s.regradePlan cmd true

theorem State.regradeAccepted_regrade (s : State) (src func : Nat) (cmd : Option (Fn × Nat × Nat)) :
    (s.regradeAccepted src func cmd).commit.regrade = true := rfl
theorem State.regradeAccepted_cmd (s : State) (src func : Nat) (cmd : Option (Fn × Nat × Nat)) :
    (s.regradeAccepted src func cmd).commit.cmd = cmd := rfl
theorem State.regradeAccepted_keeps {α : Type} (π : State → α)
    (hπ : ∀ (t : State) w a b c n, π { t with fw := w, ports := a, shelves := b, commit := c, freeCtr := n } = π t) (s : State) (src func : Nat)
    (cmd : Option (Fn × Nat × Nat)) : π (s.regradeAccepted src func cmd) = π s :=
  calc π (s.regradeAccepted src func cmd)
      = π (s.tick.acceptNow src func s.regradePlan) := hπ (s.tick.acceptNow src func s.regradePlan) _ _ _ _ _
    _ = π s.tick := State.acceptNow_regrade π (fun t w a b => hπ t w a b t.commit t.freeCtr) (fun _ => s.regradePlan_ofRegrade) src func
    _ = π s := hπ s s.fw s.ports s.shelves s.commit _

theorem State.linkRegrade_cases (s : State) (src func : Nat) (cmd : Option (Fn × Nat × Nat)) :
    s.linkRegrade src func cmd = (s.regradeAccepted src func cmd).closeCommit (s.tick.applyRec 0xFFFFFFFFFFFF) ∨
      s.linkRegrade src func cmd = s.regradeAccepted src func cmd := by
  rw [State.linkRegrade, State.accept_eq]
  split
  · exact .inl rfl
  · exact .inr rfl

/-- A link and shelf regrade leaves the cores and the field part's mark, and is the commit in progress or the last one. -/
theorem State.linkRegrade_keeps (s : State) (src func : Nat) (cmd : Option (Fn × Nat × Nat)) :
    (s.linkRegrade src func cmd).cores = s.cores ∧ (s.linkRegrade src func cmd).commit.regrade = true ∧
      (s.linkRegrade src func cmd).power.regradeDue = s.power.regradeDue := by
  have cores := s.regradeAccepted_keeps State.cores (fun _ _ _ _ _ _ => rfl) src func cmd
  have power := s.regradeAccepted_keeps State.power (fun _ _ _ _ _ _ => rfl) src func cmd
  have regrade := s.regradeAccepted_regrade src func cmd
  rcases s.linkRegrade_cases src func cmd with e | e <;> rw [e]
  · obtain ⟨hc, hr, hp⟩ := State.closeCommit_keeps regrade (s.tick.applyRec 0xFFFFFFFFFFFF)
    rw [hc, hr, hp, cores, power]
    exact ⟨rfl, rfl, rfl⟩
  · rw [cores, power]
    exact ⟨rfl, regrade, rfl⟩

/-- While no partition runs, it closes at once. -/
theorem State.linkRegrade_at_once {s : State} (h : ∀ p, p < 16 → (s.part p).job.running = false) (src func : Nat)
    (cmd : Option (Fn × Nat × Nat)) :
    s.linkRegrade src func cmd = (s.regradeAccepted src func cmd).closeCommit (s.tick.applyRec 0xFFFFFFFFFFFF) :=
  (State.accept_at_once (fun v _ => State.defers_of_not_running (s := s.tick) h v) src func cmd true).1

theorem exec_regrade (f : Fn) (n : Nat) (s : State) : exec (.regrade f n) s = execRegrade f n s := rfl
theorem exec_regradeTimer (s : State) : exec .regradeTimer s = execRegradeTimer s := rfl

theorem regrade_carries {s : State} {f : Fn} {n : Nat} {q : Slot} (h : s.Carries f n (isCmd 0x0014) q) (hp : s.commit.pending = false) :
    ∃ t, exec (.regrade f n) s = .next t ∧ t.power.regradeDue = true ∧ t.commit.regrade = true ∧ t.cores = s.cores ∧
      ((∀ p, p < 16 → (s.part p).job.running = false) → t.Completed f n Config.stOk [] ∧ t.power.linkRegrade = s.dtb ∧
        t.power.regrades = satAdd 0xFFFF s.power.regrades 1) := by
  obtain ⟨-, hpost, hack, hdone, -⟩ := h.slot_eq
  rw [exec_regrade, execRegrade, command_carries h]
  simp only [hp, Bool.false_and, Bool.false_eq_true, if_false]
  generalize hm : ({ s.begun f n q with power := { (s.begun f n q).power with regradeDue := true } } : State) = m
  obtain ⟨cores, regrade, due⟩ := m.linkRegrade_keeps f.port (jFunc f) (some (f, n, q.postDtb))
  refine ⟨_, rfl, due.trans (by rw [← hm]), regrade, cores.trans (by rw [← hm]; rfl), fun hn => ?_⟩
  have idle : ∀ p, p < 16 → (m.part p).job.running = false := by rw [← hm]; exact hn
  have power := m.regradeAccepted_keeps State.power (fun _ _ _ _ _ _ => rfl) f.port (jFunc f) (some (f, n, q.postDtb))
  have dtb := m.regradeAccepted_keeps State.dtb (fun _ _ _ _ _ _ => rfl) f.port (jFunc f) (some (f, n, q.postDtb))
  have slot := m.regradeAccepted_keeps (fun t => t.slot f n) (fun _ _ _ _ _ _ => rfl) f.port (jFunc f) (some (f, n, q.postDtb))
  have begun : m.slot f n = { q with begun := true } := by rw [← hm]; exact s.begun_slot f n q
  rw [State.linkRegrade_at_once idle, State.closeCommit_regraded (State.regradeAccepted_regrade _ _ _ _), State.regradeAccepted_cmd]
  dsimp only
  rw [State.completeIf_waiting (((State.regraded_slot _ _ _ _).trans slot).trans begun) hpost hack hdone]
  refine ⟨State.complete_completed _ _ _ _ _ _, ?_⟩
  rw [State.complete_frame]
  dsimp only
  rw [State.regraded_power, power, dtb, ← hm]
  exact ⟨rfl, rfl⟩

theorem regradeTimer_waits {s : State} (h : s.dtb < s.power.linkRegrade + 86400000000000) : exec .regradeTimer s = .next s := by
  rw [exec_regradeTimer, execRegradeTimer, if_pos (by simp [h])]

theorem regradeTimer_acts {s : State} (ho : s.power.off = false) (hs : s.power.state ≠ 3) (hh : s.pcie.held = false)
    (hp : s.commit.pending = false) (hd : s.power.linkRegrade + 86400000000000 ≤ s.dtb) (hn : ∀ p, p < 16 → (s.part p).job.running = false) :
    ∃ t, exec .regradeTimer s = .next t ∧ t.power.linkRegrade = s.dtb ∧ t.cores = s.cores ∧ t.power.regradeDue = s.power.regradeDue := by
  obtain ⟨cores, -, due⟩ := s.linkRegrade_keeps 3 0 none
  have dtb := s.regradeAccepted_keeps State.dtb (fun _ _ _ _ _ _ => rfl) 3 0 none
  refine ⟨_, by rw [exec_regradeTimer, execRegradeTimer, if_neg (by simp [ho, hs, hh, hp, hd])], ?_, cores, due⟩
  rw [State.linkRegrade_at_once hn, State.closeCommit_regraded (State.regradeAccepted_regrade _ _ _ _), State.regradeAccepted_cmd]
  dsimp only
  rw [State.regraded_power]
  exact dtb

/-! ## DEVICE_RESET (R469) -/

/-- A table built again entry by entry reads its default, or what was made of one of the entries. -/
theorem Cells.get_rebuilt {α β : Type} [DecidableEq β] (d : Nat → β) (g : Nat × α → β) (k : Nat) (l : List (Nat × α)) :
    Cells.get d (l.foldl (fun m e => Cells.put d m e.1 (g e)) []) k = d k ∨
      ∃ e, e ∈ l ∧ e.1 = k ∧ Cells.get d (l.foldl (fun m e => Cells.put d m e.1 (g e)) []) k = g e := by
  have key : ∀ (l : List (Nat × α)) (m : List (Nat × β)), Cells.get d (l.foldl (fun m e => Cells.put d m e.1 (g e)) m) k = Cells.get d m k ∨
      ∃ e, e ∈ l ∧ e.1 = k ∧ Cells.get d (l.foldl (fun m e => Cells.put d m e.1 (g e)) m) k = g e := by
    intro l
    induction l with
    | nil => exact fun _ => .inl rfl
    | cons e r ih =>
      intro m
      rw [List.foldl_cons]
      rcases ih (Cells.put d m e.1 (g e)) with h | ⟨x, hx, hk, h⟩
      · by_cases he : e.1 = k
        · refine .inr ⟨e, List.mem_cons_self .., he, ?_⟩
          rw [h, ← he, Cells.get_put_self]
        · refine .inl ?_
          rw [h, Cells.get_put_other _ _ _ (Ne.symm he)]
      · exact .inr ⟨x, List.mem_cons_of_mem _ hx, hk, h⟩
  exact key l []

/-- Every partition is gone after the reset of all logic. -/
theorem State.resetLogic_part (s : State) (cause p : Nat) : ((s.resetLogic cause).part p).geo.defined = false ∧
    ((s.resetLogic cause).part p).image = none ∧ ((s.resetLogic cause).part p).job = {} ∧ ((s.resetLogic cause).part p).rcv = {} := by
  have rebuilt : (s.resetLogic cause).part p = {} ∨ ∃ x : Partition, (s.resetLogic cause).part p = x.afterRemoval := by
    rcases Cells.get_rebuilt (fun _ => ({} : Partition)) (fun e => e.2.afterRemoval) p s.parts with h | ⟨e, -, -, h⟩
    · exact .inl h
    · exact .inr ⟨e.2, h⟩
  rcases rebuilt with h | ⟨x, h⟩ <;> rw [h] <;> exact ⟨rfl, rfl, rfl, rfl⟩

/-- A cut slot is empty, or shows the status of what cut its command (R418). -/
theorem FnState.cutSlots_get (x : FnState) (st m : Nat) : Cells.get (fun _ => ({} : Slot)) (x.cutSlots st) m = {} ∨
    ((Cells.get (fun _ => ({} : Slot)) (x.cutSlots st) m).done = true ∧ (Cells.get (fun _ => ({} : Slot)) (x.cutSlots st) m).post = false ∧
      (Cells.get (fun _ => ({} : Slot)) (x.cutSlots st) m).status = st) := by
  rcases Cells.get_rebuilt (fun _ => ({} : Slot)) (fun e => e.2.cut st) m x.slots with h | ⟨e, -, -, h⟩
  · exact .inl h
  · rw [FnState.cutSlots, h, Slot.cut]
    split
    · exact .inr ⟨rfl, rfl, rfl⟩
    · exact .inl rfl

theorem State.resetLogic_slot (s : State) (cause : Nat) (g : Fn) (m : Nat) : (s.resetLogic cause).slot g m = {} ∨
    (((s.resetLogic cause).slot g m).done = true ∧ ((s.resetLogic cause).slot g m).post = false ∧
      ((s.resetLogic cause).slot g m).status = Config.stDeviceReset) := by
  have slots : (((s.resetLogic cause).fn g).slots = []) ∨ ∃ x : FnState, ((s.resetLogic cause).fn g).slots = x.cutSlots Config.stDeviceReset := by
    rcases Cells.get_rebuilt fnReset (fun e => e.2.afterReset e.1) (fnKey g) s.fns with h | ⟨e, -, -, h⟩
    · refine .inl ((congrArg FnState.slots h).trans ?_)
      unfold fnReset
      split <;> rfl
    · exact .inr ⟨e.2, congrArg FnState.slots h⟩
  unfold State.slot
  rcases slots with h | ⟨x, h⟩ <;> rw [h]
  · exact .inl rfl
  · exact x.cutSlots_get Config.stDeviceReset m

/-- A core that nothing has changed is idle, whatever its state was lost to. -/
theorem State.coreDefault_idle (s : State) (c : Nat) : (s.coreDefault c).seq = {} ∧ (s.coreDefault c).ready = 0 := by
  unfold State.coreDefault
  cases s.coresLost <;> cases s.fw.sft.isEmpty <;> cases s.tablesLost <;> exact ⟨rfl, rfl⟩
theorem State.core_of_no_cores {s : State} (h : s.cores = []) (c : Nat) : s.core c = s.coreDefault c := by
  rw [State.core, h, Cells.get]

/-- Journalling what returns to its default changes the firmware's state only (R473). -/
theorem State.journalDefaults_frame (s : State) : s.journalDefaults = { s with fw := s.journalDefaults.fw } := by
  unfold State.journalDefaults
  dsimp only
  rw [foldl_fwOnly (f := State.journalPart) (fun s p => by unfold State.journalPart; split <;> rfl),
    foldl_fwOnly (f := State.journalPermit) (fun s f => by unfold State.journalPermit; dsimp only; split <;> rfl),
    foldl_fwOnly (fun s v => s.journalStaged_frame 3 0 v)]

theorem State.loosePools_time (s : State) (but groups : Nat) : (s.loosePools but groups).time = s.time := by
  unfold State.loosePools
  exact foldl_keeps State.time (fun s p => by split <;> (split <;> rfl)) _ s
theorem State.flushShelf_time (s : State) (k : Nat) : (s.flushShelf k).time = s.time := by
  unfold State.flushShelf
  dsimp only
  split
  · dsimp only
    rw [State.loosePools_time]
  · exact foldl_keeps State.time (fun s l => by rfl) _ s

theorem State.resetLogic_dtb (s : State) (cause : Nat) : (s.resetLogic cause).dtb = s.dtb := rfl
/-- The reset of a device keeps its DTB (R469). -/
theorem State.deviceStop_dtb (s : State) (cause : Nat) : (s.deviceStop cause).dtb = s.dtb := by
  have flushed : ∀ t : State, ((List.range 8).foldl State.flushShelf t).time = t.time := foldl_keeps State.time State.flushShelf_time _
  rw [State.deviceStop, State.resetLogic_dtb, State.dtb, flushed, State.journalDefaults_frame]
  rfl
theorem State.deviceStop_power (s : State) (cause : Nat) :
    (s.deviceStop cause).power.state = 0 ∧ (s.deviceStop cause).power.resetCause = cause := by
  unfold State.deviceStop
  exact ⟨rfl, rfl⟩
theorem State.deviceStop_cores (s : State) (cause : Nat) : (s.deviceStop cause).cores = [] := by
  unfold State.deviceStop
  rfl

/-- Booting changes the firmware's state. -/
theorem State.boot_frame (s : State) : s.boot = { s with fw := s.boot.fw, freeCtr := s.boot.freeCtr } := rfl
/-- A device reset above Permafrost is a stop, a boot and an event: but for firmware, functions and outputs it leaves what the stop leaves. -/
theorem State.deviceReset_keeps {α : Type} (π : State → α)
    (hπ : ∀ (t : State) w n a o, π { t with fw := w, freeCtr := n, fns := a, out := o } = π t) {s : State} (h : s.power.state ≠ 3)
    (cause d : Nat) : π (s.deviceReset cause d) = π (s.deviceStop cause) := by
  have booted : ∀ t : State, π t.boot = π t := fun t => by rw [State.boot_frame]; exact hπ t _ _ t.fns t.out
  have told : ∀ (t : State) e, π (t.event e) = π t := fun t e => by rw [State.event_frame]; exact hπ t t.fw t.freeCtr _ _
  unfold State.deviceReset
  dsimp only
  rw [if_neg h, told, booted]
theorem State.deviceReset_slot {s : State} (h : s.power.state ≠ 3) (cause d : Nat) (g : Fn) (m : Nat) :
    (s.deviceReset cause d).slot g m = (s.deviceStop cause).slot g m := by
  have booted : ∀ t : State, t.boot.slot g m = t.slot g m := fun _ => rfl
  unfold State.deviceReset
  dsimp only
  rw [if_neg h, State.event_slot, booted]

theorem deviceReset_leaves {s : State} {f : Fn} {n : Nat} {q : Slot} (h : s.Carries f n (isCmd 0x0012) q) :
    ∃ t, exec (.deviceReset f n) s = .next t ∧ t.power.state = 0 ∧ t.power.resetCause = 2 ∧
      (∀ p, (t.part p).geo.defined = false ∧ (t.part p).image = none ∧ (t.part p).job = {} ∧ (t.part p).rcv = {}) ∧ t.commit = {} ∧
      t.dtb = s.dtb ∧ t.cores = [] ∧ (∀ c, (t.core c).seq.run = 0 ∧ (t.core c).ready = 0) ∧
      ∀ g m, fnOk g = true → t.slot g m = {} ∨
        ((t.slot g m).done = true ∧ (t.slot g m).post = false ∧ (t.slot g m).status = Config.stDeviceReset) := by
  have up := h.hostUp
  have above : (s.begun f n q).power.state ≠ 3 := by
    unfold State.hostUp at up
    simp only [Bool.and_eq_true, bne_iff_ne] at up
    exact up.2
  have cores := (State.deviceReset_keeps State.cores (fun _ _ _ _ _ => rfl) above 2 0).trans (State.deviceStop_cores _ 2)
  have power := State.deviceReset_keeps State.power (fun _ _ _ _ _ => rfl) above 2 0
  have part := fun p => State.deviceReset_keeps (fun t => t.part p) (fun _ _ _ _ _ => rfl) above 2 0
  have dtb := State.deviceReset_keeps State.dtb (fun _ _ _ _ _ => rfl) above 2 0
  refine ⟨_, deviceReset_carries h, ?_, ?_, fun p => ?_, State.deviceReset_commit _ 2 0, ?_, cores, fun c => ?_, fun g m _ => ?_⟩
  · rw [power]; exact (State.deviceStop_power _ 2).1
  · rw [power]; exact (State.deviceStop_power _ 2).2
  · rw [part, State.deviceStop]; exact State.resetLogic_part _ 2 p
  · rw [dtb, State.deviceStop_dtb]; rfl
  · rw [State.core_of_no_cores cores, (State.coreDefault_idle _ c).1, (State.coreDefault_idle _ c).2]
    exact ⟨rfl, rfl⟩
  · rw [State.deviceReset_slot above, State.deviceStop]; exact State.resetLogic_slot _ 2 g m

end Sys2Proof.Machine
end

section
namespace Sys2Proof.Machine

/-! ## POWER_STATE (Table 21.4) -/

theorem State.note_power (s : State) (d : Nat) (b : List Byte) : (s.note d b).power = s.power := by
  rw [State.note, State.event_frame]
  rfl

/-- The field part sets voltages and clocks, not the power state. -/
theorem State.fieldPart_state (s : State) : s.fieldPart.power.state = s.power.state := by
  have noted : ∀ (b : Bool) (t : State) (d : Nat), (if b then t.note d [] else t).power = t.power := by
    intro b t d
    split
    · exact t.note_power d []
    · rfl
  unfold State.fieldPart
  dsimp only
  rw [noted, noted, noted, State.note_power]
  rfl

theorem State.enterHoar_state (s : State) : s.enterHoar.power.state = 1 := by
  unfold State.enterHoar
  dsimp only
  split
  · rw [State.fieldPart_state]; rfl
  · rfl

/-- One transition deepens the state by one, or makes it shallower by one. -/
theorem State.deeper_state {s : State} (h : s.power.state < 3) : s.deeper.power.state = s.power.state + 1 := by
  unfold State.deeper
  split
  · rw [State.enterHoar_state]; omega
  · split
    · show 2 = _; omega
    · show 3 = _; omega
theorem State.shallower_state {s : State} (h : s.power.state < 3) (h0 : 0 < s.power.state) : s.shallower.power.state = s.power.state - 1 := by
  unfold State.shallower
  split
  · show 0 = _; omega
  · rw [if_pos (by omega)]
    show 1 = _; omega

/-- With as many transitions as there are states between, the target is reached. -/
theorem State.goTo_state (n : Nat) : ∀ (s : State) (target : Nat), s.power.state < 3 ∨ s.power.state = target → target ≤ 3 →
    s.power.state ≤ target + n → target ≤ s.power.state + n → (s.goTo target n).power.state = target := by
  induction n with
  | zero => intro s target _ _ h1 h2; rw [State.goTo]; omega
  | succ n ih =>
    intro s target hs ht h1 h2
    rw [State.goTo]
    split
    · have step := s.deeper_state (by omega)
      exact ih _ _ (by omega) ht (by omega) (by omega)
    · split
      · have step := s.shallower_state (by omega) (by omega)
        exact ih _ _ (by omega) ht (by omega) (by omega)
      · omega

theorem State.goTo_there {s : State} {target : Nat} (h : s.power.state = target) (n : Nat) : s.goTo target n = s := by
  cases n with
  | zero => rfl
  | succ n => rw [State.goTo, if_neg (by omega), if_neg (by omega)]

theorem exec_powerState (f : Fn) (n : Nat) (s : State) : exec (.powerState f n) s = execPowerState f n s := rfl

theorem fbits_one_zero_lt (l : List Byte) (a : Nat) : fbits l a 1 0 < 4 := Nat.mod_lt _ (by decide)

theorem powerState_reaches {s : State} {f : Fn} {n : Nat} {q : Slot} (h : s.Carries f n (isCmd 0x0013) q) (hs : s.power.state < 3)
    (hr : (s.begun f n q).powerRefusal (fbits q.payload 0 1 0) = none) :
    ∃ t, exec (.powerState f n) s = .next t ∧ t.power.state = fbits q.payload 0 1 0 ∧ t.Completed f n Config.stOk [] ∧
      (s.power.state = fbits q.payload 0 1 0 → t = { s with fns := t.fns, out := t.out }) := by
  rw [exec_powerState, execPowerState, command_carries h]
  dsimp only
  rw [hr]
  have target := fbits_one_zero_lt q.payload 0
  have reached := (s.begun f n q).goTo_state 3 (fbits q.payload 0 1 0) (.inl hs) (by omega) (by simp; omega) (by omega)
  dsimp only
  split
  · rename_i frost
    refine ⟨_, rfl, reached, ?_, fun there => by omega⟩
    constructor <;> rw [State.slot_setSlot_self] <;> simp [Slot.finish]
  · refine ⟨_, rfl, ?_, State.complete_completed _ _ _ _ _ _, fun there => ?_⟩
    · rw [State.complete_frame]; exact reached
    · rw [State.goTo_there (s := s.begun f n q) there]
      exact State.complete_frame _ _ _ _ _ _

/-- Settles O47: each command's own completion, with the transitions of the power state by induction on their number. -/
theorem deviceCommandsComplete : Obligations.DeviceCommandsComplete := by
  unfold Obligations.DeviceCommandsComplete
  refine ⟨?nop, ?permit, ?time, ?commit, ?regrade, ?timer, ?reset, ?power⟩
  case nop => exact fun f n s q h => nopCommand_completes h
  case permit => exact fun f n s q h => permitSet_completes h
  case time => exact fun f n s q h none_admitted later => setTime_completes h none_admitted later
  case commit => exact fun f n s q h pending refusals idle => commit_not_running h pending refusals idle
  case regrade => exact fun f n s q h pending => regrade_carries h pending
  case timer =>
    exact fun s off state held pending => ⟨regradeTimer_waits, fun due idle => regradeTimer_acts off state held pending due idle⟩
  case reset => exact fun f n s q h => deviceReset_leaves h
  case power => exact fun f n s q h above refusal => powerState_reaches h above refusal

end Sys2Proof.Machine
end

section
namespace Sys2Proof.Machine

/-! ## Reading a register (R6, R7, R408) -/

theorem exec_registerReadClear (f : Fn) (bar off : Nat) (s : State) : exec (.registerReadClear f bar off) s = execRegisterReadClear f bar off s := rfl
theorem exec_registerWrite (f : Fn) (bar off v : Nat) (s : State) : exec (.registerWrite f bar off v) s = execRegisterWrite f bar off v s := rfl
theorem exec_pmcRead (f : Fn) (bar off : Nat) (s : State) : exec (.pmcRead f bar off) s = execPmcRead f bar off s := rfl
theorem exec_pmcWrite (f : Fn) (bar off v : Nat) (s : State) : exec (.pmcWrite f bar off v) s = execPmcWrite f bar off v s := rfl

theorem registerReadClear_unseen {f : Fn} {bar off : Nat} {s : State} (hf : fnOk f = true) (hu : s.hostUp = true)
    (h : s.regAt f bar off = none) :
    exec (.registerReadClear f bar off) s = .next { s with out := { s.out with readData := 0, readStamp := 0 } } := by
  simp only [exec_registerReadClear, execRegisterReadClear, hf, hu, h, Bool.not_true, Bool.false_eq_true, if_false]
  rfl

/-- A register that is no counter answers its word and is cleared. -/
theorem registerReadClear_seen {f : Fn} {bar off : Nat} {s : State} {r : Reg} (hf : fnOk f = true) (hu : s.hostUp = true)
    (h : s.regAt f bar off = some r) (hr : ∀ b o, r ≠ .ctr b o) :
    exec (.registerReadClear f bar off) s = .next ((s.clearRc f r).answerRead (s.regWord f r) 0) := by
  simp only [exec_registerReadClear, execRegisterReadClear, hf, hu, h, Bool.not_true, Bool.false_eq_true, if_false]

theorem Core.clearRc_keeps (k : Core) (o : Nat) : (k.clearRc o).ts = k.ts ∧ (k.clearRc o).seq = k.seq := by
  unfold Core.clearRc
  split <;> exact ⟨rfl, rfl⟩

/-- Clearing the status block touches neither HBM nor a core. -/
theorem State.clearId_keeps (s : State) (f : Fn) (o : Nat) : (s.clearId f o).hbm = s.hbm ∧ ∀ c, (s.clearId f o).core c = s.core c := by
  have fences : ∀ {α : Type} (π : State → α) (_ : ∀ (t : State) p x, π (t.setPart p x) = π t),
      π ((List.range 16).foldl (fun s p => s.updRcv p (fun r => { r with fenced := 0 })) s) = π s :=
    fun π h => foldl_keeps π (fun t p => h t p _) _ s
  unfold State.clearId
  split
  case h_4 =>
    split
    · exact ⟨rfl, fun _ => rfl⟩
    · split
      · exact ⟨fences State.hbm (fun _ _ _ => rfl), fun c => fences (fun t => t.core c) (fun _ _ _ => rfl)⟩
      · exact ⟨rfl, fun _ => rfl⟩
  case h_5 | h_6 | h_7 | h_8 | h_9 => split <;> exact ⟨rfl, fun _ => rfl⟩
  all_goals exact ⟨rfl, fun _ => rfl⟩

/-- A read clears no byte of HBM, and of a core neither its tile store nor its sequencer. -/
theorem State.clearRc_keeps (s : State) (f : Fn) (r : Reg) :
    (s.clearRc f r).hbm = s.hbm ∧ ∀ c, ((s.clearRc f r).core c).ts = (s.core c).ts ∧ ((s.clearRc f r).core c).seq = (s.core c).seq := by
  cases r with
  | ident o =>
    obtain ⟨hbm, core⟩ := s.clearId_keeps f o
    exact ⟨hbm, fun c => by rw [State.clearRc, core]; exact ⟨rfl, rfl⟩⟩
  | core c o =>
    refine ⟨rfl, fun d => ?_⟩
    rw [State.clearRc, State.updCore_eq, State.core_setCore]
    split
    · rename_i e
      subst e
      exact (s.core d).clearRc_keeps o
    · exact ⟨rfl, rfl⟩
  | time o => rw [State.clearRc]; split <;> exact ⟨rfl, fun _ => ⟨rfl, rfl⟩⟩
  | wset p o => rw [State.clearRc]; split <;> exact ⟨rfl, fun _ => ⟨rfl, rfl⟩⟩
  | _ => exact ⟨rfl, fun _ => ⟨rfl, rfl⟩⟩

theorem registerReadClear_effect {f : Fn} {bar off : Nat} {s : State} {r : Reg} (hf : fnOk f = true) (hu : s.hostUp = true)
    (h : s.regAt f bar off = some r) (hr : ∀ b o, r ≠ .ctr b o) :
    ∃ t, exec (.registerReadClear f bar off) s = .next t ∧
      t.out.readData = s.regWord f r ∧ t.hbm = s.hbm ∧ (∀ c, (t.core c).ts = (s.core c).ts ∧ (t.core c).seq = (s.core c).seq) ∧
      (r = .ident 0x34 → (t.fn f).discards = 0) ∧ (r = .ident 0x38 → (t.fn f).evqLost = 0 ∧ (t.fn f).evqTail = (s.fn f).evqTail) ∧
      (∀ v, r = .chan v 0x10 → (t.chan v).skewReports = 0 ∧ (t.chan v).holds = 0 ∧ (t.chan v).dropped = (s.chan v).dropped) ∧
      (∀ n o, r = .slot n o → t = { s with out := t.out }) := by
  obtain ⟨hbm, core⟩ := s.clearRc_keeps f r
  refine ⟨_, registerReadClear_seen hf hu h hr, rfl, hbm, core, ?_, ?_, ?_, ?_⟩
  · rintro rfl
    show (State.fn (s.setFn f { s.fn f with discards := 0 }) f).discards = 0
    rw [State.fn_setFn_self]
  · rintro rfl
    show (State.fn (s.setFn f { s.fn f with evqLost := 0 }) f).evqLost = 0 ∧ (State.fn (s.setFn f { s.fn f with evqLost := 0 }) f).evqTail = _
    rw [State.fn_setFn_self]
    exact ⟨rfl, rfl⟩
  · rintro v rfl
    show ((s.updChan v (fun x => x.clearRc 0x10)).chan v).skewReports = 0 ∧ ((s.updChan v (fun x => x.clearRc 0x10)).chan v).holds = 0 ∧
      ((s.updChan v (fun x => x.clearRc 0x10)).chan v).dropped = _
    rw [State.updChan_eq, State.chan_setChan_self]
    exact ⟨rfl, rfl, rfl⟩
  · rintro n o rfl
    rfl

/-! ## Writing a register (R6, R9, R409) -/

theorem registerWrite_unseen {f : Fn} {bar off v : Nat} {s : State} (hf : fnOk f = true) (hu : s.hostUp = true)
    (h : s.regAt f bar off = none) : exec (.registerWrite f bar off v) s = .next (if isPf f then s else s.jDiscard f bar off v) := by
  simp only [exec_registerWrite, execRegisterWrite, hf, hu, h, Bool.not_true, Bool.false_eq_true, if_false]

/-- A staged register takes a value of a physical function that is not reserved. -/
theorem registerWrite_staged {f : Fn} {bar off v : Nat} {s : State} {r : Reg} {x : Staged} {bad : Bool} (hf : fnOk f = true)
    (hu : s.hostUp = true) (h : s.regAt f bar off = some r) (hx : stagedWrite v r = some (x, bad)) :
    exec (.registerWrite f bar off v) s = .next (if bad = true ∨ isPf f = false then s.jDiscard f bar off v else s.stage x) := by
  simp only [exec_registerWrite, execRegisterWrite, hf, hu, h, hx, Bool.not_true, Bool.false_eq_true, if_false, Bool.or_eq_true,
    Bool.not_eq_true']

/-- A register of no staged value takes the write by its access code. -/
theorem registerWrite_plain {f : Fn} {bar off v : Nat} {s : State} {r : Reg} (hf : fnOk f = true) (hu : s.hostUp = true)
    (h : s.regAt f bar off = some r) (hx : stagedWrite v r = none) :
    exec (.registerWrite f bar off v) s = .next (s.writeReg f bar off v r) := by
  simp only [exec_registerWrite, execRegisterWrite, hf, hu, h, hx, Bool.not_true, Bool.false_eq_true, if_false]

end Sys2Proof.Machine
end

section
namespace Sys2Proof.Machine

/-! ## Counters: reading after writing (R487, R490) -/

/-- A part of a core that a write to a core does not change reads as before, in every core. -/
theorem State.core_setCore_keeps {α : Type} (π : Core → α) {s : State} {c : Nat} {x : Core} (h : π x = π (s.core c)) (d : Nat) :
    π ((s.setCore c x).core d) = π (s.core d) := by
  rw [State.core_setCore]
  split
  · rename_i e; rw [h, e]
  · rfl
theorem State.shelf_setShelf_keeps {α : Type} (π : Shelf → α) {s : State} {k : Nat} {x : Shelf} (h : π x = π (s.shelf k)) (j : Nat) :
    π ((s.setShelf k x).shelf j) = π (s.shelf j) := by
  rw [State.shelf_setShelf]
  split
  · rename_i e; rw [h, e]
  · rfl

theorem State.pmc_setPmc (s : State) (b : Blk) (k j v : Nat) : (s.setPmc b k v).pmc b j = if j = k then v else s.pmc b j := by
  cases b with
  | core c =>
    simp only [State.setPmc, State.pmc, State.updCore_eq, State.core_setCore_self]
    exact Cells.get_put _ _ _ _ _
  | field f =>
    simp only [State.setPmc, State.pmc, Cells.get_put, Nat.add_left_cancel_iff]
  | shelf i =>
    simp only [State.setPmc, State.pmc, State.updShelf_eq, State.shelf_setShelf_self]
    exact Cells.get_put _ _ _ _ _

/-- A control word and a value lie apart. -/
theorem State.ctl_setPmc (s : State) (b : Blk) (k v : Nat) {j : Nat} (hj : j < b.size) : (s.setPmc b k v).ctl b j = s.ctl b j := by
  cases b with
  | core c => exact congrArg (Cells.get _ · j) (State.core_setCore_keeps Core.ctl (by rfl) c)
  | field f =>
    have : j < 32 := hj
    exact Cells.get_put_other _ _ _ (by omega)
  | shelf i => exact congrArg (Cells.get _ · j) (State.shelf_setShelf_keeps Shelf.ctl (by rfl) i)
theorem State.pmc_setCtl (s : State) (b : Blk) {k : Nat} (hk : k < b.size) (j v : Nat) : (s.setCtl b k v).pmc b j = s.pmc b j := by
  cases b with
  | core c => exact congrArg (Cells.get _ · j) (State.core_setCore_keeps Core.pmc (by rfl) c)
  | field f =>
    have : k < 32 := hk
    exact Cells.get_put_other _ _ _ (by omega)
  | shelf i => exact congrArg (Cells.get _ · j) (State.shelf_setShelf_keeps Shelf.pmc (by rfl) i)

/-! ## What counting leaves alone -/

/-- The parts of a state that no notes hold: what is left of them after their cores' and shelves' notes, the fields' notes and the free
values' counter have changed. -/
structure State.OffNotes {α : Type} (π : State → α) : Prop where
  core : ∀ (t : State) c d, π (t.setCore c { t.core c with tally := d }) = π t
  shelf : ∀ (t : State) k d, π (t.setShelf k { t.shelf k with tally := d }) = π t
  rest : ∀ (t : State) b n, π { t with fieldTally := b, freeCtr := n } = π t

theorem State.OffNotes.clearTally {α : Type} {π : State → α} (h : State.OffNotes π) (s : State) (b : Blk) : π (s.clearTally b) = π s := by
  cases b with
  | core c =>
    have noted : ∀ (g : Nat → Nat) (t : State), π ((List.range 4).foldl (fun t i => t.noteField (c / 2500) (0x110 + i) (g i)) t) = π t :=
      fun g => foldl_keeps π (fun t i => h.rest t _ _) _
    rw [State.clearTally]
    exact (h.core _ c _).trans (noted _ s)
  | field f => exact h.rest s _ _
  | shelf j => exact h.shelf s j _

/-- The turn of counter `k` in a block of the state `s`: the state so far and the carries of the counter below. -/
def State.countTurn (s : State) (b : Blk) (a : State × Nat) (k : Nat) : State × Nat :=
  let c := s.ctl b k
  if Ctl.chain c && k != 0 then a.1.countOne b k a.2
  else if Ctl.en c then a.1.countOne b k (modeAdds c (s.totals b c) (Config.freeNat (s.freeCtr + 8192 + k)))
  else (a.1, 0)

/-- A block counts in the turns of its counters, then its notes are used up (R488); below Active nothing counts (R495). -/
theorem State.countBlock_eq (s : State) (b : Blk) :
    s.countBlock b = if s.power.state != 0 || s.power.off || s.pcie.held then s else
      { ((List.range b.size).foldl (s.countTurn b) (s, 0)).1.clearTally b with freeCtr := s.freeCtr + 16384 } := rfl

theorem State.countBlock_stopped {s : State} (h : s.power.state ≠ 0) (b : Blk) : s.countBlock b = s := by
  rw [State.countBlock_eq, if_pos (by simp [h])]
theorem State.count_stopped {s : State} (h : s.power.state ≠ 0) (b : Blk) : s.count b = s := by
  cases b with
  | field f =>
    have cores : ∀ l : List (Nat × Core), l.foldl (fun t e => t.countBlock (.core e.1)) s = s := fun l => by
      induction l with
      | nil => rfl
      | cons e l ih => rw [List.foldl_cons, State.countBlock_stopped h, ih]
    rw [State.count, cores, State.countBlock_stopped h]
  | core c => exact State.countBlock_stopped h _
  | shelf j => exact State.countBlock_stopped h _

/-- What the addition to a counter leaves alone, its turn does. -/
theorem State.countTurn_keeps {α : Type} {π : State → α} {b : Blk} {k : Nat} (one : ∀ (t : State) add, π (t.countOne b k add).1 = π t)
    (s : State) (a : State × Nat) : π (s.countTurn b a k).1 = π a.1 := by
  unfold State.countTurn
  dsimp only
  split
  · exact one _ _
  · split
    · exact one _ _
    · rfl

/-- What the block's turns leave alone and no notes hold, counting leaves alone. -/
theorem State.OffNotes.countBlock {α : Type} {π : State → α} (h : State.OffNotes π) {s : State} {b : Blk}
    (turns : ∀ a k, k < b.size → π (s.countTurn b a k).1 = π a.1) : π (s.countBlock b) = π s := by
  rw [State.countBlock_eq]
  split
  · rfl
  · calc π { ((List.range b.size).foldl (s.countTurn b) (s, 0)).1.clearTally b with freeCtr := s.freeCtr + 16384 }
      _ = π (((List.range b.size).foldl (s.countTurn b) (s, 0)).1.clearTally b) := h.rest _ _ _
      _ = π ((List.range b.size).foldl (s.countTurn b) (s, 0)).1 := h.clearTally _ _
      _ = π s := foldl_keeps_mem (fun a : State × Nat => π a.1) (fun a k hk => turns a k (List.mem_range.1 hk)) (s, 0)

/-- The parts of a state that no block of counters holds: what is left of them after their cores' and shelves' counters, control words and
notes, the fields' tables and the free values' counter have changed. -/
structure State.OffCounters {α : Type} (π : State → α) : Prop where
  core : ∀ (t : State) c a b d, π (t.setCore c { t.core c with ctl := a, pmc := b, tally := d }) = π t
  shelf : ∀ (t : State) k a b d, π (t.setShelf k { t.shelf k with ctl := a, pmc := b, tally := d }) = π t
  rest : ∀ (t : State) a b n, π { t with fields := a, fieldTally := b, freeCtr := n } = π t

section
variable {α : Type} {π : State → α} (h : State.OffCounters π)
include h

theorem State.OffCounters.offNotes : State.OffNotes π := ⟨fun t c => h.core t c _ _, fun t k => h.shelf t k _ _, fun t => h.rest t _⟩
theorem State.OffCounters.setPmc (s : State) (b : Blk) (k v : Nat) : π (s.setPmc b k v) = π s := by
  cases b with
  | core c => exact h.core s c _ _ _
  | field f => exact h.rest s _ _ _
  | shelf j => exact h.shelf s j _ _ _
theorem State.OffCounters.setCtl (s : State) (b : Blk) (k v : Nat) : π (s.setCtl b k v) = π s := by
  cases b with
  | core c => exact h.core s c _ _ _
  | field f => exact h.rest s _ _ _
  | shelf j => exact h.shelf s j _ _ _
theorem State.OffCounters.countOne (b : Blk) (k : Nat) (s : State) (add : Nat) : π (s.countOne b k add).1 = π s := by
  unfold State.countOne
  dsimp only
  split
  · rw [h.setCtl, h.setPmc]
  · exact h.setPmc s b k _
theorem State.OffCounters.countBlock (s : State) (b : Blk) : π (s.countBlock b) = π s :=
  h.offNotes.countBlock fun a k _ => State.countTurn_keeps (h.countOne b k) s a
/-- Bringing a block up to date leaves alone what no block holds. -/
theorem State.OffCounters.count (s : State) (b : Blk) : π (s.count b) = π s := by
  cases b with
  | field f =>
    rw [State.count, h.countBlock]
    exact foldl_keeps π (fun t e => h.countBlock t _) _ s
  | core c => exact h.countBlock s _
  | shelf j => exact h.countBlock s _
end

theorem State.offCounters_parts : State.OffCounters State.parts := ⟨fun _ _ _ _ _ => rfl, fun _ _ _ _ _ => rfl, fun _ _ _ _ => rfl⟩
theorem State.offCounters_hbm : State.OffCounters State.hbm := ⟨fun _ _ _ _ _ => rfl, fun _ _ _ _ _ => rfl, fun _ _ _ _ => rfl⟩
theorem State.offCounters_dtb : State.OffCounters State.dtb := ⟨fun _ _ _ _ _ => rfl, fun _ _ _ _ _ => rfl, fun _ _ _ _ => rfl⟩
theorem State.offCounters_seq (c : Nat) : State.OffCounters (fun s => (s.core c).seq) :=
  ⟨fun t d _ _ _ => State.core_setCore_keeps Core.seq (by rfl) c, fun _ _ _ _ _ => rfl, fun _ _ _ _ => rfl⟩

/-! ## What counting makes of the block's own counters -/

theorem State.offNotes_fields : State.OffNotes State.fields := ⟨fun _ _ _ => rfl, fun _ _ _ => rfl, fun _ _ _ => rfl⟩
theorem State.offNotes_pmc (b : Blk) (j : Nat) : State.OffNotes (fun s => s.pmc b j) := by
  cases b with
  | core c => exact ⟨fun _ _ _ => congrArg (Cells.get _ · j) (State.core_setCore_keeps Core.pmc (by rfl) c), fun _ _ _ => rfl, fun _ _ _ => rfl⟩
  | field f => exact ⟨fun _ _ _ => rfl, fun _ _ _ => rfl, fun _ _ _ => rfl⟩
  | shelf i => exact ⟨fun _ _ _ => rfl, fun _ _ _ => congrArg (Cells.get _ · j) (State.shelf_setShelf_keeps Shelf.pmc (by rfl) i), fun _ _ _ => rfl⟩
theorem State.offNotes_ctl (b : Blk) (j : Nat) : State.OffNotes (fun s => s.ctl b j) := by
  cases b with
  | core c => exact ⟨fun _ _ _ => congrArg (Cells.get _ · j) (State.core_setCore_keeps Core.ctl (by rfl) c), fun _ _ _ => rfl, fun _ _ _ => rfl⟩
  | field f => exact ⟨fun _ _ _ => rfl, fun _ _ _ => rfl, fun _ _ _ => rfl⟩
  | shelf i => exact ⟨fun _ _ _ => rfl, fun _ _ _ => congrArg (Cells.get _ · j) (State.shelf_setShelf_keeps Shelf.ctl (by rfl) i), fun _ _ _ => rfl⟩

/-- Whether no counter of a block counts. -/
def State.Idle (s : State) (b : Blk) : Prop := ∀ j, j < b.size → Ctl.en (s.ctl b j) = false ∧ Ctl.chain (s.ctl b j) = false

theorem State.Idle.countTurn {s : State} {b : Blk} (h : s.Idle b) (a : State × Nat) {k : Nat} (hk : k < b.size) :
    s.countTurn b a k = (a.1, 0) := by
  obtain ⟨en, chain⟩ := h k hk
  simp [State.countTurn, en, chain]
theorem State.OffNotes.countBlock_idle {α : Type} {π : State → α} (h : State.OffNotes π) {s : State} {b : Blk} (hi : s.Idle b) :
    π (s.countBlock b) = π s :=
  h.countBlock fun a _ hk => by rw [hi.countTurn a hk]

/-- A core's block has no part in the fields' tables. -/
theorem State.countBlock_core_fields (s : State) (c : Nat) : (s.countBlock (.core c)).fields = s.fields :=
  State.offNotes_fields.countBlock fun a k _ => State.countTurn_keeps (π := State.fields) (fun t add => by
    unfold State.countOne
    dsimp only
    split <;> rfl) s a

/-- A block none of whose counters counts reads as before, once up to date. -/
theorem State.Idle.count {s : State} {b : Blk} (h : s.Idle b) (j : Nat) : (s.count b).pmc b j = s.pmc b j ∧ (s.count b).ctl b j = s.ctl b j := by
  cases b with
  | field f =>
    rw [State.count]
    generalize hu : (s.cores.filter (fun e => e.1 / 2500 == f)).foldl (fun s e => s.countBlock (.core e.1)) s = u
    have fields : u.fields = s.fields := 
      (congrArg State.fields hu).symm.trans (foldl_keeps State.fields (fun t e => State.countBlock_core_fields t _) _ s)
    have pmc : u.pmc (.field f) j = s.pmc (.field f) j := by rw [State.pmc, State.pmc, fields]
    have ctl : ∀ i, u.ctl (.field f) i = s.ctl (.field f) i := fun i => by rw [State.ctl, State.ctl, fields]
    have idle : u.Idle (.field f) := fun i hi => by rw [ctl]; exact h i hi
    exact ⟨((State.offNotes_pmc _ j).countBlock_idle idle).trans pmc, ((State.offNotes_ctl _ j).countBlock_idle idle).trans (ctl j)⟩
  | core c => exact ⟨(State.offNotes_pmc _ j).countBlock_idle h, (State.offNotes_ctl _ j).countBlock_idle h⟩
  | shelf i => exact ⟨(State.offNotes_pmc _ j).countBlock_idle h, (State.offNotes_ctl _ j).countBlock_idle h⟩

/-- An addition reaches the value of its own counter only (R490). -/
theorem State.pmc_countOne (t : State) (b : Blk) {k : Nat} (hk : k < b.size) (add j : Nat) :
    (t.countOne b k add).1.pmc b j = if j = k then (t.pmc b k + add) % 2 ^ 48 else t.pmc b j := by
  unfold State.countOne
  dsimp only
  split
  · rw [State.pmc_setCtl _ _ hk, State.pmc_setPmc]
  · exact State.pmc_setPmc _ _ _ _ _

/-- The turns of other counters leave a value alone. -/
theorem State.pmc_countTurns_other (s : State) (b : Blk) (k : Nat) (l : List Nat) (hl : ∀ j ∈ l, j < b.size ∧ j ≠ k) (a : State × Nat) :
    (l.foldl (s.countTurn b) a).1.pmc b k = a.1.pmc b k :=
  foldl_keeps_mem (fun a : State × Nat => a.1.pmc b k) (fun a j hj =>
    have ⟨hs, hne⟩ := hl j hj
    State.countTurn_keeps (π := fun t => t.pmc b k) (fun t add => by rw [State.pmc_countOne _ _ hs, if_neg hne.symm]) s a) a

/-- What a counter adds when it is brought up to date, by its mode (R492 to R494). -/
def State.counted (s : State) (b : Blk) (k : Nat) : Nat :=
  modeAdds (s.ctl b k) (s.totals b (s.ctl b k)) (Config.freeNat (s.freeCtr + 8192 + k))

/-- The turns of a block add to an enabled counter that is not chained exactly once. -/
theorem State.pmc_countTurns {s : State} {b : Blk} {k : Nat} (hk : k < b.size) (en : Ctl.en (s.ctl b k) = true)
    (chain : Ctl.chain (s.ctl b k) = false) :
    ((List.range b.size).foldl (s.countTurn b) (s, 0)).1.pmc b k = (s.pmc b k + s.counted b k) % 2 ^ 48 := by
  obtain ⟨l₁, l₂, split⟩ := List.append_of_mem (List.mem_range.2 hk)
  have nodup : (l₁ ++ k :: l₂).Nodup := split ▸ List.nodup_range
  have below : ∀ j, j ∈ l₁ ++ k :: l₂ → j < b.size := fun j hj => List.mem_range.1 (split ▸ hj)
  have before : ∀ j ∈ l₁, j < b.size ∧ j ≠ k := fun j hj =>
    ⟨below j (by simp [hj]), fun e => (List.nodup_append.1 nodup).2.2 j hj k (by simp) e⟩
  have after : ∀ j ∈ l₂, j < b.size ∧ j ≠ k := fun j hj =>
    ⟨below j (by simp [hj]), fun e => (List.nodup_cons.1 (List.nodup_append.1 nodup).2.1).1 (e ▸ hj)⟩
  have turn : ∀ a : State × Nat, (s.countTurn b a k) = a.1.countOne b k (s.counted b k) := fun a => by
    simp [State.countTurn, State.counted, en, chain]
  rw [split, List.foldl_append, List.foldl_cons, State.pmc_countTurns_other s b k l₂ after, turn, State.pmc_countOne _ _ hk, if_pos rfl,
    State.pmc_countTurns_other s b k l₁ before]

/-- An enabled counter of a core or a shelf, not chained, has added what it had to count. -/
theorem State.pmc_count {s : State} {b : Blk} {k : Nat} (run : s.power.state = 0) (up : s.hostUp = true) (hb : ∀ n, b ≠ .field n)
    (hk : k < b.size) (en : Ctl.en (s.ctl b k) = true) (chain : Ctl.chain (s.ctl b k) = false) :
    (s.count b).pmc b k = (s.pmc b k + s.counted b k) % 2 ^ 48 := by
  have running : (s.power.state != 0 || s.power.off || s.pcie.held) = false := by
    simp only [State.hostUp, Bool.and_eq_true, Bool.not_eq_true'] at up
    simp [run, up.1.1, up.1.2]
  have block : s.count b = s.countBlock b := by
    cases b with
    | field n => exact absurd rfl (hb n)
    | core c => rfl
    | shelf i => rfl
  rw [block, State.countBlock_eq, running, if_neg Bool.false_ne_true]
  calc ({ ((List.range b.size).foldl (s.countTurn b) (s, 0)).1.clearTally b with freeCtr := s.freeCtr + 16384 } : State).pmc b k
    _ = (((List.range b.size).foldl (s.countTurn b) (s, 0)).1.clearTally b).pmc b k := (State.offNotes_pmc b k).rest _ _ _
    _ = ((List.range b.size).foldl (s.countTurn b) (s, 0)).1.pmc b k := (State.offNotes_pmc b k).clearTally _ _
    _ = (s.pmc b k + s.counted b k) % 2 ^ 48 := State.pmc_countTurns hk en chain

theorem modeAdds_zero {c : Nat} (x : Totals) (fr : Nat) (h : Ctl.mode c = 0) : modeAdds c x fr = x.sum (Ctl.event c) := by
  unfold modeAdds
  rw [h]
  rfl

end Sys2Proof.Machine
end

section
namespace Sys2Proof.Machine

/-! ## The counters' own rows (R487, R489) -/

theorem pmcRead_counter {f : Fn} {bar off k o : Nat} {b : Blk} {s : State} (hf : fnOk f = true) (hu : s.hostUp = true)
    (h : s.regAt f bar off = some (.ctr b o)) (hk : pmcAt b o = some k) : exec (.pmcRead f bar off) s = .next (s.readPmc f b k) := by
  simp only [exec_pmcRead, execPmcRead, hf, hu, h, hk, Bool.not_true, Bool.false_eq_true, if_false]
theorem pmcWrite_counter {f : Fn} {bar off v k o : Nat} {b : Blk} {s : State} (hf : fnOk f = true) (hu : s.hostUp = true)
    (h : s.regAt f bar off = some (.ctr b o)) (hk : pmcAt b o = some k) :
    exec (.pmcWrite f bar off v) s = .next ((s.count b).setPmc b k (v % 2 ^ 48)) := by
  simp only [exec_pmcWrite, execPmcWrite, hf, hu, h, hk, Bool.not_true, Bool.false_eq_true, if_false]

theorem pmcAt_lt {b : Blk} {o k : Nat} (h : pmcAt b o = some k) : k < b.size := by
  unfold pmcAt at h
  split at h
  · rename_i inside
    simp only [Bool.and_eq_true, decide_eq_true_eq] at inside
    obtain rfl := Option.some.inj h
    exact Nat.mod_lt _ (by omega)
  · cases h

/-- What a read answers and latches, from the block brought up to date. -/
theorem State.readPmc_out (s : State) (f : Fn) (b : Blk) (k : Nat) :
    (s.readPmc f b k).out.readData = (s.count b).pmc b k ∧ (s.readPmc f b k).out.readStamp = s.dtb ∧
      Cells.get (fun _ => 0) ((s.readPmc f b k).fn f).stamps (b.num k) = s.dtb := by
  have dtb : (s.count b).dtb = s.dtb := State.offCounters_dtb.count s b
  refine ⟨rfl, dtb, ?_⟩
  unfold State.readPmc
  dsimp only
  generalize s.count b = u at dtb
  show Cells.get (fun _ => 0) ((u.setFn f { u.fn f with stamps := Cells.put (fun _ => 0) (u.fn f).stamps (b.num k) u.dtb }).fn f).stamps
    (b.num k) = s.dtb
  rw [State.fn_setFn_self, ← dtb]
  exact Cells.get_put_self _ _ _ _
theorem State.readPmc_parts (s : State) (f : Fn) (b : Blk) (k : Nat) : (s.readPmc f b k).parts = s.parts := State.offCounters_parts.count s b
theorem State.readPmc_hbm (s : State) (f : Fn) (b : Blk) (k : Nat) : (s.readPmc f b k).hbm = s.hbm := State.offCounters_hbm.count s b
theorem State.readPmc_seq (s : State) (f : Fn) (b : Blk) (k c : Nat) : ((s.readPmc f b k).core c).seq = (s.core c).seq :=
  (State.offCounters_seq c).count s b
/-- Below Active a read changes the reading function's stamps and the answer only. -/
theorem State.readPmc_stopped {s : State} (h : s.power.state ≠ 0) (f : Fn) (b : Blk) (k : Nat) :
    s.readPmc f b k = { s with fns := (s.readPmc f b k).fns, out := (s.readPmc f b k).out } := by
  unfold State.readPmc
  rw [State.count_stopped h]
  rfl

/-- What a write leaves: VALUE replaced, and nothing that no block holds changed. -/
theorem State.writtenPmc_value (s : State) (b : Blk) (k v : Nat) : ((s.count b).setPmc b k v).pmc b k = v := by
  rw [State.pmc_setPmc, if_pos rfl]
theorem State.OffCounters.writtenPmc {α : Type} {π : State → α} (h : State.OffCounters π) (s : State) (b : Blk) (k v : Nat) :
    π ((s.count b).setPmc b k v) = π s := (h.setPmc _ b k v).trans (h.count s b)

/-- A block that is stopped or none of whose counters counts reads as before, once up to date. -/
theorem State.count_still {s : State} {b : Blk} (h : s.power.state ≠ 0 ∨ s.Idle b) (j : Nat) :
    (s.count b).pmc b j = s.pmc b j ∧ (s.count b).ctl b j = s.ctl b j := by
  rcases h with stopped | idle
  · rw [State.count_stopped stopped]
    exact ⟨rfl, rfl⟩
  · exact idle.count j

/-- Settles O46: registers by their access codes, and a counter by what bringing its block up to date makes of it, along the block's turns. -/
theorem registersFollowTheirAccessCodes : Obligations.RegistersFollowTheirAccessCodes := by
  unfold Obligations.RegistersFollowTheirAccessCodes
  refine ⟨?reads, ?writes, ?counters⟩
  case reads =>
    intro f bar off s hf hu
    exact ⟨registerReadClear_unseen hf hu, fun r h hr => registerReadClear_effect hf hu h hr⟩
  case writes =>
    intro f bar off v s hf hu
    exact ⟨registerWrite_unseen hf hu, fun r x bad h hx => registerWrite_staged hf hu h hx,
      fun h => registerWrite_plain hf hu h (by rfl), fun n o h => registerWrite_plain hf hu h (by rfl)⟩
  case counters =>
    intro f bar off v k o b s hf hu h hk
    have read := pmcRead_counter hf hu h hk
    have write := pmcWrite_counter (v := v) hf hu h hk
    obtain ⟨data, stamp, latch⟩ := s.readPmc_out f b k
    have hbm := State.offCounters_hbm.writtenPmc s b k (v % 2 ^ 48)
    have seq : ∀ c, (((s.count b).setPmc b k (v % 2 ^ 48)).core c).seq = (s.core c).seq :=
      fun c => (State.offCounters_seq c).writtenPmc s b k _
    refine ⟨fun idle => ?still, fun run hb en chain => ?counting⟩
    case still =>
      have still := State.count_still idle
      refine ⟨⟨_, read, data.trans (still k).1, stamp, latch, s.readPmc_parts f b k, s.readPmc_hbm f b k,
          fun stopped => State.readPmc_stopped stopped f b k⟩,
        ⟨_, write, s.writtenPmc_value b k _, fun j _ ne => ?_, fun j hj => ?_, hbm, seq⟩⟩
      · rw [State.pmc_setPmc, if_neg ne]; exact (still j).1
      · rw [State.ctl_setPmc _ _ _ _ hj]; exact (still j).2
    case counting =>
      have counted := State.pmc_count run hu hb (pmcAt_lt hk) en chain
      exact ⟨⟨_, read, data.trans counted, stamp, s.readPmc_parts f b k, s.readPmc_hbm f b k, s.readPmc_seq f b k,
          fun mode => modeAdds_zero _ _ mode⟩,
        ⟨_, write, s.writtenPmc_value b k _, hbm, seq⟩⟩

end Sys2Proof.Machine
end

section
namespace Sys2Proof.Machine

/-! ## A lost field lock (R24) -/

theorem exec_fieldPllLockLoss (k : Nat) (s : State) : exec (.fieldPllLockLoss k) s = execFieldPllLockLoss k s := rfl

/-- A lost lock in a powered device above Frost raises the device-fatal condition and changes nothing else. -/
theorem fieldPllLockLoss_raises {k : Nat} {s : State} (hk : k < 4) (hd : s.dead = false) (hp : s.power.state < 2) :
    exec (.fieldPllLockLoss k) s = .next { s with power := { s.power with fatal := true, fatalCause := 1 } } := by
  rw [exec_fieldPllLockLoss, execFieldPllLockLoss, if_neg (by omega), if_neg (by simp [hd]; omega)]

/-- Where the fields do not issue, no core has an instruction to issue. -/
theorem State.ctx_of_not_fieldsRun {s : State} (h : s.fieldsRun = false) (c : Nat) : s.ctx c = none := by
  unfold State.ctx
  split
  · rfl
  · split
    · rfl
    · simp [h]

/-- Every row of the core microprogram is an issue at its core. -/
theorem exec_coreRow {i : Instr} {r : Row} {c : Nat} (h : coreRow i = some (r, c)) (s : State) : ∃ body, exec i s = issue r c s body := by
  cases i <;> cases h
  all_goals exact ⟨_, rfl⟩

/-- A core row changes nothing at a core that has no instruction to issue. -/
theorem exec_coreRow_of_no_ctx {i : Instr} {r : Row} {c : Nat} {s : State} (h : coreRow i = some (r, c)) (hc : c < Config.cores)
    (none : s.ctx c = none) : exec i s = .next s := by
  obtain ⟨body, e⟩ := exec_coreRow h s
  rcases issue_cases r c s body hc with ⟨-, idle⟩ | ⟨x, some, -⟩
  · rw [e, idle]
  · rw [none] at some; cases some

/-- Settles O57: the raised condition stops every field, and a core row without an instruction to issue changes nothing. -/
theorem lostLockStopsEveryField : Obligations.LostLockStopsEveryField := by
  unfold Obligations.LostLockStopsEveryField
  intro k s hk hd hp
  have idle : ∀ c, State.ctx { s with power := { s.power with fatal := true, fatalCause := 1 } } c = none :=
    State.ctx_of_not_fieldsRun (by simp [State.fieldsRun])
  exact ⟨_, fieldPllLockLoss_raises hk hd hp, rfl, rfl, idle, fun i r c h hc => exec_coreRow_of_no_ctx h hc (idle c)⟩

end Sys2Proof.Machine
end

section
namespace Sys2Proof.Machine

/-! ## One edge of the reference (R26, R295) -/

/-- An edge adds 10, one more or less on the last of every 100 (R295). -/
theorem TimeBase.increment_bounds (t : TimeBase) : 9 ≤ t.increment ∧ t.increment ≤ 11 ∧ (t.slewEdge ≠ 99 → t.increment = 10) := by
  unfold TimeBase.increment
  split
  · split
    · omega
    · split <;> omega
  · omega

/-- A strike touches the cores' memories and the free values' counter. -/
theorem State.strike_frame (s : State) : s.strike = { s with cores := s.strike.cores, freeCtr := s.strike.freeCtr } := by
  unfold State.strike
  split
  · rfl
  · split <;> rfl

/-- Of every core it leaves all but the list of wrong bits (R227). -/
theorem State.strike_core (s : State) (c : Nat) : s.strike.core c = { s.core c with upsets := (s.strike.core c).upsets } := by
  have same : ∀ (t : State) (d : Nat) ob w, (t.updCore d (fun k => k.strike ob w)).core c =
      { t.core c with upsets := ((t.updCore d (fun k => k.strike ob w)).core c).upsets } := by
    intro t d ob w
    rw [State.updCore, State.core_setCore]
    split
    · rename_i hd; rw [hd]; rfl
    · rfl
  unfold State.strike
  split
  · rfl
  · split
    · rfl
    · exact same _ _ _ _

/-- An edge of a powered module above Permafrost: the time base moves, and a bit of a core's memories may go wrong. -/
theorem State.edge_counts {s : State} (off : s.power.off = false) (above : s.power.state ≠ 3) :
    s.edge = ({ s with time := s.time.edge } : State).strike := by
  rw [State.edge, if_neg (by simp [off, above])]

theorem step_idle {s : State} (h : s.pending = []) : step s = .next s.edge := by rw [step, h]

theorem edge_of_idle {s : State} (idle : s.pending = []) (off : s.power.off = false) (above : s.power.state ≠ 3) :
    ∃ t d, step s = .next t ∧ t = { s with time := t.time, cores := t.cores, freeCtr := t.freeCtr } ∧
      (∀ c, t.core c = { s.core c with upsets := (t.core c).upsets }) ∧
      t.time.dtb = (s.time.dtb + d) % 2 ^ 64 ∧ 9 ≤ d ∧ d ≤ 11 ∧ (s.time.slewEdge ≠ 99 → d = 10) := by
  obtain ⟨low, high, plain⟩ := s.time.increment_bounds
  have time : s.edge.time = s.time.edge := by rw [State.edge_counts off above, State.strike_frame]
  refine ⟨_, s.time.increment, step_idle idle, ?_, fun c => ?_, by rw [time]; rfl, low, high, plain⟩
  · rw [State.edge_counts off above, State.strike_frame]
  · rw [State.edge_counts off above]
    exact State.strike_core _ c

/-! ## DTB_BROADCAST (R26) -/

theorem exec_dtbBroadcast (s : State) : exec .dtbBroadcast s = execDtbBroadcast s := rfl

/-- A table built key by key from a function of the key reads as that function at every key of the list. -/
theorem Cells.get_built {α : Type} [DecidableEq α] (d g : Nat → α) (k : Nat) (l : List Nat) (m : List (Nat × α)) :
    Cells.get d (l.foldl (fun m j => Cells.put d m j (g j)) m) k = if k ∈ l then g k else Cells.get d m k := by
  induction l generalizing m with
  | nil => simp
  | cons j r ih =>
    rw [List.foldl_cons, ih, Cells.get_put]
    by_cases hr : k ∈ r
    · simp [hr]
    · by_cases hj : k = j <;> simp [hr, hj]

theorem dtbBroadcast_copies {s : State} (off : s.power.off = false) (above : s.power.state ≠ 3) :
    ∃ t, exec .dtbBroadcast s = .next t ∧ t = { s with time := t.time } ∧ t.time = { s.time with copies := t.time.copies } ∧
      ∀ k, k < 19 → t.time.copy k = max s.time.dtb (s.time.copy k) := by
  rw [exec_dtbBroadcast, execDtbBroadcast, if_neg (by simp [off, above])]
  refine ⟨_, rfl, rfl, rfl, fun k hk => ?_⟩
  exact (Cells.get_built (fun _ => 0) (fun k => max s.time.dtb (s.time.copy k)) k dtbCopies []).trans
    (if_pos (List.mem_range.2 hk))

/-! ## Leaving LOCKED (R297) and re-deriving parent and state (R294) -/

/-- Leaving LOCKED changes the lock, its counts and what an event changes. -/
theorem State.unlock_frame (s : State) : s.unlock = { s with
    time := { s.time with locked := s.unlock.time.locked, lockCount := s.unlock.time.lockCount, unlocks := s.unlock.time.unlocks }
    fns := s.unlock.fns
    out := s.unlock.out } := by
  unfold State.unlock
  split
  · rfl
  · dsimp only
    rw [State.event_frame]
/-- It counts the departure once. -/
theorem State.unlock_locked {s : State} (h : s.time.locked = true) :
    s.unlock.time.locked = false ∧ s.unlock.time.unlocks = satAdd 0xFFFF s.time.unlocks 1 := by
  unfold State.unlock
  rw [if_neg (by simp [h])]
  dsimp only
  rw [State.event_frame]
  exact ⟨rfl, rfl⟩

/-- What follows from the neighbours: the parent, the distance to the grandmaster and STATE. -/
theorem State.timeRefresh_frame (s : State) : s.timeRefresh = { s with time := { s.time with
    parentPort := s.timeRefresh.time.parentPort, parent := s.timeRefresh.time.parent, hops := s.timeRefresh.time.hops,
    noParentSince := s.timeRefresh.time.noParentSince, state := s.timeRefresh.time.state } } := rfl

theorem exec_dtbParentTimeout (s : State) : exec .dtbParentTimeout s = execDtbParentTimeout s := rfl

theorem dtbParentTimeout_early {s : State} (h : s.time.dtb < s.time.noParentSince + 100000) : exec .dtbParentTimeout s = .next s := by
  rw [exec_dtbParentTimeout, execDtbParentTimeout, if_neg (by simp; omega)]

theorem dtbParentTimeout_unlocks {s : State} (locked : s.time.locked = true) (orphan : s.time.parentPort = none)
    (notGm : s.time.isGm = false) (due : s.time.noParentSince + 100000 ≤ s.time.dtb) :
    ∃ t, exec .dtbParentTimeout s = .next t ∧ t.time.locked = false ∧ t.time.unlocks = satAdd 0xFFFF s.time.unlocks 1 ∧
      t.time.dtb = s.time.dtb ∧ t.ports = s.ports ∧ t.cores = s.cores ∧ t.parts = s.parts := by
  obtain ⟨left, counted⟩ := State.unlock_locked locked
  rw [exec_dtbParentTimeout, execDtbParentTimeout, if_pos (by simp [locked, orphan, notGm, due])]
  refine ⟨_, rfl, left, counted, ?_, ?_, ?_, ?_⟩
  all_goals rw [State.timeRefresh_frame, State.unlock_frame]

/-! ## PPS_EDGE (R296) -/

theorem exec_ppsEdge (s : State) : exec .ppsEdge s = execPpsEdge s := rfl

/-- Whether a grandmaster has lost its count and no live peer reports a valid one. -/
def State.alone (s : State) : Bool := s.time.dtbLost && s.time.nbrs.all (fun n => n.2.1 == 0 || !(s.port n.1).up)

theorem State.alone_iff (s : State) :
    s.alone = true ↔ s.time.dtbLost = true ∧ ∀ n, n ∈ s.time.nbrs → n.2.1 = 0 ∨ (s.port n.1).up = false := by
  simp [State.alone]

/-- How far an edge of the 1 PPS lies from the nearest whole second of the DTB. -/
def TimeBase.ppsError (t : TimeBase) : Int :=
  if t.dtb % 1000000000 < 500000000 then ((t.dtb % 1000000000 : Nat) : Int) else ((t.dtb % 1000000000 : Nat) : Int) - 1000000000

/-- The whole second that is next at a count. -/
def nextSecond (d : Nat) : Nat := d + (1000000000 - d % 1000000000) % 1000000000

theorem nextSecond_spec (d : Nat) : nextSecond d % 1000000000 = 0 ∧ d ≤ nextSecond d ∧ nextSecond d < d + 1000000000 := by
  unfold nextSecond
  omega

/-- What a 1 PPS edge at a grandmaster does before it notes itself: align the DTB, or steer it. -/
def State.ppsTaken (s : State) : State := if s.alone then s.stepDtb (nextSecond s.time.dtb : Nat) else s.offset s.time.ppsError

theorem ppsEdge_taken {s : State} (gm : s.time.isGm = true) (en : s.time.ppsEn = true) (off : s.power.off = false)
    (held : s.pcie.held = false) :
    exec .ppsEdge s = .next { s.ppsTaken with time := { s.ppsTaken.time with ppsSeen := true, ppsDtb := s.ppsTaken.time.dtb } } := by
  rw [exec_ppsEdge, execPpsEdge, if_neg (by simp [gm, en, off, held])]
  rfl

/-- A step forward to a time that the DTB can hold. -/
theorem State.stepDtb_time {s : State} {v : Nat} (h : s.time.dtb ≤ v) (fits : v < 2 ^ 64) :
    (s.stepDtb v).time.dtb = v ∧ (s.stepDtb v).time.dtbLost = false := by
  refine ⟨?_, rfl⟩
  show max s.time.dtb v % 2 ^ 64 = v
  rw [Nat.max_eq_right h, Nat.mod_eq_of_lt fits]

/-- An offset steers the DTB and does not step it; what it takes is the median of the last 8 (R295). -/
theorem State.offset_time (s : State) (theta : Int) : (s.offset theta).time.dtb = s.time.dtb ∧
    (s.offset theta).time.offset = median ((s.offset theta).time.thetas.map (·.2)) ∧ (s.offset theta).time.thetas.length ≤ 8 := by
  have taken : (s.offset theta).time.dtb = s.time.dtb ∧ (s.offset theta).time.thetas = ((0, theta) :: s.time.thetas).take 8 ∧
      (s.offset theta).time.offset = median ((((0, theta) :: s.time.thetas).take 8).map (·.2)) := by
    unfold State.offset
    dsimp only
    rw [State.timeRefresh_frame]
    split
    · rw [State.unlock_frame]; exact ⟨rfl, rfl, rfl⟩
    · exact ⟨rfl, rfl, rfl⟩
  obtain ⟨dtb, thetas, offset⟩ := taken
  refine ⟨dtb, by rw [offset, thetas], ?_⟩
  rw [thetas, List.length_take]
  exact Nat.min_le_left _ _

theorem ppsEdge_grandmaster {s : State} (gm : s.time.isGm = true) (en : s.time.ppsEn = true) (off : s.power.off = false)
    (held : s.pcie.held = false) (fits : s.time.dtb + 1000000000 < 2 ^ 64) :
    ∃ t, exec .ppsEdge s = .next t ∧ t.time.ppsSeen = true ∧ t.time.ppsDtb = t.time.dtb ∧
      (s.time.dtbLost = true → (∀ n, n ∈ s.time.nbrs → n.2.1 = 0 ∨ (s.port n.1).up = false) → t.time.dtb % 1000000000 = 0 ∧
        s.time.dtb ≤ t.time.dtb ∧ t.time.dtb < s.time.dtb + 1000000000 ∧ t.time.dtbLost = false) ∧
      (s.time.dtbLost = false ∨ (∃ n, n ∈ s.time.nbrs ∧ n.2.1 ≠ 0 ∧ (s.port n.1).up = true) → t.time.dtb = s.time.dtb ∧
        t.time.offset = median (t.time.thetas.map (·.2)) ∧ t.time.thetas.length ≤ 8) := by
  refine ⟨_, ppsEdge_taken gm en off held, rfl, rfl, fun lost silent => ?aligned, fun heard => ?steered⟩
  case aligned =>
    obtain ⟨whole, later, soon⟩ := nextSecond_spec s.time.dtb
    obtain ⟨dtb, found⟩ := State.stepDtb_time later (by omega)
    rw [State.ppsTaken, if_pos (s.alone_iff.2 ⟨lost, silent⟩)]
    dsimp only
    rw [dtb]
    exact ⟨whole, later, soon, found⟩
  case steered =>
    have kept : ¬ s.alone = true := by
      rw [State.alone_iff]
      rintro ⟨lost, silent⟩
      rcases heard with found | ⟨n, mem, valid, up⟩
      · rw [lost] at found; cases found
      · rcases silent n mem with zero | down
        · exact valid zero
        · rw [up] at down; cases down
    rw [State.ppsTaken, if_neg kept]
    exact s.offset_time _

/-- Settles O34: the edge by its frame, the broadcast by what it builds, the 1 PPS by its two cases, the timeout by leaving LOCKED. -/
theorem timeBaseRuns : Obligations.TimeBaseRuns := by
  unfold Obligations.TimeBaseRuns
  refine ⟨?edge, ?broadcast, ?pps, ?parent⟩
  case edge => exact fun s idle off above => edge_of_idle idle off above
  case broadcast => exact fun s off above => dtbBroadcast_copies off above
  case pps => exact fun s gm en off held fits => ppsEdge_grandmaster gm en off held fits
  case parent =>
    exact fun s locked orphan notGm => ⟨dtbParentTimeout_early, dtbParentTimeout_unlocks locked orphan notGm⟩

end Sys2Proof.Machine
end

section
namespace Sys2Proof.Machine

/-! ## What memory writes and revoked leases leave of a partition -/

/-- Partition `y` is partition `x` but for its claim counters, recovery points and lock leases, and for reports that joined its queue. -/
def Partition.Lasts (x y : Partition) : Prop := ∃ cs ps ls more, y = { x with
  counters := cs
  job := { x.job with reports := x.job.reports ++ more }
  rcv := { x.rcv with points := ps, locks := ls } }

theorem Partition.Lasts.refl (x : Partition) : x.Lasts x := ⟨x.counters, x.rcv.points, x.rcv.locks, [], by simp⟩
theorem Partition.Lasts.trans {x y z : Partition} (h : x.Lasts y) (g : y.Lasts z) : x.Lasts z := by
  obtain ⟨_, _, _, more, rfl⟩ := h
  obtain ⟨cs, ps, ls, late, rfl⟩ := g
  exact ⟨cs, ps, ls, more ++ late, by simp⟩

/-- What such partitions agree in. -/
theorem Partition.Lasts.image {x y : Partition} (h : x.Lasts y) : y.image = x.image := by obtain ⟨_, _, _, _, rfl⟩ := h; rfl
theorem Partition.Lasts.rollbacks {x y : Partition} (h : x.Lasts y) : y.rcv.rollbacks = x.rcv.rollbacks := by
  obtain ⟨_, _, _, _, rfl⟩ := h; rfl
theorem Partition.Lasts.job {x y : Partition} (h : x.Lasts y) : ∃ more, y.job = { x.job with reports := x.job.reports ++ more } := by
  obtain ⟨_, _, _, more, rfl⟩ := h; exact ⟨more, rfl⟩

/-- Every partition lasts so from one state to another. -/
def State.PartsLast (s t : State) : Prop := ∀ q, (s.part q).Lasts (t.part q)

theorem State.PartsLast.trans {s t u : State} (h : s.PartsLast t) (g : t.PartsLast u) : s.PartsLast u := fun q => (h q).trans (g q)
theorem State.PartsLast.of_parts {s t : State} (h : t.parts = s.parts) : s.PartsLast t := fun q => by
  unfold State.part
  rw [h]
  exact .refl _
theorem State.PartsLast.refl (s : State) : s.PartsLast s := .of_parts rfl
theorem State.PartsLast.foldl {β : Type} {f : State → β → State} (h : ∀ (s : State) b, s.PartsLast (f s b)) (l : List β) (s : State) :
    s.PartsLast (l.foldl f s) := by
  induction l generalizing s with
  | nil => exact .refl s
  | cons b r ih => exact (h s b).trans (ih _)

/-- A partition reads as what it was changed to, every other as before. -/
theorem State.part_updPart (s : State) (p q : Nat) (f : Partition → Partition) :
    (s.updPart p f).part q = if q = p then f (s.part p) else s.part q := State.part_setPart _ _ _ _
@[simp] theorem State.part_updPart_self (s : State) (p : Nat) (f : Partition → Partition) : (s.updPart p f).part p = f (s.part p) :=
  State.part_setPart_self _ _ _
@[simp] theorem State.part_updJob_self (s : State) (p : Nat) (f : JobState → JobState) :
    (s.updJob p f).part p = { s.part p with job := f (s.part p).job } := State.part_setPart_self _ _ _
@[simp] theorem State.part_updRcv_self (s : State) (p : Nat) (f : RecState → RecState) :
    (s.updRcv p f).part p = { s.part p with rcv := f (s.part p).rcv } := State.part_setPart_self _ _ _

theorem State.updPart_lasts (s : State) (p : Nat) {f : Partition → Partition} (h : (s.part p).Lasts (f (s.part p))) :
    s.PartsLast (s.updPart p f) := fun q => by
  rw [State.part_updPart]
  split
  · rename_i e; rw [e]; exact h
  · exact .refl _

/-! ## Writes to memory -/

theorem State.report_lasts (s : State) (p st d b : Nat) (u : UnitId) : s.PartsLast (s.report p st d b u) :=
  s.updPart_lasts p ⟨(s.part p).counters, (s.part p).rcv.points, (s.part p).rcv.locks, [(st, d, b, u.kind * 65536 + u.num)], rfl⟩
theorem State.points_lasts (s : State) (p : Nat) (f : RecState → List RecPoint) :
    s.PartsLast (s.updRcv p (fun r => { r with points := f r })) :=
  s.updPart_lasts p ⟨(s.part p).counters, f (s.part p).rcv, (s.part p).rcv.locks, [], by simp⟩
theorem State.calve_lasts (s : State) (p x : Nat) : s.PartsLast (s.calve p x) := by
  unfold State.calve
  split
  · rename_i q rest _ _
    split
    · split
      · exact s.points_lasts p (fun _ => _)
      · exact (s.points_lasts p (fun _ => rest.reverse)).trans (.of_parts (by rw [State.event_frame]))
    · exact .refl s
  · exact .refl s
theorem State.storeByte_lasts (s : State) (p cls a : Nat) (b : Byte) : s.PartsLast (s.storeByte p cls a b) :=
  .of_parts (by rw [(s.storeByte_spec p cls a b).1.eq])
theorem State.storeBytes_lasts (p cls : Nat) (lift : Bool) (es : List (Nat × Byte)) :
    ∀ s : State, s.PartsLast (s.storeBytes p cls lift es) := by
  induction es with
  | nil => exact State.PartsLast.refl
  | cons e r ih =>
    intro s
    rw [State.storeBytes]
    refine .trans ?_ (ih _)
    split
    · split
      · exact .refl s
      · refine .trans ?_ (State.storeByte_lasts _ _ _ _ _)
        split
        · exact s.calve_lasts p e.1
        · exact .refl s
    · exact .refl s
theorem State.fenceReport_lasts (s : State) (p b : Nat) (xs : List Nat) : s.PartsLast (s.fenceReport p b xs) := by
  unfold State.fenceReport
  split
  · exact .refl s
  · exact s.report_lasts _ _ _ _ _
theorem State.storeAt_lasts (s : State) (p cls : Nat) (lift : Bool) (x : Nat) (bs : List Byte) : s.PartsLast (s.storeAt p cls lift x bs) :=
  (State.storeBytes_lasts p cls lift _ s).trans (State.fenceReport_lasts _ _ _ _)
theorem State.storeX_lasts (s : State) (p x : Nat) (bs : List Byte) : s.PartsLast (s.storeX p x bs) := s.storeAt_lasts _ _ _ _ _
theorem State.writeP_lasts (s : State) (p x : Nat) (bs : List Byte) : s.PartsLast (s.writeP p x bs) := s.storeAt_lasts _ _ _ _ _
theorem State.writeX_lasts (s : State) (p x : Nat) (bs : List Byte) : s.PartsLast (s.writeX p x bs) := s.storeAt_lasts _ _ _ _ _

theorem State.storeRun_lasts (p : Nat) (bs : List Byte) : ∀ (s : State) (a : Nat), s.PartsLast (s.storeRun p a bs) := by
  induction bs with
  | nil => exact fun s _ => .refl s
  | cons b r ih => exact fun s a => ((s.calve_lasts p _).trans (State.storeByte_lasts _ _ _ _ _)).trans (ih _ _)
theorem State.storeF_lasts (s : State) (p a : Nat) (bs : List Byte) : s.PartsLast (s.storeF p a bs) := by
  unfold State.storeF
  dsimp only
  split
  · exact State.storeRun_lasts p bs s a
  · exact (State.storeRun_lasts p bs s a).trans (State.report_lasts _ _ _ _ _ _)

/-! ## Revoked leases (R225, R454, R455) -/

theorem State.updCounter_lasts (s : State) (p n : Nat) (f : Counter → Counter) : s.PartsLast (s.updCounter p n f) :=
  s.updPart_lasts p ⟨_, (s.part p).rcv.points, (s.part p).rcv.locks, [], by simp only [List.append_nil]; rfl⟩
theorem State.updCounter_core (s : State) (p n : Nat) (f : Counter → Counter) (d : Nat) : (s.updCounter p n f).core d = s.core d := rfl
theorem State.putLedger_lasts (s : State) (p : Nat) (im : Image) (n idx v : Nat) : s.PartsLast (s.putLedger p im n idx v) :=
  s.writeP_lasts _ _ _
theorem State.putLedger_core (s : State) (p : Nat) (im : Image) (n idx v d : Nat) : (s.putLedger p im n idx v).core d = s.core d := by
  rw [State.putLedger, State.writeP, State.storeAt_frame]
  rfl
theorem State.revoke_lasts (s : State) (p : Nat) (im : Image) (n idx core tok : Nat) : s.PartsLast (s.revoke p im n idx core tok) := by
  unfold State.revoke
  split
  · exact .refl s
  · exact (s.updCounter_lasts _ _ _).trans (State.putLedger_lasts _ _ _ _ _ _)
theorem State.revoke_core (s : State) (p : Nat) (im : Image) (n idx core tok d : Nat) :
    (s.revoke p im n idx core tok).core d = s.core d := by
  unfold State.revoke
  split
  · rfl
  · rw [State.putLedger_core, State.updCounter_core]

theorem State.revokeClaims_lasts (s : State) (p : Nat) : s.PartsLast (s.revokeClaims p) := by
  unfold State.revokeClaims
  split
  · exact .refl s
  · exact .foldl (fun t n => (State.PartsLast.foldl (fun u e => u.revoke_lasts _ _ _ _ _ _) _ t).trans (State.updCounter_lasts _ _ _ _)) _ s
theorem State.revokeCore_lasts (s : State) (p c : Nat) : s.PartsLast (s.revokeCore p c) := by
  unfold State.revokeCore
  split
  · exact .refl s
  · refine .foldl (fun t n => (State.PartsLast.foldl (fun u e => ?_) _ t).trans (State.updCounter_lasts _ _ _ _)) _ s
    dsimp only
    split
    · exact u.revoke_lasts _ _ _ _ _ _
    · exact .refl u
theorem State.revokeCore_core (s : State) (p c d : Nat) : (s.revokeCore p c).core d = s.core d := by
  unfold State.revokeCore
  split
  · rfl
  · refine foldl_keeps (fun t => t.core d) (fun t n => ?_) _ s
    rw [State.updCounter_core]
    refine foldl_keeps (fun t => t.core d) (fun u e => ?_) _ t
    dsimp only
    split
    · exact u.revoke_core _ _ _ _ _ _ d
    · rfl
theorem State.tell_parts (s : State) (p : Nat) : (s.tell p).parts = s.parts := by
  unfold State.tell
  split
  · exact foldl_keeps State.parts (fun _ _ => by rfl) _ s
  · rfl
theorem State.revokeChans_parts (s : State) (p : Nat) : (s.revokeChans p).parts = s.parts := by
  unfold State.revokeChans
  split
  · rfl
  · rw [State.tell_parts]
    exact foldl_keeps State.parts (fun _ _ => by rfl) _ s
theorem State.revokeLocks_lasts (s : State) (p : Nat) : s.PartsLast (s.revokeLocks p) :=
  s.updPart_lasts p ⟨(s.part p).counters, (s.part p).rcv.points, [], [], by simp⟩

/-! ## Clearing a partition and resetting its cores (R460, R472) -/

/-- A store that takes place where a region is found. -/
theorem State.storeF_found_lasts (s : State) (p : Nat) (o : Option Region) (a : Region → Nat) (bs : Region → List Byte) :
    s.PartsLast (match o with | some g => s.storeF p (a g) (bs g) | none => s) := by
  split
  · exact s.storeF_lasts _ _ _
  · exact .refl s
theorem State.zeroRecords_lasts (s : State) (p k : Nat) : s.PartsLast (s.zeroRecords p k) := by
  unfold State.zeroRecords
  dsimp only
  refine State.PartsLast.trans (.foldl ?_ _ s) (.foldl ?_ _ _)
  · exact fun s o => s.storeF_found_lasts p _ (fun g => g.recAt o.2) (fun _ => leBytes 64 0)
  · exact fun s o => s.storeF_found_lasts p _ (fun g => g.ordAt o.2.1) (fun g => leBytes (16 + 4 * g.expect) 0)
theorem State.zeroBanks_lasts (s : State) (p g : Nat) : s.PartsLast (s.zeroBanks p g) := by
  unfold State.zeroBanks
  split
  · exact .refl s
  · split
    · exact .refl s
    · split
      · exact .refl s
      · split
        · exact .refl s
        · exact s.storeX_lasts _ _ _
theorem State.clearPart_lasts (s : State) (p : Nat) : s.PartsLast (s.clearPart p) := by
  unfold State.clearPart
  extract_lets chans s0 s1 s2 s3
  have records : s.PartsLast s0 := .foldl (fun t k => t.zeroRecords_lasts p k) _ s
  have shelves : s1.parts = s0.parts := foldl_keeps State.parts (fun _ _ => by rfl) _ s0
  have channels : s2.parts = s1.parts := foldl_keeps State.parts (fun _ _ => by rfl) _ s1
  have banks : s2.PartsLast s3 := .foldl (fun t g => by
    split
    · exact .refl t
    · exact (t.zeroBanks_lasts p g).trans (.of_parts rfl)) _ s2
  have cleared : s.PartsLast s3 := (records.trans (.of_parts (channels.trans shelves))).trans banks
  clear_value s3
  exact cleared.trans (.of_parts rfl)
theorem State.setMarks_parts (s : State) (p : Nat) (q : RecPoint) : (s.setMarks p q).parts = s.parts := by
  unfold State.setMarks
  refine foldl_keeps State.parts (fun t g => ?_) _ s
  split <;> rfl
theorem State.clearStamps_parts (s : State) (hit : Nat → Bool) : (s.clearStamps hit).parts = s.parts :=
  foldl_keeps State.parts (fun _ _ => by rfl) _ s
theorem State.resetCore_parts (s : State) (c : Nat) : (s.resetCore c).parts = s.parts := by
  unfold State.resetCore
  dsimp only
  rw [State.clearStamps_parts]
  exact State.offCounters_parts.count s _

theorem State.unland_lasts (s : State) (p : Nat) (ls : List Landed) : s.PartsLast (s.unland p ls) :=
  .foldl (fun t _ => t.writeP_lasts _ _ _) _ s
theorem State.restoreCalf_lasts (s : State) (p : Nat) (qs : List RecPoint) : s.PartsLast (s.restoreCalf p qs) := by
  unfold State.restoreCalf
  exact .foldl (fun t q => .foldl (fun u _ => u.writeX_lasts _ _ _) _ t) _ s

end Sys2Proof.Machine
end

section
namespace Sys2Proof.Machine

/-! ## Stopping a partition (R450) -/

/-- With no part of a commit waiting, no unit has one to apply. -/
theorem State.releaseUnits_of_none {s : State} (h : s.commit.waiting = []) : s.releaseUnits = s := by
  simp [State.releaseUnits, State.applyDue, h]

/-- What a change of a sequencer always establishes holds at every core of a list that it was made at. -/
theorem foldl_updSeq_core {P : Seq → Prop} {f : Seq → Seq} (h : ∀ q, P (f q)) (c : Nat) (l : List Nat) :
    ∀ s : State, c ∈ l ∨ P (s.core c).seq → P ((l.foldl (fun s d => s.updSeq d f) s).core c).seq := by
  induction l with
  | nil => intro s hc; exact hc.resolve_left (by simp)
  | cons d r ih =>
    intro s hc
    rw [List.foldl_cons]
    refine ih _ ?_
    rw [State.updSeq, State.updCore, State.core_setCore]
    by_cases hd : c = d
    · rw [if_pos hd]; exact .inr (h _)
    · rw [if_neg hd]
      exact hc.imp (fun m => (List.mem_cons.1 m).resolve_left hd) id

/-- Stopping changes cores and the partition's run. -/
theorem State.stopCores_frame {s : State} (h : s.commit.waiting = []) (p : Nat) :
    s.stopCores p = ({ s with cores := (s.stopCores p).cores } : State).updJob p
      (fun j => { j with stopped := (s.part p).image.isSome, running := false }) := by
  unfold State.stopCores
  extract_lets s1
  have cores : s1 = { s with cores := s1.cores } := foldl_coresOnly (fun _ _ => by rfl) _ s
  rw [State.releaseUnits_of_none (by rw [State.updJob_commit, cores]; exact h), cores]
  rfl
theorem State.stopCores_part {s : State} (h : s.commit.waiting = []) (p : Nat) : (s.stopCores p).part p =
    { s.part p with job := { (s.part p).job with stopped := (s.part p).image.isSome, running := false } } := by
  rw [State.stopCores_frame h, State.part_updJob_self]
  rfl
/-- Every core of its blocks reads RUN 5. -/
theorem State.stopCores_run {s : State} (h : s.commit.waiting = []) {p c : Nat} (hc : c ∈ geoCores (s.part p).geo) :
    ((s.stopCores p).core c).seq.run = 5 := by
  unfold State.stopCores
  extract_lets s1
  have cores : s1 = { s with cores := s1.cores } := foldl_coresOnly (fun _ _ => by rfl) _ s
  rw [State.releaseUnits_of_none (by rw [State.updJob_commit, cores]; exact h)]
  refine foldl_updSeq_core (P := fun q => q.run = 5) (fun q => ?_) c _ s (.inl hc)
  split
  · assumption
  · rfl

/-! ## CONTAINED_FAULT (R450, R466) -/

theorem exec_containedFault (p : Nat) (a : Bool) (s : State) : exec (.containedFault p a) s = execContainedFault p a s := rfl

@[simp] theorem State.event_part (s : State) (e : Event) (p : Nat) : (s.event e).part p = s.part p := by rw [State.event_frame]; rfl
theorem State.recordFault_part (s : State) (p st d b src : Nat) : ∃ l, (s.recordFault p st d b src).part p =
    { s.part p with job := { (s.part p).job with lastFault := st, history := l } } := by
  unfold State.recordFault
  dsimp only
  rw [State.event_part]
  exact ⟨_, State.part_updJob_self _ _ _⟩
theorem State.recordFault_core (s : State) (p st d b src c : Nat) : (s.recordFault p st d b src).core c = s.core c := by
  unfold State.recordFault
  dsimp only
  rw [State.event_frame]
  rfl

/-- An announcement changes ports and takes free values. -/
theorem State.announce_keeps {α : Type} (π : State → α) (hπ : ∀ (t : State) ps n, π { t with ports := ps, freeCtr := n } = π t)
    (s : State) (p : Nat) : π (s.announce p) = π s := by
  unfold State.announce
  split
  · split
    · rfl
    · refine foldl_keeps π (fun t n => ?_) _ s
      split
      · rfl
      · dsimp only
        split
        · rfl
        · exact hπ t _ _
  · rfl

/-- The claims of cores of a partition are revoked. -/
def State.revokeCores (s : State) (p : Nat) (cs : List Nat) : State := cs.foldl (fun t c => t.revokeCore p c) s
theorem State.revokeCores_lasts (s : State) (p : Nat) (cs : List Nat) : s.PartsLast (s.revokeCores p cs) :=
  .foldl (fun t c => t.revokeCore_lasts p c) cs s
theorem State.revokeCores_core (s : State) (p : Nat) (cs : List Nat) (d : Nat) : (s.revokeCores p cs).core d = s.core d :=
  foldl_keeps (fun t => t.core d) (fun t c => t.revokeCore_core p c d) cs s

/-- Containing a fault stops and records, revokes the claims of cores that faulted, and sets REC_STATE (R225, R450, R466). -/
theorem State.contain_eq (s : State) (p : Nat) (im : Image) (st d b src : Nat) : ∃ cs n lost, (n = 1 ∨ n = 4 ∨ n = 5) ∧
    s.contain p im st d b src = (((s.stopCores p).recordFault p st d b src).revokeCores p cs).updRcv p
      (fun r => { r with state := n, lost := lost }) := by
  have code : ∀ lone none : Bool, (if lone then 5 else if none then 4 else 1) = 1 ∨ (if lone then 5 else if none then 4 else 1) = 4 ∨
      (if lone then 5 else if none then 4 else 1) = 5 := by decide
  exact ⟨_, _, _, code _ _, rfl⟩
theorem State.contain_core (s : State) (p : Nat) (im : Image) (st d b src c : Nat) :
    (s.contain p im st d b src).core c = (s.stopCores p).core c := by
  obtain ⟨cs, n, lost, -, e⟩ := s.contain_eq p im st d b src
  rw [e]
  exact (State.revokeCores_core _ p cs c).trans (State.recordFault_core _ _ _ _ _ _ c)
theorem State.contain_part {s : State} (h : s.commit.waiting = []) (p : Nat) (im : Image) (st d b src : Nat) :
    ∃ x more l n lost, (n = 1 ∨ n = 4 ∨ n = 5) ∧ (s.contain p im st d b src).part p = x ∧ x.image = (s.part p).image ∧
      x.job = { (s.part p).job with
        stopped := (s.part p).image.isSome, running := false, lastFault := st, history := l
        reports := (s.part p).job.reports ++ more } ∧ x.rcv = { x.rcv with state := n, lost := lost } := by
  obtain ⟨cs, n, lost, hn, e⟩ := s.contain_eq p im st d b src
  obtain ⟨l, recorded⟩ := (s.stopCores p).recordFault_part p st d b src
  rw [State.stopCores_part h] at recorded
  have lasts := State.revokeCores_lasts ((s.stopCores p).recordFault p st d b src) p cs p
  rw [recorded] at lasts
  obtain ⟨more, job⟩ := lasts.job
  refine ⟨_, more, l, n, lost, hn, rfl, ?_, ?_, ?_⟩
  · rw [e, State.part_updRcv_self]; exact lasts.image
  · rw [e, State.part_updRcv_self]; exact job
  · rw [e, State.part_updRcv_self]

theorem containedFault_unreported {p : Nat} {s : State} {im : Image} (hp : p < 16) (hi : (s.part p).image = some im)
    (none : (s.part p).job.reports = []) : exec (.containedFault p false) s = .next s := by
  rw [exec_containedFault, execContainedFault, if_neg (by omega), hi, none]
  rfl

/-- The state in which the oldest report of a partition has been taken. -/
def State.taken (s : State) (p : Nat) (rest : List (Nat × Nat × Nat × Nat)) : State := s.updJob p (fun j => { j with reports := rest })

theorem State.taken_part (s : State) (p : Nat) (rest : List (Nat × Nat × Nat × Nat)) :
    (s.taken p rest).part p = { s.part p with job := { (s.part p).job with reports := rest } } := State.part_updJob_self _ _ _

theorem containedFault_reported {p st d b src : Nat} {a : Bool} {s : State} {im : Image} {rest : List (Nat × Nat × Nat × Nat)} (hp : p < 16)
    (hi : (s.part p).image = some im) (reported : (s.part p).job.reports = (st, d, b, src) :: rest) :
    exec (.containedFault p a) s = .next (((s.taken p rest).contain p im st d b src).announce p) := by
  rw [exec_containedFault, execContainedFault, if_neg (by omega), hi, reported]
  rfl

/-- The oldest report of a partition is taken, and the partition stops. -/
theorem containedFault_stops {p st d b src : Nat} {a : Bool} {s : State} {im : Image} {rest : List (Nat × Nat × Nat × Nat)} (hp : p < 16)
    (hi : (s.part p).image = some im) (reported : (s.part p).job.reports = (st, d, b, src) :: rest) (settled : s.commit.waiting = []) :
    ∃ t, exec (.containedFault p a) s = .next t ∧ (∃ more, (t.part p).job.reports = rest ++ more) ∧ (t.part p).job.stopped = true ∧
      (t.part p).job.running = false ∧ (t.part p).job.lastFault = st ∧
      ((t.part p).rcv.state = 1 ∨ (t.part p).rcv.state = 4 ∨ (t.part p).rcv.state = 5) ∧ (t.part p).image = some im ∧
      ∀ c, c ∈ geoCores (s.part p).geo → (t.core c).seq.run = 5 := by
  have still : (s.taken p rest).commit.waiting = [] := settled
  obtain ⟨x, more, l, n, lost, hn, part, image, job, rcv⟩ := State.contain_part still p im st d b src
  rw [State.taken_part] at image job
  have part : (((s.taken p rest).contain p im st d b src).announce p).part p = x :=
    (State.announce_keeps (fun t => t.part p) (fun _ _ _ => rfl) _ p).trans part
  have core : ∀ c, (((s.taken p rest).contain p im st d b src).announce p).core c = ((s.taken p rest).stopCores p).core c :=
    fun c => (State.announce_keeps (fun t => t.core c) (fun _ _ _ => rfl) _ p).trans (State.contain_core _ p im st d b src c)
  refine ⟨_, containedFault_reported hp hi reported, ?_⟩
  rw [part, job, rcv, image, hi]
  refine ⟨⟨more, rfl⟩, rfl, rfl, rfl, hn, rfl, fun c hc => ?_⟩
  rw [core]
  exact State.stopCores_run still (by rw [State.taken_part]; exact hc)

end Sys2Proof.Machine
end

section
namespace Sys2Proof.Machine

/-! ## ROLLBACK (R460, R461) -/

theorem exec_rollback (p fp : Nat) (s : State) : exec (.rollback p fp) s = execRollback p fp s := rfl

/-- Planning the next checkpoint sets figures of the plan only (R463). -/
theorem State.ckptPlan_eq (s : State) (p : Nat) (im : Image) (event : Nat) : ∃ m i n, ∃ f : RecState → Nat, s.ckptPlan p im event =
    s.updRcv p (fun r => { r with mtbf := m, ckptInterval := i, ckptNext := n, failDtb := f r }) :=
  ⟨_, _, _, fun r => if event = 1 then s.dtb else r.failDtb, rfl⟩
theorem State.ckptPlan_part (s : State) (p : Nat) (im : Image) (event : Nat) : ((s.ckptPlan p im event).part p).image = (s.part p).image ∧
    ((s.ckptPlan p im event).part p).job = (s.part p).job ∧ ((s.ckptPlan p im event).part p).rcv.rollbacks = (s.part p).rcv.rollbacks := by
  obtain ⟨m, i, n, f, e⟩ := s.ckptPlan_eq p im event
  rw [e, State.part_updRcv_self]
  exact ⟨rfl, rfl, rfl⟩

/-- Going back to a point leaves the partition frozen there, with one more rollback counted. -/
theorem State.rollTo_part {s : State} (settled : s.commit.waiting = []) (p : Nat) (im : Image) (q : RecPoint) :
    ((s.rollTo p im q).part p).image = (s.part p).image ∧ ((s.rollTo p im q).part p).job.nextCommit = q.beat ∧
      ((s.rollTo p im q).part p).job.frozen = true ∧ ((s.rollTo p im q).part p).job.running = false ∧
      ((s.rollTo p im q).part p).rcv.rollbacks = satAdd 0xFF (s.part p).rcv.rollbacks 1 := by
  unfold State.rollTo
  extract_lets newer s1 s2 s3 s4 other s5 sv s6 s7
  have revoked : (s.stopCores p).PartsLast s1 :=
    (((s.stopCores p).revokeClaims_lasts p).trans (.of_parts (State.revokeChans_parts _ p))).trans (State.revokeLocks_lasts _ p)
  have cleared : s1.PartsLast s2 := (s1.clearPart_lasts p).trans (.of_parts (State.setMarks_parts _ p q))
  have reset : s2.PartsLast s3 := .foldl (fun t c => .of_parts (t.resetCore_parts c)) _ s2
  have restored : s3.PartsLast s4 := (((s3.unland_lasts p _).trans (State.restoreCalf_lasts _ p newer)).trans
    (State.unland_lasts _ p _)).trans (.of_parts rfl)
  have marked : s4.PartsLast s5 := by
    unfold s5
    split
    · exact .refl s4
    · exact s4.writeX_lasts _ _ _
  have stopped : s6.parts = s5.parts := foldl_keeps State.parts (fun _ _ => by rfl) _ s5
  have lasts := ((((revoked.trans cleared).trans reset).trans restored).trans marked).trans (.of_parts stopped) p
  rw [State.stopCores_part settled] at lasts
  obtain ⟨image, job, rollbacks⟩ := s7.ckptPlan_part p im 1
  rw [image, job, rollbacks]
  unfold s7
  rw [State.part_updPart_self]
  exact ⟨lasts.image, rfl, rfl, rfl, congrArg (fun n => satAdd 0xFF n 1) lasts.rollbacks⟩

end Sys2Proof.Machine
end

section
namespace Sys2Proof.Machine

/-- Marking a lost rank absent leaves the partition's image, job, REC_STATE and count of rollbacks (R466). -/
theorem State.markAbsent_part (s : State) (p : Nat) : ((s.markAbsent p).part p).image = (s.part p).image ∧
    ((s.markAbsent p).part p).job = (s.part p).job ∧ ((s.markAbsent p).part p).rcv.rollbacks = (s.part p).rcv.rollbacks := by
  unfold State.markAbsent
  split
  · exact ⟨rfl, rfl, rfl⟩
  · rw [State.part_updPart_self]
    exact ⟨rfl, rfl, rfl⟩

theorem State.thawCores_parts (p : Nat) (im : Image) (copy : Nat) (selected : Bool) (l : List (Nat × Nat)) (s : State) :
    (l.foldl (fun s e => s.thawCore p im copy selected e.2 e.1) s).parts = s.parts := by
  refine foldl_keeps State.parts (fun t e => ?_) l s
  unfold State.thawCore
  rfl
theorem State.restorePatched_lasts (s : State) (p : Nat) (ws : List (Nat × List Byte)) : s.PartsLast (s.restorePatched p ws) :=
  .foldl (fun t _ => t.writeP_lasts _ _ _) ws s

/-- A thaw lets the partition run where it stood (R372). -/
theorem State.thawFrom_part (s : State) (p : Nat) (im : Image) (copy : Nat) :
    ((s.thawFrom p im copy).part p).image = (s.part p).image ∧
      ((s.thawFrom p im copy).part p).rcv.rollbacks = (s.part p).rcv.rollbacks ∧
      ((s.thawFrom p im copy).part p).job.nextCommit = (s.part p).job.nextCommit ∧
      ((s.thawFrom p im copy).part p).job.running = true ∧ ((s.thawFrom p im copy).part p).job.frozen = false ∧
      ((s.thawFrom p im copy).part p).rcv.state = 0 := by
  unfold State.thawFrom
  extract_lets h selected s0 s1 left s2
  have patched : s.PartsLast s0 := s.restorePatched_lasts p _
  have cores : s1.parts = s0.parts := State.thawCores_parts p im copy selected _ s0
  have lasts := (patched.trans (.of_parts cores)) p
  clear_value s1
  have beat : (s1.part p).job.nextCommit = (s.part p).job.nextCommit := by
    obtain ⟨more, job⟩ := lasts.job
    rw [job]
  rw [State.part_updRcv_self, State.part_updPart_self]
  unfold s2
  rw [State.part_updJob_self]
  exact ⟨lasts.image, lasts.rollbacks, beat, rfl, rfl, rfl⟩

/-- The partition rolled back, with this rollback in its ledger and a lost rank marked. -/
def State.rolledBack (s : State) (p fp : Nat) (im : Image) (q : RecPoint) : State :=
  ((s.rollTo p im q).updRcv p (fun r => { r with
    ledger := r.ledger ++ [(fp, (s.part p).job.lastFault, s.dtb)], replaced := false })).markAbsent p

theorem State.rolledBack_part {s : State} (settled : s.commit.waiting = []) (p fp : Nat) (im : Image) (q : RecPoint) :
    ((s.rolledBack p fp im q).part p).image = (s.part p).image ∧ ((s.rolledBack p fp im q).part p).job.nextCommit = q.beat ∧
      ((s.rolledBack p fp im q).part p).job.frozen = true ∧ ((s.rolledBack p fp im q).part p).job.running = false ∧
      ((s.rolledBack p fp im q).part p).rcv.rollbacks = satAdd 0xFF (s.part p).rcv.rollbacks 1 := by
  have rolled := State.rollTo_part settled p im q
  unfold State.rolledBack
  generalize s.rollTo p im q = t at rolled ⊢
  obtain ⟨image, job, rollbacks⟩ := State.markAbsent_part (t.updRcv p (fun r => { r with
    ledger := r.ledger ++ [(fp, (s.part p).job.lastFault, s.dtb)], replaced := false })) p
  rw [image, job, rollbacks, State.part_updRcv_self]
  exact rolled

/-- How often a partition has been rolled back to a point. -/
def Partition.timesAt (x : Partition) (fp : Nat) : Nat := (x.rcv.ledger.filter (fun e => e.1 == fp)).length

theorem rollback_acts {p fp : Nat} {s : State} {im : Image} {q : RecPoint} (hp : p < 16) (hi : (s.part p).image = some im)
    (stopped : (s.part p).job.stopped = true) (thawed : (s.part p).job.frozen = false) (state : (s.part p).rcv.state = 1)
    (mem : s.memHeld p = false)
    (point : ((s.part p).rcv.points.filter (fun q => q.fp == fp && (!(s.part p).rcv.replaced || q.isCkpt))).getLast? = some q)
    (top : tpModules im.bytes ≤ 1 → fp = (s.part p).rcv.points.foldl (fun m t => max m t.fp) 0) :
    exec (.rollback p fp) s = if 3 ≤ (s.part p).timesAt fp then
        .next (((s.rolledBack p fp im q).updRcv p (fun r => { r with state := 3 })).event { status := (s.part p).job.lastFault, part := p })
      else .next ((s.rolledBack p fp im q).thawFrom p im q.copy) := by
  rw [exec_rollback, execRollback, if_neg (by omega)]
  dsimp only
  rw [hi, point]
  dsimp only
  rw [if_neg (by simpa [stopped, thawed, state, mem] using top)]
  rfl

/-- A rollback to a point ends in a thaw, or after three to it in a partition left frozen. -/
theorem rollback_completes {p fp : Nat} {s : State} {im : Image} {q : RecPoint} (hp : p < 16) (hi : (s.part p).image = some im)
    (stopped : (s.part p).job.stopped = true) (thawed : (s.part p).job.frozen = false) (state : (s.part p).rcv.state = 1)
    (settled : s.commit.waiting = []) (mem : s.memHeld p = false)
    (point : ((s.part p).rcv.points.filter (fun q => q.fp == fp && (!(s.part p).rcv.replaced || q.isCkpt))).getLast? = some q)
    (top : tpModules im.bytes ≤ 1 → fp = (s.part p).rcv.points.foldl (fun m t => max m t.fp) 0) :
    ∃ t, exec (.rollback p fp) s = .next t ∧ (t.part p).rcv.rollbacks = satAdd 0xFF (s.part p).rcv.rollbacks 1 ∧
      (t.part p).image = some im ∧ (t.part p).job.nextCommit = q.beat ∧
      ((s.part p).timesAt fp < 3 → (t.part p).job.running = true ∧ (t.part p).job.frozen = false ∧ (t.part p).rcv.state = 0) ∧
      (3 ≤ (s.part p).timesAt fp → (t.part p).job.frozen = true ∧ (t.part p).job.running = false ∧ (t.part p).rcv.state = 3) := by
  obtain ⟨image, beat, frozen, still, rollbacks⟩ := State.rolledBack_part settled p fp im q
  rw [rollback_acts hp hi stopped thawed state mem point top]
  generalize s.rolledBack p fp im q = u at image beat frozen still rollbacks ⊢
  split
  · rename_i often
    refine ⟨_, rfl, ?_⟩
    rw [State.event_part, State.part_updRcv_self]
    exact ⟨rollbacks, image.trans hi, beat, fun few => by omega, fun _ => ⟨frozen, still, rfl⟩⟩
  · rename_i few
    obtain ⟨image', rollbacks', beat', running, open', state'⟩ := u.thawFrom_part p im q.copy
    exact ⟨_, rfl, rollbacks'.trans rollbacks, image'.trans (image.trans hi), beat'.trans beat, fun _ => ⟨running, open', state'⟩,
      fun often => by omega⟩

/-! ## DEVICE_FATAL_FAULT (R449, R453) -/

section Power
variable (s : State)

@[simp] theorem State.updWs_power (p : Nat) (f : WeightState → WeightState) : (s.updWs p f).power = s.power := rfl
@[simp] theorem State.updLoad_power (p : Nat) (f : Load → Load) : (s.updLoad p f).power = s.power := rfl
@[simp] theorem State.updShelf_power (k : Nat) (f : Shelf → Shelf) : (s.updShelf k f).power = s.power := rfl
@[simp] theorem State.updPort_power (k : Nat) (f : Port → Port) : (s.updPort k f).power = s.power := rfl
@[simp] theorem State.updChan_power (k : Nat) (f : Channel → Channel) : (s.updChan k f).power = s.power := rfl
@[simp] theorem State.updPair_power (k : Nat) (f : Pair → Pair) : (s.updPair k f).power = s.power := rfl
@[simp] theorem State.updSess_power (k i : Nat) (f : Session → Session) : (s.updSess k i f).power = s.power := rfl
@[simp] theorem State.sendLoad_power (p port : Nat) (im : Image) (d : List Byte) (k c r : Nat) (b : List Byte) :
    (s.sendLoad p port im d k c r b).power = s.power := rfl
@[simp] theorem State.timeRefresh_power : s.timeRefresh.power = s.power := rfl
@[simp] theorem State.completeIf_power (f : Fn) (n post st d : Nat) (r : List Byte) : (s.completeIf f n post st d r).power = s.power := by
  rw [State.completeIf_frame]

/-- Resetting functions, with the loads and sessions that end so, leaves the module's power state (R471). -/
@[simp] theorem State.endLoad_power (p st w : Nat) (down : Bool) : (s.endLoad p st w down).power = s.power := by
  unfold State.endLoad
  split
  · rename_i l _ _
    cases l.comp <;> simp [apply_ite State.power]
  · rfl
@[simp] theorem State.closeSession_power (k i st : Nat) : (s.closeSession k i st).power = s.power := by
  unfold State.closeSession
  dsimp only
  split
  · rfl
  · split <;> simp [foldl_keeps State.power]
@[simp] theorem State.closeSessions_power (p st : Nat) : (s.closeSessions p st).power = s.power :=
  foldl_keeps State.power (fun s e => by split <;> simp) _ s
@[simp] theorem State.abortLoads_power (f : Fn) : (s.abortLoads f).power = s.power :=
  foldl_keeps State.power (fun s p => by
    repeat' split
    all_goals simp) _ s
@[simp] theorem State.functionReset_power (f : Fn) : (s.functionReset f).power = s.power := by
  unfold State.functionReset
  dsimp only
  rw [State.abortLoads_power]
  split <;> simp
@[simp] theorem State.portReset_power (port : Nat) : (s.portReset port).power = s.power :=
  foldl_keeps State.power (fun t i => t.functionReset_power ⟨port, i⟩) _ s

end Power

/-- The exit from Permafrost keeps what LAST_FATAL shows. -/
theorem State.leavePermafrost_lastFatal (s : State) : s.leavePermafrost.power.lastFatal = s.power.lastFatal := by
  have shelves : ∀ (t : State) (f : Nat → Shelf → Shelf), ((List.range 8).foldl (fun t k => t.updShelf k (f k)) t).power = t.power :=
    fun t f => foldl_keeps State.power (fun u k => u.updShelf_power k (f k)) _ t
  have ports : ∀ (t : State) (f : Port → Port), ((List.range 16).foldl (fun t p => t.updPort p f) t).power = t.power :=
    fun t f => foldl_keeps State.power (fun u p => u.updPort_power p f) _ t
  unfold State.leavePermafrost
  dsimp only
  rw [State.timeRefresh_power, State.portReset_power, State.portReset_power, ports, State.tick_power, shelves]

theorem State.loosePools_power (s : State) (but groups : Nat) : (s.loosePools but groups).power = s.power := by
  unfold State.loosePools
  exact foldl_keeps State.power (fun s p => by split <;> (split <;> rfl)) _ s
theorem State.flushShelf_power (s : State) (k : Nat) : (s.flushShelf k).power = s.power := by
  unfold State.flushShelf
  dsimp only
  split
  · dsimp only
    rw [State.loosePools_power]
  · exact foldl_keeps State.power (fun s l => by rfl) _ s

/-- The stop of a device ends a device-fatal condition and keeps what LAST_FATAL shows (R469). -/
theorem State.deviceStop_fatal (s : State) (cause : Nat) : (s.deviceStop cause).power.fatal = false ∧
    (s.deviceStop cause).power.fatalCause = 0 ∧ (s.deviceStop cause).power.lastFatal = s.power.lastFatal := by
  have flushed : ∀ t : State, ((List.range 8).foldl State.flushShelf t).power = t.power := foldl_keeps State.power State.flushShelf_power _
  refine ⟨rfl, rfl, ?_⟩
  have logic : ∀ t : State, (t.resetLogic cause).power.lastFatal = t.power.lastFatal := fun _ => rfl
  rw [State.deviceStop, logic, flushed, State.journalDefaults_frame]
  rfl

theorem State.deviceStop_part (s : State) (cause p : Nat) :
    ((s.deviceStop cause).part p).geo.defined = false ∧ ((s.deviceStop cause).part p).image = none := by
  obtain ⟨undefined, none, -⟩ := State.resetLogic_part
    ((List.range 8).foldl State.flushShelf (s.jEvent Config.stDeviceReset 0 none (leBytes 1 cause ++ leBytes 1 s.haltedMask)).journalDefaults) cause p
  rw [State.deviceStop]
  exact ⟨undefined, none⟩

theorem State.boot_part (s : State) (p : Nat) : s.boot.part p = s.part p := rfl

/-- From any power state a device reset is a stop, a boot and an event, after the exit from Permafrost where it is there. -/
theorem State.deviceReset_leaves (s : State) (cause d : Nat) : (s.deviceReset cause d).power.state = 0 ∧
    (s.deviceReset cause d).power.fatal = false ∧ (s.deviceReset cause d).power.fatalCause = 0 ∧
    (s.deviceReset cause d).power.lastFatal = s.power.lastFatal ∧ (s.deviceReset cause d).power.resetCause = cause ∧
    (∀ p, ((s.deviceReset cause d).part p).geo.defined = false ∧ ((s.deviceReset cause d).part p).image = none) ∧
    (s.deviceReset cause d).cores = [] := by
  unfold State.deviceReset
  extract_lets s1
  have kept : s1.power.lastFatal = s.power.lastFatal := by
    unfold s1
    split
    · exact s.leavePermafrost_lastFatal
    · rfl
  obtain ⟨active, named⟩ := s1.deviceStop_power cause
  obtain ⟨fatal, waits, last⟩ := s1.deviceStop_fatal cause
  have part : ∀ p e, ((s1.deviceStop cause).boot.event e).part p = (s1.deviceStop cause).part p := fun p e => by
    rw [State.event_part, State.boot_part]
  simp only [part]
  rw [State.event_frame]
  exact ⟨active, fatal, waits, last.trans kept, named, s1.deviceStop_part cause, s1.deviceStop_cores cause⟩

theorem deviceFatalFault_resets {cause : Nat} {s : State} (hd : s.dead = false)
    (awaited : cause = 2 ∨ ((cause = 1 ∨ cause = 3) ∧ s.power.fatalCause = cause)) : ∃ t,
    exec (.deviceFatalFault cause) s = .next t ∧ t.power.state = 0 ∧ t.power.fatal = false ∧ t.power.fatalCause = 0 ∧
    t.power.lastFatal = (if cause = 3 then Config.stThermalHalt else Config.stDeviceReset) ∧
    t.power.resetCause = (if cause = 2 then 4 else 3) ∧ (∀ p, (t.part p).geo.defined = false ∧ (t.part p).image = none) ∧ t.cores = [] := by
  rw [exec_deviceFatalFault, execDeviceFatalFault, if_neg (by rcases awaited with rfl | ⟨rfl | rfl, waits⟩ <;> simp [*])]
  exact ⟨_, rfl, State.deviceReset_leaves _ _ cause⟩

end Sys2Proof.Machine
end

section
namespace Sys2Proof.Machine

/-! ## LOCK_WORD_TIMEOUT (R454) -/

theorem exec_lockWordTimeout (p n : Nat) (s : State) : exec (.lockWordTimeout p n) s = execLockWordTimeout p n s := rfl

/-- A write that lifts no protection leaves the partitions but for a fence's report. -/
theorem State.storeBytes_unlifted_parts (p cls : Nat) (es : List (Nat × Byte)) :
    ∀ s : State, (s.storeBytes p cls false es).parts = s.parts := by
  induction es with
  | nil => exact fun _ => rfl
  | cons e r ih =>
    intro s
    rw [State.storeBytes, ih]
    split
    · split
      · rfl
      · rw [(State.storeByte_spec _ p cls _ e.2).1.eq]
        rfl
    · rfl
/-- So it leaves every lease and recovery point. -/
theorem State.writeP_rcv (s : State) (p x : Nat) (bs : List Byte) (q : Nat) : ((s.writeP p x bs).part q).rcv = (s.part q).rcv := by
  have stored : ∀ es, (s.storeBytes p 1 false es).part q = s.part q := fun es => by
    unfold State.part
    rw [State.storeBytes_unlifted_parts]
  unfold State.writeP State.storeAt State.fenceReport
  split
  · rw [stored]
  · rw [State.report_part]
    split
    · rename_i e
      subst e
      show ((s.storeBytes q 1 false (placesFrom x bs)).part q).rcv = _
      rw [stored]
    · rw [stored]

theorem lockWordTimeout_missing {p n : Nat} {s : State} (hp : p < 16) (h : (s.part p).rcv.locks[n]? = none) :
    exec (.lockWordTimeout p n) s = .next s := by
  rw [exec_lockWordTimeout, execLockWordTimeout, if_neg (by omega), h]

theorem lockWordTimeout_waits {p n a tok since : Nat} {s : State} (hp : p < 16) (h : (s.part p).rcv.locks[n]? = some (a, tok, since))
    (early : s.memHeld p = true ∨ s.dtb < since + 1000000) : exec (.lockWordTimeout p n) s = .next s := by
  rw [exec_lockWordTimeout, execLockWordTimeout, if_neg (by omega), h]
  dsimp only
  rw [if_pos (by simpa using early)]

/-- A lock word held for 1 ms is revoked: it is written and leaves the list of held locks. -/
theorem lockWordTimeout_revokes {p n a tok since : Nat} {s : State} (hp : p < 16) (h : (s.part p).rcv.locks[n]? = some (a, tok, since))
    (mem : s.memHeld p = false) (due : since + 1000000 ≤ s.dtb) : ∃ t, exec (.lockWordTimeout p n) s = .next t ∧
    (t.part p).rcv.locks = (s.part p).rcv.locks.eraseIdx n ∧ t.hbm = (s.writeP p a (leBytes 4 ((tok + 1) % 2 ^ 32))).hbm ∧
    t.cores = s.cores := by
  have cores : (s.writeP p a (leBytes 4 ((tok + 1) % 2 ^ 32))).cores = s.cores := by rw [State.writeP, State.storeAt_frame]
  have locks := s.writeP_rcv p a (leBytes 4 ((tok + 1) % 2 ^ 32)) p
  rw [exec_lockWordTimeout, execLockWordTimeout, if_neg (by omega), h]
  dsimp only
  rw [if_neg (by simp [mem, due])]
  generalize s.writeP p a (leBytes 4 ((tok + 1) % 2 ^ 32)) = t at cores locks ⊢
  refine ⟨_, rfl, ?_, rfl, cores⟩
  have part : ∀ u : State, u.answer.part p = u.part p := fun _ => rfl
  rw [part, State.part_updRcv_self, locks]

/-! ## CHECKPOINT_DUE (R463) -/

theorem exec_checkpointDue (p : Nat) (as_ : List Nat) (s : State) : exec (.checkpointDue p as_) s = execCheckpointDue p as_ s := rfl

/-- The largest count that a partition's cores have reached. -/
def State.ownCount (s : State) (p : Nat) : Nat := (s.imageCores p).foldl (fun m c => max m (s.core c).seq.fpCount) 0

theorem checkpointDue_idle {p : Nat} {as_ : List Nat} {s : State} {im : Image} (hp : p < 16) (hi : (s.part p).image = some im)
    (h : (s.part p).job.running = false ∨ (s.part p).rcv.ckptAt ≠ 0) : exec (.checkpointDue p as_) s = .next s := by
  rw [exec_checkpointDue, execCheckpointDue, if_neg (by omega)]
  dsimp only
  rw [hi]
  dsimp only
  rw [if_pos (by simpa using h)]

/-- At rank 0 the next point is proposed when it is due. -/
theorem checkpointDue_rank0 {p : Nat} {as_ : List Nat} {s : State} {im : Image} (hp : p < 16) (hi : (s.part p).image = some im)
    (running : (s.part p).job.running = true) (none : (s.part p).rcv.ckptAt = 0) (rank : s.rank p im = some 0)
    (planned : (s.part p).rcv.ckptNext ≠ 0) : exec (.checkpointDue p as_) s =
      if s.dtb < (s.part p).rcv.ckptNext then .next s else .next (s.updRcv p (fun r => { r with
        ckptAt := if (as_.filter (fun a => decide (s.ownCount p + 4 ≤ a))).isEmpty then s.ownCount p + 4
          else (as_.filter (fun a => decide (s.ownCount p + 4 ≤ a))).foldl max 0 + 4 })) := by
  rw [exec_checkpointDue, execCheckpointDue, if_neg (by omega)]
  dsimp only
  rw [hi]
  dsimp only
  rw [if_neg (by simp [running, none]), if_pos rank]
  simp only [planned, decide_false, Bool.false_or, decide_eq_true_eq]
  rfl

theorem checkpointDue_early {p : Nat} {as_ : List Nat} {s : State} {im : Image} (hp : p < 16) (hi : (s.part p).image = some im)
    (running : (s.part p).job.running = true) (none : (s.part p).rcv.ckptAt = 0) (rank : s.rank p im = some 0)
    (planned : (s.part p).rcv.ckptNext ≠ 0) (early : s.dtb < (s.part p).rcv.ckptNext) : exec (.checkpointDue p as_) s = .next s := by
  rw [checkpointDue_rank0 hp hi running none rank planned, if_pos early]

theorem checkpointDue_proposes {p : Nat} {as_ : List Nat} {s : State} {im : Image} (hp : p < 16) (hi : (s.part p).image = some im)
    (running : (s.part p).job.running = true) (none : (s.part p).rcv.ckptAt = 0) (rank : s.rank p im = some 0)
    (planned : (s.part p).rcv.ckptNext ≠ 0) (due : (s.part p).rcv.ckptNext ≤ s.dtb) :
    ∃ t, exec (.checkpointDue p as_) s = .next t ∧ t = { s with parts := t.parts } ∧
      (t.part p).rcv.ckptAt = (if as_.filter (fun a => decide (s.ownCount p + 4 ≤ a)) = [] then s.ownCount p + 4
        else (as_.filter (fun a => decide (s.ownCount p + 4 ≤ a))).foldl max 0 + 4) := by
  rw [checkpointDue_rank0 hp hi running none rank planned, if_neg (by omega)]
  refine ⟨_, rfl, rfl, ?_⟩
  rw [State.part_updRcv_self]
  simp only [List.isEmpty_iff]

/-! ## BUDDY_DRAIN (R465) -/

theorem exec_buddyDrain (p : Nat) (s : State) : exec (.buddyDrain p) s = execBuddyDrain p s := rfl

/-- Bulk reads allocate no line, so they leave the stacks (R255). -/
theorem State.haveLine_bulk (s : State) (p a : Nat) : s.haveLine p 2 a = s := rfl
theorem State.useByte_bulk_hbm (s : State) (p a : Nat) : (s.useByte p 2 a).hbm = s.hbm := by
  have kept : (s.haveLine p 2 a).hbm = s.hbm := congrArg State.hbm (s.haveLine_bulk p a)
  unfold State.useByte
  generalize s.haveLine p 2 a = t at kept ⊢
  dsimp only
  by_cases absent : (t.line a).isNone = true
  · rw [if_pos absent, kept]
  · rw [if_neg absent, State.updShelf_hbm, kept]
theorem State.loadAt_bulk_hbm (s : State) (p : Nat) (xs : List Nat) : (s.loadAt p 2 xs).hbm = s.hbm := by
  refine foldl_keeps State.hbm (fun t x => ?_) xs s
  split
  · exact t.useByte_bulk_hbm p _
  · rfl

theorem buddyDrain_idle {p port : Nat} {s : State} {im : Image} {q : RecPoint} {rest : List RecPoint} (hp : p < 16)
    (hi : (s.part p).image = some im) (points : (s.part p).rcv.points.reverse = q :: rest) (buddy : s.buddyPort p = some port)
    (h : q.isCkpt = false ∨ s.drains p = false ∨ s.memHeld p = true) : exec (.buddyDrain p) s = .next s := by
  rw [exec_buddyDrain, execBuddyDrain, if_neg (by omega), hi, points, buddy]
  dsimp only
  rw [if_pos]
  rcases h with h | h | h <;> simp [h]

/-- A recovery point once a granule has been drained. -/
def RecPoint.afterDrain (q : RecPoint) (g : Nat) : RecPoint :=
  { q with drained := q.drained ++ [g], calf := q.calf.filter (fun e => e.1 != g) }
/-- The state after a granule has left for the buddy as message `m`. -/
def State.drainedTo (s : State) (p port : Nat) (m : List Byte) (q : RecPoint) (rest : List RecPoint) : State :=
  (s.sendMsg port 8 0 m).updRcv p (fun r => { r with points := (q :: rest).reverse, ckptDrain := true })

/-- The first granule of the latest checkpoint that is not drained is read and goes to the buddy, and its copy is freed. -/
theorem buddyDrain_acts {p port g : Nat} {s : State} {im : Image} {q : RecPoint} {rest : List RecPoint} (hp : p < 16)
    (hi : (s.part p).image = some im) (points : (s.part p).rcv.points.reverse = q :: rest) (buddy : s.buddyPort p = some port)
    (ckpt : q.isCkpt = true) (drains : s.drains p = true) (mem : s.memHeld p = false)
    (next : (calvedGranules im).find? (fun g => !q.drained.contains g) = some g) :
    ∃ xs m, exec (.buddyDrain p) s = .next ((s.loadAt p 2 xs).drainedTo p port m (q.afterDrain g) rest) := by
  rw [exec_buddyDrain, execBuddyDrain, if_neg (by omega), hi, points, buddy]
  dsimp only
  rw [if_neg (by simp [ckpt, drains, mem]), next]
  exact ⟨_, _, rfl⟩

theorem State.drainedTo_spec (s : State) (p port : Nat) (m : List Byte) (q : RecPoint) (rest : List RecPoint) :
    ((s.drainedTo p port m q rest).part p).rcv.points.reverse = q :: rest ∧ ((s.drainedTo p port m q rest).part p).rcv.ckptDrain = true ∧
      ∃ o, (((s.drainedTo p port m q rest).port port).vc 8).out = ((s.port port).vc 8).out ++ [o] := by
  have sent : (s.drainedTo p port m q rest).port port = (s.sendMsg port 8 0 m).port port := rfl
  have part := (s.sendMsg port 8 0 m).part_updRcv_self p (fun r => { r with points := (q :: rest).reverse, ckptDrain := true })
  rw [sent, State.sendMsg, State.updPort, State.port_setPort_self, State.drainedTo, part, Port.updVc, Port.setVc]
  refine ⟨List.reverse_reverse _, rfl, ?_⟩
  unfold Port.vc
  rw [Cells.get_put_self]
  exact ⟨_, rfl⟩

theorem buddyDrain_sends {p port g : Nat} {s : State} {im : Image} {q : RecPoint} {rest : List RecPoint} (hp : p < 16)
    (hi : (s.part p).image = some im) (points : (s.part p).rcv.points.reverse = q :: rest) (buddy : s.buddyPort p = some port)
    (ckpt : q.isCkpt = true) (drains : s.drains p = true) (mem : s.memHeld p = false)
    (next : (calvedGranules im).find? (fun g => !q.drained.contains g) = some g) :
    ∃ t, exec (.buddyDrain p) s = .next t ∧ t.cores = s.cores ∧ t.hbm = s.hbm ∧ (t.part p).rcv.points.reverse = q.afterDrain g :: rest ∧
      (t.part p).rcv.ckptDrain = true ∧ ∃ m, ((t.port port).vc 8).out = ((s.port port).vc 8).out ++ [m] := by
  obtain ⟨xs, m, e⟩ := buddyDrain_acts hp hi points buddy ckpt drains mem next
  have read : s.MemOnly (s.loadAt p 2 xs) := (State.loadAt_spec p 2 xs s).1
  have hbm := s.loadAt_bulk_hbm p xs
  generalize s.loadAt p 2 xs = u at e read hbm
  obtain ⟨drained, flagged, o, out⟩ := u.drainedTo_spec p port m (q.afterDrain g) rest
  have port' : u.port port = s.port port := by rw [read.eq]; rfl
  have cores : u.cores = s.cores := by rw [read.eq]
  exact ⟨_, e, cores, hbm, drained, flagged, o, port' ▸ out⟩

/-- Settles O52: each row by what its own operations leave of the partition, the cores and the power state. -/
theorem faultsAndRecoveryComplete : Obligations.FaultsAndRecoveryComplete := by
  unfold Obligations.FaultsAndRecoveryComplete
  refine ⟨?contained, ?rollback, ?lock, ?fatal, ?word, ?checkpoint, ?drain⟩
  case contained =>
    exact fun p a s im hp hi => ⟨fun none unannounced => unannounced ▸ containedFault_unreported hp hi none,
      fun st d b src rest reported settled => containedFault_stops hp hi reported settled⟩
  case rollback =>
    exact fun p fp s im q hp hi stopped thawed state settled mem point top =>
      rollback_completes hp hi stopped thawed state settled mem point top
  case lock => exact fun k s hk hd above => fieldPllLockLoss_raises hk hd above
  case fatal => exact fun cause s hd awaited => deviceFatalFault_resets hd awaited
  case word =>
    exact fun p n s hp => ⟨lockWordTimeout_missing hp, fun a tok since held =>
      ⟨lockWordTimeout_waits hp held, lockWordTimeout_revokes hp held⟩⟩
  case checkpoint =>
    exact fun p as_ s im hp hi => ⟨checkpointDue_idle hp hi, fun running none rank planned =>
      ⟨checkpointDue_early hp hi running none rank planned, checkpointDue_proposes hp hi running none rank planned⟩⟩
  case drain =>
    exact fun p port g s im q rest hp hi points buddy => ⟨buddyDrain_idle hp hi points buddy,
      fun ckpt drains mem next => buddyDrain_sends hp hi points buddy ckpt drains mem next⟩

end Sys2Proof.Machine
end

section
namespace Sys2Proof.Machine

/-! ## The integer formats (R35) -/

/-- A code that fits its width needs no cut before it is read as two's complement. -/
theorem toSigned_of_lt {w c : Nat} (fits : c < 2 ^ w) :
    toSigned w c = if c < 2 ^ (w - 1) then (c : Int) else (c : Int) - 2 ^ w := by
  rw [toSigned, Nat.mod_eq_of_lt fits, Nat.cast_pow, Nat.cast_ofNat]

/-- A format that is no floating-point format, and none of UINT8, ternary, MXINT8 and E8M0, has two's complement codes. -/
theorem decodeCode_signed {fmt : Nat} (c : Nat) (notFloat : floatOf fmt = none) (others : fmt ∉ [0x0B, 0x0E, 0x15, 0x1F]) :
    decodeCode fmt c = (Val.ofDy (.ofInt (toSigned (fmtWidth fmt) c)), false) := by
  simp only [List.mem_cons, List.not_mem_nil, or_false, not_or] at others
  obtain ⟨notUint8, notTernary, notMxint8, notE8m0⟩ := others
  rw [decodeCode, notFloat]
  dsimp only
  rw [if_neg notUint8, if_neg notTernary, if_neg notMxint8, if_neg notE8m0]

/-- The listed formats are the two's complement ones, each with its width in the format table. -/
theorem signedFormats_listed {fmt w : Nat} (listed : (fmt, w) ∈ [(0x08, 32), (0x09, 16), (0x0A, 8), (0x0C, 4), (0x0D, 2)]) :
    floatOf fmt = none ∧ fmt ∉ [0x0B, 0x0E, 0x15, 0x1F] ∧ fmtWidth fmt = w := by
  simp only [List.mem_cons, List.not_mem_nil, or_false, Prod.mk.injEq] at listed
  obtain ⟨rfl, rfl⟩ | ⟨rfl, rfl⟩ | ⟨rfl, rfl⟩ | ⟨rfl, rfl⟩ | ⟨rfl, rfl⟩ := listed <;> decide

theorem decodeCode_uint8 {c : Nat} (fits : c < 256) : decodeCode 0x0B c = (.fin false c 1 0, false) := by
  have read : decodeCode 0x0B c = (.fin false (c % 256) 1 0, false) := rfl
  rw [read, Nat.mod_eq_of_lt fits]

/-- Settles O58: the two's complement formats by their widths, UINT8 by its range, and the four ternary codes one by one. -/
theorem integerCodesRead : Obligations.IntegerCodesRead := by
  unfold Obligations.IntegerCodesRead
  refine ⟨?signed, ?uint8, ?ternary⟩
  case signed =>
    intro fmt w c listed fits
    obtain ⟨notFloat, others, width⟩ := signedFormats_listed listed
    rw [decodeCode_signed c notFloat others, width, toSigned_of_lt fits]
  case uint8 => exact fun c fits => decodeCode_uint8 fits
  case ternary => exact ⟨rfl, rfl, rfl, rfl⟩

end Sys2Proof.Machine
end

section
namespace Sys2Proof.Machine

/-! ## What a change of one core leaves alone -/

@[simp] theorem State.core_updCore_self (s : State) (c : Nat) (f : Core → Core) : (s.updCore c f).core c = f (s.core c) :=
  State.core_setCore_self _ _ _
@[simp] theorem State.core_updCore_other (s : State) {c d : Nat} (f : Core → Core) (h : d ≠ c) : (s.updCore c f).core d = s.core d :=
  State.core_setCore_other _ _ h

theorem State.updCore_onlyCore (s : State) (c : Nat) (f : Core → Core) : s.OnlyCore (s.updCore c f) c :=
  ⟨rfl, fun _ h => State.core_updCore_other s f h⟩
theorem State.OnlyCore.trans {s t u : State} {c : Nat} (h : s.OnlyCore t c) (g : t.OnlyCore u c) : s.OnlyCore u c := by
  obtain ⟨cores, others⟩ := h
  obtain ⟨cores', others'⟩ := g
  exact ⟨by rw [cores', cores], fun d hd => (others' d hd).trans (others d hd)⟩

/-- Notes for the counters change nothing of a core but its tally. -/
theorem foldl_note (l : List (Nat × Nat)) (k : Core) : l.foldl (fun k e => k.note e.1 e.2) k =
    { k with tally := (l.foldl (fun k e => k.note e.1 e.2) k).tally } := by
  induction l generalizing k with
  | nil => rfl
  | cons e r ih => rw [List.foldl_cons, ih]; rfl

/-! ## The two tiles -/

@[simp] theorem MuState.tile_setTile_self (u : MuState) (i : Nat) (t : AccTile) : (u.setTile i t).tile i = t := by
  unfold MuState.setTile MuState.tile
  split <;> rfl
@[simp] theorem MuState.tile_setTile_other (u : MuState) (i : Nat) (t : AccTile) : (u.setTile i t).tile (1 - i) = u.tile (1 - i) := by
  unfold MuState.setTile MuState.tile
  by_cases h : i = 0
  · simp [h]
  · simp [h, show 1 - i = 0 by omega]
/-- A unit with the two tiles that giving tile `i` leaves reads them there, whatever else of it differs. -/
theorem MuState.tiles_of_setTile {u v : MuState} {i : Nat} {t : AccTile} (h0 : v.t0 = (u.setTile i t).t0) (h1 : v.t1 = (u.setTile i t).t1) :
    v.tile i = t ∧ v.tile (1 - i) = u.tile (1 - i) := by
  have same : ∀ j, v.tile j = (u.setTile i t).tile j := fun j => by rw [MuState.tile, MuState.tile, h0, h1]
  exact ⟨by rw [same, MuState.tile_setTile_self], by rw [same, MuState.tile_setTile_other]⟩
/-- Giving a tile leaves the queues and the held writes. -/
@[simp] theorem MuState.setTile_ftq (u : MuState) (i : Nat) (t : AccTile) : (u.setTile i t).ftq = u.ftq := by
  unfold MuState.setTile
  split <;> rfl
@[simp] theorem MuState.setTile_witq (u : MuState) (i : Nat) (t : AccTile) : (u.setTile i t).witq = u.witq := by
  unfold MuState.setTile
  split <;> rfl
@[simp] theorem MuState.setTile_heldWrites (u : MuState) (i : Nat) (t : AccTile) : (u.setTile i t).heldWrites = u.heldWrites := by
  unfold MuState.setTile
  split <;> rfl

/-! ## Accesses that only read -/

/-- A word with a double error stops the reader (R229). -/
theorem State.access_uncorrected {s : State} {x : Ctx} {reads : List (Bool × Nat × Nat)} {u : Upset}
    (bad : (s.core x.c).badWord reads = some u) (body : State → Issue) :
    s.access x reads [] body = .fault Config.stMemUncorrectable (s.setCore x.c ((s.core x.c).uncorrected u)) := by
  simp [State.access, bad]
theorem State.access_sound {s : State} {x : Ctx} {reads : List (Bool × Nat × Nat)} (sound : (s.core x.c).badWord reads = none)
    (body : State → Issue) : s.access x reads [] body = body (s.accessed x.c reads []) := by
  simp [State.access, sound]
/-- Reading counts corrected words and ends the core's own hold; nothing else of the core changes (R227, R91). -/
theorem State.accessed_reads_core (s : State) (c : Nat) (reads : List (Bool × Nat × Nat)) :
    ∃ n, (s.accessed c reads []).core c = { s.core c with eccCorr := n, mu := { (s.core c).mu with witHold := false } } := by
  unfold State.accessed
  dsimp only
  split
  case isTrue free =>
    obtain ⟨-, noHold⟩ : (s.core c).upsets.isEmpty = true ∧ (s.core c).mu.witHold = false := by simpa using free
    exact ⟨(s.core c).eccCorr, by rw [← noHold]⟩
  case isFalse =>
    rw [State.core_setCore_self, List.foldl_nil, Core.corrected]
    split
    · exact ⟨_, rfl⟩
    · exact ⟨_, rfl⟩

/-! ## A matrix instruction at issue (R67 to R69, R79, R80, R82) -/

section Issue
variable {op : MmaOp} {r : Row} {c : Nat} {s : State} {x : Ctx} {g : MmaArgs}

theorem exec_mma (row : coreRow (op.instr c) = some (r, c)) (issues : s.Issues c r x) :
    exec (op.instr c) s = finish x s (mma op s x) := by
  rw [← issue_of_issues issues (mma op s)]
  cases op <;> cases row <;> rfl

theorem mma_illegal (h : mmaArgs op s x = none) : mma op s x = .illegal := by
  rw [mma, h]
theorem mma_waits (h : mmaArgs op s x = some g) (w : mmaWait op (s.core x.c) g = true) :
    mma op s x = .wait (s.updCore x.c (fun k => mmaHold k g)) := by
  rw [mma, h]
  exact if_pos w
theorem mma_accesses (h : mmaArgs op s x = some g) (w : mmaWait op (s.core x.c) g = false) :
    mma op s x = s.access x g.reads [] (fun s =>
      .ofExtent (g.f.m == 0 || g.f.n == 0 || g.f.k == 0) (s.updCore x.c (fun k => mmaEffect op k x g))) := by
  rw [mma, h]
  exact if_neg (by simp [w])

end Issue

/-- Settles O14: the three outcomes of `mma` that are no completion. -/
theorem matrixRowsStopOrWait : Obligations.MatrixRowsStopOrWait := by
  unfold Obligations.MatrixRowsStopOrWait
  intro op r c s x row issues
  obtain ⟨hc, -⟩ := State.ctx_core issues.ctx
  rw [exec_mma row issues]
  subst hc
  refine ⟨?illegal, ?uncorrectable, ?wait⟩
  case illegal =>
    intro h
    rw [mma_illegal h]; rfl
  case uncorrectable =>
    intro g u h free bad
    rw [mma_accesses h free, State.access_uncorrected bad]; rfl
  case wait =>
    intro g h held
    rw [mma_waits h held]
    exact ⟨_, rfl, State.updCore_onlyCore _ _ _, by rw [State.core_updCore_self]; rfl⟩

end Sys2Proof.Machine
end

section
namespace Sys2Proof.Machine

/-! ## Reading a table that a grid of entries built -/

/-- A table built from a list of entries reads, at an entry's key, that entry's value, where no other entry has its key. -/
theorem Cells.get_foldl_put {α δ : Type} [DecidableEq α] (d : Nat → α) (key : δ → Nat) (val : δ → α) {y : δ} (l : List δ) :
    ∀ m : List (Nat × α), (∀ z, z ∈ l → key z = key y → z = y) → (y ∈ l ∨ Cells.get d m (key y) = val y) →
      Cells.get d (l.foldl (fun m z => Cells.put d m (key z) (val z)) m) (key y) = val y := by
  induction l with
  | nil => exact fun m _ h => h.resolve_left List.not_mem_nil
  | cons z r ih =>
    intro m only h
    refine ih _ (fun w hw => only w (List.mem_cons_of_mem z hw)) ?_
    by_cases hz : key z = key y
    · right
      rw [only z (List.mem_cons_self ..) hz, Cells.get_put_self]
    · rw [Cells.get_put_other _ _ _ (Ne.symm hz)]
      exact h.imp_left (fun mem => (List.mem_cons.1 mem).resolve_left (fun same => hz (by rw [same])))

/-- The same for one entry for each pair of two lists. -/
theorem Cells.get_grid {α β γ δ : Type} [DecidableEq α] (d : Nat → α) (key : δ → Nat) (val : δ → α) (entry : β → γ → δ) {rows : List β}
    {cols : List γ} {b : β} {e : γ} (hb : b ∈ rows) (he : e ∈ cols)
    (unique : ∀ b', b' ∈ rows → ∀ e', e' ∈ cols → key (entry b' e') = key (entry b e) → entry b' e' = entry b e) :
    Cells.get d ((rows.map (fun b => cols.map (entry b))).flatten.foldl (fun m z => Cells.put d m (key z) (val z)) [])
      (key (entry b e)) = val (entry b e) := by
  refine Cells.get_foldl_put d key val _ [] (fun z hz same => ?_) (.inl ?_)
  · obtain ⟨_, hrow, hz⟩ := List.mem_flatten.1 hz
    obtain ⟨b', hb', rfl⟩ := List.mem_map.1 hrow
    obtain ⟨e', he', rfl⟩ := List.mem_map.1 hz
    exact unique b' hb' e' he' same
  · exact List.mem_flatten.2 ⟨_, List.mem_map_of_mem hb, List.mem_map_of_mem he⟩

/-! ## The lanes of a tile (R59 to R65) -/

/-- A lane with the products of a row of A and a column of B added, and their INVALID (R35, R61 to R65). -/
def laneAfter (isInt : Bool) (diag : Option Nat) (n : Nat) (start : Accum) (a b : List Elem) : Accum :=
  (laneAdd isInt { start with inv := start.inv || laneBad a b } (laneProds diag n a b)).1

/-- The cell that `tileAdd` makes of a row and a column, each with its index: the lane's place, its accumulator, its replays. -/
def laneCell (isInt : Bool) (acc : Nat → Accum) (diag : Option Nat) (ra cb : List Elem × Nat) : Nat × Accum × List Nat :=
  let r := laneAdd isInt { acc (ra.2 * 32 + cb.2) with inv := (acc (ra.2 * 32 + cb.2)).inv || laneBad ra.1 cb.1 }
    (laneProds diag cb.2 ra.1 cb.1)
  (ra.2 * 32 + cb.2, r.1, r.2)

theorem tileAdd_cells (isInt : Bool) (acc : Nat → Accum) (t : WitPart) : (tileAdd isInt acc t).1 =
    (t.a.zipIdx.map (fun ra => t.b.zipIdx.map (laneCell isInt acc t.diag ra))).flatten.foldl
      (fun m e => Cells.put (fun _ => {}) m e.1 e.2.1) [] := rfl

/-- Lane (i, n) after an instruction is the lane before it with row i and column n added. -/
theorem tileAdd_lane (isInt : Bool) (acc : Nat → Accum) (t : WitPart) {i n : Nat} {a b : List Elem} (ha : t.a[i]? = some a)
    (hb : t.b[n]? = some b) (fits : t.b.length ≤ 32) :
    Cells.get (fun _ => {}) (tileAdd isInt acc t).1 (i * 32 + n) = laneAfter isInt t.diag n (acc (i * 32 + n)) a b := by
  have narrow : ∀ e, e ∈ t.b.zipIdx → e.2 < 32 := fun e he => by
    obtain ⟨short, -⟩ := List.getElem?_eq_some_iff.1 (List.mem_zipIdx_iff_getElem?.1 he)
    omega
  have hrow : (a, i) ∈ t.a.zipIdx := List.mem_zipIdx_iff_getElem?.2 ha
  have hcol : (b, n) ∈ t.b.zipIdx := List.mem_zipIdx_iff_getElem?.2 hb
  rw [tileAdd_cells]
  refine Cells.get_grid (fun _ => {}) Prod.fst (fun z => z.2.1) (laneCell isInt acc t.diag) hrow hcol ?_
  intro ⟨ra, i'⟩ hra ⟨cb, n'⟩ hcb (same : i' * 32 + n' = i * 32 + n)
  have hn : n' < 32 := narrow _ hcb
  have hn' : n < 32 := narrow _ hcol
  obtain rfl : i' = i := by omega
  obtain rfl : n' = n := by omega
  obtain rfl : ra = a := Option.some.inj ((List.mem_zipIdx_iff_getElem?.1 hra).symm.trans ha)
  obtain rfl : cb = b := Option.some.inj ((List.mem_zipIdx_iff_getElem?.1 hcb).symm.trans hb)
  rfl

/-! ## The tile after a matrix instruction (R57, R65, R67, R74, R196) -/

/-- Row `i` of A, and the column of B that lane `n` reads (R196). -/
def MmaArgs.row (g : MmaArgs) (k : Core) (i : Nat) : List Elem := (List.range g.f.k).map (fun j => k.elem g.a i j)
def MmaArgs.col (g : MmaArgs) (op : MmaOp) (k : Core) (n : Nat) : List Elem :=
  (List.range g.f.k).map (fun i => k.elem g.b i (if op.diag then n % (32 / 2 ^ g.f.dlog2) else n))
/-- The diagonal mapping of an instruction, if any. -/
def MmaArgs.mapping (g : MmaArgs) (op : MmaOp) : Option Nat := if op.diag then some g.f.dlog2 else none
/-- What a lane starts from: 0, the element of C, or what the tile held (R67). -/
def MmaArgs.start (g : MmaArgs) (op : MmaOp) (k : Core) (i n : Nat) : Accum :=
  match g.c with
  | some q => accumOf (k.elem q i n)
  | none => if op.starts then {} else (k.mu.tile g.f.tile).lane i n
/-- Whether the instruction finishes a tile of no row or lane with ROUTE 0, which is then free at once (R78). -/
def MmaArgs.gone (g : MmaArgs) : Prop := (g.f.m = 0 ∨ g.f.n = 0) ∧ g.f.last = true ∧ g.f.route = 0

/-- What `mmaArgs` checks: the extents, that C comes with a start, and that a continued tile has the extents (R67, R68). -/
structure MmaArgs.Checked (g : MmaArgs) (op : MmaOp) (k : Core) : Prop where
  lanes : g.f.n ≤ 32
  starts : ∀ q, g.c = some q → op.starts = true
  continues : op.starts = false → (k.mu.tile g.f.tile).m = g.f.m ∧ (k.mu.tile g.f.tile).n = g.f.n

theorem mmaArgs_checked {op : MmaOp} {s : State} {x : Ctx} {g : MmaArgs} (h : mmaArgs op s x = some g) : g.Checked op (s.core x.c) := by
  unfold mmaArgs at h
  dsimp only at h
  split at h
  case isTrue => cases h
  case isFalse enc =>
    have lanes : (mmaFields x).n ≤ 32 := by
      simp only [mmaEncOk, Bool.not_eq_true', Bool.not_eq_false, Bool.and_eq_true, decide_eq_true_eq] at enc
      obtain ⟨⟨⟨-, lanes⟩, -⟩, -⟩ := enc
      exact lanes
    split at h
    case h_2 => cases h
    case h_1 a b out _ _ _ =>
      split at h
      case isTrue => cases h
      case isFalse meets =>
        have continues : op.starts = false → ((s.core x.c).mu.tile (mmaFields x).tile).m = (mmaFields x).m ∧
            ((s.core x.c).mu.tile (mmaFields x).tile).n = (mmaFields x).n := by
          intro cont
          simp only [contOk, cont, Bool.false_or, Bool.not_eq_true', Bool.or_eq_true, not_or, Bool.not_eq_false, Bool.and_eq_true,
            beq_iff_eq] at meets
          obtain ⟨-, ⟨⟨⟨-, hm⟩, hn⟩, -⟩, -⟩ := meets
          exact ⟨hm, hn⟩
        split at h
        case isTrue => cases h
        case isFalse =>
          split at h
          case isTrue init =>
            split at h
            case h_2 => cases h
            case h_1 =>
              split at h
              · cases h
                exact ⟨lanes, fun _ _ => by rw [init]; rfl, continues⟩
              · cases h
          case isFalse =>
            cases h
            exact ⟨lanes, fun q hc => Option.some_ne_none q hc.symm |>.elim, continues⟩

section Tile
variable {op : MmaOp} {k : Core} {x : Ctx} {g : MmaArgs}

theorem mmaTile_of_gone (h : g.gone) : (mmaTile op k x g).1 = {} := by
  obtain ⟨empty, last, route⟩ := h
  unfold mmaTile
  simp [empty, last, route]

/-- The accumulators that C gives a tile (R67). -/
def MmaArgs.initOf (g : MmaArgs) (k : Core) : List (Nat × Accum) :=
  match g.c with
  | some c => ((List.range g.f.m).map (fun i => (List.range g.f.n).map (fun j => (i * 32 + j, accumOf (k.elem c i j))))).flatten.foldl
      (fun m e => Cells.put (fun _ => {}) m e.1 e.2) []
  | none => []
/-- The tile that an instruction's products are added to. -/
def MmaArgs.first (g : MmaArgs) (op : MmaOp) (k : Core) : AccTile :=
  if op.starts then { state := 1, m := g.f.m, n := g.f.n, isInt := g.isInt, diag := g.mapping op, acc := g.initOf k, init := g.initOf k }
  else k.mu.tile g.f.tile
/-- What the instruction adds to it. -/
def MmaArgs.part (g : MmaArgs) (op : MmaOp) (k : Core) : WitPart :=
  { a := k.rowsOf g.a g.f.m g.f.k, b := k.colsOf g.b g.f.n g.f.k (g.mapping op), diag := g.mapping op, held := g.reads }

theorem mmaTile_of_not_gone (h : ¬ g.gone) : ∃ fin parts wit, (mmaTile op k x g).1 = { g.first op k with
    acc := if g.f.m = 0 ∨ g.f.n = 0 then [] else (tileAdd g.isInt (Cells.get (fun _ => {}) (g.first op k).acc) (g.part op k)).1
    state := if g.f.last then 2 else 1, finish := fin, parts := parts, wit := wit } := by
  unfold mmaTile
  dsimp only
  rw [if_neg (by simpa [MmaArgs.gone] using h)]
  simp only [Bool.or_eq_true, decide_eq_true_eq]
  exact ⟨_, _, _, rfl⟩

theorem mmaTile_state (h : ¬ g.gone) : (mmaTile op k x g).1.state = if g.f.last then 2 else 1 := by
  obtain ⟨_, _, _, e⟩ := mmaTile_of_not_gone (op := op) (k := k) (x := x) h
  rw [e]

theorem mmaTile_extents (ok : g.Checked op k) (h : ¬ g.gone) : (mmaTile op k x g).1.m = g.f.m ∧ (mmaTile op k x g).1.n = g.f.n := by
  obtain ⟨_, _, _, e⟩ := mmaTile_of_not_gone (op := op) (k := k) (x := x) h
  rw [e]
  dsimp only
  unfold MmaArgs.first
  split
  case isTrue => exact ⟨rfl, rfl⟩
  case isFalse cont => exact ok.continues (by simpa using cont)

/-- A lane of the tile that the products are added to is the lane's start. -/
theorem MmaArgs.first_lane (ok : g.Checked op k) {i n : Nat} (hi : i < g.f.m) (hn : n < g.f.n) :
    Cells.get (fun _ => {}) (g.first op k).acc (i * 32 + n) = g.start op k i n := by
  have narrow := ok.lanes
  unfold MmaArgs.first MmaArgs.start
  cases hc : g.c with
  | none =>
    by_cases starts : op.starts = true
    · rw [if_pos starts, if_pos starts]; simp [MmaArgs.initOf, hc, Cells.get]
    · rw [if_neg starts, if_neg starts]; rfl
  | some q =>
    rw [if_pos (ok.starts q hc)]
    simp only [MmaArgs.initOf, hc]
    refine Cells.get_grid (fun _ => {}) Prod.fst Prod.snd (fun i j => (i * 32 + j, accumOf (k.elem q i j)))
      (List.mem_range.2 hi) (List.mem_range.2 hn) ?_
    intro i' _ n' hn' (same : i' * 32 + n' = i * 32 + n)
    have := List.mem_range.1 hn'
    obtain rfl : i' = i := by omega
    obtain rfl : n' = n := by omega
    rfl

/-- The rows and columns of the part are those of the operands. -/
theorem MmaArgs.part_row {i : Nat} (hi : i < g.f.m) : (g.part op k).a[i]? = some (g.row k i) := by
  simp [MmaArgs.part, Core.rowsOf, MmaArgs.row, hi]
theorem MmaArgs.part_col {n : Nat} (hn : n < g.f.n) : (g.part op k).b[n]? = some (g.col op k n) := by
  cases h : op.diag <;> simp [MmaArgs.part, Core.colsOf, MmaArgs.col, MmaArgs.mapping, hn, h]

theorem mmaTile_lane (ok : g.Checked op k) {i n : Nat} (hi : i < g.f.m) (hn : n < g.f.n) :
    (mmaTile op k x g).1.lane i n = laneAfter g.isInt (g.mapping op) n (g.start op k i n) (g.row k i) (g.col op k n) := by
  have lanes : ¬ (g.f.m = 0 ∨ g.f.n = 0) := by omega
  obtain ⟨_, _, _, e⟩ := mmaTile_of_not_gone (op := op) (k := k) (x := x) (g := g) (fun gone => lanes gone.1)
  rw [e, AccTile.lane, if_neg lanes, tileAdd_lane g.isInt _ _ (MmaArgs.part_row hi) (MmaArgs.part_col hn)
    (by simpa [MmaArgs.part, Core.colsOf] using ok.lanes), MmaArgs.first_lane ok hi hn]
  rfl

end Tile

/-! ## The core after a matrix instruction -/

section Effect
variable {op : MmaOp} {k : Core} {x : Ctx} {g : MmaArgs}

theorem mmaEffect_frame : mmaEffect op k x g = { k with mu := (mmaEffect op k x g).mu, tally := (mmaEffect op k x g).tally } := by
  unfold mmaEffect
  dsimp only
  rw [foldl_note]

theorem mmaEffect_mu : (mmaEffect op k x g).mu = { k.mu.setTile g.f.tile (mmaTile op k x g).1 with
    deepReplays := (mmaEffect op k x g).mu.deepReplays, readyWait := false, mcastWait := false, reading := g.reads
    mcast := (mmaEffect op k x g).mu.mcast } := by
  unfold mmaEffect
  dsimp only
  rw [foldl_note]

/-- The named tile is the instruction's, and the rest of the unit but its counts, waits and ranges stays. -/
theorem mmaEffect_unit : (mmaEffect op k x g).mu.tile g.f.tile = (mmaTile op k x g).1 ∧
    (mmaEffect op k x g).mu.tile (1 - g.f.tile) = k.mu.tile (1 - g.f.tile) ∧ (mmaEffect op k x g).mu.ftq = k.mu.ftq ∧
    (mmaEffect op k x g).mu.witq = k.mu.witq ∧ (mmaEffect op k x g).mu.heldWrites = k.mu.heldWrites := by
  rw [mmaEffect_mu]
  obtain ⟨tile, other⟩ := MuState.tiles_of_setTile (u := k.mu) (i := g.f.tile) (t := (mmaTile op k x g).1)
    (v := { k.mu.setTile g.f.tile (mmaTile op k x g).1 with
      deepReplays := (mmaEffect op k x g).mu.deepReplays, readyWait := false, mcastWait := false, reading := g.reads
      mcast := (mmaEffect op k x g).mu.mcast }) rfl rfl
  exact ⟨tile, other, MuState.setTile_ftq .., MuState.setTile_witq .., MuState.setTile_heldWrites ..⟩

/-- What an instruction's reads note does not change the tile it makes. -/
theorem mmaTile_accessed (n : Nat) :
    mmaTile op { k with eccCorr := n, mu := { k.mu with witHold := false } } x g = mmaTile op k x g := rfl

end Effect

theorem finish_ofExtent (x : Ctx) (s t : State) (empty : Bool) :
    finish x s (.ofExtent empty t) = .next (t.updCore x.c (fun k => k.retire (if empty then 0x011 else 0x010))) := by
  cases empty <;> rfl

/-- A matrix instruction that may issue, has nothing to wait for and reads no double error has its effect and retires. -/
theorem exec_mma_completes {op : MmaOp} {r : Row} {c : Nat} {s : State} {x : Ctx} {g : MmaArgs} (row : coreRow (op.instr c) = some (r, c))
    (issues : s.Issues c r x) (args : mmaArgs op s x = some g) (free : mmaWait op (s.core c) g = false)
    (sound : (s.core c).badWord g.reads = none) : ∃ e, exec (op.instr c) s =
      .next (((s.accessed c g.reads []).updCore c (fun k => mmaEffect op k x g)).updCore c (fun k => k.retire e)) := by
  obtain ⟨rfl, -⟩ := State.ctx_core issues.ctx
  refine ⟨if g.f.m == 0 || g.f.n == 0 || g.f.k == 0 then 0x011 else 0x010, ?_⟩
  rw [exec_mma row issues, mma_accesses args free, State.access_sound sound, finish_ofExtent]

/-- Settles O13: the effect on the core whose accesses are done, lane by lane, and its frame. -/
theorem matrixRowsComplete : Obligations.MatrixRowsComplete := by
  unfold Obligations.MatrixRowsComplete
  intro op r c s x g row issues args free sound
  obtain ⟨e, done⟩ := exec_mma_completes row issues args free sound
  have ok : g.Checked op (s.core c) := by
    obtain ⟨rfl, -⟩ := State.ctx_core issues.ctx
    exact mmaArgs_checked args
  obtain ⟨n, read⟩ := State.accessed_reads_core s c g.reads
  refine ⟨_, done, ((s.accessed_frame c _ _).trans (State.updCore_onlyCore _ _ _)).trans (State.updCore_onlyCore _ _ _), ?_⟩
  rw [State.core_updCore_self, State.core_updCore_self, read, Core.retire_frame, mmaEffect_frame]
  obtain ⟨tile, other, ftq, witq, held⟩ :=
    mmaEffect_unit (op := op) (k := { s.core c with eccCorr := n, mu := { (s.core c).mu with witHold := false } }) (x := x) (g := g)
  rw [mmaTile_accessed] at tile
  dsimp only
  rw [tile]
  refine ⟨mmaTile_of_gone, fun stays => ?_, fun i n hi hn => ?_, other, ftq, witq, held, rfl⟩
  · obtain ⟨hm, hn⟩ := mmaTile_extents (x := x) ok stays
    exact ⟨mmaTile_state stays, hm, hn⟩
  · exact mmaTile_lane ok hi hn

end Sys2Proof.Machine
end

section
namespace Sys2Proof.Machine

/-! ## Written words and reported flags -/

/-- Renewing the words of a write changes nothing of a core but its upsets (R227). -/
theorem Core.renew_frame (k : Core) (ob : Bool) (a n : Nat) : k.renew ob a n = { k with upsets := (k.renew ob a n).upsets } := by
  unfold Core.renew
  split <;> rfl
theorem foldl_renew_frame (ob : Bool) (l : List (Nat × Nat)) (k : Core) : l.foldl (fun k r => k.renew ob r.1 r.2) k =
    { k with upsets := (l.foldl (fun k r => k.renew ob r.1 r.2) k).upsets } := by
  induction l generalizing k with
  | nil => rfl
  | cons r l ih => rw [List.foldl_cons, ih, Core.renew_frame]

@[simp] theorem State.updJob_core (s : State) (p : Nat) (f : JobState → JobState) (d : Nat) : (s.updJob p f).core d = s.core d := rfl
/-- Reporting flags changes cores and partitions. -/
theorem State.addFlags_frame (s : State) (p c : Nat) (f : Fl) :
    s.addFlags p c f = { s with cores := (s.addFlags p c f).cores, parts := (s.addFlags p c f).parts } := rfl
/-- Reporting flags at a core changes its flags only. -/
theorem State.addFlags_core_self (s : State) (p c : Nat) (f : Fl) : ((s.addFlags p c f).core c) =
    { s.core c with ve := { (s.core c).ve with flags := ((s.addFlags p c f).core c).ve.flags } } := by
  unfold State.addFlags
  rw [State.updJob_core, State.core_updCore_self]
theorem State.addFlags_core_other (s : State) (p : Nat) {c d : Nat} (f : Fl) (h : d ≠ c) : (s.addFlags p c f).core d = s.core d := by
  rw [State.addFlags, State.updJob_core, State.core_updCore_other _ _ h]

/-- A core's write followed by its flags: what stays outside it, and what it becomes. -/
theorem State.setCore_addFlags {s t : State} {p c : Nat} {k : Core} {fl : Fl} (h : t = (s.setCore c k).addFlags p c fl) :
    t = { s with cores := t.cores, parts := t.parts } ∧ (∀ d, d ≠ c → t.core d = s.core d) ∧
      t.core c = { k with ve := { k.ve with flags := (t.core c).ve.flags } } ∧ (t.core c).mu = k.mu ∧ (t.core c).ts = k.ts := by
  have frame : t = { s with cores := t.cores, parts := t.parts } := by
    rw [h]
    exact State.addFlags_frame (s.setCore c k) p c fl
  have others : ∀ d, d ≠ c → t.core d = s.core d := fun d hd => by
    rw [h, State.addFlags_core_other _ _ _ hd, State.core_setCore_other _ _ hd]
  have own : t.core c = { k with ve := { k.ve with flags := (t.core c).ve.flags } } := by
    have flagged := State.addFlags_core_self (s.setCore c k) p c fl
    rwa [State.core_setCore_self, ← h] at flagged
  exact ⟨frame, others, own, by rw [own], by rw [own]⟩

/-! ## A draining tile (R64, R72, R75 to R77, R79, R90, R91) -/

theorem exec_tileFinish (c i : Nat) (s : State) : exec (.tileFinish c i) s = execTileFinish c i s := rfl
theorem exec_finishedTilePush (c i : Nat) (s : State) : exec (.finishedTilePush c i) s = execFinishedTilePush c i s := rfl

/-- Tile `i` of core `c`, of partition `p` with image `im`, drains with finish `f`, and its turn has come. -/
structure State.Drains (s : State) (c i p : Nat) (im : Image) (f : Finish) : Prop where
  core : c < Config.cores
  tile : i < 2
  part : s.partOf c = some p
  image : (s.part p).image = some im
  finish : ((s.core c).mu.tile i).finish = some f
  state : ((s.core c).mu.tile i).state = 2
  turn : drainTurn (s.core c).mu i f = true

/-- The witness queue after a tile finishes (R90). -/
def Core.witnessed (k : Core) (im : Image) (i : Nat) (f : Finish) : List Witness :=
  if witSelected im (outFields f.out) k.seq.pass then k.mu.witq ++ [witnessOf (k.mu.tile i) f (Req.seed im.req) k.seq.pass] else k.mu.witq
/-- The core after a ROUTE 0 tile is written, its flags aside. -/
def Core.converted (k : Core) (im : Image) (i : Nat) (f : Finish) : Core :=
  let k1 := (finishRanges (k.mu.tile i) f).foldl (fun k r => k.renew false r.1 r.2) (finishRoute0 k (k.mu.tile i) f (Req.seed im.req)).1
  { k1 with mu := { (k.mu.setTile i {}) with witq := k.witnessed im i f, reading := [], witHold := false } }
/-- The core after another tile is made ready to push. -/
def Core.preparedTile (k : Core) (im : Image) (i : Nat) (f : Finish) : Core :=
  { k with mu := { (k.mu.setTile i { k.mu.tile i with prepared := true, wit := false }) with witq := k.witnessed im i f, reading := [] } }
/-- The core after a ready tile is pushed, its flags aside. -/
def Core.pushed (k : Core) (i : Nat) (f : Finish) : Core :=
  { k with mu := { (k.mu.setTile i {}) with ftq := k.mu.ftq ++ [ftqEntry (k.mu.tile i) f] } }

theorem Core.converted_frame (k : Core) (im : Image) (i : Nat) (f : Finish) : k.converted im i f =
    { k with ts := (finishRoute0 k (k.mu.tile i) f (Req.seed im.req)).1.ts, mu := (k.converted im i f).mu,
             upsets := (k.converted im i f).upsets } := by
  unfold Core.converted
  rw [foldl_renew_frame]
  rfl

/-- What each of the three makes of the two tiles and the queues. -/
theorem Core.converted_unit (k : Core) (im : Image) (i : Nat) (f : Finish) : (k.converted im i f).mu.tile i = {} ∧
    (k.converted im i f).mu.tile (1 - i) = k.mu.tile (1 - i) ∧ (k.converted im i f).mu.ftq = k.mu.ftq ∧
    (k.converted im i f).mu.witq = k.witnessed im i f := by
  have unit : (k.converted im i f).mu = { k.mu.setTile i {} with witq := k.witnessed im i f, reading := [], witHold := false } := rfl
  rw [unit]
  obtain ⟨tile, other⟩ := MuState.tiles_of_setTile (u := k.mu) (i := i) (t := {})
    (v := { k.mu.setTile i {} with witq := k.witnessed im i f, reading := [], witHold := false }) rfl rfl
  exact ⟨tile, other, MuState.setTile_ftq .., rfl⟩
theorem Core.preparedTile_unit (k : Core) (im : Image) (i : Nat) (f : Finish) :
    (k.preparedTile im i f).mu.tile i = { k.mu.tile i with prepared := true, wit := false } ∧
    (k.preparedTile im i f).mu.tile (1 - i) = k.mu.tile (1 - i) ∧ (k.preparedTile im i f).mu.ftq = k.mu.ftq ∧
    (k.preparedTile im i f).mu.witq = k.witnessed im i f := by
  obtain ⟨tile, other⟩ := MuState.tiles_of_setTile (v := (k.preparedTile im i f).mu) rfl rfl
  exact ⟨tile, other, MuState.setTile_ftq .., rfl⟩
theorem Core.pushed_unit (k : Core) (i : Nat) (f : Finish) : (k.pushed i f).mu.tile i = {} ∧
    (k.pushed i f).mu.tile (1 - i) = k.mu.tile (1 - i) ∧ (k.pushed i f).mu.ftq = k.mu.ftq ++ [ftqEntry (k.mu.tile i) f] ∧
    (k.pushed i f).mu.witq = k.mu.witq := by
  obtain ⟨tile, other⟩ := MuState.tiles_of_setTile (v := (k.pushed i f).mu) rfl rfl
  exact ⟨tile, other, rfl, MuState.setTile_witq ..⟩
/-- The tile store of a converted tile: its rows one after another, through its output descriptor (R72, R73, R75). -/
theorem Core.converted_ts (k : Core) (im : Image) (i : Nat) (f : Finish) : (k.converted im i f).ts =
    if (f.written (k.mu.tile i).m (k.mu.tile i).n).2 = 0 then k.ts else
      (List.range (f.written (k.mu.tile i).m (k.mu.tile i).n).1).foldl (finishWrite (k.mu.tile i) (outFields f.out)
        (Ccw.of (outFields f.out).ccw).dst (Req.seed im.req) k.seq.pass (f.written (k.mu.tile i).m (k.mu.tile i).n).2) k.ts := by
  rw [Core.converted_frame]; rfl

section Drain
variable {c i p : Nat} {s : State} {im : Image} {f : Finish}

/-- TILE_FINISH whose turn has come and that has room for its witness: it waits, or the tile is converted, or made ready to push. -/
theorem tileFinish_of_drains (h : s.Drains c i p im f) (unprepared : ((s.core c).mu.tile i).prepared = false)
    (room : witSelected im (outFields f.out) (s.core c).seq.pass = true → (s.core c).mu.witq.length < 4) :
    exec (.tileFinish c i) s = .next
      (if finishHeld (s.core c) i ((s.core c).mu.tile i) f then s.setCore c (s.core c).waitWitness
       else if f.route = 0 then
        let fl := (finishRoute0 (s.core c) ((s.core c).mu.tile i) f (Req.seed im.req)).2
        ((s.setCore c ((s.core c).converted im i f)).addFlags p c fl).monitor p f.layer fl.sat 0 0 false
       else s.setCore c ((s.core c).preparedTile im i f)) := by
  have hasRoom : ¬ (witSelected im (outFields f.out) (s.core c).seq.pass && decide (4 ≤ (s.core c).mu.witq.length)) = true := by
    simpa using room
  rw [exec_tileFinish, execTileFinish, if_neg (by simp [h.core, h.tile])]
  dsimp only
  rw [h.finish, h.part]
  dsimp only
  rw [h.image]
  dsimp only
  rw [if_neg (by simp [h.state, unprepared, h.turn]), if_neg hasRoom]
  split
  case isTrue => rfl
  case isFalse =>
    split
    · rfl
    · rw [← h.finish]; rfl

/-- FINISHED_TILE_PUSH of a ready tile whose turn has come, with room in the queue. -/
theorem finishedTilePush_of_drains (h : s.Drains c i p im f) (ready : ((s.core c).mu.tile i).prepared = true)
    (room : (s.core c).mu.ftq.length < 8) : ∃ fl, exec (.finishedTilePush c i) s =
      .next ((s.setCore c ((s.core c).pushed i f)).addFlags p c fl) := by
  rw [exec_finishedTilePush, execFinishedTilePush, if_neg (by simp [h.core, h.tile])]
  dsimp only
  rw [h.finish, h.part]
  dsimp only
  rw [if_neg (by simpa [h.state, ready, h.turn] using room)]
  exact ⟨_, rfl⟩

end Drain

/-- Settles O15: what TILE_FINISH and FINISHED_TILE_PUSH make of the core, and its frame. -/
theorem tilesFinish : Obligations.TilesFinish := by
  unfold Obligations.TilesFinish
  intro c i p s im f hc hi part image finish state turn
  have drains : s.Drains c i p im f := ⟨hc, hi, part, image, finish, state, turn⟩
  refine ⟨fun unprepared room held => ?wait, fun unprepared room free => ?finishes, fun ready room => ?push⟩
  case wait => rw [tileFinish_of_drains drains unprepared room, if_pos held]
  case finishes =>
    rw [tileFinish_of_drains drains unprepared room, if_neg (by simp [free])]
    by_cases route : f.route = 0
    · obtain ⟨frame, others, own, unit, ts⟩ := State.setCore_addFlags (s := s) (p := p) (c := c) (k := (s.core c).converted im i f)
        (fl := (finishRoute0 (s.core c) ((s.core c).mu.tile i) f (Req.seed im.req)).2) rfl
      obtain ⟨tile, other, ftq, witq⟩ := (s.core c).converted_unit im i f
      refine ⟨_, by rw [if_pos route, if_pos route], frame, others, by rw [own, Core.converted_frame], ?_⟩
      rw [unit, ts, Core.converted_ts]
      exact ⟨other, ftq, witq, fun pushes => absurd route pushes, fun _ => ⟨tile, rfl⟩⟩
    · obtain ⟨tile, other, ftq, witq⟩ := (s.core c).preparedTile_unit im i f
      refine ⟨_, by rw [if_neg route, if_neg route], rfl, fun d hd => State.core_setCore_other _ _ hd, ?_⟩
      rw [State.core_setCore_self]
      exact ⟨rfl, other, ftq, witq, fun _ => ⟨tile, rfl⟩, fun writes => absurd writes route⟩
  case push =>
    obtain ⟨fl, pushes⟩ := finishedTilePush_of_drains drains ready room
    obtain ⟨frame, others, own, unit, -⟩ :=
      State.setCore_addFlags (s := s) (p := p) (c := c) (k := (s.core c).pushed i f) (fl := fl) rfl
    obtain ⟨tile, other, ftq, witq⟩ := (s.core c).pushed_unit i f
    refine ⟨_, pushes, frame, others, own.trans (by rw [unit]; rfl), ?_⟩
    rw [unit]
    exact ⟨ftq, tile, other, witq⟩

end Sys2Proof.Machine
end

section
namespace Sys2Proof.Machine

/-! ## Outside writes to a core (R79, R91, R227) -/

theorem Core.land_frame (k : Core) (w : LocalWrite) :
    k.land w = { k with ts := (k.land w).ts, ob := (k.land w).ob, upsets := (k.land w).upsets } := by
  unfold Core.land
  dsimp only
  rw [Core.renew_frame, Core.setMem]
  split <;> rfl
@[simp] theorem Core.land_mu (k : Core) (w : LocalWrite) : (k.land w).mu = k.mu := by rw [Core.land_frame]
/-- An unmasked write to the operand buffer leaves its bytes there. -/
theorem Core.land_ob (k : Core) (a : Nat) (bs : List Byte) :
    k.land ⟨true, a, bs, []⟩ = { k with ob := k.ob.writeN a bs, upsets := (k.land ⟨true, a, bs, []⟩).upsets } := by
  unfold Core.land
  dsimp only
  rw [Core.renew_frame]
  rfl
/-- What holds a write back is in the matrix unit. -/
theorem Core.holds_congr {k k' : Core} (h : k'.mu = k.mu) (w : LocalWrite) : k'.holds w = k.holds w := by
  simp only [Core.holds, Core.witHeld, Core.witRange, Core.readHeld, Core.behindHeld, h]
theorem Core.landAll_free {k : Core} {w : LocalWrite} (free : k.holds w = false) : k.landAll [w] = k.land w := by
  simp [Core.landAll, Core.landNew, free]

/-! ## HELD_WRITE_RELEASE (R79, R91) -/

theorem exec_heldWriteRelease {c : Nat} {s : State} (hc : c < Config.cores) :
    exec (.heldWriteRelease c) s = .next (s.updCore c Core.release) := if_neg (Nat.not_le.2 hc)

/-- One turn of a release. -/
def Core.retry (k : Core) (w : LocalWrite) : Core := if k.holds w then k.hold w else k.land w
/-- A core whose held writes are taken out to be tried again. -/
def Core.emptied (k : Core) : Core := { k with mu := { k.mu with heldWrites := [], reading := [] } }
theorem Core.release_eq (k : Core) : k.release = k.mu.heldWrites.foldl Core.retry k.emptied := rfl

/-- A turn only adds to the held writes. -/
theorem Core.retry_heldWrites (k : Core) (w : LocalWrite) : ∃ more, (k.retry w).mu.heldWrites = k.mu.heldWrites ++ more := by
  unfold Core.retry
  split
  · exact ⟨[w], rfl⟩
  · exact ⟨[], by simp⟩
theorem Core.mem_heldWrites_foldl_retry {w : LocalWrite} (l : List LocalWrite) (k : Core) (h : w ∈ k.mu.heldWrites) :
    w ∈ (l.foldl Core.retry k).mu.heldWrites := by
  induction l generalizing k with
  | nil => exact h
  | cons v r ih =>
    obtain ⟨more, e⟩ := k.retry_heldWrites v
    exact ih _ (by rw [e]; exact List.mem_append_left _ h)

/-- The oldest held write stays while a witness holds it. -/
theorem Core.release_keeps {k : Core} {w : LocalWrite} {r : List LocalWrite} (h : k.mu.heldWrites = w :: r) (held : k.witHeld w = true) :
    w ∈ k.release.mu.heldWrites := by
  have holds : k.emptied.holds w = true := by
    have same : k.emptied.witHeld w = true := held
    simp [Core.holds, same]
  rw [Core.release_eq, h, List.foldl_cons, Core.retry, if_pos holds]
  exact Core.mem_heldWrites_foldl_retry _ _ (List.mem_append_right _ (List.mem_singleton_self w))

/-- With no write held and none to be read, a write that no witness holds lands. -/
theorem Core.foldl_retry_free (l : List LocalWrite) (k : Core) (empty : k.mu.heldWrites = []) (read : k.mu.reading = [])
    (free : ∀ w, w ∈ l → k.witHeld w = false) : l.foldl Core.retry k = l.foldl Core.land k ∧ (l.foldl Core.land k).mu = k.mu := by
  induction l generalizing k with
  | nil => exact ⟨rfl, rfl⟩
  | cons w r ih =>
    have lands : k.retry w = k.land w :=
      if_neg (by simp [Core.holds, Core.readHeld, Core.behindHeld, meetsAny, empty, read, free w (List.mem_cons_self ..)])
    obtain ⟨same, unit⟩ := ih (k.land w) (by simpa using empty) (by simpa using read) (fun v hv => by
      simpa [Core.witHeld, Core.witRange] using free v (List.mem_cons_of_mem w hv))
    rw [List.foldl_cons, List.foldl_cons, lands]
    exact ⟨same, unit.trans (k.land_mu w)⟩

theorem Core.release_free {k : Core} (free : ∀ w, w ∈ k.mu.heldWrites → k.witHeld w = false) :
    k.release = k.mu.heldWrites.foldl Core.land k.emptied ∧ k.release.mu.heldWrites = [] := by
  obtain ⟨lands, unit⟩ := Core.foldl_retry_free k.mu.heldWrites k.emptied rfl rfl free
  rw [Core.release_eq, lands, unit]
  exact ⟨rfl, rfl⟩

/-! ## Multicast (R82) -/

/-- A rectangle inside the field names each of its cores once. -/
theorem rectCores_nodup (c row0 col0 rows : Nat) {cols : Nat} (fits : cols ≤ 50) : (rectCores c row0 col0 rows cols).Nodup := by
  unfold rectCores
  rw [List.nodup_flatten]
  constructor
  · intro l hl
    obtain ⟨r, -, rfl⟩ := List.mem_map.1 hl
    exact List.Nodup.map (fun a b (h : _ + a = _ + b) => by omega) List.nodup_range
  · rw [List.pairwise_map]
    refine List.nodup_range.imp (fun {r r'} differ d hd hd' => differ ?_)
    obtain ⟨q, hq, rfl⟩ := List.mem_map.1 hd
    obtain ⟨q', hq', same⟩ := List.mem_map.1 hd'
    have := List.mem_range.1 hq
    have := List.mem_range.1 hq'
    omega

/-- Changing each core of a list once. -/
theorem State.core_foldl_updCore (f : Core → Core) {l : List Nat} (once : l.Nodup) (s : State) (d : Nat) :
    (l.foldl (fun s e => s.updCore e f) s).core d = if d ∈ l then f (s.core d) else s.core d := by
  induction l generalizing s with
  | nil => simp
  | cons e r ih =>
    obtain ⟨fresh, rest⟩ := List.nodup_cons.1 once
    rw [List.foldl_cons, ih rest]
    by_cases h : d = e
    · subst h; simp [fresh]
    · simp [h]

/-- A core that takes a delivery of beat `b`: the bytes land or are held, and the delivery is noted. -/
def Core.delivered (k : Core) (b dst len : Nat) (bs : List Byte) : Core :=
  let k2 := k.landAll [⟨true, dst, bs, []⟩]
  { k2 with mu := { k2.mu with mcast := k2.mu.mcast ++ [⟨b, dst, len⟩] } }
/-- A delivery at one core, or the schedule fault of a beat outside its window (R29). -/
def State.deliverTo (s : State) (p c b dst len : Nat) (bs : List Byte) (d : Nat) : State :=
  let q := (s.core d).seq
  if b < q.curBeat then s.schedFault p d 2 b ⟨0, c⟩
  else if q.curBeat + q.winM1 < b then s.schedFault p d 3 b ⟨0, c⟩
  else s.updCore d (fun k => k.delivered b dst len bs)

/-- Whether a core's window holds a beat (R29). -/
def Core.inWindow (k : Core) (b : Nat) : Prop := k.seq.curBeat ≤ b ∧ b ≤ k.seq.curBeat + k.seq.winM1

theorem Core.delivered_seq (k : Core) (b dst len : Nat) (bs : List Byte) : (k.delivered b dst len bs).seq = k.seq := by
  unfold Core.delivered Core.landAll Core.landNew
  dsimp only [List.foldl_cons, List.foldl_nil]
  split
  · rfl
  · rw [Core.land_frame]
/-- A delivery that nothing holds back leaves the bytes and its note (R82). -/
theorem Core.delivered_free {k : Core} {dst : Nat} {bs : List Byte} (free : k.holds ⟨true, dst, bs, []⟩ = false) (b len : Nat) :
    k.delivered b dst len bs = { k with ob := k.ob.writeN dst bs, mu := { k.mu with mcast := k.mu.mcast ++ [⟨b, dst, len⟩] },
                                        upsets := (k.delivered b dst len bs).upsets } := by
  unfold Core.delivered
  rw [Core.landAll_free free, Core.land_ob]

/-- Deliveries inside every window are a change of each core. -/
theorem State.foldl_deliverTo (p c b dst len : Nat) (bs : List Byte) (l : List Nat) (s : State) (windows : ∀ d, d ∈ l → (s.core d).inWindow b) :
    l.foldl (fun s d => s.deliverTo p c b dst len bs d) s = l.foldl (fun s d => s.updCore d (fun k => k.delivered b dst len bs)) s := by
  induction l generalizing s with
  | nil => rfl
  | cons e r ih =>
    obtain ⟨started, inTime⟩ := windows e (List.mem_cons_self ..)
    have now : s.deliverTo p c b dst len bs e = s.updCore e (fun k => k.delivered b dst len bs) := by
      rw [State.deliverTo, if_neg (Nat.not_lt.2 started), if_neg (Nat.not_lt.2 inTime)]
    rw [List.foldl_cons, List.foldl_cons, now]
    refine ih _ (fun d hd => ?_)
    have same : ((s.updCore e (fun k => k.delivered b dst len bs)).core d).seq = (s.core d).seq :=
      State.core_setCore_keeps Core.seq (Core.delivered_seq ..) d
    rw [Core.inWindow, same]
    exact windows d (List.mem_cons_of_mem e hd)

theorem Core.corrected_frame (k : Core) (rs : List (Bool × Nat × Nat)) : k.corrected rs = { k with eccCorr := (k.corrected rs).eccCorr } := by
  unfold Core.corrected
  split <;> rfl

theorem Core.corrected_seq (k : Core) (rs : List (Bool × Nat × Nat)) : (k.corrected rs).seq = k.seq := by rw [Core.corrected_frame]
theorem Core.corrected_mu (k : Core) (rs : List (Bool × Nat × Nat)) : (k.corrected rs).mu = k.mu := by rw [Core.corrected_frame]

/-- The state after a multicast: the sender counts corrected words, every core of the list takes the delivery, the field counts it. -/
def State.multicast (s : State) (c : Nat) (cs : List Nat) (src dst len : Nat) : State :=
  let b := (s.core c).seq.curBeat
  let bs := (s.core c).ob.readN src len
  (cs.foldl (fun s d => s.updCore d (fun k => k.delivered b dst len bs))
    (s.updCore c (·.corrected [(true, src, len)]))).noteField (c / 2500) 0x140 1

/-- What lets a multicast of core `c` go: the field and the buffers hold it, no earlier message is still on its way to a receiver, it reads no
double error, and every receiver is of the sender's partition, has freed the range and has the beat in its window (R15, R29, R82). -/
structure State.Multicasts (s : State) (c row0 col0 rows cols src dst len : Nat) (x : Ctx) : Prop where
  core : c < Config.cores
  inRows : row0 + rows ≤ 50
  inCols : col0 + cols ≤ 50
  count : rows * cols ≤ 64
  ctx : s.ctx c = some x
  source : src + len ≤ Config.obBytes
  dest : dst + len ≤ Config.obBytes
  arrived : ∀ m, m ∈ s.msgs → m.src = ⟨0, c⟩ → m.dst.kind = 0 → m.dst.num ∉ rectCores c row0 col0 rows cols
  sound : (s.core c).badWord [(true, src, len)] = none
  part : ∀ d, d ∈ rectCores c row0 col0 rows cols → s.partOf d = some x.p
  window : ∀ d, d ∈ rectCores c row0 col0 rows cols → (s.core d).inWindow (s.core c).seq.curBeat
  freed : ∀ d, d ∈ rectCores c row0 col0 rows cols → ∀ q, q ∈ (s.core d).mu.mcast →
    q.beat < (s.core d).seq.curBeat ∨ q.base + q.len ≤ dst ∨ dst + len ≤ q.base

theorem exec_multicastDelivery (c row0 col0 rows cols src dst len : Nat) (s : State) :
    exec (.multicastDelivery c row0 col0 rows cols src dst len) s = execMulticastDelivery c row0 col0 rows cols src dst len s := rfl

theorem multicastDelivery_lands {c row0 col0 rows cols src dst len : Nat} {s : State} {x : Ctx}
    (h : s.Multicasts c row0 col0 rows cols src dst len x) : exec (.multicastDelivery c row0 col0 rows cols src dst len) s =
      .next (s.multicast c (rectCores c row0 col0 rows cols) src dst len) := by
  have units : ¬ (Config.cores ≤ c ∨ 50 < row0 + rows ∨ 50 < col0 + cols ∨ 64 < rows * cols) := by
    have := h.core; have := h.inRows; have := h.inCols; have := h.count; omega
  have legal : ¬ (decide (Config.obBytes < src + len) || decide (Config.obBytes < dst + len)
      || (rectCores c row0 col0 rows cols).any (fun d => s.partOf d != some x.p)) = true := by
    simpa [Nat.not_lt, h.source, h.dest] using h.part
  have arrived : ¬ s.msgs.any (fun m => m.src == ⟨0, c⟩ && m.dst.kind == 0 && (rectCores c row0 col0 rows cols).contains m.dst.num) = true := by
    simpa using h.arrived
  have freed : ¬ (rectCores c row0 col0 rows cols).any (fun d => (s.core d).mu.mcast.any (fun q =>
      decide ((s.core d).seq.curBeat ≤ q.beat) && decide (q.base < dst + len) && decide (dst < q.base + q.len))) = true := by
    simp only [List.any_eq_true, Bool.and_eq_true, decide_eq_true_eq, not_exists, not_and]
    rintro d hd q hq ⟨late, low⟩ high
    have := h.freed d hd q hq
    omega
  have windows : ∀ d, d ∈ rectCores c row0 col0 rows cols →
      ((s.updCore c (·.corrected [(true, src, len)])).core d).inWindow (s.core c).seq.curBeat := fun d hd => by
    have same : ((s.updCore c (·.corrected [(true, src, len)])).core d).seq = (s.core d).seq :=
      State.core_setCore_keeps Core.seq (Core.corrected_seq ..) d
    rw [Core.inWindow, same]
    exact h.window d hd
  rw [exec_multicastDelivery, execMulticastDelivery, if_neg (by simpa [and_assoc] using units), h.ctx]
  dsimp only
  rw [if_neg legal, if_neg arrived, if_neg freed, h.sound]
  dsimp only
  rw [State.multicast, ← State.foldl_deliverTo x.p c _ dst len _ _ _ windows]
  rfl

/-- A multicast changes cores and the field's counts. -/
theorem State.multicast_frame (s : State) (c : Nat) (cs : List Nat) (src dst len : Nat) :
    s.multicast c cs src dst len =
      { s with cores := (s.multicast c cs src dst len).cores, fieldTally := (s.multicast c cs src dst len).fieldTally } := by
  unfold State.multicast
  dsimp only
  rw [foldl_coresOnly (fun _ _ => rfl)]
  rfl

theorem State.multicast_core {cs : List Nat} (once : cs.Nodup) (s : State) (c src dst len d : Nat) :
    (s.multicast c cs src dst len).core d =
      if d ∈ cs then ((s.updCore c (·.corrected [(true, src, len)])).core d).delivered (s.core c).seq.curBeat dst len ((s.core c).ob.readN src len)
      else (s.updCore c (·.corrected [(true, src, len)])).core d :=
  State.core_foldl_updCore _ once _ d

/-- A core outside the list keeps all but, at the sender, its count of corrected words. -/
theorem State.multicast_core_outside {cs : List Nat} (once : cs.Nodup) (s : State) (c src dst len : Nat) {d : Nat} (hd : d ∉ cs) :
    (s.multicast c cs src dst len).core d = { s.core d with eccCorr := ((s.multicast c cs src dst len).core d).eccCorr } ∧
      (d ≠ c → (s.multicast c cs src dst len).core d = s.core d) := by
  rw [State.multicast_core once, if_neg hd]
  by_cases h : d = c
  · subst h
    exact ⟨by rw [State.core_updCore_self]; exact Core.corrected_frame .., fun other => absurd rfl other⟩
  · rw [State.core_updCore_other _ _ h]
    exact ⟨rfl, fun _ => rfl⟩

/-- A core of the list at which nothing holds the range back has the bytes and the note. -/
theorem State.multicast_core_inside {cs : List Nat} (once : cs.Nodup) (s : State) (c src dst len : Nat) {d : Nat} (hd : d ∈ cs)
    (free : (s.core d).holds ⟨true, dst, (s.core c).ob.readN src len, []⟩ = false) :
    ∃ u e, (s.multicast c cs src dst len).core d = { s.core d with
      ob := (s.core d).ob.writeN dst ((s.core c).ob.readN src len)
      mu := { (s.core d).mu with mcast := (s.core d).mu.mcast ++ [⟨(s.core c).seq.curBeat, dst, len⟩] }, upsets := u, eccCorr := e } := by
  rw [State.multicast_core once, if_pos hd]
  by_cases h : d = c
  · subst h
    rw [State.core_updCore_self, Core.delivered_free (by rw [Core.holds_congr (Core.corrected_mu ..)]; exact free), Core.corrected_frame]
    exact ⟨_, _, rfl⟩
  · rw [State.core_updCore_other _ _ h, Core.delivered_free free]
    exact ⟨_, _, rfl⟩

/-- Settles O16: a multicast is a change of each core of the rectangle, a release a turn for each held write. -/
theorem deliveriesLand : Obligations.DeliveriesLand := by
  unfold Obligations.DeliveriesLand
  refine ⟨?multicast, ?release⟩
  case multicast =>
    intro c row0 col0 rows cols src dst len s x hc hr hq hn hx hsrc hdst cs b bs arrived sound ready
    have lands := multicastDelivery_lands (row0 := row0) (col0 := col0) (rows := rows) (cols := cols) (src := src) (dst := dst) (len := len)
      ⟨hc, hr, hq, hn, hx, hsrc, hdst, arrived, sound, fun d hd => let ⟨part, _⟩ := ready d hd; part,
        fun d hd => let ⟨_, started, inTime, _⟩ := ready d hd; ⟨started, inTime⟩, fun d hd => let ⟨_, _, _, _, freed⟩ := ready d hd; freed⟩
    have once : cs.Nodup := rectCores_nodup c row0 col0 rows (by omega)
    refine ⟨_, lands, State.multicast_frame .., fun d hd => State.multicast_core_outside once s c src dst len hd, fun d hd => ?_⟩
    obtain ⟨-, -, -, free, -⟩ := ready d hd
    obtain ⟨u, e, landed⟩ := State.multicast_core_inside once s c src dst len hd free
    rw [landed]
    exact ⟨rfl, rfl, rfl⟩
  case release =>
    intro c s hc
    refine ⟨_, exec_heldWriteRelease hc, State.updCore_onlyCore _ _ _, ?_⟩
    rw [State.core_updCore_self]
    refine ⟨fun w r h held => Core.release_keeps h held, fun free => ?_⟩
    obtain ⟨lands, released⟩ := Core.release_free free
    exact ⟨released, lands⟩

end Sys2Proof.Machine
end

section
namespace Sys2Proof.Machine

/-! ## Lines of a shelf and their addresses (R17, R251) -/

theorem lineOf_lt (a : Nat) : lineOf a < 805306368 := by
  unfold lineOf Config.groupBytes
  omega
theorem lineBase_add_mod (a : Nat) : lineBase (shelfOf a) (lineOf a) + a % 128 = a := by
  unfold lineBase flat shelfOf lineOf Config.groupBytes
  omega
theorem shelfOf_lineBase_add {k l i : Nat} (own : l < 805306368) (hi : i < 128) : shelfOf (lineBase k l + i) = k := by
  unfold lineBase flat shelfOf Config.groupBytes
  omega
theorem lineOf_lineBase_add {k l i : Nat} (own : l < 805306368) (hi : i < 128) : lineOf (lineBase k l + i) = l := by
  unfold lineBase flat lineOf Config.groupBytes
  omega

/-- What `State.CachesOk` asks of each line. -/
def CacheLine.Whole (l : CacheLine) : Prop := l.line < 805306368 ∧ l.valid.length = 128 ∧ l.dirty.length = 128 ∧ l.bytes.length = 128

@[simp] theorem freshLine_line (l w : Nat) : (freshLine l w).line = l := rfl
theorem freshLine_clean (l w i : Nat) : (freshLine l w).dirty.getD i false = false := by
  rw [List.getD_eq_getElem?_getD]
  exact List.getElem?_getD_replicate_default_eq false 128 i
theorem freshLine_whole (a w : Nat) : (freshLine (lineOf a) w).Whole :=
  ⟨lineOf_lt a, List.length_replicate, List.length_replicate, List.length_replicate⟩
theorem CacheLine.Whole.merge {l : CacheLine} (h : l.Whole) (i : Nat) (b : Byte) : (l.merge i b).Whole := by
  obtain ⟨own, valid, dirty, bytes⟩ := h
  exact ⟨own, by rw [CacheLine.merge, List.length_set, valid], by rw [CacheLine.merge, List.length_set, dirty],
    by rw [CacheLine.merge, List.length_set, bytes]⟩

/-! ## A change of one shelf -/

theorem State.shelf_updShelf (s : State) (k j : Nat) (f : Shelf → Shelf) :
    (s.updShelf k f).shelf j = if j = k then f (s.shelf k) else s.shelf j := State.shelf_setShelf _ _ _ _
theorem State.line_updShelf (s : State) (k a : Nat) (f : Shelf → Shelf) : (s.updShelf k f).line a =
    if shelfOf a = k then (f (s.shelf k)).cache.find? (fun l => l.line == lineOf a) else s.line a := by
  rw [State.line, State.shelf_updShelf]
  split
  · rfl
  · rfl
theorem State.CachesOk.updShelf {s : State} (h : s.CachesOk) {k : Nat} {f : Shelf → Shelf} (new : ∀ l ∈ (f (s.shelf k)).cache, l.Whole) :
    (s.updShelf k f).CachesOk := fun j l hl => by
  rw [State.shelf_updShelf] at hl
  split at hl
  · exact new l hl
  · exact h j l hl

/-- A byte reads alike where its line and the stack read alike. -/
theorem State.hb_congr {s t : State} {a : Nat} (line : t.line a = s.line a) (read : t.hbm.read a = s.hbm.read a) : t.hb a = s.hb a := by
  rw [State.hb, State.hb, line, read]
theorem State.hb_of_line {s : State} {a : Nat} {l : CacheLine} (h : s.line a = some l) :
    s.hb a = if l.dirty.getD (a % 128) false then l.bytes.getD (a % 128) 0 else s.hbm.read a := by simp [State.hb, h]
theorem State.hb_congr_line {s t : State} {a : Nat} (line : t.line a = s.line a) (mem : t.hbm = s.hbm) : t.hb a = s.hb a :=
  State.hb_congr line (by rw [mem])

/-! ## A line leaves (R254) -/

/-- What the stack reads after the dirty bytes of a line are written to it. -/
theorem State.writeBack_read (s : State) (base : Nat) (l : CacheLine) (a : Nat) : (s.writeBack base l).hbm.read a =
    if base ≤ a ∧ a < base + 128 ∧ l.dirty.getD (a - base) false = true then l.bytes.getD (a - base) 0 else s.hbm.read a := by
  have upTo : ∀ n, ((List.range n).foldl (fun m i => if l.dirty.getD i false then m.write (base + i) (l.bytes.getD i 0) else m) s.hbm).read a =
      if base ≤ a ∧ a < base + n ∧ l.dirty.getD (a - base) false = true then l.bytes.getD (a - base) 0 else s.hbm.read a := by
    intro n
    induction n with
    | zero => rw [if_neg (by omega)]; rfl
    | succ n ih =>
      rw [List.range_succ, List.foldl_append, List.foldl_cons, List.foldl_nil]
      by_cases here : a = base + n
      · have at_ : a - base = n := by omega
        rw [at_] at ih ⊢
        split
        · rename_i dirty
          rw [here, Mem.read_write_self, if_pos ⟨by omega, by omega, dirty⟩]
        · rename_i clean
          rw [ih, if_neg (by omega), if_neg (fun h => clean h.2.2)]
      · have same : (base ≤ a ∧ a < base + (n + 1) ∧ l.dirty.getD (a - base) false = true) ↔
            (base ≤ a ∧ a < base + n ∧ l.dirty.getD (a - base) false = true) :=
          ⟨fun ⟨lo, hi, dirty⟩ => ⟨lo, by omega, dirty⟩, fun ⟨lo, hi, dirty⟩ => ⟨lo, by omega, dirty⟩⟩
        rw [if_congr same rfl rfl, ← ih]
        split
        · exact Mem.read_write_other _ _ here
        · rfl
  exact upTo 128

/-- Filtering out a line's entries leaves every other line where it is found. -/
theorem find?_filter_line (c : List CacheLine) (l m : Nat) : (c.filter (fun e => e.line != l)).find? (fun e => e.line == m) =
    if m = l then none else c.find? (fun e => e.line == m) := by
  rw [List.find?_filter]
  split
  · rename_i e
    rw [e, List.find?_eq_none]
    simp
  · rename_i e
    congr 1
    funext x
    by_cases hx : x.line = m
    · simp [hx, e]
    · simp [hx]

theorem State.evict_of_absent {s : State} {k l : Nat} (h : (s.shelf k).cache.find? (fun e => e.line == l) = none) : s.evict k l = s := by
  simp [State.evict, h]
theorem State.evict_of_found {s : State} {k l : Nat} {v : CacheLine} (h : (s.shelf k).cache.find? (fun e => e.line == l) = some v) :
    s.evict k l = (s.writeBack (lineBase k l) v).updShelf k (fun x => { x with cache := x.cache.filter (fun e => e.line != l) }) := by
  simp [State.evict, h]

/-- The shelves after a line has left: its entries are gone. -/
theorem State.shelf_evict (s : State) (k l j : Nat) : (s.evict k l).shelf j =
    if j = k then { s.shelf k with cache := (s.shelf k).cache.filter (fun e => e.line != l) } else s.shelf j := by
  cases h : (s.shelf k).cache.find? (fun e => e.line == l) with
  | some v => rw [State.evict_of_found h, State.shelf_updShelf]; rfl
  | none =>
    rw [State.evict_of_absent h]
    split
    · rename_i e
      have all : (s.shelf k).cache.filter (fun e => e.line != l) = (s.shelf k).cache :=
        List.filter_eq_self.2 (fun e he => by simpa using List.find?_eq_none.1 h e he)
      rw [all, e]
    · rfl
theorem State.line_evict (s : State) (k l a : Nat) :
    (s.evict k l).line a = if shelfOf a = k ∧ lineOf a = l then none else s.line a := by
  rw [State.line, State.shelf_evict]
  by_cases hk : shelfOf a = k
  · rw [if_pos hk]
    dsimp only
    rw [find?_filter_line, ← hk]
    simp [State.line]
  · rw [if_neg hk, if_neg (fun h => hk h.1), State.line]
theorem State.CachesOk.evict {s : State} (h : s.CachesOk) (k l : Nat) : (s.evict k l).CachesOk := fun j e he => by
  rw [State.shelf_evict] at he
  split at he
  · exact h k e (List.mem_of_mem_filter he)
  · exact h j e he

/-- A line that leaves takes no byte with it: where it was dirty, the stack now holds its bytes. -/
theorem State.evict_hb {s : State} (ok : s.CachesOk) (k l a : Nat) : (s.evict k l).hb a = s.hb a := by
  cases found : (s.shelf k).cache.find? (fun e => e.line == l) with
  | none => rw [State.evict_of_absent found]
  | some v =>
    have named : v.line = l := by simpa using List.find?_some found
    have own : l < 805306368 := named ▸ (ok k v (List.mem_of_find?_eq_some found)).1
    have mem : (s.evict k l).hbm = (s.writeBack (lineBase k l) v).hbm := by rw [State.evict_of_found found]; rfl
    by_cases at_ : shelfOf a = k ∧ lineOf a = l
    · obtain ⟨hk, hl⟩ := at_
      have gone : (s.evict k l).line a = none := by rw [State.line_evict, if_pos ⟨hk, hl⟩]
      have was : s.line a = some v := by rw [State.line, hk, hl, found]
      have place := lineBase_add_mod a
      rw [hk, hl] at place
      have low : a - lineBase k l = a % 128 := by omega
      rw [State.hb_of_no_line gone, State.hb_of_line was, mem, State.writeBack_read, low]
      exact if_congr ⟨fun h => h.2.2, fun h => ⟨by omega, by omega, h⟩⟩ rfl rfl
    · refine State.hb_congr (by rw [State.line_evict, if_neg at_]) ?_
      rw [mem, State.writeBack_read, if_neg]
      rintro ⟨lo, hi, -⟩
      have place : lineBase k l + (a - lineBase k l) = a := by omega
      have shelf := shelfOf_lineBase_add (k := k) own (i := a - lineBase k l) (by omega)
      have line := lineOf_lineBase_add (k := k) own (i := a - lineBase k l) (by omega)
      rw [place] at shelf line
      exact at_ ⟨shelf, line⟩

/-! ## A line is allocated (R255) -/

/-- A fresh line of an address whose shelf holds none is clean, so every byte reads as before. -/
theorem State.freshLine_hb {s : State} {a w : Nat} (absent : s.line a = none) (x : Nat) :
    (s.updShelf (shelfOf a) (fun y => { y with cache := freshLine (lineOf a) w :: y.cache })).hb x = s.hb x := by
  generalize made : (s.updShelf (shelfOf a) (fun y => { y with cache := freshLine (lineOf a) w :: y.cache })) = t
  have mem : t.hbm = s.hbm := by rw [← made]; rfl
  have lines : t.line x = if shelfOf x = shelfOf a then
      (freshLine (lineOf a) w :: (s.shelf (shelfOf a)).cache).find? (fun l => l.line == lineOf x) else s.line x := by
    rw [← made, State.line_updShelf]
  by_cases hk : shelfOf x = shelfOf a
  · rw [if_pos hk] at lines
    by_cases hl : lineOf a = lineOf x
    · rw [List.find?_cons_of_pos (by simp [hl])] at lines
      have was : s.line x = none := by rw [← absent, State.line, State.line, hk, hl]
      rw [State.hb_of_line lines, State.hb_of_no_line was, freshLine_clean, mem]
      rfl
    · rw [List.find?_cons_of_neg (by simp [hl])] at lines
      exact State.hb_congr_line (by rw [lines, State.line, hk]) mem
  · rw [if_neg hk] at lines
    exact State.hb_congr_line lines mem
theorem State.CachesOk.freshLine {s : State} (ok : s.CachesOk) (a w : Nat) :
    (s.updShelf (shelfOf a) (fun y => { y with cache := freshLine (lineOf a) w :: y.cache })).CachesOk :=
  ok.updShelf (fun l hl => by
    rcases List.mem_cons.1 hl with rfl | old
    · exact freshLine_whole a w
    · exact ok _ l old)

/-- Allocation leaves the state, takes a free way, or replaces a line. -/
theorem State.allocLine_cases (s : State) (p k l : Nat) : s.allocLine p k l = s ∨
    (∃ w, s.allocLine p k l = s.updShelf k (fun x => { x with cache := freshLine l w :: x.cache })) ∨
    ∃ v w, s.allocLine p k l = (s.evict k v).updShelf k (fun x => { x with cache := freshLine l w :: x.cache }) := by
  unfold State.allocLine
  dsimp only
  split
  · exact .inr (.inl ⟨_, rfl⟩)
  · split
    · exact .inl rfl
    · exact .inr (.inr ⟨_, _, rfl⟩)

/-- A request that looks for its line changes no byte that HBM shows. -/
theorem State.haveLine_hb {s : State} (ok : s.CachesOk) (p cls a : Nat) :
    (s.haveLine p cls a).CachesOk ∧ ∀ x, (s.haveLine p cls a).hb x = s.hb x := by
  unfold State.haveLine
  split
  · rename_i asks
    have absent : s.line a = none := by simp only [Bool.and_eq_true, Option.isNone_iff_eq_none] at asks; exact asks.2
    rcases s.allocLine_cases p (shelfOf a) (lineOf a) with e | ⟨w, e⟩ | ⟨v, w, e⟩ <;> rw [e]
    · exact ⟨ok, fun _ => rfl⟩
    · exact ⟨ok.freshLine a w, State.freshLine_hb absent⟩
    · have absent' : (s.evict (shelfOf a) v).line a = none := by rw [State.line_evict, absent, ite_self]
      exact ⟨(ok.evict _ _).freshLine a w, fun x => (State.freshLine_hb absent' x).trans (State.evict_hb ok _ _ x)⟩
  · exact ⟨ok, fun _ => rfl⟩

/-! ## A byte is written (R254, R255) -/

/-- A shelf that uses a line finds it changed, and every other line as it was. -/
theorem Shelf.find?_useLine (sh : Shelf) (l m : Nat) {f : CacheLine → CacheLine} (keeps : ∀ e, (f e).line = e.line) :
    (sh.useLine l f).cache.find? (fun e => e.line == m) =
      if m = l then (sh.cache.find? (fun e => e.line == m)).map f else sh.cache.find? (fun e => e.line == m) := by
  have mapped : (fun e : CacheLine => e.line == m) ∘ f = fun e => e.line == m := by funext e; simp [keeps]
  rw [Shelf.useLine, List.find?_append, List.find?_map, mapped, find?_filter_line, List.find?_filter]
  split
  · rename_i e
    simp [e, beq_eq_decide]
  · rename_i e
    have apart : sh.cache.find? (fun a => decide ((a.line == l) = true ∧ (a.line == m) = true)) = none :=
      List.find?_eq_none.2 (fun a _ => by simp; omega)
    rw [apart]
    rfl
theorem Shelf.useLine_whole {sh : Shelf} (whole : ∀ e ∈ sh.cache, e.Whole) (l : Nat) {f : CacheLine → CacheLine}
    (keeps : ∀ e : CacheLine, e.Whole → (f e).Whole) : ∀ e ∈ (sh.useLine l f).cache, e.Whole := by
  intro e he
  rcases List.mem_append.1 he with new | old
  · obtain ⟨e', h, rfl⟩ := List.mem_map.1 new
    exact keeps e' (whole e' (List.mem_of_mem_filter h))
  · exact whole e (List.mem_of_mem_filter old)

theorem State.CachesOk.putHb {s : State} (ok : s.CachesOk) (a : Nat) (b : Byte) : (s.putHb a b).CachesOk := by
  unfold State.putHb
  split
  · exact ok
  · exact ok.updShelf (Shelf.useLine_whole (ok _) _ (fun e h => h.merge _ b))

/-- A write at its home bank is what its byte reads, and leaves every other byte. -/
theorem State.putHb_hb {s : State} (ok : s.CachesOk) (a x : Nat) (b : Byte) : (s.putHb a b).hb x = if x = a then b else s.hb x := by
  cases found : s.line a with
  | none =>
    have put := State.putHb_of_no_line found b
    have lines : (s.putHb a b).line x = s.line x := by rw [put]; rfl
    split
    · rename_i e
      rw [State.hb_of_no_line (by rw [lines, e, found]), put, e]
      exact Mem.read_write_self _ _ _
    · rename_i e
      refine State.hb_congr lines ?_
      rw [put]
      exact Mem.read_write_other _ _ e
  | some v =>
    generalize put : s.putHb a b = t
    have put' : t = s.updShelf (shelfOf a) (fun sh => sh.useLine (lineOf a) (fun l => l.merge (a % 128) b)) := by
      rw [← put]; simp [State.putHb, found]
    have mem : t.hbm = s.hbm := by rw [put']; rfl
    have lines : t.line x = if shelfOf x = shelfOf a ∧ lineOf x = lineOf a then some (v.merge (a % 128) b) else s.line x := by
      rw [put', State.line_updShelf]
      by_cases hk : shelfOf x = shelfOf a
      · rw [if_pos hk, Shelf.find?_useLine _ _ _ (f := fun l => l.merge (a % 128) b) (fun _ => rfl)]
        by_cases hl : lineOf x = lineOf a
        · have was : (s.shelf (shelfOf a)).cache.find? (fun e => e.line == lineOf x) = some v := by rw [hl]; exact found
          rw [if_pos hl, if_pos ⟨hk, hl⟩, was]
          rfl
        · rw [if_neg hl, if_neg (fun h => hl h.2), State.line, hk]
      · rw [if_neg hk, if_neg (fun h => hk h.1)]
    by_cases same : shelfOf x = shelfOf a ∧ lineOf x = lineOf a
    · rw [if_pos same] at lines
      obtain ⟨hk, hl⟩ := same
      have was : s.line x = some v := by rw [← found, State.line, State.line, hk, hl]
      obtain ⟨-, -, dirty, bytes⟩ : v.Whole := ok _ v (List.mem_of_find?_eq_some found)
      have px := lineBase_add_mod x
      have pa := lineBase_add_mod a
      rw [hk, hl] at px
      rw [State.hb_of_line lines]
      have low : a % 128 < 128 := Nat.mod_lt _ (by omega)
      by_cases e : x = a
      · simp [e, CacheLine.merge, List.getD_eq_getElem?_getD, dirty, bytes, low]
      · have apart : a % 128 ≠ x % 128 := by omega
        rw [if_neg e, State.hb_of_line was, mem]
        simp [CacheLine.merge, List.getD_eq_getElem?_getD, List.getElem?_set_ne apart]
    · rw [if_neg same] at lines
      rw [if_neg (fun e => same ⟨by rw [e], by rw [e]⟩)]
      exact State.hb_congr_line lines mem

/-- A byte written by a request of any class: it reads as written, unless a fence discards it, and every other byte as before. -/
theorem State.storeByte_hb {s : State} (ok : s.CachesOk) (p cls a x : Nat) (b : Byte) :
    (s.storeByte p cls a b).hb x = if x = a ∧ s.isFenced a = false then b else s.hb x := by
  unfold State.storeByte
  obtain ⟨ok', same⟩ := State.haveLine_hb ok p cls a
  cases fenced : s.isFenced a with
  | true => simp
  | false => simp [State.putHb_hb ok', same]
theorem State.CachesOk.storeByte {s : State} (ok : s.CachesOk) (p cls a : Nat) (b : Byte) : (s.storeByte p cls a b).CachesOk := by
  unfold State.storeByte
  split
  · exact ok
  · exact (State.haveLine_hb ok p cls a).1.putHb a b

end Sys2Proof.Machine
end

section
namespace Sys2Proof.Machine

/-! ## Writes to memory: what they leave alone -/

/-- State `t` is state `s` after writes to memory: no core differs, no partition but for what writing leaves of it, no fence, and no byte that
HBM shows outside `A`. -/
structure State.Writes (s t : State) (A : Nat → Prop) : Prop where
  core : ∀ c, t.core c = s.core c
  parts : s.PartsLast t
  fence : ∀ k, (t.shelf k).pcFenced = (s.shelf k).pcFenced
  mem : s.CachesOk → t.CachesOk ∧ ∀ a, ¬ A a → t.hb a = s.hb a

theorem Partition.Lasts.geo {x y : Partition} (h : x.Lasts y) : y.geo = x.geo := by obtain ⟨_, _, _, _, rfl⟩ := h; rfl

section
variable {s t u : State} {A B : Nat → Prop}

theorem State.Writes.refl (s : State) (A : Nat → Prop) : s.Writes s A :=
  ⟨fun _ => rfl, .refl s, fun _ => rfl, fun ok => ⟨ok, fun _ _ => rfl⟩⟩
theorem State.Writes.mono (h : s.Writes t A) (le : ∀ a, A a → B a) : s.Writes t B :=
  ⟨h.core, h.parts, h.fence, fun ok => ⟨(h.mem ok).1, fun a out => (h.mem ok).2 a (fun inA => out (le a inA))⟩⟩
theorem State.Writes.trans (h : s.Writes t A) (g : t.Writes u A) : s.Writes u A where
  core c := (g.core c).trans (h.core c)
  parts := h.parts.trans g.parts
  fence k := (g.fence k).trans (h.fence k)
  mem ok := ⟨(g.mem (h.mem ok).1).1, fun a out => ((g.mem (h.mem ok).1).2 a out).trans ((h.mem ok).2 a out)⟩
/-- A change outside memory, of partitions only in what writing may change. -/
theorem State.Writes.of_parts (core : ∀ c, t.core c = s.core c) (parts : s.PartsLast t) (hbm : t.hbm = s.hbm) (shelves : t.shelves = s.shelves)
    (A : Nat → Prop) : s.Writes t A := by
  have shelf : ∀ k, t.shelf k = s.shelf k := fun k => by rw [State.shelf, State.shelf, shelves]
  refine ⟨core, parts, fun k => by rw [shelf], fun ok => ⟨fun k l hl => ok k l (by rwa [shelf] at hl), fun a _ => ?_⟩⟩
  exact State.hb_congr_line (by rw [State.line, State.line, shelf]) hbm

theorem State.Writes.geo (h : s.Writes t A) (p : Nat) : (t.part p).geo = (s.part p).geo := (h.parts p).geo
theorem State.Writes.image (h : s.Writes t A) (p : Nat) : (t.part p).image = (s.part p).image := (h.parts p).image
theorem State.Writes.within (h : s.Writes t A) (p x n : Nat) : t.Within p x n = s.Within p x n := by
  funext a
  rw [State.Within, State.Within, h.geo]
theorem State.Writes.noFence (h : s.Writes t A) (noFence : s.NoFence) : t.NoFence := fun k => (h.fence k).trans (noFence k)
theorem State.Writes.fixedAt (h : s.Writes t A) (p x : Nat) : t.fixedAt p x = s.fixedAt p x := by
  rw [State.fixedAt, State.fixedAt, h.image]

end

theorem State.Within.mono {s : State} {p x n y m a : Nat} (h : s.Within p x n a) (lo : y ≤ x) (hi : x + n ≤ y + m) : s.Within p y m a := by
  obtain ⟨i, below, at_⟩ := h
  exact ⟨x + i - y, by omega, by rwa [show y + (x + i - y) = x + i by omega]⟩

/-! ## One byte -/

theorem State.updShelf_fence {s : State} {k : Nat} {f : Shelf → Shelf} (keeps : ∀ x, (f x).pcFenced = x.pcFenced) (j : Nat) :
    ((s.updShelf k f).shelf j).pcFenced = (s.shelf j).pcFenced := by
  rw [State.shelf_updShelf]
  split
  · rename_i e; rw [keeps, e]
  · rfl
theorem State.evict_fence (s : State) (k l j : Nat) : ((s.evict k l).shelf j).pcFenced = (s.shelf j).pcFenced := by
  rw [State.shelf_evict]
  split
  · rename_i e; rw [e]
  · rfl
theorem State.haveLine_fence (s : State) (p cls a k : Nat) : ((s.haveLine p cls a).shelf k).pcFenced = (s.shelf k).pcFenced := by
  unfold State.haveLine
  split
  · rcases s.allocLine_cases p (shelfOf a) (lineOf a) with e | ⟨w, e⟩ | ⟨v, w, e⟩ <;> rw [e]
    · exact State.updShelf_fence (f := fun x => { x with cache := freshLine (lineOf a) w :: x.cache }) (fun _ => rfl) k
    · rw [State.updShelf_fence (f := fun x => { x with cache := freshLine (lineOf a) w :: x.cache }) (fun _ => rfl) k, State.evict_fence]
  · rfl
theorem State.putHb_fence (s : State) (a : Nat) (b : Byte) (k : Nat) : ((s.putHb a b).shelf k).pcFenced = (s.shelf k).pcFenced := by
  unfold State.putHb
  split
  · rfl
  · exact State.updShelf_fence (f := fun sh => sh.useLine (lineOf a) (fun l => l.merge (a % 128) b)) (fun _ => rfl) k

theorem State.storeByte_writes (s : State) (p cls a : Nat) (b : Byte) : s.Writes (s.storeByte p cls a b) (· = a) where
  core := (s.storeByte_spec p cls a b).1.core
  parts := s.storeByte_lasts p cls a b
  fence k := by
    unfold State.storeByte
    split
    · rfl
    · rw [State.putHb_fence, State.haveLine_fence]
  mem ok := ⟨ok.storeByte p cls a b, fun x out => by rw [State.storeByte_hb ok, if_neg (fun h => out h.1)]⟩
theorem State.calve_writes (s : State) (p x : Nat) (A : Nat → Prop) : s.Writes (s.calve p x) A :=
  .of_parts (fun c => by rw [State.calve_frame]; rfl) (s.calve_lasts p x) (by rw [State.calve_frame]) (by rw [State.calve_frame]) A
theorem State.report_writes (s : State) (p st d b : Nat) (u : UnitId) (A : Nat → Prop) : s.Writes (s.report p st d b u) A :=
  .of_parts (s := s) (t := s.report p st d b u) (fun _ => rfl) (s.report_lasts p st d b u) rfl rfl A

/-! ## A run of bytes -/

/-- The turn of one byte in a store: its granule is calved first where the write lifts protection (R98, R464). -/
def State.storeTurn (s : State) (p cls : Nat) (lift : Bool) (e : Nat × Byte) : State :=
  match interPhys (s.part p).geo e.1 with
  | some a => if s.fixedAt p e.1 then s else (if lift then s.calve p e.1 else s).storeByte p cls a e.2
  | none => s
theorem State.storeBytes_cons (s : State) (p cls : Nat) (lift : Bool) (e : Nat × Byte) (r : List (Nat × Byte)) :
    s.storeBytes p cls lift (e :: r) = (s.storeTurn p cls lift e).storeBytes p cls lift r := rfl

theorem State.calveIf_writes (s : State) (p x : Nat) (lift : Bool) (A : Nat → Prop) : s.Writes (if lift then s.calve p x else s) A := by
  split
  · exact s.calve_writes p x A
  · exact .refl s A
theorem State.storeTurn_writes (s : State) (p cls : Nat) (lift : Bool) (e : Nat × Byte) :
    s.Writes (s.storeTurn p cls lift e) (s.Within p e.1 1) := by
  unfold State.storeTurn
  split
  · rename_i a at_
    split
    · exact .refl s _
    · refine (s.calveIf_writes p e.1 lift _).trans ((State.storeByte_writes _ p cls a e.2).mono ?_)
      rintro _ rfl
      exact ⟨0, by omega, at_⟩
  · exact .refl s _
theorem State.storeTurn_hb {s : State} {p a : Nat} {e : Nat × Byte} (ok : s.CachesOk) (noFence : s.NoFence)
    (at_ : interPhys (s.part p).geo e.1 = some a) (free : s.fixedAt p e.1 = false) (cls : Nat) (lift : Bool) :
    (s.storeTurn p cls lift e).hb a = e.2 := by
  have turn : s.storeTurn p cls lift e = (if lift then s.calve p e.1 else s).storeByte p cls a e.2 := by simp [State.storeTurn, at_, free]
  have calved := s.calveIf_writes p e.1 lift (fun _ => False)
  have unfenced : (if lift then s.calve p e.1 else s).isFenced a = false := by
    rw [State.isFenced, calved.noFence noFence]
    simp [bit]
  rw [turn, State.storeByte_hb (calved.mem ok).1, if_pos ⟨rfl, unfenced⟩]

theorem State.storeBytes_writes (p cls : Nat) (lift : Bool) (bs : List Byte) :
    ∀ (s : State) (x : Nat), s.Writes (s.storeBytes p cls lift (placesFrom x bs)) (s.Within p x bs.length) := by
  induction bs with
  | nil => exact fun s x => .refl s _
  | cons b r ih =>
    intro s x
    rw [placesFrom, State.storeBytes_cons, List.length_cons]
    have turn := s.storeTurn_writes p cls lift (x, b)
    have rest := ih (s.storeTurn p cls lift (x, b)) (x + 1)
    rw [turn.within] at rest
    exact (turn.mono (fun _ h => h.mono (by omega) (by omega))).trans (rest.mono (fun _ h => h.mono (by omega) (by omega)))
theorem State.fenceReport_writes (s : State) (p beat : Nat) (xs : List Nat) (A : Nat → Prop) : s.Writes (s.fenceReport p beat xs) A := by
  unfold State.fenceReport
  split
  · exact .refl s A
  · exact s.report_writes _ _ _ _ _ A
/-- A write changes no byte outside its own range. -/
theorem State.storeAt_writes (s : State) (p cls : Nat) (lift : Bool) (x : Nat) (bs : List Byte) :
    s.Writes (s.storeAt p cls lift x bs) (s.Within p x bs.length) :=
  (State.storeBytes_writes p cls lift bs s x).trans (State.fenceReport_writes _ _ _ _ _)

/-! ## An address of HBM is that of one offset (R230, R231) -/

theorem le_of_nthBit {mask k f : Nat} : ∀ {j at_ : Nat}, nthBit mask j at_ f = some k → at_ ≤ k := by
  induction f with
  | zero => intro j at_ h; cases h
  | succ f ih =>
    intro j at_ h
    rw [nthBit] at h
    split at h
    · split at h
      · cases h; exact le_rfl
      · have := ih h; omega
    · have := ih h; omega
theorem nthBit_inj {mask k f : Nat} : ∀ {i j at_ : Nat}, nthBit mask i at_ f = some k → nthBit mask j at_ f = some k → i = j := by
  induction f with
  | zero => intro i j at_ h; cases h
  | succ f ih =>
    intro i j at_ hi hj
    rw [nthBit] at hi hj
    split at hi
    · rename_i set
      rw [if_pos set] at hj
      split at hi <;> split at hj
      · omega
      · cases hi
        have := le_of_nthBit hj
        omega
      · cases hj
        have := le_of_nthBit hi
        omega
      · have := ih hi hj
        omega
    · rename_i clear
      rw [if_neg clear] at hj
      exact ih hi hj

theorem interPhys_eq_some {g : Geometry} {x a : Nat} (h : interPhys g x = some a) :
    ∃ k, nthBit g.groups (x / 4096 % geoG g) 0 64 = some k ∧ x / 4096 / geoG g * 4096 + x % 4096 < Config.groupBytes ∧
      flat k (x / 4096 / geoG g * 4096 + x % 4096) = a := by
  unfold interPhys ordPhys at h
  split at h
  · cases h
  · split at h
    · rename_i inside
      obtain ⟨k, group, place⟩ := Option.map_eq_some_iff.1 h
      exact ⟨k, group, inside, place⟩
    · cases h
theorem interPhys_inj {g : Geometry} {x y a : Nat} (hx : interPhys g x = some a) (hy : interPhys g y = some a) : x = y := by
  obtain ⟨k, gx, ix, px⟩ := interPhys_eq_some hx
  obtain ⟨m, gy, iy, py⟩ := interPhys_eq_some hy
  unfold flat Config.groupBytes at *
  have group : k = m := by omega
  have row : x / 4096 / geoG g = y / 4096 / geoG g := by omega
  have column : x / 4096 % geoG g = y / 4096 % geoG g := nthBit_inj gx (group ▸ gy)
  have page : x / 4096 = y / 4096 := by rw [← Nat.div_add_mod (x / 4096) (geoG g), row, column, Nat.div_add_mod]
  omega

/-! ## What a write leaves to be read -/

theorem State.storeBytes_hb {p a : Nat} (cls : Nat) (lift : Bool) (bs : List Byte) : ∀ {s : State} {x i : Nat}, s.CachesOk → s.NoFence →
    (∀ j, j < bs.length → s.fixedAt p (x + j) = false) → i < bs.length → interPhys (s.part p).geo (x + i) = some a →
    (s.storeBytes p cls lift (placesFrom x bs)).hb a = bs.getD i 0 := by
  induction bs with
  | nil => intro s x i _ _ _ below; cases below
  | cons b r ih =>
    intro s x i ok noFence free below at_
    rw [List.length_cons] at free below
    have turn := s.storeTurn_writes p cls lift (x, b)
    rw [placesFrom, State.storeBytes_cons]
    cases i with
    | zero =>
      have own := State.storeTurn_hb (e := (x, b)) ok noFence at_ (free 0 (by omega)) cls lift
      have rest := State.storeBytes_writes p cls lift r (s.storeTurn p cls lift (x, b)) (x + 1)
      rw [turn.within] at rest
      refine ((rest.mem (turn.mem ok).1).2 a ?_).trans own
      rintro ⟨j, -, later⟩
      have := interPhys_inj at_ later
      omega
    | succ i =>
      rw [List.getD_cons_succ]
      refine ih (turn.mem ok).1 (turn.noFence noFence) (fun j hj => ?_) (by omega) ?_
      · rw [turn.fixedAt, show x + 1 + j = x + (j + 1) by omega]
        exact free (j + 1) (by omega)
      · rwa [turn.geo, show x + 1 + i = x + (i + 1) by omega]
/-- Where nothing is fenced and no field of the layer precision table is met, each byte of the partition reads as written. -/
theorem State.storeAt_hb {s : State} {p x i a : Nat} {bs : List Byte} (ok : s.CachesOk) (noFence : s.NoFence)
    (free : ∀ j, j < bs.length → s.fixedAt p (x + j) = false) (below : i < bs.length) (at_ : interPhys (s.part p).geo (x + i) = some a)
    (cls : Nat) (lift : Bool) : (s.storeAt p cls lift x bs).hb a = bs.getD i 0 := by
  have stored := State.storeBytes_hb cls lift bs ok noFence free below at_
  have ok' := ((State.storeBytes_writes p cls lift bs s x).mem ok).1
  unfold State.storeAt
  rw [((State.fenceReport_writes _ p _ _ (fun _ => False)).mem ok').2 a id, stored]

/-! ## Reading a run of bytes -/

theorem State.readX_succ (s : State) (g : Geometry) (x n : Nat) :
    s.readX g x (n + 1) = (interPhys g x).elim 0 s.hb :: s.readX g (x + 1) n := by
  rw [State.readX]
  cases interPhys g x <;> rfl
theorem State.length_readX (s : State) (g : Geometry) (n : Nat) : ∀ x, (s.readX g x n).length = n := by
  induction n with
  | zero => exact fun _ => rfl
  | succ n ih => intro x; rw [State.readX_succ, List.length_cons, ih]
theorem State.readX_congr {s t : State} (h : ∀ a, t.hb a = s.hb a) (g : Geometry) (n : Nat) : ∀ x, t.readX g x n = s.readX g x n := by
  induction n with
  | zero => exact fun _ => rfl
  | succ n ih => intro x; rw [State.readX_succ, State.readX_succ, ih, funext h]
theorem State.leX_congr {s t : State} (h : ∀ a, t.hb a = s.hb a) (g : Geometry) (x n : Nat) : t.leX g x n = s.leX g x n := by
  rw [State.leX, State.leX, State.readX_congr h]
/-- Bytes each of which reads as given are read as the run. -/
theorem State.readX_eq (s : State) (g : Geometry) (bs : List Byte) :
    ∀ x, (∀ i, i < bs.length → (interPhys g (x + i)).elim 0 s.hb = bs.getD i 0) → s.readX g x bs.length = bs := by
  induction bs with
  | nil => exact fun _ _ => rfl
  | cons b r ih =>
    intro x h
    rw [List.length_cons] at h ⊢
    rw [State.readX_succ, ih (x + 1) (fun i hi => ?_)]
    · exact congrArg (· :: r) (h 0 (by omega))
    · rw [show x + 1 + i = x + (i + 1) by omega]
      exact h (i + 1) (by omega)
theorem State.leX_lt (s : State) (g : Geometry) (x n : Nat) : s.leX g x n < 256 ^ n := by
  have := leNat_lt (s.readX g x n)
  rwa [State.length_readX] at this

end Sys2Proof.Machine
end

section
namespace Sys2Proof.Machine

/-! ## FP32 codes are 32 bits wide (R48, Table 12.2) -/

theorem toFloat_fp32_lt (rnd : Nat) (sat : Bool) (r : Nat) (v : Val) : (toFloat fp32 rnd sat r v).1 < 2 ^ 32 := by
  cases v with
  | nan => exact (by decide : 0x7FC00000 < 2 ^ 32)
  | inf neg => cases neg <;> cases sat <;> simp [toFloat, fp32]
  | fin neg n d e =>
    have sign : (if neg then 2 ^ (fp32.ew + fp32.mw) else 0) ≤ 2 ^ 31 := by cases neg <;> decide
    rw [toFloat, FloatFmt.encode]
    generalize (if neg then 2 ^ (fp32.ew + fp32.mw) else 0) = s at sign ⊢
    have top : fp32.maxCode = 0x7F7FFFFF := rfl
    dsimp only
    split
    · dsimp only; omega
    · split
      · dsimp only; omega
      · split
        · dsimp only; omega
        · have inf : s + 0x7F800000 < 2 ^ 32 := by omega
          exact inf
theorem witDev_lt (es : List WitElem) : witDev es < 2 ^ 32 := by
  unfold witDev
  split
  · decide
  · exact toFloat_fp32_lt _ _ _ _
theorem minMax_fp32_lt {a b : Nat} (ha : a < 2 ^ 32) (hb : b < 2 ^ 32) (isMax : Bool) : minMax isMax 0x00 a b < 2 ^ 32 := by
  rw [minMax, if_pos rfl]
  split
  · decide
  · split
    · exact hb
    · exact ha

/-! ## Merging into a layer's monitor (R97) -/

theorem State.noteShelf_writes (s : State) (k p e n : Nat) (A : Nat → Prop) : s.Writes (s.noteShelf k p e n) A where
  core _ := rfl
  parts := .of_parts rfl
  fence := State.updShelf_fence (f := fun x => { x with tally := addAt x.tally (e * 16 + p) n }) (fun _ => rfl)
  mem ok := by
    refine ⟨ok.updShelf (f := fun x => { x with tally := addAt x.tally (e * 16 + p) n }) (ok k), fun a _ => State.hb_congr_line ?_ rfl⟩
    rw [State.noteShelf, State.line_updShelf]
    split
    · rename_i e
      rw [State.line, e]
    · rfl

@[simp] theorem State.maxWord_zero (s : State) (p x : Nat) : s.maxWord p x 0 = s := rfl
/-- The word is stored, and the shelf's counter notes it. -/
theorem State.maxWord_stores (s : State) (p x : Nat) {v : Nat} (h : v ≠ 0) (A : Nat → Prop) :
    (s.storeX p x (leBytes 4 (minMax true 0x00 (s.leX (s.part p).geo x 4) v))).Writes (s.maxWord p x v) A := by
  rw [State.maxWord, if_neg h]
  dsimp only
  split
  · exact State.noteShelf_writes _ _ _ _ _ A
  · exact .refl _ A
theorem State.maxWord_writes (s : State) (p x v : Nat) : s.Writes (s.maxWord p x v) (s.Within p x 4) := by
  by_cases h : v = 0
  · rw [h, State.maxWord_zero]
    exact .refl s _
  · have stored := s.storeAt_writes p 1 true x (leBytes 4 (minMax true 0x00 (s.leX (s.part p).geo x 4) v))
    rw [length_leBytes] at stored
    exact stored.trans (s.maxWord_stores p x h _)
/-- A word that stands in memory reads as the merge of what it was with a value that is not 0. -/
theorem State.maxWord_leX {s : State} {p x v : Nat} (ok : s.CachesOk) (noFence : s.NoFence)
    (free : ∀ j, j < 4 → s.fixedAt p (x + j) = false) (inside : ∀ j, j < 4 → (interPhys (s.part p).geo (x + j)).isSome = true)
    (changes : v ≠ 0) (wide : v < 2 ^ 32) :
    (s.maxWord p x v).leX (s.part p).geo x 4 = minMax true 0x00 (s.leX (s.part p).geo x 4) v := by
  generalize merged : minMax true 0x00 (s.leX (s.part p).geo x 4) v = m
  have small : m < 256 ^ 4 := by rw [← merged]; exact minMax_fp32_lt (s.leX_lt _ x 4) wide true
  have len : (leBytes 4 m).length = 4 := length_leBytes 4 m
  have noted := s.maxWord_stores p x changes (fun _ => False)
  have ok' := ((s.storeAt_writes p 1 true x (leBytes 4 m)).mem ok).1
  rw [merged] at noted
  have same : ∀ a, (s.maxWord p x v).hb a = (s.storeX p x (leBytes 4 m)).hb a := fun a => (noted.mem ok').2 a id
  have bytes : (s.storeX p x (leBytes 4 m)).readX (s.part p).geo x 4 = leBytes 4 m := by
    have read := State.readX_eq (s.storeX p x (leBytes 4 m)) (s.part p).geo (leBytes 4 m) x (fun i hi => by
      rw [len] at hi
      obtain ⟨a, at_⟩ := Option.isSome_iff_exists.1 (inside i hi)
      rw [at_]
      exact State.storeAt_hb ok noFence (by rwa [len]) (by rwa [len]) at_ 1 true)
    rwa [len] at read
  rw [State.leX_congr same, State.leX, bytes, leNat_leBytes, Nat.mod_eq_of_lt small]

section
variable {s : State} {p : Nat} {im : Image}

theorem State.monitor_beyond (hi : (s.part p).image = some im) {l : Nat} (h : tpLayers im.bytes ≤ l) (sat carry dev : Nat) (ef : Bool) :
    s.monitor p l sat carry dev ef = s := by simp [State.monitor, hi, h]
theorem State.monitor_merges (hi : (s.part p).image = some im) {l : Nat} (h : l < tpLayers im.bytes) (sat carry dev : Nat) (ef : Bool) :
    s.monitor p l sat carry dev ef = (((s.maxWord p (im.monAt l) sat).maxWord p (im.monAt l + 4) carry).maxWord p (im.monAt l + 8) dev).maxWord
      p (im.monAt l + 12) (b2n ef) := by simp [State.monitor, hi, Nat.not_le.2 h]
/-- Merging changes the layer's record only. -/
theorem State.monitor_writes (hi : (s.part p).image = some im) (l sat carry dev : Nat) (ef : Bool) :
    s.Writes (s.monitor p l sat carry dev ef) (s.Within p (im.monAt l) 16) := by
  by_cases h : tpLayers im.bytes ≤ l
  · rw [State.monitor_beyond hi h]
    exact .refl s _
  · rw [State.monitor_merges hi (Nat.lt_of_not_le h)]
    have word : ∀ {t : State} (x v : Nat), s.Writes t (s.Within p (im.monAt l) 16) → im.monAt l ≤ x → x + 4 ≤ im.monAt l + 16 →
        s.Writes (t.maxWord p x v) (s.Within p (im.monAt l) 16) := fun {t} x v before lo hi => by
      have own := t.maxWord_writes p x v
      rw [before.within] at own
      exact before.trans (own.mono (fun a at_ => at_.mono lo hi))
    exact word _ _ (word _ _ (word _ _ (word _ _ (.refl s _) (by omega) (by omega)) (by omega) (by omega)) (by omega) (by omega)) (by omega)
      (by omega)
/-- No monitor record meets a field that nothing changes: the table before the records is of at most 1,024 layers. -/
theorem State.fixedAt_monitors (hi : (s.part p).image = some im) (few : tpLayers im.bytes ≤ 1024) {x : Nat} (h : im.monAt 0 ≤ x) :
    s.fixedAt p x = false := by
  have past : ¬ x < im.layerAt (tpLayers im.bytes) := by unfold Image.monAt at h; unfold Image.layerAt; omega
  simp [State.fixedAt, hi, past]
/-- A deviation merges into the record's DEV_MAX word. -/
theorem State.monitor_dev (hi : (s.part p).image = some im) {l dev : Nat} (ok : s.CachesOk) (noFence : s.NoFence)
    (few : tpLayers im.bytes ≤ 1024) (h : l < tpLayers im.bytes)
    (inside : ∀ i, i < 4 → (interPhys (s.part p).geo (im.monAt l + 8 + i)).isSome = true) (changes : dev ≠ 0) (wide : dev < 2 ^ 32) :
    (s.monitor p l 0 0 dev false).leX (s.part p).geo (im.monAt l + 8) 4 =
      minMax true 0x00 (s.leX (s.part p).geo (im.monAt l + 8) 4) dev := by
  have one : s.monitor p l 0 0 dev false = s.maxWord p (im.monAt l + 8) dev := by
    rw [State.monitor_merges hi h, State.maxWord_zero, State.maxWord_zero, b2n, if_neg Bool.false_ne_true, State.maxWord_zero]
  rw [one]
  refine State.maxWord_leX ok noFence (fun j _ => State.fixedAt_monitors hi few ?_) inside changes wide
  unfold Image.monAt
  omega

end

end Sys2Proof.Machine
end

section
namespace Sys2Proof.Machine

/-! ## The witness log (R94) -/

@[simp] theorem length_witEntry (w : Witness) (c : Nat) (e : WitElem) (failed : Bool) : (witEntry w c e failed).length = 32 := by
  simp [witEntry]

/-- State `t` is state `s` after a witness of core `c` was offered to the log of partition `p`: the core may count it lost, the partition an
entry more and reports, and HBM shows a change inside `A` only. -/
structure State.LogsWitness (s t : State) (c p : Nat) (A : Nat → Prop) : Prop where
  core : ∃ lost, t.core c = { s.core c with mu := { (s.core c).mu with lost := lost } }
  others : ∀ d, d ≠ c → t.core d = s.core d
  job : ∃ next more, (t.part p).job = { (s.part p).job with witNext := next, reports := (s.part p).job.reports ++ more }
  mem : s.CachesOk → ∀ a, ¬ A a → t.hb a = s.hb a

theorem State.LogsWitness.refl (s : State) (c p : Nat) (A : Nat → Prop) : s.LogsWitness s c p A :=
  ⟨⟨(s.core c).mu.lost, rfl⟩, fun _ _ => rfl, ⟨(s.part p).job.witNext, [], by simp⟩, fun _ _ _ => rfl⟩
theorem State.logWitness_logs (s : State) (p c : Nat) (im : Image) (bs : List Byte) :
    s.LogsWitness (s.logWitness p c im bs) c p (s.Within p (im.region 5 + 32 * (s.part p).job.witNext) bs.length) := by
  unfold State.logWitness
  split
  · have written := s.storeAt_writes p 1 false (im.region 5 + 32 * (s.part p).job.witNext) bs
    refine ⟨⟨(s.core c).mu.lost, written.core c⟩, fun d _ => written.core d, ?_, fun ok => (written.mem ok).2⟩
    obtain ⟨more, job⟩ := (written.parts p).job
    refine ⟨(s.part p).job.witNext + 1, more, ?_⟩
    rw [State.part_updJob_self, State.writeP, job]
  · exact ⟨⟨satAdd 255 (s.core c).mu.lost 1, State.core_updCore_self _ _ _⟩, fun d hd => State.core_updCore_other _ _ hd,
      ⟨(s.part p).job.witNext, [], by rw [List.append_nil]; rfl⟩, fun _ _ _ => rfl⟩

/-! ## WITNESS_REFERENCE (R92 to R95) -/

/-- The compared elements of a witness, and those of them that fail. -/
def Witness.elems (w : Witness) : List WitElem := w.ys.filterMap w.compare
def Witness.failing (w : Witness) : List WitElem := w.elems.filter (fun e => !e.pass)

/-- The head leaves core `c`'s queue: the rest stays. -/
def State.witnessPopped (s : State) (c : Nat) (rest : List Witness) : State :=
  s.updCore c (fun k => { k with mu := { k.mu with witq := rest } })
/-- Then the monitors merge its deviation. -/
def State.witnessMerged (s : State) (c p : Nat) (w : Witness) (rest : List Witness) : State :=
  (s.witnessPopped c rest).monitor p w.layer 0 0 (witDev w.elems) false
/-- Its worst element is logged where it fails or the image logs all. -/
def State.witnessLogged (s : State) (p c : Nat) (im : Image) (w : Witness) : State :=
  match witWorst w.elems with
  | some e => if !w.failing.isEmpty || Req.logAll im.req then s.logWitness p c im (witEntry w c e (!w.failing.isEmpty)) else s
  | none => s
/-- Each failing element counts and is reported, and the beat is marked. -/
def State.witnessFailed (s : State) (p c : Nat) (w : Witness) : State :=
  w.failing.foldl (fun s _ => s.report p Config.stWitnessFail 0 w.beat ⟨0, c⟩)
    ((s.updCore c (fun k => { k with mu := { k.mu with fails := satAdd 255 k.mu.fails w.failing.length } })).updJob p
      (fun j => { j with witFail := w.beat :: j.witFail }))

theorem Witness.failing_eq_nil (w : Witness) : w.failing = [] ↔ w.elems.all (·.pass) = true := by
  simp [Witness.failing, List.filter_eq_nil_iff, List.all_eq_true]

theorem exec_witnessReference {c p : Nat} {s : State} {im : Image} {w : Witness} {rest : List Witness} (hc : c < Config.cores)
    (hp : s.partOf c = some p) (hi : (s.part p).image = some im) (head : (s.core c).mu.witq = w :: rest) (served : s.memHeld p = false) :
    exec (.witnessReference c) s = .next (if w.failing.isEmpty then (s.witnessMerged c p w rest).witnessLogged p c im w
      else ((s.witnessMerged c p w rest).witnessLogged p c im w).witnessFailed p c w) := by
  have row : exec (.witnessReference c) s = execWitnessReference c s := rfl
  rw [row, execWitnessReference, if_neg (Nat.not_le.2 hc), head, hp]
  dsimp only
  rw [hi]
  dsimp only
  rw [served, if_neg Bool.false_ne_true]
  exact (apply_ite Host.Outcome.next _ _ _).symm

/-- Logging is no more than an entry for the log. -/
theorem State.witnessLogged_logs (s : State) (p c : Nat) (im : Image) (w : Witness) :
    s.LogsWitness (s.witnessLogged p c im w) c p (s.Within p (im.region 5 + 32 * (s.part p).job.witNext) 32) := by
  unfold State.witnessLogged
  split
  · rename_i e _
    split
    · have logs := s.logWitness_logs p c im (witEntry w c e (!w.failing.isEmpty))
      rwa [length_witEntry] at logs
    · exact .refl s c p _
  · exact .refl s c p _
/-- A witness that passes is not logged, unless the image logs all. -/
theorem State.witnessLogged_passes (s : State) (p c : Nat) {im : Image} {w : Witness} (passes : w.failing = [])
    (few : Req.logAll im.req = false) : s.witnessLogged p c im w = s := by
  unfold State.witnessLogged
  rw [passes, few]
  split
  · rfl
  · rfl

/-- Reports join the queue one after another. -/
theorem foldl_report_job {β : Type} (p st d b : Nat) (u : UnitId) (l : List β) (s : State) :
    ((l.foldl (fun s _ => s.report p st d b u) s).part p).job = { (s.part p).job with
      reports := (s.part p).job.reports ++ List.replicate l.length (st, d, b, u.kind * 65536 + u.num) } := by
  induction l generalizing s with
  | nil => simp
  | cons x r ih => simp [ih, State.report_part, List.replicate_succ]

section
variable (s : State) (p c : Nat) (w : Witness)

theorem State.witnessFailed_core (d : Nat) : (s.witnessFailed p c w).core d = if d = c then
    { s.core c with mu := { (s.core c).mu with fails := satAdd 255 (s.core c).mu.fails w.failing.length } } else s.core d := by
  rw [State.witnessFailed, foldl_keeps (fun t : State => t.core d) (fun _ _ => by rfl), State.updJob_core]
  exact State.core_setCore _ _ _ _
theorem State.witnessFailed_job : ((s.witnessFailed p c w).part p).job = { (s.part p).job with
    witFail := w.beat :: (s.part p).job.witFail,
    reports := (s.part p).job.reports ++ List.replicate w.failing.length (Config.stWitnessFail, 0, w.beat, c) } := by
  rw [State.witnessFailed, foldl_report_job, State.part_updJob_self]
  simp [State.updCore]
theorem State.witnessFailed_hb (a : Nat) : (s.witnessFailed p c w).hb a = s.hb a := by
  rw [State.witnessFailed, foldl_keeps (fun t : State => t.hb a) (fun _ _ => by rfl)]
  rfl

end

/-- In state `t` the head of core `c`'s queue has left state `s`: the queue is `rest`, no local memory and no other core differs, and HBM shows
a change inside `A` only. -/
structure State.TakesWitness (s t : State) (c : Nat) (rest : List Witness) (A : Nat → Prop) : Prop where
  queue : (t.core c).mu.witq = rest
  ts : (t.core c).ts = (s.core c).ts
  ob : (t.core c).ob = (s.core c).ob
  others : ∀ d, d ≠ c → t.core d = s.core d
  mem : s.CachesOk → ∀ a, ¬ A a → t.hb a = s.hb a

section
variable {s : State} {c p : Nat} {im : Image} {w : Witness} {rest : List Witness}

/-- Places of the layer's monitor record and of the next log entry. -/
def State.witnessPlaces (s : State) (p : Nat) (im : Image) (w : Witness) (a : Nat) : Prop :=
  s.Within p (im.monAt w.layer) 16 a ∨ s.Within p (im.region 5 + 32 * (s.part p).job.witNext) 32 a

theorem State.witnessMerged_writes (hi : (s.part p).image = some im) :
    (s.witnessPopped c rest).Writes (s.witnessMerged c p w rest) (s.Within p (im.monAt w.layer) 16) :=
  State.monitor_writes (s := s.witnessPopped c rest) hi w.layer 0 0 _ false
theorem State.witnessMerged_core (hi : (s.part p).image = some im) (d : Nat) : (s.witnessMerged c p w rest).core d =
    if d = c then { s.core c with mu := { (s.core c).mu with witq := rest } } else s.core d :=
  ((State.witnessMerged_writes hi).core d).trans (State.core_setCore _ _ _ _)
theorem State.witnessMerged_job (hi : (s.part p).image = some im) :
    ∃ more, ((s.witnessMerged c p w rest).part p).job = { (s.part p).job with reports := (s.part p).job.reports ++ more } :=
  ((State.witnessMerged_writes hi).parts p).job

/-- Merged and logged, the witness has left. -/
theorem State.witnessLogged_takes (hi : (s.part p).image = some im) :
    s.TakesWitness ((s.witnessMerged c p w rest).witnessLogged p c im w) c rest (s.witnessPlaces p im w) := by
  have merged := State.witnessMerged_writes (c := c) (w := w) (rest := rest) hi
  obtain ⟨more, job⟩ := State.witnessMerged_job (c := c) (w := w) (rest := rest) hi
  obtain ⟨⟨lost, core⟩, others, -, mem⟩ := (s.witnessMerged c p w rest).witnessLogged_logs p c im w
  rw [merged.within, job] at mem
  rw [State.witnessMerged_core hi, if_pos rfl] at core
  refine ⟨by rw [core], by rw [core], by rw [core], fun d hd => ?_, fun ok a out => ?_⟩
  · rw [others d hd, State.witnessMerged_core hi, if_neg hd]
  · obtain ⟨ok', same⟩ := merged.mem ok
    exact (mem ok' a (fun h => out (.inr h))).trans (same a (fun h => out (.inl h)))
theorem State.TakesWitness.failed {t : State} {A : Nat → Prop} (h : s.TakesWitness t c rest A) (p : Nat) (w : Witness) :
    s.TakesWitness (t.witnessFailed p c w) c rest A := by
  have core := t.witnessFailed_core p c w c
  rw [if_pos rfl] at core
  refine ⟨by rw [core]; exact h.queue, by rw [core]; exact h.ts, by rw [core]; exact h.ob, fun d hd => ?_, fun ok a out => ?_⟩
  · rw [State.witnessFailed_core, if_neg hd, h.others d hd]
  · rw [State.witnessFailed_hb, h.mem ok a out]

/-- Merged and logged, no failure has been counted. -/
theorem State.witnessLogged_counts (hi : (s.part p).image = some im) :
    (((s.witnessMerged c p w rest).witnessLogged p c im w).core c).mu.fails = (s.core c).mu.fails ∧
      (((s.witnessMerged c p w rest).witnessLogged p c im w).part p).job.witFail = (s.part p).job.witFail ∧
      ∃ mid, (((s.witnessMerged c p w rest).witnessLogged p c im w).part p).job.reports = (s.part p).job.reports ++ mid := by
  obtain ⟨more, merged⟩ := State.witnessMerged_job (c := c) (w := w) (rest := rest) hi
  obtain ⟨⟨lost, core⟩, -, ⟨next, late, job⟩, -⟩ := (s.witnessMerged c p w rest).witnessLogged_logs p c im w
  rw [State.witnessMerged_core hi, if_pos rfl] at core
  rw [merged] at job
  exact ⟨by rw [core], by rw [job], more ++ late, by rw [job, List.append_assoc]⟩

/-- The record's DEV_MAX word after a merge. -/
theorem State.witnessMerged_dev (hi : (s.part p).image = some im) (ok : s.CachesOk) (noFence : s.NoFence) (few : tpLayers im.bytes ≤ 1024)
    (layer : w.layer < tpLayers im.bytes) (inside : ∀ i, i < 4 → (interPhys (s.part p).geo (im.monAt w.layer + 8 + i)).isSome = true)
    (changes : witDev w.elems ≠ 0) : (s.witnessMerged c p w rest).leX (s.part p).geo (im.monAt w.layer + 8) 4 =
      minMax true 0x00 (s.leX (s.part p).geo (im.monAt w.layer + 8) 4) (witDev w.elems) :=
  (State.monitor_dev (s := s.witnessPopped c rest) hi ok noFence few layer inside changes (witDev_lt _)).trans
    (congrArg (minMax true 0x00 · (witDev w.elems)) (State.leX_congr (fun _ => rfl) _ _ _))

end

/-- Settles O17: the head leaves and the monitors merge it; a witness that passes is at most logged, one that fails is counted and reported. -/
theorem witnessReferenceCompletes : Obligations.WitnessReferenceCompletes := by
  unfold Obligations.WitnessReferenceCompletes
  intro c p s im w rest hc hp hi head served
  have row := exec_witnessReference hc hp hi head served
  have taken := State.witnessLogged_takes (c := c) (w := w) (rest := rest) hi
  obtain ⟨fails, witFail, mid, reports⟩ := State.witnessLogged_counts (c := c) (w := w) (rest := rest) hi
  cases all : w.elems.all (·.pass) with
  | true =>
    have passing := w.failing_eq_nil.2 all
    rw [passing] at row
    obtain ⟨queue, ts, ob, others, mem⟩ := taken
    refine ⟨_, row, queue, ts, ob, others, fun ok a mon log => mem ok a (by rintro (h | h); exacts [mon h, log h]), ?_, ?_, ?_, ?_⟩
    · exact fun _ few => State.witnessLogged_passes _ p c passing few
    · exact fun _ => ⟨fails, witFail⟩
    · intro _ few ok noFence layers layer inside changes
      rw [State.witnessLogged_passes _ p c passing few]
      exact State.witnessMerged_dev hi ok noFence layers layer inside changes
    · exact fun fails => absurd (all.symm.trans fails) (by decide)
  | false =>
    have failing : w.failing ≠ [] := fun h => by rw [w.failing_eq_nil.1 h] at all; cases all
    rw [if_neg (by simpa using failing)] at row
    obtain ⟨queue, ts, ob, others, mem⟩ := taken.failed p w
    refine ⟨_, row, queue, ts, ob, others, fun ok a mon log => mem ok a (by rintro (h | h); exacts [mon h, log h]), ?_, ?_, ?_, ?_⟩
    · exact fun passes => absurd (all.symm.trans passes) (by decide)
    · exact fun passes => absurd (all.symm.trans passes) (by decide)
    · exact fun passes => absurd (all.symm.trans passes) (by decide)
    · intro _
      rw [State.witnessFailed_core, if_pos rfl, State.witnessFailed_job, fails, witFail, reports]
      exact ⟨rfl, rfl, mid, rfl⟩

end Sys2Proof.Machine
end

section
namespace Sys2Proof.Machine

/-! ## One layer of the allocation (R102, R247) -/

/-- A layer's STATE in the layer precision table, as the allocation reads it. -/
def Alloc.layerSt (a : Alloc) (p : Nat) (im : Image) (l : Nat) : Nat := bits (a.s.leX (a.s.part p).geo (im.layerAt l) 1) 1 0
/-- Whether nothing was deferred before the layer and its needs fit the reserve. -/
def Alloc.fits (a : Alloc) (im : Image) (l : Nat) : Bool :=
  !a.stopped && decide (im.needTs l * 256 ≤ a.ts ∧ im.needHbm l * 65536 ≤ a.hbm)
/-- Whether a layer needs nothing. -/
def Image.needsNone (im : Image) (l : Nat) : Bool := decide (im.needTs l = 0 ∧ im.needHbm l = 0)

/-- The stores of a layer's STATE and REQ, of its WIDEN_PASS, and of its grant. -/
def State.putLayer (s : State) (p : Nat) (im : Image) (l st : Nat) (req : Bool) : State :=
  s.storeX p (im.layerAt l) (leBytes 4 (st + 4 * b2n req))
def State.putPass (s : State) (p : Nat) (im : Image) (l pass : Nat) : State := s.storeX p (im.layerAt l + 4) (leBytes 4 pass)
def State.putGrant (s : State) (p : Nat) (im : Image) (l ts hbm : Nat) : State :=
  s.storeX p (im.grantAt l) (leBytes 4 (256 * im.widenTs - ts) ++ leBytes 4 (im.widenHbm - hbm / 65536))

section
variable {p l : Nat} {im : Image} {req : Bool} {a : Alloc} (pass : Nat)

/-- A layer that does not request, or is not narrow, keeps its STATE. -/
theorem allocLayer_idle (h : req = false ∨ a.layerSt p im l ≠ 0) :
    allocLayer p im pass req l a = { a with s := a.s.putLayer p im l (a.layerSt p im l) req } := by
  have idle : (!req || a.layerSt p im l != 0) = true := by simpa using h
  exact if_pos idle
/-- A narrow layer that requests is granted its needs where they fit. -/
theorem allocLayer_grants (asks : req = true) (narrow : a.layerSt p im l = 0) (h : a.fits im l = true ∨ im.needsNone l = true) :
    allocLayer p im pass req l a = { a with ts := a.ts - im.needTs l * 256, hbm := a.hbm - im.needHbm l * 65536,
                                            s := ((a.s.putLayer p im l 1 req).putPass p im l pass).putGrant p im l a.ts a.hbm } := by
  have busy : ¬ (!req || a.layerSt p im l != 0) = true := by simp [asks, narrow]
  refine (if_neg busy).trans ?_
  by_cases free : im.needTs l * 256 = 0 ∧ im.needHbm l * 65536 = 0
  · obtain ⟨ts, hbm⟩ := free
    dsimp only
    rw [if_pos (by simp [ts, hbm]), ts, hbm]
    rfl
  · have fit : (!a.stopped && im.needTs l * 256 ≤ a.ts && im.needHbm l * 65536 ≤ a.hbm) = true := by
      rcases h with h | h
      · simpa [Alloc.fits, and_assoc] using h
      · simp only [Image.needsNone, decide_eq_true_eq] at h
        omega
    dsimp only
    rw [if_neg (by simpa using free), if_pos (by simpa using fit)]
    rfl
/-- Else it is deferred, and every later layer with needs. -/
theorem allocLayer_defers (asks : req = true) (narrow : a.layerSt p im l = 0) (full : a.fits im l = false) (needs : im.needsNone l = false) :
    allocLayer p im pass req l a =
      { a with stopped := true, s := (a.s.putLayer p im l 2 req).putPass p im l pass } := by
  have busy : ¬ (!req || a.layerSt p im l != 0) = true := by simp [asks, narrow]
  refine (if_neg busy).trans ?_
  simp only [Image.needsNone, decide_eq_false_iff_not] at needs
  dsimp only
  rw [if_neg (by simp; omega), if_neg (by simpa [Alloc.fits, and_assoc] using full)]
  rfl

end

/-- Places of the layer precision table and of the grant table that the allocation of a layer may write. -/
def State.layerPlaces (s : State) (p : Nat) (im : Image) (l a : Nat) : Prop := s.Within p (im.layerAt l) 8 a ∨ s.Within p (im.grantAt l) 8 a

/-- From `a` to `b` the reserve has not grown, and nothing but HBM inside `A` was written. -/
structure Alloc.Leads (a b : Alloc) (A : Nat → Prop) : Prop where
  ts : b.ts ≤ a.ts
  hbm : b.hbm ≤ a.hbm
  writes : a.s.Writes b.s A

theorem Alloc.Leads.trans {a b c : Alloc} {A : Nat → Prop} (h : a.Leads b A) (g : b.Leads c A) : a.Leads c A :=
  ⟨g.ts.trans h.ts, g.hbm.trans h.hbm, h.writes.trans g.writes⟩

section
variable (s : State) (p : Nat) (im : Image) (l : Nat)

theorem State.putLayer_writes (st : Nat) (req : Bool) : s.Writes (s.putLayer p im l st req) (s.layerPlaces p im l) := by
  have written := s.storeAt_writes p 1 true (im.layerAt l) (leBytes 4 (st + 4 * b2n req))
  rw [length_leBytes] at written
  exact written.mono (fun _ h => .inl (h.mono (by omega) (by omega)))
theorem State.putPass_writes (pass : Nat) : s.Writes (s.putPass p im l pass) (s.layerPlaces p im l) := by
  have written := s.storeAt_writes p 1 true (im.layerAt l + 4) (leBytes 4 pass)
  rw [length_leBytes] at written
  exact written.mono (fun _ h => .inl (h.mono (by omega) (by omega)))
theorem State.putGrant_writes (ts hbm : Nat) : s.Writes (s.putGrant p im l ts hbm) (s.layerPlaces p im l) := by
  have written := s.storeAt_writes p 1 true (im.grantAt l) (leBytes 4 (256 * im.widenTs - ts) ++ leBytes 4 (im.widenHbm - hbm / 65536))
  rw [List.length_append, length_leBytes, length_leBytes] at written
  exact written.mono (fun _ h => .inr h)

end

theorem State.Writes.layerPlaces {s t : State} {A : Nat → Prop} (h : s.Writes t A) (p : Nat) (im : Image) (l : Nat) :
    t.layerPlaces p im l = s.layerPlaces p im l := by
  funext a
  rw [State.layerPlaces, State.layerPlaces, h.within, h.within]

/-- The allocation of a layer takes from the reserve, and writes the layer's own entries. -/
theorem allocLayer_leads (p : Nat) (im : Image) (pass : Nat) (req : Bool) (l : Nat) (a : Alloc) :
    a.Leads (allocLayer p im pass req l a) (a.s.layerPlaces p im l) := by
  have put := fun st => a.s.putLayer_writes p im l st req
  have passed : ∀ st, a.s.Writes ((a.s.putLayer p im l st req).putPass p im l pass) (a.s.layerPlaces p im l) := fun st => by
    have after := (a.s.putLayer p im l st req).putPass_writes p im l pass
    rw [(put st).layerPlaces] at after
    exact (put st).trans after
  by_cases idle : req = false ∨ a.layerSt p im l ≠ 0
  · rw [allocLayer_idle pass idle]
    exact ⟨le_rfl, le_rfl, put _⟩
  · rw [not_or, Bool.not_eq_false, not_not] at idle
    obtain ⟨asks, narrow⟩ := idle
    by_cases fit : a.fits im l = true ∨ im.needsNone l = true
    · rw [allocLayer_grants pass asks narrow fit]
      have grant := ((a.s.putLayer p im l 1 req).putPass p im l pass).putGrant_writes p im l a.ts a.hbm
      rw [(passed 1).layerPlaces] at grant
      exact ⟨Nat.sub_le _ _, Nat.sub_le _ _, (passed 1).trans grant⟩
    · rw [not_or, Bool.not_eq_true, Bool.not_eq_true] at fit
      rw [allocLayer_defers pass asks narrow fit.1 fit.2]
      exact ⟨le_rfl, le_rfl, passed 2⟩

/-! ## All layers, in order (R100 to R102) -/

/-- The allocation of the layers of a list, in order. -/
def allocLayers (p : Nat) (im : Image) (pass : Nat) (want : Nat → Bool) (ls : List Nat) (a : Alloc) : Alloc :=
  ls.foldl (fun a l => allocLayer p im pass (want l) l a) a

section
variable {p : Nat} {im : Image} (pass : Nat) {want : Nat → Bool}

theorem allocLayers_leads (ls : List Nat) (a : Alloc) :
    a.Leads (allocLayers p im pass want ls a) (fun x => ∃ l, l ∈ ls ∧ a.s.layerPlaces p im l x) := by
  induction ls generalizing a with
  | nil => exact ⟨le_rfl, le_rfl, .refl _ _⟩
  | cons l r ih =>
    have one := allocLayer_leads p im pass (want l) l a
    obtain ⟨ts, hbm, writes⟩ := ih (allocLayer p im pass (want l) l a)
    refine (Alloc.Leads.mk one.ts one.hbm (one.writes.mono (fun x h => ⟨l, List.mem_cons_self .., h⟩))).trans
      ⟨ts, hbm, writes.mono ?_⟩
    rintro x ⟨m, later, h⟩
    exact ⟨m, List.mem_cons_of_mem l later, by rwa [one.writes.layerPlaces] at h⟩
/-- Where no layer requests widening the reserve stays, and nothing is deferred. -/
theorem allocLayers_idle {ls : List Nat} (quiet : ∀ l ∈ ls, want l = false) (a : Alloc) :
    (allocLayers p im pass want ls a).ts = a.ts ∧ (allocLayers p im pass want ls a).hbm = a.hbm ∧
      (allocLayers p im pass want ls a).stopped = a.stopped := by
  have kept := foldl_keeps_mem (fun a : Alloc => (a.ts, a.hbm, a.stopped)) (f := fun a l => allocLayer p im pass (want l) l a) (l := ls)
    (fun a l hl => by rw [allocLayer_idle pass (.inl (quiet l hl))]) a
  simpa [allocLayers] using kept

end

/-! ## The cleared monitors (R259) -/

section
variable {s : State} {p : Nat} {im : Image}

theorem State.monOf_congr {t : State} (bytes : ∀ a, t.hb a = s.hb a) (part : t.part p = s.part p) (im : Image) (l : Nat) :
    t.monOf p im l = s.monOf p im l := by
  unfold State.monOf
  simp only [part, State.leX_congr bytes]
theorem State.clearMonitors_writes (s : State) (p : Nat) (im : Image) :
    s.Writes (s.clearMonitors p im) (fun a => ∃ l, l < tpLayers im.bytes ∧ s.Within p (im.monAt l) 16 a) := by
  have written := s.storeAt_writes p 1 false (im.monAt 0) (List.replicate (16 * tpLayers im.bytes) 0)
  rw [List.length_replicate] at written
  refine written.mono ?_
  rintro a ⟨i, below, at_⟩
  refine ⟨i / 16, by omega, i % 16, Nat.mod_lt _ (by omega), ?_⟩
  have place : im.monAt (i / 16) + i % 16 = im.monAt 0 + i := by unfold Image.monAt; omega
  rwa [place]
/-- Every word of a layer's record reads 0, wherever it stands. -/
theorem State.clearMonitors_leX (hi : (s.part p).image = some im) (ok : s.CachesOk) (noFence : s.NoFence) (few : tpLayers im.bytes ≤ 1024)
    {l i : Nat} (hl : l < tpLayers im.bytes) (hw : i < 4) : (s.clearMonitors p im).leX (s.part p).geo (im.monAt l + 4 * i) 4 = 0 := by
  have zeros : (s.clearMonitors p im).readX (s.part p).geo (im.monAt l + 4 * i) 4 = List.replicate 4 0 := by
    refine State.readX_eq _ _ (List.replicate 4 0) _ (fun j hj => ?_)
    rw [List.length_replicate] at hj
    rw [List.getD_replicate _ hj]
    cases at_ : interPhys (s.part p).geo (im.monAt l + 4 * i + j) with
    | none => rfl
    | some a =>
      have place : im.monAt l + 4 * i + j = im.monAt 0 + (16 * l + 4 * i + j) := by unfold Image.monAt; omega
      have inside : 16 * l + 4 * i + j < 16 * tpLayers im.bytes := by omega
      have stored := State.storeAt_hb (bs := List.replicate (16 * tpLayers im.bytes) 0) ok noFence
        (fun j _ => State.fixedAt_monitors hi few (Nat.le_add_right _ j)) (by rwa [List.length_replicate]) (place ▸ at_) 1 false
      rwa [List.getD_replicate _ inside] at stored
  rw [State.leX, zeros]
  rfl
theorem State.clearMonitors_monOf (hi : (s.part p).image = some im) (ok : s.CachesOk) (noFence : s.NoFence) (few : tpLayers im.bytes ≤ 1024)
    {l : Nat} (hl : l < tpLayers im.bytes) : (s.clearMonitors p im).monOf p im l = {} := by
  have word := fun i (hw : i < 4) => State.clearMonitors_leX hi ok noFence few (i := i) hl hw
  unfold State.monOf
  rw [(s.clearMonitors_writes p im).geo]
  dsimp only
  rw [word 0 (by omega), word 1 (by omega), word 2 (by omega), word 3 (by omega)]
  rfl

end

/-! ## WIDEN_ALLOCATE (R97 to R102) -/

/-- Whether the vote has to wait: for the partition's memory, or for a core that has a witness to check. -/
def State.voteWaits (s : State) (p : Nat) : Bool := s.memHeld p || (s.imageCores p).any (fun c => (s.core c).witPending)
/-- The allocation that the vote comes to. -/
def State.voteAlloc (s : State) (p pass : Nat) (req : List Byte) (im : Image) : Alloc :=
  allocLayers p im (pass % 2 ^ 32) (fun l => req.getD l 0 == 1 || (s.ownRequests p im).getD l false) (List.range (tpLayers im.bytes))
    ⟨(s.part p).job.leftTs, (s.part p).job.leftHbm, false, s⟩
/-- The vote counts as applied, with what the allocation left. -/
def Alloc.applied (a : Alloc) (p : Nat) : State :=
  a.s.updJob p (fun j => { j with leftTs := a.ts, leftHbm := a.hbm, votes := j.votes + 1, widenDeferred := j.widenDeferred || a.stopped })

section
variable {s : State} {p : Nat} {im : Image}

theorem exec_widenAllocate (pass : Nat) (req : List Byte) (hp : p < 16) (hi : (s.part p).image = some im) :
    exec (.widenAllocate p pass req) s = if s.voteWaits p then .next s
      else .next (((s.voteAlloc p pass req im).applied p).clearMonitors p im).answer := by
  have row : exec (.widenAllocate p pass req) s = execWidenAllocate p pass req s := rfl
  rw [row, execWidenAllocate, if_neg (by omega), hi]
  rfl

/-- The allocation writes the layers' entries, and takes from the reserve that was left. -/
theorem State.voteAlloc_leads (s : State) (p pass : Nat) (req : List Byte) (im : Image) :
    (s.voteAlloc p pass req im).ts ≤ (s.part p).job.leftTs ∧ (s.voteAlloc p pass req im).hbm ≤ (s.part p).job.leftHbm ∧
      s.Writes (s.voteAlloc p pass req im).s (fun a => ∃ l, l < tpLayers im.bytes ∧ s.layerPlaces p im l a) := by
  obtain ⟨ts, hbm, writes⟩ := allocLayers_leads (p := p) (im := im) (pass % 2 ^ 32)
    (want := fun l => req.getD l 0 == 1 || (s.ownRequests p im).getD l false) (List.range (tpLayers im.bytes))
    ⟨(s.part p).job.leftTs, (s.part p).job.leftHbm, false, s⟩
  exact ⟨ts, hbm, writes.mono (fun a ⟨l, listed, h⟩ => ⟨l, List.mem_range.1 listed, h⟩)⟩
theorem State.voteAlloc_idle {pass : Nat} {req : List Byte}
    (quiet : ∀ l, l < tpLayers im.bytes → req.getD l 0 ≠ 1 ∧ (s.ownRequests p im).getD l false = false) :
    (s.voteAlloc p pass req im).ts = (s.part p).job.leftTs ∧ (s.voteAlloc p pass req im).hbm = (s.part p).job.leftHbm ∧
      (s.voteAlloc p pass req im).stopped = false := by
  refine allocLayers_idle (pass % 2 ^ 32) (fun l hl => ?_) _
  obtain ⟨others, own⟩ := quiet l (List.mem_range.1 hl)
  rw [own, Bool.or_false]
  exact beq_false_of_ne others

/-- What the vote leaves of the partition's job. -/
theorem State.vote_job (s : State) (p pass : Nat) (req : List Byte) (im : Image) :
    ∃ more, (((((s.voteAlloc p pass req im).applied p).clearMonitors p im).answer).part p).job = { (s.part p).job with
      leftTs := (s.voteAlloc p pass req im).ts, leftHbm := (s.voteAlloc p pass req im).hbm, votes := (s.part p).job.votes + 1,
      widenDeferred := (s.part p).job.widenDeferred || (s.voteAlloc p pass req im).stopped,
      reports := (s.part p).job.reports ++ more } := by
  obtain ⟨-, -, writes⟩ := s.voteAlloc_leads p pass req im
  obtain ⟨early, allocated⟩ := (writes.parts p).job
  obtain ⟨late, cleared⟩ := ((((s.voteAlloc p pass req im).applied p).clearMonitors_writes p im).parts p).job
  refine ⟨early ++ late, cleared.trans ?_⟩
  rw [Alloc.applied, State.part_updJob_self, allocated, ← List.append_assoc]
theorem State.vote_core (s : State) (p pass : Nat) (req : List Byte) (im : Image) (c : Nat) :
    ((((s.voteAlloc p pass req im).applied p).clearMonitors p im).answer).core c = s.core c :=
  ((((s.voteAlloc p pass req im).applied p).clearMonitors_writes p im).core c).trans ((s.voteAlloc_leads p pass req im).2.2.core c)
theorem State.vote_monOf (hi : (s.part p).image = some im) (pass : Nat) (req : List Byte) (ok : s.CachesOk) (noFence : s.NoFence)
    (few : tpLayers im.bytes ≤ 1024) {l : Nat} (hl : l < tpLayers im.bytes) :
    ((((s.voteAlloc p pass req im).applied p).clearMonitors p im).answer).monOf p im l = {} := by
  obtain ⟨-, -, writes⟩ := s.voteAlloc_leads p pass req im
  have image : (((s.voteAlloc p pass req im).applied p).part p).image = some im := by
    rw [Alloc.applied, State.part_updJob_self, writes.image, hi]
  have cleared := State.clearMonitors_monOf image (writes.mem ok).1 (writes.noFence noFence) few hl
  exact (State.monOf_congr (fun _ => rfl) rfl im l).trans cleared
theorem State.vote_hb (pass : Nat) (req : List Byte) (ok : s.CachesOk) {a : Nat}
    (out : ∀ l, l < tpLayers im.bytes → ¬ s.Within p (im.layerAt l) 8 a ∧ ¬ s.Within p (im.grantAt l) 8 a ∧ ¬ s.Within p (im.monAt l) 16 a) :
    ((((s.voteAlloc p pass req im).applied p).clearMonitors p im).answer).hb a = s.hb a := by
  obtain ⟨-, -, writes⟩ := s.voteAlloc_leads p pass req im
  obtain ⟨ok', same⟩ := writes.mem ok
  have geo : (((s.voteAlloc p pass req im).applied p).part p).geo = (s.part p).geo := by
    rw [Alloc.applied, State.part_updJob_self, writes.geo]
  have cleared := ((((s.voteAlloc p pass req im).applied p).clearMonitors_writes p im).mem ok').2 a
  refine (cleared ?_).trans (same a ?_)
  · rintro ⟨l, hl, mon⟩
    rw [State.Within, geo] at mon
    exact (out l hl).2.2 mon
  · rintro ⟨l, hl, layer | grant⟩
    · exact (out l hl).1 layer
    · exact (out l hl).2.1 grant

end

/-- Settles O27: the vote is the allocation of its layers one after another, each of which writes its own entries, and a clearing of the
monitors. -/
theorem widenAllocateCompletes : Obligations.WidenAllocateCompletes := by
  unfold Obligations.WidenAllocateCompletes
  refine ⟨?vote, ?layer⟩
  case vote =>
    intro p pass req s im hp hi
    have row := exec_widenAllocate pass req hp hi
    refine ⟨fun waits => row.trans (if_pos waits), fun goes => ?_⟩
    rw [if_neg (by rw [State.voteWaits, goes]; exact Bool.false_ne_true)] at row
    obtain ⟨ts, hbm, -⟩ := s.voteAlloc_leads p pass req im
    obtain ⟨more, job⟩ := s.vote_job p pass req im
    refine ⟨_, row, by rw [job], by rw [job]; exact ts, by rw [job]; exact hbm, s.vote_core p pass req im, fun quiet => ?_,
      fun ok noFence few l hl => State.vote_monOf hi pass req ok noFence few hl, fun ok a out => State.vote_hb pass req ok out⟩
    obtain ⟨ts, hbm, deferred⟩ := State.voteAlloc_idle (pass := pass) quiet
    rw [job, deferred, Bool.or_false]
    exact ⟨ts, hbm, rfl⟩
  case layer =>
    intro p pass l im req a
    refine ⟨fun asks narrow fits => ?_, fun asks narrow full => ?_, fun idle => ?_⟩
    · rw [allocLayer_grants pass asks narrow (.inl fits)]
      exact ⟨rfl, rfl, rfl⟩
    · cases needs : im.needsNone l with
      | true =>
        have nothing : im.needTs l = 0 ∧ im.needHbm l = 0 := by simpa [Image.needsNone] using needs
        rw [allocLayer_grants pass asks narrow (.inr needs)]
        simp [nothing]
      | false =>
        have something : ¬ (im.needTs l = 0 ∧ im.needHbm l = 0) := by simpa [Image.needsNone] using needs
        rw [allocLayer_defers pass asks narrow full needs]
        simp [something]
    · rw [allocLayer_idle pass idle]
      exact ⟨rfl, rfl, rfl⟩

end Sys2Proof.Machine
end

section
namespace Sys2Proof.Machine

/-! ## A core's next word and its faults (R114, R219) -/

/-- A core row at a core that has an instruction to issue: a word of no row stops the core, a word of another row changes nothing. -/
theorem exec_coreRow_of_foreign_word {i : Instr} {r : Row} {c : Nat} {s : State} {x : Ctx} (row : coreRow i = some (r, c))
    (core : c < Config.cores) (next : s.ctx c = some x) :
    (rowOf x.w = none → exec i s = .next (s.coreFault x.p c 1 Config.stIllegalInstr x.w)) ∧
      ∀ r', rowOf x.w = some r' → r' ≠ r → exec i s = .next s := by
  obtain ⟨body, issued⟩ := exec_coreRow row s
  have ofCore : x.c = c := (State.ctx_core next).1
  rw [issued, issue, if_neg (Nat.not_le.2 core), next]
  refine ⟨fun reserved => ?_, fun r' other apart => ?_⟩
  · simp [reserved, finish, ofCore]
  · simp [other, apart]

/-- The core that a fault stops: its sequencer records the instruction, and nothing else of it changes. -/
theorem State.coreFault_core_self (s : State) (p c cause st w : Nat) : (s.coreFault p c cause st w).core c =
    { s.core c with seq := { (s.core c).seq with
      run := 5, cause := cause, faultPc := 16 * (s.core c).seq.pc, faultBeat := (s.core c).seq.curBeat, faultInstr := w } } := by
  have stopped : (s.coreFault p c cause st w).core c = (s.stopCore c cause w).core c := rfl
  rw [stopped, State.stopCore, State.updSeq, State.core_updCore_self]
theorem State.coreFault_core_other (s : State) {c d : Nat} (h : d ≠ c) (p cause st w : Nat) :
    (s.coreFault p c cause st w).core d = s.core d := (s.stopCore_frame c cause w).2 d h
theorem State.coreFault_reports (s : State) (p c cause st w : Nat) : ((s.coreFault p c cause st w).part p).job.reports =
    (s.part p).job.reports ++ [(st, cause, (s.core c).seq.curBeat, c)] := by
  rw [State.coreFault, State.report_part, if_pos rfl, Nat.zero_mul, Nat.zero_add]
  rfl

/-- Settles O8: a core row is an issue at its core, and the record of a fault is what `State.coreFault` writes. -/
theorem coreRowsIssueTheirOwnWordOrStop : Obligations.CoreRowsIssueTheirOwnWordOrStop := by
  unfold Obligations.CoreRowsIssueTheirOwnWordOrStop
  refine ⟨fun i r c s row core => ⟨exec_coreRow_of_no_ctx row core, fun x next => exec_coreRow_of_foreign_word row core next⟩, ?record⟩
  case record =>
    intro s p c cause st w t
    have self : t.core c = _ := s.coreFault_core_self p c cause st w
    rw [self]
    exact ⟨rfl, rfl, rfl, rfl, rfl, rfl, rfl, rfl, rfl, rfl, s.coreFault_reports p c cause st w,
      fun d other => s.coreFault_core_other other p cause st w, s.coreFault_frame p c cause st w⟩

end Sys2Proof.Machine
end

section
namespace Sys2Proof.Machine

/-! ## What settling and going on leave of a sequencer (R217) -/

/-- Closing loops and variants moves the PC and pops frames, and does nothing else. -/
theorem settle_keeps {α : Type} (π : Seq → α) (h : ∀ q pc ls vs, π { q with pc := pc, loops := ls, variants := vs } = π q) (n : Nat)
    (q : Seq) : π (settle n q) = π q := by
  induction n generalizing q with
  | zero => rfl
  | succ n ih =>
    unfold settle
    extract_lets loopEnd varEnd inner
    clear_value loopEnd varEnd inner
    split
    · split
      · split
        · exact h q _ _ q.variants
        · exact (ih _).trans (h q q.pc _ q.variants)
      · rfl
    · split
      · split
        · exact (ih _).trans (h q _ q.loops _)
        · rfl
      · rfl
/-- Going on to the next instruction leaves what neither the place in the stream nor the wait is. -/
theorem Seq.next_keeps {α : Type} (π : Seq → α) (place : ∀ q pc ls vs, π { q with pc := pc, loops := ls, variants := vs } = π q)
    (wait : ∀ q, π { q with run := 1, stall := false, waitFrom := none } = π q) (q : Seq) : π q.next = π q :=
  (settle_keeps π place 16 _).trans ((place _ (q.pc + 1) q.loops q.variants).trans (wait q))

/-! ## SELECT_POINT (R118, R119, R422) -/

/-- The end of the open request changes its partition only. -/
theorem State.endRequest_frame (s : State) (p : Nat) : s.endRequest p = { s with parts := (s.endRequest p).parts } := by
  unfold State.endRequest
  dsimp only
  split
  · rfl
  · split
    · split
      · split
        · rfl
        · rfl
      · rfl
    · rfl
/-- The sequencer of a core that waits on the selection signal (R118). -/
def Seq.parked (q : Seq) : Seq := { q with selectWait := true, run := 3, stall := false, waitFrom := none }
/-- Core `c` of partition `p` parks; where that leaves every core parked or halted, the open request ends (R118, R422). -/
def State.parkCore (s : State) (c p : Nat) : State :=
  if (s.updSeq c Seq.parked).parked p then (s.updSeq c Seq.parked).endRequest p else s.updSeq c Seq.parked

/-- Parking changes the core and its partition's requests. -/
theorem State.parkCore_frame (s : State) (c p : Nat) :
    s.parkCore c p = { s.updSeq c Seq.parked with parts := (s.parkCore c p).parts } := by
  unfold State.parkCore
  split
  · exact State.endRequest_frame _ _
  · rfl
theorem State.parkCore_core (s : State) (c p d : Nat) : (s.parkCore c p).core d = (s.updSeq c Seq.parked).core d := by
  rw [State.parkCore_frame]
  rfl

theorem exec_selectPoint {c : Nat} {s : State} {x : Ctx} (issues : s.Issues c ⟨4, 6, 0⟩ x) (reserved : x.f 127 8 = 0)
    (done : s.allDone c = true) : exec (.selectPoint c) s = .next ((s.parkCore c x.p).updCore c (fun k => k.note 0x010 1)) := by
  have ofCore : x.c = c := (State.ctx_core issues.ctx).1
  have row : exec (.selectPoint c) s = execSelectPoint c s := rfl
  rw [row, execSelectPoint, issue_of_issues issues, reserved, done, if_neg (by decide), if_neg (by decide), finish, ofCore]
  rfl

/-! ## FREEZE_POINT (R367, R369, R370) -/

/-- The sequencer at a freeze point that its core records (R367). -/
def Seq.atFreezePoint (q : Seq) (x : Ctx) (park : Bool) : Seq :=
  { q with fpCount := q.fpCount + 1, fpId := x.f 19 8, liveList := (x.f 59 20, x.f 75 60), fpWait := park }

theorem Seq.next_fpCount (q : Seq) : q.next.fpCount = q.fpCount := Seq.next_keeps Seq.fpCount (fun _ _ _ _ => rfl) (fun _ => rfl) q
theorem Seq.next_fpId (q : Seq) : q.next.fpId = q.fpId := Seq.next_keeps Seq.fpId (fun _ _ _ _ => rfl) (fun _ => rfl) q
theorem Seq.next_fpWait (q : Seq) : q.next.fpWait = q.fpWait := Seq.next_keeps Seq.fpWait (fun _ _ _ _ => rfl) (fun _ => rfl) q

/-- What a freeze point asks of its core beside its encoding and its live ranges (R367). -/
structure State.FreezeClear (s : State) (p c : Nat) : Prop where
  t0 : (s.core c).mu.t0.state = 0
  t1 : (s.core c).mu.t1.state = 0
  ftq : (s.core c).mu.ftq = []
  carry : (s.core c).ve.carry.isOpen = false
  claims : (s.core c).claims.any (·.isOpen) = false
  handed : s.handedOff p c = false

/-- Core `c` has recorded its freeze point and goes on; `parts`: what freezes and checkpoints of its partition note (R369, R463). -/
def State.pastFreezePoint (s : State) (c : Nat) (x : Ctx) (parts : List (Nat × Partition)) : State :=
  (({ s with parts := parts } : State).updSeq c (fun q => q.atFreezePoint x (s.parksAt x.p c ((s.core c).seq.fpCount + 1)))).advance c
theorem State.pastFreezePoint_core_self (s : State) (c : Nat) (x : Ctx) (parts : List (Nat × Partition)) :
    (s.pastFreezePoint c x parts).core c = Core.retire { s.core c with
      seq := (s.core c).seq.atFreezePoint x (s.parksAt x.p c ((s.core c).seq.fpCount + 1)) } 0x010 := by
  rw [State.pastFreezePoint, State.advance_core, if_pos rfl, State.updSeq, State.core_updCore_self]
  rfl
theorem State.pastFreezePoint_core_other (s : State) {c d : Nat} (h : d ≠ c) (x : Ctx) (parts : List (Nat × Partition)) :
    (s.pastFreezePoint c x parts).core d = s.core d := by
  rw [State.pastFreezePoint, State.advance_core, if_neg h, State.updSeq, State.core_updCore_other _ _ h]
  rfl

/-- A freeze point that its core may pass is recorded; beside the core, only partitions change. -/
theorem exec_freezePoint {c : Nat} {s : State} {x : Ctx} {es : List (List Byte)} (issues : s.Issues c ⟨4, 3, 0⟩ x)
    (reserved : x.f 127 76 = 0) (done : s.allDone c = true) (list : s.liveList (s.part x.p).geo (x.f 59 20) (x.f 75 60) = some es)
    (inside : es.all liveOk = true) (clear : s.FreezeClear x.p c) :
    ∃ parts, exec (.freezePoint c) s = .next (s.pastFreezePoint c x parts) := by
  obtain ⟨t0, t1, ftq, carry, claims, handed⟩ := clear
  have ofCore : x.c = c := (State.ctx_core issues.ctx).1
  have row : exec (.freezePoint c) s = execFreezePoint c s := rfl
  rw [row, execFreezePoint, issue_of_issues issues, reserved, done, list]
  dsimp only
  rw [t0, t1, ftq, carry, claims, handed, inside, if_neg (by decide), if_neg (by decide), if_neg (by decide), finish, ofCore]
  unfold State.pastFreezePoint
  cases s.parksAt x.p c ((s.core c).seq.fpCount + 1) with
  | false => exact ⟨_, rfl⟩
  | true =>
    split
    · exact ⟨_, rfl⟩
    · exact ⟨_, rfl⟩

/-- Settles O12: SELECT_POINT parks its core and at most ends a request; FREEZE_POINT records itself in its core and goes on. -/
theorem pointRowsComplete : Obligations.PointRowsComplete := by
  unfold Obligations.PointRowsComplete
  refine ⟨?select, ?freeze⟩
  case select =>
    intro c s x issues reserved done
    refine ⟨_, exec_selectPoint issues reserved done, ?_, fun d other => ?_, ?_⟩
    · rw [State.core_updCore_self, State.parkCore_core, State.updSeq, State.core_updCore_self]
      rfl
    · rw [State.core_updCore_other _ _ other, State.parkCore_core, State.updSeq, State.core_updCore_other _ _ other]
    · rw [State.parkCore_frame]
      rfl
  case freeze =>
    intro c s x es issues reserved done list inside t0 t1 ftq carry claims handed
    obtain ⟨parts, row⟩ := exec_freezePoint issues reserved done list inside ⟨t0, t1, ftq, carry, claims, handed⟩
    have self := s.pastFreezePoint_core_self c x parts
    refine ⟨_, row, ?_, ?_, ?_, ?_, fun d other => s.pastFreezePoint_core_other other x parts, rfl⟩
    · rw [self]
      exact Seq.next_fpCount _
    · rw [self]
      exact Seq.next_fpId _
    · rw [self]
      exact Seq.next_fpWait _
    · rw [self]
      rfl

end Sys2Proof.Machine
end

section
namespace Sys2Proof.Machine

/-! ## Cores of a list -/

/-- A change that makes no second difference, made at each core of a list: the cores of the list are changed, the others not. -/
theorem State.core_foldl_updCore_idem {f : Core → Core} (idem : ∀ k, f (f k) = f k) (l : List Nat) (s : State) (d : Nat) :
    (l.foldl (fun s c => s.updCore c f) s).core d = if d ∈ l then f (s.core d) else s.core d := by
  induction l generalizing s with
  | nil => simp
  | cons e r ih =>
    rw [List.foldl_cons, ih]
    by_cases h : d = e
    · subst h
      simp [idem]
    · simp [h]
theorem State.imageCores_congr {s t : State} {p : Nat} (image : (t.part p).image = (s.part p).image) (geo : (t.part p).geo = (s.part p).geo) :
    t.imageCores p = s.imageCores p := by
  unfold State.imageCores
  rw [image, geo]

/-! ## Patches and weight switches (R117, R349) -/

theorem State.writeP_core (s : State) (p x : Nat) (bs : List Byte) (c : Nat) : (s.writeP p x bs).core c = s.core c :=
  (s.storeAt_writes p 1 false x bs).core c
/-- A core's sequencer is untouched by what changes other parts of cores. -/
theorem State.updCore_seq (s : State) (c : Nat) {f : Core → Core} (keeps : ∀ k, (f k).seq = k.seq) (d : Nat) :
    ((s.updCore c f).core d).seq = (s.core d).seq := State.core_setCore_keeps Core.seq (keeps _) d

theorem Core.putField_seq (k : Core) (i a b n v : Nat) : (k.putField i a b n v).seq = k.seq := rfl

/-- Patches write descriptors and instruction words: no partition's table and no sequencer changes. -/
theorem State.applyPatch_lasts (s : State) (p entry : Nat) (vars : List Nat) (r : List Byte) : s.PartsLast (s.applyPatch p entry vars r) := by
  unfold State.applyPatch
  dsimp only
  split
  · split
    · exact .of_parts rfl
    · exact .refl s
  · split
    · exact .refl s
    · split
      · exact .refl s
      · exact s.writeP_lasts _ _ _
theorem State.applyPatch_seq (s : State) (p entry : Nat) (vars : List Nat) (r : List Byte) (c : Nat) :
    ((s.applyPatch p entry vars r).core c).seq = (s.core c).seq := by
  unfold State.applyPatch
  dsimp only
  split
  · split
    · exact State.updCore_seq _ _ (fun k => k.putField_seq _ _ _ _ _) c
    · rfl
  · split
    · rfl
    · split
      · rfl
      · rw [State.writeP_core]
theorem State.applyPatches_lasts (s : State) (p : Nat) (im : Image) (r : List Byte) (vars : List Nat) :
    s.PartsLast (s.applyPatches p im r vars) := .foldl (fun t e => t.applyPatch_lasts p _ vars e) _ s
theorem State.applyPatches_seq (s : State) (p : Nat) (im : Image) (r : List Byte) (vars : List Nat) (c : Nat) :
    ((s.applyPatches p im r vars).core c).seq = (s.core c).seq :=
  foldl_keeps (fun t : State => (t.core c).seq) (fun t e => t.applyPatch_seq p _ vars e c) _ s

/-- A weight switch relocates descriptors and changes the weight slots of its partition. -/
theorem State.weightSwitch_part (s : State) (p : Nat) (im : Image) :
    ∃ ws, (s.weightSwitch p im).part p = { s.part p with ws := ws } := by
  unfold State.weightSwitch
  extract_lets w old delta s1
  have relocated : s1.part p = s.part p := foldl_keeps (fun t : State => t.part p) (fun t e => by split <;> rfl) _ s
  rw [State.part_updPart_self, relocated]
  exact ⟨_, rfl⟩
theorem State.weightSwitch_seq (s : State) (p : Nat) (im : Image) (c : Nat) : ((s.weightSwitch p im).core c).seq = (s.core c).seq := by
  unfold State.weightSwitch
  extract_lets w old delta s1
  have relocated : (s1.core c).seq = (s.core c).seq := by
    refine foldl_keeps (fun t : State => (t.core c).seq) (fun t e => ?_) _ s
    dsimp only
    split
    · refine State.updCore_seq _ _ (fun k => ?_) c
      rfl
    · rfl
  exact relocated

/-! ## Cores go on at the bucket's ENTRY (R118) -/

/-- The sequencer of a core once its partition has selected: a parked one goes on at ENTRY with its loops closed. -/
def Seq.continued (entry : Nat) (q : Seq) : Seq :=
  if q.selectWait then { q with selectWait := false, selBeat := some q.curBeat, pc := entry / 16, run := 1, loops := [], variants := [] } else q
theorem Seq.continued_idem (entry : Nat) (q : Seq) : (q.continued entry).continued entry = q.continued entry := by
  by_cases h : q.selectWait = true
  · simp [Seq.continued, h]
  · simp [Seq.continued, h]
theorem State.continueAt_core (s : State) {p c : Nat} (entry : Nat) (h : c ∈ s.imageCores p) :
    ((s.continueAt p entry).core c).seq = (s.core c).seq.continued entry := by
  have each : s.continueAt p entry =
      (s.imageCores p).foldl (fun s c => s.updCore c (fun k => { k with seq := k.seq.continued entry })) s := rfl
  rw [each, State.core_foldl_updCore_idem (fun k => by rw [Seq.continued_idem]), if_pos h]
theorem State.continueAt_part (s : State) (p entry q : Nat) : (s.continueAt p entry).part q = s.part q :=
  foldl_keeps (fun t : State => t.part q) (fun _ _ => by rfl) _ s

/-! ## A run request is taken (R116 to R119, R349) -/

/-- The oldest run request leaves the queue: it counts as taken, and no switch holds the selection any more. -/
def State.requestTaken (s : State) (p : Nat) (q : Request) (rest : List Request) : State :=
  ((s.updJob p (fun j => { j with requests := rest, nextRequest := (s.part p).job.nextRequest + 1 })).updRcv p (fun r =>
    { r with points := r.points.map (fun t => { t with taken := t.taken ++ [q] }) })).updPart p (fun x =>
    { x with ws := { x.ws with selectWait := false } })
/-- A weight switch that is due at request `n` takes place. -/
def State.dueSwitch (s : State) (p : Nat) (im : Image) (n : Nat) : State :=
  if (s.part p).ws.switchPending && decide ((s.part p).ws.atRequest ≤ n) then s.weightSwitch p im else s
/-- Bucket `b` and the request's variables are in force, the signal word has grown, and the request is open. -/
def State.bucketSelected (s : State) (p b : Nat) (q : Request) : State :=
  s.updJob p (fun j => { j with vars := runVars q.payload, bucket := b, selected := true, selSignal := j.selSignal + 1, opened := some q })

section
variable {s : State} {p : Nat} {im : Image} {q : Request} {rest : List Request}

theorem State.takeRun_uncovered (none : selectBucket im (runVars q.payload) = none) :
    s.takeRun p im q rest = (s.requestTaken p q rest).completeIf q.fn q.slot q.post Config.stNoBucket 0 [] := by
  unfold State.takeRun
  dsimp only
  rw [none]
  rfl
theorem State.takeRun_covered {b : Nat} {r : List Byte} (some : selectBucket im (runVars q.payload) = some (b, r)) :
    s.takeRun p im q rest = ((((s.requestTaken p q rest).applyPatches p im r (runVars q.payload)).dueSwitch p im
      (s.part p).job.nextRequest).bucketSelected p b q).continueAt p (fld r 4 4) := by
  unfold State.takeRun
  dsimp only
  rw [some]
  rfl

theorem State.requestTaken_part (s : State) (p : Nat) (q : Request) (rest : List Request) :
    ((s.requestTaken p q rest).part p).job =
      { (s.part p).job with requests := rest, nextRequest := (s.part p).job.nextRequest + 1 } ∧
    ((s.requestTaken p q rest).part p).image = (s.part p).image ∧ ((s.requestTaken p q rest).part p).geo = (s.part p).geo := by
  rw [State.requestTaken, State.part_updPart_self, State.part_updRcv_self, State.part_updJob_self]
  exact ⟨rfl, rfl, rfl⟩
theorem State.dueSwitch_part (s : State) (p : Nat) (im : Image) (n : Nat) :
    ∃ ws, (s.dueSwitch p im n).part p = { s.part p with ws := ws } := by
  unfold State.dueSwitch
  split
  · exact s.weightSwitch_part p im
  · exact ⟨_, rfl⟩
theorem State.dueSwitch_seq (s : State) (p : Nat) (im : Image) (n c : Nat) : ((s.dueSwitch p im n).core c).seq = (s.core c).seq := by
  unfold State.dueSwitch
  split
  · exact s.weightSwitch_seq p im c
  · rfl

/-- What taking a covered request leaves of its partition. -/
theorem State.takeRun_covered_part {b : Nat} {r : List Byte} (some : selectBucket im (runVars q.payload) = some (b, r)) :
    ∃ more, ((s.takeRun p im q rest).part p).job = { (s.part p).job with
      requests := rest, nextRequest := (s.part p).job.nextRequest + 1, vars := runVars q.payload, bucket := b, selected := true
      selSignal := (s.part p).job.selSignal + 1, opened := .some q, reports := (s.part p).job.reports ++ more } := by
  obtain ⟨job, -, -⟩ := s.requestTaken_part p q rest
  obtain ⟨more, patched⟩ := ((s.requestTaken p q rest).applyPatches_lasts p im r (runVars q.payload) p).job
  obtain ⟨ws, switched⟩ := ((s.requestTaken p q rest).applyPatches p im r (runVars q.payload)).dueSwitch_part p im (s.part p).job.nextRequest
  rw [State.takeRun_covered some, State.continueAt_part, State.bucketSelected, State.part_updJob_self, switched]
  dsimp only
  rw [patched, job]
  exact ⟨more, rfl⟩
/-- Its cores go on at the bucket's ENTRY. -/
theorem State.takeRun_covered_seq {b c : Nat} {r : List Byte} (some : selectBucket im (runVars q.payload) = some (b, r))
    (h : c ∈ s.imageCores p) : ((s.takeRun p im q rest).core c).seq = (s.core c).seq.continued (fld r 4 4) := by
  obtain ⟨-, image, geo⟩ := s.requestTaken_part p q rest
  have patched := (s.requestTaken p q rest).applyPatches_lasts p im r (runVars q.payload) p
  obtain ⟨ws, switched⟩ := ((s.requestTaken p q rest).applyPatches p im r (runVars q.payload)).dueSwitch_part p im (s.part p).job.nextRequest
  have selected : ((((s.requestTaken p q rest).applyPatches p im r (runVars q.payload)).dueSwitch p im
      (s.part p).job.nextRequest).bucketSelected p b q).imageCores p = s.imageCores p := by
    refine State.imageCores_congr ?_ ?_
    · rw [State.bucketSelected, State.part_updJob_self, switched]
      exact patched.image.trans image
    · rw [State.bucketSelected, State.part_updJob_self, switched]
      exact patched.geo.trans geo
  rw [State.takeRun_covered some, State.continueAt_core _ _ (by rwa [selected])]
  congr 1
  exact (State.dueSwitch_seq _ p im _ c).trans ((s.requestTaken p q rest).applyPatches_seq p im r _ c)

/-! ## BUCKET_SELECTION (R118) -/

/-- A parked partition whose selection nothing holds back (R118, R272, R450, R453). -/
structure State.Selects (s : State) (p : Nat) : Prop where
  part : p < 16
  parked : s.parked p = true
  frozen : (s.part p).job.frozen = false
  stopped : (s.part p).job.stopped = false
  restart : s.fw.svcRestart = false
  down : s.fw.svcDown = false
  served : s.memHeld p = false

/-- SELECT_WAIT is set: a run request waits for a weight slot (R345, R349). -/
def State.selectHeld (s : State) (p : Nat) : State := s.updPart p (fun x => { x with ws := { x.ws with selectWait := true } })
/-- A sequence-table command has left the queue and completes (R185). -/
def State.seqTaken (s : State) (p : Nat) (q : Request) (rest : List Request) (st : Nat) : State :=
  (s.updJob p (fun j => { j with requests := rest })).completeIf q.fn q.slot q.post st 0 []

theorem exec_bucketSelection (h : s.Selects p) (hi : (s.part p).image = some im) (hq : (s.part p).job.requests = q :: rest) :
    (q.cmd ≠ 0x0202 → ∃ u st, exec (.bucketSelection p) s = .next (State.seqTaken u p q rest st)) ∧
    (q.cmd = 0x0202 → exec (.bucketSelection p) s = .next
      (if (s.part p).ws.active.isNone || (s.part p).ws.holds (s.part p).job.nextRequest then s.selectHeld p
        else s.takeRun p im q rest)) := by
  obtain ⟨part, parked, frozen, stopped, restart, down, served⟩ := h
  have row : exec (.bucketSelection p) s = execBucketSelection p s := rfl
  rw [row, execBucketSelection, if_neg (by omega), hi]
  dsimp only
  rw [hq]
  dsimp only
  rw [parked, frozen, stopped, restart, down, served, if_neg (by decide)]
  refine ⟨fun command => ?_, fun run => ?_⟩
  · rw [if_pos (by simpa using command)]
    exact ⟨_, _, rfl⟩
  · rw [if_neg (by simpa using run)]
    split
    · rfl
    · rfl

theorem State.completeIf_part (s : State) (f : Fn) (n post st d : Nat) (r : List Byte) (p : Nat) :
    (s.completeIf f n post st d r).part p = s.part p := by
  rw [State.completeIf_frame]
  rfl
theorem State.completeIf_core (s : State) (f : Fn) (n post st d : Nat) (r : List Byte) (c : Nat) :
    (s.completeIf f n post st d r).core c = s.core c := by
  rw [State.completeIf_frame]
  rfl
theorem State.seqTaken_requests (s : State) (p : Nat) (q : Request) (rest : List Request) (st : Nat) :
    ((s.seqTaken p q rest st).part p).job.requests = rest := by
  rw [State.seqTaken, State.completeIf_part, State.part_updJob_self]

/-- What a run request that no bucket covers leaves: it has left the queue, and the cores stay parked. -/
theorem State.takeRun_uncovered_keeps (none : selectBucket im (runVars q.payload) = none) :
    ((s.takeRun p im q rest).part p).job =
      { (s.part p).job with requests := rest, nextRequest := (s.part p).job.nextRequest + 1 } ∧
    ∀ c, (s.takeRun p im q rest).core c = s.core c := by
  rw [State.takeRun_uncovered none]
  exact ⟨by rw [State.completeIf_part, (s.requestTaken_part p q rest).1], fun c => by rw [State.completeIf_core]; rfl⟩
/-- What any taken run request leaves of the queue. -/
theorem State.takeRun_queue (s : State) (p : Nat) (im : Image) (q : Request) (rest : List Request) :
    ((s.takeRun p im q rest).part p).job.requests = rest ∧
      ((s.takeRun p im q rest).part p).job.nextRequest = (s.part p).job.nextRequest + 1 := by
  cases covers : selectBucket im (runVars q.payload) with
  | none => rw [(State.takeRun_uncovered_keeps covers).1]; exact ⟨rfl, rfl⟩
  | some br =>
    obtain ⟨more, job⟩ := State.takeRun_covered_part (s := s) (p := p) (rest := rest) (b := br.1) (r := br.2) covers
    rw [job]
    exact ⟨rfl, rfl⟩

end

/-- Settles O25: what BUCKET_SELECTION makes of each kind of request, and of a run request by whether a bucket covers it. -/
theorem bucketSelectionTakesTheRequest : Obligations.BucketSelectionTakesTheRequest := by
  unfold Obligations.BucketSelectionTakesTheRequest
  intro p s im q rest hp hi hq parked frozen stopped restart down served
  obtain ⟨command, run⟩ := exec_bucketSelection ⟨hp, parked, frozen, stopped, restart, down, served⟩ hi hq
  by_cases isRun : q.cmd = 0x0202
  · by_cases held : ((s.part p).ws.active.isNone || (s.part p).ws.holds (s.part p).job.nextRequest) = true
    · refine ⟨_, (run isRun).trans (congrArg _ (if_pos held)), fun other => absurd isRun other, fun _ _ => ?_, fun _ active free => ?_⟩
      · rw [State.selectHeld, State.part_updPart_self]
        exact ⟨rfl, rfl, fun _ => rfl⟩
      · simp [free, active] at held
    · refine ⟨_, (run isRun).trans (congrArg _ (if_neg held)), fun other => absurd isRun other, fun _ waits => ?_, fun _ _ _ => ?_⟩
      · rcases waits with none | holds
        · simp [none] at held
        · simp [holds] at held
      · obtain ⟨requests, next⟩ := s.takeRun_queue p im q rest
        refine ⟨requests, next, fun none => ?_, fun b r some => ?_⟩
        · obtain ⟨job, cores⟩ := State.takeRun_uncovered_keeps (s := s) (p := p) (rest := rest) none
          exact ⟨by rw [job], cores⟩
        · obtain ⟨more, job⟩ := State.takeRun_covered_part (s := s) (p := p) (rest := rest) some
          rw [job]
          refine ⟨rfl, rfl, rfl, rfl, fun c member waits => ?_⟩
          rw [State.takeRun_covered_seq some member, Seq.continued, if_pos waits]
          exact ⟨rfl, rfl, rfl, rfl, rfl⟩
  · obtain ⟨u, st, row⟩ := command isRun
    exact ⟨_, row, fun _ => u.seqTaken_requests p q rest st, fun run => absurd run isRun, fun run => absurd run isRun⟩

end Sys2Proof.Machine
end

section
namespace Sys2Proof.Machine

/-! ## Reads pass their home banks (R254, R255, R264) -/

/-- A change of one line that leaves its place, its dirty marks and every dirty byte changes no byte that HBM shows. -/
theorem State.useLine_hb (s : State) (k m : Nat) {f : CacheLine → CacheLine} (line : ∀ e, (f e).line = e.line)
    (dirty : ∀ e, (f e).dirty = e.dirty) (bytes : ∀ e i, e.dirty.getD i false = true → (f e).bytes.getD i 0 = e.bytes.getD i 0) (x : Nat) :
    (s.updShelf k (fun sh => sh.useLine m f)).hb x = s.hb x := by
  have found : (s.updShelf k (fun sh => sh.useLine m f)).line x = if shelfOf x = k ∧ lineOf x = m then (s.line x).map f else s.line x := by
    rw [State.line_updShelf]
    by_cases hk : shelfOf x = k
    · rw [if_pos hk, Shelf.find?_useLine _ _ _ line, State.line, hk]
      exact if_congr (by simp) rfl rfl
    · rw [if_neg hk, if_neg (fun h => hk h.1)]
  by_cases here : shelfOf x = k ∧ lineOf x = m
  · rw [if_pos here] at found
    cases was : s.line x with
    | none =>
      rw [was] at found
      rw [State.hb_of_no_line found, State.hb_of_no_line was]
      rfl
    | some l =>
      rw [was] at found
      rw [State.hb_of_line found, State.hb_of_line was, dirty]
      split
      · rename_i set
        exact bytes l _ set
      · rfl
  · rw [if_neg here] at found
    exact State.hb_congr_line found rfl

/-- What the read of a byte makes of its line (R254, R264): a sleet read fills nothing. -/
def CacheLine.readFill (l : CacheLine) (cls i : Nat) (b : Byte) : CacheLine := if cls = 3 then l else l.fill i b

theorem CacheLine.readFill_cases (l : CacheLine) (cls i : Nat) (b : Byte) : l.readFill cls i b = l ∨
    (l.dirty.getD i false = false ∧ l.readFill cls i b = { l with bytes := l.bytes.set i b, valid := l.valid.set i true }) := by
  unfold CacheLine.readFill CacheLine.fill
  split
  · exact .inl rfl
  · split
    · exact .inl rfl
    · rename_i absent
      exact .inr ⟨by simp only [Bool.or_eq_true, not_or, Bool.not_eq_true] at absent; exact absent.2, rfl⟩
theorem CacheLine.readFill_line (l : CacheLine) (cls i : Nat) (b : Byte) : (l.readFill cls i b).line = l.line := by
  rcases l.readFill_cases cls i b with e | ⟨-, e⟩ <;> rw [e]
theorem CacheLine.readFill_dirty (l : CacheLine) (cls i : Nat) (b : Byte) : (l.readFill cls i b).dirty = l.dirty := by
  rcases l.readFill_cases cls i b with e | ⟨-, e⟩ <;> rw [e]
theorem CacheLine.readFill_bytes (l : CacheLine) (cls i : Nat) (b : Byte) {j : Nat} (set : l.dirty.getD j false = true) :
    (l.readFill cls i b).bytes.getD j 0 = l.bytes.getD j 0 := by
  rcases l.readFill_cases cls i b with e | ⟨clear, e⟩ <;> rw [e]
  have apart : i ≠ j := by
    rintro rfl
    rw [clear] at set
    cases set
  simp [List.getD_eq_getElem?_getD, List.getElem?_set_ne apart]
theorem CacheLine.Whole.readFill {l : CacheLine} (h : l.Whole) (cls i : Nat) (b : Byte) : (l.readFill cls i b).Whole := by
  obtain ⟨own, valid, dirty, bytes⟩ := h
  rcases l.readFill_cases cls i b with e | ⟨-, e⟩ <;> rw [e]
  · exact ⟨own, valid, dirty, bytes⟩
  · exact ⟨own, (List.length_set ..).trans valid, dirty, (List.length_set ..).trans bytes⟩

/-- The read of a byte changes no byte that HBM shows. -/
theorem State.useByte_hb {s : State} (ok : s.CachesOk) (p cls a : Nat) :
    (s.useByte p cls a).CachesOk ∧ ∀ x, (s.useByte p cls a).hb x = s.hb x := by
  obtain ⟨ok', same⟩ := State.haveLine_hb ok p cls a
  unfold State.useByte
  extract_lets t
  split
  · exact ⟨ok', same⟩
  · have used : (fun sh : Shelf => sh.useLine (lineOf a) (fun l => if cls = 3 then l else l.fill (a % 128) (t.hbm.read a))) =
        fun sh => sh.useLine (lineOf a) (fun l => l.readFill cls (a % 128) (t.hbm.read a)) := rfl
    rw [used]
    exact ⟨ok'.updShelf (Shelf.useLine_whole (ok' _) _ (fun l h => h.readFill _ _ _)),
      fun x => (t.useLine_hb _ _ (fun l => l.readFill_line _ _ _) (fun l => l.readFill_dirty _ _ _)
        (fun l i set => l.readFill_bytes _ _ _ set) x).trans (same x)⟩
theorem State.loadAt_hb (p cls : Nat) (xs : List Nat) : ∀ {s : State}, s.CachesOk →
    (s.loadAt p cls xs).CachesOk ∧ ∀ a, (s.loadAt p cls xs).hb a = s.hb a := by
  unfold State.loadAt
  induction xs with
  | nil => exact fun ok => ⟨ok, fun _ => rfl⟩
  | cons x r ih =>
    intro s ok
    rw [List.foldl_cons]
    split
    · rename_i a _
      obtain ⟨used, same⟩ := State.useByte_hb ok p cls a
      obtain ⟨ok', rest⟩ := ih used
      exact ⟨ok', fun b => (rest b).trans (same b)⟩
    · exact ih ok

/-! ## Fences hold for whole 256-byte pieces (R251, R269) -/

theorem State.isFenced_congr (s : State) {a b : Nat} (piece : a / 256 = b / 256) : s.isFenced a = s.isFenced b := by
  have group : a / Config.groupBytes = b / Config.groupBytes := by unfold Config.groupBytes; omega
  have column : a % Config.groupBytes / 256 = b % Config.groupBytes / 256 := by unfold Config.groupBytes; omega
  unfold State.isFenced shelfOf pcOf
  rw [group, column]
theorem interPhys_piece {g : Geometry} {x y a : Nat} (piece : x / 256 = y / 256) (at_ : interPhys g x = some a) :
    ∃ b, interPhys g y = some b ∧ a / 256 = b / 256 := by
  obtain ⟨k, group, inside, place⟩ := interPhys_eq_some at_
  have page : y / 4096 = x / 4096 := by omega
  have some : geoG g ≠ 0 := by
    intro none
    simp [interPhys, none] at at_
  generalize row : x / 4096 / geoG g * 4096 = r at inside place
  have rows : r % 4096 = 0 := by omega
  refine ⟨flat k (r + y % 4096), ?_, ?_⟩
  · rw [interPhys, if_neg some, ordPhys, page, row, if_pos (by unfold Config.groupBytes at *; omega), group]
    rfl
  · rw [← place]
    unfold flat Config.groupBytes
    omega
theorem State.fencedX_congr (s : State) (p : Nat) {x y : Nat} (piece : x / 256 = y / 256) : s.fencedX p x = s.fencedX p y := by
  unfold State.fencedX
  cases hx : interPhys (s.part p).geo x with
  | some a =>
    obtain ⟨b, hy, same⟩ := interPhys_piece piece hx
    rw [hy]
    exact s.isFenced_congr same
  | none =>
    cases hy : interPhys (s.part p).geo y with
    | none => rfl
    | some b =>
      obtain ⟨a, hx', -⟩ := interPhys_piece piece.symm hy
      rw [hx'] at hx
      cases hx
/-- Where no piece that a range touches is fenced, no byte of it is. -/
theorem State.fencedX_of_fencedByte_none {s : State} {p x n : Nat} (none : s.fencedByte p x n = none) {i : Nat} (hi : i < n) :
    s.fencedX p (x + i) = false := by
  unfold State.fencedByte at none
  rw [if_neg (by omega), List.find?_eq_none] at none
  have piece := none (max x ((x + i) / 256 * 256)) (List.mem_map.2 ⟨(x + i) / 256 - x / 256, List.mem_range.2 (by omega), by
    rw [show x / 256 + ((x + i) / 256 - x / 256) = (x + i) / 256 by omega]⟩)
  rw [s.fencedX_congr p (y := max x ((x + i) / 256 * 256)) (by omega)]
  simpa using piece

end Sys2Proof.Machine
end

section
namespace Sys2Proof.Machine

/-! ## Writes that lift no protection (R256, R269) -/

theorem State.storeTurn_memOnly (s : State) (p cls : Nat) (e : Nat × Byte) : s.MemOnly (s.storeTurn p cls false e) := by
  unfold State.storeTurn
  split
  · split
    · exact .refl s
    · exact (s.storeByte_spec p cls _ e.2).1
  · exact .refl s
theorem State.storeBytes_memOnly (p cls : Nat) (es : List (Nat × Byte)) : ∀ s : State, s.MemOnly (s.storeBytes p cls false es) := by
  induction es with
  | nil => exact .refl
  | cons e r ih => exact fun s => (s.storeTurn_memOnly p cls e).trans (ih _)
theorem State.storeBytes_fence (p cls : Nat) (lift : Bool) (es : List (Nat × Byte)) (k : Nat) :
    ∀ s : State, ((s.storeBytes p cls lift es).shelf k).pcFenced = (s.shelf k).pcFenced := by
  induction es with
  | nil => exact fun _ => rfl
  | cons e r ih => exact fun s => (ih _).trans ((s.storeTurn_writes p cls lift e).fence k)

/-- The bytes of a DMA write that no reducer region keeps (R256). -/
def State.dmaPlaces (s : State) (p x : Nat) (bs : List Byte) : List (Nat × Byte) :=
  (placesFrom x bs).filter (fun e => match interPhys (s.part p).geo e.1 with
    | some a => (s.regionAt p a).isNone
    | none => false)
theorem State.dmaWrite_eq (s : State) (p x : Nat) (bs : List Byte) : s.dmaWrite p x bs =
    ((s.storeBytes p 1 false (s.dmaPlaces p x bs)).fenceReport p 0xFFFFFFFFFFFF ((List.range bs.length).map (x + ·))).answer := rfl

/-- A DMA write changes memory, and what its partition reports of fences; watches may be answered. -/
theorem State.dmaWrite_frame (s : State) (p x : Nat) (bs : List Byte) : s.dmaWrite p x bs =
    { s with hbm := (s.dmaWrite p x bs).hbm, shelves := (s.dmaWrite p x bs).shelves, parts := (s.dmaWrite p x bs).parts,
             watches := (s.dmaWrite p x bs).watches } := by
  rw [State.dmaWrite_eq, State.fenceReport_frame, (State.storeBytes_memOnly p 1 (s.dmaPlaces p x bs) s).eq]
  rfl
theorem State.dmaWrite_lasts (s : State) (p x : Nat) (bs : List Byte) : s.PartsLast (s.dmaWrite p x bs) :=
  ((State.storeBytes_lasts p 1 false (s.dmaPlaces p x bs) s).trans (State.fenceReport_lasts _ _ _ _)).trans (.of_parts rfl)

theorem State.fencedX_of_shelves {s t : State} {p x : Nat} (geo : (t.part p).geo = (s.part p).geo)
    (fence : ∀ k, (t.shelf k).pcFenced = (s.shelf k).pcFenced) : t.fencedX p x = s.fencedX p x := by
  unfold State.fencedX State.isFenced
  simp only [geo, fence]
/-- One that meets no fence changes no partition. -/
theorem State.dmaWrite_parts {s : State} {p x : Nat} {bs : List Byte} (none : s.fencedByte p x bs.length = none) :
    (s.dmaWrite p x bs).parts = s.parts := by
  have stored := State.storeBytes_memOnly p 1 (s.dmaPlaces p x bs) s
  have silent : ((List.range bs.length).map (x + ·)).find? (State.fencedX (s.storeBytes p 1 false (s.dmaPlaces p x bs)) p) = .none := by
    rw [List.find?_eq_none]
    intro y hy
    obtain ⟨i, hi, rfl⟩ := List.mem_map.1 hy
    rw [State.fencedX_of_shelves (by rw [stored.part]) (fun k => State.storeBytes_fence p 1 false _ k s),
      State.fencedX_of_fencedByte_none none (List.mem_range.1 hi)]
    exact Bool.false_ne_true
  rw [State.dmaWrite_eq, State.fenceReport, silent, stored.eq]
  rfl

/-! ## Memory does not depend on what mailboxes hold -/

section
variable (s : State) (fns : List (Nat × FnState))

/-- The state with other functions. -/
def State.withFns : State := { s with fns := fns }

theorem State.shelf_withFns (k : Nat) : (s.withFns fns).shelf k = s.shelf k := rfl
theorem State.line_withFns (a : Nat) : (s.withFns fns).line a = s.line a := rfl
theorem State.part_withFns (p : Nat) : (s.withFns fns).part p = s.part p := rfl

theorem State.putHb_withFns (a : Nat) (b : Byte) : (s.withFns fns).putHb a b = (s.putHb a b).withFns fns := by
  unfold State.putHb
  rw [State.line_withFns]
  split
  · rfl
  · rfl
theorem State.writeBack_withFns (base : Nat) (l : CacheLine) : (s.withFns fns).writeBack base l = (s.writeBack base l).withFns fns := by
  rw [State.writeBack, State.writeBack, State.withFns, State.withFns]
theorem State.evict_withFns (k l : Nat) : (s.withFns fns).evict k l = (s.evict k l).withFns fns := by
  unfold State.evict
  rw [State.shelf_withFns]
  cases (s.shelf k).cache.find? (fun e => e.line == l) with
  | none => rfl
  | some v =>
    dsimp only
    rw [State.writeBack_withFns]
    rfl
theorem State.allocLine_withFns (p k l : Nat) : (s.withFns fns).allocLine p k l = (s.allocLine p k l).withFns fns := by
  unfold State.allocLine
  dsimp only
  rw [State.shelf_withFns]
  split
  · rfl
  · split
    · rfl
    · rw [State.evict_withFns]
      rfl
theorem State.storeByte_withFns (p cls a : Nat) (b : Byte) : (s.withFns fns).storeByte p cls a b = (s.storeByte p cls a b).withFns fns := by
  have fenced : (s.withFns fns).isFenced a = s.isFenced a := rfl
  unfold State.storeByte State.haveLine
  rw [fenced, State.line_withFns]
  split
  · rfl
  · split
    · rw [State.allocLine_withFns, State.putHb_withFns]
    · rw [State.putHb_withFns]
theorem State.storeTurn_withFns (p cls : Nat) (e : Nat × Byte) :
    (s.withFns fns).storeTurn p cls false e = (s.storeTurn p cls false e).withFns fns := by
  have fixed : (s.withFns fns).fixedAt p e.1 = s.fixedAt p e.1 := rfl
  unfold State.storeTurn
  rw [fixed, State.part_withFns]
  split
  · split
    · rfl
    · exact s.storeByte_withFns fns p cls _ e.2
  · rfl
theorem State.storeBytes_withFns (p cls : Nat) (es : List (Nat × Byte)) : ∀ s : State,
    (s.withFns fns).storeBytes p cls false es = (s.storeBytes p cls false es).withFns fns := by
  induction es with
  | nil => exact fun _ => rfl
  | cons e r ih =>
    intro s
    rw [State.storeBytes_cons, State.storeBytes_cons, State.storeTurn_withFns, ih]
/-- The memory that a DMA write leaves is that of its stores. -/
theorem State.dmaWrite_mem (p x : Nat) (bs : List Byte) :
    (s.dmaWrite p x bs).hbm = (s.storeBytes p 1 false (s.dmaPlaces p x bs)).hbm ∧
      (s.dmaWrite p x bs).shelves = (s.storeBytes p 1 false (s.dmaPlaces p x bs)).shelves := by
  rw [State.dmaWrite_eq, State.fenceReport_frame]
  exact ⟨rfl, rfl⟩
theorem State.dmaWrite_mem_withFns (p x : Nat) (bs : List Byte) :
    ((s.withFns fns).dmaWrite p x bs).hbm = (s.dmaWrite p x bs).hbm ∧
      ((s.withFns fns).dmaWrite p x bs).shelves = (s.dmaWrite p x bs).shelves := by
  obtain ⟨hbm, shelves⟩ := s.dmaWrite_mem p x bs
  obtain ⟨hbm', shelves'⟩ := (s.withFns fns).dmaWrite_mem p x bs
  have places : (s.withFns fns).dmaPlaces p x bs = s.dmaPlaces p x bs := rfl
  rw [hbm', shelves', hbm, shelves, places, State.storeBytes_withFns]
  exact ⟨rfl, rfl⟩

end

/-! ## MEM_COPY (R300, R420, R424) -/

theorem exec_memCopyToDevice (f : Fn) (n : Nat) (d : Option (List Byte)) (s : State) :
    exec (.memCopyToDevice f n d) s = execMemCopyToDevice f n d s := rfl
theorem exec_memCopyToHost (f : Fn) (n : Nat) (ok : Bool) (s : State) : exec (.memCopyToHost f n ok) s = execMemCopyToHost f n ok s := rfl

section
variable {f : Fn} {n : Nat} {s : State} {q : Slot}

/-- A copy to the device writes its bytes; its status says whether it met a fence. -/
theorem memCopyToDevice_writes (h : s.Carries f n (isCopy 0) q) (allowed : s.copyRefusal q.part (q.payload.take 28) = none)
    (some : Mc.bytes (q.payload.take 28) ≠ 0) (d : List Byte) :
    exec (.memCopyToDevice f n (.some d)) s = .next (((s.begun f n q).dmaWrite q.part (Mc.off (q.payload.take 28))
      (sub d 0 (Mc.bytes (q.payload.take 28)))).complete f n
        (if (s.fencedByte q.part (Mc.off (q.payload.take 28)) (Mc.bytes (q.payload.take 28))).isSome then Config.stHbmFenced
          else Config.stOk) 0 []) := by
  rw [exec_memCopyToDevice, execMemCopyToDevice]
  refine (commandIf_carries h _).trans ?_
  extract_lets b
  have begun : (s.begun f n q).copyRefusal q.part b = none := allowed
  have fenced : (s.begun f n q).fencedByte q.part (Mc.off b) (Mc.bytes b) = s.fencedByte q.part (Mc.off b) (Mc.bytes b) := rfl
  rw [begun]
  dsimp only
  rw [if_neg some, fenced]

/-- A copy to the host that meets no fence reads its bytes and sends what is visible of them. -/
theorem memCopyToHost_reads (h : s.Carries f n (isCopy 1) q) (allowed : s.copyRefusal q.part (q.payload.take 28) = none)
    (some : Mc.bytes (q.payload.take 28) ≠ 0)
    (open_ : s.fencedByte q.part (Mc.off (q.payload.take 28)) (Mc.bytes (q.payload.take 28)) = none) :
    exec (.memCopyToHost f n true) s = .next ((((s.begun f n q).loadAt q.part 1 ((List.range (Mc.bytes (q.payload.take 28))).map
      (Mc.off (q.payload.take 28) + ·))).toHost f (Mc.host (q.payload.take 28)) ((List.range (Mc.bytes (q.payload.take 28))).map
        (fun i => s.visibleX q.part (Mc.off (q.payload.take 28) + i)))).complete f n Config.stOk 0 []) := by
  have begun : (s.begun f n q).copyRefusal q.part (q.payload.take 28) = none := allowed
  have unfenced : (s.begun f n q).fencedByte q.part (Mc.off (q.payload.take 28)) (Mc.bytes (q.payload.take 28)) = none := open_
  have seen : (s.begun f n q).visibleX q.part = s.visibleX q.part := rfl
  rw [exec_memCopyToHost, execMemCopyToHost]
  refine (commandIf_carries h _).trans ?_
  simp only [begun, if_neg some, unfenced, Bool.not_true, Bool.false_eq_true, if_false, seen, List.map_map, Function.comp_def]

theorem State.irq_host (s : State) (f : Fn) (v : Nat) : (s.irq f v).out.host = s.out.host := by
  unfold State.irq
  split
  · rfl
  · rfl
/-- A completion sends nothing into host memory but the result in its slot. -/
theorem State.complete_host (s : State) (f : Fn) (n st d : Nat) (r : List Byte) : (s.complete f n st d r).out.host = s.out.host := by
  unfold State.complete
  dsimp only
  split
  · rfl
  · exact State.irq_host _ f _

end

end Sys2Proof.Machine
end

section
namespace Sys2Proof.Machine

section
variable (s : State) (f : Fn) (n st d : Nat) (r : List Byte)
theorem State.complete_cores : (s.complete f n st d r).cores = s.cores := by rw [State.complete_frame]
theorem State.complete_parts : (s.complete f n st d r).parts = s.parts := by rw [State.complete_frame]
theorem State.complete_hbm : (s.complete f n st d r).hbm = s.hbm := by rw [State.complete_frame]
theorem State.complete_shelves : (s.complete f n st d r).shelves = s.shelves := by rw [State.complete_frame]
theorem State.complete_cyc : (s.complete f n st d r).cyc = s.cyc := by rw [State.complete_frame]
theorem State.complete_chan (v : Nat) : (s.complete f n st d r).chan v = s.chan v := by
  rw [State.complete_frame]
  rfl
end

section
variable {f : Fn} {n : Nat} {s : State} {q : Slot} {x : Nat}

/-- A copy that meets no fence leaves the bytes of a DMA write, and no other change than in memory. -/
theorem memCopyToDevice_completes (h : s.Carries f n (isCopy 0) q) (allowed : s.copyRefusal q.part (q.payload.take 28) = none)
    (some : Mc.bytes (q.payload.take 28) ≠ 0)
    (open_ : s.fencedByte q.part (Mc.off (q.payload.take 28)) (Mc.bytes (q.payload.take 28)) = none) (d : List Byte) :
    ∃ t, exec (.memCopyToDevice f n (.some d)) s = .next t ∧ t.Completed f n Config.stOk [] ∧ t.cores = s.cores ∧ t.parts = s.parts ∧
      t.hbm = (s.dmaWrite q.part (Mc.off (q.payload.take 28)) (sub d 0 (Mc.bytes (q.payload.take 28)))).hbm ∧
      t.shelves = (s.dmaWrite q.part (Mc.off (q.payload.take 28)) (sub d 0 (Mc.bytes (q.payload.take 28)))).shelves := by
  have parts := State.dmaWrite_parts (s := s.begun f n q) (bs := sub d 0 (Mc.bytes (q.payload.take 28)))
    (by rw [length_sub]; exact open_)
  obtain ⟨hbm, shelves⟩ := State.dmaWrite_mem_withFns s (s.begun f n q).fns q.part (Mc.off (q.payload.take 28))
    (sub d 0 (Mc.bytes (q.payload.take 28)))
  refine ⟨_, memCopyToDevice_writes h allowed some d, ?_, ?_, ?_, ?_, ?_⟩
  · rw [open_]
    exact State.complete_completed _ _ _ _ _ _
  · rw [State.complete_cores, State.dmaWrite_frame]
    rfl
  · rw [State.complete_parts]
    exact parts
  · rw [State.complete_hbm]
    exact hbm
  · rw [State.complete_shelves]
    exact shelves

/-- One that meets a fence says so, and changes no core. -/
theorem memCopyToDevice_fenced (h : s.Carries f n (isCopy 0) q) (allowed : s.copyRefusal q.part (q.payload.take 28) = none)
    (some : Mc.bytes (q.payload.take 28) ≠ 0)
    (met : s.fencedByte q.part (Mc.off (q.payload.take 28)) (Mc.bytes (q.payload.take 28)) = .some x) (d : List Byte) :
    ∃ t, exec (.memCopyToDevice f n (.some d)) s = .next t ∧ t.Completed f n Config.stHbmFenced [] ∧ t.cores = s.cores := by
  refine ⟨_, memCopyToDevice_writes h allowed some d, ?_, ?_⟩
  · rw [met]
    exact State.complete_completed _ _ _ _ _ _
  · rw [State.complete_cores, State.dmaWrite_frame]
    rfl

/-- A copy to the host changes memory in its caches only, and adds its bytes to what host memory got. -/
theorem memCopyToHost_completes (h : s.Carries f n (isCopy 1) q) (allowed : s.copyRefusal q.part (q.payload.take 28) = none)
    (some : Mc.bytes (q.payload.take 28) ≠ 0)
    (open_ : s.fencedByte q.part (Mc.off (q.payload.take 28)) (Mc.bytes (q.payload.take 28)) = none) :
    ∃ t, exec (.memCopyToHost f n true) s = .next t ∧ t.Completed f n Config.stOk [] ∧ t.cores = s.cores ∧ t.parts = s.parts ∧
      (s.CachesOk → ∀ a, t.hb a = s.hb a) ∧ t.out.host = s.out.host ++ [(f.port, Mc.host (q.payload.take 28),
        (List.range (Mc.bytes (q.payload.take 28))).map (fun i => s.visibleX q.part (Mc.off (q.payload.take 28) + i)))] := by
  obtain ⟨m, k, loaded⟩ := (State.loadAt_spec q.part 1
    ((List.range (Mc.bytes (q.payload.take 28))).map (Mc.off (q.payload.take 28) + ·)) (s.begun f n q)).1
  refine ⟨_, memCopyToHost_reads h allowed some open_, State.complete_completed _ _ _ _ _ _, ?_, ?_, ?_, ?_⟩
  · rw [State.complete_cores, loaded]
    rfl
  · rw [State.complete_parts, loaded]
    rfl
  · intro ok a
    rw [State.complete_hb]
    exact (State.loadAt_hb q.part 1 _ (s := s.begun f n q) ok).2 a
  · rw [State.complete_host, loaded]
    rfl

end

end Sys2Proof.Machine
end

section
namespace Sys2Proof.Machine

/-! ## TABLE_RELOAD without ARM (R363, R364) -/

theorem Core.bank_setBank (k : Core) (t : Nat) (b : Bank) : (k.setBank t b).bank t = b := by
  unfold Core.setBank Core.bank
  split
  · rfl
  · split
    · rfl
    · rfl
theorem Core.setBank_setBank (k : Core) (t : Nat) (a b : Bank) : (k.setBank t a).setBank t b = k.setBank t b := by
  unfold Core.setBank
  split
  · rfl
  · split
    · rfl
    · rfl
theorem Core.setBank_seq (k : Core) (t : Nat) (b : Bank) : (k.setBank t b).seq = k.seq := by
  unfold Core.setBank
  split
  · rfl
  · split
    · rfl
    · rfl
theorem Bank.fill_fill (b : Bank) (side : Nat) (d : List Byte) : (b.fill side d).fill side d = b.fill side d := by
  unfold Bank.fill
  split
  · rfl
  · rfl

/-- A core whose side of a table has been filled. -/
def Core.filled (t side : Nat) (d : List Byte) (k : Core) : Core := k.setBank t ((k.bank t).fill side d)
theorem Core.filled_filled (t side : Nat) (d : List Byte) (k : Core) : (k.filled t side d).filled t side d = k.filled t side d := by
  unfold Core.filled
  rw [Core.bank_setBank, Core.setBank_setBank, Bank.fill_fill]

section
variable (s : State) (p : Nat) (b d : List Byte)

theorem State.reloadCores_fills (unarmed : Tr.arm b = false) : s.reloadCores p b d =
    (geoCores (s.part p).geo).foldl (fun s c => s.updCore c (Core.filled (Tr.table b) (Tr.side b) d)) s := by
  unfold State.reloadCores
  simp only [unarmed, Bool.not_false, if_true]
  rfl
/-- Every core of the partition has the bytes in the side; its sequencer goes on. -/
theorem State.reloadCores_core (unarmed : Tr.arm b = false) {c : Nat} (own : c ∈ geoCores (s.part p).geo) :
    ((s.reloadCores p b d).core c).bank (Tr.table b) = ((s.core c).bank (Tr.table b)).fill (Tr.side b) d ∧
      ((s.reloadCores p b d).core c).seq = (s.core c).seq := by
  rw [s.reloadCores_fills p b d unarmed, State.core_foldl_updCore_idem (Core.filled_filled _ _ _), if_pos own]
  exact ⟨Core.bank_setBank _ _ _, Core.setBank_seq _ _ _⟩
theorem State.reloadCores_hbm : (s.reloadCores p b d).hbm = s.hbm := foldl_keeps State.hbm (fun _ _ => by rfl) _ s
theorem State.reloadCores_cyc : (s.reloadCores p b d).cyc = s.cyc := foldl_keeps State.cyc (fun _ _ => by rfl) _ s
/-- The cyclic table has the bytes in the side, and no other change. -/
theorem State.reloadCyclic_fills (unarmed : Tr.arm b = false) : ∃ y, s.reloadCyclic b d = { s with cyc := y } ∧ y.side = s.cyc.side ∧
    (if Tr.side b = 0 then y.s0 else y.s1) = d ∧ (if Tr.side b = 0 then y.s1 = s.cyc.s1 else y.s0 = s.cyc.s0) := by
  unfold State.reloadCyclic
  by_cases first : Tr.side b = 0
  · simp only [unarmed, if_pos first]
    exact ⟨_, rfl, rfl, rfl, rfl⟩
  · simp only [unarmed, if_neg first]
    exact ⟨_, rfl, rfl, rfl, rfl⟩

end

/-- A core that was never written has the special functions that firmware keeps; a journal entry leaves them. -/
theorem State.jDo_core (s : State) (f : Fn) (q : Slot) (c : Nat) : (s.jDo f q).core c = s.core c := by
  have table : (s.jDo f q).fw.sft = s.fw.sft := by
    change (s.fw.append _).sft = s.fw.sft
    rcases s.fw.append_cases _ with ⟨-, e⟩ | ⟨-, _, _, e⟩
    · rw [e]
    · rw [e]
  have default : (s.jDo f q).coreDefault = s.coreDefault := by
    unfold State.coreDefault
    rw [table]
    rfl
  unfold State.core
  rw [default]
  rfl

section
variable {f : Fn} {n : Nat} {s : State} {q : Slot} {img : List Byte}

theorem exec_tableReload (f : Fn) (n : Nat) (d : Option (List Byte)) (s : State) :
    exec (.tableReload f n d) s = execTableReload f n d s := rfl

/-- A reload that nothing refuses fills the named side. -/
theorem tableReload_fills (h : s.Carries f n (isCmd 0x0206) q) (long : 32 ≤ q.len) (fields : Tr.bad (q.payload.take 32) = false)
    (free : s.sideBusy q.part (q.payload.take 32) = false) (some : Tr.bytes (q.payload.take 32) ≠ 0)
    (allowed : s.reloadRefusal q.part (q.payload.take 32) (sub img 0 (Tr.bytes (q.payload.take 32))) = none) :
    exec (.tableReload f n (.some img)) s = .next (if Tr.table (q.payload.take 32) = 3
      then ((s.begun f n q).reloadCyclic (q.payload.take 32) (sub img 0 (Tr.bytes (q.payload.take 32)))).complete f n Config.stOk 0 []
      else (((s.begun f n q).reloadCores q.part (q.payload.take 32) (sub img 0 (Tr.bytes (q.payload.take 32)))).jDo f q).complete
        f n Config.stOk 0 []) := by
  have free' : (s.begun f n q).sideBusy q.part (q.payload.take 32) = false := free
  have allowed' : (s.begun f n q).reloadRefusal q.part (q.payload.take 32) (sub img 0 (Tr.bytes (q.payload.take 32))) = none := allowed
  rw [exec_tableReload, execTableReload]
  refine (command_carries h _).trans ?_
  simp only [if_neg (Nat.not_lt.2 long), fields, free', Bool.false_eq_true, if_false, if_neg some, allowed']

theorem tableReload_cyclic (h : s.Carries f n (isCmd 0x0206) q) (long : 32 ≤ q.len) (fields : Tr.bad (q.payload.take 32) = false)
    (free : s.sideBusy q.part (q.payload.take 32) = false) (some : Tr.bytes (q.payload.take 32) ≠ 0)
    (allowed : s.reloadRefusal q.part (q.payload.take 32) (sub img 0 (Tr.bytes (q.payload.take 32))) = none)
    (unarmed : Tr.arm (q.payload.take 32) = false) (cyclic : Tr.table (q.payload.take 32) = 3) :
    ∃ t, exec (.tableReload f n (.some img)) s = .next t ∧ t.Completed f n Config.stOk [] ∧ t.hbm = s.hbm ∧ t.cores = s.cores ∧
      t.cyc.side = s.cyc.side ∧
      (if Tr.side (q.payload.take 32) = 0 then t.cyc.s0 else t.cyc.s1) = sub img 0 (Tr.bytes (q.payload.take 32)) ∧
      (if Tr.side (q.payload.take 32) = 0 then t.cyc.s1 = s.cyc.s1 else t.cyc.s0 = s.cyc.s0) := by
  obtain ⟨y, filled, side, image, other⟩ := (s.begun f n q).reloadCyclic_fills (q.payload.take 32)
    (sub img 0 (Tr.bytes (q.payload.take 32))) unarmed
  refine ⟨_, (tableReload_fills h long fields free some allowed).trans (by rw [if_pos cyclic, filled]),
    State.complete_completed _ _ _ _ _ _, ?_, ?_, ?_, ?_, ?_⟩
  · exact State.complete_hbm _ _ _ _ _ _
  · exact State.complete_cores _ _ _ _ _ _
  · rw [State.complete_cyc]
    exact side
  · rw [State.complete_cyc]
    exact image
  · rw [State.complete_cyc]
    exact other

theorem tableReload_cores (h : s.Carries f n (isCmd 0x0206) q) (long : 32 ≤ q.len) (fields : Tr.bad (q.payload.take 32) = false)
    (free : s.sideBusy q.part (q.payload.take 32) = false) (some : Tr.bytes (q.payload.take 32) ≠ 0)
    (allowed : s.reloadRefusal q.part (q.payload.take 32) (sub img 0 (Tr.bytes (q.payload.take 32))) = none)
    (unarmed : Tr.arm (q.payload.take 32) = false) (table : Tr.table (q.payload.take 32) ≠ 3) :
    ∃ t, exec (.tableReload f n (.some img)) s = .next t ∧ t.Completed f n Config.stOk [] ∧ t.hbm = s.hbm ∧ t.cyc = s.cyc ∧
      ∀ c, c ∈ geoCores (s.part q.part).geo →
        (t.core c).bank (Tr.table (q.payload.take 32)) = ((s.core c).bank (Tr.table (q.payload.take 32))).fill
          (Tr.side (q.payload.take 32)) (sub img 0 (Tr.bytes (q.payload.take 32))) ∧ (t.core c).seq = (s.core c).seq := by
  refine ⟨_, (tableReload_fills h long fields free some allowed).trans (by rw [if_neg table]),
    State.complete_completed _ _ _ _ _ _, ?_, ?_, fun c own => ?_⟩
  · exact (State.complete_hbm _ _ _ _ _ _).trans (State.reloadCores_hbm _ _ _ _)
  · exact (State.complete_cyc _ _ _ _ _ _).trans (State.reloadCores_cyc _ _ _ _)
  · rw [State.complete_core, State.jDo_core]
    exact State.reloadCores_core (s.begun f n q) q.part _ _ unarmed own

end

end Sys2Proof.Machine
end

section
namespace Sys2Proof.Machine

/-- What a turn of a fold settles for its own element, and no turn undoes, holds for every element of the list. -/
theorem foldl_settles {σ β : Type} {P : β → σ → Prop} {f : σ → β → σ} (sets : ∀ s b, P b (f s b)) (keeps : ∀ s b c, P c s → P c (f s b))
    (b : β) (l : List β) : ∀ s, b ∈ l ∨ P b s → P b (l.foldl f s) := by
  induction l with
  | nil => exact fun s h => h.resolve_left List.not_mem_nil
  | cons e r ih =>
    intro s h
    refine ih _ ?_
    rcases h with own | holds
    · rcases List.mem_cons.1 own with rfl | later
      · exact .inr (sets s _)
      · exact .inl later
    · exact .inr (keeps s e b holds)

/-! ## RUN (R119, R208, R422) -/

/-- Copied inputs leave the partitions as memory writes do, every core, and every mailbox. -/
theorem State.copyInputs_keeps (s : State) (p : Nat) (refs : List (Nat × Nat × Bool × Nat)) (data : List (List Byte)) :
    s.PartsLast (s.copyInputs p refs data) ∧ (s.copyInputs p refs data).cores = s.cores ∧ (s.copyInputs p refs data).fns = s.fns :=
  ⟨.foldl (fun t e => t.dmaWrite_lasts p _ _) _ s,
    foldl_keeps State.cores (fun t e => by rw [t.dmaWrite_frame]) _ s,
    foldl_keeps State.fns (fun t e => by rw [t.dmaWrite_frame]) _ s⟩

/-- The command joins the queue; nothing else changes. -/
theorem State.enqueue_part (s : State) (f : Fn) (n : Nat) (q : Slot) : (s.enqueue f n q).part q.part = { s.part q.part with
    job := { (s.part q.part).job with requests := (s.part q.part).job.requests ++
      [{ fn := f, slot := n, cmd := q.cmd, post := q.postDtb, payload := q.payload.take q.len }] } } :=
  State.part_updJob_self _ _ _

section
variable (s : State) (p : Nat)

/-- Each core of a starting image runs from the beginning. -/
def State.startCores : State := (s.imageCores p).foldl (fun s c => s.updCore c (fun k => { k with
  banksDue := false, tally := addAt k.tally 0x1002 1, seq := { winM1 := k.seq.winM1, run := 1, voteAt := (s.part p).job.votes } })) s
theorem State.startCores_parts : (s.startCores p).parts = s.parts := foldl_keeps State.parts (fun _ _ => by rfl) _ s
theorem State.startCores_fns : (s.startCores p).fns = s.fns := foldl_keeps State.fns (fun _ _ => by rfl) _ s
theorem State.startCores_run {c : Nat} (own : c ∈ s.imageCores p) : ((s.startCores p).core c).seq.run = 1 := by
  refine foldl_settles (P := fun c t => (State.core t c).seq.run = 1) (fun t b => ?_) (fun t b c runs => ?_) c _ s (.inl own)
  · rw [State.core_updCore_self]
  · by_cases same : c = b
    · rw [same, State.core_updCore_self]
    · rw [State.core_updCore_other _ _ same]
      exact runs

theorem State.startImage_of_started (started : (s.part p).job.started = true) : s.startImage p = s := by
  unfold State.startImage
  simp [started]
theorem State.startImage_starts (fresh : (s.part p).job.started = false) (sound : (s.part p).job.stopped = false) :
    s.startImage p = (s.startCores p).updJob p (fun j => { j with started := true, running := true }) := by
  unfold State.startImage
  rw [fresh, sound]
  rfl
/-- Starting an image changes no mailbox, and nothing of the request queue. -/
theorem State.startImage_keeps : (s.startImage p).fns = s.fns ∧
    ((s.startImage p).part p).job.requests = (s.part p).job.requests := by
  by_cases starts : (s.part p).job.started = false ∧ (s.part p).job.stopped = false
  · rw [s.startImage_starts p starts.1 starts.2, State.part_updJob_self]
    unfold State.part
    rw [s.startCores_parts]
    exact ⟨s.startCores_fns p, rfl⟩
  · have stays : s.startImage p = s := by
      unfold State.startImage
      rw [if_pos (by simpa [imp_iff_not_or] using starts)]
    rw [stays]
    exact ⟨rfl, rfl⟩

end

/-- A command that has begun waits while its mailbox is not written. -/
theorem State.Carries.waits {s t : State} {f : Fn} {n : Nat} {is : Slot → Bool} {q : Slot} (h : s.Carries f n is q)
    (fns : t.fns = (s.begun f n q).fns) : t.Waits f n := by
  have slot : t.slot f n = { q with begun := true } := by
    rw [← s.begun_slot f n q]
    unfold State.slot State.fn
    rw [fns]
  obtain ⟨-, post, ack, done, -⟩ := h.slot_eq
  exact ⟨by rw [slot]; exact post, by rw [slot]; exact ack, by rw [slot], by rw [slot]; exact done⟩

section
variable {f : Fn} {n : Nat} {s : State} {q : Slot} {im : Image} {data : List (List Byte)}

theorem exec_run (f : Fn) (n : Nat) (data : Option (List (List Byte))) (s : State) : exec (.run f n data) s = execRun f n data s := rfl

/-- The state in which the image starts: the inputs stand in memory and the command in the queue. -/
def State.runQueued (s : State) (f : Fn) (n : Nat) (q : Slot) (data : List (List Byte)) : State :=
  ((s.begun f n q).copyInputs q.part (runRefs (q.payload.take q.len)) data).enqueue f n q

theorem run_queues (h : s.Carries f n (isCmd 0x0202) q) (image : (s.part q.part).image = some im)
    (allowed : (s.begun f n q).runRefusal q.part im (q.payload.take q.len) = none) :
    exec (.run f n (some data)) s = .next ((s.runQueued f n q data).startImage q.part) := by
  have image' : ((s.begun f n q).part q.part).image = some im := image
  rw [exec_run, execRun]
  refine (command_carries h _).trans ?_
  simp only [image', allowed]
  rfl

/-- Its partition, but for the queue, is as memory writes leave it; no core and no mailbox changes. -/
theorem State.runQueued_keeps (s : State) (f : Fn) (n : Nat) (q : Slot) (data : List (List Byte)) :
    (s.runQueued f n q data).cores = s.cores ∧ (s.runQueued f n q data).fns = (s.begun f n q).fns ∧
    (∃ x, (s.part q.part).Lasts x ∧ (s.runQueued f n q data).part q.part = { x with job := { x.job with requests := x.job.requests ++
      [{ fn := f, slot := n, cmd := q.cmd, post := q.postDtb, payload := q.payload.take q.len }] } }) := by
  obtain ⟨lasts, cores, fns⟩ := (s.begun f n q).copyInputs_keeps q.part (runRefs (q.payload.take q.len)) data
  exact ⟨cores, fns, _, lasts q.part, State.enqueue_part _ _ _ _⟩

theorem run_completes (h : s.Carries f n (isCmd 0x0202) q) (image : (s.part q.part).image = some im)
    (allowed : (s.begun f n q).runRefusal q.part im (q.payload.take q.len) = none) :
    ∃ t, exec (.run f n (some data)) s = .next t ∧ t.Waits f n ∧
      (t.part q.part).job.requests = (s.part q.part).job.requests ++
        [{ fn := f, slot := n, cmd := q.cmd, post := q.postDtb, payload := q.payload.take q.len }] ∧
      ((s.part q.part).job.started = true → t.cores = s.cores) ∧
      ((s.part q.part).job.started = false → (s.part q.part).job.stopped = false →
        (t.part q.part).job.started = true ∧ (t.part q.part).job.running = true ∧
        ∀ c, c ∈ s.imageCores q.part → (t.core c).seq.run = 1) := by
  obtain ⟨cores, fns, x, lasts, part⟩ := s.runQueued_keeps f n q data
  obtain ⟨more, job⟩ := lasts.job
  obtain ⟨fns', requests⟩ := (s.runQueued f n q data).startImage_keeps q.part
  have same : (s.runQueued f n q data).imageCores q.part = s.imageCores q.part :=
    State.imageCores_congr (by rw [part]; exact lasts.image) (by rw [part]; exact lasts.geo)
  refine ⟨_, run_queues h image allowed, h.waits (fns'.trans fns), ?_, fun started => ?_, fun fresh sound => ?_⟩
  · rw [requests, part, job]
  · rw [State.startImage_of_started _ _ (by rw [part, job]; exact started), cores]
  · rw [State.startImage_starts _ _ (by rw [part, job]; exact fresh) (by rw [part, job]; exact sound), State.part_updJob_self]
    refine ⟨rfl, rfl, fun c own => ?_⟩
    rw [State.updJob_core]
    exact State.startCores_run _ _ (by rw [same]; exact own)

end

end Sys2Proof.Machine
end

section
namespace Sys2Proof.Machine

/-! ## What a commit that applies at a unit leaves (R478 to R480) -/

/-- The end of a commit changes the commit, the firmware's state, the power state and the mailboxes. -/
theorem State.closeCommit_frame (s : State) (last : List Byte) : ∃ c w p g o,
    s.closeCommit last = { s with commit := c, fw := w, power := p, fns := g, out := o } := by
  unfold State.closeCommit
  dsimp only
  split
  · rw [State.completeIf_frame]
    split
    · rw [State.event_frame]
      split <;> exact ⟨_, _, _, _, _, rfl⟩
    · split <;> exact ⟨_, _, _, _, _, rfl⟩
  · split
    · rw [State.event_frame]
      split <;> exact ⟨_, _, _, _, _, rfl⟩
    · split <;> exact ⟨_, _, _, _, _, rfl⟩

/-- What neither a staged value nor the end of a commit changes, no released unit changes. -/
theorem State.releaseUnits_keeps {α : Type} (π : State → α) (staged : ∀ t v, π (State.applyStaged t v) = π t)
    (rest : ∀ (t : State) c w p g o, π { t with commit := c, fw := w, power := p, fns := g, out := o } = π t) (s : State) :
    π s.releaseUnits = π s := by
  have closes (t : State) (last : List Byte) : π (t.closeCommit last) = π t := by
    obtain ⟨c, w, p, g, o, e⟩ := t.closeCommit_frame last
    rw [e, rest]
  unfold State.releaseUnits State.applyDue
  extract_lets parts later here applied own committed
  have waits : π committed = π s := (rest applied _ applied.fw applied.power applied.fns applied.out).trans
    (foldl_keeps π (fun t e => staged t e.2) parts s)
  split
  · rfl
  · split
    · exact (closes _ _).trans waits
    · exact waits

/-- A partition but for its isolation registers. -/
def State.partBody (s : State) (p : Nat) : Partition := { s.part p with geo := {} }

theorem State.reroute_body (s : State) (g : Geometry) (p : Nat) : (s.reroute g).partBody p = s.partBody p := by
  rw [State.reroute_frame]
  rfl
theorem State.moveCores_body (s old : State) (p : Nat) (im : Image) (r : Nat) : (s.moveCores old p im).partBody r = s.partBody r := by
  rw [State.moveCores_frame]
  rfl
theorem State.applyPart_body (s : State) (r : List Byte) (p : Nat) : (s.applyPart r).partBody p = s.partBody p := by
  have writes (y : Partition → Geometry) : (s.updPart (Pr.part r) (fun x => { x with geo := y x })).partBody p = s.partBody p := by
    unfold State.partBody
    rw [State.part_updPart]
    split
    · rename_i own
      rw [own]
    · rfl
  unfold State.applyPart
  dsimp only
  split
  · split
    · exact (State.moveCores_body _ _ _ _ _).trans ((State.reroute_body _ _ _).trans (writes _))
    · exact (State.reroute_body _ _ _).trans (writes _)
  · exact (State.reroute_body _ _ _).trans (writes _)
theorem State.timeRefresh_body (s : State) (p : Nat) : s.timeRefresh.partBody p = s.partBody p := rfl
theorem State.timeRefresh_chans (s : State) : s.timeRefresh.chans = s.chans := rfl
theorem State.recheckPorts_body (s : State) (p : Nat) : s.recheckPorts.partBody p = s.partBody p :=
  s.recheckPorts_keeps (fun t => t.partBody p) (fun _ _ _ => rfl) (fun _ _ _ _ _ => rfl) (fun t e => by
    rw [State.event_frame]
    rfl)
theorem State.recheckPorts_chans (s : State) : s.recheckPorts.chans = s.chans :=
  s.recheckPorts_keeps State.chans (fun _ _ _ => rfl) (fun _ _ _ _ _ => rfl) (fun t e => by rw [State.event_frame])
theorem State.applyStaged_body (s : State) (v : Staged) (p : Nat) : (s.applyStaged v).partBody p = s.partBody p := by
  cases v with
  | position v =>
    rw [State.applyStaged, State.timeRefresh_body, State.recheckPorts_body]
    rfl
  | timeCfg v | portCtl k v =>
    rw [State.applyStaged, State.timeRefresh_body]
    rfl
  | part r => exact s.applyPart_body r p
  | ways k r =>
    rw [State.applyStaged, State.applyWays_frame]
    rfl
  | cyclic side =>
    rw [State.applyStaged]
    split
    · rfl
    · rfl
  | powerCap v | leakShutdown v | equaliser k v | timing k v =>
    rw [State.applyStaged]
    rfl
theorem State.applyStaged_chans (s : State) (v : Staged) : (s.applyStaged v).chans = s.chans := by
  cases v with
  | position v => rw [State.applyStaged, State.timeRefresh_chans, State.recheckPorts_chans]
  | timeCfg v => rw [State.applyStaged, State.timeRefresh_chans]
  | portCtl k v =>
    rw [State.applyStaged, State.timeRefresh_chans]
    rfl
  | part r => rw [State.applyStaged, State.applyPart_frame]
  | ways k r => rw [State.applyStaged, State.applyWays_frame]
  | cyclic side =>
    rw [State.applyStaged]
    split
    · rfl
    · rfl
  | powerCap v | leakShutdown v => rw [State.applyStaged]
  | equaliser k v | timing k v =>
    rw [State.applyStaged]
    rfl
theorem State.releaseUnits_body (s : State) (p : Nat) : s.releaseUnits.partBody p = s.partBody p :=
  State.releaseUnits_keeps (fun t => t.partBody p) (fun t v => t.applyStaged_body v p) (fun _ _ _ _ _ _ => rfl) s
theorem State.releaseUnits_chans (s : State) : s.releaseUnits.chans = s.chans :=
  State.releaseUnits_keeps State.chans State.applyStaged_chans (fun _ _ _ _ _ _ => rfl) s
theorem State.chan_of_chans {s t : State} (h : t.chans = s.chans) (v : Nat) : t.chan v = s.chan v := by
  unfold State.chan
  rw [h]

/-! ## RETIRE (R249) -/

theorem State.updPart_chan (s : State) (p : Nat) (f : Partition → Partition) (v : Nat) : (s.updPart p f).chan v = s.chan v := rfl
theorem State.setGrps_chan (s : State) (p v : Nat) (l : List Nat) : (l.foldl (fun s g => s.setGrp p g {}) s).chan v = s.chan v :=
  foldl_keeps (fun t : State => t.chan v) (fun _ _ => by rfl) l s
theorem State.updShelves_chan (s : State) (f : Nat → Shelf → Shelf) (v : Nat) (l : List Nat) :
    (l.foldl (fun s k => s.updShelf k (f k)) s).chan v = s.chan v :=
  foldl_keeps (fun t : State => t.chan v) (fun _ _ => by rfl) l s
/-- A list of channels is released. -/
theorem State.release_unbound (s : State) {l : List Nat} {v : Nat} (own : v ∈ l) :
    ((l.foldl (fun s v => s.updChan v Channel.release) s).chan v).bound = false := by
  refine foldl_settles (P := fun v t => (State.chan t v).bound = false) (fun t b => ?_) (fun t b c free => ?_) v l s (.inl own)
  · rw [State.updChan, State.chan_setChan, if_pos rfl]
    rfl
  · rw [State.updChan, State.chan_setChan]
    split
    · rfl
    · exact free

/-- Retiring an image leaves its partition without one and without requests, and its channels unbound. -/
theorem State.retireImage_retires {s : State} {p : Nat} {im : Image} (image : (s.part p).image = some im) (status : Nat) :
    ((s.retireImage p status).part p).image = none ∧ ((s.retireImage p status).part p).job.requests = [] ∧
      ∀ v, v ∈ im.chans → ((s.retireImage p status).chan v).bound = false := by
  unfold State.retireImage
  rw [image]
  dsimp only
  generalize List.foldl (fun s c => State.updCore s c Core.endImage) _ _ = s2
  refine ⟨?_, ?_, fun v own => ?_⟩
  · refine (congrArg Partition.image (State.releaseUnits_body _ p)).trans ?_
    rw [State.partBody, State.part_updPart_self]
  · refine (congrArg (fun x => x.job.requests) (State.releaseUnits_body _ p)).trans ?_
    rw [State.partBody, State.part_updPart_self]
  · rw [State.chan_of_chans (State.releaseUnits_chans _)]
    refine (congrArg Channel.bound ?_).trans (s2.release_unbound own)
    rw [State.updPart_chan, State.updShelves_chan, State.setGrps_chan]

section
variable {f : Fn} {n : Nat} {s : State} {q : Slot} {im : Image}

theorem exec_retire (f : Fn) (n : Nat) (s : State) : exec (.retire f n) s = execRetire f n s := rfl

theorem retire_completes (h : s.Carries f n (isCmd 0x0203) q) (image : (s.part q.part).image = some im) :
    ∃ t, exec (.retire f n) s = .next t ∧ t.Completed f n Config.stOk [] ∧ (t.part q.part).image = none ∧
      (t.part q.part).job.requests = [] ∧ ∀ v, v ∈ im.chans → (t.chan v).bound = false := by
  have image' : ((s.begun f n q).part q.part).image = some im := image
  obtain ⟨none, empty, unbound⟩ := State.retireImage_retires image' Config.stNoImage
  rw [exec_retire, execRetire]
  refine ⟨_, (command_carries h _).trans (by rw [image', Option.isNone_some, if_neg Bool.false_ne_true]),
    State.complete_completed _ _ _ _ _ _, ?_, ?_, fun v own => ?_⟩
  · rw [State.complete_part]
    exact none
  · rw [State.complete_part]
    exact empty
  · rw [State.complete_chan]
    exact unbound v own

end

end Sys2Proof.Machine
end

section
namespace Sys2Proof.Machine

/-! ## Entries of region tables (R258) -/

theorem State.storeRun_cores (p : Nat) (bs : List Byte) : ∀ (s : State) (a : Nat), (s.storeRun p a bs).cores = s.cores := by
  induction bs with
  | nil => exact fun _ _ => rfl
  | cons b r ih =>
    intro s a
    rw [State.storeRun, ih, (State.storeByte_spec _ p 1 a b).1.eq, State.calve_frame]
theorem State.storeF_cores (s : State) (p a : Nat) (bs : List Byte) : (s.storeF p a bs).cores = s.cores := by
  unfold State.storeF
  extract_lets t
  split
  · exact State.storeRun_cores p bs s a
  · exact State.storeRun_cores p bs s a

section
variable (s : State) (p : Nat) (rs : List Region)

/-- An entry written into its shelf's table, with the records of a sum zeroed. -/
def State.putRegion (r : Region) : State :=
  let s1 := s.updShelf (r.group / 8) (fun x => x.addRegion { r with owner := p, valid := true }.bytes)
  if r.op = 4 then s1.storeF p (r.recAt 0) (List.replicate (64 * (r.size / max 1 r.elemBytes)) 0)
  else if r.op = 5 then s1.storeF p (r.ordAt 0) (List.replicate (ceilDiv (16 + 4 * r.expect) 64 * 64 * (r.size / max 1 r.elemBytes)) 0)
  else s1

theorem State.putRegion_lasts (r : Region) : s.PartsLast (s.putRegion p r) := by
  unfold State.putRegion
  extract_lets s1
  have entered : s.PartsLast s1 := .of_parts rfl
  split
  · exact entered.trans (s1.storeF_lasts _ _ _)
  · split
    · exact entered.trans (s1.storeF_lasts _ _ _)
    · exact entered
theorem State.putRegion_cores (r : Region) : (s.putRegion p r).cores = s.cores := by
  unfold State.putRegion
  extract_lets s1
  split
  · exact s1.storeF_cores _ _ _
  · split
    · exact s1.storeF_cores _ _ _
    · rfl
/-- Only sums have records to zero. -/
theorem State.putRegion_hbm {r : Region} (plain : r.op ≠ 4 ∧ r.op ≠ 5) : (s.putRegion p r).hbm = s.hbm := by
  unfold State.putRegion
  rw [if_neg plain.1, if_neg plain.2]
  rfl
theorem State.putRegions_lasts : s.PartsLast (s.putRegions p rs) := .foldl (fun t r => t.putRegion_lasts p r) rs s
theorem State.putRegions_cores : (s.putRegions p rs).cores = s.cores := foldl_keeps State.cores (fun t r => t.putRegion_cores p r) rs s
theorem State.putRegions_hbm (plain : ∀ r, r ∈ rs → r.op ≠ 4 ∧ r.op ≠ 5) : (s.putRegions p rs).hbm = s.hbm :=
  foldl_keeps_mem State.hbm (fun t r own => t.putRegion_hbm p (plain r own)) s

end

/-! ## What modules tell each other (R290, R304) -/

section
variable (s : State) (p : Nat)

/-- The state but its ports and the count of free values. -/
def State.behindPorts : State := { s with ports := [], freeCtr := 0 }

theorem State.tick_behind : s.tick.behindPorts = s.behindPorts := rfl
theorem State.outMaps_behind (im : Image) (es : List Nat) : (s.outMaps im es).behindPorts = s.behindPorts := by
  rw [State.outMaps, State.tick_behind]
  refine foldl_keeps State.behindPorts (fun t k => ?_) (List.range 16) s
  split
  · split
    · rfl
    · rfl
  · rfl
theorem State.tell_behind : (s.tell p).behindPorts = s.behindPorts := by
  unfold State.tell
  split
  · exact foldl_keeps State.behindPorts (fun _ _ => by rfl) _ s
  · rfl
theorem State.hearTell_behind (k : Nat) (b : List Byte) : (s.hearTell k b).behindPorts = s.behindPorts := by
  unfold State.hearTell
  split
  · rfl
  · refine foldl_keeps State.behindPorts (fun t p => ?_) (List.range 16) s
    split
    · split
      · rfl
      · rfl
    · rfl
theorem State.hearAll_behind : (s.hearAll p).behindPorts = s.behindPorts := by
  unfold State.hearAll
  refine foldl_keeps State.behindPorts (fun t k => ?_) _ s
  exact foldl_keeps State.behindPorts (fun u (m : Nat × List Byte) => u.hearTell_behind k m.2) _ t

end

theorem State.cores_of_behind {s t : State} (h : t.behindPorts = s.behindPorts) : t.cores = s.cores := (congrArg State.cores h :)
theorem State.hbm_of_behind {s t : State} (h : t.behindPorts = s.behindPorts) : t.hbm = s.hbm := (congrArg State.hbm h :)
theorem State.part_of_behind {s t : State} (h : t.behindPorts = s.behindPorts) (p : Nat) : t.part p = s.part p :=
  (congrArg (fun u => State.part u p) h :)

/-! ## BIND (R299, R303, R466) -/

section
variable {f : Fn} {n : Nat} {s : State} {q : Slot} {im : Image}

theorem State.jDo_part (s : State) (f : Fn) (q : Slot) (p : Nat) : (s.jDo f q).part p = s.part p := rfl
theorem exec_bind (f : Fn) (n : Nat) (s : State) : exec (.bind f n) s = execBind f n s := rfl

/-- The rank table of a BIND's payload. -/
def bindRanks (im : Image) (q : Slot) : List Nat := (List.range (tpModules im.bytes)).map (fun i => fld q.payload (2 * i) 2)
/-- A bound partition: it has its rank table, and no rank is absent. -/
def Partition.bound (ts : List Nat) (x : Partition) : Partition := { x with
  ranks := some ts
  rcv := { x.rcv with
    absent := none
    lost := none
    state := if x.rcv.state = 5 then (if x.rcv.points.any (·.isCkpt) then 1 else 4) else x.rcv.state
    replaced := x.rcv.replaced || x.rcv.state == 5 } }
/-- The entries of a bind that its shelves do not hold yet. -/
def State.bindDue (s : State) (p : Nat) (im : Image) : List Region := (bindRegions (s.part p).geo im).filter (fun r =>
  !(s.shelf (r.group / 8)).regions.contains { r with owner := p, valid := true }.bytes)
/-- The partition is bound and its entries are written. -/
def State.boundWith (s : State) (im : Image) (q : Slot) : State :=
  (s.updPart q.part (Partition.bound (bindRanks im q))).putRegions q.part (s.bindDue q.part im)

/-- The peers' ports are mapped and told, and what they told is heard. -/
def State.exchanged (s : State) (p : Nat) (im : Image) (es : List Nat) : State := ((s.outMaps im es).tell p).hearAll p
theorem State.exchanged_behind (s : State) (p : Nat) (im : Image) (es : List Nat) : (s.exchanged p im es).behindPorts = s.behindPorts :=
  (State.hearAll_behind _ _).trans ((State.tell_behind _ _).trans (State.outMaps_behind _ _ _))

theorem bind_binds (h : s.Carries f n (isCmd 0x0201) q) (image : (s.part q.part).image = some im)
    (allowed : (s.begun f n q).bindRefusal im (s.part q.part).job.running q = none) :
    exec (.bind f n) s = .next (((((s.begun f n q).boundWith im q).exchanged q.part im (bindRanks im q)).jDo f q).complete
      f n Config.stOk 0 []) := by
  have image' : ((s.begun f n q).part q.part).image = some im := image
  have allowed' : (s.begun f n q).bindRefusal im ((s.begun f n q).part q.part).job.running q = none := allowed
  rw [exec_bind, execBind]
  refine (command_carries h _).trans ?_
  simp only [image', allowed']
  rfl

/-- What lasts of a bound partition. -/
theorem Partition.Lasts.bound {ts : List Nat} {x y : Partition} (h : (x.bound ts).Lasts y) : y.rcv.absent = none ∧ y.ranks = some ts := by
  obtain ⟨_, _, _, _, rfl⟩ := h
  exact ⟨rfl, rfl⟩
theorem State.boundWith_part (s : State) (im : Image) (q : Slot) :
    ((s.part q.part).bound (bindRanks im q)).Lasts ((s.boundWith im q).part q.part) := by
  have lasts := State.putRegions_lasts (s.updPart q.part (Partition.bound (bindRanks im q))) q.part (s.bindDue q.part im) q.part
  rw [State.part_updPart_self] at lasts
  exact lasts
theorem State.boundWith_cores (s : State) (im : Image) (q : Slot) : (s.boundWith im q).cores = s.cores := State.putRegions_cores _ _ _
theorem State.boundWith_hbm (s : State) (im : Image) (q : Slot)
    (plain : ∀ r, r ∈ bindRegions (s.part q.part).geo im → r.op ≠ 4 ∧ r.op ≠ 5) : (s.boundWith im q).hbm = s.hbm :=
  State.putRegions_hbm _ _ _ (fun r own => plain r (List.mem_of_mem_filter own))

theorem bind_completes (h : s.Carries f n (isCmd 0x0201) q) (image : (s.part q.part).image = some im)
    (allowed : (s.begun f n q).bindRefusal im (s.part q.part).job.running q = none) :
    ∃ t, exec (.bind f n) s = .next t ∧ t.Completed f n Config.stOk [] ∧ t.cores = s.cores ∧ (t.part q.part).rcv.absent = none ∧
      ((∀ r, r ∈ bindRegions (s.part q.part).geo im → r.op ≠ 4 ∧ r.op ≠ 5) → t.hbm = s.hbm) ∧
      (t.part q.part).ranks = some (bindRanks im q) := by
  have behind := ((s.begun f n q).boundWith im q).exchanged_behind q.part im (bindRanks im q)
  obtain ⟨absent, ranks⟩ := ((s.begun f n q).boundWith_part im q).bound
  refine ⟨_, bind_binds h image allowed, State.complete_completed _ _ _ _ _ _, ?_, ?_, fun plain => ?_, ?_⟩
  · rw [State.complete_cores, State.jDo, State.jCmd_cores, State.cores_of_behind behind, State.boundWith_cores]
    rfl
  · rw [State.complete_part, State.jDo_part, State.part_of_behind behind, absent]
  · rw [State.complete_hbm, State.jDo, State.jCmd_hbm, State.hbm_of_behind behind, State.boundWith_hbm (s.begun f n q) im q plain]
    rfl
  · rw [State.complete_part, State.jDo_part, State.part_of_behind behind, ranks]

end

end Sys2Proof.Machine
end

section
namespace Sys2Proof.Machine

/-! ## What admission sets up leaves the isolation registers (R98, R209, R242, R249, R258) -/

section
variable (s : State) (p : Nat) (im : Image)

theorem State.writeP_geo (q x : Nat) (bs : List Byte) : ((s.writeP q x bs).part p).geo = (s.part p).geo := (s.writeP_lasts q x bs p).geo
/-- A change of a partition that keeps its registers keeps those of every partition. -/
theorem State.updPart_geo (q : Nat) {f : Partition → Partition} (keeps : ∀ x, (f x).geo = x.geo) :
    ((s.updPart q f).part p).geo = (s.part p).geo := by
  rw [State.part_updPart]
  split
  · rename_i own
    rw [keeps, own]
  · rfl
theorem State.loosePools_geo (but groups : Nat) : ((s.loosePools but groups).part p).geo = (s.part p).geo := by
  unfold State.loosePools
  refine foldl_keeps (fun t : State => (t.part p).geo) (fun t k => ?_) (List.range 16) s
  generalize (k != but && _) = loose
  cases loose
  · rfl
  · exact t.updPart_geo p k (f := fun x => { x with kvKept := none, pinUnits := [] }) (fun _ => rfl)
theorem State.writeLayers_geo : ((s.writeLayers p im).part p).geo = (s.part p).geo := by
  have defaults := foldl_keeps (fun t : State => (t.part p).geo) (fun t l => t.writeP_geo p p (im.layerAt l)
    (leBytes 4 0 ++ leBytes 4 0xFFFFFFFF ++ sub ((tpRecords im.bytes 0x09).getD l []) 8 24)) (List.range (tpLayers im.bytes)) s
  unfold State.writeLayers
  extract_lets n s1
  split
  · exact defaults
  · rw [State.writeP_geo, State.writeP_geo]
    exact defaults
theorem State.writeLedgers_geo : ((s.writeLedgers p im).part p).geo = (s.part p).geo :=
  foldl_keeps (fun t : State => (t.part p).geo) (fun t (r : List Byte) => t.writeP_geo p p (ledgerAt im (fbits r 0 9 0) 0)
    (List.replicate (8 * fbits r 4 24 0) 0)) _ s
theorem State.writePool_geo : ((s.writePool p im).part p).geo = (s.part p).geo := by
  unfold State.writePool
  split
  · rfl
  · rw [State.updPart_geo, State.writeP_geo]
    exact fun _ => rfl
theorem State.writeStreams_geo : ((s.writeStreams p im).part p).geo = (s.part p).geo :=
  foldl_keeps (fun a : State × Nat => (a.1.part p).geo) (fun a (r : List Byte) => a.1.writeP_geo p p a.2
    (sub im.bytes (fld r 4 4) (16 * fld r 8 4))) (tpRecords im.bytes 0x0B) (s, im.region 2)
theorem State.MemOnly.parts {s t : State} (h : s.MemOnly t) : t.parts = s.parts := by
  obtain ⟨m, k, rfl⟩ := h
  rfl
theorem State.pinSpan_parts (g : Geometry) (lo hi : Nat) : (s.pinSpan p g lo hi).parts = s.parts := by
  unfold State.pinSpan
  refine foldl_keeps State.parts (fun t i => ?_) _ s
  split
  · rfl
  · rename_i a _
    exact (State.updShelf_memOnly _ _ _).parts.trans
      (foldl_keeps State.parts (fun u j => (u.useByte_spec p 1 (a / 128 * 128 + j)).1.parts) (List.range 128) t)
theorem State.pinSpans_geo (g : Geometry) (l : List (Nat × Nat)) :
    ((l.foldl (fun s e => s.pinSpan p g e.1 e.2) s).part p).geo = (s.part p).geo := by
  unfold State.part
  rw [foldl_keeps State.parts (f := fun s (e : Nat × Nat) => State.pinSpan s p g e.1 e.2) (fun t e => t.pinSpan_parts p g e.1 e.2) l s]

/-- The state in which admission has set up the memory and its caches. -/
def State.laidOut : State :=
  (pinnedSpans im.req im.regions ++ counterSpans (s.part p).geo im.bytes im.regions).foldl (fun t e => t.pinSpan p (s.part p).geo e.1 e.2)
    (((((s.loosePools p (s.part p).geo.groups).writeLayers p im).writeLedgers p im).writePool p im).writeStreams p im)
theorem State.laidOut_geo : ((s.laidOut p im).part p).geo = (s.part p).geo := by
  rw [State.laidOut, State.pinSpans_geo, State.writeStreams_geo, State.writePool_geo, State.writeLedgers_geo, State.writeLayers_geo,
    State.loosePools_geo]

/-- The image's channels are bound to its partition. -/
def State.bindChans : State := im.chans.foldl (fun s v => s.updChan v (fun c => { c with bound := true, owner := p })) s
theorem State.bindChans_parts : (s.bindChans p im).parts = s.parts := foldl_keeps State.parts (fun _ _ => by rfl) _ s
theorem State.bindChans_bound {v : Nat} (own : v ∈ im.chans) :
    ((s.bindChans p im).chan v).bound = true ∧ ((s.bindChans p im).chan v).owner = p := by
  refine foldl_settles (P := fun v t => (State.chan t v).bound = true ∧ (State.chan t v).owner = p) (fun t b => ?_) (fun t b c bound => ?_)
    v im.chans s (.inl own)
  · rw [State.updChan, State.chan_setChan_self]
    exact ⟨rfl, rfl⟩
  · rw [State.updChan, State.chan_setChan]
    split
    · exact ⟨rfl, rfl⟩
    · exact bound

end

/-! ## ADMIT (R244, R249, R420) -/

/-- A partition in which an image has been admitted at DTB `d`. -/
def Partition.admits (im : Image) (d : Nat) (x : Partition) : Partition := { x with
  image := some im
  job := { lastFault := x.job.lastFault, history := x.job.history, leftTs := 256 * im.widenTs, leftHbm := 65536 * im.widenHbm }
  rcv := { x.rcv with mtbf := 250000000000000000 / tpModules im.bytes, admitDtb := d } }

section
variable (s : State) (p : Nat) (im : Image)

theorem State.admitted_eq : s.admitted p im = ((((((s.laidOut p im).putRegions p (admitRegions (s.part p).geo im)).bindChans p im).updPart p
    (Partition.admits im s.dtb)).loadCores p im).ckptPlan p im 0) := rfl
theorem State.ckptPlan_geo (event : Nat) : ((s.ckptPlan p im event).part p).geo = (s.part p).geo := by
  obtain ⟨m, i, n, f, e⟩ := s.ckptPlan_eq p im event
  rw [e, State.part_updRcv_self]
theorem State.ckptPlan_chan (event v : Nat) : (s.ckptPlan p im event).chan v = s.chan v := by
  obtain ⟨m, i, n, f, e⟩ := s.ckptPlan_eq p im event
  rw [e]
  rfl
theorem State.loadCores_part (q : Nat) : (s.loadCores p im).part q = s.part q := by
  rw [State.loadCores_frame]
  rfl
theorem State.loadCores_chan (v : Nat) : (s.loadCores p im).chan v = s.chan v := by
  rw [State.loadCores_frame]
  rfl

/-- The partition has the image and its registers as before, and the image's channels are its own. -/
theorem State.admitted_admits : ((s.admitted p im).part p).image = some im ∧ ((s.admitted p im).part p).geo = (s.part p).geo ∧
    ∀ v, v ∈ im.chans → ((s.admitted p im).chan v).bound = true ∧ ((s.admitted p im).chan v).owner = p := by
  rw [State.admitted_eq]
  refine ⟨?_, ?_, fun v own => ?_⟩
  · rw [(State.ckptPlan_part _ p im 0).1, State.loadCores_part, State.part_updPart_self]
    rfl
  · rw [State.ckptPlan_geo, State.loadCores_part, State.updPart_geo _ _ _ (f := Partition.admits im s.dtb) (fun _ => rfl), State.part, State.bindChans_parts]
    exact (State.putRegions_lasts _ _ _ _).geo.trans (s.laidOut_geo p im)
  · rw [State.ckptPlan_chan, State.loadCores_chan, State.updPart_chan]
    exact State.bindChans_bound _ p im own

end

section
variable {f : Fn} {n : Nat} {s : State} {q : Slot} {img : List Byte}

theorem exec_admitImage (f : Fn) (n : Nat) (d : Option (List Byte)) (s : State) : exec (.admitImage f n d) s = execAdmit f n d s := rfl

theorem admitImage_completes (h : s.Carries f n (isCmd 0x0200) q) (vacant : (s.part q.part).image = none)
    (sound : (imageRefusal (s.part q.part).geo (q.payload.take 128) (sub img 0 (Req.imageBytes (q.payload.take 128)))).or
      (requestRefusal (q.payload.take 128)) = none)
    (fits : (s.begun f n q).capacityRefusal q.part (q.payload.take 128) (sub img 0 (Req.imageBytes (q.payload.take 128))) = none)
    {im : Image} (is : im = (s.begun f n q).imageOf (q.payload.take 128) (sub img 0 (Req.imageBytes (q.payload.take 128)))) :
    ∃ t, exec (.admitImage f n (some img)) s = .next t ∧ (t.part q.part).image = some im ∧
      t.Completed f n Config.stOk (admitResult 0 0 im.chans) ∧ (t.part q.part).geo = (s.part q.part).geo ∧
      ∀ v, v ∈ im.chans → (t.chan v).bound = true ∧ (t.chan v).owner = q.part := by
  have vacant' : ((s.begun f n q).part q.part).image = none := vacant
  have sound' : (imageRefusal ((s.begun f n q).part q.part).geo (q.payload.take 128)
      (sub img 0 (Req.imageBytes (q.payload.take 128)))).or (requestRefusal (q.payload.take 128)) = none := sound
  obtain ⟨image, geo, bound⟩ := (s.begun f n q).admitted_admits q.part im
  refine ⟨(((s.begun f n q).admitted q.part im).jDo f q).complete f n Config.stOk 0 (admitResult 0 0 im.chans), ?_, ?_,
    State.complete_completed _ _ _ _ _ _, ?_, fun v own => ?_⟩
  · rw [exec_admitImage, execAdmit]
    refine (command_carries h _).trans ?_
    simp only [vacant', Option.isSome_none, Bool.false_eq_true, if_false, sound', fits, is]
  · rw [State.complete_part, State.jDo_part, image]
  · rw [State.complete_part, State.jDo_part, geo]
    rfl
  · rw [State.complete_chan]
    exact bound v own

end

/-! ## The job commands together -/

/-- Settles O49: each of the seven commands completes as its own lemma says; a reload splits at the cyclic table. -/
theorem jobCommandsComplete : Obligations.JobCommandsComplete := by
  unfold Obligations.JobCommandsComplete
  refine ⟨?admission, ?bind, ?run, ?retire, ?toDevice, ?toHost, ?reload⟩
  case admission => exact fun f n img s q h vacant sound fits => admitImage_completes h vacant sound fits rfl
  case bind => exact fun f n s q im h image allowed => bind_completes h image allowed
  case run => exact fun f n data s q im h image allowed => run_completes h image allowed
  case retire => exact fun f n s q im h image => retire_completes h image
  case toDevice =>
    exact fun f n d s q h allowed some => ⟨fun open_ => memCopyToDevice_completes h allowed some open_ d,
      fun x met => memCopyToDevice_fenced h allowed some met d⟩
  case toHost => exact fun f n s q h allowed some open_ => memCopyToHost_completes h allowed some open_
  case reload =>
    intro f n img s q h long b d fields free some allowed unarmed
    by_cases cyclic : Tr.table b = 3
    · obtain ⟨t, runs, done, hbm, filled⟩ := tableReload_cyclic h long fields free some allowed unarmed cyclic
      exact ⟨t, runs, done, hbm, fun _ => filled, fun table => absurd cyclic table⟩
    · obtain ⟨t, runs, done, hbm, filled⟩ := tableReload_cores h long fields free some allowed unarmed cyclic
      exact ⟨t, runs, done, hbm, fun table => absurd table cyclic, fun _ => filled⟩

end Sys2Proof.Machine
end

section
namespace Sys2Proof.Machine

/-! ## Accesses that read and write (R91, R227, R229) -/

/-- A core with what an instruction's accesses note in it: corrected words counted, written words renewed, no own access held. -/
def Core.noted (k : Core) (corr : Nat) (us : List Upset) : Core :=
  { k with eccCorr := corr, upsets := us, mu := { k.mu with witHold := false } }

/-- Renewing the words of several writes, of either memory, changes nothing of a core but its upsets. -/
theorem foldl_renewBoth_frame (l : List (Bool × Nat × Nat)) (k : Core) : l.foldl (fun k w => k.renew w.1 w.2.1 w.2.2) k =
    { k with upsets := (l.foldl (fun k w => k.renew w.1 w.2.1 w.2.2) k).upsets } := by
  induction l generalizing k with
  | nil => rfl
  | cons w l ih => rw [List.foldl_cons, ih, Core.renew_frame]
theorem State.accessed_core (s : State) (c : Nat) (reads writes : List (Bool × Nat × Nat)) :
    ∃ corr us, (s.accessed c reads writes).core c = (s.core c).noted corr us := by
  unfold State.accessed
  dsimp only
  split
  case isTrue free =>
    obtain ⟨-, noHold⟩ : (s.core c).upsets.isEmpty = true ∧ (s.core c).mu.witHold = false := by simpa using free
    exact ⟨(s.core c).eccCorr, (s.core c).upsets, by rw [Core.noted, ← noHold]⟩
  case isFalse =>
    rw [State.core_setCore_self, foldl_renewBoth_frame, Core.corrected_frame]
    exact ⟨_, _, rfl⟩

/-- Accesses that nothing stops run the body. -/
theorem State.access_runs {s : State} {x : Ctx} {reads writes : List (Bool × Nat × Nat)} (h : (s.core x.c).Accesses reads writes)
    (body : State → Issue) : s.access x reads writes body = body (s.accessed x.c reads writes) := by
  simp [State.access, h.free, h.sound]
/-- An instruction that comes to its accesses waits for a witness or stops at a double error. -/
theorem State.access_stops {s : State} {i : Instr} {x : Ctx} {reads writes : List (Bool × Nat × Nat)} {body : State → Issue}
    (runs : exec i s = finish x s (s.access x reads writes body)) : s.AccessStops i x.c x reads writes := by
  refine ⟨fun held => ?_, fun free u bad => ?_⟩
  · rw [runs, State.access, if_pos held]
    rfl
  · rw [runs, State.access, if_neg (by rw [free]; exact Bool.false_ne_true), bad]
    rfl

/-! ## What a chain's stages change (R131, R137 to R142) -/

/-- Core `t` is core `k` but for its tile store, its vector registers and its row carry. -/
def Core.StreamsInto (k t : Core) : Prop := t = { k with ts := t.ts, ve := { k.ve with vr := t.ve.vr, carry := t.ve.carry } }

section
variable {k t u : Core}

theorem Core.StreamsInto.refl (k : Core) : k.StreamsInto k := rfl
theorem Core.StreamsInto.trans (h : k.StreamsInto t) (g : t.StreamsInto u) : k.StreamsInto u := by
  unfold Core.StreamsInto at h g ⊢
  rw [g, h]

end

theorem foldl_setElem_frame {β : Type} (r : Nat) (i : β → Nat) (e : β → VElem) (l : List β) (v : VeState) :
    l.foldl (fun v x => v.setElem r (i x) (e x)) v = { v with vr := (l.foldl (fun v x => v.setElem r (i x) (e x)) v).vr } := by
  induction l generalizing v with
  | nil => rfl
  | cons x l ih => rw [List.foldl_cons, ih]; rfl

/-- The stream's reduction, and the row carry after it, where stage 5 is enabled. -/
def Core.reduction (k : Core) (a : VecArgs) : List SE × RowCarry :=
  if a.f.on 5 then reduceAll a.f (k.rowExtent a) k.ve.carry (k.stream a) else ([], k.ve.carry)
/-- The core after stage 5: its row carry, and the register that takes the results where they do not go on. -/
def Core.reduced (k : Core) (a : VecArgs) : Core :=
  let ve := { k.ve with carry := (k.reduction a).2 }
  let results := (k.reduction a).1.filter (fun x => !x.none_)
  if a.f.on 5 && !a.f.redMode then
    { k with ve := results.foldl (fun v x => v.setElem a.f.vr x.e ⟨(x.v.lane a.f.isInt).1, x.pad⟩) ve }
  else { k with ve := ve }
/-- What stages 6 to 8 take, and the flags so far. -/
def Core.reducedStream (k : Core) (a : VecArgs) : List SE := if a.f.on 5 && a.f.redMode then (k.reduction a).1 else k.stream a
def Core.reducedFl (k : Core) (a : VecArgs) : Fl := (streamFl (k.stream a)).or (streamFl (k.reduction a).1)

section
variable (k : Core) (a : VecArgs) (seed : Nat)

/-! A chain does nothing for COUNT 0; else its last stages store into a register, through ST_DESC, or nowhere. -/

theorem Core.chain_count_zero (h : a.f.count = 0) : k.chain a seed = { k := k, fl := {} } := if_pos h
theorem Core.chain_regDst (h : a.f.count ≠ 0) (reg : a.f.regDst = true) :
    k.chain a seed = (k.reduced a).storeReg a (k.reducedFl a) (k.reducedStream a) := by
  rw [Core.chain]
  dsimp only
  rw [if_neg h, if_pos reg]
  rfl
theorem Core.chain_desc (h : a.f.count ≠ 0) (reg : ¬ a.f.regDst = true) {o : OutDesc} (st : a.st = some o) :
    k.chain a seed = (k.reduced a).storeDesc a o seed (k.reducedFl a) (k.reducedStream a) := by
  rw [Core.chain]
  dsimp only
  rw [if_neg h, if_neg reg, st]
  rfl
theorem Core.chain_nowhere (h : a.f.count ≠ 0) (reg : ¬ a.f.regDst = true) (st : a.st = none) :
    k.chain a seed = { k := k.reduced a, fl := k.reducedFl a } := by
  rw [Core.chain]
  dsimp only
  rw [if_neg h, if_neg reg, st]
  rfl

/-! What each part changes of the core. -/

theorem Core.reduced_into : k.StreamsInto (k.reduced a) := by
  unfold Core.reduced
  dsimp only
  split
  · rw [foldl_setElem_frame]; rfl
  · rfl
theorem Core.reduced_ts : (k.reduced a).ts = k.ts := by
  unfold Core.reduced
  dsimp only
  split <;> rfl
theorem Core.storeReg_into (fl : Fl) (xs : List SE) : k.StreamsInto (k.storeReg a fl xs).k := by
  unfold Core.storeReg
  dsimp only
  split
  · rw [foldl_setElem_frame]; rfl
  · rfl
theorem Core.storeReg_ts (fl : Fl) (xs : List SE) : (k.storeReg a fl xs).k.ts = k.ts := by
  unfold Core.storeReg
  dsimp only
  split <;> rfl
theorem Core.storeDesc_into (o : OutDesc) (fl : Fl) (xs : List SE) : k.StreamsInto (k.storeDesc a o seed fl xs).k := by
  unfold Core.storeDesc
  dsimp only
  split
  · split <;> rfl
  · split
    · dsimp only
      split <;> rfl
    · rfl

/-- A chain changes the tile store, the vector registers and the row carry only. -/
theorem Core.chain_into : k.StreamsInto (k.chain a seed).k := by
  by_cases h : a.f.count = 0
  · rw [Core.chain_count_zero k a seed h]
    exact .refl k
  by_cases reg : a.f.regDst = true
  · rw [Core.chain_regDst k a seed h reg]
    exact (k.reduced_into a).trans (Core.storeReg_into _ a _ _)
  cases st : a.st with
  | some o =>
    rw [Core.chain_desc k a seed h reg st]
    exact (k.reduced_into a).trans (Core.storeDesc_into _ a seed o _ _)
  | none =>
    rw [Core.chain_nowhere k a seed h reg st]
    exact k.reduced_into a
/-- A chain into a register writes no byte of the tile store (R142). -/
theorem Core.chain_regDst_ts (reg : a.f.regDst = true) : (k.chain a seed).k.ts = k.ts := by
  by_cases h : a.f.count = 0
  · rw [Core.chain_count_zero k a seed h]
  · rw [Core.chain_regDst k a seed h reg, Core.storeReg_ts, Core.reduced_ts]

/-! No stage looks at what the accesses note. -/

variable (corr : Nat) (us : List Upset)

/-- The outcome of a chain with what the accesses note in its core. -/
def VecOut.noted (v : VecOut) : VecOut := { v with k := v.k.noted corr us }

theorem Core.reduced_noted : (k.noted corr us).reduced a = (k.reduced a).noted corr us := by
  unfold Core.reduced
  dsimp only
  split <;> rfl
theorem Core.storeReg_noted (fl : Fl) (xs : List SE) :
    (k.noted corr us).storeReg a fl xs = (k.storeReg a fl xs).noted corr us := by
  unfold Core.storeReg
  dsimp only
  split <;> rfl
theorem Core.storeDesc_noted (o : OutDesc) (fl : Fl) (xs : List SE) :
    (k.noted corr us).storeDesc a o seed fl xs = (k.storeDesc a o seed fl xs).noted corr us := by
  unfold Core.storeDesc
  dsimp only
  split
  · split <;> rfl
  · split
    · split <;> rfl
    · rfl
theorem Core.chain_noted : (k.noted corr us).chain a seed = (k.chain a seed).noted corr us := by
  by_cases h : a.f.count = 0
  · rw [Core.chain_count_zero _ a seed h, Core.chain_count_zero _ a seed h]
    rfl
  by_cases reg : a.f.regDst = true
  · rw [Core.chain_regDst _ a seed h reg, Core.chain_regDst _ a seed h reg, Core.reduced_noted, Core.storeReg_noted]
    rfl
  cases st : a.st with
  | some o =>
    rw [Core.chain_desc _ a seed h reg st, Core.chain_desc _ a seed h reg st, Core.reduced_noted, Core.storeDesc_noted]
    rfl
  | none =>
    rw [Core.chain_nowhere _ a seed h reg st, Core.chain_nowhere _ a seed h reg st, Core.reduced_noted]
    rfl

end

/-! ## A chain at its core and in its partition (R80, R97, R143, R144) -/

/-- Dropping the queue's head changes nothing else. -/
theorem Core.pop_frame (k : Core) (f : VecFields) :
    k.pop f = { k with mu := { k.mu with ftq := if f.ftq && f.pop then k.mu.ftq.drop 1 else k.mu.ftq } } := by
  unfold Core.pop
  split <;> rfl
theorem VecArgs.notes_frame (a : VecArgs) (xs : List SE) (k : Core) : a.notes xs k = { k with tally := (a.notes xs k).tally } := rfl

/-- Core `k` after a chain, its flags aside: the stages' outcome, the queue's head dropped, the counters' notes. -/
def Core.chained (k : Core) (a : VecArgs) (seed : Nat) : Core := a.notes (k.stream a) ((k.chain a seed).k.pop a.f)

theorem Core.chained_noted (k : Core) (a : VecArgs) (seed corr : Nat) (us : List Upset) :
    (k.noted corr us).chained a seed = { k with
      ts := (k.chain a seed).k.ts, ve := { (k.chain a seed).k.ve with flags := k.ve.flags },
      tally := ((k.noted corr us).chained a seed).tally, eccCorr := corr, upsets := us
      mu := { k.mu with ftq := if a.f.ftq && a.f.pop then k.mu.ftq.drop 1 else k.mu.ftq, witHold := false } } := by
  have into : k.StreamsInto (k.chain a seed).k := k.chain_into a seed
  rw [Core.chained, VecArgs.notes_frame, Core.pop_frame, Core.chain_noted, VecOut.noted, Core.noted, into]

/-- The state after a chain's accesses, stages and flags, before the monitors merge. -/
def State.chained (s : State) (x : Ctx) (a : VecArgs) : State :=
  (s.setCore x.c ((s.core x.c).chained a (Req.seed x.im.req))).addFlags x.p x.c ((s.core x.c).chain a (Req.seed x.im.req)).fl
/-- The monitors merge what a chain gives them, if anything (R97). -/
def State.merged (s : State) (p : Nat) (mon : Option (Nat × Nat × Nat × Bool)) : State :=
  match mon with
  | some m => s.monitor p m.1 m.2.1 m.2.2.1 0 m.2.2.2
  | none => s

/-- Reported flags join the core's, saturations up to 65,535 (R143). -/
theorem State.addFlags_flags (s : State) (p c : Nat) (f : Fl) : ((s.addFlags p c f).core c).ve.flags =
    { (s.core c).ve.flags.or f with sat := satAdd 0xFFFF (s.core c).ve.flags.sat f.sat } := by
  rw [State.addFlags, State.updJob_core, State.core_updCore_self]
/-- Reporting flags changes of the partition its job record only (R423). -/
theorem State.addFlags_part (s : State) (p c : Nat) (f : Fl) :
    (s.addFlags p c f).part p = { s.part p with job := ((s.addFlags p c f).part p).job } := by
  rw [State.addFlags, State.part_updJob_self]
  rfl

section
variable {i : Instr} {r : Row} {c : Nat} {s : State} {x : Ctx} {a : VecArgs}

theorem exec_chain (mem : i ∈ [Instr.chain c, .chainEf c, .chainFtq c]) (row : coreRow i = some (r, c)) (issues : s.Issues c r x) :
    exec i s = finish x s (chain s x) := by
  rw [← issue_of_issues issues (chain s)]
  simp only [List.mem_cons, List.not_mem_nil, or_false] at mem
  obtain rfl | rfl | rfl := mem
  · cases row; rfl
  · cases row; rfl
  · cases row; rfl
theorem chain_accesses (args : vecArgs s x = some a) (free : vecWait (s.core x.c) a = false) :
    chain s x = s.access x a.reads a.writes (fun s =>
      .ofExtent (a.f.count == 0) ((s.chained x a).merged x.p ((s.core x.c).chain a (Req.seed x.im.req)).mon)) := by
  rw [chain, args]
  exact if_neg (by simp [free])

/-- A chain whose accesses nothing stops has its effect and retires. -/
theorem exec_chain_completes (runs : exec i s = finish x s (chain s x)) (args : vecArgs s x = some a) (free : vecWait (s.core x.c) a = false)
    (accesses : (s.core x.c).Accesses a.reads a.writes) : exec i s =
      .next ((((s.accessed x.c a.reads a.writes).chained x a).merged x.p ((s.core x.c).chain a (Req.seed x.im.req)).mon).updCore x.c
        (fun q => q.retire (if a.f.count = 0 then 0x011 else 0x010))) := by
  obtain ⟨corr, us, core⟩ := s.accessed_core x.c a.reads a.writes
  rw [runs, chain_accesses args free, State.access_runs accesses, finish_ofExtent, core, Core.chain_noted, VecOut.noted]
  simp only [beq_iff_eq]

end

/-! ## The state a chain leaves -/

@[simp] theorem Core.retire_ts (k : Core) (e : Nat) : (k.retire e).ts = k.ts := rfl
@[simp] theorem Core.retire_ve (k : Core) (e : Nat) : (k.retire e).ve = k.ve := rfl

/-- State `u` is state `s` after a chain issued in context `x`, before the monitors merge and the core goes on. -/
structure State.ChainsTo (s u : State) (x : Ctx) (a : VecArgs) : Prop where
  frame : u = { s with cores := u.cores, parts := u.parts }
  others : ∀ d, d ≠ x.c → u.core d = s.core d
  own : u.core x.c = { s.core x.c with
    ts := ((s.core x.c).chain a (Req.seed x.im.req)).k.ts
    ve := { ((s.core x.c).chain a (Req.seed x.im.req)).k.ve with flags := (u.core x.c).ve.flags }
    tally := (u.core x.c).tally, eccCorr := (u.core x.c).eccCorr, upsets := (u.core x.c).upsets
    mu := { (s.core x.c).mu with
      ftq := if a.f.ftq && a.f.pop then (s.core x.c).mu.ftq.drop 1 else (s.core x.c).mu.ftq, witHold := (u.core x.c).mu.witHold } }
  flags : (u.core x.c).ve.flags = { (s.core x.c).ve.flags.or ((s.core x.c).chain a (Req.seed x.im.req)).fl with
    sat := satAdd 0xFFFF (s.core x.c).ve.flags.sat ((s.core x.c).chain a (Req.seed x.im.req)).fl.sat }
  part : u.part x.p = { s.part x.p with job := (u.part x.p).job }

theorem State.accessed_chained (s : State) (x : Ctx) (a : VecArgs) (reads writes : List (Bool × Nat × Nat)) :
    s.ChainsTo ((s.accessed x.c reads writes).chained x a) x a := by
  obtain ⟨corr, us, core⟩ := s.accessed_core x.c reads writes
  obtain ⟨frame, others⟩ := s.accessed_frame x.c reads writes
  obtain ⟨frame', others', own, -⟩ := State.setCore_addFlags (s := s.accessed x.c reads writes)
    (t := (s.accessed x.c reads writes).chained x a) rfl
  have chained := (s.core x.c).chained_noted a (Req.seed x.im.req) corr us
  have fl : (((s.accessed x.c reads writes).chained x a).core x.c).ve.flags = _ := State.addFlags_flags _ _ _ _
  have part : ((s.accessed x.c reads writes).chained x a).part x.p = _ := State.addFlags_part _ _ _ _
  rw [core] at own fl
  rw [State.core_setCore_self, Core.chain_noted] at fl
  refine ⟨by rw [frame', frame], fun d hd => (others' d hd).trans (others d hd), ?_, ?_, ?_⟩
  · rw [own, chained]
  · rw [fl, chained]; rfl
  · rw [part, State.setCore_part, frame]; rfl

section
variable {s : State} {p : Nat} {im : Image}

theorem State.merged_core (hi : (s.part p).image = some im) (mon : Option (Nat × Nat × Nat × Bool)) (d : Nat) :
    (s.merged p mon).core d = s.core d := by
  cases mon with
  | none => rfl
  | some m => exact (State.monitor_writes hi m.1 m.2.1 m.2.2.1 0 m.2.2.2).core d
/-- Merging shows in HBM in the layer's record only. -/
theorem State.merged_hb (hi : (s.part p).image = some im) (m : Nat × Nat × Nat × Bool) (ok : s.CachesOk) {b : Nat}
    (out : ¬ s.Within p (im.monAt m.1) 16 b) : (s.merged p (some m)).hb b = s.hb b :=
  ((State.monitor_writes hi m.1 m.2.1 m.2.2.1 0 m.2.2.2).mem ok).2 b out

end

/-- Settles O18: a chain's stages change the tile store, registers and row carry only and look at nothing that its accesses note; its flags
are reported and its monitors merge after it. -/
theorem chainRowsComplete : Obligations.ChainRowsComplete := by
  unfold Obligations.ChainRowsComplete
  intro i r c s x a mem row issues args free
  obtain ⟨rfl, -, image, -⟩ := State.ctx_core issues.ctx
  have runs := exec_chain mem row issues
  refine ⟨State.access_stops (runs.trans (by rw [chain_accesses args free])), fun accesses => ?_⟩
  have next := exec_chain_completes runs args free accesses
  have after := s.accessed_chained x a a.reads a.writes
  dsimp only
  generalize (s.accessed x.c a.reads a.writes).chained x a = u at next after
  have zero := (s.core x.c).chain_count_zero a (Req.seed x.im.req)
  have reg := (s.core x.c).chain_regDst_ts a (Req.seed x.im.req)
  generalize (if a.f.count = 0 then 0x011 else 0x010 : Nat) = e at next ⊢
  obtain ⟨frame, others, own, flags, part⟩ := after
  have hi : (u.part x.p).image = some x.im := by rw [part]; exact image
  generalize (s.core x.c).chain a (Req.seed x.im.req) = v at *
  have core := State.merged_core hi v.mon
  have ts : (u.core x.c).ts = v.k.ts := by rw [own]
  refine ⟨u, _, next, ?state, frame, fun d hd => ⟨others d hd, ?other⟩, own, ?goesOn, ?_⟩
  case state => cases v.mon <;> rfl
  case other => rw [State.core_updCore_other _ _ hd, core, others d hd]
  case goesOn => rw [State.core_updCore_self, core]
  rw [State.core_updCore_self, core, Core.retire_ts, Core.retire_ve, flags]
  refine ⟨rfl, rfl, rfl, rfl, fun count => ?nothing, fun dst => ts.trans (reg dst), fun unfed => ?unmerged, fun m fed ok b out => ?record⟩
  case nothing =>
    obtain rfl := zero count
    exact ⟨ts, by rw [own], by rw [own], rfl, rfl⟩
  case unmerged =>
    rw [unfed, frame]
    exact ⟨rfl, rfl⟩
  case record =>
    rw [fed, State.updCore, State.setCore_hb, State.merged_hb hi m]
    · rw [frame]; rfl
    · rw [frame]; exact ok
    · rw [State.Within, part]; exact out

end Sys2Proof.Machine
end

section
namespace Sys2Proof.Machine

/-! ## Sequence-slot commands (R178, R185) -/

section
variable {f : Fn} {n : Nat} {s : State} {q : Slot} {im : Image}

/-- The sequence-table commands with their codes. -/
theorem exec_postSeq {code : Nat} {i : Instr} (own : (code, i) ∈ [(0x0400, Instr.slotOpen f n), (0x0401, .slotFork f n),
    (0x0402, .slotClose f n), (0x0403, .prefixPin f n), (0x0404, .prefixRelease f n)]) : exec i s = postSeq code f n s := by
  simp only [List.mem_cons, Prod.mk.injEq, List.not_mem_nil, or_false] at own
  rcases own with ⟨rfl, rfl⟩ | ⟨rfl, rfl⟩ | ⟨rfl, rfl⟩ | ⟨rfl, rfl⟩ | ⟨rfl, rfl⟩ <;> rfl

/-- Such a command joins the request queue and waits there. -/
theorem postSeq_queues {code : Nat} (h : s.Carries f n (isCmd code) q) (image : (s.part q.part).image.isSome = true)
    (room : s.queueFull q.part = false) :
    ∃ t, postSeq code f n s = .next t ∧ t.Waits f n ∧ t = { s with fns := t.fns, parts := t.parts } ∧
      (t.part q.part).job.requests = (s.part q.part).job.requests ++
        [{ fn := f, slot := n, cmd := q.cmd, post := q.postDtb, payload := q.payload.take q.len }] := by
  have image' : ((s.begun f n q).part q.part).image.isNone = false := by simpa [Option.isSome_iff_ne_none] using image
  have room' : (s.begun f n q).queueFull q.part = false := room
  refine ⟨(s.begun f n q).enqueue f n q, (command_carries h _).trans ?_, h.waits rfl, rfl, ?_⟩
  · simp only [image', room', Bool.false_eq_true, if_false]
  · rw [State.enqueue_part]
    rfl

theorem exec_slotQuery (f : Fn) (n : Nat) (s : State) : exec (.slotQuery f n) s = execSlotQuery f n s := rfl

/-- SLOT_QUERY of a slot that the image owns answers its entry. -/
theorem slotQuery_answers (h : s.Carries f n (isCmd 0x0405) q) (image : (s.part q.part).image = some im)
    (owned : slotOwned im (fbits (sub (q.payload.take q.len) 0 4) 0 7 0) = true) :
    ∃ t, exec (.slotQuery f n) s = .next t ∧
      t.Completed f n Config.stOk (s.seqEnt q.part im (fbits (sub (q.payload.take q.len) 0 4) 0 7 0)) ∧
      t = { s with fns := t.fns, out := t.out } := by
  have image' : ((s.begun f n q).part q.part).image = some im := image
  rw [exec_slotQuery, execSlotQuery]
  refine ⟨_, (command_carries h _).trans ?_, State.complete_completed (s.begun f n q) _ _ _ _ _, State.complete_frame (s.begun f n q) _ _ _ 0 _⟩
  simp only [image', owned, Bool.not_true, Bool.false_eq_true, if_false]
  rfl

end

end Sys2Proof.Machine
end

section
namespace Sys2Proof.Machine

/-! ## Weight commands (R336, R339, R347, R349) -/

section
variable (s : State) (p : Nat)

@[simp] theorem State.ws_updWs_self (g : WeightState → WeightState) : ((s.updWs p g).part p).ws = g (s.part p).ws := by
  rw [State.updWs, State.part_updPart_self]
@[simp] theorem State.image_updWs_self (g : WeightState → WeightState) : ((s.updWs p g).part p).image = (s.part p).image := by
  rw [State.updWs, State.part_updPart_self]

end

theorem WeightState.stOf_setSt (w : WeightState) (i v : Nat) : (w.setSt i v).stOf i = v := by
  unfold WeightState.stOf WeightState.setSt
  split
  · rfl
  · rfl

/-- The weight slots of a partition when a load that nothing refuses starts: the load's slot is LOADING. -/
def WeightState.starting (w : WeightState) (im : Image) (d : List Byte) (cmd : Fn × Nat × Nat) (dtb : Nat) : WeightState :=
  { (w.setSt (Ld.slot d) 1) with
    base0 := if Ld.slot d = 0 && w.base0.isNone then some (Ld.ws0 d) else w.base0
    slotBytes := slotBytesOf w im d
    loadId := Ld.id d
    chunksKept := 0
    chunksFwd := 0
    held := []
    load := some { desc := d, cmd := cmd, start := dtb } }
theorem WeightState.starting_stOf (w : WeightState) (im : Image) (d : List Byte) (cmd : Fn × Nat × Nat) (dtb : Nat) :
    (w.starting im d cmd dtb).stOf (Ld.slot d) = 1 := w.stOf_setSt (Ld.slot d) 1

/-- The weight slots of a partition with a switch pending at its request. -/
def WeightState.switching (w : WeightState) (b : List Byte) (es : List (List Byte)) : WeightState :=
  { w with switchPending := true, switchTo := swSlot b, atRequest := swAt b, relocs := es }

/-- The load stands in its partition, and a chain load holds its channel (R341). -/
def State.loadStarted (s : State) (f : Fn) (n : Nat) (q : Slot) (im : Image) (d : List Byte) : State :=
  let t := s.updWs q.part (fun w => w.starting im d (f, n, q.postDtb) s.dtb)
  if Ld.chain d then t.updChan (im.chan (Ld.vcOrd d)) (fun c => { c with loadHold := some (Ld.id d) }) else t
theorem State.loadStarted_part (s : State) (f : Fn) (n : Nat) (q : Slot) (im : Image) (d : List Byte) (p : Nat) :
    (s.loadStarted f n q im d).part p = (s.updWs q.part (fun w => w.starting im d (f, n, q.postDtb) s.dtb)).part p := by
  unfold State.loadStarted
  dsimp only
  split
  · rfl
  · rfl
theorem State.loadStarted_frame (s : State) (f : Fn) (n : Nat) (q : Slot) (im : Image) (d : List Byte) : ∃ x c,
    s.loadStarted f n q im d = { s with parts := x, chans := c } := by
  unfold State.loadStarted
  dsimp only
  split
  · exact ⟨_, _, rfl⟩
  · exact ⟨_, _, rfl⟩

/-- No message was held: taking them notes when the first of none came. -/
theorem State.takeHeld_none (s : State) (p : Nat) {w : WeightState} (empty : w.held = []) :
    s.takeHeld p w = s.updWs p (fun v => { v with heldFrom := w.heldFrom }) := by
  rw [State.takeHeld, empty]
  rfl

section
variable {s : State} {p : Nat} {im : Image} {l : Load}

theorem State.ws_updLoad (load : (s.part p).ws.load = some l) (g : Load → Load) :
    ((s.updLoad p g).part p).ws = { (s.part p).ws with load := some (g l) } := by
  rw [State.updLoad, State.ws_updWs_self, load]
  rfl

/-- The end message is sent once nothing is left to forward (R342). -/
def State.sentEnd (s : State) (p : Nat) (im : Image) (l : Load) : State :=
  if Ld.forward l.desc && l.fwd == Ld.fwdCount l.desc && !l.endSent then
    (s.sendLoad p (Ld.outPort l.desc) im l.desc 2 0 0 []).updLoad p (fun l => { l with endSent := true }) else s
theorem State.sentEnd_frame (s : State) (p : Nat) (im : Image) (l : Load) : ∃ x y, s.sentEnd p im l = { s with ports := x, parts := y } := by
  unfold State.sentEnd
  split
  · exact ⟨_, _, rfl⟩
  · exact ⟨_, _, rfl⟩
theorem State.sentEnd_ws (load : (s.part p).ws.load = some l) :
    ∃ e, ((s.sentEnd p im l).part p).ws = { (s.part p).ws with load := some { l with endSent := e } } := by
  unfold State.sentEnd
  split
  · exact ⟨true, State.ws_updLoad (s := s.sendLoad p (Ld.outPort l.desc) im l.desc 2 0 0 []) load _⟩
  · exact ⟨l.endSent, by rw [← load]⟩

/-- A load that does not keep all of its chunks yet goes on (R345). -/
theorem State.loadSettle_goesOn (image : (s.part p).image = some im) (load : (s.part p).ws.load = some l)
    (unkept : l.kept ≠ Ld.keepCount l.desc) : ∃ c,
    s.loadSettle p = (s.sentEnd p im l).updWs p (fun w => { w with chunksFwd := c }) := by
  have unkept' : (l.kept == Ld.keepCount l.desc) = false := beq_false_of_ne unkept
  unfold State.loadSettle
  rw [image, load]
  dsimp only
  rw [unkept']
  simp only [Bool.false_and, Bool.false_eq_true, if_false]
  exact ⟨_, rfl⟩

end

section
variable {f : Fn} {n : Nat} {s : State} {q : Slot} {im : Image}

theorem exec_weightLoad (f : Fn) (n : Nat) (s : State) : exec (.weightLoad f n) s = execWeightLoad f n s := rfl
theorem exec_weightSwitch (f : Fn) (n : Nat) (l : Option (List Byte)) (s : State) :
    exec (.weightSwitch f n l) s = execWeightSwitch f n l s := rfl
theorem exec_weightSwitchCancel (f : Fn) (n : Nat) (s : State) : exec (.weightSwitchCancel f n) s = execWeightSwitchCancel f n s := rfl

/-- A load that nothing refuses starts, takes what was held for it and settles. -/
theorem weightLoad_starts (h : s.Carries f n (isCmd 0x0300) q) (image : (s.part q.part).image = some im)
    (idle : (s.part q.part).ws.load = none) (allowed : s.loadRefusal q.part im (q.payload.take 64) = none) :
    exec (.weightLoad f n) s = .next (((((s.begun f n q).loadStarted f n q im (q.payload.take 64)).jDo f q).takeHeld q.part
      (s.part q.part).ws).loadSettle q.part) := by
  have image' : ((s.begun f n q).part q.part).image = some im := image
  have idle' : ((s.begun f n q).part q.part).ws.load = none := idle
  have allowed' : (s.begun f n q).loadRefusal q.part im (q.payload.take 64) = none := allowed
  rw [exec_weightLoad, execWeightLoad]
  refine (command_carries h _).trans ?_
  simp only [image', idle', allowed']
  rfl

/-- The state in which a load settles for which nothing was held. -/
def State.loadTaken (s : State) (f : Fn) (n : Nat) (q : Slot) (im : Image) (d : List Byte) : State :=
  ((s.loadStarted f n q im d).jDo f q).updWs q.part (fun v => { v with heldFrom := (s.part q.part).ws.heldFrom })
theorem State.loadTaken_ws (s : State) (f : Fn) (n : Nat) (q : Slot) (im : Image) (d : List Byte) :
    ((s.loadTaken f n q im d).part q.part).ws =
      { (s.part q.part).ws.starting im d (f, n, q.postDtb) s.dtb with heldFrom := (s.part q.part).ws.heldFrom } := by
  rw [State.loadTaken, State.ws_updWs_self, State.jDo_part, State.loadStarted_part, State.ws_updWs_self]
theorem State.loadTaken_image (s : State) (f : Fn) (n : Nat) (q : Slot) (im : Image) (d : List Byte) :
    ((s.loadTaken f n q im d).part q.part).image = (s.part q.part).image := by
  rw [State.loadTaken, State.image_updWs_self, State.jDo_part, State.loadStarted_part, State.image_updWs_self]
theorem State.loadTaken_frame (s : State) (f : Fn) (n : Nat) (q : Slot) (im : Image) (d : List Byte) : ∃ x c w,
    s.loadTaken f n q im d = { s with parts := x, chans := c, fw := w } := by
  obtain ⟨x, c, started⟩ := s.loadStarted_frame f n q im d
  rw [State.loadTaken, started]
  exact ⟨_, _, _, rfl⟩

/-- A load that keeps chunks leaves its slot LOADING, and its command waits (R339). -/
theorem weightLoad_loads (h : s.Carries f n (isCmd 0x0300) q) (image : (s.part q.part).image = some im)
    (idle : (s.part q.part).ws.load = none) (empty : (s.part q.part).ws.held = [])
    (allowed : s.loadRefusal q.part im (q.payload.take 64) = none) (keeps : Ld.keepCount (q.payload.take 64) ≠ 0) :
    ∃ t l, exec (.weightLoad f n) s = .next t ∧ t.Waits f n ∧ t.cores = s.cores ∧ t.hbm = s.hbm ∧ (t.part q.part).ws.load = some l ∧
      l.desc = q.payload.take 64 ∧ l.cmd = (f, n, q.postDtb) ∧ l.kept = 0 ∧ l.start = s.dtb ∧
      (t.part q.part).ws.stOf (Ld.slot (q.payload.take 64)) = 1 ∧ (t.part q.part).ws.loadId = Ld.id (q.payload.take 64) := by
  have starts := weightLoad_starts h image idle allowed
  generalize q.payload.take 64 = d at *
  have ws := (s.begun f n q).loadTaken_ws f n q im d
  have image' := ((s.begun f n q).loadTaken_image f n q im d).trans image
  obtain ⟨x, c, w, taken⟩ := (s.begun f n q).loadTaken_frame f n q im d
  have load : (((s.begun f n q).loadTaken f n q im d).part q.part).ws.load =
      some { desc := d, cmd := (f, n, q.postDtb), start := s.dtb } := by rw [ws]; rfl
  obtain ⟨count, settles⟩ := State.loadSettle_goesOn image' load keeps.symm
  obtain ⟨e, sent⟩ := State.sentEnd_ws (im := im) load
  obtain ⟨y, z, frame⟩ := ((s.begun f n q).loadTaken f n q im d).sentEnd_frame q.part im
    { desc := d, cmd := (f, n, q.postDtb), start := s.dtb }
  rw [State.takeHeld_none _ _ empty] at starts
  refine ⟨_, _, starts.trans (congrArg Host.Outcome.next settles), h.waits ?_, ?_, ?_,
    by rw [State.ws_updWs_self, sent], rfl, rfl, rfl, rfl, ?_, ?_⟩
  · rw [frame, taken]
    rfl
  · rw [frame, taken]
    rfl
  · rw [frame, taken]
    rfl
  · rw [State.ws_updWs_self, sent, ws]
    exact (s.part q.part).ws.starting_stOf im d (f, n, q.postDtb) s.dtb
  · rw [State.ws_updWs_self, sent, ws]
    rfl

/-- A switch that nothing refuses is pending at its request, with its relocations (R347). -/
theorem weightSwitch_pends {l : List Byte} (h : s.Carries f n isSwitch q) (image : (s.part q.part).image = some im)
    (listed : swCount q.payload ≠ 0)
    (allowed : s.switchRefusal q.part im q.payload ((List.range (swCount q.payload)).map (fun i => sub l (8 * i) 8)) = none) :
    ∃ t, exec (.weightSwitch f n (some l)) s = .next t ∧ t.Completed f n Config.stOk [] ∧ t.cores = s.cores ∧ t.hbm = s.hbm ∧
      (t.part q.part).ws = (s.part q.part).ws.switching q.payload ((List.range (swCount q.payload)).map (fun i => sub l (8 * i) 8)) := by
  have image' : ((s.begun f n q).part q.part).image = some im := image
  have allowed' : (s.begun f n q).switchRefusal q.part im q.payload
    ((List.range (swCount q.payload)).map (fun i => sub l (8 * i) 8)) = none := allowed
  rw [exec_weightSwitch, execWeightSwitch]
  refine ⟨(((s.begun f n q).jDo f q).updWs q.part (fun w => w.switching q.payload
    ((List.range (swCount q.payload)).map (fun i => sub l (8 * i) 8)))).complete f n Config.stOk 0 [],
    (commandIf_carries h _).trans ?_, State.complete_completed _ _ _ _ _ _, ?_, ?_, ?_⟩
  · simp only [image', if_neg listed, allowed']
    rfl
  · exact State.complete_cores _ _ _ _ _ _
  · exact State.complete_hbm _ _ _ _ _ _
  · rw [State.complete_part, State.ws_updWs_self]
    rfl

/-- A pending switch is dropped (R349). -/
theorem weightSwitchCancel_drops (h : s.Carries f n isSwitchCancel q) (pending : (s.part q.part).ws.switchPending = true) :
    ∃ t, exec (.weightSwitchCancel f n) s = .next t ∧ t.Completed f n Config.stOk [] ∧ t.cores = s.cores ∧ t.hbm = s.hbm ∧
      (t.part q.part).ws = { (s.part q.part).ws with switchPending := false, selectWait := false } := by
  have pending' : ((s.begun f n q).part q.part).ws.switchPending = true := pending
  rw [exec_weightSwitchCancel, execWeightSwitchCancel]
  refine ⟨_, (commandIf_carries h _).trans (by rw [if_pos pending']), State.complete_completed _ _ _ _ _ _, ?_, ?_, ?_⟩
  · exact State.complete_cores _ _ _ _ _ _
  · exact State.complete_hbm _ _ _ _ _ _
  · rw [State.complete_part, State.ws_updWs_self]
    rfl

end

end Sys2Proof.Machine
end

section
namespace Sys2Proof.Machine

/-! ## Codec sessions (R384, R386, R390, R402) -/

section
variable (s : State) (k i : Nat)

/-- A session reads as what it was changed to, every other of its pair as before. -/
theorem State.sess_updSess (g : Session → Session) (j : Nat) :
    (s.updSess k i g).sess k j = if j = i then g (s.sess k i) else s.sess k j := by
  rw [State.updSess, State.sess, State.updPair, State.pair_setPair_self, Pair.sess, Cells.get_put]
  rfl
@[simp] theorem State.sess_updSess_self (g : Session → Session) : (s.updSess k i g).sess k i = g (s.sess k i) := by
  rw [State.sess_updSess, if_pos rfl]
@[simp] theorem State.sess_complete (f : Fn) (n st d : Nat) (r : List Byte) : (s.complete f n st d r).sess k i = s.sess k i := by
  rw [State.complete_frame]
  rfl

@[simp] theorem State.sess_jDo (f : Fn) (q : Slot) : (s.jDo f q).sess k i = s.sess k i := rfl

/-- A handle names an open session. -/
theorem State.byHandle_isOpen {s : State} {k i p a : Nat} (named : s.byHandle p a = some (k, i)) : (s.sess k i).isOpen = true := by
  unfold State.byHandle at named
  dsimp only at named
  split at named
  · rename_i checks
    cases named
    simp only [Bool.and_eq_true] at checks
    obtain ⟨⟨⟨-, isOpen⟩, -⟩, -⟩ := checks
    exact isOpen
  · cases named

/-- A session is closed but for its command: it keeps its generation, and its pair runs for it no longer. -/
def State.closed : State := (s.updSess k i (fun x => { gen := x.gen })).updPair k
  (fun y => if y.run != 0 && y.session == i then { y with run := 0, binOcc := 0 } else y)
theorem State.closed_sess : (s.closed k i).sess k i = { gen := (s.sess k i).gen } := by
  rw [← s.sess_updSess_self k i (fun x => { gen := x.gen }), State.closed, State.sess, State.updPair, State.pair_setPair_self]
  split
  · rfl
  · rfl
/-- A session without submits closes, and its close command completes. -/
theorem State.closeSession_completes {s : State} {k i : Nat} {f : Fn} {n post : Nat} (isOpen : (s.sess k i).isOpen = true)
    (empty : (s.sess k i).submits = []) (cmd : (s.sess k i).closeCmd = some (f, n, post)) (st : Nat) :
    s.closeSession k i st = (s.closed k i).completeIf f n post Config.stOk 0 [] := by
  unfold State.closeSession
  simp only [isOpen, empty, cmd, Bool.not_true, Bool.false_eq_true, if_false]
  rfl

end

/-- A session just opened. -/
def Session.opened (gen p : Nat) (d : List Byte) : Session := { gen := gen, isOpen := true, part := p, desc := d }
/-- A session that a close without DRAIN ends; its command is kept. -/
def Session.ending (cmd : Fn × Nat × Nat) (x : Session) : Session := { x with closing := 2, closeCmd := some cmd }
/-- Such a session closes at once where nothing is queued or awaits output. -/
theorem State.settleSession_ending {s : State} {k i : Nat} {f : Fn} {n post : Nat} {x : Session} (isOpen : (s.sess k i).isOpen = true)
    (ends : s.sess k i = x.ending (f, n, post)) (silent : x.outputs = []) (empty : x.submits = []) :
    s.settleSession k i = (s.closed k i).completeIf f n post Config.stOk 0 [] := by
  have outputs : (s.sess k i).outputs = [] := by rw [ends]; exact silent
  have closing : (s.sess k i).closing = 2 := by rw [ends]; rfl
  unfold State.settleSession
  simp only [isOpen, outputs, closing, List.isEmpty_nil, BEq.rfl, Bool.true_or, Bool.and_true, if_true]
  exact State.closeSession_completes isOpen (by rw [ends]; exact empty) (by rw [ends]; rfl) _
/-- A session whose buffer `b` no longer awaits release. -/
def Session.released (x : Session) (b : Nat) : Session := { x with
  frames := (x.frames.map (fun e => if e.1 = b then (b, { e.2 with outWait := false }) else e)).filter (fun e => !(e.1 == b && e.2.mark == 3)) }
theorem Session.released_frames {x : Session} {b : Nat} {e : Nat × FrameBuf} (own : e ∈ (x.released b).frames) (same : e.1 = b) :
    e.2.outWait = false ∧ e.2.mark ≠ 3 := by
  obtain ⟨mem, kept⟩ := List.mem_filter.1 own
  obtain ⟨e0, -, rfl⟩ := List.mem_map.1 mem
  refine ⟨?_, fun three => by simp [same, three] at kept⟩
  split
  · rfl
  · rename_i differs
    exact absurd (by rwa [if_neg differs] at same) differs

section
variable {f : Fn} {n k i : Nat} {s : State} {q : Slot}

theorem exec_codecOpen (f : Fn) (n : Nat) (s : State) : exec (.codecOpen f n) s = execCodecOpen f n s := rfl
theorem exec_codecSubmit (f : Fn) (n : Nat) (s : State) : exec (.codecSubmit f n) s = execCodecSubmit f n s := rfl
theorem exec_codecClose (f : Fn) (n : Nat) (s : State) : exec (.codecClose f n) s = execCodecClose f n s := rfl
theorem exec_codecRelease (f : Fn) (n : Nat) (s : State) : exec (.codecRelease f n) s = execCodecRelease f n s := rfl

/-- CODEC_OPEN opens the lowest session that is not open, under a new generation (R384). -/
theorem codecOpen_opens (h : s.Carries f n (isCmd 0x0500) q) (allowed : s.openRefusal q.part (q.payload.take 128) = none)
    (lowest : (List.range 16).find? (fun i => !(s.sess (Cd.pair (q.payload.take 128)) i).isOpen) = some i) :
    ∃ t, exec (.codecOpen f n) s = .next t ∧ t.cores = s.cores ∧ t.hbm = s.hbm ∧
      t.sess (Cd.pair (q.payload.take 128)) i =
        .opened (((s.sess (Cd.pair (q.payload.take 128)) i).gen + 1) % 65536) q.part (q.payload.take 128) ∧
      t.Completed f n Config.stOk (leBytes 4 (handleOf (Cd.pair (q.payload.take 128)) i
        (((s.sess (Cd.pair (q.payload.take 128)) i).gen + 1) % 65536))) ∧
      ∀ j, j ≠ i → t.sess (Cd.pair (q.payload.take 128)) j = s.sess (Cd.pair (q.payload.take 128)) j := by
  have allowed' : (s.begun f n q).openRefusal q.part (q.payload.take 128) = none := allowed
  have lowest' : (List.range 16).find? (fun i => !((s.begun f n q).sess (Cd.pair (q.payload.take 128)) i).isOpen) = some i := lowest
  rw [exec_codecOpen, execCodecOpen]
  refine ⟨(((s.begun f n q).updSess (Cd.pair (q.payload.take 128)) i (fun _ => .opened
    (((s.sess (Cd.pair (q.payload.take 128)) i).gen + 1) % 65536) q.part (q.payload.take 128))).jDo f q).complete f n Config.stOk 0
      (leBytes 4 (handleOf (Cd.pair (q.payload.take 128)) i (((s.sess (Cd.pair (q.payload.take 128)) i).gen + 1) % 65536))),
    (command_carries h _).trans ?_, ?_, ?_, ?_, State.complete_completed _ _ _ _ _ _, fun j differs => ?_⟩
  · simp only [allowed', lowest']
    rfl
  · exact State.complete_cores _ _ _ _ _ _
  · exact State.complete_hbm _ _ _ _ _ _
  · rw [State.sess_complete, State.sess_jDo, State.sess_updSess_self]
  · rw [State.sess_complete, State.sess_jDo, State.sess_updSess, if_neg differs]
    rfl

/-- CODEC_SUBMIT queues its record, and its command waits (R386). -/
theorem codecSubmit_queues (h : s.Carries f n (isCmd 0x0501) q)
    (named : s.byHandle q.part (fbits (q.payload.take 128) 0 23 0) = some (k, i)) (fields : submitBad (q.payload.take 128) = false)
    (unconditional : fld (q.payload.take 128) 24 5 = 0) (live : (s.sess k i).closing = 0) (room : (s.sess k i).submits.length < 32) :
    ∃ t, exec (.codecSubmit f n) s = .next t ∧ t.Waits f n ∧ t = { s with fns := t.fns, pairs := t.pairs } ∧
      t.sess k i = { s.sess k i with
        submits := (s.sess k i).submits ++ [{ fn := f, slot := n, post := q.postDtb, record := q.payload.take 128 }] } := by
  have named' : (s.begun f n q).byHandle q.part (fbits (q.payload.take 128) 0 23 0) = some (k, i) := named
  have live' : ((s.begun f n q).sess k i).closing = 0 := live
  have room' : ((s.begun f n q).sess k i).submits.length < 32 := room
  rw [exec_codecSubmit, execCodecSubmit]
  refine ⟨(s.begun f n q).updSess k i (fun x => { x with
    submits := x.submits ++ [{ fn := f, slot := n, post := q.postDtb, record := q.payload.take 128 }] }),
    (command_carries h _).trans ?_, h.waits rfl, rfl, State.sess_updSess_self _ _ _ _⟩
  simp [named', fields, unconditional, live', room']

/-- CODEC_CLOSE without DRAIN closes a session that has nothing to consume and nothing to output (R386). -/
theorem codecClose_closes (h : s.Carries f n (isCmd 0x0502) q) (named : s.byHandle q.part (fbits q.payload 0 23 0) = some (k, i))
    (live : (s.sess k i).closing = 0) (undrained : fbits q.payload 4 0 0 = 0) (silent : (s.sess k i).outputs = [])
    (empty : (s.sess k i).submits = []) :
    ∃ t, exec (.codecClose f n) s = .next t ∧ t.Completed f n Config.stOk [] ∧ t.cores = s.cores ∧ t.hbm = s.hbm ∧
      t.sess k i = { gen := (s.sess k i).gen } := by
  have named' : (s.begun f n q).byHandle q.part (fbits q.payload 0 23 0) = some (k, i) := named
  have live' : ((s.begun f n q).sess k i).closing = 0 := live
  have runs : exec (.codecClose f n) s = .next ((((s.begun f n q).jDo f q).updSess k i
      (Session.ending (f, n, q.postDtb))).settleSession k i) := by
    rw [exec_codecClose, execCodecClose]
    refine (command_carries h _).trans ?_
    simp only [named', live', undrained, bne_self_eq_false, Bool.false_eq_true, Nat.zero_ne_one, if_false]
    rfl
  generalize ready : ((s.begun f n q).jDo f q).updSess k i (Session.ending (f, n, q.postDtb)) = u at runs
  have sess : u.sess k i = (s.sess k i).ending (f, n, q.postDtb) := by
    rw [← ready, State.sess_updSess_self]
    rfl
  have slot : (u.closed k i).slot f n = { q with begun := true } := by
    rw [← ready]
    exact s.begun_slot f n q
  obtain ⟨-, post, ack, done, -⟩ := h.slot_eq
  have completes : (u.closed k i).completeIf f n q.postDtb Config.stOk 0 [] = (u.closed k i).complete f n Config.stOk 0 [] :=
    State.completeIf_waiting slot post ack done _ _ _
  rw [State.settleSession_ending (by rw [sess]; exact State.byHandle_isOpen named) sess silent empty, completes] at runs
  refine ⟨_, runs, State.complete_completed _ _ _ _ _ _, ?_, ?_, ?_⟩
  · rw [State.complete_cores, ← ready]
    rfl
  · rw [State.complete_hbm, ← ready]
    rfl
  · rw [State.sess_complete, State.closed_sess, sess]
    rfl

/-- CODEC_RELEASE completes; a buffer that awaits no output awaits release no longer (R390). -/
theorem codecRelease_releases (h : s.Carries f n (isCmd 0x0503) q) (named : s.byHandle q.part (fbits q.payload 0 23 0) = some (k, i))
    (pooled : fld q.payload 4 4 < Cd.pool (s.sess k i).desc) :
    ∃ t, exec (.codecRelease f n) s = .next t ∧ t.Completed f n Config.stOk [] ∧ t.cores = s.cores ∧ t.hbm = s.hbm ∧
      ((∀ u, u ∈ (s.sess k i).outputs → u.frame ≠ some (fld q.payload 4 4)) →
        t.sess k i = (s.sess k i).released (fld q.payload 4 4)) := by
  have named' : (s.begun f n q).byHandle q.part (fbits q.payload 0 23 0) = some (k, i) := named
  have pooled' : ¬ Cd.pool ((s.begun f n q).sess k i).desc ≤ fld q.payload 4 4 := Nat.not_le.2 pooled
  have runs : exec (.codecRelease f n) s = .next ((if (s.sess k i).outputs.any (fun u => u.frame == some (fld q.payload 4 4))
      then s.begun f n q else (s.begun f n q).updSess k i (fun x => x.released (fld q.payload 4 4))).complete f n Config.stOk 0 []) := by
    rw [exec_codecRelease, execCodecRelease]
    refine (command_carries h _).trans ?_
    simp only [named', if_neg pooled']
    rfl
  refine ⟨_, runs, State.complete_completed _ _ _ _ _ _, ?_, ?_, fun unawaited => ?_⟩
  · rw [State.complete_cores]
    split
    · rfl
    · rfl
  · rw [State.complete_hbm]
    split
    · rfl
    · rfl
  · rw [State.sess_complete, if_neg (by simpa using unawaited), State.sess_updSess_self]
    rfl

end

end Sys2Proof.Machine
end

section
namespace Sys2Proof.Machine

/-- Settles O50: each command's own effect, from the lemma that says what it does. -/
theorem slotCommandsComplete : Obligations.SlotCommandsComplete := by
  unfold Obligations.SlotCommandsComplete
  refine ⟨?load, ?switch, ?cancel, ?queue, ?query, ?opens, ?submit, ?close, ?release⟩
  case load =>
    intro f n s q im h image d idle empty allowed keeps
    exact weightLoad_loads h image idle empty allowed keeps
  case switch =>
    intro f n l s q im h image listed es allowed
    obtain ⟨t, next, completed, cores, hbm, ws⟩ := weightSwitch_pends h image listed allowed
    refine ⟨t, next, completed, cores, hbm, ?_⟩
    rw [ws]
    exact ⟨rfl, rfl, rfl, rfl⟩
  case cancel =>
    intro f n s q h pending
    exact weightSwitchCancel_drops h pending
  case queue =>
    intro code i f n s q own h image room
    rw [exec_postSeq own]
    exact postSeq_queues h image room
  case query =>
    intro f n s q im h image b owned
    exact slotQuery_answers h image owned
  case opens =>
    intro f n i s q h d k allowed lowest
    obtain ⟨t, next, cores, hbm, sess, completed, others⟩ := codecOpen_opens h allowed lowest
    refine ⟨t, next, cores, hbm, ?_⟩
    rw [sess]
    exact ⟨rfl, rfl, rfl, rfl, rfl, completed, others⟩
  case submit =>
    intro f n k i s q h b named fields unconditional live room
    exact codecSubmit_queues h named fields unconditional live room
  case close =>
    intro f n k i s q h named live undrained silent empty
    exact codecClose_closes h named live undrained silent empty
  case release =>
    intro f n k i s q h named pooled
    obtain ⟨t, next, completed, cores, hbm, sess⟩ := codecRelease_releases h named pooled
    refine ⟨t, next, completed, cores, hbm, fun unawaited e own same => ?_⟩
    rw [sess unawaited] at own
    exact Session.released_frames own same

end Sys2Proof.Machine
end

section
namespace Sys2Proof.Machine

/-! ## Loops and variants (R98, R217) -/

/-- A loop body that ends at the next instruction, with no variant in force: it runs once more, or its frame is gone. -/
theorem settle_of_loop_end (n : Nat) {q : Seq} {l : LoopFrame} {r : List LoopFrame} (loops : q.loops = l :: r) (variants : q.variants = [])
    (ends : q.pc = l.start + l.body) :
    settle (n + 1) q = if l.iter + 1 < l.count then { q with pc := l.start, loops := { l with iter := l.iter + 1 } :: r }
      else settle n { q with loops := r } := by
  simp [settle, loops, variants, ends]

/-- The frame of a VARIANT at the instruction it stands at: the stream that its layer's STATE selects (R98, R217). -/
def Ctx.variantFrame (x : Ctx) (q : Seq) (wide : Bool) : VariantFrame :=
  ⟨x.f 17 8, wide, if wide then q.pc + 1 + x.f 37 18 else q.pc + 1,
    if wide then q.pc + 1 + x.f 37 18 + x.f 57 38 else q.pc + 1 + x.f 37 18, q.pc + 1 + x.f 37 18 + x.f 57 38⟩
/-- The sequencer inside a variant frame, at its first instruction. -/
def Seq.inVariant (q : Seq) (v : VariantFrame) : Seq :=
  settle 16 { q with pc := v.first, run := 1, waitFrom := none, variants := v :: q.variants }

theorem exec_variant {c : Nat} {s : State} {x : Ctx} (issues : s.Issues c ⟨6, 2, 0⟩ x) (reserved : x.f 127 58 = 0)
    (layer : x.f 17 8 < tpLayers x.im.bytes) (inside : (s.core c).seq.pc + 1 + x.f 37 18 + x.f 57 38 ≤ bodyEnd (s.core c).seq x.len) :
    exec (.variant c) s = .next ((s.updSeq c (fun q => q.inVariant
      (x.variantFrame (s.core c).seq (decide (s.layerState x.p x.im (x.f 17 8) = 1))))).updCore c (fun k => k.note 0x010 1)) := by
  have ofCore : x.c = c := (State.ctx_core issues.ctx).1
  have row : exec (.variant c) s = execVariant c s := rfl
  have legal : (x.f 127 58 != 0 || decide (tpLayers x.im.bytes ≤ x.f 17 8)
      || decide (bodyEnd (s.core c).seq x.len < (s.core c).seq.pc + 1 + x.f 37 18 + x.f 57 38)) = false := by
    simp [reserved, layer, inside]
  rw [row, execVariant, issue_of_issues issues]
  dsimp only
  rw [if_neg (by rw [legal]; decide), finish, ofCore]
  simp only [Ctx.variantFrame, Seq.inVariant, decide_eq_true_eq]

/-- Settles O10: `settle` at the end of a body, and VARIANT as the entry of the frame its layer selects. -/
theorem loopsAndVariantsRun : Obligations.LoopsAndVariantsRun := by
  unfold Obligations.LoopsAndVariantsRun
  refine ⟨fun n q l r loops variants ends => settle_of_loop_end n loops variants ends, fun c s x issues reserved layer inside => ?_⟩
  refine ⟨_, exec_variant issues reserved layer inside, ?_, ?_, (s.updCore_onlyCore c _).trans (State.updCore_onlyCore _ c _)⟩
  · rw [State.core_updCore_self, State.updSeq, State.core_updCore_self]
    rfl
  · rw [State.core_updCore_self, State.updSeq, State.core_updCore_self]
    rfl

/-! ## BEAT_WAIT (R212, R213, R364) -/

/-- The sequencer of a core that enters beat `b`: the messages of earlier beats are forgotten. -/
def Seq.enter (q : Seq) (b : Nat) : Seq := { q with curBeat := b, recv := q.recv.filter (fun e => b ≤ e.1) }
theorem Seq.next_curBeat (q : Seq) : q.next.curBeat = q.curBeat := Seq.next_keeps Seq.curBeat (fun _ _ _ _ => rfl) (fun _ => rfl) q
theorem State.enterBeat_core_self (s : State) (c b : Nat) :
    (s.enterBeat c b).core c = { (s.core c).switchTables b with seq := (s.core c).seq.enter b } := by
  rw [State.enterBeat, State.core_updCore_self]
  rfl

/-- The sequencer of a core that waits; its stall clock runs from the first try (R214). -/
def Seq.waiting (q : Seq) (run now : Nat) : Seq :=
  { q with run := run, waitFrom := match q.waitFrom with | some t => some t | none => some now }
theorem State.startWait_eq (s : State) (c run : Nat) : s.startWait c run = s.updSeq c (fun q => q.waiting run s.dtb) := rfl
theorem State.startWait_onlyCore (s : State) (c run : Nat) : s.OnlyCore (s.startWait c run) c :=
  ⟨rfl, fun _ h => State.core_updCore_other _ _ h⟩
theorem State.startWait_core_self (s : State) (c run : Nat) :
    (s.startWait c run).core c = { s.core c with seq := (s.core c).seq.waiting run s.dtb } := by
  rw [State.startWait_eq, State.updSeq, State.core_updCore_self]

section
variable {c : Nat} {s : State} {x : Ctx}

theorem exec_beatWait (issues : s.Issues c ⟨4, 0, 0⟩ x) (reserved : x.f 127 57 = 0) : exec (.beatWait c) s = finish x s (
    if beatTarget x (s.core c).seq.curBeat < (s.core c).seq.curBeat then
      .wait ((s.stopCore c 5 x.w).report x.p Config.stScheduleFault 5 (s.core c).seq.curBeat ⟨0, c⟩)
    else if beatsFull x.im x.unit (s.core c).seq.recv (s.core c).seq.curBeat (beatTarget x (s.core c).seq.curBeat) then
      .done (s.enterBeat c (beatTarget x (s.core c).seq.curBeat + 1))
    else .wait (s.startWait c 2)) := by
  have row : exec (.beatWait c) s = execBeatWait c s := rfl
  rw [row, execBeatWait, issue_of_issues issues]
  dsimp only
  rw [if_neg (by simp [reserved])]

/-- BEAT_WAIT of a beat that the core has left stops it (R213). -/
theorem beatWait_late (issues : s.Issues c ⟨4, 0, 0⟩ x) (reserved : x.f 127 57 = 0)
    (late : beatTarget x (s.core c).seq.curBeat < (s.core c).seq.curBeat) : exec (.beatWait c) s =
      .next ((s.stopCore c 5 x.w).report x.p Config.stScheduleFault 5 (s.core c).seq.curBeat ⟨0, c⟩) := by
  rw [exec_beatWait issues reserved, if_pos late]
  rfl
theorem beatWait_full (issues : s.Issues c ⟨4, 0, 0⟩ x) (reserved : x.f 127 57 = 0)
    (ahead : (s.core c).seq.curBeat ≤ beatTarget x (s.core c).seq.curBeat)
    (full : beatsFull x.im x.unit (s.core c).seq.recv (s.core c).seq.curBeat (beatTarget x (s.core c).seq.curBeat) = true) :
    exec (.beatWait c) s = .next ((s.enterBeat c (beatTarget x (s.core c).seq.curBeat + 1)).advance c) := by
  have ofCore : x.c = c := (State.ctx_core issues.ctx).1
  rw [exec_beatWait issues reserved, if_neg (Nat.not_lt.2 ahead), full, if_pos rfl, finish, ofCore]
theorem beatWait_waits (issues : s.Issues c ⟨4, 0, 0⟩ x) (reserved : x.f 127 57 = 0)
    (ahead : (s.core c).seq.curBeat ≤ beatTarget x (s.core c).seq.curBeat)
    (short : beatsFull x.im x.unit (s.core c).seq.recv (s.core c).seq.curBeat (beatTarget x (s.core c).seq.curBeat) = false) :
    exec (.beatWait c) s = .next (s.startWait c 2) := by
  rw [exec_beatWait issues reserved, if_neg (Nat.not_lt.2 ahead), short, if_neg (by decide)]
  rfl

/-! ## SIGNAL_WAIT (R216) -/

/-- The watch that a SIGNAL_WAIT registers at the home bank of its word. -/
def Ctx.watch (x : Ctx) (c a : Nat) : Watch := { part := x.p, core := c, addr := a, value := x.f 79 48, cmp := x.f 81 80 }

/-- A SIGNAL_WAIT whose fields are legal and whose word is an aligned one of its partition's memory. -/
structure State.Signals (s : State) (c : Nat) (x : Ctx) (a : Nat) : Prop where
  issues : s.Issues c ⟨4, 1, 0⟩ x
  reserved : x.f 127 82 = 0
  cmp : x.f 81 80 < 2
  aligned : x.f 47 8 % 4 = 0
  place : devPhys (s.part x.p).geo (x.f 47 8) = some a

theorem exec_signalWait {a : Nat} (h : s.Signals c x a) : exec (.signalWait c) s = finish x s (
    match s.watches.find? (fun w => w.core == c) with
    | some w => if w.answered then .done { s with watches := s.watches.filter (fun w => w.core != c) } else .wait s
    | none => if watchMet (x.watch c a) (s.wordAt a) then .done s
        else .wait ({ s with watches := s.watches ++ [x.watch c a] }.startWait c 3)) := by
  have row : exec (.signalWait c) s = execSignalWait c s := rfl
  rw [row, execSignalWait, issue_of_issues h.issues]
  dsimp only
  rw [if_neg (by simp [h.reserved, h.cmp, h.aligned]), h.place]
  rfl

end

/-- Settles O11: the outcomes of a BEAT_WAIT, and of a SIGNAL_WAIT with and without a registered watch. -/
theorem waitsComplete : Obligations.WaitsComplete := by
  unfold Obligations.WaitsComplete
  refine ⟨?beat, ?signal⟩
  case beat =>
    intro c s x issues reserved
    refine ⟨beatWait_late issues reserved, fun ahead full => ?_, fun ahead short => ?_⟩
    · refine ⟨_, beatWait_full issues reserved ahead full, ?_⟩
      have self : ((s.enterBeat c (beatTarget x (s.core c).seq.curBeat + 1)).advance c).core c = _ :=
        (State.advance_core _ c c).trans ((if_pos rfl).trans (congrArg (Core.retire · 0x010) (State.enterBeat_core_self ..)))
      rw [self]
      exact ⟨rfl, Seq.next_curBeat _, rfl, (s.updCore_onlyCore c _).trans (State.advance_frame _ c)⟩
    · refine ⟨_, beatWait_waits issues reserved ahead short, ?_⟩
      rw [State.startWait_core_self]
      exact ⟨rfl, rfl, rfl, rfl, s.startWait_onlyCore c 2⟩
  case signal =>
    intro c s x a issues reserved cmp aligned place
    have signals : s.Signals c x a := ⟨issues, reserved, cmp, aligned, place⟩
    have ofCore : x.c = c := (State.ctx_core issues.ctx).1
    refine ⟨fun fresh met => ?_, fun fresh unmet => ?_, fun v registered answered => ?_, fun v registered silent => ?_⟩
    · rw [exec_signalWait signals, fresh]
      dsimp only
      rw [Ctx.watch, met, if_pos rfl, finish, ofCore]
    · rw [exec_signalWait signals, fresh]
      dsimp only
      rw [Ctx.watch, unmet, if_neg (by decide)]
      refine ⟨_, rfl, rfl, ?_, ?_, rfl, rfl, fun d other => State.core_updCore_other _ _ other⟩
      · rw [State.startWait_core_self]
        rfl
      · rw [State.startWait_core_self]
        rfl
    · rw [exec_signalWait signals, registered]
      dsimp only
      rw [answered, if_pos rfl, finish, ofCore]
      refine ⟨_, rfl, rfl, ?_, rfl, rfl, fun d other => State.core_updCore_other _ _ other⟩
      rw [State.advance_core, if_pos rfl]
      rfl
    · rw [exec_signalWait signals, registered]
      dsimp only
      rw [silent, if_neg (by decide)]
      rfl

end Sys2Proof.Machine
end

section
namespace Sys2Proof.Machine

/-! ## Claim slots and counters (R221, R223) -/

theorem Core.claim_setClaim (k : Core) {n : Nat} (h : n < k.claims.length) (q : ClaimSlot) (j : Nat) :
    (k.setClaim n q).claim j = if j = n then q else k.claim j := by
  unfold Core.claim Core.setClaim
  by_cases same : j = n
  · simp [same, h]
  · simp [same, Ne.symm same, List.getD_eq_getElem?_getD]
/-- A slot index of an instruction is one of the four (Table 10.5). -/
theorem Ctx.claimSlot_lt (x : Ctx) : x.f 27 26 < 4 := Nat.mod_lt _ (by decide)

@[simp] theorem Partition.counter_setCounter (x : Partition) (n m : Nat) (k : Counter) :
    (x.setCounter n k).counter m = if m = n then k else x.counter m := Cells.get_put _ _ _ _ _
theorem State.updCounter_part_self (s : State) (p n : Nat) (f : Counter → Counter) :
    (s.updCounter p n f).part p = (s.part p).setCounter n (f ((s.part p).counter n)) := State.part_updPart_self s p _
theorem State.updCounter_part_other (s : State) {p r : Nat} (h : r ≠ p) (n : Nat) (f : Counter → Counter) :
    (s.updCounter p n f).part r = s.part r := by
  rw [State.updCounter, State.part_updPart, if_neg h]
theorem State.updCounter_counter (s : State) (p n m : Nat) (f : Counter → Counter) :
    ((s.updCounter p n f).part p).counter m = if m = n then f ((s.part p).counter n) else (s.part p).counter m := by
  rw [State.updCounter_part_self, Partition.counter_setCounter]

/-! ## CLAIM and CLAIM_DONE (R221 to R224) -/

/-- Claim slot `sl` of core `c` becomes `q`, counter `n` of partition `p` takes note by `f`, and the core goes on. -/
def State.claimed (s : State) (p c n sl : Nat) (q : ClaimSlot) (f : Counter → Counter) : State :=
  ((s.updCore c (fun k => k.setClaim sl q)).updCounter p n f).advance c

theorem State.claimed_frame (s : State) (p c n sl : Nat) (q : ClaimSlot) (f : Counter → Counter) : s.claimed p c n sl q f =
    { s with cores := (s.claimed p c n sl q f).cores, parts := (s.claimed p c n sl q f).parts } := rfl
theorem State.claimed_core_other (s : State) {c e : Nat} (h : e ≠ c) (p n sl : Nat) (q : ClaimSlot) (f : Counter → Counter) :
    (s.claimed p c n sl q f).core e = s.core e := by
  rw [State.claimed, State.advance_core, if_neg h, State.updCounter_core, State.core_updCore_other _ _ h]
theorem State.claimed_core_self (s : State) (p c n sl : Nat) (q : ClaimSlot) (f : Counter → Counter) :
    (s.claimed p c n sl q f).core c = ((s.core c).setClaim sl q).retire 0x010 := by
  rw [State.claimed, State.advance_core, if_pos rfl, State.updCounter_core, State.core_updCore_self]
theorem State.claimed_claim (s : State) {c sl : Nat} (h : sl < (s.core c).claims.length) (p n j : Nat) (q : ClaimSlot) (f : Counter → Counter) :
    ((s.claimed p c n sl q f).core c).claim j = if j = sl then q else (s.core c).claim j := by
  rw [State.claimed_core_self]
  exact Core.claim_setClaim _ h q j
theorem State.claimed_counter (s : State) (p c n sl m : Nat) (q : ClaimSlot) (f : Counter → Counter) :
    ((s.claimed p c n sl q f).part p).counter m = if m = n then f ((s.part p).counter n) else (s.part p).counter m :=
  State.updCounter_counter _ p n m f
theorem State.claimed_part_other (s : State) {p r : Nat} (h : r ≠ p) (c n sl : Nat) (q : ClaimSlot) (f : Counter → Counter) :
    (s.claimed p c n sl q f).part r = s.part r := State.updCounter_part_other _ h n f

section
variable {c : Nat} {s : State} {x : Ctx}

/-- A CLAIM that is legal and has nothing to wait for (R223). -/
theorem exec_claim (issues : s.Issues c ⟨4, 4, 0⟩ x) (reserved : x.f 127 28 = 0) (patch : patchBad ((s.core c).descriptor (x.f 25 18)) = false)
    (operands : patchesOther x.im x.k ((s.core c).descriptor (x.f 25 18)) = false) (declared : (claimRec x.im (x.f 17 8)).isSome = true)
    (free : ((s.core c).claim (x.f 27 26)).isOpen = false) (settled : ((s.core c).claim (x.f 27 26)).done = false)
    (unpatched : (s.core c).claimWait [x.f 25 18] = false) : exec (.claim c) s = .next (s.claimed x.p c (x.f 17 8) (x.f 27 26)
      { counter := x.f 17 8, isOpen := true, pending := true, patch := (s.core c).descriptor (x.f 25 18) }
      (fun k => { k with queue := k.queue ++ [{ core := c, slot := x.f 27 26 }] })) := by
  have ofCore : x.c = c := (State.ctx_core issues.ctx).1
  have row : exec (.claim c) s = execClaim c s := rfl
  have named : (claimRec x.im (x.f 17 8)).isNone = false := by simp [declared]
  rw [row, execClaim, issue_of_issues issues]
  dsimp only
  rw [if_neg (by simp [reserved, patch, operands, named, free]), if_neg (by simp [settled, unpatched]), finish, ofCore]
  rfl

/-- A CLAIM_DONE whose turn has come: a slot that is not open has nothing to present (R224). -/
theorem exec_claimDone (issues : s.Issues c ⟨4, 5, 0⟩ x) (low : x.f 25 8 = 0) (high : x.f 127 28 = 0) (done : s.allDone c = true) :
    exec (.claimDone c) s = .next (if ((s.core c).claim (x.f 27 26)).isOpen = false then s.advance c else
      s.claimed x.p c ((s.core c).claim (x.f 27 26)).counter (x.f 27 26) { (s.core c).claim (x.f 27 26) with done := true }
        (fun k => { k with dones := k.dones ++
          [{ core := c, slot := x.f 27 26, idx := ((s.core c).claim (x.f 27 26)).idx, tok := ((s.core c).claim (x.f 27 26)).tok }] })) := by
  have ofCore : x.c = c := (State.ctx_core issues.ctx).1
  have row : exec (.claimDone c) s = execClaimDone c s := rfl
  rw [row, execClaimDone, issue_of_issues issues]
  dsimp only
  rw [if_neg (by simp [low, high]), if_neg (by simp [done])]
  cases ((s.core c).claim (x.f 27 26)).isOpen with
  | false => rw [if_pos (by decide), if_pos rfl, finish, ofCore]
  | true =>
    rw [if_neg (by decide), if_neg (by decide), finish, ofCore]
    rfl

end

/-- Settles O23: both rows change one claim slot of their core and the queue or the presentations of one counter. -/
theorem claimRowsComplete : Obligations.ClaimRowsComplete := by
  unfold Obligations.ClaimRowsComplete
  refine ⟨?claim, ?done⟩
  case claim =>
    intro c s x issues reserved four k sl d patch operands declared free settled unpatched
    have slot : sl < (s.core c).claims.length := four ▸ x.claimSlot_lt
    refine ⟨_, exec_claim issues reserved patch operands declared free settled unpatched, State.claimed_frame ..,
      fun e other => s.claimed_core_other other .., ?_, fun n other => ?_, ?_, ?_, fun n other => ?_, fun p other => s.claimed_part_other other ..⟩
    · rw [s.claimed_claim slot, if_pos rfl]
    · rw [s.claimed_claim slot, if_neg other]
    · rw [State.claimed_core_self]
      rfl
    · rw [State.claimed_counter, if_pos rfl]
    · rw [State.claimed_counter, if_neg other]
  case done =>
    intro c s x issues low high done four k q
    have slot : x.f 27 26 < (s.core c).claims.length := four ▸ x.claimSlot_lt
    have row := exec_claimDone issues low high done
    refine ⟨fun shut => ⟨_, row, if_pos shut⟩, fun opened => ?_⟩
    rw [if_neg (by rw [show ((s.core c).claim (x.f 27 26)).isOpen = true from opened]; decide)] at row
    refine ⟨_, row, State.claimed_frame .., fun e other => s.claimed_core_other other .., ?_, fun n other => ?_, ?_, ?_,
      fun p other => s.claimed_part_other other ..⟩
    · rw [s.claimed_claim slot, if_pos rfl]
    · rw [s.claimed_claim slot, if_neg other]
    · rw [State.claimed_core_self]
      rfl
    · rw [State.claimed_counter, if_pos rfl]

end Sys2Proof.Machine
end

section
namespace Sys2Proof.Machine

/-! ## What writes to memory leave alone -/

/-- A view of the state that no write to a partition's memory changes: not memory itself, nor what calving, events and reports change
(R269, R464). -/
structure State.Unwritten {α : Type} (π : State → α) (p : Nat) : Prop where
  mem : ∀ t u, State.MemOnly t u → π u = π t
  points : ∀ t f, π (State.updRcv t p f) = π t
  event : ∀ t e, π (State.event t e) = π t
  report : ∀ t st d b u, π (State.report t p st d b u) = π t

section
variable {α : Type} {π : State → α} {p : Nat}

theorem State.Unwritten.calve (h : State.Unwritten π p) (s : State) (x : Nat) : π (s.calve p x) = π s := by
  unfold State.calve
  split
  · split
    · split
      · exact h.points s _
      · exact (h.event _ _).trans (h.points s _)
    · rfl
  · rfl
theorem State.Unwritten.storeByte (h : State.Unwritten π p) (s : State) (cls a : Nat) (b : Byte) : π (s.storeByte p cls a b) = π s :=
  h.mem _ _ (s.storeByte_spec p cls a b).1
theorem State.Unwritten.storeTurn (h : State.Unwritten π p) (s : State) (cls : Nat) (lift : Bool) (e : Nat × Byte) :
    π (s.storeTurn p cls lift e) = π s := by
  have lifted : π (if lift then s.calve p e.1 else s) = π s := by
    split
    · exact h.calve s e.1
    · rfl
  unfold State.storeTurn
  split
  · split
    · rfl
    · exact (h.storeByte _ _ _ _).trans lifted
  · rfl
theorem State.Unwritten.storeBytes (h : State.Unwritten π p) (s : State) (cls : Nat) (lift : Bool) (es : List (Nat × Byte)) :
    π (s.storeBytes p cls lift es) = π s := by
  induction es generalizing s with
  | nil => rfl
  | cons e r ih => rw [State.storeBytes_cons, ih, h.storeTurn]
theorem State.Unwritten.fenceReport (h : State.Unwritten π p) (s : State) (b : Nat) (xs : List Nat) : π (s.fenceReport p b xs) = π s := by
  unfold State.fenceReport
  split
  · rfl
  · exact h.report s _ _ _ _
theorem State.Unwritten.storeAt (h : State.Unwritten π p) (s : State) (cls : Nat) (lift : Bool) (x : Nat) (bs : List Byte) :
    π (s.storeAt p cls lift x bs) = π s := (h.fenceReport _ _ _).trans (h.storeBytes s cls lift _)
theorem State.Unwritten.storeRun (h : State.Unwritten π p) (s : State) (a : Nat) (bs : List Byte) : π (s.storeRun p a bs) = π s := by
  induction bs generalizing s a with
  | nil => rfl
  | cons b r ih => rw [State.storeRun, ih, h.storeByte, h.calve]
theorem State.Unwritten.storeF (h : State.Unwritten π p) (s : State) (a : Nat) (bs : List Byte) : π (s.storeF p a bs) = π s := by
  unfold State.storeF
  dsimp only
  split
  · exact h.storeRun s a bs
  · exact (h.report _ _ _ _ _).trans (h.storeRun s a bs)

end

/-- Writes to one partition's memory leave every other partition. -/
theorem State.part_unwritten {p r : Nat} (h : r ≠ p) : State.Unwritten (fun s => s.part r) p where
  mem _ _ only := only.part r
  points _ _ := State.part_setPart_other _ _ h
  event _ _ := State.event_part ..
  report _ _ _ _ _ := State.part_setPart_other _ _ h

/-- The counters of every partition, and every core. -/
def State.claimView (s : State) : (Nat → List (Nat × Counter)) × (Nat → Core) := (fun p => (s.part p).counters, s.core)

theorem State.counter_of_claimView {s t : State} (h : t.claimView = s.claimView) (p n : Nat) : (t.part p).counter n = (s.part p).counter n := by
  have counters : (t.part p).counters = (s.part p).counters := congrFun (congrArg Prod.fst h) p
  rw [Partition.counter, Partition.counter, counters]
theorem State.core_of_claimView {s t : State} (h : t.claimView = s.claimView) (c : Nat) : t.core c = s.core c := congrFun (congrArg Prod.snd h) c

section
variable (s : State) (p : Nat)

theorem State.updPart_claimView {f : Partition → Partition} (keeps : ∀ x, (f x).counters = x.counters) :
    (s.updPart p f).claimView = s.claimView := by
  refine Prod.ext (funext fun q => ?_) rfl
  change ((s.updPart p f).part q).counters = (s.part q).counters
  rw [State.part_updPart]
  split
  · rename_i same
    rw [keeps, same]
  · rfl
theorem State.addRedFlags_claimView (f : Fl) : (s.addRedFlags p f).claimView = s.claimView := s.updPart_claimView p fun _ => rfl
theorem State.fence_claimView (n : Nat) : (s.fence p n).claimView = s.claimView := s.updPart_claimView p fun _ => rfl
theorem State.updShelf_claimView (k : Nat) (f : Shelf → Shelf) : (s.updShelf k f).claimView = s.claimView := rfl
theorem State.noteShelf_claimView (k e n : Nat) : (s.noteShelf k p e n).claimView = s.claimView := rfl
theorem State.answer_claimView : s.answer.claimView = s.claimView := rfl
theorem State.claimView_unwritten : State.Unwritten State.claimView p where
  mem _ _ only := by rw [only.eq]; rfl
  points t _ := t.updPart_claimView p fun _ => rfl
  event t _ := by rw [State.event_frame]; rfl
  report t _ _ _ _ := t.updPart_claimView p fun _ => rfl
theorem State.storeF_claimView (a : Nat) (bs : List Byte) : (s.storeF p a bs).claimView = s.claimView :=
  (State.claimView_unwritten p).storeF s a bs
theorem State.putLedger_claimView (im : Image) (n idx v : Nat) : (s.putLedger p im n idx v).claimView = s.claimView :=
  (State.answer_claimView _).trans ((State.claimView_unwritten p).storeAt s 1 false _ _)

end

/-! ## Contributions to reducer regions leave them too (R224, R258, R261) -/

theorem State.glacier_claimView (s : State) (sh e : Nat) (g : Region) (i : Nat) (v : Val) (beat : Nat) :
    (s.glacier sh e g i v beat).claimView = s.claimView := by
  unfold State.glacier
  dsimp only
  split
  · exact (State.claimView_unwritten _).report s _ _ _ _
  · split
    · rw [State.answer_claimView, State.updShelf_claimView, State.addRedFlags_claimView, State.storeF_claimView, State.storeF_claimView,
        State.noteShelf_claimView, State.noteShelf_claimView]
    · rw [State.updShelf_claimView, State.storeF_claimView, State.noteShelf_claimView]
theorem State.contribute_claimView (s : State) (sh e : Nat) (g : Region) (i code beat : Nat) :
    (s.contribute sh e g i code beat).claimView = s.claimView := by
  have noted : (if (1 ≤ g.op && g.op ≤ 3) = true then s.noteShelf sh g.owner 0x260 1 else s).claimView = s.claimView := by
    split
    · rfl
    · rfl
  unfold State.contribute
  dsimp only
  split
  · rw [State.answer_claimView, State.storeF_claimView, noted]
  · rw [State.answer_claimView, State.storeF_claimView, noted]
  · rw [State.answer_claimView, State.storeF_claimView, noted]
  · rw [State.glacier_claimView, noted]
  · exact noted
theorem State.foldHeld_claimView (s : State) (p : Nat) (hs : List HeldContrib) : (s.foldHeld p hs).claimView = s.claimView := by
  refine foldl_keeps State.claimView (fun t h => ?_) hs s
  split
  · split
    · rfl
    · exact t.contribute_claimView _ _ _ _ _ _
  · rfl

/-! ## What serves a request does not touch memory before its answer -/

@[simp] theorem State.noteShelf_hb (s : State) (k p e n a : Nat) : (s.noteShelf k p e n).hb a = s.hb a := by
  refine State.hb_congr_line ?_ rfl
  rw [State.noteShelf, State.line_updShelf]
  split
  · rename_i home
    rw [State.line, home]
  · rfl
theorem State.noteShelf_ledger (s : State) (k p e n q : Nat) (im : Image) (m i : Nat) :
    (s.noteShelf k p e n).ledger q im m i = s.ledger q im m i := State.leX_congr (fun _ => State.noteShelf_hb ..) _ _ _

/-! ## What `claim` answers (R222) -/

/-- A loop that keeps the lower of what it has and what it meets finds the least entry. -/
theorem foldl_eq_min? {f : Option Nat → Nat → Option Nat} (first : ∀ i, f none i = some i) (next : ∀ j i, f (some j) i = some (min i j))
    (l : List Nat) : l.foldl f none = l.min? := by
  have more : ∀ (r : List Nat) j, r.foldl f (some j) = some (r.foldl min j) := by
    intro r
    induction r with
    | nil => exact fun _ => rfl
    | cons i r ih => exact fun j => by rw [List.foldl_cons, List.foldl_cons, next, ih, Nat.min_comm]
  cases l with
  | nil => rfl
  | cons i r => rw [List.foldl_cons, first, more, List.min?_cons']
/-- An index to be reissued goes first, the lowest of them. -/
theorem Counter.take_reissues {q : Counter} {i : Nat} (mem : i ∈ q.reissue) (least : ∀ j ∈ q.reissue, i ≤ j) (limit : Nat) :
    q.take limit = ({ q with reissue := q.reissue.filter (fun j => j != i) }, some (i, q.epoch)) := by
  have lowest : q.reissue.min? = some i := List.min?_eq_some_iff.2 ⟨mem, least⟩
  unfold Counter.take
  rw [foldl_eq_min? (fun _ => rfl) (fun _ _ => rfl), lowest]
/-- Else the next index below LIMIT. -/
theorem Counter.take_next {q : Counter} {limit : Nat} (noReissue : q.reissue = []) (below : q.next < limit) :
    q.take limit = ({ q with next := q.next + 1 }, some (q.next, q.epoch)) := by
  simp [Counter.take, noReissue, below]
theorem Counter.take_exhausted {q : Counter} {limit : Nat} (noReissue : q.reissue = []) (past : limit ≤ q.next) : q.take limit = (q, none) := by
  simp [Counter.take, noReissue, Nat.not_lt.2 past]

end Sys2Proof.Machine
end

section
namespace Sys2Proof.Machine

/-! ## CLAIM_REQUEST (R222, R223) -/

/-- Core `t` is core `k` with claim slot `n` answered: beside it, only descriptors that its patches name and the notes may differ. -/
def Core.Replies (k t : Core) (n : Nat) (q : ClaimSlot) : Prop := t = { k.setClaim n q with desc := t.desc, tally := t.tally }

theorem Core.patch_frame (k : Core) (d : List Byte) (o idx : Nat) : k.patch d o idx = { k with desc := (k.patch d o idx).desc } := by
  unfold Core.patch
  split
  · rfl
  · dsimp only
    split <;> rfl
theorem Core.patchNone_frame (k : Core) (d : List Byte) (o : Nat) : k.patchNone d o = { k with desc := (k.patchNone d o).desc } := by
  unfold Core.patchNone
  split <;> rfl
theorem Core.replies_patch (k : Core) (e n : Nat) (q : ClaimSlot) (d : List Byte) (idx : Nat) :
    k.Replies ((((k.note e 1).setClaim n q).patch d 0 idx).patch d 16 idx) n q := by
  rw [Core.Replies, Core.patch_frame, Core.patch_frame _ d 0]
  rfl
theorem Core.replies_patchNone (k : Core) (e n : Nat) (q : ClaimSlot) (d : List Byte) :
    k.Replies ((((k.note e 1).setClaim n q).patchNone d 0).patchNone d 16) n q := by
  rw [Core.Replies, Core.patchNone_frame, Core.patchNone_frame _ d 0]
  rfl

/-- The home bank has answered request `q`: counter `n` of partition `p` is `k`, and the slot of the request's core is `r`. -/
structure State.ServesClaim (s t : State) (p n : Nat) (q : ClaimReq) (k : Counter) (r : ClaimSlot) : Prop where
  counter : (t.part p).counter n = k
  others : ∀ d, d ≠ q.core → t.core d = s.core d
  self : (s.core q.core).Replies (t.core q.core) q.slot r

/-- A core that takes a reply, in a state that left the cores as they were. -/
theorem State.ServesClaim.of_updCore {s u : State} {p n : Nat} {q : ClaimReq} {k : Counter} {r : ClaimSlot} {f : Core → Core}
    (counter : (u.part p).counter n = k) (cores : ∀ d, u.core d = s.core d) (reply : (s.core q.core).Replies (f (s.core q.core)) q.slot r) :
    s.ServesClaim (u.updCore q.core f) p n q k r where
  counter := counter
  others d other := by rw [State.core_updCore_other _ _ other, cores]
  self := by rwa [State.core_updCore_self, cores]

section
variable {s t : State} {p n : Nat} {q : ClaimReq} {k : Counter} {r : ClaimSlot}

theorem State.ServesClaim.seq (h : s.ServesClaim t p n q k r) : (t.core q.core).seq = (s.core q.core).seq := by rw [h.self]; rfl
theorem State.ServesClaim.ts (h : s.ServesClaim t p n q k r) : (t.core q.core).ts = (s.core q.core).ts := by rw [h.self]; rfl
theorem State.ServesClaim.claim (h : s.ServesClaim t p n q k r) (inSlots : q.slot < (s.core q.core).claims.length) (j : Nat) :
    (t.core q.core).claim j = if j = q.slot then r else (s.core q.core).claim j := by
  rw [h.self]
  exact Core.claim_setClaim _ inSlots r j

end

section
variable {s : State} {p n : Nat} {im : Image}

/-- A counter of a partition with an admitted image whose memory is served: what its home bank's rows act on. -/
structure State.Counts (s : State) (p n : Nat) (im : Image) : Prop where
  part : p < 16
  counter : n < 1024
  image : (s.part p).image = some im
  served : s.memHeld p = false

theorem State.Counts.legal (h : s.Counts p n im) : ¬ (16 ≤ p || 1024 ≤ n) = true := by
  simp [Nat.not_le.2 h.part, Nat.not_le.2 h.counter]

variable {q : ClaimReq} {rest : List ClaimReq} {k : Counter}

theorem claimRequest_grants (h : s.Counts p n im) (queue : ((s.part p).counter n).queue = q :: rest) {idx tok : Nat}
    (take : ((s.part p).counter n).take (claimLimit im n) = (k, some (idx, tok))) :
    ∃ t, exec (.claimRequest p n) s = .next t ∧ s.ServesClaim t p n q
      { k with queue := rest, takenAt := k.takenAt.filter (fun e => e.1 != idx) ++ [(idx, s.dtb)] }
      { (s.core q.core).claim q.slot with idx := idx, tok := tok, pending := false } := by
  have row : exec (.claimRequest p n) s = execClaimRequest p n s := rfl
  have noted : ∀ sh, (s.noteShelf sh p 0x260 1).part p = s.part p := fun _ => rfl
  rw [row, execClaimRequest, if_neg h.legal, if_neg (by simp [h.served]), h.image, queue]
  dsimp only
  rw [noted, take]
  refine ⟨_, rfl, .of_updCore ?_ (fun d => ?_) (Core.replies_patch ..)⟩
  · rw [State.counter_of_claimView (State.putLedger_claimView ..), State.updCounter_counter, if_pos rfl]
    rfl
  · rw [State.putLedger_core, State.updCounter_core]
    rfl
theorem claimRequest_exhausts (h : s.Counts p n im) (queue : ((s.part p).counter n).queue = q :: rest)
    (take : ((s.part p).counter n).take (claimLimit im n) = (k, none)) :
    ∃ t, exec (.claimRequest p n) s = .next t ∧ s.ServesClaim t p n q { k with queue := rest }
      { (s.core q.core).claim q.slot with idx := 0xFFFFFFFF, tok := 0, pending := false, isOpen := false } ∧ ∀ a, t.hb a = s.hb a := by
  have row : exec (.claimRequest p n) s = execClaimRequest p n s := rfl
  have noted : ∀ sh, (s.noteShelf sh p 0x260 1).part p = s.part p := fun _ => rfl
  rw [row, execClaimRequest, if_neg h.legal, if_neg (by simp [h.served]), h.image, queue]
  dsimp only
  rw [noted, take]
  refine ⟨_, rfl, .of_updCore ?_ (fun d => ?_) (Core.replies_patchNone ..), fun a => State.noteShelf_hb ..⟩
  · rw [State.updCounter_counter, if_pos rfl]
  · rw [State.updCounter_core]
    rfl

/-- What `claim` of a counter leaves of it, `k`, and of the slot it answers, `r`: the lowest index to be reissued, else the next one below
LIMIT, else none (R222). -/
structure Counter.Answers (old : Counter) (limit : Nat) (k : Counter) (r : ClaimSlot) : Prop where
  epoch : k.epoch = old.epoch
  settled : r.pending = false
  next : old.reissue = [] → old.next < limit → k.next = old.next + 1 ∧ r.idx = old.next ∧ r.tok = old.epoch
  exhausted : old.reissue = [] → limit ≤ old.next → k.next = old.next ∧ r.idx = 0xFFFFFFFF ∧ r.isOpen = false
  reissued : ∀ i, i ∈ old.reissue → (∀ j, j ∈ old.reissue → i ≤ j) → k.next = old.next ∧ r.idx = i ∧ i ∉ k.reissue

theorem claimRequest_answers (h : s.Counts p n im) (queue : ((s.part p).counter n).queue = q :: rest) : ∃ t k r,
    exec (.claimRequest p n) s = .next t ∧ s.ServesClaim t p n q k r ∧ k.queue = rest ∧
      ((s.part p).counter n).Answers (claimLimit im n) k r ∧
      (((s.part p).counter n).reissue = [] → claimLimit im n ≤ ((s.part p).counter n).next → ∀ a, t.hb a = s.hb a) := by
  by_cases waiting : ((s.part p).counter n).reissue = []
  · have fresh : ∀ i, i ∉ ((s.part p).counter n).reissue := by simp [waiting]
    by_cases below : ((s.part p).counter n).next < claimLimit im n
    · obtain ⟨t, row, serves⟩ := claimRequest_grants h queue (Counter.take_next waiting below)
      exact ⟨t, _, _, row, serves, rfl, ⟨rfl, rfl, fun _ _ => ⟨rfl, rfl, rfl⟩, fun _ past => absurd below (Nat.not_lt.2 past),
        fun i mem => absurd mem (fresh i)⟩, fun _ past => absurd below (Nat.not_lt.2 past)⟩
    · obtain ⟨t, row, serves, mem⟩ := claimRequest_exhausts h queue (Counter.take_exhausted waiting (Nat.not_lt.1 below))
      exact ⟨t, _, _, row, serves, rfl, ⟨rfl, rfl, fun _ less => absurd less below, fun _ _ => ⟨rfl, rfl, rfl⟩,
        fun i mem => absurd mem (fresh i)⟩, fun _ _ => mem⟩
  · obtain ⟨i, lowest⟩ := Option.isSome_iff_exists.1 (List.isSome_min?_of_ne_nil waiting)
    obtain ⟨mem, least⟩ := List.min?_eq_some_iff.1 lowest
    obtain ⟨t, row, serves⟩ := claimRequest_grants h queue (Counter.take_reissues mem least _)
    refine ⟨t, _, _, row, serves, rfl, ⟨rfl, rfl, fun none => absurd none waiting, fun none => absurd none waiting, fun j mem' least' => ?_⟩,
      fun none => absurd none waiting⟩
    obtain rfl : j = i := Nat.le_antisymm (least' i mem) (least j mem')
    exact ⟨rfl, rfl, by simp⟩

/-! ## CLAIM_DONE_ACCEPT (R224) -/

/-- The oldest presentation has left its queue and its core's slot is free. -/
def State.presented (s : State) (p n : Nat) (im : Image) (q : ClaimReq) (rest : List ClaimReq) : State :=
  ((s.noteShelf (claimHome im n) p 0x260 1).updCounter p n (fun k => { k with dones := rest })).updCore q.core (fun k => k.setClaim q.slot {})
/-- The accepted index: its held contributions leave the counter and are folded, and its ledger entry reads done. -/
def State.accepts (s : State) (p n : Nat) (im : Image) (q : ClaimReq) (held : List HeldContrib) : State :=
  ((s.updCounter p n (fun k => { k with
    held := k.held.filter (fun h => !(h.idx == q.idx && h.tok == q.tok)), takenAt := k.takenAt.filter (fun e => e.1 != q.idx) })).foldHeld p
      (held.filter (fun h => h.idx == q.idx && h.tok == q.tok))).putLedger p im n q.idx (ledgerEntry 2 q.core q.tok)

theorem exec_claimDoneAccept (h : s.Counts p n im) (dones : ((s.part p).counter n).dones = q :: rest) :
    exec (.claimDoneAccept p n) s = .next (if ledgerIs (s.ledger p im n q.idx) 1 q.core q.tok then
      (s.presented p n im q rest).accepts p n im q ((s.part p).counter n).held else (s.presented p n im q rest).fence p 1) := by
  have row : exec (.claimDoneAccept p n) s = execClaimDoneAccept p n s := rfl
  rw [row, execClaimDoneAccept, if_neg h.legal, if_neg (by simp [h.served]), h.image, dones]
  dsimp only
  rw [State.noteShelf_ledger]
  split
  · rfl
  · rfl

theorem State.fence_hb (s : State) (p n a : Nat) : (s.fence p n).hb a = s.hb a := rfl
theorem State.presented_core (s : State) (p n : Nat) (im : Image) {q : ClaimReq} (rest : List ClaimReq) {d : Nat} (h : d ≠ q.core) :
    (s.presented p n im q rest).core d = s.core d := State.core_updCore_other _ _ h
theorem State.presented_counter (s : State) (p n : Nat) (im : Image) (q : ClaimReq) (rest : List ClaimReq) :
    ((s.presented p n im q rest).part p).counter n = { (s.part p).counter n with dones := rest } := by
  rw [State.presented, State.updCore_eq, State.setCore_part, State.updCounter_counter, if_pos rfl]
  rfl
theorem State.presented_fenced (s : State) (p n : Nat) (im : Image) (q : ClaimReq) (rest : List ClaimReq) :
    ((s.presented p n im q rest).part p).rcv.fenced = (s.part p).rcv.fenced := by
  rw [State.presented, State.updCore_eq, State.setCore_part, State.updCounter_part_self]
  rfl
theorem State.presented_hb (s : State) (p n : Nat) (im : Image) (q : ClaimReq) (rest : List ClaimReq) (a : Nat) :
    (s.presented p n im q rest).hb a = s.hb a := State.noteShelf_hb ..

theorem State.accepts_core (s : State) (p n : Nat) (im : Image) (q : ClaimReq) (held : List HeldContrib) (d : Nat) :
    (s.accepts p n im q held).core d = s.core d := by
  rw [State.accepts, State.putLedger_core, State.core_of_claimView (State.foldHeld_claimView ..), State.updCounter_core]
theorem State.accepts_counter (s : State) (p n : Nat) (im : Image) (q : ClaimReq) (held : List HeldContrib) :
    ((s.accepts p n im q held).part p).counter n = { (s.part p).counter n with
      held := ((s.part p).counter n).held.filter (fun h => !(h.idx == q.idx && h.tok == q.tok))
      takenAt := ((s.part p).counter n).takenAt.filter (fun e => e.1 != q.idx) } := by
  rw [State.accepts, State.counter_of_claimView (State.putLedger_claimView ..), State.counter_of_claimView (State.foldHeld_claimView ..),
    State.updCounter_counter, if_pos rfl]

/-! ## CLAIM_LEASE_EXPIRY (R225, R454) -/

theorem exec_claimLeaseExpiry {i taken : Nat} (h : s.Counts p n im)
    (found : ((s.part p).counter n).takenAt.find? (fun e => e.1 == i) = some (i, taken)) : exec (.claimLeaseExpiry p n i) s =
      .next (if s.dtb < taken + claimLease im n then s else
        s.revoke p im n i (bits (s.ledger p im n i) 15 2) (bits (s.ledger p im n i) 63 32)) := by
  have row : exec (.claimLeaseExpiry p n i) s = execClaimLeaseExpiry p n i s := rfl
  rw [row, execClaimLeaseExpiry, if_neg h.legal, h.image, found]
  dsimp only
  by_cases early : s.dtb < taken + claimLease im n
  · rw [if_pos (by simp [early]), if_pos early]
  · rw [if_neg (by simp [early, h.served]), if_neg early]

/-- A ledger entry names its own core and token; whether it is claimed is its state. -/
theorem ledgerIs_self (led : Nat) : ledgerIs led 1 (bits led 15 2) (bits led 63 32) = (bits led 1 0 == 1) := by simp [ledgerIs]
/-- An open claim that is revoked is given back under a new epoch, its contributions dropped. -/
theorem State.revoke_counter {i core tok : Nat} (open_ : ledgerIs (s.ledger p im n i) 1 core tok = true) :
    ((s.revoke p im n i core tok).part p).counter n = { (s.part p).counter n with
      epoch := (((s.part p).counter n).epoch + 1) % 2 ^ 32, held := ((s.part p).counter n).held.filter (fun h => h.idx != i)
      reissue := ((s.part p).counter n).reissue ++ [i], takenAt := ((s.part p).counter n).takenAt.filter (fun e => e.1 != i) } := by
  rw [State.revoke, open_, if_neg (by decide), State.counter_of_claimView (State.putLedger_claimView ..), State.updCounter_counter, if_pos rfl]
theorem State.revoke_closed {i core tok : Nat} (shut : ledgerIs (s.ledger p im n i) 1 core tok = false) : s.revoke p im n i core tok = s := by
  rw [State.revoke, shut, if_pos (by decide)]

end

/-- Settles O24: the three rows of a counter's home bank, each by what it leaves of the counter and of the core it answers. -/
theorem countersServeClaims : Obligations.CountersServeClaims := by
  unfold Obligations.CountersServeClaims
  intro p n s im part counter image served
  have counts : s.Counts p n im := ⟨part, counter, image, served⟩
  refine ⟨?request, ?accept, ?expiry⟩
  case request =>
    intro q rest queue slot four
    have inSlots : q.slot < (s.core q.core).claims.length := four ▸ slot
    obtain ⟨t, k, r, row, serves, left, answers, mem⟩ := claimRequest_answers counts queue
    refine ⟨t, row, by rw [serves.counter, left], serves.others, serves.seq, serves.ts, ?_, fun m other => ?_, ?_⟩
    · rw [serves.claim inSlots, if_pos rfl, answers.settled]
    · rw [serves.claim inSlots, if_neg other]
    · rw [serves.counter, serves.claim inSlots, if_pos rfl]
      refine ⟨answers.epoch, answers.next, fun none past => ?_, answers.reissued⟩
      obtain ⟨next, idx, shut⟩ := answers.exhausted none past
      exact ⟨next, idx, shut, mem none past⟩
  case accept =>
    intro q rest dones
    have row := exec_claimDoneAccept counts dones
    cases claimed : ledgerIs (s.ledger p im n q.idx) 1 q.core q.tok with
    | true =>
      rw [claimed, if_pos rfl] at row
      refine ⟨_, row, ?_, fun d other => ?_, fun _ => ?_, fun no => absurd no (by decide)⟩
      · rw [State.accepts_counter, State.presented_counter]
      · rw [State.accepts_core, State.presented_core _ _ _ _ _ other]
      · rw [State.accepts_counter, State.presented_counter]
        exact ⟨rfl, rfl⟩
    | false =>
      rw [claimed, if_neg (by decide)] at row
      refine ⟨_, row, ?_, fun d other => ?_, fun no => absurd no (by decide), fun _ => ⟨?_, ?_, ?_⟩⟩
      · rw [State.counter_of_claimView (State.fence_claimView ..), State.presented_counter]
      · rw [State.core_of_claimView (State.fence_claimView ..), s.presented_core p n im rest other]
      · exact fun a => (State.fence_hb ..).trans (s.presented_hb p n im q rest a)
      · rw [State.fence, State.part_updRcv_self, s.presented_fenced]
      · rw [State.counter_of_claimView (State.fence_claimView ..), State.presented_counter]
  case expiry =>
    intro i taken found
    have row := exec_claimLeaseExpiry counts found
    refine ⟨fun early => by rw [row, if_pos early], fun late => ?_⟩
    rw [if_neg (Nat.not_lt.2 late)] at row
    refine ⟨_, row, fun d => s.revoke_core _ _ _ _ _ _ d, fun claimed => ?_, fun unclaimed => State.revoke_closed ?_⟩
    · rw [State.revoke_counter (by rw [ledgerIs_self, claimed]; rfl)]
      exact ⟨rfl, rfl, rfl⟩
    · rw [ledgerIs_self]
      exact beq_false_of_ne unclaimed

end Sys2Proof.Machine
end

section
namespace Sys2Proof.Machine

/-! ## A core after a change of its sequencer, and after an event -/

theorem State.core_updSeq_self (s : State) (c : Nat) (f : Seq → Seq) : (s.updSeq c f).core c = { s.core c with seq := f (s.core c).seq } :=
  State.core_updCore_self _ _ _
theorem State.core_updSeq_other (s : State) {c d : Nat} (h : d ≠ c) (f : Seq → Seq) : (s.updSeq c f).core d = s.core d :=
  State.core_updCore_other _ _ h
theorem State.report_core (s : State) (p st d b : Nat) (u : UnitId) (c : Nat) : (s.report p st d b u).core c = s.core c := rfl
theorem State.event_core (s : State) (e : Event) (c : Nat) : (s.event e).core c = s.core c := by rw [State.event_frame]; rfl

/-! ## A message's bytes at its core (R15, R79, R91) -/

theorem Core.landNew_seq (k : Core) (w : LocalWrite) : (k.landNew w).seq = k.seq := by
  unfold Core.landNew
  split
  · rfl
  · rw [Core.land_frame]
theorem Core.landAll_seq (k : Core) (ws : List LocalWrite) : (k.landAll ws).seq = k.seq := foldl_keeps Core.seq Core.landNew_seq ws k
/-- Writes that nothing holds back land in order: landing one leaves what would hold another. -/
theorem Core.landAll_of_free {k : Core} {ws : List LocalWrite} (free : ∀ w, w ∈ ws → k.holds w = false) :
    k.landAll ws = ws.foldl Core.land k := by
  induction ws generalizing k with
  | nil => rfl
  | cons w r ih =>
    have lands : k.landNew w = k.land w := by simp [Core.landNew, free w (List.mem_cons_self ..)]
    rw [Core.landAll, List.foldl_cons, lands, List.foldl_cons]
    exact ih fun v mem => (Core.holds_congr (Core.land_mu k w) v).trans (free v (List.mem_cons_of_mem w mem))
theorem Core.landAll_held {k : Core} {w : LocalWrite} (held : k.holds w = true) :
    k.landAll [w] = (k.hold w).note (if k.witHeld w then 0x061 else 0x060) 1 := by
  simp [Core.landAll, Core.landNew, held]

/-! ## MESSAGE_ARRIVAL at a core (R213, R214, R219) -/

/-- The sequencer that counts a message of beat `b` at time `now`: it is progress of the BEAT_WAIT that awaits it (R213, R214). -/
def Seq.counted (q : Seq) (b now : Nat) : Seq :=
  { q with recv := addRecv q.recv b, waitFrom := if q.run = 2 then q.waitFrom.map (fun _ => now) else q.waitFrom }
theorem get_addRecv (m : List (Nat × Nat)) (b : Nat) : Cells.get (fun _ => 0) (addRecv m b) b = Cells.get (fun _ => 0) m b + 1 :=
  Cells.get_put_self _ _ _ _

section
variable {im : Image} {k b : Nat} {q : Seq}

theorem coreCheck_accepts (now : q.curBeat ≤ b) (window : b ≤ q.curBeat + q.winM1)
    (room : Cells.get (fun _ => 0) q.recv b < planExpect im ⟨0, k⟩ b) : coreCheck im k q b = none := by
  rw [coreCheck, if_neg (Nat.not_lt.2 now), if_neg (Nat.not_lt.2 window), if_neg (Nat.not_le.2 room)]
theorem coreCheck_refuses
    (wrong : b < q.curBeat ∨ q.curBeat + q.winM1 < b ∨ planExpect im ⟨0, k⟩ b ≤ Cells.get (fun _ => 0) q.recv b) :
    coreCheck im k q b = some (if b < q.curBeat then 2 else if q.curBeat + q.winM1 < b then 3 else 4) := by
  rw [coreCheck]
  by_cases late : b < q.curBeat
  · rw [if_pos late, if_pos late]
  · by_cases early : q.curBeat + q.winM1 < b
    · rw [if_neg late, if_pos early, if_neg late, if_pos early]
    · have surplus := (wrong.resolve_left late).resolve_left early
      rw [if_neg late, if_neg early, if_pos surplus, if_neg late, if_neg early]

end

section
variable {n : Nat} {s : State} {m : Msg} {im : Image}

/-- Message `n` in flight is `m`, the oldest between its two units, of a partition with an admitted image (R15). -/
structure State.Arrives (s : State) (n : Nat) (m : Msg) (im : Image) : Prop where
  flight : s.msgs[n]? = some m
  oldest : (s.msgs.take n).any (fun e => e.src == m.src && e.dst == m.dst) = false
  image : (s.part m.part).image = some im

/-- The state without the message. -/
def State.arrived (s : State) (n : Nat) : State := { s with msgs := s.msgs.eraseIdx n }

theorem exec_messageArrival (h : s.Arrives n m im) :
    exec (.messageArrival n) s = .next (if m.dst.kind = 0 then (s.arrived n).arriveCore m else (s.arrived n).arriveUnit m) := by
  have row : exec (.messageArrival n) s = execMessageArrival n s := rfl
  rw [row, execMessageArrival, h.flight]
  dsimp only
  rw [h.oldest, if_neg (by decide)]
  rfl

/-- A message inside the window and below the expected count is counted and its bytes land. -/
theorem messageArrival_counts (h : s.Arrives n m im) (toCore : m.dst.kind = 0)
    (fits : coreCheck im (contractOf (s.part m.part).geo m.dst.num) (s.core m.dst.num).seq m.beat = none) :
    exec (.messageArrival n) s = .next ((s.arrived n).updCore m.dst.num (fun k =>
      { k.landAll m.land with seq := (k.landAll m.land).seq.counted m.beat s.dtb })) := by
  have image : ((s.arrived n).part m.part).image = some im := h.image
  have check : coreCheck im (contractOf ((s.arrived n).part m.part).geo m.dst.num) ((s.arrived n).core m.dst.num).seq m.beat = none := fits
  rw [exec_messageArrival h, if_pos toCore, State.arriveCore, image]
  dsimp only
  rw [check]
  rfl
/-- Any other message is discarded, and the core stops (R213, R219). -/
theorem messageArrival_faults (h : s.Arrives n m im) (toCore : m.dst.kind = 0) {cause : Nat}
    (wrong : coreCheck im (contractOf (s.part m.part).geo m.dst.num) (s.core m.dst.num).seq m.beat = some cause) :
    exec (.messageArrival n) s = .next ((s.arrived n).schedFault m.part m.dst.num cause m.beat m.src) := by
  have image : ((s.arrived n).part m.part).image = some im := h.image
  have check : coreCheck im (contractOf ((s.arrived n).part m.part).geo m.dst.num) ((s.arrived n).core m.dst.num).seq m.beat = some cause :=
    wrong
  rw [exec_messageArrival h, if_pos toCore, State.arriveCore, image]
  dsimp only
  rw [check]

theorem State.schedFault_core_self (s : State) (p c cause b : Nat) (u : UnitId) : (s.schedFault p c cause b u).core c =
    { s.core c with seq := { (s.core c).seq with run := 5, cause := cause, srcKind := u.kind, src := u.num, faultBeat := b } } := by
  rw [State.schedFault, State.report_core, State.core_updSeq_self]
theorem State.schedFault_core_other (s : State) {c d : Nat} (h : d ≠ c) (p cause b : Nat) (u : UnitId) :
    (s.schedFault p c cause b u).core d = s.core d := by
  rw [State.schedFault, State.report_core, State.core_updSeq_other s h]

/-! ## MESSAGE_ARRIVAL at another unit (R28, R213, R478) -/

/-- The unit of a message as it stands once every beat before the message's that has its messages is left (R28). -/
def State.unitAt (s : State) (m : Msg) (im : Image) : BeatUnit := unitAdvance im m.dst m.beat (m.beat + 1) ((s.part m.part).job.unit m.dst)
/-- The unit counts the message. -/
def State.unitCounted (s : State) (m : Msg) (im : Image) : State := s.updJob m.part (fun j => { j with
  units := Cells.put (fun _ => {}) j.units m.dst.key { s.unitAt m im with recv := addRecv (s.unitAt m im).recv m.beat } })
theorem State.unitCounted_unit (s : State) (m : Msg) (im : Image) : ((s.unitCounted m im).part m.part).job.unit m.dst =
    { s.unitAt m im with recv := addRecv (s.unitAt m im).recv m.beat } := by
  rw [State.unitCounted, State.part_updJob_self]
  exact Cells.get_put_self _ _ _ _

theorem State.countUnit_eq (image : (s.part m.part).image = some im) : s.countUnit m.part m.dst m.beat =
    match unitCheck im m.dst (s.unitAt m im) m.beat with | some cause => .error cause | none => .ok (s.unitCounted m im) := by
  rw [State.countUnit, image]
  rfl
theorem messageArrival_unit (h : s.Arrives n m im) (toUnit : m.dst.kind ≠ 0) : exec (.messageArrival n) s = .next (
    match unitCheck im m.dst (s.unitAt m im) m.beat with
    | some cause => (s.arrived n).report m.part Config.stScheduleFault cause m.beat m.dst
    | none => ((s.arrived n).unitCounted m im).boundary m.part m.dst) := by
  have image : ((s.arrived n).part m.part).image = some im := h.image
  have same : (s.arrived n).unitAt m im = s.unitAt m im := rfl
  rw [exec_messageArrival h, if_neg toUnit, State.arriveUnit, State.countUnit_eq image, same]
  cases unitCheck im m.dst (s.unitAt m im) m.beat with
  | some cause => rfl
  | none => rfl

end

/-! ## BEAT_STALL (R214) -/

theorem exec_beatStall {c t0 : Nat} {s : State} {x : Ctx} (core : c < Config.cores) (next : s.ctx c = some x)
    (waits : (s.core c).seq.waitFrom = some t0) (run : (s.core c).seq.run = 2 ∨ (s.core c).seq.run = 3) :
    exec (.beatStall c) s = .next (if (s.core c).seq.stall = false ∧ t0 + stallNs x.im ≤ s.dtb then
      (s.updSeq c (fun q => { q with stall := true })).event
        { status := Config.stBeatStall, part := x.p, srcKind := 0, src := c, beat := (s.core c).seq.curBeat } else s) := by
  have row : exec (.beatStall c) s = execBeatStall c s := rfl
  have waiting : ((s.core c).seq.run = 2 || (s.core c).seq.run = 3 : Bool) = true := by simpa using run
  rw [row, execBeatStall, if_neg (Nat.not_le.2 core)]
  dsimp only
  rw [waits, next]
  dsimp only
  rw [waiting]
  by_cases due : (s.core c).seq.stall = false ∧ t0 + stallNs x.im ≤ s.dtb
  · rw [if_pos due, if_pos (by simp [due])]
  · rw [if_neg due, if_neg (by simpa using due)]

/-- Settles O22: a message counted, refused, or for another unit, and the one report of a stalled wait. -/
theorem messagesLandOrFault : Obligations.MessagesLandOrFault := by
  unfold Obligations.MessagesLandOrFault
  refine ⟨?arrival, ?stall⟩
  case arrival =>
    intro n s m im flight oldest image
    have arrives : s.Arrives n m im := ⟨flight, oldest, image⟩
    refine ⟨fun toCore now window room => ?_, fun toCore wrong => ?_, fun toUnit => ⟨fun cause wrong => ?_, fun fits => ?_⟩⟩
    · refine ⟨_, messageArrival_counts arrives toCore (coreCheck_accepts now window room), rfl, ?_⟩
      rw [State.core_updCore_self]
      have self : (s.arrived n).core m.dst.num = s.core m.dst.num := rfl
      rw [self, Core.landAll_seq]
      refine ⟨rfl, get_addRecv _ _, fun d other => State.core_updCore_other _ _ other, fun free => ?_, fun w one held => ?_⟩
      · rw [Core.landAll_of_free free]
        rfl
      · rw [one, Core.landAll_held held]
        exact ⟨rfl, rfl, rfl⟩
    · refine ⟨_, messageArrival_faults arrives toCore (coreCheck_refuses wrong), ?_⟩
      rw [State.schedFault_core_self]
      exact ⟨rfl, rfl, rfl, rfl, rfl, rfl, rfl, rfl, rfl, rfl, fun d other => State.schedFault_core_other _ other ..⟩
    · have refused : unitCheck im m.dst (s.unitAt m im) m.beat = some cause := wrong
      rw [messageArrival_unit arrives toUnit, refused]
      rfl
    · have accepted : unitCheck im m.dst (s.unitAt m im) m.beat = none := fits
      rw [messageArrival_unit arrives toUnit, accepted]
      exact ⟨(s.arrived n).unitCounted m im, rfl, rfl, State.unitCounted_unit _ m im⟩
  case stall =>
    intro c t0 s x core next waits run
    rw [exec_beatStall core next waits run]
    refine ⟨fun reported => ?_, fun fresh due => ?_⟩
    · rw [reported, if_neg (by simp)]
    · rw [if_pos ⟨fresh, due⟩]
      refine ⟨_, rfl, ?_, fun d other => ?_, ?_⟩
      · rw [State.event_core, State.core_updSeq_self]
      · rw [State.event_core, State.core_updSeq_other _ other]
      · rw [State.event_frame]
        rfl

end Sys2Proof.Machine
end

section
namespace Sys2Proof.Machine

/-! ## Slot lengths take the appends of a committed beat (R183, R215) -/

/-- What a job state keeps of its beats past a commit of beat `b`: the later appends and landed results (R183, R319). -/
def JobState.committed (j : JobState) (b : Nat) : JobState := { j with
  appends := j.appends.filter (fun a => decide (b < a.2.2))
  landed := j.landed.filter (fun l => match l.beat with | some n => decide (b < n) | none => true) }

theorem JobState.mem_committed_landed (j : JobState) (b : Nat) (l : Landed) :
    l ∈ (j.committed b).landed ↔ l ∈ j.landed ∧ ∀ n, l.beat = some n → b < n := by
  rw [JobState.committed, List.mem_filter]
  cases l.beat with
  | none => simp
  | some n => simp

/-- A slot's LENGTH grows to where an append ends; it never falls. -/
def State.growSlot (s : State) (p : Nat) (im : Image) (a : Nat × Nat × Nat) : State :=
  if Ent.length (s.seqEnt p im a.1) < a.2.1 then s.storeX p (im.region 6 + 32 * a.1 + 4) (leBytes 4 a.2.1) else s
theorem State.commitAppends_eq (s : State) (p : Nat) (im : Image) (b : Nat) : s.commitAppends p im b =
    ((s.part p).job.appends.filter (fun a => decide (a.2.2 ≤ b))).foldl (fun t a => t.growSlot p im a)
      (s.updJob p (fun j => j.committed b)) := rfl

section
variable (s : State) (p : Nat) (im : Image)

theorem State.growSlot_keeps {α : Type} {π : State → α} (h : State.Unwritten π p) (a : Nat × Nat × Nat) : π (s.growSlot p im a) = π s := by
  unfold State.growSlot
  split
  · exact h.storeAt s 1 true _ _
  · rfl
theorem State.growSlot_lasts (a : Nat × Nat × Nat) : s.PartsLast (s.growSlot p im a) := by
  unfold State.growSlot
  split
  · exact s.storeX_lasts _ _ _
  · exact .refl s
theorem State.commitAppends_keeps {α : Type} {π : State → α} (h : State.Unwritten π p) (b : Nat)
    (job : ∀ t f, π (State.updJob t p f) = π t) : π (s.commitAppends p im b) = π s := by
  rw [State.commitAppends_eq]
  exact (foldl_keeps π (fun t a => t.growSlot_keeps p im h a) _ _).trans (job s _)
theorem State.commitAppends_job (b : Nat) : ∃ more, ((s.commitAppends p im b).part p).job =
    { (s.part p).job.committed b with reports := (s.part p).job.reports ++ more } := by
  have lasts : (s.updJob p (fun j => j.committed b)).PartsLast (s.commitAppends p im b) := by
    rw [State.commitAppends_eq]
    exact .foldl (fun t a => t.growSlot_lasts p im a) _ _
  obtain ⟨more, job⟩ := (lasts p).job
  rw [State.part_updJob_self] at job
  exact ⟨more, job⟩

/-! ## The end of an image (R216, R422) -/

theorem State.endRequest_job : ∃ o r n e, ((s.endRequest p).part p).job =
    { (s.part p).job with opened := o, requests := r, nextRequest := n, ending := e } := by
  unfold State.endRequest
  dsimp only
  split
  · exact ⟨_, _, _, _, by rw [State.part_updJob_self]⟩
  · split
    · split
      · split
        · exact ⟨_, _, _, _, by rw [State.part_updJob_self]⟩
        · exact ⟨_, _, _, _, rfl⟩
      · exact ⟨_, _, _, _, rfl⟩
    · exact ⟨_, _, _, _, rfl⟩
/-- What neither the end of a request nor of a run changes. -/
theorem State.endRequest_keeps {α : Type} {π : State → α} (job : ∀ t f, π (State.updJob t p f) = π t) : π (s.endRequest p) = π s := by
  unfold State.endRequest
  dsimp only
  split
  · exact job s _
  · split
    · split
      · split
        · exact job s _
        · rfl
      · rfl
    · rfl

/-- An image whose every core has halted and whose last beat has committed. -/
def State.imageEnds (s : State) (p : Nat) : Bool :=
  s.allHalted p && decide (s.topBeat p < (s.part p).job.nextCommit) && (s.part p).job.running

variable {s p}

/-- With no part of a commit waiting, the end of an image changes its partition's job only. -/
theorem State.endImage_of_none (settled : s.commit.waiting = []) : s.endImage p =
    if s.imageEnds p then (s.endRequest p).updJob p (fun j => { j with running := false, halted := true }) else s := by
  have still : ((s.endRequest p).updJob p (fun j => { j with running := false, halted := true })).commit.waiting = [] := by
    rw [State.updJob_commit, State.endRequest_frame]
    exact settled
  rw [State.endImage, State.releaseUnits_of_none still]
  rfl
theorem State.endImage_job (settled : s.commit.waiting = []) : ∃ o r n e a h, ((s.endImage p).part p).job =
    { (s.part p).job with opened := o, requests := r, nextRequest := n, ending := e, running := a, halted := h } := by
  rw [State.endImage_of_none settled]
  split
  · obtain ⟨o, r, n, e, job⟩ := s.endRequest_job p
    exact ⟨o, r, n, e, _, _, by rw [State.part_updJob_self, job]⟩
  · exact ⟨_, _, _, _, _, _, rfl⟩
theorem State.endImage_keeps {α : Type} {π : State → α} (settled : s.commit.waiting = []) (job : ∀ t f, π (State.updJob t p f) = π t) :
    π (s.endImage p) = π s := by
  rw [State.endImage_of_none settled]
  split
  · exact (job _ _).trans (s.endRequest_keeps p job)
  · rfl

end

/-! ## BEAT_COMMIT (R215, R216) -/

/-- A started partition, neither stopped nor frozen, with an admitted image and its memory served, whose next beat has been reached. -/
structure State.CommitsNext (s : State) (p : Nat) (im : Image) : Prop where
  part : p < 16
  image : (s.part p).image = some im
  started : (s.part p).job.started = true
  stopped : (s.part p).job.stopped = false
  frozen : (s.part p).job.frozen = false
  served : s.memHeld p = false
  reached : (s.part p).job.nextCommit ≤ s.topBeat p

/-- Beat `b` of a partition is committed; the image may end with it. -/
def State.beatCommitted (s : State) (p : Nat) (im : Image) (b : Nat) : State :=
  (s.updJob p (fun j => { j with nextCommit := b + 1 })).commitAppends p im b

section
variable {s : State} {p : Nat} {im : Image}

theorem exec_beatCommit (h : s.CommitsNext p im) : exec (.beatCommit p) s = .next (if s.mayCommit p im (s.part p).job.nextCommit then
    ((s.beatCommitted p im (s.part p).job.nextCommit).answer).endImage p else s) := by
  have row : exec (.beatCommit p) s = execBeatCommit p s := rfl
  obtain ⟨part, image, started, stopped, frozen, served, reached⟩ := h
  rw [row, execBeatCommit, if_neg (Nat.not_le.2 part), image]
  dsimp only
  rw [started, stopped, frozen, served, decide_eq_false (Nat.not_lt.2 reached)]
  cases s.mayCommit p im (s.part p).job.nextCommit with
  | false => rfl
  | true => rfl

variable (s p im)

theorem State.beatCommitted_keeps {α : Type} {π : State → α} (h : State.Unwritten π p) (b : Nat)
    (job : ∀ t f, π (State.updJob t p f) = π t) : π (s.beatCommitted p im b) = π s :=
  (State.commitAppends_keeps _ p im h b job).trans (job s _)
theorem State.beatCommitted_job (b : Nat) : ∃ more, ((s.beatCommitted p im b).part p).job =
    { (s.part p).job.committed b with nextCommit := b + 1, reports := (s.part p).job.reports ++ more } := by
  obtain ⟨more, job⟩ := (s.updJob p (fun j => { j with nextCommit := b + 1 })).commitAppends_job p im b
  rw [State.part_updJob_self] at job
  exact ⟨more, job⟩
theorem State.commit_unwritten : State.Unwritten State.commit p where
  mem _ _ only := by rw [only.eq]
  points _ _ := rfl
  event _ _ := State.event_commit ..
  report _ _ _ _ _ := rfl
theorem State.core_unwritten (c : Nat) : State.Unwritten (fun s => s.core c) p where
  mem _ _ only := only.core c
  points _ _ := rfl
  event _ _ := State.event_core ..
  report _ _ _ _ _ := rfl

end

/-! ## RUN_OUTPUT_COPY (R271, R319, R422) -/

/-- One output of a request is read and sent to the request's host. -/
def State.sendOutput (s : State) (p : Nat) (f : Fn) (r : Nat × Nat × Bool × Nat) : State :=
  (s.loadAt p 1 ((List.range r.2.2.2).map (r.2.1 + ·))).toHost f r.1 (((List.range r.2.2.2).map (r.2.1 + ·)).map (s.visibleX p))
/-- What the host receives of it. -/
def State.outputBytes (s : State) (p : Nat) (f : Fn) (r : Nat × Nat × Bool × Nat) : Nat × Nat × List Byte :=
  (f.port, r.1, (List.range r.2.2.2).map (fun i => s.visibleX p (r.2.1 + i)))

theorem State.visibleX_congr {s t : State} {p : Nat} (part : t.part p = s.part p) (hb : ∀ a, t.hb a = s.hb a) (x : Nat) :
    t.visibleX p x = s.visibleX p x := by
  rw [State.visibleX, State.visibleX, part, State.readX_congr hb]

section
variable (p : Nat) (f : Fn)

/-- Sending an output reads memory, and adds its bytes to what hosts have received. -/
theorem State.sendOutput_spec (s : State) (r : Nat × Nat × Bool × Nat) : ∃ m k, s.sendOutput p f r =
    { s with hbm := m, shelves := k, out := { s.out with host := s.out.host ++ [s.outputBytes p f r] } } := by
  obtain ⟨m, k, loaded⟩ := (State.loadAt_spec p 1 ((List.range r.2.2.2).map (r.2.1 + ·)) s).1
  refine ⟨m, k, ?_⟩
  rw [State.sendOutput, loaded, List.map_map]
  rfl
theorem State.sendOutput_hb {s : State} (ok : s.CachesOk) (r : Nat × Nat × Bool × Nat) :
    (s.sendOutput p f r).CachesOk ∧ ∀ a, (s.sendOutput p f r).hb a = s.hb a := State.loadAt_hb p 1 _ ok
theorem State.sendOutputs_spec (outs : List (Nat × Nat × Bool × Nat)) (s : State) : ∃ m k o, outs.foldl (fun s r => s.sendOutput p f r) s =
    { s with hbm := m, shelves := k, out := o } := by
  induction outs generalizing s with
  | nil => exact ⟨_, _, _, rfl⟩
  | cons r rest ih =>
    obtain ⟨_, _, first⟩ := s.sendOutput_spec p f r
    obtain ⟨m, k, o, others⟩ := ih (s.sendOutput p f r)
    exact ⟨m, k, o, by rw [List.foldl_cons, others, first]⟩
/-- The outputs go in order, each as the host would have seen it at first. -/
theorem State.sendOutputs_host (outs : List (Nat × Nat × Bool × Nat)) {s : State} (ok : s.CachesOk) :
    (∀ a, (outs.foldl (fun s r => s.sendOutput p f r) s).hb a = s.hb a) ∧
      (outs.foldl (fun s r => s.sendOutput p f r) s).out.host = s.out.host ++ outs.map (s.outputBytes p f) := by
  induction outs generalizing s with
  | nil => exact ⟨fun _ => rfl, (List.append_nil _).symm⟩
  | cons r rest ih =>
    obtain ⟨m, k, first⟩ := s.sendOutput_spec p f r
    obtain ⟨whole, same⟩ := State.sendOutput_hb p f ok r
    obtain ⟨hb, host⟩ := ih whole
    have part : (s.sendOutput p f r).part p = s.part p := by rw [first]; rfl
    have bytes : (s.sendOutput p f r).outputBytes p f = s.outputBytes p f := by
      funext o
      simp only [State.outputBytes, State.visibleX_congr part same]
    rw [List.foldl_cons]
    refine ⟨fun a => (hb a).trans (same a), ?_⟩
    rw [host, bytes, first, List.map_cons, List.append_assoc]
    rfl

end

theorem State.completeIf_host (s : State) (f : Fn) (n post st d : Nat) (r : List Byte) :
    (s.completeIf f n post st d r).out.host = s.out.host := by
  unfold State.completeIf
  dsimp only
  split
  · exact s.complete_host f n st d r
  · rfl

/-- The outputs of a request. -/
def runOutputs (q : Request) : List (Nat × Nat × Bool × Nat) := (runRefs q.payload).filter (fun r => r.2.2.1)
/-- A request that waited for its ending beat leaves the list. -/
def State.requestLeaves (s : State) (p : Nat) (e : Request × Nat) : State :=
  s.updJob p (fun j => { j with ending := j.ending.filter (fun o => o != e) })

theorem State.requestLeaves_ending (s : State) (p : Nat) (e : Request × Nat) :
    ((s.requestLeaves p e).part p).job.ending = (s.part p).job.ending.filter (fun o => o != e) := by
  rw [State.requestLeaves, State.part_updJob_self]
theorem State.requestLeaves_outputBytes (s : State) (p : Nat) (e : Request × Nat) (f : Fn) :
    (s.requestLeaves p e).outputBytes p f = s.outputBytes p f := by
  have seen : (s.requestLeaves p e).visibleX p = s.visibleX p := by
    funext x
    rw [State.visibleX, State.requestLeaves, State.part_updJob_self]
    rfl
  funext r
  rw [State.outputBytes, seen, State.outputBytes]

theorem exec_runOutputCopy {p b : Nat} {s : State} {q : Request} (part : p < 16) (served : s.memHeld p = false) (dma : s.dmaShut p = false)
    (ended : (s.part p).job.ending.find? (fun e => decide (e.2 < (s.part p).job.nextCommit)) = some (q, b))
    (inside : (runOutputs q).any (fun r => decide (geoBytes (s.part p).geo < r.2.1 + r.2.2.2)) = false) :
    exec (.runOutputCopy p true) s = .next (((runOutputs q).foldl (fun s r => s.sendOutput p q.fn r) (s.requestLeaves p (q, b))).completeIf
      q.fn q.slot q.post Config.stOk 0 []) := by
  have row : exec (.runOutputCopy p true) s = execRunOutputCopy p true s := rfl
  rw [row, execRunOutputCopy, if_neg (Nat.not_le.2 part)]
  dsimp only
  rw [ended]
  dsimp only
  rw [served, dma, if_neg (by decide), if_neg (by rw [← runOutputs, inside]; decide), if_neg (by decide)]
  rfl

/-- Settles O26: a commit of the next beat, and the copy of a finished request's outputs. -/
theorem commitsAndOutputsComplete : Obligations.CommitsAndOutputsComplete := by
  unfold Obligations.CommitsAndOutputsComplete
  refine ⟨?commit, ?copy⟩
  case commit =>
    intro p s im part image started stopped frozen served reached
    have next : s.CommitsNext p im := ⟨part, image, started, stopped, frozen, served, reached⟩
    refine ⟨fun no => by rw [exec_beatCommit next, no, if_neg (by decide)], fun yes => ?_⟩
    refine ⟨_, by rw [exec_beatCommit next, yes, if_pos rfl], fun settled => ?_⟩
    generalize (s.part p).job.nextCommit = b
    have still : (s.beatCommitted p im b).answer.commit.waiting = [] :=
      (congrArg CommitState.waiting (s.beatCommitted_keeps p im (State.commit_unwritten p) b fun _ _ => rfl)).trans settled
    obtain ⟨more, done⟩ := s.beatCommitted_job p im b
    obtain ⟨_, _, _, _, _, _, job⟩ := State.endImage_job (p := p) still
    have answered : ((s.beatCommitted p im b).answer.part p).job = ((s.beatCommitted p im b).part p).job := rfl
    rw [job, answered, done]
    refine ⟨rfl, rfl, (s.part p).job.mem_committed_landed b, fun c => ?_, fun r other => ?_⟩
    · exact (State.endImage_keeps (π := fun s => s.core c) still fun _ _ => rfl).trans
        (s.beatCommitted_keeps p im (State.core_unwritten p c) b fun _ _ => rfl)
    · have job : ∀ (t : State) f, (t.updJob p f).part r = t.part r := fun t f => State.part_setPart_other _ _ other
      exact (State.endImage_keeps (π := fun s => s.part r) still job).trans
        (s.beatCommitted_keeps p im (State.part_unwritten other) b job)
  case copy =>
    intro p s q b part served dma ended inside
    obtain ⟨m, k, o, sent⟩ := State.sendOutputs_spec p q.fn (runOutputs q) (s.requestLeaves p (q, b))
    refine ⟨_, exec_runOutputCopy part served dma ended inside, ?_, fun c => ?_, fun ok => ?_⟩
    · rw [State.completeIf_part, sent]
      exact s.requestLeaves_ending p (q, b)
    · rw [State.completeIf_core, sent]
      rfl
    · obtain ⟨hb, host⟩ := State.sendOutputs_host p q.fn (runOutputs q) (s := s.requestLeaves p (q, b)) ok
      refine ⟨fun a => ?_, ?_⟩
      · rw [State.completeIf_frame]
        exact hb a
      · rw [State.completeIf_host, host, State.requestLeaves_outputBytes]
        rfl

end Sys2Proof.Machine
end

section
namespace Sys2Proof.Machine

/-! ## A core that goes on after its accesses -/

/-- The next instruction, whatever the accesses noted. -/
theorem Core.goesOn_noted (k : Core) (corr : Nat) (us : List Upset) (e : Nat) : k.GoesOn ((k.noted corr us).retire e) := rfl
theorem Core.goesOn_retire (k : Core) (e : Nat) : k.GoesOn (k.retire e) := rfl

/-! ## MOVE_MESH (R218) -/

/-- What a MOVE_MESH takes from its descriptor at issue, with nothing to wait for: places `src` and `dst` of its rows, a destination core
of its partition, and rows that stay in both tile stores (R218, R246). -/
structure State.Meshes (s : State) (c : Nat) (x : Ctx) (m : MeshDesc) (src dst : Nat) : Prop where
  issues : s.Issues c ⟨3, 3, 0⟩ x
  high : x.f 127 41 = 0
  low : x.f 31 16 = 0
  desc : meshDesc ((s.core c).descriptor (x.f 15 8)) = m
  reserved : meshReserved ((s.core c).descriptor (x.f 15 8)) = false
  core : m.core < Config.cores
  origin : s.tsAddr x m.src = some src
  sink : s.tsAddr x m.dst = some dst
  own : s.partOf m.core = some x.p
  source : rangeOk src m.rows m.rowBytes m.srcStride Config.tsBytes = true
  target : rangeOk dst m.rows m.rowBytes m.dstStride Config.tsBytes = true
  drained : (s.core c).draining = false
  patched : (s.core c).claimWait [x.f 15 8] = false
  ready : x.f 32 32 = 1 → bit (s.core c).ready (x.f 40 33) = true

/-- The rows that a mesh move reads. -/
def MeshDesc.reads (m : MeshDesc) (src : Nat) : List (Bool × Nat × Nat) :=
  (List.range m.rows).map (fun r => (false, src + r * m.srcStride, m.rowBytes))
/-- The writes that its message lands. -/
def MeshDesc.lands (m : MeshDesc) (ts : Mem) (src dst : Nat) : List LocalWrite :=
  (List.range m.rows).map (fun r => ⟨false, dst + r * m.dstStride, ts.readN (src + r * m.srcStride) m.rowBytes, []⟩)
/-- Its message (R218). -/
def State.meshMsg (s : State) (x : Ctx) (c : Nat) (m : MeshDesc) (src dst : Nat) : Msg :=
  ⟨x.p, ⟨0, c⟩, ⟨0, m.core⟩, (s.core c).seq.curBeat, (m.lands (s.core c).ts src dst).filter (fun w => !w.bytes.isEmpty)⟩

theorem length_readN (m : Mem) (n : Nat) : ∀ a, (m.readN a n).length = n := by
  induction n with
  | zero => exact fun _ => rfl
  | succ n ih => exact fun a => by rw [Mem.readN, List.length_cons, ih]
/-- Rows with bytes are all sent. -/
theorem MeshDesc.lands_filter {m : MeshDesc} (some : m.rowBytes ≠ 0) (ts : Mem) (src dst : Nat) :
    (m.lands ts src dst).filter (fun w => !w.bytes.isEmpty) = m.lands ts src dst := by
  refine List.filter_eq_self.2 fun w mem => ?_
  obtain ⟨r, -, rfl⟩ := List.mem_map.1 mem
  have length := length_readN ts m.rowBytes (src + r * m.srcStride)
  cases row : ts.readN (src + r * m.srcStride) m.rowBytes with
  | nil => exact absurd (by rw [← length, row]; rfl) some
  | cons _ _ => rfl

section
variable {c src dst : Nat} {s : State} {x : Ctx} {m : MeshDesc}

theorem exec_moveMesh (h : s.Meshes c x m src dst) : exec (.moveMesh c) s = finish x s (s.access x (m.reads src) [] (fun s =>
    .ofExtent (m.rows = 0 || m.rowBytes = 0) (s.send (s.meshMsg x c m src dst)))) := by
  have row : exec (.moveMesh c) s = execMoveMesh c s := rfl
  obtain ⟨issues, high, low, rfl, reserved, core, origin, sink, own, source, target, drained, patched, ready⟩ := h
  rw [row, execMoveMesh, issue_of_issues issues]
  dsimp only
  rw [if_neg (by simp [high, low, reserved, core]), origin, sink]
  dsimp only
  rw [if_neg (by simp [own, source, target]), if_neg (by simpa [drained, patched] using ready)]
  rfl

/-- Accesses that only read leave what the message carries. -/
theorem State.accessed_meshMsg (s : State) (x : Ctx) (c : Nat) (m : MeshDesc) (src dst : Nat) (reads : List (Bool × Nat × Nat)) :
    (s.accessed c reads []).meshMsg x c m src dst = s.meshMsg x c m src dst := by
  obtain ⟨corr, us, core⟩ := s.accessed_core c reads []
  rw [State.meshMsg, core]
  rfl
theorem moveMesh_sends (h : s.Meshes c x m src dst) (accesses : (s.core c).Accesses (m.reads src) []) : ∃ e, exec (.moveMesh c) s =
    .next (((s.accessed c (m.reads src) []).send (s.meshMsg x c m src dst)).updCore c (fun k => k.retire e)) := by
  obtain rfl : x.c = c := (State.ctx_core h.issues.ctx).1
  rw [exec_moveMesh h, State.access_runs accesses, finish_ofExtent, State.accessed_meshMsg]
  exact ⟨_, rfl⟩

end

/-! ## Counting a message at shelves (R210, R213) -/

theorem State.boundary_of_none {s : State} (settled : s.commit.waiting = []) (p : Nat) (u : UnitId) : s.boundary p u = s := by
  unfold State.boundary
  split
  · rfl
  · dsimp only
    split
    · simp [State.applyDue, settled]
    · rfl
theorem State.countUnit_frame {s t : State} {p b : Nat} {u : UnitId} (counted : s.countUnit p u b = .ok t) :
    t = { s with parts := t.parts } := by
  unfold State.countUnit at counted
  split at counted
  · cases counted
    rfl
  · dsimp only at counted
    split at counted
    · cases counted
    · cases counted
      rfl
/-- With no part of a commit waiting, counting changes unit records only. -/
theorem State.countShelves_frame (x : Ctx) (ks : List Nat) : ∀ {s : State}, s.commit.waiting = [] →
    (s.countShelves x ks).1 = { s with parts := (s.countShelves x ks).1.parts } := by
  induction ks with
  | nil => exact fun _ => rfl
  | cons k r ih =>
    intro s settled
    rw [State.countShelves]
    split
    · rename_i t counted
      have frame := State.countUnit_frame counted
      have still : t.commit.waiting = [] := by rw [frame]; exact settled
      rw [State.boundary_of_none still, ih still, frame]
    · exact ih settled
theorem State.shelfRefuse_writes (x : Ctx) (es : List (Nat × Nat)) (A : Nat → Prop) : ∀ s : State, s.Writes (s.shelfRefuse x es) A := by
  unfold State.shelfRefuse
  induction es with
  | nil => exact fun s => .refl s A
  | cons e r ih => exact fun s => (s.report_writes _ _ _ _ _ A).trans (ih _)
theorem State.answer_writes (s : State) (A : Nat → Prop) : s.Writes s.answer A :=
  .of_parts (s := s) (t := s.answer) (fun _ => rfl) (.of_parts rfl) rfl rfl A

/-! ## A store leaves the reducer banks (R251, R258) -/

/-- A shelf without what its cache holds. -/
def Shelf.bare (x : Shelf) : Shelf := { x with cache := [] }

theorem State.updShelf_bare {s : State} {k : Nat} {f : Shelf → Shelf} (keeps : ∀ x, (f x).bare = x.bare) (j : Nat) :
    ((s.updShelf k f).shelf j).bare = (s.shelf j).bare := by
  rw [State.shelf_updShelf]
  split
  · rename_i e; rw [keeps, e]
  · rfl
theorem State.haveLine_bare (s : State) (p cls a k : Nat) : ((s.haveLine p cls a).shelf k).bare = (s.shelf k).bare := by
  have fresh : ∀ (t : State) j w, ((t.updShelf j (fun x => { x with cache := freshLine (lineOf a) w :: x.cache })).shelf k).bare =
      (t.shelf k).bare := fun t j w =>
    State.updShelf_bare (f := fun x => { x with cache := freshLine (lineOf a) w :: x.cache }) (fun _ => rfl) k
  unfold State.haveLine
  split
  · rcases s.allocLine_cases p (shelfOf a) (lineOf a) with e | ⟨w, e⟩ | ⟨v, w, e⟩ <;> rw [e]
    · exact fresh _ _ _
    · rw [fresh, State.shelf_evict]
      split
      · rename_i e; rw [e]; rfl
      · rfl
  · rfl
theorem State.putHb_bare (s : State) (a : Nat) (b : Byte) (k : Nat) : ((s.putHb a b).shelf k).bare = (s.shelf k).bare := by
  unfold State.putHb
  split
  · rfl
  · exact State.updShelf_bare (f := fun sh => sh.useLine (lineOf a) (fun l => l.merge (a % 128) b)) (fun _ => rfl) k
theorem State.storeByte_bare (s : State) (p cls a : Nat) (b : Byte) (k : Nat) :
    ((s.storeByte p cls a b).shelf k).bare = (s.shelf k).bare := by
  unfold State.storeByte
  split
  · rfl
  · rw [State.putHb_bare, State.haveLine_bare]
theorem State.storeTurn_bare (s : State) (p cls : Nat) (lift : Bool) (e : Nat × Byte) (k : Nat) :
    ((s.storeTurn p cls lift e).shelf k).bare = (s.shelf k).bare := by
  have lifted : (if lift then s.calve p e.1 else s).shelf k = s.shelf k := by
    split
    · rw [State.calve_frame]; rfl
    · rfl
  unfold State.storeTurn
  split
  · split
    · rfl
    · rw [State.storeByte_bare, lifted]
  · rfl
theorem State.regionAt_congr {s t : State} (bare : ∀ k, (t.shelf k).bare = (s.shelf k).bare) (p a : Nat) : t.regionAt p a = s.regionAt p a := by
  have regions : ∀ k, (t.shelf k).regions = (s.shelf k).regions := fun k => by
    have same : (t.shelf k).bare.regions = (s.shelf k).bare.regions := by rw [bare]
    exact same
  rw [State.regionAt, State.regionAt, regions]

/-! ## MOVE_FIRN: the blocks of a compression (R200, R205, R259) -/

/-- The bytes of HBM at interleaved offsets of a geometry. -/
def placesAt (g : Geometry) (vs : List Nat) (a : Nat) : Prop := ∃ v, v ∈ vs ∧ interPhys g v = some a

theorem placesAt_mono {g : Geometry} {vs us : List Nat} (le : ∀ v, v ∈ vs → v ∈ us) {a : Nat} (h : placesAt g vs a) : placesAt g us a := by
  obtain ⟨v, mem, at_⟩ := h
  exact ⟨v, le v mem, at_⟩

section
variable {x : Ctx} {g : Geometry} {refused : List (Nat × Nat)}

/-- State `t` is state `s`, of geometry `g` and without reducer regions at its partition, after stores at the offsets `vs`. -/
structure State.Stores (s t : State) (p : Nat) (g : Geometry) (vs : List Nat) : Prop where
  writes : s.Writes t (placesAt g vs)
  geo : (t.part p).geo = g
  regions : ∀ b, t.regionAt p b = none

theorem State.Stores.trans {s t u : State} {p : Nat} {vs us ws : List Nat} (h : s.Stores t p g vs) (k : t.Stores u p g us)
    (left : ∀ v, v ∈ vs → v ∈ ws) (right : ∀ v, v ∈ us → v ∈ ws) : s.Stores u p g ws where
  writes := (h.writes.mono fun _ => placesAt_mono left).trans (k.writes.mono fun _ => placesAt_mono right)
  geo := k.geo
  regions := k.regions

theorem State.firnByte_stores {s : State} (geo : (s.part x.p).geo = g) (regions : ∀ b, s.regionAt x.p b = none) (blk : List Byte) (o v : Nat) :
    ∃ t, s.firnByte x refused blk o v = some t ∧ s.Stores t x.p g [v] := by
  have unchanged : s.Stores s x.p g [v] := ⟨.refl s _, geo, regions⟩
  unfold State.firnByte
  split
  · exact ⟨s, rfl, unchanged⟩
  · rename_i a at_
    split
    · exact ⟨s, rfl, unchanged⟩
    · rw [regions]
      have turn := s.storeTurn_writes x.p 1 true (v, blk.getD o 0)
      refine ⟨_, rfl, turn.mono ?_, (turn.geo x.p).trans geo, fun b => ?_⟩
      · rintro b ⟨i, less, at_⟩
        obtain rfl : i = 0 := by omega
        exact ⟨v, List.mem_singleton_self v, geo ▸ at_⟩
      · exact (State.regionAt_congr (s.storeTurn_bare x.p 1 true (v, blk.getD o 0)) x.p b).trans (regions b)
theorem State.firnBytes_stores (blk : List Byte) (es : List (Nat × Nat)) : ∀ {s : State}, (s.part x.p).geo = g →
    (∀ b, s.regionAt x.p b = none) → ∃ t, s.firnBytes x refused blk es = some t ∧ s.Stores t x.p g (es.map (·.2)) := by
  induction es with
  | nil => exact fun {s} geo regions => ⟨s, rfl, .refl s _, geo, regions⟩
  | cons e r ih =>
    intro s geo regions
    obtain ⟨t, first, stored⟩ := State.firnByte_stores (refused := refused) geo regions blk e.1 e.2
    obtain ⟨u, rest, more⟩ := ih stored.geo stored.regions
    refine ⟨u, ?_, stored.trans more (fun v mem => ?_) (fun v mem => List.mem_cons_of_mem _ mem)⟩
    · rw [State.firnBytes, first]
      exact rest
    · rw [List.mem_singleton.1 mem]
      exact List.mem_cons_self ..
theorem State.firnOut_stores (m : FirnDesc) (p : FirnParam) (blks : List ((Nat × Nat × Nat) × List Nat)) : ∀ {s : State},
    (s.part x.p).geo = g → (∀ b, s.regionAt x.p b = none) →
      ∃ t, s.firnOut x m p refused blks = some t ∧ s.Stores t x.p g (blks.map (·.2)).flatten := by
  induction blks with
  | nil => exact fun {s} geo regions => ⟨s, rfl, .refl s _, geo, regions⟩
  | cons b r ih =>
    intro s geo regions
    obtain ⟨t, first, stored⟩ := State.firnBytes_stores (refused := refused)
      ((s.core x.c).firnPack m p (Req.seed x.im.req) b.1) (b.2.zipIdx.map (fun e => (e.2, e.1))) geo regions
    obtain ⟨u, rest, more⟩ := ih stored.geo stored.regions
    have offsets : (b.2.zipIdx.map (fun e => (e.2, e.1))).map (·.2) = b.2 := by
      rw [List.map_map]
      exact List.zipIdx_map_fst 0 b.2
    rw [offsets] at stored
    refine ⟨u, ?_, stored.trans more (fun v mem => List.mem_append_left _ mem) (fun v mem => List.mem_append_right _ mem)⟩
    rw [State.firnOut, first]
    exact rest

end

end Sys2Proof.Machine
end

section
namespace Sys2Proof.Machine

/-! ## MOVE_FIRN (R205, R206) -/

/-- A MOVE_FIRN with a legal descriptor and parameter and nothing to wait for. -/
structure State.Firns (s : State) (c : Nat) (x : Ctx) (m : FirnDesc) (p : FirnParam) : Prop where
  issues : s.Issues c ⟨3, 5, 0⟩ x
  high : x.f 127 41 = 0
  low : x.f 31 16 = 0
  desc : s.firnDesc x = some (m, p)
  free : moveWait (s.core c) x [x.f 15 8, x.f 15 8 + 1] = false

/-- What it reads locally, and what it writes there. -/
def FirnDesc.reads (m : FirnDesc) (p : FirnParam) : List (Bool × Nat × Nat) := if m.out then m.ranges p else []
def FirnDesc.writes (m : FirnDesc) (p : FirnParam) : List (Bool × Nat × Nat) := if m.out then [] else m.ranges p

/-- A loop that changes a core's tile store and its count of bad blocks changes nothing else of it. -/
theorem foldl_firn_frame {β : Type} {f : Core × Fl → β → Core × Fl}
    (h : ∀ a b, (f a b).1 = { a.1 with ts := (f a b).1.ts, firnNonfinite := (f a b).1.firnNonfinite }) (l : List β) (a : Core × Fl) :
    (l.foldl f a).1 = { a.1 with ts := (l.foldl f a).1.ts, firnNonfinite := (l.foldl f a).1.firnNonfinite } := by
  induction l generalizing a with
  | nil => rfl
  | cons b r ih => rw [List.foldl_cons, ih, h]
theorem State.firnIn_frame (s : State) (x : Ctx) (m : FirnDesc) (p : FirnParam) (blks : List ((Nat × Nat × Nat) × List Nat)) :
    (s.firnIn x m p blks).1 = { s.core x.c with
      ts := (s.firnIn x m p blks).1.ts, firnNonfinite := (s.firnIn x m p blks).1.firnNonfinite } := by
  unfold State.firnIn
  refine foldl_firn_frame (fun a b => ?_) blks _
  rfl

/-- The state after a firn move into the tile store from `s`: core `x.c` takes what decompressing gives it, and its flags are reported. -/
def State.firnTaken (s : State) (x : Ctx) (m : FirnDesc) (p : FirnParam) (blks : List ((Nat × Nat × Nat) × List Nat)) : State :=
  (s.setCore x.c (s.firnIn x m p blks).1).addFlags x.p x.c (s.firnIn x m p blks).2
/-- The move's blocks are read at their home banks; the core's tile store, its count of bad blocks and its flags are all that changes. -/
theorem State.firnTaken_loaded (s : State) (x : Ctx) (m : FirnDesc) (p : FirnParam) (vs : List Nat)
    (blks : List ((Nat × Nat × Nat) × List Nat)) :
    (∃ fl, ((s.loadAt x.p 1 vs).firnTaken x m p blks).core x.c = { s.core x.c with
      ts := ((s.loadAt x.p 1 vs).firnIn x m p blks).1.ts
      firnNonfinite := ((s.loadAt x.p 1 vs).firnIn x m p blks).1.firnNonfinite
      ve := { (s.core x.c).ve with flags := fl } }) ∧
    (∀ d, d ≠ x.c → ((s.loadAt x.p 1 vs).firnTaken x m p blks).core d = s.core d) ∧
    (s.CachesOk → ∀ b, ((s.loadAt x.p 1 vs).firnTaken x m p blks).hb b = s.hb b) := by
  obtain ⟨only, -⟩ := State.loadAt_spec x.p 1 vs s
  obtain ⟨-, others, own, -⟩ := State.setCore_addFlags (t := (s.loadAt x.p 1 vs).firnTaken x m p blks) rfl
  have frame := (s.loadAt x.p 1 vs).firnIn_frame x m p blks
  rw [only.core] at frame
  refine ⟨⟨(((s.loadAt x.p 1 vs).firnTaken x m p blks).core x.c).ve.flags, own.trans ?_⟩, fun d other => (others d other).trans (only.core d),
    fun ok b => (State.loadAt_hb x.p 1 vs ok).2 b⟩
  rw [frame]

/-- What a firn move does in state `s`, past its accesses, with its blocks at `places`: `n` is the state once its message is counted, with
the shelves that refuse it. -/
structure State.FirnRuns (s : State) (x : Ctx) (m : FirnDesc) (p : FirnParam) (places : List (List Nat)) (n : State × List (Nat × Nat))
    (i : Issue) : Prop where
  compress : m.out = true → s.redHeld x.p places.flatten = false → ∀ t, n.1.firnOut x m p n.2 (m.blocks.zip places) = some t →
    i = .ofExtent (m.blocks.zip places).isEmpty (((t.fenceReport x.p (s.core x.c).seq.curBeat places.flatten).shelfRefuse x n.2).answer)
  refuse : m.out = false → places.flatten.any (s.fencedX x.p) = false → n.2 ≠ [] → i = .done (n.1.shelfRefuse x n.2)
  decompress : m.out = false → places.flatten.any (s.fencedX x.p) = false → n.2 = [] →
    i = .ofExtent (m.blocks.zip places).isEmpty ((n.1.loadAt x.p 1 places.flatten).firnTaken x m p (m.blocks.zip places))

section
variable {c : Nat} {s : State} {x : Ctx} {m : FirnDesc} {p : FirnParam}

theorem exec_moveFirn (h : s.Firns c x m p) : ∃ body, exec (.moveFirn c) s = finish x s (s.access x (m.reads p) (m.writes p) body) ∧
    ∀ u places, allOk (m.blocks.map (State.firnPlaces u x m p)) = .ok places →
      u.FirnRuns x m p places (u.countShelves x (u.firnShelves x m p)) (body u) := by
  obtain rfl : x.c = c := (State.ctx_core h.issues.ctx).1
  have row : exec (.moveFirn x.c) s = execMoveFirn x.c s := rfl
  rw [row, execMoveFirn, issue_of_issues h.issues]
  dsimp only
  rw [if_neg (by simp [h.high, h.low]), h.desc]
  dsimp only
  rw [if_neg (by simp [h.free])]
  refine ⟨_, rfl, fun u places legal => ?_⟩
  rw [legal]
  refine ⟨fun out unheld t stored => ?_, fun in_ open_ refused => ?_, fun in_ open_ counted => ?_⟩
  · dsimp only
    rw [out, unheld, if_neg (by simp), if_neg (by simp), if_pos rfl, stored]
  · dsimp only
    rw [in_, open_, if_neg (by simp), if_neg (by simp), if_neg (by simp), if_pos (by simpa using refused)]
  · dsimp only
    rw [in_, open_, if_neg (by simp), if_neg (by simp), if_neg (by simp), if_neg (by simp [counted])]
    rfl

/-- Past accesses that nothing stops, the move does what its blocks' places make of it. -/
theorem moveFirn_runs (h : s.Firns c x m p) (accesses : (s.core c).Accesses (m.reads p) (m.writes p)) {places : List (List Nat)}
    (legal : allOk (m.blocks.map ((s.accessed c (m.reads p) (m.writes p)).firnPlaces x m p)) = .ok places) :
    ∃ i, exec (.moveFirn c) s = finish x s i ∧ (s.accessed c (m.reads p) (m.writes p)).FirnRuns x m p places
      ((s.accessed c (m.reads p) (m.writes p)).countShelves x ((s.accessed c (m.reads p) (m.writes p)).firnShelves x m p)) i := by
  obtain ⟨body, runs, does⟩ := exec_moveFirn h
  obtain rfl : x.c = c := (State.ctx_core h.issues.ctx).1
  exact ⟨_, by rw [runs, State.access_runs accesses], does _ places legal⟩

/-- The offsets of a move's blocks, block by block, are those of its places. -/
theorem mem_zip_places {m : FirnDesc} {places : List (List Nat)} {v : Nat} (mem : v ∈ ((m.blocks.zip places).map (·.2)).flatten) :
    v ∈ places.flatten := by
  obtain ⟨vs, block, inside⟩ := List.mem_flatten.1 mem
  obtain ⟨b, zipped, rfl⟩ := List.mem_map.1 block
  exact List.mem_flatten.2 ⟨b.2, (List.of_mem_zip zipped).2, inside⟩

/-- A compression stores at its blocks' places, and reports and answers beside. -/
theorem State.FirnRuns.compresses {s1 : State} {places : List (List Nat)} {es : List (Nat × Nat)} {i : Issue}
    (runs : State.FirnRuns s x m p places (s1, es) i) (out : m.out = true) (unheld : s.redHeld x.p places.flatten = false)
    (regions : ∀ b, s1.regionAt x.p b = none) : ∃ empty t, i = .ofExtent empty t ∧
      s1.Writes t (placesAt (s1.part x.p).geo places.flatten) := by
  obtain ⟨t, done, stored⟩ := State.firnOut_stores (refused := es) m p (m.blocks.zip places) rfl regions
  refine ⟨_, _, runs.compress out unheld t done, ?_⟩
  exact (((stored.writes.mono fun _ => placesAt_mono fun _ => mem_zip_places).trans (State.fenceReport_writes _ _ _ _ _)).trans
    (State.shelfRefuse_writes _ _ _ _)).trans (State.answer_writes _ _)

end

/-- Settles O21: a mesh move is one message; a compression stores at its blocks' places only, and a decompression writes the tile store. -/
theorem meshAndFirnComplete : Obligations.MeshAndFirnComplete := by
  unfold Obligations.MeshAndFirnComplete
  refine ⟨?mesh, ?firn⟩
  case mesh =>
    intro c src dst s x issues high low k d m reads reserved core origin sink own source target drained patched ready
    have meshes : s.Meshes c x m src dst :=
      ⟨issues, high, low, rfl, reserved, core, origin, sink, own, source, target, drained, patched, ready⟩
    have ofCore : x.c = c := (State.ctx_core issues.ctx).1
    refine ⟨ofCore ▸ State.access_stops (ofCore.symm ▸ exec_moveMesh meshes), fun accesses => ?_⟩
    obtain ⟨e, sends⟩ := moveMesh_sends meshes accesses
    obtain ⟨corr, us, noted⟩ := s.accessed_core c (m.reads src) []
    obtain ⟨frame, others⟩ := s.accessed_frame c (m.reads src) []
    refine ⟨_, s.meshMsg x c m src dst, sends, ?_, rfl, rfl, rfl, rfl, fun some => MeshDesc.lands_filter some .., ?_⟩
    · rw [frame]
      rfl
    · have sent : ∀ d, ((s.accessed c (m.reads src) []).send (s.meshMsg x c m src dst)).core d = (s.accessed c (m.reads src) []).core d :=
        fun _ => rfl
      rw [State.core_updCore_self, sent, noted]
      exact ⟨Core.goesOn_noted _ corr us e, rfl, rfl, rfl, fun d other => by rw [State.core_updCore_other _ _ other, sent, others d other]⟩
  case firn =>
    intro c s x m p issues high low desc free reads writes s0
    have firns : s.Firns c x m p := ⟨issues, high, low, desc, free⟩
    obtain ⟨body, exec_, -⟩ := exec_moveFirn firns
    obtain rfl : x.c = c := (State.ctx_core issues.ctx).1
    refine ⟨State.access_stops exec_, fun accesses places legal s1 es counted => ?_⟩
    obtain ⟨i, row, runs⟩ := moveFirn_runs firns accesses legal
    have same : (s.accessed x.c (m.reads p) (m.writes p)).countShelves x ((s.accessed x.c (m.reads p) (m.writes p)).firnShelves x m p) =
      (s1, es) := counted
    rw [same] at runs
    refine ⟨fun settled => ?_, fun out unheld regions => ?_, fun in_ open_ => ⟨fun refused => ?_, fun served => ?_⟩⟩
    · have still : (s.accessed x.c (m.reads p) (m.writes p)).commit.waiting = [] := by
        rw [(s.accessed_frame x.c (m.reads p) (m.writes p)).1]
        exact settled
      have frame := State.countShelves_frame x ((s.accessed x.c (m.reads p) (m.writes p)).firnShelves x m p) still
      rwa [same] at frame
    · obtain ⟨empty, t, rfl, stored⟩ := runs.compresses out unheld regions
      rw [finish_ofExtent] at row
      refine ⟨_, row, ?_⟩
      rw [State.core_updCore_self, stored.core]
      refine ⟨Core.goesOn_retire _ _, rfl, rfl, rfl, fun d other => ?_, fun ok b outside => ?_⟩
      · rw [State.core_updCore_other _ _ other, stored.core]
      · exact (stored.mem ok).2 b fun ⟨v, mem, at_⟩ => outside v mem at_
    · rw [row, runs.refuse in_ open_ refused]
      rfl
    · subst served
      have taken := runs.decompress in_ open_ rfl
      rw [taken, finish_ofExtent] at row
      refine ⟨_, row, ?_⟩
      obtain ⟨⟨fl, own⟩, others, mem⟩ := s1.firnTaken_loaded x m p places.flatten (m.blocks.zip places)
      rw [State.core_updCore_self, own]
      exact ⟨rfl, rfl, rfl, rfl, rfl, fun d other => by rw [State.core_updCore_other _ _ other, others d other],
        fun ok b => by rw [State.updCore_eq, State.setCore_hb, mem ok b]⟩

end Sys2Proof.Machine
end

section
namespace Sys2Proof.Machine

/-! ## Stores of elements at their places (R125, R258) -/

section
variable {p : Nat} {g : Geometry}

theorem State.Stores.refl {s : State} (geo : (s.part p).geo = g) (regions : ∀ b, s.regionAt p b = none) (vs : List Nat) :
    s.Stores s p g vs := ⟨.refl s _, geo, regions⟩
theorem State.storeTurn_stores {s : State} (geo : (s.part p).geo = g) (regions : ∀ b, s.regionAt p b = none) (cls : Nat) (lift : Bool)
    (e : Nat × Byte) : s.Stores (s.storeTurn p cls lift e) p g [e.1] where
  writes := (s.storeTurn_writes p cls lift e).mono fun b ⟨i, below, at_⟩ => by
    obtain rfl : i = 0 := by omega
    exact ⟨e.1, List.mem_singleton_self _, geo ▸ at_⟩
  geo := ((s.storeTurn_writes p cls lift e).geo p).trans geo
  regions b := (State.regionAt_congr (s.storeTurn_bare p cls lift e) p b).trans (regions b)
theorem State.storeBytes_stores (cls : Nat) (lift : Bool) (es : List (Nat × Byte)) : ∀ {s : State}, (s.part p).geo = g →
    (∀ b, s.regionAt p b = none) → s.Stores (s.storeBytes p cls lift es) p g (es.map (·.1)) := by
  induction es with
  | nil => exact fun geo regions => .refl geo regions _
  | cons e r ih =>
    intro s geo regions
    have turn := State.storeTurn_stores geo regions cls lift e
    exact turn.trans (ih turn.geo turn.regions) (fun v mem => by rw [List.mem_singleton.1 mem]; exact List.mem_cons_self ..)
      (fun v mem => List.mem_cons_of_mem _ mem)

end

section
variable {x : Ctx} {g : Geometry} {refused : List (Nat × Nat)}

/-- An element outside reducer regions is stored at its places, or at none of them. -/
theorem State.outElem_stores {s : State} (geo : (s.part x.p).geo = g) (regions : ∀ b, s.regionAt x.p b = none) (w : Nat)
    (places : List Nat) (lo code : Nat) : ∃ t, s.outElem x refused w places lo code = some t ∧ s.Stores t x.p g places := by
  unfold State.outElem
  split
  · exact ⟨s, rfl, .refl geo regions _⟩
  · rename_i v r
    split
    · exact ⟨s, rfl, .refl geo regions _⟩
    · rename_i a at_
      rw [regions a]
      have stored := State.storeBytes_stores 1 true
        ((s.mergeAt x.p (v :: r) lo w code).filter (fun e => s.moveServed x.p refused e.1)) geo regions
      refine ⟨_, rfl, stored.writes.mono fun _ => placesAt_mono fun u mem => ?_, stored.geo, stored.regions⟩
      obtain ⟨e, kept, rfl⟩ := List.mem_map.1 mem
      exact (List.of_mem_zip (List.mem_filter.1 kept).1).1
/-- So are all elements of a move, one after another. -/
theorem State.outAll_stores (w : Nat) (at_ : Nat → Nat → List Nat) (els : List (Nat × Nat × Nat × Fl)) : ∀ {s : State},
    (s.part x.p).geo = g → (∀ b, s.regionAt x.p b = none) →
      ∃ t, s.outAll x refused w at_ els = some t ∧ s.Stores t x.p g (els.map (fun q => at_ q.1 q.2.1)).flatten := by
  induction els with
  | nil => exact fun {s} geo regions => ⟨s, rfl, .refl geo regions _⟩
  | cons q r ih =>
    intro s geo regions
    obtain ⟨t, first, stored⟩ := State.outElem_stores (refused := refused) geo regions w (at_ q.1 q.2.1) (w * q.2.1 % 8) q.2.2.1
    obtain ⟨u, rest, more⟩ := ih stored.geo stored.regions
    refine ⟨u, ?_, stored.trans more (fun v mem => List.mem_append_left _ mem) (fun v mem => List.mem_append_right _ mem)⟩
    rw [State.outAll, first]
    exact rest

end

/-! ## KV writes leave the cores and the recorded appends (R183, R187) -/

/-- What a partition has recorded to append, and every core. -/
def State.appendView (p : Nat) (s : State) : List (Nat × Nat × Nat) × (Nat → Core) := ((s.part p).job.appends, s.core)

section
variable (s : State) (p : Nat)

theorem State.updPart_appendView {f : Partition → Partition} (keeps : ∀ y, (f y).job.appends = y.job.appends) :
    (s.updPart p f).appendView p = s.appendView p := by
  refine Prod.ext ?_ rfl
  change ((s.updPart p f).part p).job.appends = _
  rw [State.part_updPart_self, keeps]
  rfl
theorem State.appendView_unwritten : State.Unwritten (State.appendView p) p where
  mem _ _ only := by rw [only.eq]; rfl
  points t _ := t.updPart_appendView p fun _ => rfl
  event t _ := by rw [State.event_frame]; rfl
  report t _ _ _ _ := t.updPart_appendView p fun _ => rfl
theorem State.storeX_appendView (a : Nat) (bs : List Byte) : (s.storeX p a bs).appendView p = s.appendView p :=
  (State.appendView_unwritten p).storeAt s 1 true a bs
theorem State.putRefs_appendView (im : Image) (n v : Nat) : (s.putRefs p im n v).appendView p = s.appendView p := by
  unfold State.putRefs
  dsimp only
  split
  · exact s.storeX_appendView p _ _
  · exact s.storeX_appendView p _ _
theorem State.dropRef_appendView (im : Image) (n : Nat) : (s.dropRef p im n).appendView p = s.appendView p := by
  unfold State.dropRef
  dsimp only
  split
  · refine (State.updPart_appendView _ p ?_).trans (s.putRefs_appendView p im n _)
    exact fun _ => rfl
  · exact s.putRefs_appendView p _ _ _
/-- Mapping a page, or copying it, is stores and reference counts. -/
theorem State.kvPage_appendView (im : Image) (e : List Byte) (layer i : Nat) : (s.kvPage p im e layer i).1.appendView p = s.appendView p := by
  unfold State.kvPage
  dsimp only
  split
  · split
    · rfl
    · rw [State.storeX_appendView, State.putRefs_appendView]
  · split
    · rfl
    · split
      · rfl
      · rw [State.dropRef_appendView, State.putRefs_appendView, State.storeX_appendView, State.storeX_appendView]
theorem State.kvWriteRow_appendView (im : Image) (e : List Byte) (a : KvAddr) (t : Nat) (els : List (Nat × Nat × Nat)) :
    (s.kvWriteRow p im e a t els).appendView p = s.appendView p := by
  have page := s.kvPage_appendView p im e a.layer (t / Ent.tpp e)
  unfold State.kvWriteRow
  split
  · rename_i u prepared
    rw [prepared] at page
    exact page
  · rename_i u n prepared
    rw [prepared] at page
    refine (foldl_keeps (State.appendView p) (fun v q => ?_) els u).trans page
    split
    · exact State.storeX_appendView _ _ _ _
    · rfl

end

end Sys2Proof.Machine
end

section
namespace Sys2Proof.Machine

/-! ## How a move ends: its message counted, its flags reported (R143, R210, R423) -/

theorem finish_done (x : Ctx) (s t : State) : finish x s (.done t) = .next (t.updCore x.c (fun k => k.retire 0x010)) := rfl
/-- Counting a message after an instruction's accesses changes unit records only, where no part of a commit waits. -/
theorem State.counted_frame {s s0 s1 : State} {c : Nat} {x : Ctx} {ks : List Nat} {es : List (Nat × Nat)} (noted : s.OnlyCore s0 c)
    (settled : s.commit.waiting = []) (counted : s0.countShelves x ks = (s1, es)) : s1 = { s0 with parts := s1.parts } := by
  have still : s0.commit.waiting = [] := by rw [noted.1]; exact settled
  have frame := State.countShelves_frame x ks still
  rwa [counted] at frame

/-- State `t` is state `s` with core `c` at its next instruction: nothing else of its cores differs but what reporting flags and counting
change of that core. -/
def State.Stays (s t : State) (c : Nat) : Prop := (∀ d, d ≠ c → t.core d = s.core d) ∧ (s.core c).GoesOn (t.core c) ∧
  (t.core c).ts = (s.core c).ts ∧ (t.core c).ob = (s.core c).ob ∧ (t.core c).ve = { (s.core c).ve with flags := (t.core c).ve.flags }

/-- A move that leaves the cores, reports its flags and goes on. -/
theorem State.stays_of_flagged {s t : State} (core : ∀ d, t.core d = s.core d) (p c : Nat) (fl : Fl) (e : Nat) :
    s.Stays ((t.addFlags p c fl).answer.updCore c (fun k => k.retire e)) c := by
  have answered : ∀ u : State, ∀ d, u.answer.core d = u.core d := fun _ _ => rfl
  unfold State.Stays
  rw [State.core_updCore_self, answered, State.addFlags_core_self, core]
  exact ⟨fun d other => by rw [State.core_updCore_other _ _ other, answered, State.addFlags_core_other _ _ _ other, core],
    rfl, rfl, rfl, rfl⟩
theorem State.answer_hb (s : State) (b : Nat) : s.answer.hb b = s.hb b := State.hb_congr_line (s := s) (t := s.answer) rfl rfl
theorem State.addFlags_hb (s : State) (p c : Nat) (fl : Fl) (b : Nat) : (s.addFlags p c fl).hb b = s.hb b := by
  rw [State.addFlags, State.updJob_eq, State.setPart_hb, State.updCore_eq, State.setCore_hb]
/-- A move that reports its flags and goes on changes no byte of HBM. -/
theorem State.flagged_hb (t : State) (p c : Nat) (fl : Fl) (f : Core → Core) (b : Nat) :
    ((t.addFlags p c fl).answer.updCore c f).hb b = t.hb b := by
  rw [State.updCore_eq, State.setCore_hb, State.answer_hb, State.addFlags_hb]
/-- Of a partition, reporting flags changes the sum of saturations only. -/
theorem State.flagged_part (t : State) (p c : Nat) (fl : Fl) (f : Core → Core) :
    ((t.addFlags p c fl).answer.updCore c f).part p =
      { t.part p with job := { (t.part p).job with satTotal := ((t.part p).job.satTotal + fl.sat) % 2 ^ 64 } } := by
  have answered : ((t.addFlags p c fl).answer.updCore c f).part p = (t.addFlags p c fl).part p := rfl
  rw [answered, State.addFlags, State.part_updJob_self]
  rfl

end Sys2Proof.Machine
end

section
namespace Sys2Proof.Machine

/-! ## MOVE_OUT (R181, R183, R236) -/

/-- The width of an element on the HBM side, the rows that a MOVE_OUT writes, and what it reads locally. -/
def MoveDesc.outWidth (m : MoveDesc) : Nat := fmtWidth (Ccw.of m.ccw).dst
def MoveDesc.outRows (m : MoveDesc) (len : Nat) : Nat := if m.cols = 0 || m.vcols = 0 then 0 else min len m.vrows
def MoveDesc.outReads (m : MoveDesc) (len : Nat) : List (Bool × Nat × Nat) :=
  m.ranges (m.outRows len) m.vcols (fmtWidth (Ccw.of m.ccw).src)

/-- The elements that a MOVE_OUT writes; without columns, none. -/
def State.outElems (s : State) (x : Ctx) (m : MoveDesc) : List (Nat × Nat × Nat × Fl) :=
  if m.cols = 0 then [] else moveOutElems (s.core x.c) m (x.f 31 16)
/-- The flags of a move's elements. -/
def elemFlags (els : List (Nat × Nat × Nat × Fl)) : Fl := els.foldl (fun f q => f.or q.2.2.2) {}

/-- Each element written is of a row and a column of the move. -/
theorem State.mem_outElems {s : State} {x : Ctx} {m : MoveDesc} {q : Nat × Nat × Nat × Fl} (mem : q ∈ s.outElems x m) :
    q.1 < m.outRows (x.f 31 16) ∧ q.2.1 < m.vcols := by
  unfold State.outElems at mem
  split at mem
  · cases mem
  · rename_i columns
    obtain ⟨row, rows, inside⟩ := List.mem_flatten.1 mem
    obtain ⟨r, below, rfl⟩ := List.mem_map.1 rows
    obtain ⟨j, column, rfl⟩ := List.mem_map.1 inside
    have left := List.mem_range.1 column
    have some : m.vcols ≠ 0 := by omega
    refine ⟨?_, left⟩
    rw [MoveDesc.outRows, if_neg (by simp [columns, some])]
    exact List.mem_range.1 below

/-- Every byte that a move's rows cover on the HBM side lies at a legal address, or is a pad lane's. -/
def State.LegalPlaces (s : State) (x : Ctx) (m : MoveDesc) (rows w : Nat) : Prop :=
  ∀ r i, r < rows → i < (w * m.vcols + 7) / 8 → ∃ o, s.srcPlace x m r i = .ok o

theorem State.LegalPlaces.no_error {s : State} {x : Ctx} {m : MoveDesc} {rows w : Nat} (legal : s.LegalPlaces x m rows w) (e : Nat) :
    .error e ∉ ((List.range rows).map (fun r => (List.range ((w * m.vcols + 7) / 8)).map (fun i => s.srcPlace x m r i))).flatten := by
  intro mem
  obtain ⟨row, rows, inside⟩ := List.mem_flatten.1 mem
  obtain ⟨r, below, rfl⟩ := List.mem_map.1 rows
  obtain ⟨i, left, failed⟩ := List.mem_map.1 inside
  obtain ⟨o, found⟩ := legal r i (List.mem_range.1 below) (List.mem_range.1 left)
  rw [found] at failed
  cases failed

/-- A MOVE_OUT with a legal descriptor and nothing to wait for. -/
structure State.MovesOut (s : State) (c : Nat) (x : Ctx) (m : MoveDesc) : Prop where
  issues : s.Issues c ⟨3, 1, 0⟩ x
  high : x.f 127 41 = 0
  desc : s.moveDesc x (x.f 31 16) false = some m
  free : moveWait (s.core c) x [x.f 15 8] = false
  unheld : s.redHeld x.p (s.movePlaces x m (m.outRows (x.f 31 16)) m.outWidth) = false

/-- What a MOVE_OUT does in state `s`, past its accesses: `n` is the state once its message is counted, which the shelves `es` refuse. -/
structure State.OutRuns (s : State) (x : Ctx) (m : MoveDesc) (n : State) (es : List (Nat × Nat)) (i : Issue) : Prop where
  store : bits m.hbm 63 60 ≠ 0xB → s.LegalPlaces x m (m.outRows (x.f 31 16)) m.outWidth →
    ∀ t, n.outAll x es m.outWidth (s.elemPlaces x m m.outWidth) (s.outElems x m) = some t →
    i = .ofExtent (m.outRows (x.f 31 16) = 0) ((((t.fenceReport x.p (s.core x.c).seq.curBeat
      (s.movePlaces x m (m.outRows (x.f 31 16)) m.outWidth)).shelfRefuse x es).addFlags x.p x.c (elemFlags (s.outElems x m))).answer)
  append : bits m.hbm 63 60 = 0xB →
    ∀ t, n.kvOut x m es m.outWidth (m.outRows (x.f 31 16)) (s.outElems x m) = .done t →
    i = .done (((t.shelfRefuse x es).addFlags x.p x.c (elemFlags (s.outElems x m))).answer)

section
variable {c : Nat} {s : State} {x : Ctx} {m : MoveDesc}

theorem exec_moveOut (h : s.MovesOut c x m) : ∃ body, exec (.moveOut c) s = finish x s (s.access x (m.outReads (x.f 31 16)) [] body) ∧
    ∀ (u n : State) es, u.countShelves x (u.moveShelves x m (x.f 31 16) m.outWidth) = (n, es) → u.OutRuns x m n es (body u) := by
  obtain rfl : x.c = c := (State.ctx_core h.issues.ctx).1
  have row : exec (.moveOut x.c) s = execMoveOut x.c s := rfl
  have unheld : s.redHeld x.p (s.movePlaces x m (if (m.cols = 0 || m.vcols = 0) = true then 0 else min (x.f 31 16) m.vrows)
    (fmtWidth (Ccw.of m.ccw).dst)) = false := h.unheld
  rw [row, execMoveOut, issue_of_issues h.issues]
  dsimp only
  rw [if_neg (by simp [h.high]), h.desc]
  dsimp only
  rw [if_neg (by simp [h.free]), if_neg (by rw [unheld]; exact Bool.false_ne_true)]
  refine ⟨_, rfl, fun u n es counted => ⟨fun hbm legal t stored => ?_, fun kv t done => ?_⟩⟩
  · have plain : (bits m.hbm 63 60 == 0xB) = false := by simpa using hbm
    unfold MoveDesc.outWidth at counted stored
    unfold State.outElems at stored
    rw [plain, if_neg Bool.false_ne_true]
    split
    · rename_i e found
      exact absurd (List.mem_of_find?_eq_some found) (legal.no_error e)
    · rw [if_neg Bool.false_ne_true, counted]
      dsimp only
      rw [stored]
      rfl
  · have pool : (bits m.hbm 63 60 == 0xB) = true := by simpa using kv
    unfold MoveDesc.outWidth at counted done
    unfold State.outElems MoveDesc.outRows at done
    rw [pool, if_pos rfl]
    dsimp only
    rw [if_pos rfl, counted]
    dsimp only
    rw [done]
    rfl

/-- Past accesses that nothing stops, the move does what its address makes of it. -/
theorem moveOut_runs (h : s.MovesOut c x m) (accesses : (s.core c).Accesses (m.outReads (x.f 31 16)) []) {u n : State}
    {es : List (Nat × Nat)} (noted : u = s.accessed c (m.outReads (x.f 31 16)) [])
    (counted : u.countShelves x (u.moveShelves x m (x.f 31 16) m.outWidth) = (n, es)) :
    ∃ i, exec (.moveOut c) s = finish x s i ∧ u.OutRuns x m n es i := by
  obtain ⟨body, runs, does⟩ := exec_moveOut h
  obtain rfl : x.c = c := (State.ctx_core h.issues.ctx).1
  exact ⟨body u, by rw [runs, State.access_runs accesses, noted], does u n es counted⟩

/-- A move to an HBM address stores its elements at their places, and reports beside. -/
theorem State.OutRuns.stores {s1 : State} {es : List (Nat × Nat)} {i : Issue} (runs : s.OutRuns x m s1 es i)
    (hbm : bits m.hbm 63 60 ≠ 0xB) (legal : s.LegalPlaces x m (m.outRows (x.f 31 16)) m.outWidth)
    (regions : ∀ b, s1.regionAt x.p b = none) : ∃ empty t, i = .ofExtent empty ((t.addFlags x.p x.c (elemFlags (s.outElems x m))).answer) ∧
      s1.Writes t (placesAt (s1.part x.p).geo ((s.outElems x m).map (fun q => s.elemPlaces x m m.outWidth q.1 q.2.1)).flatten) := by
  obtain ⟨t, done, stored⟩ := State.outAll_stores (refused := es) m.outWidth (s.elemPlaces x m m.outWidth) (s.outElems x m) rfl regions
  exact ⟨_, _, runs.store hbm legal t done,
    (stored.writes.trans (State.fenceReport_writes _ _ _ _ _)).trans (State.shelfRefuse_writes _ _ _ _)⟩

end

/-! ## A MOVE_OUT to the KV pool -/

section
variable {s : State} {x : Ctx} {m : MoveDesc} {refused : List (Nat × Nat)} {w rows : Nat} {els : List (Nat × Nat × Nat × Fl)}

theorem State.kvOut_stale (owned : slotOwned x.im (kvAddr m.hbm).slot = true) (some : rows ≠ 0)
    (stale : kvStale (s.seqEnt x.p x.im (kvAddr m.hbm).slot) (kvAddr m.hbm) = true) :
    s.kvOut x m refused w rows els = .done (s.fence x.p 1) := by
  simp [State.kvOut, owned, some, stale]
/-- The rows of a current holder's write are stored, and its new end joins the appends. -/
theorem State.kvOut_current (owned : slotOwned x.im (kvAddr m.hbm).slot = true) (some : rows ≠ 0)
    (current : kvStale (s.seqEnt x.p x.im (kvAddr m.hbm).slot) (kvAddr m.hbm) = false)
    (layer : (kvAddr m.hbm).layer < Ent.layers (s.seqEnt x.p x.im (kvAddr m.hbm).slot))
    (range : kvRangeOk (s.seqEnt x.p x.im (kvAddr m.hbm).slot) (kvAddr m.hbm).token rows = true) :
    ∃ u : State, u.appendView x.p = s.appendView x.p ∧ s.kvOut x m [] w rows els = .done (u.updJob x.p (fun j => { j with
      appends := j.appends ++ [((kvAddr m.hbm).slot, (kvAddr m.hbm).token + rows, (s.core x.c).seq.curBeat)] })) := by
  unfold State.kvOut
  dsimp only
  rw [if_neg some, owned, if_neg (by simp), current, if_neg (by simp), if_neg (by simp [layer, range])]
  refine ⟨_, foldl_keeps (State.appendView x.p) (fun t r => ?_) _ s, rfl⟩
  split
  · rfl
  · exact t.kvWriteRow_appendView ..

theorem State.shelfRefuse_hb (s : State) (x : Ctx) (es : List (Nat × Nat)) (b : Nat) : (s.shelfRefuse x es).hb b = s.hb b :=
  foldl_keeps (fun t => t.hb b) (fun _ _ => by rfl) es s
theorem State.shelfRefuse_rcv (s : State) (x : Ctx) (es : List (Nat × Nat)) : ((s.shelfRefuse x es).part x.p).rcv = (s.part x.p).rcv :=
  foldl_keeps (fun t => (t.part x.p).rcv) (fun t e => by rw [State.report_part, if_pos rfl]) es s

end

/-- Settles O20: a move to an HBM address stores at its elements' places only; one to the KV pool is fenced, or stores and appends. -/
theorem moveOutCompletes : Obligations.MoveOutCompletes := by
  unfold Obligations.MoveOutCompletes
  intro c s x m issues high desc free w rows reads s0 a unheld
  have moves : s.MovesOut c x m := ⟨issues, high, desc, free, unheld⟩
  obtain ⟨body, exec_, -⟩ := exec_moveOut moves
  obtain rfl : x.c = c := (State.ctx_core issues.ctx).1
  refine ⟨State.access_stops exec_, fun accesses s1 es counted => ?_⟩
  obtain ⟨i, row, runs⟩ := moveOut_runs (u := s0) moves accesses rfl counted
  refine ⟨fun settled => ?settled, fun hbm legal regions => ?hbm, fun kv owned some stale => ?stale,
    fun kv owned some current layer range served => ?current⟩
  case settled => exact State.counted_frame (s.accessed_frame x.c reads []) settled counted
  case hbm =>
    obtain ⟨empty, t, rfl, stored⟩ := runs.stores hbm legal regions
    rw [finish_ofExtent] at row
    refine ⟨_, row, State.stays_of_flagged stored.core .., fun ok b outside => (State.flagged_hb ..).trans ((stored.mem ok).2 b ?_)⟩
    rintro ⟨v, mem, at_⟩
    obtain ⟨places, elements, inside⟩ := List.mem_flatten.1 mem
    obtain ⟨q, element, rfl⟩ := List.mem_map.1 elements
    obtain ⟨below, left⟩ := State.mem_outElems element
    exact outside q.1 q.2.1 v below left inside at_
  case stale =>
    rw [runs.append kv _ (State.kvOut_stale owned some stale), finish_done] at row
    refine ⟨_, row, State.stays_of_flagged (State.shelfRefuse_writes x es (fun _ => False) (s1.fence x.p 1)).core ..,
      fun b => ?_, ?_⟩
    · exact (State.flagged_hb ..).trans ((State.shelfRefuse_hb ..).trans (s1.fence_hb x.p 1 b))
    · rw [State.flagged_part, State.shelfRefuse_rcv, State.fence, State.part_updRcv_self]
  case current =>
    subst served
    obtain ⟨u, kept, done⟩ := State.kvOut_current (w := m.outWidth) (els := s0.outElems x m) owned some current layer range
    rw [runs.append kv _ done, finish_done] at row
    have cores : u.core = s1.core := congrArg Prod.snd kept
    have appends : (u.part x.p).job.appends = (s1.part x.p).job.appends := congrArg Prod.fst kept
    rw [State.shelfRefuse, List.foldl_nil] at row
    refine ⟨_, row, State.stays_of_flagged (fun d => by rw [State.updJob_core, cores]) .., ?_⟩
    rw [State.flagged_part, State.part_updJob_self, appends]

end Sys2Proof.Machine
end

section
namespace Sys2Proof.Machine

/-! ## A core whose local memory is written (R226) -/

@[simp] theorem Core.mem_setMem (k : Core) (ob : Bool) (m : Mem) : (k.setMem ob m).mem ob = m := by cases ob <;> rfl
@[simp] theorem Core.mem_setMem_other (k : Core) (ob : Bool) (m : Mem) : (k.setMem ob m).mem (!ob) = k.mem (!ob) := by cases ob <;> rfl
theorem Core.setMem_noted (k : Core) (ob : Bool) (m : Mem) (corr : Nat) (us : List Upset) :
    (k.noted corr us).setMem ob m = (k.setMem ob m).noted corr us := by cases ob <;> rfl

/-- A core with other flags. -/
def Core.flagged (k : Core) (fl : Fl) : Core := { k with ve := { k.ve with flags := fl } }

@[simp] theorem Core.flagged_mem (k : Core) (fl : Fl) (ob : Bool) : (k.flagged fl).mem ob = k.mem ob := by cases ob <;> rfl
@[simp] theorem Core.retire_mem (k : Core) (e : Nat) (ob : Bool) : (k.retire e).mem ob = k.mem ob := by cases ob <;> rfl
theorem State.addFlags_flagged (s : State) (p c : Nat) (f : Fl) : ∃ fl, (s.addFlags p c f).core c = (s.core c).flagged fl :=
  ⟨_, s.addFlags_core_self p c f⟩
/-- A core that has written a local memory, reports flags and goes on. -/
theorem Core.goesOn_setMem (k : Core) (ob : Bool) (m : Mem) (fl : Fl) (e : Nat) : k.GoesOn (((k.setMem ob m).flagged fl).retire e) := by
  cases ob <;> rfl
theorem Core.goesOn_written (k : Core) (ob : Bool) (m : Mem) (e : Nat) : k.GoesOn ((k.setMem ob m).retire e) := by cases ob <;> rfl
theorem Core.setMem_ve (k : Core) (ob : Bool) (m : Mem) : (k.setMem ob m).ve = k.ve := by cases ob <;> rfl

/-! ## MOVE_IN (R233, R235) -/

/-- Whether a MOVE_IN has no elements, and what it writes locally. -/
def MoveDesc.emptyIn (m : MoveDesc) (len : Nat) : Bool := decide (len = 0 ∨ m.cols = 0 ∨ m.vrows = 0)
def MoveDesc.inWrites (m : MoveDesc) (len : Nat) : List (Bool × Nat × Nat) := if m.emptyIn len then [] else m.ranges len m.cols m.outWidth
/-- A local memory with the elements of a MOVE_IN in it. -/
def MoveDesc.put (m : MoveDesc) (els : List (Nat × Nat × Nat × Fl)) (mem : Mem) : Mem :=
  els.foldl (fun mm q => mm.putBits (m.base + q.1 * m.lstride) (m.outWidth * q.2.1) m.outWidth q.2.2.1) mem

/-- A MOVE_IN with a legal descriptor and nothing to wait for. -/
structure State.MovesIn (s : State) (c : Nat) (x : Ctx) (m : MoveDesc) : Prop where
  issues : s.Issues c ⟨3, 0, 0⟩ x
  high : x.f 127 41 = 0
  desc : s.moveDesc x (x.f 31 16) true = some m
  free : moveWait (s.core c) x [x.f 15 8] = false

/-- The state after a MOVE_IN from `n`: what it read has passed its home banks, core `x.c` has its elements, and their flags are reported. -/
def State.movedIn (n : State) (x : Ctx) (m : MoveDesc) (lists places : List Nat) (els : List (Nat × Nat × Nat × Fl)) : State :=
  (((n.loadAt x.p 0 lists).loadAt x.p 1 places).updCore x.c (fun k => k.setMem m.ob (m.put els (k.mem m.ob)))).addFlags x.p x.c (elemFlags els)

/-- What a MOVE_IN of elements `els` does, past its accesses: `n` is the state once its message is counted, which the shelves `es` refuse. -/
structure State.InRuns (n : State) (x : Ctx) (m : MoveDesc) (els : List (Nat × Nat × Nat × Fl)) (es : List (Nat × Nat)) (i : Issue) : Prop where
  refuse : es ≠ [] → i = .done (n.shelfRefuse x es)
  take : es = [] → ∃ lists places, i = .ofExtent (m.emptyIn (x.f 31 16)) (n.movedIn x m lists places els)

section
variable {c : Nat} {s : State} {x : Ctx} {m : MoveDesc}

theorem exec_moveIn (h : s.MovesIn c x m) : ∃ body, exec (.moveIn c) s = finish x s (s.access x [] (m.inWrites (x.f 31 16)) body) ∧
    ∀ (u n : State) els es, (if m.emptyIn (x.f 31 16) then .ok [] else u.moveInElems x m (x.f 31 16)) = Except.ok els →
      u.countShelves x (u.moveShelves x m (x.f 31 16) (fmtWidth (Ccw.of m.ccw).src)) = (n, es) → n.InRuns x m els es (body u) := by
  obtain rfl : x.c = c := (State.ctx_core h.issues.ctx).1
  have row : exec (.moveIn x.c) s = execMoveIn x.c s := rfl
  have empty : (decide (x.f 31 16 = 0) || decide (m.cols = 0) || decide (m.vrows = 0)) = m.emptyIn (x.f 31 16) := by
    simp [MoveDesc.emptyIn, Bool.or_assoc]
  rw [row, execMoveIn, issue_of_issues h.issues]
  dsimp only
  rw [if_neg (by simp [h.high]), h.desc]
  dsimp only
  rw [if_neg (by simp [h.free]), empty]
  refine ⟨_, rfl, fun u n els es legal counted => ⟨fun refused => ?_, fun served => ?_⟩⟩
  · rw [legal]
    dsimp only
    rw [counted]
    cases es with
    | nil => exact absurd rfl refused
    | cons e r => rfl
  · subst served
    rw [legal]
    dsimp only
    rw [counted]
    exact ⟨_, _, rfl⟩

/-- Past accesses that nothing stops, the move does what its elements and its message make of it. -/
theorem moveIn_runs (h : s.MovesIn c x m) (accesses : (s.core c).Accesses [] (m.inWrites (x.f 31 16))) {u n : State}
    {els : List (Nat × Nat × Nat × Fl)} {es : List (Nat × Nat)} (noted : u = s.accessed c [] (m.inWrites (x.f 31 16)))
    (legal : (if m.emptyIn (x.f 31 16) then .ok [] else u.moveInElems x m (x.f 31 16)) = Except.ok els)
    (counted : u.countShelves x (u.moveShelves x m (x.f 31 16) (fmtWidth (Ccw.of m.ccw).src)) = (n, es)) :
    ∃ i, exec (.moveIn c) s = finish x s i ∧ n.InRuns x m els es i := by
  obtain ⟨body, runs, does⟩ := exec_moveIn h
  obtain rfl : x.c = c := (State.ctx_core h.issues.ctx).1
  exact ⟨body u, by rw [runs, State.access_runs accesses, noted], does u n els es legal counted⟩

end

/-- What was read leaves memory as it reads; of the cores, the move's own memory and flags are all that changes. -/
theorem State.movedIn_spec (n : State) (x : Ctx) (m : MoveDesc) (lists places : List Nat) (els : List (Nat × Nat × Nat × Fl)) :
    (n.movedIn x m lists places els = { n with
      cores := (n.movedIn x m lists places els).cores, parts := (n.movedIn x m lists places els).parts
      shelves := (n.movedIn x m lists places els).shelves, hbm := (n.movedIn x m lists places els).hbm }) ∧
    (∀ d, d ≠ x.c → (n.movedIn x m lists places els).core d = n.core d) ∧
    (∃ fl, (n.movedIn x m lists places els).core x.c =
      ((n.core x.c).setMem m.ob (m.put els ((n.core x.c).mem m.ob))).flagged fl) ∧
    (n.CachesOk → ∀ a, (n.movedIn x m lists places els).hb a = n.hb a) := by
  have loaded : n.MemOnly ((n.loadAt x.p 0 lists).loadAt x.p 1 places) :=
    (State.loadAt_spec x.p 0 lists n).1.trans (State.loadAt_spec x.p 1 places _).1
  have same : n.CachesOk → ∀ a, ((n.loadAt x.p 0 lists).loadAt x.p 1 places).hb a = n.hb a := fun ok a => by
    obtain ⟨ok', same⟩ := State.loadAt_hb x.p 0 lists ok
    rw [(State.loadAt_hb x.p 1 places ok').2, same]
  unfold State.movedIn
  generalize (n.loadAt x.p 0 lists).loadAt x.p 1 places = u at loaded same
  obtain ⟨fl, own⟩ := (u.updCore x.c (fun k => k.setMem m.ob (m.put els (k.mem m.ob)))).addFlags_flagged x.p x.c (elemFlags els)
  rw [State.core_updCore_self, loaded.core] at own
  refine ⟨?_, fun d other => ?_, ⟨fl, own⟩, fun ok a => ?_⟩
  · rw [State.addFlags_frame, loaded.eq]
    rfl
  · rw [State.addFlags_core_other _ _ _ other, State.core_updCore_other _ _ other, loaded.core]
  · rw [State.addFlags_hb, State.updCore_eq, State.setCore_hb, same ok a]

end Sys2Proof.Machine
end

section
namespace Sys2Proof.Machine

/-! ## MOVE_WINDOW (R190, R192, R193, R195) -/

/-- What a gather changes: vector registers, or one local memory. -/
theorem Core.gather_reg {m : WinDesc} (reg : m.dstSpace = 2) (k : Core) : ∃ ve, (k.gather m).1 = { k with ve := ve } := by
  unfold Core.gather
  dsimp only
  rw [if_pos reg]
  exact ⟨_, rfl⟩
theorem Core.gather_mem {m : WinDesc} (mem : m.dstSpace ≠ 2) (k : Core) : ∃ out, (k.gather m).1 = k.setMem (m.dstSpace == 1) out := by
  unfold Core.gather
  dsimp only
  rw [if_neg mem]
  exact ⟨_, rfl⟩
/-- A gather looks at nothing that its accesses note. -/
theorem Core.gather_noted (k : Core) (m : WinDesc) (corr : Nat) (us : List Upset) :
    ((k.noted corr us).gather m).1 = (k.gather m).1.noted corr us := by
  unfold Core.gather
  dsimp only
  split
  · rfl
  · rw [Core.setMem_noted]
    cases m.dstSpace == 1 <;> rfl

/-- The taps of a gather that are out of range. -/
def WinDesc.pads (m : WinDesc) : Nat := (m.taps.filter (fun e => e.2.2.isNone)).length
/-- The state after a gather: its core, and its flags reported. -/
def State.gathered (s : State) (x : Ctx) (m : WinDesc) : State :=
  (s.setCore x.c (((s.core x.c).gather m).1.note 0x062 m.pads)).addFlags x.p x.c ((s.core x.c).gather m).2


/-- A core after a gather, going on: its memories and vector registers are the gather's. -/
theorem Core.gathered_mem (k : Core) (corr : Nat) (us : List Upset) (n : Nat) (fl : Fl) (e : Nat) (ob : Bool) :
    ((((k.noted corr us).note 0x062 n).flagged fl).retire e).mem ob = k.mem ob := by cases ob <;> rfl
theorem Core.gathered_vr (k : Core) (corr : Nat) (us : List Upset) (n : Nat) (fl : Fl) (e : Nat) :
    ((((k.noted corr us).note 0x062 n).flagged fl).retire e).ve.vr = k.ve.vr := rfl
theorem Core.goesOn_gathered (k : Core) (ob : Bool) (out : Mem) (corr : Nat) (us : List Upset) (n : Nat) (fl : Fl) (e : Nat) :
    k.GoesOn (((((k.setMem ob out).noted corr us).note 0x062 n).flagged fl).retire e) := by cases ob <;> rfl

/-- A MOVE_WINDOW with a legal descriptor and nothing to wait for. -/
structure State.MovesWindow (s : State) (c : Nat) (x : Ctx) (m : WinDesc) : Prop where
  issues : s.Issues c ⟨3, 2, 0⟩ x
  high : x.f 127 41 = 0
  low : x.f 31 16 = 0
  desc : s.winDesc x = some m
  free : moveWait (s.core c) x [x.f 15 8, x.f 15 8 + 1] = false

section
variable {c : Nat} {s : State} {x : Ctx} {m : WinDesc}

theorem exec_moveWindow (h : s.MovesWindow c x m) : exec (.moveWindow c) s =
    if m.empty then .next (s.updCore c (fun k => k.retire 0x011))
    else finish x s (s.access x m.reads m.writes (fun u => .done (u.gathered x m))) := by
  obtain rfl : x.c = c := (State.ctx_core h.issues.ctx).1
  have row : exec (.moveWindow x.c) s = execMoveWindow x.c s := rfl
  rw [row, execMoveWindow, issue_of_issues h.issues]
  dsimp only
  rw [if_neg (by simp [h.high, h.low]), h.desc]
  dsimp only
  rw [if_neg (by simp [h.free])]
  split
  · rfl
  · rfl

/-- The core after a gather, past its accesses: what the gather makes of the core before them, notes and flags aside. -/
theorem State.accessed_gathered (s : State) (x : Ctx) (m : WinDesc) (reads writes : List (Bool × Nat × Nat)) :
    ∃ corr us fl, ((s.accessed x.c reads writes).gathered x m).core x.c =
      (((((s.core x.c).gather m).1.noted corr us).note 0x062 m.pads).flagged fl) := by
  obtain ⟨corr, us, core⟩ := s.accessed_core x.c reads writes
  obtain ⟨fl, flagged⟩ := ((s.accessed x.c reads writes).setCore x.c
    ((((s.accessed x.c reads writes).core x.c).gather m).1.note 0x062 m.pads)).addFlags_flagged x.p x.c
      (((s.accessed x.c reads writes).core x.c).gather m).2
  refine ⟨corr, us, fl, flagged.trans ?_⟩
  rw [State.core_setCore_self, core, Core.gather_noted]

/-- A change of cores and partitions after one of a core. -/
theorem State.OnlyCore.frame_trans {t u : State} (h : s.OnlyCore t c) (g : u = { t with cores := u.cores, parts := u.parts }) :
    u = { s with cores := u.cores, parts := u.parts } := by
  rw [g, h.1]
theorem State.frame_updCore {t : State} (h : t = { s with cores := t.cores, parts := t.parts }) (d : Nat) (f : Core → Core) :
    t.updCore d f = { s with cores := (t.updCore d f).cores, parts := (t.updCore d f).parts } := by
  obtain ⟨cores, parts, rfl⟩ : ∃ cores parts, t = { s with cores := cores, parts := parts } := ⟨_, _, h⟩
  rfl
/-- A gather that nothing stops changes its core and the partition's count of saturations. -/
theorem moveWindow_gathers (h : s.MovesWindow c x m) (some : m.empty = false) (accesses : (s.core c).Accesses m.reads m.writes) :
    ∃ t, exec (.moveWindow c) s = .next t ∧ t = { s with cores := t.cores, parts := t.parts } ∧ (∀ d, d ≠ c → t.core d = s.core d) ∧
      ∃ corr us fl, t.core c = (((((s.core c).gather m).1.noted corr us).note 0x062 m.pads).flagged fl).retire 0x010 := by
  obtain rfl : x.c = c := (State.ctx_core h.issues.ctx).1
  have row := exec_moveWindow h
  rw [some, if_neg Bool.false_ne_true, State.access_runs accesses, finish_done] at row
  have noted := s.accessed_frame x.c m.reads m.writes
  obtain ⟨corr, us, fl, own⟩ := s.accessed_gathered x m m.reads m.writes
  generalize s.accessed x.c m.reads m.writes = u at row noted own
  refine ⟨_, row, noted.frame_trans (State.frame_updCore (State.setCore_addFlags rfl).1 ..), fun d other => ?_, corr, us, fl, ?_⟩
  · rw [State.core_updCore_other _ _ other, State.gathered, State.addFlags_core_other _ _ _ other, State.core_setCore_other _ _ other,
      noted.2 d other]
  · rw [State.core_updCore_self, own]

end

end Sys2Proof.Machine
end

section
namespace Sys2Proof.Machine

/-! ## Sleet reads change no byte and no allocation (R255, R264) -/

/-- Nothing but shelves differs, and no byte that HBM shows. -/
structure State.ShelfNotes (s t : State) : Prop where
  frame : t = { s with shelves := t.shelves }
  hb : ∀ a, t.hb a = s.hb a

theorem State.ShelfNotes.refl (s : State) : s.ShelfNotes s := ⟨rfl, fun _ => rfl⟩
theorem State.ShelfNotes.trans {s t u : State} (h : s.ShelfNotes t) (g : t.ShelfNotes u) : s.ShelfNotes u :=
  ⟨by rw [g.frame, h.frame], fun a => (g.hb a).trans (h.hb a)⟩
theorem State.ShelfNotes.foldl {β : Type} {f : State → β → State} (h : ∀ (s : State) b, s.ShelfNotes (f s b)) (l : List β) (s : State) :
    s.ShelfNotes (l.foldl f s) := by
  induction l generalizing s with
  | nil => exact .refl s
  | cons b r ih => exact (h s b).trans (ih _)
theorem State.ShelfNotes.core {s t : State} (h : s.ShelfNotes t) (c : Nat) : t.core c = s.core c := by rw [h.frame]; rfl

theorem State.updShelf_notes (s : State) (k : Nat) {f : Shelf → Shelf} (keeps : ∀ h, (f h).cache = h.cache) : s.ShelfNotes (s.updShelf k f) := by
  refine ⟨rfl, fun a => State.hb_congr_line ?_ rfl⟩
  rw [State.line_updShelf, keeps]
  split
  · rename_i home
    rw [State.line, home]
  · rfl
theorem State.noteGranules_notes (s : State) (p : Nat) (vs : List Nat) : s.ShelfNotes (s.noteGranules p vs) := by
  refine .foldl (fun t v => ?_) _ s
  split
  · exact ⟨rfl, fun a => State.noteShelf_hb ..⟩
  · exact .refl t
/-- A sleet read makes the line that holds its byte the most recently used. -/
theorem State.useByte_sleet (s : State) (p a : Nat) : s.ShelfNotes (s.useByte p 3 a) := by
  have bypass : s.haveLine p 3 a = s := rfl
  unfold State.useByte
  rw [bypass]
  dsimp only
  split
  · exact .refl s
  · exact ⟨rfl, s.useLine_hb _ _ (fun _ => rfl) (fun _ => rfl) (fun _ _ _ => rfl)⟩
theorem State.loadAt_sleet (s : State) (p : Nat) (vs : List Nat) : s.ShelfNotes (s.loadAt p 3 vs) := by
  refine .foldl (fun t v => ?_) _ s
  split
  · exact t.useByte_sleet p _
  · exact .refl t

/-! ## MOVE_SLEET (R264) -/

/-- What a MOVE_SLEET reads and writes locally. -/
def SleetDesc.reads (m : SleetDesc) (len : Nat) : List (Bool × Nat × Nat) := [(false, m.idx, (if m.idx64 then 8 else 4) * len)]
def SleetDesc.writes (m : SleetDesc) (len : Nat) : List (Bool × Nat × Nat) :=
  (List.range len).map (fun n => (m.ob, m.dst + n * m.dstStride, 32 * m.gran))
/-- A local memory with the rows in it. -/
def SleetDesc.put (m : SleetDesc) (rows : List (List Byte × List Nat)) (mem : Mem) : Mem :=
  rows.zipIdx.foldl (fun mm q => mm.writeN (m.dst + q.2 * m.dstStride) q.1.1) mem

/-- A descriptor's fields, with its list at `ib` and its destination at `db`. -/
def sleetAt (d : List Byte) (ib db : Nat) : SleetDesc := { sleetFields d with idx := ib, dst := db }

/-- A MOVE_SLEET with a legal descriptor `d`, whose addresses relocate to `ib` and `db`, and nothing to wait for. -/
structure State.MovesSleet (s : State) (c : Nat) (x : Ctx) (d : List Byte) (ib db : Nat) : Prop where
  issues : s.Issues c ⟨3, 4, 0⟩ x
  high : x.f 127 41 = 0
  desc : (s.core c).descriptor (x.f 15 8) = d
  list : s.tsAddr x (sleetFields d).idx = some ib
  sink : s.locAddr x (sleetFields d).ob (sleetFields d).dst = some db
  valid : (sleetAt d ib db).valid d (x.f 31 16) = true
  free : moveWait (s.core c) x [x.f 15 8] = false

/-- The places a sleet reads, and those its message addresses: with no row found, the table's first byte. -/
def sleetPlaces (rows : List (List Byte × List Nat)) : List Nat := (rows.map (·.2)).flatten
def State.sleetSends (s : State) (x : Ctx) (m : SleetDesc) (rows : List (List Byte × List Nat)) : List Nat :=
  s.shelvesOf x.p (if (sleetPlaces rows).isEmpty then s.sleetTable x m else sleetPlaces rows)
/-- The state after a MOVE_SLEET from `n`: granules noted and read, rows written, `missing` more rows counted at shelf `k`. -/
def State.sleeted (n : State) (x : Ctx) (m : SleetDesc) (rows : List (List Byte × List Nat)) (k missing : Nat) : State :=
  (((n.noteGranules x.p (sleetPlaces rows)).loadAt x.p 3 (sleetPlaces rows)).updCore x.c
    (fun q => q.setMem m.ob (m.put rows (q.mem m.ob)))).updShelf k (fun h => { h with sleetMissing := satAdd 0xFFFFFFFF h.sleetMissing missing })

/-- What a MOVE_SLEET of `rows` does, past its accesses: `n` is the state once its message is counted, which the shelves `es` refuse. -/
structure State.SleetRuns (n : State) (x : Ctx) (m : SleetDesc) (rows : List (List Byte × List Nat)) (es : List (Nat × Nat)) (i : Issue) :
    Prop where
  refuse : es ≠ [] → i = .done (n.shelfRefuse x es)
  take : es = [] → ∃ empty k missing, i = .ofExtent empty (n.sleeted x m rows k missing)

section
variable {c ib db : Nat} {s : State} {x : Ctx} {d : List Byte}

theorem exec_moveSleet (h : s.MovesSleet c x d ib db) : ∃ body, exec (.moveSleet c) s =
      finish x s (s.access x ((sleetAt d ib db).reads (x.f 31 16)) ((sleetAt d ib db).writes (x.f 31 16)) body) ∧
    ∀ (u n : State) rows es, allOk ((List.range (x.f 31 16)).map (u.sleetRow x (sleetAt d ib db))) = .ok rows →
      u.countShelves x (u.sleetSends x (sleetAt d ib db) rows) = (n, es) → n.SleetRuns x (sleetAt d ib db) rows es (body u) := by
  obtain ⟨issues, high, desc, list, sink, valid, free⟩ := h
  obtain rfl : x.c = c := (State.ctx_core issues.ctx).1
  have row : exec (.moveSleet x.c) s = execMoveSleet x.c s := rfl
  rw [row, execMoveSleet, issue_of_issues issues]
  dsimp only
  rw [desc, if_neg (by simp [high]), list, sink]
  unfold sleetAt at valid ⊢
  dsimp only at valid ⊢
  rw [if_neg (by simp [valid]), if_neg (by simp [free])]
  refine ⟨_, rfl, fun u n rows es legal counted => ⟨fun refused => ?_, fun served => ?_⟩⟩
  · unfold State.sleetSends sleetPlaces at counted
    rw [legal]
    dsimp only
    rw [counted, if_pos (by simpa using refused)]
  · subst served
    unfold State.sleetSends sleetPlaces at counted
    rw [legal]
    dsimp only
    rw [counted, if_neg (by simp)]
    exact ⟨_, _, _, rfl⟩

/-- Past accesses that nothing stops, the move does what its rows and its message make of it. -/
theorem moveSleet_runs (h : s.MovesSleet c x d ib db)
    (accesses : (s.core c).Accesses ((sleetAt d ib db).reads (x.f 31 16)) ((sleetAt d ib db).writes (x.f 31 16))) {u n : State}
    {rows : List (List Byte × List Nat)} {es : List (Nat × Nat)}
    (noted : u = s.accessed c ((sleetAt d ib db).reads (x.f 31 16)) ((sleetAt d ib db).writes (x.f 31 16)))
    (legal : allOk ((List.range (x.f 31 16)).map (u.sleetRow x (sleetAt d ib db))) = .ok rows)
    (counted : u.countShelves x (u.sleetSends x (sleetAt d ib db) rows) = (n, es)) :
    ∃ i, exec (.moveSleet c) s = finish x s i ∧ n.SleetRuns x (sleetAt d ib db) rows es i := by
  obtain ⟨body, runs, does⟩ := exec_moveSleet h
  obtain rfl : x.c = c := (State.ctx_core h.issues.ctx).1
  exact ⟨body u, by rw [runs, State.access_runs accesses, noted], does u n rows es legal counted⟩

end

/-- Of the cores, the move's own memory is all that changes; no byte of HBM does. -/
theorem State.sleeted_spec (n : State) (x : Ctx) (m : SleetDesc) (rows : List (List Byte × List Nat)) (k missing : Nat) :
    (n.sleeted x m rows k missing =
      { n with cores := (n.sleeted x m rows k missing).cores, shelves := (n.sleeted x m rows k missing).shelves }) ∧
    (∀ d, d ≠ x.c → (n.sleeted x m rows k missing).core d = n.core d) ∧
    (n.sleeted x m rows k missing).core x.c = (n.core x.c).setMem m.ob (m.put rows ((n.core x.c).mem m.ob)) ∧
    (∀ a, (n.sleeted x m rows k missing).hb a = n.hb a) := by
  have read := (n.noteGranules_notes x.p (sleetPlaces rows)).trans (State.loadAt_sleet _ x.p (sleetPlaces rows))
  unfold State.sleeted
  generalize (n.noteGranules x.p (sleetPlaces rows)).loadAt x.p 3 (sleetPlaces rows) = u at read
  have counted := (u.updCore x.c (fun q => q.setMem m.ob (m.put rows (q.mem m.ob)))).updShelf_notes k
    (f := fun h => { h with sleetMissing := satAdd 0xFFFFFFFF h.sleetMissing missing }) fun _ => rfl
  refine ⟨?_, fun d other => ?_, ?_, fun a => ?_⟩
  · rw [read.frame]
    rfl
  · rw [counted.core, State.core_updCore_other _ _ other, read.core]
  · rw [counted.core, State.core_updCore_self, read.core]
  · rw [counted.hb, State.updCore_eq, State.setCore_hb, read.hb]

/-- Settles O19: a move in, a gather and a sleet each write one local space of their core, and memory shows what it showed. -/
theorem localMovesComplete : Obligations.LocalMovesComplete := by
  unfold Obligations.LocalMovesComplete
  refine ⟨?moveIn, ?window, ?sleet⟩
  case moveIn =>
    intro c s x m issues high desc free len w empty writes s0
    have moves : s.MovesIn c x m := ⟨issues, high, desc, free⟩
    obtain ⟨body, exec_, -⟩ := exec_moveIn moves
    obtain rfl : x.c = c := (State.ctx_core issues.ctx).1
    refine ⟨State.access_stops exec_, fun accesses els legal s1 es counted => ?_⟩
    obtain ⟨i, row, runs⟩ := moveIn_runs (u := s0) moves accesses rfl legal counted
    refine ⟨fun settled => State.counted_frame (s.accessed_frame x.c [] writes) settled counted, fun refused => ?_, fun served => ?_⟩
    · rw [row, runs.refuse refused]
      rfl
    · obtain ⟨lists, places, rfl⟩ := runs.take served
      rw [finish_ofExtent] at row
      obtain ⟨frame, others, ⟨fl, own⟩, mem⟩ := s1.movedIn_spec x m lists places els
      generalize s1.movedIn x m lists places els = u at row frame others own mem
      refine ⟨_, row, ?_, fun d other => ?_, ?_⟩
      · rw [frame]
        rfl
      · rw [State.core_updCore_other _ _ other, others d other]
      · rw [State.core_updCore_self, own]
        refine ⟨by rw [Core.retire_mem, Core.flagged_mem, Core.mem_setMem]; rfl,
          by rw [Core.retire_mem, Core.flagged_mem, Core.mem_setMem_other],
          fun ok a => by rw [State.updCore_eq, State.setCore_hb, mem ok a], Core.goesOn_setMem .., ?_⟩
        rw [Core.retire_ve, Core.flagged, Core.setMem_ve]
  case window =>
    intro c s x m issues high low desc free
    have moves : s.MovesWindow c x m := ⟨issues, high, low, desc, free⟩
    have exec_ := exec_moveWindow moves
    have ofCore : x.c = c := (State.ctx_core issues.ctx).1
    refine ⟨fun empty => by rw [exec_, if_pos empty], fun some => ?_, fun some accesses => ?_⟩
    · rw [some, if_neg Bool.false_ne_true] at exec_
      exact ofCore ▸ State.access_stops (ofCore.symm ▸ exec_)
    · obtain ⟨t, row, frame, others, corr, us, fl, own⟩ := moveWindow_gathers moves some accesses
      refine ⟨t, row, frame, others, ?_⟩
      rw [own]
      by_cases reg : m.dstSpace = 2
      · obtain ⟨ve, gather⟩ := (s.core c).gather_reg reg
        rw [gather]
        exact ⟨fun _ => ⟨rfl, rfl, rfl⟩, fun mem => absurd reg mem, rfl⟩
      · obtain ⟨out, gather⟩ := (s.core c).gather_mem reg
        rw [gather]
        refine ⟨fun yes => absurd yes reg, fun _ => ⟨?_, ?_, ?_⟩, Core.goesOn_gathered ..⟩
        · rw [Core.gathered_vr, Core.setMem_ve]
        · rw [Core.gathered_mem]
        · rw [Core.gathered_mem, Core.mem_setMem_other]
  case sleet =>
    intro c ib db s x issues high len d m reads writes s0 list sink valid free
    have moves : s.MovesSleet c x d ib db := ⟨issues, high, rfl, list, sink, valid, free⟩
    obtain ⟨body, exec_, -⟩ := exec_moveSleet moves
    obtain rfl : x.c = c := (State.ctx_core issues.ctx).1
    refine ⟨State.access_stops exec_, fun accesses rows legal s1 es counted => ?_⟩
    obtain ⟨i, row, runs⟩ := moveSleet_runs (u := s0) moves accesses rfl legal counted
    refine ⟨fun settled => State.counted_frame (s.accessed_frame x.c reads writes) settled counted, fun refused => ?_, fun served => ?_⟩
    · rw [row, runs.refuse refused]
      rfl
    · obtain ⟨empty, k, missing, rfl⟩ := runs.take served
      rw [finish_ofExtent] at row
      have named : m = sleetAt d ib db := rfl
      clear_value m
      subst named
      obtain ⟨frame, others, own, mem⟩ := s1.sleeted_spec x (sleetAt d ib db) rows k missing
      generalize s1.sleeted x (sleetAt d ib db) rows k missing = u at row frame others own mem
      refine ⟨_, row, ?_, fun d other => ?_, ?_⟩
      · rw [frame]
        rfl
      · rw [State.core_updCore_other _ _ other, others d other]
      · rw [State.core_updCore_self, own]
        refine ⟨by rw [Core.retire_mem, Core.mem_setMem]; rfl, by rw [Core.retire_mem, Core.mem_setMem_other],
          fun a => by rw [State.updCore_eq, State.setCore_hb, mem a], ?_, by rw [Core.retire_ve, Core.setMem_ve]⟩
        exact Core.goesOn_written ..

end Sys2Proof.Machine
end

section
namespace Sys2Proof.Machine

/-! ## Ending commands, sessions and loads (R402, R413, R418, R471) -/

/-- What of a function its commands' ends leave. -/
def FnState.lasting (x : FnState) : Nat × Nat × Nat × Nat := (x.permit, x.leaseDtb, x.discards, x.msixMask)

theorem FnState.lasting_iff {x y : FnState} : x.lasting = y.lasting ↔
    x.permit = y.permit ∧ x.leaseDtb = y.leaseDtb ∧ x.discards = y.discards ∧ x.msixMask = y.msixMask := by
  simp only [FnState.lasting, Prod.mk.injEq]
theorem State.irq_lasting (s : State) (f g : Fn) (v : Nat) : ((s.irq f v).fn g).lasting = (s.fn g).lasting := by
  unfold State.irq
  split
  · exact State.fn_setFn_keeps FnState.lasting (by rfl) g
  · rfl
theorem State.complete_lasting (s : State) (f g : Fn) (n st d : Nat) (r : List Byte) :
    ((s.complete f n st d r).fn g).lasting = (s.fn g).lasting := by
  have slot : ∀ x, ((s.setSlot f n x).fn g).lasting = (s.fn g).lasting := fun x => State.fn_setFn_keeps FnState.lasting (by rfl) g
  unfold State.complete
  dsimp only
  split
  · exact slot _
  · rw [State.irq_lasting, slot]

/-- From state `s` to state `t` commands of slots in use have ended, and units that served them are free: no core, no byte of memory and
nothing of the firmware differs, functions keep what lasts, and a slot without a posted command reads as before. -/
structure State.Ends (s t : State) : Prop where
  frame : t = { s with fns := t.fns, out := t.out, parts := t.parts, ports := t.ports, chans := t.chans, pairs := t.pairs }
  fn : ∀ g, (t.fn g).lasting = (s.fn g).lasting
  slot : ∀ g n, (s.slot g n).post = false → t.slot g n = s.slot g n

theorem State.Ends.refl (s : State) : s.Ends s := ⟨rfl, fun _ => rfl, fun _ _ _ => rfl⟩
theorem State.Ends.trans {s t u : State} (h : s.Ends t) (k : t.Ends u) : s.Ends u where
  frame := by rw [k.frame, h.frame]
  fn g := (k.fn g).trans (h.fn g)
  slot g n idle := by
    have same := h.slot g n idle
    rw [k.slot g n (by rw [same]; exact idle), same]
theorem State.Ends.foldl {β : Type} {f : State → β → State} (h : ∀ (s : State) b, s.Ends (f s b)) (l : List β) (s : State) :
    s.Ends (l.foldl f s) := by
  induction l generalizing s with
  | nil => exact .refl s
  | cons b r ih => exact (h s b).trans (ih _)
/-- A change of the units alone. -/
theorem State.Ends.of_units {s t : State} (frame : t = { s with parts := t.parts, ports := t.ports, chans := t.chans, pairs := t.pairs }) :
    s.Ends t := by
  obtain ⟨parts, ports, chans, pairs, rfl⟩ : ∃ parts ports chans pairs,
    t = { s with parts := parts, ports := ports, chans := chans, pairs := pairs } := ⟨_, _, _, _, frame⟩
  exact ⟨rfl, fun _ => rfl, fun _ _ _ => rfl⟩

theorem State.updWs_ends (s : State) (p : Nat) (f : WeightState → WeightState) : s.Ends (s.updWs p f) := .of_units rfl
theorem State.updLoad_ends (s : State) (p : Nat) (f : Load → Load) : s.Ends (s.updLoad p f) := .of_units rfl
theorem State.updChan_ends (s : State) (k : Nat) (f : Channel → Channel) : s.Ends (s.updChan k f) := .of_units rfl
theorem State.updPair_ends (s : State) (k : Nat) (f : Pair → Pair) : s.Ends (s.updPair k f) := .of_units rfl
theorem State.updSess_ends (s : State) (k i : Nat) (f : Session → Session) : s.Ends (s.updSess k i f) := .of_units rfl
theorem State.sendLoad_ends (s : State) (p port : Nat) (im : Image) (d : List Byte) (k c r : Nat) (b : List Byte) :
    s.Ends (s.sendLoad p port im d k c r b) := .of_units rfl
theorem State.completeIf_ends (s : State) (f : Fn) (n post st d : Nat) (r : List Byte) : s.Ends (s.completeIf f n post st d r) := by
  unfold State.completeIf
  dsimp only
  split
  · rename_i waits
    simp only [Bool.and_eq_true] at waits
    obtain ⟨⟨⟨posted, -⟩, -⟩, -⟩ := waits
    refine ⟨by rw [State.complete_frame], fun g => s.complete_lasting f g n st d r, fun g m idle => ?_⟩
    rw [State.complete_slot, if_neg]
    rintro ⟨key, rfl⟩
    have same : s.slot g m = s.slot f m := by rw [State.slot, State.slot, State.fn, State.fn, key]
    rw [same, posted] at idle
    cases idle
  · exact .refl s

theorem State.endLoad_ends (s : State) (p st w : Nat) (down : Bool) : s.Ends (s.endLoad p st w down) := by
  unfold State.endLoad
  split
  · rename_i im l _ _
    extract_lets s1 s2 s3 s4
    have sent : s.Ends s1 := by
      unfold s1
      split
      · exact s.sendLoad_ends ..
      · exact .refl s
    have freed : s2.Ends s3 := by
      unfold s3
      split
      · exact s2.updChan_ends ..
      · exact .refl s2
    have ended : s.Ends s4 := ((sent.trans (s1.updWs_ends ..)).trans freed).trans (s3.completeIf_ends ..)
    split
    · exact ended.trans (s4.completeIf_ends ..)
    · exact ended
  · exact .refl s
theorem State.closeSession_ends (s : State) (k i st : Nat) : s.Ends (s.closeSession k i st) := by
  unfold State.closeSession
  extract_lets q s1 s2 s3
  split
  · exact .refl s
  · have submits : s.Ends s1 := .foldl (fun t e => t.completeIf_ends ..) _ s
    have closed : s.Ends s3 := (submits.trans (s1.updSess_ends ..)).trans (s2.updPair_ends ..)
    split
    · exact closed.trans (s3.completeIf_ends ..)
    · exact closed
theorem State.closeSessions_ends (s : State) (p st : Nat) : s.Ends (s.closeSessions p st) :=
  .foldl (fun t e => by
    split
    · exact t.closeSession_ends ..
    · exact .refl t) _ s
theorem State.abortLoads_ends (s : State) (f : Fn) : s.Ends (s.abortLoads f) :=
  .foldl (fun t p => by
    split
    · exact .refl t
    · split
      · exact t.endLoad_ends ..
      · split
        · exact t.updLoad_ends ..
        · exact .refl t) _ s

/-! ## Function reset (R418, R471) -/

/-- The first part of a function reset: the function's own state, and what is staged. -/
def State.fnCleared (s : State) (f : Fn) : State :=
  { s.setFn f { slots := (s.fn f).cutSlots Config.stAbortedReset, permit := (s.fn f).permit, leaseDtb := (s.fn f).leaseDtb,
                leaseLive := (s.fn f).leaseLive } with commit := { s.commit with staged := [] } }

theorem State.fn_fnCleared (s : State) (f g : Fn) : (s.fnCleared f).fn g = if fnKey g = fnKey f then
    { slots := (s.fn f).cutSlots Config.stAbortedReset, permit := (s.fn f).permit, leaseDtb := (s.fn f).leaseDtb,
      leaseLive := (s.fn f).leaseLive } else s.fn g := s.fn_setFn f g _
/-- The rest of it ends sessions and loads. -/
theorem State.functionReset_ends (s : State) (f : Fn) : (s.fnCleared f).Ends (s.functionReset f) := by
  unfold State.functionReset
  extract_lets x s1 commit s2 s3
  have cleared : s.fnCleared f = s2 := rfl
  have closed : s2.Ends s3 := by
    unfold s3
    split
    · exact s2.closeSessions_ends ..
    · exact .refl s2
  rw [cleared]
  exact closed.trans (s3.abortLoads_ends f)
theorem State.functionReset_frame (s : State) (f : Fn) : s.functionReset f = { s with
    commit := (s.functionReset f).commit, fns := (s.functionReset f).fns, out := (s.functionReset f).out
    parts := (s.functionReset f).parts, ports := (s.functionReset f).ports, chans := (s.functionReset f).chans
    pairs := (s.functionReset f).pairs } := by
  have ends := (s.functionReset_ends f).frame
  generalize s.functionReset f = t at ends ⊢
  obtain ⟨fns, out, parts, ports, chans, pairs, rfl⟩ : ∃ fns out parts ports chans pairs,
    t = { s.fnCleared f with fns := fns, out := out, parts := parts, ports := ports, chans := chans, pairs := pairs } :=
    ⟨_, _, _, _, _, _, ends⟩
  rfl

/-- The function has no DISCARDS and masks every vector; it keeps PERMIT and its lease (R418; log entry 17). -/
theorem State.functionReset_self (s : State) (f : Fn) : ((s.functionReset f).fn f).permit = (s.fn f).permit ∧
    ((s.functionReset f).fn f).leaseDtb = (s.fn f).leaseDtb ∧ ((s.functionReset f).fn f).discards = 0 ∧
    ((s.functionReset f).fn f).msixMask = 2 ^ 64 - 1 := by
  have kept := (s.functionReset_ends f).fn f
  rwa [State.fn_fnCleared, if_pos rfl, FnState.lasting_iff] at kept
/-- Every function keeps PERMIT, and DISCARDS that read 0. -/
theorem State.functionReset_keeps (s : State) (f g : Fn) : ((s.functionReset f).fn g).permit = (s.fn g).permit ∧
    ((s.fn g).discards = 0 → ((s.functionReset f).fn g).discards = 0) := by
  obtain ⟨permit, -, discards, -⟩ := FnState.lasting_iff.1 ((s.functionReset_ends f).fn g)
  rw [permit, discards, State.fn_fnCleared]
  split
  · rename_i key
    have same : s.fn g = s.fn f := by rw [State.fn, State.fn, key]
    exact ⟨by rw [same], fun _ => rfl⟩
  · exact ⟨rfl, id⟩
/-- Its slots are empty, or show a taken command as ended (R418). -/
theorem State.functionReset_slot (s : State) (f : Fn) (n : Nat) : (s.functionReset f).slot f n = {} ∨
    (((s.functionReset f).slot f n).done = true ∧ ((s.functionReset f).slot f n).post = false ∧
      ((s.functionReset f).slot f n).status = Config.stAbortedReset) := by
  have cut := (s.fn f).cutSlots_get Config.stAbortedReset n
  have reads : (s.fnCleared f).slot f n = Cells.get (fun _ => ({} : Slot)) ((s.fn f).cutSlots Config.stAbortedReset) n := by
    rw [State.slot, State.fn_fnCleared, if_pos rfl]
  have idle : ((s.fnCleared f).slot f n).post = false := by
    rw [reads]
    rcases cut with empty | ⟨-, post, -⟩
    · rw [empty]
    · exact post
  rw [(s.functionReset_ends f).slot f n idle, reads]
  exact cut

/-- What one turn of a loop brings about and every turn keeps, the loop brings about. -/
theorem foldl_establishes {σ β : Type} {P : σ → Prop} {f : σ → β → σ} {l : List β} {b : β} (mem : b ∈ l) (does : ∀ s, P (f s b))
    (keeps : ∀ s c, P s → P (f s c)) (s : σ) : P (l.foldl f s) := by
  have kept : ∀ (r : List β) (t : σ), P t → P (r.foldl f t) := fun r => by
    induction r with
    | nil => exact fun _ h => h
    | cons c r ih => exact fun t h => ih _ (keeps t c h)
  obtain ⟨before, after, rfl⟩ := List.append_of_mem mem
  rw [List.foldl_append, List.foldl_cons]
  exact kept after _ (does _)

/-- The reset of a port's functions. -/
theorem State.portReset_permit (s : State) (port : Nat) (g : Fn) : ((s.portReset port).fn g).permit = (s.fn g).permit := by
  unfold State.portReset
  exact foldl_keeps (fun t : State => (t.fn g).permit) (fun t i => (t.functionReset_keeps ⟨port, i⟩ g).1) _ s
theorem State.portReset_discards (s : State) (port : Nat) {i : Nat} (below : i ≤ 16) :
    ((s.portReset port).fn ⟨port, i⟩).discards = 0 := by
  have does : ∀ t : State, ((t.functionReset ⟨port, i⟩).fn ⟨port, i⟩).discards = 0 := fun t => by
    obtain ⟨-, -, none, -⟩ := t.functionReset_self ⟨port, i⟩
    exact none
  have keeps : ∀ (t : State) (j : Nat), (t.fn ⟨port, i⟩).discards = 0 → ((t.functionReset ⟨port, j⟩).fn ⟨port, i⟩).discards = 0 :=
    fun t j => (t.functionReset_keeps ⟨port, j⟩ ⟨port, i⟩).2
  have mem : i ∈ List.range 17 := List.mem_range.2 (by omega)
  unfold State.portReset
  exact foldl_establishes (P := fun t : State => (t.fn ⟨port, i⟩).discards = 0) (f := fun t i => t.functionReset ⟨port, i⟩) mem does keeps s
theorem State.portReset_keeps {α : Type} (π : State → α)
    (off : ∀ (t : State) a b c d e f g, π { t with commit := a, fns := b, out := c, parts := d, ports := e, chans := f, pairs := g } = π t)
    (s : State) (port : Nat) : π (s.portReset port) = π s :=
  foldl_keeps π (fun t i => by rw [t.functionReset_frame ⟨port, i⟩]; exact off t _ _ _ _ _ _ _) _ s

end Sys2Proof.Machine
end

section
namespace Sys2Proof.Machine

/-! ## What a reset of the device keeps of the firmware (R445, R469) -/

theorem State.journal_rootSvn (s : State) (e : JEntry) : (s.journal e).fw.rootSvn = s.fw.rootSvn :=
  (s.fw.append_fuses { e with dtb := s.dtb }).1
theorem State.journalStaged_rootSvn (s : State) (src func : Nat) (v : Staged) :
    (s.journalStaged src func v).fw.rootSvn = s.fw.rootSvn := by
  unfold State.journalStaged
  refine foldl_keeps (fun t : State => t.fw.rootSvn) (fun t e => ?_) _ s
  dsimp only
  split
  · split
    · rfl
    · exact t.journal_rootSvn _
  · split
    · rfl
    · exact t.journal_rootSvn _
theorem State.journalPart_rootSvn (s : State) (p : Nat) : (s.journalPart p).fw.rootSvn = s.fw.rootSvn := by
  unfold State.journalPart
  split
  · rfl
  · exact s.journal_rootSvn _
theorem State.journalPermit_rootSvn (s : State) (f : Fn) : (s.journalPermit f).fw.rootSvn = s.fw.rootSvn := by
  unfold State.journalPermit
  dsimp only
  split
  · rfl
  · exact s.journal_rootSvn _
theorem State.journalDefaults_rootSvn (s : State) : s.journalDefaults.fw.rootSvn = s.fw.rootSvn := by
  unfold State.journalDefaults
  dsimp only
  rw [foldl_keeps (fun t : State => t.fw.rootSvn) State.journalPart_rootSvn,
    foldl_keeps (fun t : State => t.fw.rootSvn) State.journalPermit_rootSvn,
    foldl_keeps (fun t : State => t.fw.rootSvn) (fun t v => t.journalStaged_rootSvn 3 0 v)]
theorem State.loosePools_fw (s : State) (but groups : Nat) : (s.loosePools but groups).fw = s.fw := by
  unfold State.loosePools
  exact foldl_keeps State.fw (fun s p => by split <;> (split <;> rfl)) _ s
theorem State.flushShelf_fw (s : State) (k : Nat) : (s.flushShelf k).fw = s.fw := by
  unfold State.flushShelf
  dsimp only
  split
  · dsimp only
    rw [State.loosePools_fw]
  · exact foldl_keeps State.fw (fun t l => by rw [State.writeBack_frame]) _ s
theorem State.deviceStop_rootSvn (s : State) (cause : Nat) : (s.deviceStop cause).fw.rootSvn = s.fw.rootSvn := by
  have logic : ∀ t : State, (t.resetLogic cause).fw.rootSvn = t.fw.rootSvn := fun _ => rfl
  rw [State.deviceStop, logic, foldl_keeps State.fw State.flushShelf_fw, State.journalDefaults_rootSvn]
  exact s.journal_rootSvn _

/-- A boot's journal entries leave which image serves. -/
theorem FwState.append_service (f : FwState) (e : JEntry) :
    (f.append e).svcDown = f.svcDown ∧ (f.append e).svcImage = f.svcImage := by
  rcases f.append_cases e with ⟨-, h⟩ | ⟨-, t, b, h⟩ <;> rw [h] <;> exact ⟨rfl, rfl⟩
theorem State.journal_service (s : State) (e : JEntry) :
    (s.journal e).fw.svcDown = s.fw.svcDown ∧ (s.journal e).fw.svcImage = s.fw.svcImage := s.fw.append_service { e with dtb := s.dtb }
theorem State.seal_service (s : State) : s.seal.fw.svcDown = s.fw.svcDown ∧ s.seal.fw.svcImage = s.fw.svcImage := s.fw.append_service _
/-- A seal is the journal's last entry. -/
theorem State.seal_last (s : State) : s.seal.fw.journal.getLast? = some { dtb := s.dtb, kind := 3, sig := s.freeCtr } := s.fw.append_last _
/-- The image that serves after a boot: slot A's, or slot B's where that alone is sound; none where neither is (R432, R433). The boot's
entries are sealed. -/
theorem State.boot_fw (s : State) : s.boot.fw.svcDown = (!s.fw.sound 0 && !s.fw.sound 1) ∧
    s.boot.fw.svcImage = (if s.fw.sound 0 = false ∧ s.fw.sound 1 = true then 1 else 0) ∧ s.boot.fw.unsealed = 0 ∧
    ∃ e, s.boot.fw.journal.getLast? = some e ∧ e.kind = 3 := by
  unfold State.boot
  extract_lets x ok t b s1
  refine ⟨?_, ?_, State.seal_unsealed _, _, State.seal_last _, rfl⟩
  · rw [(State.seal_service _).1, (State.journal_service _ _).1]
    exact Bool.not_or _ _
  · rw [(State.seal_service _).2, (State.journal_service _ _).2]
    have serves : s1.fw.svcImage = b2n (!s.fw.sound 0 && s.fw.sound 1) := rfl
    rw [serves]
    cases s.fw.sound 0 <;> cases s.fw.sound 1 <;> rfl

/-! ## Permafrost exit (Table 21.4) -/

theorem State.leavePermafrost_power (s : State) :
    s.leavePermafrost.power = { s.power with state := 2, regradeDue := true, fieldRegrade := 0, linkRegrade := 0 } := by
  have shelves : ∀ (t : State) (f : Nat → Shelf → Shelf), ((List.range 8).foldl (fun t k => t.updShelf k (f k)) t).power = t.power :=
    fun t f => foldl_keeps State.power (fun u k => u.updShelf_power k (f k)) _ t
  have ports : ∀ (t : State) (f : Port → Port), ((List.range 16).foldl (fun t p => t.updPort p f) t).power = t.power :=
    fun t f => foldl_keeps State.power (fun u p => u.updPort_power p f) _ t
  unfold State.leavePermafrost
  dsimp only
  rw [State.timeRefresh_power, State.portReset_power, State.portReset_power, ports, State.tick_power, shelves]
theorem State.leavePermafrost_fw (s : State) : s.leavePermafrost.fw = s.fw := by
  have shelves : ∀ (t : State) (f : Nat → Shelf → Shelf), ((List.range 8).foldl (fun t k => t.updShelf k (f k)) t).fw = t.fw :=
    fun t f => foldl_keeps State.fw (fun u k => u.setShelf_fw k _) _ t
  have ports : ∀ (t : State) (f : Port → Port), ((List.range 16).foldl (fun t p => t.updPort p f) t).fw = t.fw :=
    fun t f => foldl_keeps State.fw (fun u p => u.setPort_fw p _) _ t
  have refreshed : ∀ t : State, t.timeRefresh.fw = t.fw := fun _ => rfl
  have functions : ∀ (t : State) (port : Nat), (t.portReset port).fw = t.fw := State.portReset_keeps State.fw fun _ _ _ _ _ _ _ _ => rfl
  unfold State.leavePermafrost
  dsimp only
  rw [refreshed, functions, functions, ports, State.tick_fw, shelves]

end Sys2Proof.Machine
end

section
namespace Sys2Proof.Machine

/-! ## Core reset (R228, R472) -/

theorem State.offCounters_fw : State.OffCounters State.fw := ⟨fun _ _ _ _ _ => rfl, fun _ _ _ _ _ => rfl, fun _ _ _ _ => rfl⟩
theorem State.offCounters_partOf (c : Nat) : State.OffCounters (fun s => s.partOf c) :=
  ⟨fun _ _ _ _ _ => rfl, fun _ _ _ _ _ => rfl, fun _ _ _ _ => rfl⟩
/-- What a reset keeps of a core of a partition. -/
def Core.tables (k : Core) : Bank × Bank × Bank := (k.sf, k.cb, k.firn)
theorem Core.tables_iff {k x : Core} : k.tables = x.tables ↔ k.sf = x.sf ∧ k.cb = x.cb ∧ k.firn = x.firn := by
  simp only [Core.tables, Prod.mk.injEq]
theorem State.offCounters_tables (c : Nat) : State.OffCounters (fun s => (s.core c).tables) :=
  ⟨fun _ _ _ _ _ => State.core_setCore_keeps Core.tables (by rfl) c, fun _ _ _ _ _ => rfl, fun _ _ _ _ => rfl⟩

/-- Bringing one core's counters up to date leaves every other core. -/
theorem State.count_core_other (s : State) {c d : Nat} (other : d ≠ c) : (s.count (.core c)).core d = s.core d := by
  have pmc : ∀ (t : State) k v, (t.setPmc (.core c) k v).core d = t.core d := fun t k v => t.core_updCore_other _ other
  have ctl : ∀ (t : State) k v, (t.setCtl (.core c) k v).core d = t.core d := fun t k v => t.core_updCore_other _ other
  have one : ∀ (k : Nat) (t : State) (add : Nat), (t.countOne (.core c) k add).1.core d = t.core d := by
    intro k t add
    unfold State.countOne
    dsimp only
    split
    · rw [ctl, pmc]
    · exact pmc t k _
  have turns : ((List.range (Blk.core c).size).foldl (s.countTurn (.core c)) (s, 0)).1.core d = s.core d :=
    foldl_keeps (fun a : State × Nat => a.1.core d) (fun a k => State.countTurn_keeps (π := fun t => t.core d) (one k) s a) _ (s, 0)
  have cleared : ∀ t : State, (t.clearTally (.core c)).core d = t.core d := by
    intro t
    have noted : ∀ g : Nat → Nat, ((List.range 4).foldl (fun u i => u.noteField (c / 2500) (0x110 + i) (g i)) t).core d = t.core d :=
      fun g => foldl_keeps (fun u : State => u.core d) (fun u i => by rfl) _ t
    rw [State.clearTally]
    exact (State.core_updCore_other _ _ other).trans (noted _)
  have counted : ∀ (t : State) n, ({ t with freeCtr := n } : State).core d = t.core d := fun _ _ => rfl
  have block : s.count (.core c) = s.countBlock (.core c) := rfl
  rw [block, State.countBlock_eq]
  split
  · rfl
  · exact (counted _ _).trans ((cleared _).trans turns)

theorem State.clearStamps_frame (s : State) (hit : Nat → Bool) : s.clearStamps hit = { s with fns := (s.clearStamps hit).fns } := by
  unfold State.clearStamps
  generalize allFns = l
  induction l generalizing s with
  | nil => rfl
  | cons f r ih =>
    rw [List.foldl_cons, ih]
    rfl
/-- A core reset brings the core's counters up to date and replaces the core; besides, it changes watches, messages, the staged values and
the counters' stamps. -/
theorem State.resetCore_frame (s : State) (c : Nat) : ∃ watches msgs commit fns n, s.resetCore c =
    { (s.count (.core c)).setCore c (((s.count (.core c)).core c).afterReset (s.partOf c).isSome (s.count (.core c)).freeCtr) with
      watches := watches, msgs := msgs, commit := commit, fns := fns, freeCtr := n } := by
  have owner := (State.offCounters_partOf c).count s (.core c)
  unfold State.resetCore
  dsimp only at owner ⊢
  rw [← owner]
  generalize s.count (.core c) = u
  generalize (u.core c).afterReset (u.partOf c).isSome u.freeCtr = x
  exact ⟨_, _, _, _, _, State.clearStamps_frame _ _⟩
theorem State.resetCore_keeps {α : Type} {π : State → α} (counters : State.OffCounters π)
    (off : ∀ (t : State) a b d e f n, π { t with cores := a, watches := b, msgs := d, commit := e, fns := f, freeCtr := n } = π t)
    (s : State) (c : Nat) : π (s.resetCore c) = π s := by
  obtain ⟨watches, msgs, commit, fns, n, frame⟩ := s.resetCore_frame c
  have counted := counters.count s (.core c)
  rw [frame]
  generalize s.count (.core c) = u at counted ⊢
  exact (off u _ _ _ _ _ _).trans counted
/-- The reset core reads as after a reset, every other as before. -/
theorem State.resetCore_core (s : State) (c d : Nat) : (s.resetCore c).core d = if d = c then
    ((s.count (.core c)).core c).afterReset (s.partOf c).isSome (s.count (.core c)).freeCtr else s.core d := by
  obtain ⟨watches, msgs, commit, fns, n, frame⟩ := s.resetCore_frame c
  have other : d ≠ c → (s.count (.core c)).core d = s.core d := s.count_core_other
  rw [frame]
  generalize s.count (.core c) = u at other ⊢
  refine (u.core_setCore c d _).trans ?_
  split
  · rfl
  · rename_i ne
    exact other ne

/-- After a reset a core is idle and its local memories and counters read 0; one of a partition has its table sides, due for a rewrite. -/
theorem Core.afterReset_reads (k : Core) (owned : Bool) (ev : Nat) :
    (k.afterReset owned ev).seq.run = 0 ∧ (k.afterReset owned ev).seq.pc = 0 ∧ (k.afterReset owned ev).ready = 0 ∧
    (∀ a, (k.afterReset owned ev).ts.read a = 0) ∧ (∀ a, (k.afterReset owned ev).ob.read a = 0) ∧
    (∀ i, Cells.get (fun _ => 0) (k.afterReset owned ev).pmc i = 0) ∧
    (owned = true → (k.afterReset owned ev).tables = k.tables ∧ (k.afterReset owned ev).banksDue = true) := by
  cases owned with
  | true => exact ⟨rfl, rfl, rfl, fun _ => rfl, fun _ => rfl, fun _ => rfl, fun _ => ⟨rfl, rfl⟩⟩
  | false => exact ⟨rfl, rfl, rfl, fun _ => rfl, fun _ => rfl, fun _ => rfl, fun no => nomatch no⟩

/-! ## The rows -/

theorem exec_perstRelease (s : State) : exec .perstRelease s = execPerstRelease s := rfl
theorem exec_pcieLinkDown (p : Nat) (s : State) : exec (.pcieLinkDown p) s = execPcieLinkDown p s := rfl
theorem exec_powerOn (s : State) : exec .powerOn s = execPowerOn s := rfl
theorem exec_referenceClockStable (s : State) : exec .referenceClockStable s = execReferenceClockStable s := rfl

/-- Settles O53: CORE_RESET rests on what a core reads after its reset and on the counting that comes before; the functions' resets on what
a cleared function reads and what ending its commands leaves; the device's on what its stop and its boot leave. -/
theorem resetRowsComplete : Obligations.ResetRowsComplete := by
  unfold Obligations.ResetRowsComplete
  refine ⟨?core, ?function, fun s => ⟨?unheld, ?both, ?still, ?release⟩, fun port s hp => ⟨?down, ?trained, ?up⟩,
    fun s => ⟨?on, ?unstable, ?unpowered, ?power, ?clock⟩⟩
  case core =>
    intro c s hc live powered
    have core := s.resetCore_core c c
    rw [if_pos rfl] at core
    obtain ⟨run, pc, ready, ts, ob, pmc, owned⟩ :=
      ((s.count (.core c)).core c).afterReset_reads (s.partOf c).isSome (s.count (.core c)).freeCtr
    have counted := (State.offCounters_tables c).count s (.core c)
    have tables : (s.partOf c).isSome = true → ((s.resetCore c).core c).sf = (s.core c).sf ∧ ((s.resetCore c).core c).cb = (s.core c).cb ∧
        ((s.resetCore c).core c).firn = (s.core c).firn ∧ ((s.resetCore c).core c).banksDue = true := fun mine => by
      obtain ⟨kept, due⟩ := owned mine
      obtain ⟨sf, cb, firn⟩ := Core.tables_iff.1 (kept.trans counted)
      rw [core]
      exact ⟨sf, cb, firn, due⟩
    have others : ∀ d, d ≠ c → (s.resetCore c).core d = s.core d := fun d ne => by rw [s.resetCore_core, if_neg ne]
    have hbm := State.resetCore_keeps State.offCounters_hbm (fun _ _ _ _ _ _ _ => rfl) s c
    have fw := State.resetCore_keeps State.offCounters_fw (fun _ _ _ _ _ _ _ => rfl) s c
    refine ⟨s.resetCore c, by rw [exec_coreReset, execCoreReset, if_neg (by omega), if_neg (by simp [live]; omega)], ?_⟩
    rw [← core] at run pc ready ts ob pmc
    exact ⟨run, pc, ready, ts, ob, tables, pmc, s.resetCore_staged c, others, hbm, fw, s.resetCore_parts c⟩
  case function =>
    intro f s ok live
    rw [exec_functionReset, execFunctionReset, if_neg (by simp [ok]), if_neg (by simp [live])]
    refine ⟨fun warm => ?_, fun cold => ?_⟩
    · rw [if_neg warm]
      obtain ⟨permit, lease, discards, mask⟩ := s.functionReset_self f
      have cores : (s.functionReset f).cores = s.cores := by rw [s.functionReset_frame f]
      have hbm : (s.functionReset f).hbm = s.hbm := by rw [s.functionReset_frame f]
      exact ⟨_, rfl, permit, lease, discards, mask, s.functionReset_staged f, cores, hbm, s.functionReset_slot f⟩
    · rw [if_pos cold]
      exact ⟨_, rfl, by rw [State.leavePermafrost_power], by rw [State.leavePermafrost_power]⟩
  case unheld =>
    intro dead
    rw [exec_perstBoth, execPerstBoth, if_pos dead]
  case both =>
    intro live
    rw [exec_perstBoth, execPerstBoth, if_neg (by simp [live])]
    have fw : (if s.power.state = 3 then s.leavePermafrost else s).fw = s.fw := by
      split
      · exact s.leavePermafrost_fw
      · rfl
    dsimp only
    generalize (if s.power.state = 3 then s.leavePermafrost else s) = u at fw ⊢
    obtain ⟨state, cause⟩ := u.deviceStop_power 1
    have parts := u.deviceStop_part 1
    have cores := u.deviceStop_cores 1
    have fused := u.deviceStop_rootSvn 1
    rw [fw] at fused
    generalize u.deviceStop 1 = v at state cause parts cores fused ⊢
    exact ⟨_, rfl, rfl, state, cause, parts, cores, fused⟩
  case still =>
    intro still
    rw [exec_perstRelease, execPerstRelease, if_pos (by simpa using still)]
  case release =>
    intro powered held
    obtain ⟨down, image, sealed, e, last, kind⟩ := State.boot_fw { s with pcie := { s.pcie with held := false } }
    refine ⟨_, e, by rw [exec_perstRelease, execPerstRelease, if_neg (by simp [powered, held])], ?_, down, image, sealed, last, kind⟩
    rw [State.boot_frame]
  case down =>
    rw [exec_pcieLinkDown, execPcieLinkDown, if_neg (by omega)]
    refine ⟨_, rfl, rfl, ?_⟩
    obtain rfl | rfl : port = 0 ∨ port = 1 := by omega
    · exact ⟨rfl, rfl⟩
    · exact ⟨rfl, rfl⟩
  case trained =>
    intro up
    rw [exec_pcieLinkUp, execPcieLinkUp, if_neg (by omega), if_pos (by simp [up])]
  case up =>
    intro down live warm
    rw [exec_pcieLinkUp, execPcieLinkUp, if_neg (by omega), if_neg (by simp [live, warm, down])]
    generalize hu : ({ s with pcie := s.pcie.setLink port true } : State) = u
    have pcie : (u.portReset port).pcie = u.pcie := State.portReset_keeps State.pcie (fun _ _ _ _ _ _ _ _ => rfl) u port
    have cores : (u.portReset port).cores = u.cores := State.portReset_keeps State.cores (fun _ _ _ _ _ _ _ _ => rfl) u port
    have hbm : (u.portReset port).hbm = u.hbm := State.portReset_keeps State.hbm (fun _ _ _ _ _ _ _ _ => rfl) u port
    have linked : u.pcie.link port = true := by
      subst hu
      unfold PcieState.link PcieState.setLink
      split <;> rfl
    refine ⟨_, rfl, by rw [pcie]; exact linked, u.portReset_staged port, by rw [cores, ← hu], by rw [hbm, ← hu], fun i below =>
      ⟨u.portReset_discards port below, ?_⟩⟩
    rw [u.portReset_permit, ← hu]
    rfl
  case on =>
    intro on
    rw [exec_powerOn, execPowerOn, if_pos (by simp [on])]
  case unstable =>
    intro off unstable
    rw [exec_powerOn, execPowerOn, if_neg (by simp [off]), State.release, if_neg (by simp [unstable])]
  case unpowered =>
    intro _ unpowered
    rw [exec_referenceClockStable, execReferenceClockStable, State.release, if_neg (by simp [unpowered])]
  case power =>
    intro off stable
    rw [exec_powerOn, execPowerOn, if_neg (by simp [off]), State.release, if_pos (by simp [off, stable])]
    exact ⟨_, rfl, by rw [State.boot_frame], by rw [State.boot_frame]⟩
  case clock =>
    intro off good
    rw [exec_referenceClockStable, execReferenceClockStable, State.release, if_pos (by simp [off, good])]
    exact ⟨_, rfl, by rw [State.boot_frame], by rw [State.boot_frame]⟩

end Sys2Proof.Machine
end

section
namespace Sys2Proof.Machine

/-! ## Reads at a home bank (R253 to R255) -/

theorem State.MemOnly.foldl {β : Type} {f : State → β → State} (h : ∀ (s : State) b, s.MemOnly (f s b)) (l : List β) (s : State) :
    s.MemOnly (l.foldl f s) := by
  induction l generalizing s with
  | nil => exact .refl s
  | cons b r ih => exact (h s b).trans (ih _)
theorem State.MemOnly.cores {s t : State} (h : s.MemOnly t) : t.cores = s.cores := by rw [h.eq]

/-- A state that answers a value to a read. -/
def State.withRead (s : State) (v : Nat) : State := { s with out := { s.out with readData := v } }

@[simp] theorem State.withRead_readData (s : State) (v : Nat) : (s.withRead v).out.readData = v := rfl
theorem State.withRead_writes (s : State) (v : Nat) (A : Nat → Prop) : s.Writes (s.withRead v) A :=
  .of_parts (s := s) (t := s.withRead v) (fun _ => rfl) (.of_parts rfl) rfl rfl A

/-- The reads of `n` bytes from an address on, one after another. -/
def State.useBytes (s : State) (p cls a n : Nat) : State := (List.range n).foldl (fun s i => s.useByte p cls (a + i)) s

theorem State.useBytes_memOnly (s : State) (p cls a n : Nat) : s.MemOnly (s.useBytes p cls a n) :=
  .foldl (fun t i => (t.useByte_spec p cls (a + i)).1) _ s
theorem State.useBytes_hb {s : State} (ok : s.CachesOk) (p cls a n : Nat) :
    (s.useBytes p cls a n).CachesOk ∧ ∀ b, (s.useBytes p cls a n).hb b = s.hb b := by
  unfold State.useBytes
  induction List.range n generalizing s with
  | nil => exact ⟨ok, fun _ => rfl⟩
  | cons i r ih =>
    obtain ⟨used, same⟩ := State.useByte_hb ok p cls (a + i)
    obtain ⟨ok', rest⟩ := ih used
    exact ⟨ok', fun b => (rest b).trans (same b)⟩

/-! ## Masked writes at a home bank (R125, R254, R256) -/

/-- A byte whose masked bits are replaced. -/
def masked (v : Byte × Byte) (old : Byte) : Byte := (v.1 &&& v.2) ||| (old &&& ~~~v.2)

theorem masked_of_no_mask {v : Byte × Byte} (unmasked : v.2 = 0) (old : Byte) : masked v old = old := by
  have keeps : old &&& ~~~0 = old := BitVec.and_allOnes
  rw [masked, unmasked, keeps]
  exact (congrArg (· ||| old) BitVec.and_zero).trans BitVec.zero_or

/-- The turn of one byte in a masked write. -/
def State.mergeTurn (s : State) (p a : Nat) (v : Byte × Byte) : State :=
  if v.2 = 0 || (s.regionAt p a).isSome then s else s.putHb a (masked v (s.hb a))

theorem State.mergeTurn_memOnly (s : State) (p a : Nat) (v : Byte × Byte) : s.MemOnly (s.mergeTurn p a v) := by
  unfold State.mergeTurn
  split
  · exact .refl s
  · exact s.putHb_memOnly _ _
theorem State.mergeTurn_regionAt (s : State) (p a : Nat) (v : Byte × Byte) (b : Nat) :
    (s.mergeTurn p a v).regionAt p b = s.regionAt p b := by
  unfold State.mergeTurn
  split
  · rfl
  · exact State.regionAt_congr (s.putHb_bare _ _) p b
theorem State.CachesOk.mergeTurn {s : State} (ok : s.CachesOk) (p a : Nat) (v : Byte × Byte) : (s.mergeTurn p a v).CachesOk := by
  unfold State.mergeTurn
  split
  · exact ok
  · exact ok.putHb _ _
/-- A byte without a mask, or at another address, stays. -/
theorem State.mergeTurn_hb_other {s : State} (ok : s.CachesOk) (p a : Nat) (v : Byte × Byte) {b : Nat} (out : v.2 ≠ 0 → b ≠ a) :
    (s.mergeTurn p a v).hb b = s.hb b := by
  unfold State.mergeTurn
  split
  · rfl
  · rename_i writes
    have mask : v.2 ≠ 0 := fun unmasked => writes (by simp [unmasked])
    rw [State.putHb_hb ok, if_neg (out mask)]
/-- Outside reducer regions the byte takes its masked bits. -/
theorem State.mergeTurn_hb_self {s : State} (ok : s.CachesOk) {p a : Nat} (v : Byte × Byte) (free : s.regionAt p a = none) :
    (s.mergeTurn p a v).hb a = masked v (s.hb a) := by
  by_cases unmasked : v.2 = 0
  · rw [State.mergeTurn_hb_other ok p a v (fun mask => absurd unmasked mask), masked_of_no_mask unmasked]
  · rw [State.mergeTurn, if_neg (by simpa [free] using unmasked), State.putHb_hb ok, if_pos rfl]

/-- The turns of the bytes of a masked write, from an address on. -/
def State.mergeRun (s : State) (p : Nat) : Nat → List (Byte × Byte) → State
  | _, [] => s
  | a, v :: r => (s.mergeTurn p a v).mergeRun p (a + 1) r

theorem State.mergeBytes_eq_mergeRun (s : State) (p a : Nat) (ds : List (Byte × Byte)) : s.mergeBytes p a ds = s.mergeRun p a ds := by
  have from_ : ∀ k (t : State), (ds.zipIdx k).foldl (fun s d => s.mergeTurn p (a + d.2) d.1) t = t.mergeRun p (a + k) ds := by
    induction ds with
    | nil => exact fun _ _ => rfl
    | cons v r ih => intro k t; rw [List.zipIdx_cons, List.foldl_cons, ih]; rfl
  exact from_ 0 s
theorem State.mergeRun_memOnly (p : Nat) (ds : List (Byte × Byte)) : ∀ (s : State) (a : Nat), s.MemOnly (s.mergeRun p a ds) := by
  induction ds with
  | nil => exact fun s _ => .refl s
  | cons v r ih => exact fun s a => (s.mergeTurn_memOnly p a v).trans (ih _ _)
/-- A masked write changes no byte but those it has a mask for. -/
theorem State.mergeRun_hb_other (p b : Nat) (ds : List (Byte × Byte)) : ∀ {s : State} {a : Nat}, s.CachesOk →
    (∀ i v, ds[i]? = some v → v.2 ≠ 0 → b ≠ a + i) → (s.mergeRun p a ds).hb b = s.hb b := by
  induction ds with
  | nil => exact fun _ _ => rfl
  | cons v r ih =>
    intro s a ok out
    have rest := ih (s := s.mergeTurn p a v) (a := a + 1) (ok.mergeTurn p a v) (fun i w at_ mask => by
      have := out (i + 1) w (by simpa using at_) mask
      omega)
    exact rest.trans (State.mergeTurn_hb_other ok p a v (out 0 v rfl))
/-- Outside reducer regions each of its bytes takes its masked bits. -/
theorem State.mergeRun_hb_at (p : Nat) (ds : List (Byte × Byte)) : ∀ {s : State} {a i : Nat} {v : Byte × Byte}, s.CachesOk →
    ds[i]? = some v → s.regionAt p (a + i) = none → (s.mergeRun p a ds).hb (a + i) = masked v (s.hb (a + i)) := by
  induction ds with
  | nil => intro s a i v _ at_; cases at_
  | cons w r ih =>
    intro s a i v ok at_ free
    cases i with
    | zero =>
      obtain rfl : w = v := by simpa using at_
      exact (State.mergeRun_hb_other p a r (ok.mergeTurn p a w) (fun _ _ _ _ => by omega)).trans (State.mergeTurn_hb_self ok w free)
    | succ i =>
      have next : a + (i + 1) = a + 1 + i := by omega
      rw [next] at free ⊢
      have rest := ih (ok.mergeTurn p a w) (i := i) (v := v) (by simpa using at_) ((s.mergeTurn_regionAt p a w _).trans free)
      exact rest.trans (congrArg _ (State.mergeTurn_hb_other ok p a w (fun _ => by omega)))

/-! ## CACHE_ACCESS without errors (R252 to R255) -/

section
variable {ev : MemEvent} (parity : ev.parityFails = 0) (onDie : ev.onDie = 0) (ecc : ev.cacheEcc = 0)
include parity onDie

theorem State.stackAccess_of_no_error (s : State) (p a : Nat) (isRead : Bool) : s.stackAccess p a isRead ev = (s, true) := by
  simp [State.stackAccess, parity, onDie]
/-- A read uses its bytes, whether its line holds them or not, and answers what HBM then shows. -/
theorem State.bankRead_of_no_error (s : State) (p cls a n : Nat) : s.bankRead p cls a n ev =
    (s.useBytes p cls a n).withRead (leNat ((List.range n).map (fun i => (s.useBytes p cls a n).hb (a + i)))) := by
  have delivered : ∀ hit : Bool, (if hit then (s, true) else s.stackAccess p a true ev) = (s, true) := fun hit => by
    rw [State.stackAccess_of_no_error parity onDie, ite_self]
  unfold State.bankRead
  dsimp only
  rw [delivered]
  rfl
/-- A write looks for its line and merges its bytes, there or in the stack. -/
theorem State.bankWrite_of_no_error (s : State) (p cls a : Nat) (ds : List (Byte × Byte)) :
    s.bankWrite p cls a ds ev = ((s.haveLine p cls a).mergeRun p a ds).answer := by
  unfold State.bankWrite
  extract_lets s1 r
  have delivered : r = (s1, true) := State.stackAccess_of_no_error parity onDie s1 p a false
  rw [delivered, State.mergeBytes_eq_mergeRun]
  exact ite_self _

omit parity onDie
include ecc

theorem State.bankServe_read (s : State) (p cls a n : Nat) :
    s.bankServe p cls a (.read n) ev = s.bankRead p cls a (min n (128 - a % 128)) ev := by
  unfold State.bankServe
  cases s.line a with
  | none => rfl
  | some l => simp [ecc, reqBytes]
theorem State.bankServe_write (s : State) (p cls a : Nat) (ds : List (Byte × Byte)) :
    s.bankServe p cls a (.write ds) ev = s.bankWrite p cls a (ds.take (min ds.length (128 - a % 128))) ev := by
  unfold State.bankServe
  cases s.line a with
  | none => rfl
  | some l => simp [ecc, reqBytes]

end

theorem exec_cacheAccess (p cls : Nat) (a : PhysAddr) (req : CacheReq) (ev : MemEvent) (s : State) :
    exec (.cacheAccess p cls a req ev) s = execCacheAccess p cls a req ev s := rfl

/-- A request of a partition inside the address space: taken by a shelf that serves, where the partition may and nothing is fenced. -/
theorem exec_cacheAccess_inside {p cls : Nat} {a : PhysAddr} (part : p < 16) (class_ : cls < 4) (group : a.group < 64)
    (off : a.off < Config.groupBytes) (req : CacheReq) (ev : MemEvent) (s : State) : exec (.cacheAccess p cls a req ev) s =
      if s.shelfHeld (shelfOf (flat a.group a.off)) then .next s
      else if !bit (s.part p).geo.groups a.group then
        .next (s.report p Config.stAccessRights 0 0xFFFFFFFFFFFF ⟨1, shelfOf (flat a.group a.off)⟩)
      else if s.isFenced (flat a.group a.off) then
        .next (s.report p Config.stHbmFenced 0 0xFFFFFFFFFFFF ⟨1, shelfOf (flat a.group a.off)⟩)
      else .next (s.bankServe p cls (flat a.group a.off) req ev) := by
  rw [exec_cacheAccess, execCacheAccess, if_neg (by simp only [Bool.or_eq_true, decide_eq_true_eq]; omega)]

/-! ## REDUCER_OP (R257, R259) -/

theorem exec_reducerOp (p op wide a b addr : Nat) (s : State) :
    exec (.reducerOp p op wide a b addr) s = execReducerOp p op wide a b addr s := rfl

/-- The word at an interleaved offset of a partition, and the word that a reducer's operation makes of it. -/
def State.oldWord (s : State) (p wide addr : Nat) : Nat := s.leX (s.part p).geo addr (opBytes wide)
def State.newWord (s : State) (p op wide a b addr : Nat) : Nat :=
  reducerNew op (opFmt wide) (opBytes wide) (s.oldWord p wide addr) a b
/-- The state after a reducer's operation: the new word stored and noted, the old one answered. -/
def State.reduced (s : State) (p op wide a b addr f : Nat) : State :=
  ((s.storeX p addr (leBytes (opBytes wide) (s.newWord p op wide a b addr))).noteShelf (shelfOf f) p 0x260 1).answer.withRead
    (s.oldWord p wide addr)

theorem exec_reducerOp_served {p op wide addr f : Nat} {s : State} (part : p < 16) (given : reducerOk op wide = true)
    (at_ : interPhys (s.part p).geo addr = some f) (serves : s.shelfHeld (shelfOf f) = false) (open_ : op ≤ 3 → s.redShut p = false)
    (unfenced : s.isFenced f = false) (a b : Nat) : exec (.reducerOp p op wide a b addr) s = .next (s.reduced p op wide a b addr f) := by
  have admits : (s.shelfHeld (shelfOf f) || (decide (op ≤ 3) && s.redShut p)) = false := by
    by_cases low : op ≤ 3
    · simp [serves, open_ low]
    · simp [serves, low]
  rw [exec_reducerOp, execReducerOp, if_neg (by omega), if_neg (by simp [given]), at_]
  dsimp only
  rw [admits, unfenced]
  rfl

section
variable (s : State) (p op wide a b addr f : Nat)

theorem State.reduced_of_stored (A : Nat → Prop) :
    (s.storeX p addr (leBytes (opBytes wide) (s.newWord p op wide a b addr))).Writes (s.reduced p op wide a b addr f) A :=
  ((State.noteShelf_writes _ (shelfOf f) p 0x260 1 A).trans (State.answer_writes _ A)).trans (State.withRead_writes _ _ A)
theorem State.reduced_writes : s.Writes (s.reduced p op wide a b addr f) (s.Within p addr (opBytes wide)) := by
  have stored := s.storeAt_writes p 1 true addr (leBytes (opBytes wide) (s.newWord p op wide a b addr))
  rw [length_leBytes] at stored
  exact stored.trans (s.reduced_of_stored p op wide a b addr f _)

end

/-- Where nothing is fenced and the bytes are the partition's to change, a stored run is what the partition reads. -/
theorem State.storeX_readX {s : State} {p x : Nat} {bs : List Byte} (ok : s.CachesOk) (noFence : s.NoFence)
    (own : ∀ i, i < bs.length → (interPhys (s.part p).geo (x + i)).isSome = true ∧ s.fixedAt p (x + i) = false) :
    (s.storeX p x bs).readX (s.part p).geo x bs.length = bs :=
  State.readX_eq _ _ bs x fun i below => by
    obtain ⟨f, at_⟩ := Option.isSome_iff_exists.1 (own i below).1
    rw [at_]
    exact State.storeAt_hb ok noFence (fun j hj => (own j hj).2) below at_ 1 true
theorem State.reduced_leX {s : State} {p wide addr : Nat} (ok : s.CachesOk) (noFence : s.NoFence)
    (own : ∀ i, i < opBytes wide → (interPhys (s.part p).geo (addr + i)).isSome = true ∧ s.fixedAt p (addr + i) = false) (op a b f : Nat) :
    (s.reduced p op wide a b addr f).leX (s.part p).geo addr (opBytes wide) = s.newWord p op wide a b addr % 256 ^ opBytes wide := by
  have noted := s.reduced_of_stored p op wide a b addr f (fun _ => False)
  generalize s.newWord p op wide a b addr = w at noted ⊢
  have ok' := ((s.storeAt_writes p 1 true addr (leBytes (opBytes wide) w)).mem ok).1
  have stored := State.storeX_readX (bs := leBytes (opBytes wide) w) ok noFence (by rwa [length_leBytes])
  rw [length_leBytes] at stored
  rw [State.leX_congr fun c => (noted.mem ok').2 c id, State.leX, stored, leNat_leBytes]

/-- Settles O39: a request without errors reads or merges its bytes one after another at its home bank, and a reducer's operation stores one
word. -/
theorem bankRequestsComplete : Obligations.BankRequestsComplete := by
  unfold Obligations.BankRequestsComplete
  refine ⟨fun p cls a req ev s part class_ group off => ?access, fun p op wide a b addr f s part given at_ serves open_ unfenced => ?reduce⟩
  case access =>
    have row := exec_cacheAccess_inside part class_ group off req ev s
    generalize flat a.group a.off = f at row ⊢
    dsimp only
    refine ⟨fun held => ?_, fun runs cool foreign => ?_, fun runs cool owned fenced => ?_,
      fun runs cool owned unfenced parity onDie ecc => ⟨?_, ?_⟩⟩
    · rw [row, if_pos (by rwa [State.shelfHeld, Bool.or_eq_true])]
    · rw [row, if_neg (by simp [State.shelfHeld, runs, cool]), if_pos (by rw [foreign]; rfl)]
    · rw [row, if_neg (by simp [State.shelfHeld, runs, cool]), if_neg (by simp [owned]), if_pos fenced]
    all_goals
      rw [if_neg (by simp [State.shelfHeld, runs, cool]), if_neg (by simp [owned]), if_neg (by simp [unfenced])] at row
    · rintro n rfl
      have only := s.useBytes_memOnly p cls f (min n (128 - f % 128))
      rw [State.bankServe_read ecc, State.bankRead_of_no_error parity onDie] at row
      refine ⟨_, row, only.cores, only.parts, fun ok => ?_⟩
      have same := (State.useBytes_hb ok p cls f (min n (128 - f % 128))).2
      exact ⟨by rw [State.withRead_readData, funext same], same⟩
    · rintro ds rfl
      have only := (s.haveLine_spec p cls f).1.trans (State.mergeRun_memOnly p (ds.take (min ds.length (128 - f % 128))) _ f)
      rw [State.bankServe_write ecc, State.bankWrite_of_no_error parity onDie] at row
      refine ⟨_, row, only.cores, only.parts, fun ok => ?_⟩
      obtain ⟨ok', same⟩ := State.haveLine_hb ok p cls f
      refine ⟨fun b out => ?_, fun i v below at_ free => ?_⟩
      · rw [State.answer_hb, State.mergeRun_hb_other p b _ ok', same]
        intro i v at_ mask
        rw [List.getElem?_take, Option.ite_none_right_eq_some] at at_
        exact out i v at_.1 at_.2 mask
      · rw [State.answer_hb, State.mergeRun_hb_at p _ ok' (v := v) (by rw [List.getElem?_take_of_lt below, at_]), same]
        · rfl
        · exact (State.regionAt_congr (s.haveLine_bare p cls f) p _).trans free
  case reduce =>
    have written := s.reduced_writes p op wide a b addr f
    exact ⟨_, exec_reducerOp_served part given at_ serves open_ unfenced a b, written.core, rfl,
      fun ok => ⟨(written.mem ok).2, fun noFence own => State.reduced_leX ok noFence own op a b f⟩⟩

end Sys2Proof.Machine
end

section
namespace Sys2Proof.Machine

/-! ## Writes at flat addresses (R256, R269) -/

/-- Whether an address is that of one of `n` bytes from `a` on. -/
def spanAt (a n b : Nat) : Prop := a ≤ b ∧ b < a + n

/-- The turn of one byte in a write at a flat address: its granule is calved first (R464). -/
def State.flatTurn (s : State) (p a : Nat) (b : Byte) : State := (s.calve p (physInter (s.part p).geo a)).storeByte p 1 a b

theorem State.flatTurn_writes (s : State) (p a : Nat) (b : Byte) : s.Writes (s.flatTurn p a b) (· = a) :=
  (s.calve_writes p _ _).trans (State.storeByte_writes _ p 1 a b)
theorem State.flatTurn_hb {s : State} (ok : s.CachesOk) (noFence : s.NoFence) (p a : Nat) (b : Byte) : (s.flatTurn p a b).hb a = b := by
  have calved := s.calve_writes p (physInter (s.part p).geo a) (fun _ => False)
  have unfenced : (s.calve p (physInter (s.part p).geo a)).isFenced a = false := by
    rw [State.isFenced, calved.noFence noFence]
    simp [bit]
  rw [State.flatTurn, State.storeByte_hb (calved.mem ok).1, if_pos ⟨rfl, unfenced⟩]

theorem State.storeRun_writes (p : Nat) (bs : List Byte) : ∀ (s : State) (a : Nat), s.Writes (s.storeRun p a bs) (spanAt a bs.length) := by
  induction bs with
  | nil => exact fun s a => .refl s _
  | cons b r ih =>
    intro s a
    have turn := (s.flatTurn_writes p a b).mono (B := spanAt a (r.length + 1)) (fun c at_ => ⟨by omega, by omega⟩)
    exact turn.trans ((ih (s.flatTurn p a b) (a + 1)).mono (fun c ⟨lo, hi⟩ => ⟨by omega, by omega⟩))
theorem State.storeRun_hb (p : Nat) (bs : List Byte) : ∀ {s : State} {a i : Nat}, s.CachesOk → s.NoFence → i < bs.length →
    (s.storeRun p a bs).hb (a + i) = bs.getD i 0 := by
  induction bs with
  | nil => intro s a i _ _ below; cases below
  | cons b r ih =>
    intro s a i ok noFence below
    have turn := s.flatTurn_writes p a b
    rw [State.storeRun]
    cases i with
    | zero =>
      have rest := (State.storeRun_writes p r (s.flatTurn p a b) (a + 1)).mem (turn.mem ok).1
      exact (rest.2 a (fun ⟨lo, _⟩ => by omega)).trans (State.flatTurn_hb ok noFence p a b)
    | succ i =>
      rw [List.getD_cons_succ, show a + (i + 1) = a + 1 + i by omega]
      exact ih (turn.mem ok).1 (turn.noFence noFence) (by simpa using below)

/-- A whole write at a flat address is the run of its bytes, and perhaps a report. -/
theorem State.storeF_of_storeRun (s : State) (p a : Nat) (bs : List Byte) (A : Nat → Prop) :
    (s.storeRun p a bs).Writes (s.storeF p a bs) A := by
  unfold State.storeF
  extract_lets t
  split
  · exact .refl t A
  · exact t.report_writes _ _ _ _ _ A
theorem State.storeF_writes (s : State) (p a : Nat) (bs : List Byte) : s.Writes (s.storeF p a bs) (spanAt a bs.length) :=
  (State.storeRun_writes p bs s a).trans (s.storeF_of_storeRun p a bs _)
theorem State.readF_eq (s : State) (bs : List Byte) : ∀ a, (∀ i, i < bs.length → s.hb (a + i) = bs.getD i 0) → s.readF a bs.length = bs := by
  induction bs with
  | nil => exact fun _ _ => rfl
  | cons b r ih =>
    intro a h
    rw [List.length_cons] at h ⊢
    rw [State.readF, ih (a + 1) (fun i below => ?_)]
    · exact congrArg (· :: r) (h 0 (by omega))
    · rw [show a + 1 + i = a + (i + 1) by omega]
      exact h (i + 1) (by omega)
/-- Where nothing is fenced, what was written is read. -/
theorem State.storeF_readF {s : State} (ok : s.CachesOk) (noFence : s.NoFence) (p a : Nat) (bs : List Byte) :
    (s.storeF p a bs).readF a bs.length = bs := by
  have run := ((State.storeRun_writes p bs s a).mem ok).1
  refine State.readF_eq _ bs a fun i below => ?_
  rw [((s.storeF_of_storeRun p a bs (fun _ => False)).mem run).2 _ id, State.storeRun_hb p bs ok noFence below]
theorem State.readF_congr {s t : State} (h : ∀ a, t.hb a = s.hb a) (n : Nat) : ∀ a, t.readF a n = s.readF a n := by
  induction n with
  | zero => exact fun _ => rfl
  | succ n ih => intro a; rw [State.readF, State.readF, ih, h]

/-- A change of a shelf that leaves its lines and its fences is no write. -/
theorem State.updShelf_writes (s : State) (k : Nat) {f : Shelf → Shelf} (cache : ∀ x, (f x).cache = x.cache)
    (fence : ∀ x, (f x).pcFenced = x.pcFenced) (A : Nat → Prop) : s.Writes (s.updShelf k f) A where
  core _ := rfl
  parts := .of_parts rfl
  fence := State.updShelf_fence fence
  mem ok := ⟨ok.updShelf (by rw [cache]; exact ok k), fun a _ => (s.updShelf_notes k cache).hb a⟩

/-! ## GLACIER_ADD (R260 to R262) -/

theorem GlRecord.length_bytes (r : GlRecord) : r.bytes.length = 64 := by
  simp only [GlRecord.bytes, List.length_append, length_leBytes]
theorem GlRecord.add_count (r : GlRecord) (v : Val) (beat : Nat) : (r.add v beat).count = r.count + 1 := by
  unfold GlRecord.add
  extract_lets r'
  split <;> rfl

/-- A shelf that notes an element of a glacier region as open. -/
def Shelf.opens (x : Shelf) (e i : Nat) : Shelf := { x with glOpen := if x.glOpen.contains (e, i) then x.glOpen else x.glOpen ++ [(e, i)] }

theorem Shelf.mem_opens (x : Shelf) (e i : Nat) : (e, i) ∈ (x.opens e i).glOpen := by
  unfold Shelf.opens
  dsimp only
  split
  · rename_i open_
    exact List.contains_iff_mem.1 open_
  · exact List.mem_append_right _ (List.mem_singleton_self _)

/-- The state with a glacier record stored and its element open. -/
def State.putRecord (s : State) (k e : Nat) (g : Region) (i : Nat) (r : GlRecord) : State :=
  ((s.noteShelf k g.owner 0x240 1).storeF g.owner (g.recAt i) r.bytes).updShelf k (·.opens e i)

theorem State.putRecord_opens (s : State) (k e : Nat) (g : Region) (i : Nat) (r : GlRecord) :
    (e, i) ∈ ((s.putRecord k e g i r).shelf k).glOpen := by
  rw [State.putRecord, State.shelf_updShelf, if_pos rfl]
  exact Shelf.mem_opens _ e i
theorem State.putRecord_of_storeF (s : State) (k e : Nat) (g : Region) (i : Nat) (r : GlRecord) (A : Nat → Prop) :
    ((s.noteShelf k g.owner 0x240 1).storeF g.owner (g.recAt i) r.bytes).Writes (s.putRecord k e g i r) A :=
  State.updShelf_writes _ k (f := (·.opens e i)) (fun _ => rfl) (fun _ => rfl) A
theorem State.putRecord_writes (s : State) (k e : Nat) (g : Region) (i : Nat) (r : GlRecord) :
    s.Writes (s.putRecord k e g i r) (spanAt (g.recAt i) 64) := by
  have stored := (s.noteShelf k g.owner 0x240 1).storeF_writes g.owner (g.recAt i) r.bytes
  rw [GlRecord.length_bytes] at stored
  exact ((s.noteShelf_writes k g.owner 0x240 1 _).trans stored).trans (s.putRecord_of_storeF k e g i r _)
theorem State.putRecord_readF {s : State} (ok : s.CachesOk) (noFence : s.NoFence) (k e : Nat) (g : Region) (i : Nat) (r : GlRecord) :
    (s.putRecord k e g i r).readF (g.recAt i) 64 = r.bytes := by
  have noted := s.noteShelf_writes k g.owner 0x240 1 (fun _ => False)
  have stored := (State.storeF_writes _ g.owner (g.recAt i) r.bytes).mem (noted.mem ok).1
  have read := State.storeF_readF (noted.mem ok).1 (noted.noFence noFence) g.owner (g.recAt i) r.bytes
  rw [GlRecord.length_bytes] at read
  exact (State.readF_congr (fun a => ((s.putRecord_of_storeF k e g i r (fun _ => False)).mem stored.1).2 a id) 64 _).trans read

section
variable {s : State} {g : Region} {k e i beat : Nat}

theorem State.glacier_refused (refused : g.expect = 0 ∨ ((glOf (s.readF (g.recAt i) 64)).count ≠ 0 ∧
    (glOf (s.readF (g.recAt i) 64)).beat ≠ beat)) (v : Val) : s.glacier k e g i v beat = s.shelfFault g.owner k beat := by
  unfold State.glacier
  exact if_pos (by simpa using refused)
/-- A contribution that is not the last is stored into its record and leaves its element open. -/
theorem State.glacier_taken (fits : (glOf (s.readF (g.recAt i) 64)).count = 0 ∨ (glOf (s.readF (g.recAt i) 64)).beat = beat)
    (sums : g.expect ≠ 0) (more : (glOf (s.readF (g.recAt i) 64)).count + 1 ≠ g.expect) (v : Val) : s.glacier k e g i v beat =
      s.putRecord k e g i ((glOf (s.readF (g.recAt i) 64)).add v beat) := by
  unfold State.glacier
  extract_lets r r2 t
  have admits : ¬ (decide (g.expect = 0) || decide (r.count ≠ 0) && decide (r.beat ≠ beat)) = true := by
    rcases fits with empty | same
    · simp [sums, r, empty]
    · simp [sums, r, same]
  rw [if_neg admits, if_neg (by rw [GlRecord.add_count]; exact more)]
  rfl

end

theorem exec_glacierAdd {k e i : Nat} {s : State} {g : Region} (shelf : k < 8) (entry : e < 256) (region : s.regionEntry k e 4 i = some g)
    (x beat : Nat) : exec (.glacierAdd k e i x beat) s =
      .next (s.glacier k e g i (decodeCode g.src (x % 2 ^ fmtWidth g.src)).1 (beat % 2 ^ 48)) := by
  have row : exec (.glacierAdd k e i x beat) s = execGlacierAdd k e i x beat s := rfl
  rw [row, execGlacierAdd, if_neg (by simp only [Bool.or_eq_true, decide_eq_true_eq]; omega), region]

/-- A schedule fault of a shelf changes no byte, and is one report more. -/
theorem State.shelfFault_reports (s : State) (p k beat : Nat) : (∀ b, (s.shelfFault p k beat).hb b = s.hb b) ∧
    ((s.shelfFault p k beat).part p).job.reports.length = (s.part p).job.reports.length + 1 := by
  refine ⟨fun b => rfl, ?_⟩
  rw [State.shelfFault, State.report_part, if_pos rfl]
  exact List.length_append

/-! ## ORDERED_SUM_CONTRIB (R263) -/

/-- The ordinals seen of an element of an ordered sum. -/
def Shelf.seen (x : Shelf) (e i : Nat) : List Nat := (x.ordSeen.filter (fun o => o.1 == e && o.2.1 == i)).map (·.2.2)
/-- A shelf that notes one more. -/
def Shelf.sees (x : Shelf) (e i ord : Nat) : Shelf := { x with ordSeen := x.ordSeen ++ [(e, i, ord)] }
/-- A record of an ordered sum with a contribution: the word at its ordinal, then the count and the beat. -/
def State.ordPut (s : State) (g : Region) (i ord x count beat : Nat) : State :=
  (s.storeF g.owner (g.ordAt i + 16 + 4 * ord) (leBytes 4 x)).storeF g.owner (g.ordAt i) (leBytes 4 count ++ leBytes 6 beat)

theorem State.ordPut_writes (s : State) (g : Region) (i x count beat : Nat) {ord : Nat} (below : ord < g.expect) :
    s.Writes (s.ordPut g i ord x count beat) (spanAt (g.ordAt i) (16 + 4 * g.expect)) := by
  have word := s.storeF_writes g.owner (g.ordAt i + 16 + 4 * ord) (leBytes 4 x)
  have head := (s.storeF g.owner (g.ordAt i + 16 + 4 * ord) (leBytes 4 x)).storeF_writes g.owner (g.ordAt i) (leBytes 4 count ++ leBytes 6 beat)
  rw [length_leBytes] at word
  rw [List.length_append, length_leBytes, length_leBytes] at head
  exact (word.mono fun c ⟨lo, hi⟩ => ⟨by omega, by omega⟩).trans (head.mono fun c ⟨lo, hi⟩ => ⟨by omega, by omega⟩)

section
variable {s : State} {g : Region} {k e i ord beat : Nat}

theorem State.ordered_seen (again : ord ∈ (s.shelf k).seen e i) (x : Nat) : s.ordered k e g i ord x beat = s.shelfFault g.owner k beat := by
  have known : ((s.shelf k).seen e i).contains ord = true := List.contains_iff_mem.2 again
  unfold State.ordered
  extract_lets seen rec0
  have same : seen.contains ord = true := known
  rw [if_pos (by rw [same, Bool.or_true, Bool.true_or])]
theorem State.ordered_taken (below : ord < g.expect) (new : ord ∉ (s.shelf k).seen e i)
    (fits : (s.shelf k).seen e i = [] ∨ s.leF (g.ordAt i + 4) 6 = beat) (more : ((s.shelf k).seen e i).length + 1 ≠ g.expect) (x : Nat) :
    s.ordered k e g i ord x beat = (s.ordPut g i ord x (((s.shelf k).seen e i).length + 1) beat).updShelf k (·.sees e i ord) := by
  unfold State.ordered
  extract_lets seen rec0 s1
  have unseen : seen.contains ord = false := by
    rw [← Bool.not_eq_true, List.contains_iff_mem]
    exact new
  have agrees : (!seen.isEmpty && rec0 != beat) = false := by
    rcases fits with empty | same
    · have first : seen.isEmpty = true := List.isEmpty_iff.2 empty
      rw [first]
      rfl
    · have old : rec0 = beat := same
      rw [old, bne_self_eq_false, Bool.and_false]
  have sums : decide (g.expect = 0) = false := decide_eq_false (by omega)
  have inside : decide (g.expect ≤ ord) = false := decide_eq_false (by omega)
  rw [sums, inside, unseen, agrees, if_neg (by decide)]
  exact if_neg more
theorem State.ordered_claimView (s : State) (k e : Nat) (g : Region) (i ord x beat : Nat) :
    (s.ordered k e g i ord x beat).claimView = s.claimView := by
  unfold State.ordered
  dsimp only
  split
  · exact (State.claimView_unwritten _).report s _ _ _ _
  · split
    · rw [State.answer_claimView, State.updShelf_claimView, State.addRedFlags_claimView, State.storeF_claimView, State.storeF_claimView,
        State.storeF_claimView, State.storeF_claimView]
    · rw [State.updShelf_claimView, State.storeF_claimView, State.storeF_claimView]

end

theorem exec_orderedSumContrib {k e i : Nat} {s : State} {g : Region} (shelf : k < 8) (entry : e < 256)
    (region : s.regionEntry k e 5 i = some g) (ord x beat : Nat) : exec (.orderedSumContrib k e i ord x beat) s =
      .next (s.ordered k e g i ord (x % 2 ^ 32) (beat % 2 ^ 48)) := by
  have row : exec (.orderedSumContrib k e i ord x beat) s = execOrderedSumContrib k e i ord x beat s := rfl
  rw [row, execOrderedSumContrib, if_neg (by simp only [Bool.or_eq_true, decide_eq_true_eq]; omega), region]

/-! ## SHELF_THERMAL_EVALUATION (R271, R272) -/

theorem thermalStep_cold {t : Int} (cold : t < 80) (step below : Nat) :
    (thermalStep t step below).1 = if 9 ≤ below then step - 1 else step := by
  rw [thermalStep, if_pos cold, apply_ite Prod.fst]
theorem thermalStep_warm {t : Int} (lo : 80 ≤ t) (hi : t < 85) (step below : Nat) : (thermalStep t step below).1 = step := by
  rw [thermalStep, if_neg (by omega), if_pos hi]
theorem thermalStep_hot {t : Int} (hot : 85 ≤ t) (step below : Nat) :
    (thermalStep t step below).1 = if t < 95 then min 3 (step + 1) else max 2 (min 3 (step + 1)) := by
  rw [thermalStep, if_neg (by omega), if_neg (by omega), apply_ite Prod.fst]

/-- What a shelf shows after an evaluation whose last temperature is `last` and whose highest is `t`. -/
def Shelf.shows (x : Shelf) (last t : Int) : Shelf := { x with temp := min 255 last.toNat, waitCool := x.waitCool && decide (95 ≤ t) }
/-- Its throttle and refresh after an evaluation at `t` (Table 12.7). -/
def Shelf.throttled (x : Shelf) (t : Int) : Shelf :=
  { x with
    step := (thermalStep t x.step x.below80).1
    below80 := (thermalStep t x.step x.below80).2
    refreshX2 := if t < 92 then false else x.refreshX2 || decide (95 ≤ t)
    stepMax := max x.stepMax (thermalStep t x.step x.below80).1 }
/-- A halted shelf: its dirty lines are gone. -/
def Shelf.halts (x : Shelf) : Shelf := { x with halted := true, cache := x.cache.filter (fun l => !l.dirty.any id) }

theorem Shelf.clean_of_mem_halts {x : Shelf} {l : CacheLine} (mem : l ∈ x.halts.cache) : l.dirty.any id = false := by
  simpa using (List.mem_filter.1 mem).2

/-- Of memory, a halt changes its shelf only; and it is device-fatal. -/
theorem State.haltStack_leaves (s : State) (k : Nat) : (s.haltStack k).shelves = (s.updShelf k Shelf.halts).shelves ∧
    (s.haltStack k).hbm = s.hbm ∧ (s.haltStack k).power.fatal = true := by
  unfold State.haltStack
  extract_lets dirty lost s1 s2
  rw [State.event_frame]
  exact ⟨rfl, rfl, rfl⟩
/-- A journal entry leaves the special functions that firmware keeps, so every core. -/
theorem State.journal_core (s : State) (e : JEntry) (c : Nat) : (s.journal e).core c = s.core c := by
  have table : (s.journal e).fw.sft = s.fw.sft := by
    change (s.fw.append _).sft = s.fw.sft
    rcases s.fw.append_cases _ with ⟨-, same⟩ | ⟨-, _, _, same⟩ <;> rw [same]
  have default : (s.journal e).coreDefault = s.coreDefault := by
    unfold State.coreDefault
    rw [table]
    rfl
  rw [State.core, default]
  rfl
theorem State.haltStack_core (s : State) (k c : Nat) : (s.haltStack k).core c = s.core c := by
  unfold State.haltStack
  extract_lets dirty lost s1 s2
  have journalled : s2.core c = s1.core c := s1.journal_core _ c
  rw [State.event_core]
  exact journalled
theorem State.haltStack_shelf (s : State) (k : Nat) : (s.haltStack k).shelf k = (s.shelf k).halts := by
  rw [State.shelf, (s.haltStack_leaves k).1]
  exact s.shelf_setShelf_self k _

theorem exec_shelfThermalEvaluation {k : Nat} {s : State} (shelf : k < 8) (on : s.power.off = false) (state : s.power.state ≠ 3)
    (t0 : Int) (rest : List Int) : exec (.shelfThermalEvaluation k (t0 :: rest)) s =
      let t := rest.foldl max t0
      let s1 := s.updShelf k (·.shows ((rest.getLast?).getD t0) t)
      if (s.shelf k).halted then .next s1
      else if 105 ≤ t then .next (s1.haltStack k)
      else .next (s1.updShelf k (·.throttled t)) := by
  have row : exec (.shelfThermalEvaluation k (t0 :: rest)) s = execShelfThermalEvaluation k (t0 :: rest) s := rfl
  rw [row, execShelfThermalEvaluation, if_neg (by omega)]
  dsimp only
  rw [if_neg (by simp [on, state])]
  rfl

/-- Settles O40: a contribution that is not the last is one write inside its record, a refused one a report; an evaluation shows the
temperature, and then halts the stack or steps its throttle. -/
theorem shelfEventsComplete : Obligations.ShelfEventsComplete := by
  unfold Obligations.ShelfEventsComplete
  refine ⟨fun k e i x beat s g shelf entry region => ?glacier, fun k e i ord x beat s g shelf entry region => ?ordered,
    fun k t0 rest s shelf on state => ?thermal⟩
  case glacier =>
    extract_lets old v
    refine ⟨_, exec_glacierAdd shelf entry region x beat, State.core_of_claimView (State.glacier_claimView ..), fun fits sums more => ?_,
      fun refused => ?_⟩
    · rw [State.glacier_taken fits sums more]
      have written := s.putRecord_writes k e g i (old.add v (beat % 2 ^ 48))
      exact ⟨State.putRecord_opens .., fun ok noFence => State.putRecord_readF ok noFence k e g i _,
        fun ok b out => (written.mem ok).2 b (fun ⟨lo, hi⟩ => by omega)⟩
    · rw [State.glacier_refused refused]
      exact s.shelfFault_reports g.owner k _
  case ordered =>
    extract_lets seen at_
    refine ⟨_, exec_orderedSumContrib shelf entry region ord x beat, State.core_of_claimView (State.ordered_claimView ..),
      fun below new fits more => ?_, fun again => ?_⟩
    · rw [State.ordered_taken below new fits more]
      have put := s.ordPut_writes g i (x % 2 ^ 32) (seen.length + 1) (beat % 2 ^ 48) below
      have noted := (s.ordPut g i ord (x % 2 ^ 32) (seen.length + 1) (beat % 2 ^ 48)).updShelf_writes k
        (f := (·.sees e i ord)) (fun _ => rfl) (fun _ => rfl) (spanAt (g.ordAt i) (16 + 4 * g.expect))
      refine ⟨?_, fun ok b out => ((put.trans noted).mem ok).2 b (fun ⟨lo, hi⟩ => by omega)⟩
      rw [State.shelf_updShelf, if_pos rfl]
      exact List.mem_append_right _ (List.mem_singleton_self _)
    · rw [State.ordered_seen again]
      exact s.shelfFault_reports g.owner k _
  case thermal =>
    have row := exec_shelfThermalEvaluation shelf on state t0 rest
    extract_lets tmp sh
    have shown : (s.updShelf k (·.shows ((rest.getLast?).getD t0) tmp)).shelf k = sh.shows ((rest.getLast?).getD t0) tmp :=
      State.shelf_setShelf_self _ _ _
    dsimp only at row
    by_cases halted : sh.halted = true
    · rw [if_pos halted] at row
      refine ⟨_, row, fun _ => rfl, by rw [shown]; rfl, fun _ => by rw [shown]; exact ⟨halted, rfl⟩,
        fun runs => absurd (halted.symm.trans runs) (by decide), fun runs => absurd (halted.symm.trans runs) (by decide)⟩
    · rw [if_neg halted] at row
      by_cases hot : 105 ≤ tmp
      · rw [if_pos hot] at row
        obtain ⟨-, hbm, fatal⟩ := (s.updShelf k (·.shows ((rest.getLast?).getD t0) tmp)).haltStack_leaves k
        refine ⟨_, row, State.haltStack_core _ k, by rw [State.haltStack_shelf, shown]; rfl, fun h => absurd h halted,
          fun _ _ => ⟨by rw [State.haltStack_shelf]; rfl, fun l mem => ?_, fatal, hbm⟩, fun _ cool => by omega⟩
        rw [State.haltStack_shelf] at mem
        exact Shelf.clean_of_mem_halts mem
      · rw [if_neg hot] at row
        have stepped : ((s.updShelf k (·.shows ((rest.getLast?).getD t0) tmp)).updShelf k (·.throttled tmp)).shelf k =
            (sh.shows ((rest.getLast?).getD t0) tmp).throttled tmp := by rw [State.shelf_updShelf, if_pos rfl, shown]
        refine ⟨_, row, fun _ => rfl, by rw [stepped]; rfl, fun h => absurd h halted, fun _ h => absurd h hot, fun runs _ => ?_⟩
        rw [stepped]
        exact ⟨runs, rfl, rfl, fun lo => thermalStep_hot lo _ _, fun lo hi => thermalStep_warm lo hi _ _,
          fun cold => thermalStep_cold cold _ _, fun h => (if_neg (by omega)).trans (by rw [decide_eq_true h, Bool.or_true]), fun h => if_pos h⟩

end Sys2Proof.Machine
end

section
-- One proof after another: the stacks of proofs that wait for each other count against the check's memory limit.
set_option Elab.async false
namespace Sys2Proof.Machine

/-! ## What every step keeps (R445, Table 21.2) -/

/-- Firmware's state goes on: its journal is continued, no fused version number falls and no revoked key comes back. -/
structure FwState.Grows (f g : FwState) : Prop where
  journal : f.Continues g
  root : f.rootSvn ≤ g.rootSvn
  svc : f.svcSvn ≤ g.svcSvn
  revoked : ∀ i, bit f.revoked i = true → bit g.revoked i = true

theorem FwState.Grows.trans {f g h : FwState} (a : f.Grows g) (b : g.Grows h) : f.Grows h :=
  ⟨a.journal.trans b.journal, a.root.trans b.root, a.svc.trans b.svc, fun i e => b.revoked i (a.revoked i e)⟩
/-- Firmware's state with other fields than the journal and the fuses changed. -/
theorem FwState.Grows.same {f g : FwState}
    (e : (g.journal, g.oldest, g.rootSvn, g.svcSvn, g.revoked) = (f.journal, f.oldest, f.rootSvn, f.svcSvn, f.revoked) := by rfl) :
    f.Grows g := by
  simp only [Prod.mk.injEq] at e
  obtain ⟨j, o, r, v, k⟩ := e
  exact ⟨⟨0, [], by simp [j], o⟩, r.ge, v.ge, fun i => by rw [k]; exact id⟩
theorem FwState.append_grows (f : FwState) (e : JEntry) : f.Grows (f.append e) := by
  obtain ⟨root, svc, revoked⟩ := f.append_fuses e
  exact ⟨f.append_continues e, root.ge, svc.ge, fun i => by rw [revoked]; exact id⟩

/-- What an unlisted key reads as and every entry of a table have, every reading has. -/
theorem Cells.get_induct {α : Type} {P : α → Prop} {d : Nat → α} {k : Nat} (dflt : P (d k)) {m : List (Nat × α)} (all : ∀ e ∈ m, P e.2) :
    P (Cells.get d m k) := by
  induction m with
  | nil => exact dflt
  | cons e r ih =>
    rw [Cells.get]
    split
    · exact all e (List.mem_cons_self ..)
    · exact ih fun f mem => all f (List.mem_cons_of_mem _ mem)

/-- State `t` has the queue of state `s`, and what is canonical in `s` is so in `t`: HBM, the cached lines, the mailbox tables. The
firmware's state goes on. -/
structure State.Keeps (s t : State) : Prop where
  pending : t.pending = s.pending
  hbm : s.hbm.wf = true → t.hbm.wf = true
  caches : s.CachesOk → t.CachesOk
  fw : s.fw.Grows t.fw
  mailboxes : s.MailboxesCanonical → t.MailboxesCanonical

theorem State.Keeps.refl {s : State} : s.Keeps s := ⟨rfl, id, id, .same, id⟩
theorem State.Keeps.trans {s t u : State} (h : s.Keeps t) (g : t.Keeps u) : s.Keeps u :=
  ⟨g.pending.trans h.pending, fun w => g.hbm (h.hbm w), fun w => g.caches (h.caches w), h.fw.trans g.fw,
    fun w => g.mailboxes (h.mailboxes w)⟩

/-- What `State.Keeps` speaks of. -/
def State.kept (s : State) : List Instr × Mem × List (Nat × Shelf) × FwState × List (Nat × FnState) :=
  (s.pending, s.hbm, s.shelves, s.fw, s.fns)

theorem State.CachesOk.of_shelves {s t : State} (ok : s.CachesOk) (e : t.shelves = s.shelves) : t.CachesOk := fun k l mem =>
  ok k l (by rwa [State.shelf, e] at mem)
theorem State.MailboxesCanonical.of_fns {s t : State} (ok : s.MailboxesCanonical) (e : t.fns = s.fns) : t.MailboxesCanonical := by
  rwa [State.MailboxesCanonical, e]

/-- A function's table of slots in a canonical state. -/
theorem State.MailboxesCanonical.slots {s : State} (ok : s.MailboxesCanonical) (f : Fn) :
    Cells.wf (fun _ => ({} : Slot)) (s.fn f).slots = true :=
  Cells.get_induct (P := fun x : FnState => Cells.wf (fun _ => ({} : Slot)) x.slots = true) (by unfold fnReset; split <;> rfl) ok.2
/-- A function whose slots stay as they were, or take one change. -/
theorem State.MailboxesCanonical.setFn {s : State} (ok : s.MailboxesCanonical) (f : Fn) {x : FnState}
    (slots : Cells.wf (fun _ => ({} : Slot)) x.slots = true) : (s.setFn f x).MailboxesCanonical :=
  ⟨Cells.wf_put _ _ _ ok.1, fun e mem => (Cells.mem_put mem).elim (fun new => by rw [new]; exact slots) (ok.2 e)⟩

namespace State.Keeps

variable {a s t u : State}

/-! ## Ways to keep -/

/-- A change of anything else. -/
theorem same (h : a.Keeps s) (e : t.kept = s.kept := by rfl) : a.Keeps t := by
  simp only [State.kept, Prod.mk.injEq] at e
  obtain ⟨q, m, k, f, n⟩ := e
  exact h.trans ⟨q, by rw [m]; exact id, fun ok => ok.of_shelves k, by rw [f]; exact .same, fun ok => ok.of_fns n⟩
/-- A change of firmware's state. -/
theorem ofFw (h : a.Keeps s) (g : s.fw.Grows t.fw)
    (e : (t.pending, t.hbm, t.shelves, t.fns) = (s.pending, s.hbm, s.shelves, s.fns) := by rfl) : a.Keeps t := by
  simp only [Prod.mk.injEq] at e
  obtain ⟨q, m, k, n⟩ := e
  exact h.trans ⟨q, by rw [m]; exact id, fun ok => ok.of_shelves k, g, fun ok => ok.of_fns n⟩
/-- A change of the functions and of what the module sends. -/
theorem ofFns (h : a.Keeps s) (g : s.MailboxesCanonical → t.MailboxesCanonical)
    (e : (t.pending, t.hbm, t.shelves, t.fw) = (s.pending, s.hbm, s.shelves, s.fw) := by rfl) : a.Keeps t := by
  simp only [Prod.mk.injEq] at e
  obtain ⟨q, m, k, f⟩ := e
  exact h.trans ⟨q, by rw [m]; exact id, fun ok => ok.of_shelves k, by rw [f]; exact .same, g⟩
/-- A change of memory. -/
theorem ofMem (h : a.Keeps s) (only : s.MemOnly t) (wf : s.hbm.wf = true → t.hbm.wf = true) (ok : s.CachesOk → t.CachesOk) :
    a.Keeps t := by
  obtain ⟨m, k, rfl⟩ := only
  exact h.trans ⟨rfl, wf, ok, .same, fun c => c.of_fns rfl⟩

theorem ite {c : Prop} [Decidable c] (h : a.Keeps t) (g : a.Keeps u) : a.Keeps (if c then t else u) := by split <;> assumption
/-- A change that is made or not. -/
theorem when {c : Prop} [Decidable c] (h : a.Keeps s) (g : a.Keeps s → a.Keeps t) : a.Keeps (if c then t else s) := .ite (g h) h
theorem whenNot {c : Prop} [Decidable c] (h : a.Keeps s) (g : a.Keeps s → a.Keeps t) : a.Keeps (if c then s else t) := .ite h (g h)
/-- A loop whose every turn keeps. -/
theorem foldl {β : Type} {f : State → β → State} {l : List β} (h : a.Keeps s) (turn : ∀ {t b}, a.Keeps t → a.Keeps (f t b)) :
    a.Keeps (l.foldl f s) := by
  induction l generalizing s with
  | nil => exact h
  | cons b r ih => exact ih (turn h)
/-- A loop that carries more than the state. -/
theorem foldlOn {σ β : Type} (π : σ → State) {f : σ → β → σ} {l : List β} {x : σ} (h : a.Keeps (π x))
    (turn : ∀ {y b}, a.Keeps (π y) → a.Keeps (π (f y b))) : a.Keeps (π (l.foldl f x)) := by
  induction l generalizing x with
  | nil => exact h
  | cons b r ih => exact ih (turn h)

/-! ## Units -/

section Units
variable {c p k g n : Nat} {f : Fn}
theorem setCore {x : Core} (h : a.Keeps s) : a.Keeps (s.setCore c x) := h.same
theorem updCore {x : Core → Core} (h : a.Keeps s) : a.Keeps (s.updCore c x) := h.same
theorem updSeq {x : Seq → Seq} (h : a.Keeps s) : a.Keeps (s.updSeq c x) := h.same
theorem setPart {x : Partition} (h : a.Keeps s) : a.Keeps (s.setPart p x) := h.same
theorem updPart {x : Partition → Partition} (h : a.Keeps s) : a.Keeps (s.updPart p x) := h.same
theorem updJob {x : JobState → JobState} (h : a.Keeps s) : a.Keeps (s.updJob p x) := h.same
theorem updRcv {x : RecState → RecState} (h : a.Keeps s) : a.Keeps (s.updRcv p x) := h.same
theorem setPort {x : Port} (h : a.Keeps s) : a.Keeps (s.setPort p x) := h.same
theorem updPort {x : Port → Port} (h : a.Keeps s) : a.Keeps (s.updPort p x) := h.same
theorem setChan {x : Channel} (h : a.Keeps s) : a.Keeps (s.setChan k x) := h.same
theorem updChan {x : Channel → Channel} (h : a.Keeps s) : a.Keeps (s.updChan k x) := h.same
theorem setPair {x : Pair} (h : a.Keeps s) : a.Keeps (s.setPair k x) := h.same
theorem updPair {x : Pair → Pair} (h : a.Keeps s) : a.Keeps (s.updPair k x) := h.same
theorem setGrp {x : GroupState} (h : a.Keeps s) : a.Keeps (s.setGrp p g x) := h.same
theorem tick (h : a.Keeps s) : a.Keeps s.tick := h.same
theorem send {m : Msg} (h : a.Keeps s) : a.Keeps (s.send m) := h.same
theorem answer (h : a.Keeps s) : a.Keeps s.answer := h.same
theorem noteField {m i j : Nat} (h : a.Keeps s) : a.Keeps (s.noteField i j m) := h.same

theorem updLines {x : Shelf → Shelf} (h : a.Keeps s) (e : ∀ y : Shelf, (∀ l ∈ y.cache, l.Whole) → ∀ l ∈ (x y).cache, l.Whole) :
    a.Keeps (s.updShelf k x) :=
  h.ofMem (s.updShelf_memOnly k x) id (fun ok => ok.updShelf (e _ (ok k)))
theorem updShelf {x : Shelf → Shelf} (h : a.Keeps s) (e : ∀ y, (x y).cache = y.cache := by exact fun _ => rfl) :
    a.Keeps (s.updShelf k x) := h.updLines fun y => by rw [e]; exact id
theorem noteShelf {m i : Nat} (h : a.Keeps s) : a.Keeps (s.noteShelf k p m i) := h.updShelf

end Units

/-! ## Functions, slots and events (R410, R413, R419) -/

section Functions
variable {f : Fn} {n v d st p : Nat} {r : List Byte} {x : FnState} {q : Slot} {e : Event}

theorem setFn (h : a.Keeps s) (slots : x.slots = (s.fn f).slots := by rfl) : a.Keeps (s.setFn f x) :=
  h.ofFns (fun ok => ok.setFn f (by rw [slots]; exact ok.slots f))
theorem setSlot (h : a.Keeps s) : a.Keeps (s.setSlot f n q) := h.ofFns (fun ok => ok.setFn f (Cells.wf_put _ _ _ (ok.slots f)))
theorem irq (h : a.Keeps s) : a.Keeps (s.irq f v) := .ite h.setFn h.same
theorem eventTo (h : a.Keeps s) : a.Keeps (s.eventTo r f) := .ite h.setFn h.setFn.irq
theorem event (h : a.Keeps s) : a.Keeps (s.event e) := h.foldl eventTo
theorem linkEvent (h : a.Keeps s) : a.Keeps (s.linkEvent st p) := h.event
theorem complete (h : a.Keeps s) : a.Keeps (s.complete f n st d r) := .ite h.setSlot h.setSlot.irq
theorem completeIf {post : Nat} (h : a.Keeps s) : a.Keeps (s.completeIf f n post st d r) := h.when complete
theorem toHost (h : a.Keeps s) : a.Keeps (s.toHost f n r) := h.same
end Functions

/-! ## The journal (R443 to R445) -/

section Journal
variable {f : Fn} {n st : Nat} {p : Option Nat} {old new : List Byte} {e : JEntry} {q : Slot}

theorem journal (h : a.Keeps s) : a.Keeps (s.journal e) := h.ofFw ((s.fw.append_grows _).trans .same)
theorem sealJournal (h : a.Keeps s) : a.Keeps s.seal := h.ofFw ((s.fw.append_grows _).trans .same)
theorem jCmd (h : a.Keeps s) : a.Keeps (s.jCmd f n st p old new) := h.journal
theorem jEvent (h : a.Keeps s) : a.Keeps (s.jEvent st n p new) := h.journal
theorem jDiscard {bar off : Nat} (h : a.Keeps s) : a.Keeps (s.jDiscard f bar off n) := h.journal
theorem jDo (h : a.Keeps s) : a.Keeps (s.jDo f q) := h.jCmd
end Journal

/-! ## Faults (R213, R219, R449, R450) -/

section Faults
variable {p c st d b w n : Nat} {u : UnitId}

theorem report (h : a.Keeps s) : a.Keeps (s.report p st d b u) := h.updJob
theorem stopCore (h : a.Keeps s) : a.Keeps (s.stopCore c d w) := h.updSeq
theorem coreFault (h : a.Keeps s) : a.Keeps (s.coreFault p c d st w) := h.stopCore.report
theorem schedFault (h : a.Keeps s) : a.Keeps (s.schedFault p c d b u) := h.updSeq.report
theorem fence (h : a.Keeps s) : a.Keeps (s.fence p n) := h.updRcv
theorem fenceReport {xs : List Nat} (h : a.Keeps s) : a.Keeps (s.fenceReport p b xs) := by
  rw [State.fenceReport_frame]
  exact h.same
theorem addFlags {f : Fl} (h : a.Keeps s) : a.Keeps (s.addFlags p c f) := h.updCore.updJob
theorem addRedFlags {f : Fl} (h : a.Keeps s) : a.Keeps (s.addRedFlags p f) := h.updJob
end Faults

/-! ## Memory (R252 to R256, R464) -/

section Memory
variable {p cls x n c i : Nat} {lift : Bool} {b : Byte} {bs : List Byte} {xs : List Nat} {es : List (Nat × Byte)}

theorem putHb (h : a.Keeps s) : a.Keeps (s.putHb x b) := h.ofMem (s.putHb_memOnly x b) (s.putHb_wf x b) (fun ok => ok.putHb x b)
theorem writeBack {l : CacheLine} (h : a.Keeps s) : a.Keeps (s.writeBack x l) :=
  h.ofMem (s.writeBack_memOnly x l) (s.writeBack_wf x l) (fun ok => ok.of_shelves rfl)
theorem evict {k l : Nat} (h : a.Keeps s) : a.Keeps (s.evict k l) :=
  h.ofMem (s.evict_spec k l).1 (s.evict_spec k l).2 (fun ok => ok.evict k l)
theorem haveLine (h : a.Keeps s) : a.Keeps (s.haveLine p cls x) :=
  h.ofMem (s.haveLine_spec p cls x).1 (s.haveLine_spec p cls x).2 (fun ok => (s.haveLine_hb ok p cls x).1)
theorem useByte (h : a.Keeps s) : a.Keeps (s.useByte p cls x) :=
  h.ofMem (s.useByte_spec p cls x).1 (s.useByte_spec p cls x).2 (fun ok => (s.useByte_hb ok p cls x).1)
theorem loadAt (h : a.Keeps s) : a.Keeps (s.loadAt p cls xs) :=
  h.ofMem (s.loadAt_spec p cls xs).1 (s.loadAt_spec p cls xs).2 (fun ok => (s.loadAt_hb p cls xs ok).1)
theorem storeByte (h : a.Keeps s) : a.Keeps (s.storeByte p cls x b) :=
  h.ofMem (s.storeByte_spec p cls x b).1 (s.storeByte_spec p cls x b).2 (fun ok => ok.storeByte p cls x b)
theorem calve (h : a.Keeps s) : a.Keeps (s.calve p x) := by
  unfold State.calve
  split
  · exact h.when fun h => .ite h.updRcv h.updRcv.event
  · exact h
theorem storeBytes (h : a.Keeps s) : a.Keeps (s.storeBytes p cls lift es) := by
  induction es generalizing s with
  | nil => exact h
  | cons e r ih =>
    rw [State.storeBytes]
    apply ih
    split
    · exact h.whenNot fun h => storeByte (.ite h.calve h)
    · exact h
theorem storeAt (h : a.Keeps s) : a.Keeps (s.storeAt p cls lift x bs) := h.storeBytes.fenceReport
theorem storeX (h : a.Keeps s) : a.Keeps (s.storeX p x bs) := h.storeAt
theorem writeP (h : a.Keeps s) : a.Keeps (s.writeP p x bs) := h.storeAt
theorem writeX (h : a.Keeps s) : a.Keeps (s.writeX p x bs) := h.storeAt
theorem maxWord (h : a.Keeps s) : a.Keeps (s.maxWord p x n) := by
  unfold State.maxWord
  refine h.whenNot fun h => ?_
  dsimp only
  split
  · exact h.storeX.noteShelf
  · exact h.storeX
theorem monitor {sat carry dev : Nat} {ef : Bool} (h : a.Keeps s) : a.Keeps (s.monitor p n sat carry dev ef) := by
  unfold State.monitor
  split
  · exact h
  · exact h.whenNot fun h => h.maxWord.maxWord.maxWord.maxWord
end Memory

/-! ## Time and ports -/

theorem strike (h : a.Keeps s) : a.Keeps s.strike := by
  unfold State.strike
  split
  · exact h.tick
  · exact .ite h.tick h.tick.updCore
theorem edge (h : a.Keeps s) : a.Keeps s.edge := h.whenNot fun h => h.same.strike

section Ports
variable {p v b : Nat} {f pay : List Byte}
theorem emit (h : a.Keeps s) : a.Keeps (s.emit p f) := h.same
theorem sendSeq {ft : Nat} {x y : Bool} (h : a.Keeps s) : a.Keeps (s.sendSeq p ft v x y b pay) := h.setPort.emit
theorem sendHeartbeat (h : a.Keeps s) : a.Keeps (s.sendHeartbeat p) := h.setPort.emit
theorem sendMsg (h : a.Keeps s) : a.Keeps (s.sendMsg p v b pay) := h.updPort
theorem sendData (h : a.Keeps s) : a.Keeps (s.sendData p v) := by
  unfold State.sendData
  dsimp only
  split
  · exact h
  · exact h.setPort.emit
theorem drainVc {n : Nat} (h : a.Keeps s) : a.Keeps (s.drainVc p v n) := by
  induction n generalizing s with
  | zero => exact h
  | succ n ih => exact h.when fun h => ih h.sendData
end Ports
theorem timeRefresh (h : a.Keeps s) : a.Keeps s.timeRefresh := h.same
theorem unlock (h : a.Keeps s) : a.Keeps s.unlock := h.whenNot fun h => h.same.event
theorem offset {theta : Int} (h : a.Keeps s) : a.Keeps (s.offset theta) := timeRefresh (.ite h.same.unlock h.same)

end State.Keeps
end Sys2Proof.Machine
end

section
-- One proof after another: the stacks of proofs that wait for each other count against the check's memory limit.
set_option Elab.async false
namespace Sys2Proof.Machine

namespace State.Keeps

variable {a s t u : State}

/-! ## Commits (R477 to R480) -/

theorem loadCores {p : Nat} {im : Image} (h : a.Keeps s) : a.Keeps (s.loadCores p im) := h.foldl fun h => by
  split
  · exact h.updCore
  · exact h
theorem moveCores {old : State} {p : Nat} {im : Image} (h : a.Keeps s) : a.Keeps (s.moveCores old p im) := by
  have left : a.Keeps ((geoCores (old.part p).geo).foldl (fun s c => s.updCore c Core.vacate) s) := h.foldl updCore
  refine .ite (left.foldl fun h => ?_) left.loadCores
  split
  · exact h.updSeq
  · exact h
theorem reroute {g : Geometry} (h : a.Keeps s) : a.Keeps (s.reroute g) := h.when same
theorem applyPart {r : List Byte} (h : a.Keeps s) : a.Keeps (s.applyPart r) := by
  unfold State.applyPart
  dsimp only
  split
  · exact h.updPart.reroute.when moveCores
  · exact h.updPart.reroute

theorem applyWays {k p mask : Nat} (h : a.Keeps s) : a.Keeps (s.applyWays k p mask) := by
  unfold State.applyWays
  refine updLines (h.foldl writeBack) fun y whole => ?_
  rw [foldl_keeps Shelf.cache (fun x w => by dsimp only; split <;> rfl)]
  exact fun l mem => whole l (List.mem_of_mem_filter mem)
theorem recheckPorts (h : a.Keeps s) : a.Keeps s.recheckPorts := h.foldl fun h => by
  dsimp only
  split
  · exact h
  · exact h.whenNot fun h => .ite h.setPort.jEvent.linkEvent h.setPort
theorem applyStaged {v : Staged} (h : a.Keeps s) : a.Keeps (s.applyStaged v) := by
  cases v with
  | position v => exact h.same.recheckPorts.timeRefresh
  | timeCfg v => exact h.same.timeRefresh
  | portCtl p v => exact timeRefresh h.same
  | powerCap v => exact h.same
  | leakShutdown v => exact h.same
  | part r => exact h.applyPart
  | ways k r => exact h.applyWays
  | cyclic side => exact .ite h.same h.same
  | equaliser p k => exact h.same
  | timing k n => unfold State.applyStaged; exact h.updShelf
theorem closeCommit {last : List Byte} (h : a.Keeps s) : a.Keeps (s.closeCommit last) := by
  unfold State.closeCommit
  dsimp only
  split
  · exact completeIf (.ite (same (.when h journal)).same.event (same (.when h journal)))
  · exact .ite (same (.when h journal)).same.event (same (.when h journal))
theorem applyDue {due : Nat → Bool} {beat : Nat} (h : a.Keeps s) : a.Keeps (s.applyDue due beat) :=
  h.whenNot fun h => .ite (h.foldl applyStaged).same.closeCommit (h.foldl applyStaged).same
theorem boundary {p : Nat} {u : UnitId} (h : a.Keeps s) : a.Keeps (s.boundary p u) := by
  unfold State.boundary
  split
  · exact h
  · exact h.when applyDue
theorem releaseUnits (h : a.Keeps s) : a.Keeps s.releaseUnits := h.applyDue
theorem journalStaged {src func : Nat} {v : Staged} (h : a.Keeps s) : a.Keeps (s.journalStaged src func v) :=
  h.foldl fun h => h.whenNot journal
theorem accept {src func : Nat} {snap : List Staged} {cmd : Option (Fn × Nat × Nat)} {regrade : Bool} (h : a.Keeps s) :
    a.Keeps (s.accept src func snap cmd regrade) :=
  have applied : a.Keeps _ := (h.foldl journalStaged).foldl applyStaged
  .ite applied.same.closeCommit applied.same

end State.Keeps

/-! ## What an instruction answers (R114, R208, R219) -/

/-- What an issue comes to keeps what `State.Keeps` names. -/
def Issue.Keeps (s : State) : Issue → Prop
  | .done t | .spent t | .jump t | .skip t | .wait t | .fault _ t => s.Keeps t
  | .illegal => True

/-- A command of a unit that exists answers a next state, which keeps what `State.Keeps` names; any other is the fault. -/
structure State.Answers (s : State) (ok : Bool) (r : R) : Prop where
  next : ok = true → ∃ t, r = .next t ∧ s.Keeps t
  fault : ok = false → r = .fault .noSuchUnit

theorem State.Answers.always {s t : State} (h : s.Keeps t) : s.Answers true (.next t) := ⟨fun _ => ⟨t, rfl, h⟩, fun e => nomatch e⟩
theorem State.Answers.ite {s : State} {ok : Bool} {c : Prop} [Decidable c] {q r : R} (h : s.Answers ok q) (g : s.Answers ok r) :
    s.Answers ok (if c then q else r) := by split <;> assumption
/-- A command that checks its units first. -/
theorem State.Answers.check {s : State} {ok : Bool} {missing : Prop} [Decidable missing] {r : R} (units : ok = true ↔ ¬ missing)
    (h : s.Answers true r) : s.Answers ok (if missing then .fault .noSuchUnit else r) := by
  by_cases m : missing
  · rw [if_pos m]
    exact ⟨fun e => absurd m (units.1 e), fun _ => rfl⟩
  · rw [if_neg m]
    exact ⟨fun _ => h.next rfl, fun e => absurd (units.2 m) (by rw [e]; decide)⟩

theorem finish_keeps {s : State} {i : Issue} (h : i.Keeps s) (x : Ctx) : ∃ t, finish x s i = .next t ∧ s.Keeps t := by
  cases i with
  | done t => exact ⟨_, rfl, h.updCore⟩
  | spent t => exact ⟨_, rfl, h.updCore⟩
  | jump t => exact ⟨_, rfl, h.updCore⟩
  | skip t => exact ⟨_, rfl, h.updCore⟩
  | wait t => exact ⟨_, rfl, h⟩
  | illegal => exact ⟨_, rfl, State.Keeps.refl.coreFault⟩
  | fault st t => exact ⟨_, rfl, h.coreFault⟩

theorem issue_answers {row : Row} {c : Nat} {s : State} {body : Ctx → Issue} (h : ∀ x, (body x).Keeps s) :
    s.Answers (coreOk c) (issue row c s body) := by
  refine .check (by simp [coreOk, Config.cores]) ⟨fun _ => ?_, fun e => nomatch e⟩
  split
  · exact ⟨s, rfl, .refl⟩
  · split
    · exact finish_keeps (i := .illegal) trivial _
    · split
      · exact finish_keeps (h _) _
      · exact ⟨s, rfl, .refl⟩

theorem coreOk_iff (c : Nat) : coreOk c = true ↔ c < Config.cores := by simp [coreOk, Config.cores]

namespace State.Keeps
variable {a s t u : State}

/-- An issue whose effect is done, of extent 0 or not. -/
theorem ofExtent {empty : Bool} (h : a.Keeps s) : (Issue.ofExtent empty s).Keeps a := by
  unfold Issue.ofExtent
  split <;> exact h
theorem accessed {c : Nat} {reads writes : List (Bool × Nat × Nat)} (h : a.Keeps s) : a.Keeps (s.accessed c reads writes) :=
  h.whenNot setCore
theorem access {x : Ctx} {reads writes : List (Bool × Nat × Nat)} {body : State → Issue} (h : a.Keeps s)
    (runs : ∀ {t}, a.Keeps t → (body t).Keeps a) : (s.access x reads writes body).Keeps a := by
  obtain ⟨-, e⟩ | ⟨-, u, -, e⟩ | ⟨-, e⟩ := s.access_cases x reads writes body <;> rw [e]
  · exact h.setCore
  · exact h.setCore
  · exact runs h.accessed

end State.Keeps

section Rows
variable {c t n : Nat} {s : State}

/-! ## The matrix unit (chapter 03) -/

theorem mma_keeps (op : MmaOp) (x : Ctx) : (mma op s x).Keeps s := by
  unfold mma
  split
  · trivial
  · split
    · exact State.Keeps.refl.updCore
    · exact State.Keeps.refl.access fun h => h.updCore.ofExtent
theorem execTileFinish_answers : s.Answers (coreOk c && decide (t < 2)) (execTileFinish c t s) := by
  refine .check (by simp [coreOk_iff]) ?_
  have h : s.Keeps s := .refl
  dsimp only
  split
  · split
    · exact .always h
    · split
      · exact .always h
      · split
        · exact .always h
        · split
          · exact .always h.setCore
          · split
            · exact .always h.setCore.addFlags.monitor
            · exact .always h.setCore
  · exact .always h
theorem execFinishedTilePush_answers : s.Answers (coreOk c && decide (t < 2)) (execFinishedTilePush c t s) := by
  refine .check (by simp [coreOk_iff]) ?_
  have h : s.Keeps s := .refl
  dsimp only
  split
  · split
    · exact .always h
    · exact .always h.setCore.addFlags
  · exact .always h
theorem execMulticastDelivery_answers {row0 col0 rows cols src dst len : Nat} :
    s.Answers (coreOk c && rectOk row0 col0 rows cols) (execMulticastDelivery c row0 col0 rows cols src dst len s) := by
  refine .check (by simp [coreOk_iff, rectOk, and_assoc]) ?_
  have h : s.Keeps s := .refl
  split
  · exact .always h
  · dsimp only
    split
    · exact .always h.coreFault
    · split
      · exact .always h
      · split
        · exact .always h
        · split
          · exact .always h.updCore.coreFault
          · exact .always (h.updCore.foldl fun h => .ite h.schedFault (.ite h.schedFault h.updCore)).noteField
theorem execHeldWriteRelease_answers : s.Answers (coreOk c) (execHeldWriteRelease c s) :=
  .check (by simp [coreOk_iff]) (.always State.Keeps.refl.updCore)

/-! ## The reference path (R92 to R95) -/

theorem State.Keeps.logWitness {a : State} {p : Nat} {im : Image} {bs : List Byte} (h : a.Keeps s) : a.Keeps (s.logWitness p c im bs) :=
  .ite h.writeP.updJob h.updCore
theorem execWitnessReference_answers : s.Answers (coreOk c) (execWitnessReference c s) := by
  refine .check (by simp [coreOk_iff]) ?_
  have h : s.Keeps s := .refl
  split
  · rename_i w rest p _ _
    split
    · exact .always h
    · rename_i im _
      split
      · exact .always h
      · have logged : s.Keeps ((s.witnessMerged c p w rest).witnessLogged p c im w) := by
          unfold State.witnessLogged
          split
          · exact h.updCore.monitor.when State.Keeps.logWitness
          · exact h.updCore.monitor
        exact .ite (.always logged) (.always (logged.updCore.updJob.foldl State.Keeps.report))
  · exact .always h

end Rows
end Sys2Proof.Machine
end

section
-- One proof after another: the stacks of proofs that wait for each other count against the check's memory limit.
set_option Elab.async false
namespace Sys2Proof.Machine

theorem Issue.Keeps.ite {s : State} {c : Prop} [Decidable c] {i j : Issue} (h : i.Keeps s) (g : j.Keeps s) :
    (if c then i else j).Keeps s := by split <;> assumption

section Sequencer
variable {c n : Nat} {s : State}

/-! ## Beats, waits, flags and scalar control (chapter 10) -/

theorem execBeatWait_answers : s.Answers (coreOk c) (execBeatWait c s) := issue_answers fun _ =>
  have h : s.Keeps s := .refl
  .ite trivial (.ite h.stopCore.report (.ite h.updCore h.updSeq))
theorem execSignalWait_answers : s.Answers (coreOk c) (execSignalWait c s) := issue_answers fun x => by
  have h : s.Keeps s := .refl
  refine .ite trivial ?_
  split
  · trivial
  · split
    · exact .ite h.same h
    · exact .ite h h.same.updSeq
theorem execFlagSet_answers : s.Answers (coreOk c) (execFlagSet c s) := issue_answers fun _ => .ite trivial State.Keeps.refl.updCore
theorem execFlagClear_answers : s.Answers (coreOk c) (execFlagClear c s) := issue_answers fun _ => .ite trivial State.Keeps.refl.updCore
theorem execSetPass_answers : s.Answers (coreOk c) (execSetPass c s) := issue_answers fun _ =>
  .ite trivial (.ite State.Keeps.refl State.Keeps.refl.updSeq)
theorem execLoop_answers : s.Answers (coreOk c) (execLoop c s) := issue_answers fun _ =>
  .ite trivial (.ite State.Keeps.refl.updSeq State.Keeps.refl.updSeq)
theorem execVariant_answers : s.Answers (coreOk c) (execVariant c s) := issue_answers fun _ => .ite trivial State.Keeps.refl.updSeq
theorem execNop_answers : s.Answers (coreOk c) (execNop c s) := issue_answers fun _ => .ite trivial State.Keeps.refl
theorem execMoveMesh_answers : s.Answers (coreOk c) (execMoveMesh c s) := issue_answers fun x => by
  have h : s.Keeps s := .refl
  refine .ite trivial ?_
  split
  · exact .ite trivial (.ite h (h.access fun h => h.send.ofExtent))
  · trivial

/-! ## Messages (R213, R214) -/

/-- A message that a unit counts changes the partition's table of units only. -/
theorem State.countUnit_ok {t : State} {p b : Nat} {u : UnitId} (e : s.countUnit p u b = .ok t) : t = s ∨ ∃ f, t = s.updJob p f := by
  unfold State.countUnit at e
  split at e
  · exact .inl (Except.ok.inj e).symm
  · dsimp only at e
    split at e
    · cases e
    · exact .inr ⟨_, (Except.ok.inj e).symm⟩
theorem State.Keeps.countUnit {a t : State} {p b : Nat} {u : UnitId} (h : a.Keeps s) (e : s.countUnit p u b = .ok t) : a.Keeps t := by
  obtain rfl | ⟨f, rfl⟩ := State.countUnit_ok e
  · exact h
  · exact h.updJob
theorem State.Keeps.arriveCore {a : State} {m : Msg} (h : a.Keeps s) : a.Keeps (s.arriveCore m) := by
  unfold State.arriveCore
  dsimp only
  split
  · exact h
  · split
    · exact h.schedFault
    · exact h.updCore
theorem State.Keeps.arriveUnit {a : State} {m : Msg} (h : a.Keeps s) : a.Keeps (s.arriveUnit m) := by
  unfold State.arriveUnit
  split
  · rename_i e
    exact (h.countUnit e).boundary
  · exact h.report
theorem execMessageArrival_answers : s.Answers true (execMessageArrival n s) := by
  have h : s.Keeps s := .refl
  unfold execMessageArrival
  split
  · exact .always h
  · exact .ite (.always h) (.always (.ite h.same.arriveCore h.same.arriveUnit))
theorem execBeatStall_answers : s.Answers (coreOk c) (execBeatStall c s) := by
  refine .check (by simp [coreOk_iff]) ?_
  have h : s.Keeps s := .refl
  dsimp only
  split
  · exact .ite (.always h.updSeq.event) (.always h)
  · exact .always h
end Sequencer

namespace State.Keeps
variable {a s t u : State}

/-! ## Reducers (chapter 12) -/

section Reducers
variable {p x sh e i n beat : Nat} {g : Region} {bs : List Byte} {im : Image}
theorem storeRun (h : a.Keeps s) : a.Keeps (s.storeRun p x bs) := by
  induction bs generalizing s x with
  | nil => exact h
  | cons b r ih => exact ih h.calve.storeByte
theorem storeF (h : a.Keeps s) : a.Keeps (s.storeF p x bs) := by
  unfold State.storeF
  dsimp only
  split
  · exact h.storeRun
  · exact h.storeRun.report
theorem shelfFault (h : a.Keeps s) : a.Keeps (s.shelfFault p sh beat) := h.report
theorem glacier {v : Val} (h : a.Keeps s) : a.Keeps (s.glacier sh e g i v beat) :=
  .ite h.shelfFault (.ite h.noteShelf.noteShelf.storeF.storeF.addRedFlags.updShelf.answer h.noteShelf.storeF.updShelf)
theorem ordered {ord v : Nat} (h : a.Keeps s) : a.Keeps (s.ordered sh e g i ord v beat) :=
  .ite h.shelfFault (.ite h.storeF.storeF.storeF.storeF.addRedFlags.updShelf.answer h.storeF.storeF.updShelf)
theorem contribute {code : Nat} (h : a.Keeps s) : a.Keeps (s.contribute sh e g i code beat) := by
  have noted : a.Keeps (if 1 ≤ g.op && g.op ≤ 3 then s.noteShelf sh g.owner 0x260 1 else s) := h.when noteShelf
  unfold State.contribute
  dsimp only
  split
  · exact noted.storeF.answer
  · exact noted.storeF.answer
  · exact noted.storeF.answer
  · exact noted.glacier
  · exact noted
theorem updCounter {f : Counter → Counter} (h : a.Keeps s) : a.Keeps (s.updCounter p n f) := h.updPart
theorem putLedger {v : Nat} (h : a.Keeps s) : a.Keeps (s.putLedger p im n i v) := h.writeP.answer
theorem regionWrite {x : Ctx} {code : Nat} (h : a.Keeps s) (e : s.regionWrite x sh e g i code = some t) : a.Keeps t := by
  unfold State.regionWrite at e
  dsimp only at e
  split at e
  · cases e; exact h.contribute
  · split at e
    · cases e; exact h.fence
    · obtain ⟨-, e⟩ := Option.ite_none_left_eq_some.1 e
      cases e
      exact h.updCounter
end Reducers

/-! ## What modules tell each other (R289, R290, R304) -/

section Links
variable {p k ch beat dest : Nat} {b r : List Byte} {im : Image}
theorem dropAcks (h : a.Keeps s) : a.Keeps (s.dropAcks ch) := h.foldl fun h => h.whenNot updPort
theorem tell (h : a.Keeps s) : a.Keeps (s.tell p) := by
  unfold State.tell
  split
  · exact h.foldl sendMsg
  · exact h
theorem hearTell (h : a.Keeps s) : a.Keeps (s.hearTell k b) := h.whenNot fun h => h.foldl fun h => by
  split
  · exact h.whenNot updPort
  · exact h
theorem hearAll (h : a.Keeps s) : a.Keeps (s.hearAll p) := h.foldl fun h => h.foldl hearTell
theorem sendMember (h : a.Keeps s) : a.Keeps (s.sendMember p r im dest beat b) := by
  unfold State.sendMember
  split
  · exact h.sendMsg
  · split
    · exact h.sendMsg
    · exact h
end Links

/-! ## The KV pool (R178 to R187) -/

section Pool
variable {p n v x lo w at_ layer i : Nat} {im : Image} {e : List Byte} {els : List (Nat × Nat × Nat)}
theorem putRefs (h : a.Keeps s) : a.Keeps (s.putRefs p im n v) := by
  unfold State.putRefs
  dsimp only
  split
  · exact h.storeX.noteShelf
  · exact h.storeX
theorem dropRef (h : a.Keeps s) : a.Keeps (s.dropRef p im n) := .ite h.putRefs.updPart h.putRefs
theorem kvPage (h : a.Keeps s) : a.Keeps (s.kvPage p im e layer i).1 := by
  unfold State.kvPage
  dsimp only
  split
  · split
    · exact h
    · exact h.putRefs.storeX
  · split
    · exact h
    · split
      · exact h
      · exact h.storeX.storeX.putRefs.dropRef
theorem storeBits (h : a.Keeps s) : a.Keeps (s.storeBits p x lo w v) := h.storeX
theorem kvWriteRow {k : KvAddr} (h : a.Keeps s) : a.Keeps (s.kvWriteRow p im e k v els) := by
  have page := h.kvPage (p := p) (im := im) (e := e) (layer := k.layer) (i := v / Ent.tpp e)
  unfold State.kvWriteRow
  split
  · rename_i found
    rwa [found] at page
  · rename_i found
    rw [found] at page
    exact page.foldl fun h => h.when storeBits
end Pool

end State.Keeps

section Moves
variable {c p : Nat} {s : State}

theorem execKvPageWrite_answers {addr : Nat} {data : List Byte} : s.Answers (partOk p) (execKvPageWrite p addr data s) := by
  refine .check (by simp [partOk]) ?_
  have h : s.Keeps s := .refl
  split
  · exact .always h
  · exact .ite (.always h) (.ite (.always h) (.ite (.always h.report) (.ite (.always h.fence)
      (.ite (.always h.report) (.always h.kvWriteRow.answer)))))

/-! ## Moves (chapters 08 and 11) -/

namespace State.Keeps
variable {a t : State} {x : Ctx} {es : List (Nat × Nat)} {m : MoveDesc} {w : Nat} {els : List (Nat × Nat × Nat × Fl)}

theorem countShelves {ks : List Nat} (h : a.Keeps s) : a.Keeps (s.countShelves x ks).1 := by
  induction ks generalizing s with
  | nil => exact h
  | cons k r ih =>
    rw [State.countShelves]
    split
    · rename_i e
      exact ih (h.countUnit e).boundary
    · exact ih h
theorem counted {ks : List Nat} (h : a.Keeps s) (e : s.countShelves x ks = (t, es)) : a.Keeps t := by
  have c := h.countShelves (x := x) (ks := ks)
  rwa [e] at c
theorem shelfRefuse (h : a.Keeps s) : a.Keeps (s.shelfRefuse x es) := h.foldl report
theorem outElem {places : List Nat} {lo code : Nat} (h : a.Keeps s) (e : s.outElem x es w places lo code = some t) : a.Keeps t := by
  unfold State.outElem at e
  split at e
  · cases e; exact h
  · split at e
    · cases e; exact h
    · split at e
      · split at e
        · cases e; exact h
        · exact h.regionWrite e
      · cases e; exact h.storeBytes
theorem outAll {at_ : Nat → Nat → List Nat} (h : a.Keeps s) (e : s.outAll x es w at_ els = some t) : a.Keeps t := by
  induction els generalizing s with
  | nil => cases e; exact h
  | cons q r ih =>
    rw [State.outAll] at e
    split at e
    · rename_i one
      exact ih (h.outElem one) e
    · cases e
theorem kvOut {rows : Nat} (h : a.Keeps s) : (s.kvOut x m es w rows els).Keeps a :=
  have written : a.Keeps _ := h.foldl fun h => h.whenNot kvWriteRow
  .ite h (.ite h (.ite h.fence (.ite h (State.Keeps.ite written.updJob written))))
theorem written {rows : Nat} {i : Issue} (h : a.Keeps s) (e : s.kvOut x m es w rows els = i) : i.Keeps a := e ▸ h.kvOut
theorem noteGranules {xs : List Nat} (h : a.Keeps s) : a.Keeps (s.noteGranules w xs) := h.foldl fun h => by
  split
  · exact h.noteShelf
  · exact h
end State.Keeps

theorem execMoveIn_answers : s.Answers (coreOk c) (execMoveIn c s) := issue_answers fun x => by
  have h : s.Keeps s := .refl
  refine .ite trivial ?_
  split
  · trivial
  · refine .ite h (h.access fun h => ?_)
    split
    · exact .ite trivial h
    · split
      · rename_i e
        exact (h.counted e).loadAt.loadAt.updCore.addFlags.ofExtent
      · rename_i e
        exact (h.counted e).shelfRefuse
theorem execMoveOut_answers : s.Answers (coreOk c) (execMoveOut c s) := issue_answers fun x => by
  have h : s.Keeps s := .refl
  refine .ite trivial ?_
  split
  · trivial
  · refine .ite h (.ite h (h.access fun h => ?_))
    dsimp only
    split
    · exact .ite trivial h
    · split
      · split
        · rename_i e
          exact (h.countShelves.written e : s.Keeps _).shelfRefuse.addFlags.answer
        · rename_i e
          exact (h.countShelves.written e : s.Keeps _).shelfRefuse
        · exact h.countShelves.kvOut
      · split
        · rename_i out
          exact (h.countShelves.outAll out).fenceReport.shelfRefuse.addFlags.answer.ofExtent
        · exact h.stopCore.report
theorem execMoveSleet_answers : s.Answers (coreOk c) (execMoveSleet c s) := issue_answers fun x => by
  have h : s.Keeps s := .refl
  refine .ite trivial ?_
  split
  · refine .ite trivial (.ite h (h.access fun h => ?_))
    split
    · exact .ite trivial h
    · exact .ite h.countShelves.shelfRefuse h.countShelves.noteGranules.loadAt.updCore.updShelf.ofExtent
  · trivial
end Moves
end Sys2Proof.Machine
end

section
-- One proof after another: the stacks of proofs that wait for each other count against the check's memory limit.
set_option Elab.async false
namespace Sys2Proof.Machine

namespace State.Keeps
variable {a s t u : State}

/-! ## Groups and instances (chapter 14) -/

section Groups
variable {p g q ch beat x w i : Nat} {im : Image} {r bs : List Byte}

theorem updGrp {f : GroupState → GroupState} (h : a.Keeps s) : a.Keeps (s.updGrp p g f) := h.setGrp
theorem updInst {f : Instance → Instance} (h : a.Keeps s) : a.Keeps (s.updInst p g q f) := h.updGrp
theorem addCollFlags {f : Fl} (h : a.Keeps s) : a.Keeps (s.addCollFlags p ch f) := h.addRedFlags.updChan
theorem sendOne {m : Send} (h : a.Keeps s) : a.Keeps (s.sendOne p g im r q beat m) := by
  unfold State.sendOne
  split
  · exact h
  · exact .ite h.updInst.addCollFlags.updInst h.updInst.addCollFlags.sendMember
theorem signalAdd (h : a.Keeps s) : a.Keeps (s.signalAdd p x) := by
  unfold State.signalAdd
  split
  · exact h.storeF.noteShelf.answer
  · exact h
theorem landBytes (h : a.Keeps s) : a.Keeps (s.landBytes p g q x bs) := h.updJob.storeX
theorem landCodes {cs : List Nat} (h : a.Keeps s) : a.Keeps (s.landCodes p g q x w i cs) := h.landBytes
theorem landBlock {blk : Nat × Nat × Nat} {cs : List (Nat × Nat)} {f : Fl} (h : a.Keeps s) :
    a.Keeps (s.landBlock p g im r q blk cs f) :=
  .ite h.updInst.addCollFlags (.ite (h.updInst.addCollFlags.landCodes.when landBytes).answer.signalAdd.updInst
    (h.updInst.addCollFlags.landCodes.when landBytes).answer)
theorem landResults (h : a.Keeps s) : a.Keeps (s.landResults p g im r q) := by
  unfold State.landResults
  split
  · extract_lets closed s1
    have blocks : a.Keeps s1 := h.foldl fun h => h.whenNot fun h => by
      split
      · exact h.landBlock
      · exact h
    refine .ite blocks (blocks.foldl fun h => h.whenNot fun h => ?_)
    split
    · exact h
    · exact .ite h.updInst h.updInst.landBytes
  · exact h
theorem progressOnce (h : a.Keeps s) : a.Keeps (s.progressOnce p g im r q) := by
  unfold State.progressOnce
  split
  · exact h
  · exact (h.whenNot fun h => h.foldl sendOne).landResults
theorem writeRecords (h : a.Keeps s) : a.Keeps (s.writeRecords p g im r q) := by
  unfold State.writeRecords
  split
  · exact h.whenNot fun h => h.whenNot storeX
  · exact h
theorem advanceInst (h : a.Keeps s) : a.Keeps (s.advanceInst p g im r q) := by
  have done : a.Keeps (((List.range 9).foldl (fun s _ => s.progressOnce p g im r q) s).writeRecords p g im r q) :=
    (h.foldl progressOnce).writeRecords
  unfold State.advanceInst
  dsimp only
  split
  · exact done
  · exact done.whenNot fun h => (h.when signalAdd).updJob.updGrp.updChan
theorem progress (h : a.Keeps s) : a.Keeps (s.progress p g im r q) := h.foldl fun h => h.when advanceInst
theorem progressGroup (h : a.Keeps s) : a.Keeps (s.progressGroup p g) := by
  unfold State.progressGroup
  split
  · exact h
  · split
    · exact h
    · exact h.foldl progress
theorem holdOn (h : a.Keeps s) : a.Keeps (s.holdOn ch g) := h.updChan
theorem holdOff (h : a.Keeps s) : a.Keeps (s.holdOff ch g) := h.updChan
theorem handFault {x : Ctx} {cause : Nat} (h : a.Keeps s) : a.Keeps (s.handFault x g cause) := h.updSeq.report
theorem handOff {x : Ctx} {d : CollDesc} (h : a.Keeps s) : (s.handOff x g r q d).Keeps a :=
  have joined : a.Keeps _ := (h.updGrp.updChan.holdOff.progressGroup : a.Keeps _).when shelfFault
  .ite joined.handFault joined.ofExtent
theorem landStage {h' : CollHeader} (h : a.Keeps s) : a.Keeps (s.landStage p im r h' beat bs) := by
  have listed : a.Keeps (if ((s.grp p h'.group).inst h'.pseq).isSome then s
    else s.updGrp p h'.group (fun y => { y with insts := y.insts ++ [{ seq := h'.pseq }] })) := h.whenNot updGrp
  unfold State.landStage
  dsimp only
  split
  · exact listed
  · exact .ite listed.updInst.shelfFault (.ite listed.updInst.progress listed.updInst)
theorem orderSkew (h : a.Keeps s) : a.Keeps (s.orderSkew ch g beat) := h.dropAcks.updChan.report
theorem collArrive {port : Nat} {h' : CollHeader} (h : a.Keeps s) : a.Keeps (s.collArrive p im r port ch h' beat bs) := by
  have land {t : State} (h : a.Keeps t) (c : Prop) [Decidable c] (f : Channel → Channel) :
      a.Keeps (if c then t.landStage p im r h' beat bs else t.updChan ch f) := .ite h.landStage h.updChan
  refine .ite h.report (.ite h.orderSkew (.ite h.report (.ite h.report (.ite (land h _ _) ?_))))
  split
  · exact h.report
  · rename_i e
    exact land (h.countUnit e).boundary _ _
theorem collMessage {port : Nat} {h' : CollHeader} (h : a.Keeps s) : a.Keeps (s.collMessage port ch h' beat bs) := by
  unfold State.collMessage
  refine h.whenNot fun h => ?_
  split
  · exact h
  · split
    · exact .ite h.report (.ite h.holdOn.updChan h.collArrive)
    · exact h.report
theorem releaseHeld (h : a.Keeps s) : a.Keeps (s.releaseHeld ch) := h.whenNot fun h => (h.updChan.foldl collMessage).holdOff
end Groups
end State.Keeps

section Rows
variable {c p group n port vc op : Nat} {s : State}

theorem handoff_answers : s.Answers (coreOk c) (handoff op c s) := issue_answers fun x => by
  have h : s.Keeps s := .refl
  dsimp only
  split
  · trivial
  · split
    · trivial
    · split
      · refine .ite trivial (.ite h (.ite h.holdOn (.ite h (h.access fun h => ?_))))
        split
        · exact h.handFault
        · rename_i e
          exact .ite (h.countUnit e).handFault (h.countUnit e).handOff
      · trivial
theorem execInstanceStart_answers : s.Answers (partOk p && Sys2Proof.groupOk group) (execInstanceStart p group s) := by
  refine .check (by simp [partOk, Sys2Proof.groupOk]) ?_
  have h : s.Keeps s := .refl
  split
  · exact .always h
  · split
    · exact .ite (.always h) (.ite (.always h.holdOn)
        (.always (h.updGrp.updChan.foldl State.Keeps.landStage).holdOff.progress))
    · exact .always h
theorem execCollectiveMessage_answers {h : CollHeader} {beat : Nat} {payload : List Byte} :
    s.Answers (portOk port && chanOk vc) (execCollectiveMessage port vc h beat payload s) :=
  .check (by simp [portOk, chanOk]) (.always State.Keeps.refl.releaseHeld.collMessage)
theorem execResultDelivery_answers : s.Answers (partOk p && Sys2Proof.groupOk group) (execResultDelivery p group n s) := by
  refine .check (by simp [partOk, Sys2Proof.groupOk]) ?_
  have h : s.Keeps s := .refl
  split
  · exact .always h
  · split
    · split
      · exact .always h
      · exact .ite (.always h) (.ite (.always h.updChan)
          (.always (h.updCore.foldl State.Keeps.signalAdd).updInst.updChan.progress))
    · exact .always h
theorem execOrderSkewTimeout_answers : s.Answers (chanOk vc) (execOrderSkewTimeout vc s) := by
  refine .check (by simp [chanOk]) ?_
  have h : s.Keeps (s.releaseHeld vc) := State.Keeps.refl.releaseHeld
  dsimp only
  split
  · exact .always h
  · exact .ite (.always h.updChan) (.ite (.always h) (.always h.orderSkew))
end Rows
end Sys2Proof.Machine
end

section
-- One proof after another: the stacks of proofs that wait for each other count against the check's memory limit.
set_option Elab.async false
namespace Sys2Proof.Machine

section Rows
variable {c p n counter idx : Nat} {s : State}

/-! ## The vector engine and claims (chapters 06 and 10) -/

theorem chain_keeps (x : Ctx) : (chain s x).Keeps s := by
  have h : s.Keeps s := .refl
  unfold chain
  split
  · trivial
  · refine .ite h (h.access fun h => ?_)
    dsimp only
    split
    · exact h.setCore.addFlags.monitor.ofExtent
    · exact h.setCore.addFlags.ofExtent
theorem execClaim_answers : s.Answers (coreOk c) (execClaim c s) := issue_answers fun _ =>
  .ite trivial (.ite State.Keeps.refl State.Keeps.refl.updCore.updCounter)
theorem execClaimRequest_answers : s.Answers (partOk p && counterOk counter) (execClaimRequest p counter s) := by
  refine .check (by simp [partOk, counterOk]) ?_
  have h : s.Keeps s := .refl
  refine .ite (.always h) ?_
  split
  · dsimp only
    split
    · exact .always h.noteShelf.updCounter.putLedger.updCore
    · exact .always h.noteShelf.updCounter.updCore
  · exact .always h
theorem execClaimDone_answers : s.Answers (coreOk c) (execClaimDone c s) := issue_answers fun _ =>
  .ite trivial (.ite State.Keeps.refl (.ite State.Keeps.refl State.Keeps.refl.updCore.updCounter))
theorem State.Keeps.foldHeld {a : State} {hs : List HeldContrib} (h : a.Keeps s) : a.Keeps (s.foldHeld p hs) := h.foldl fun h => by
  split
  · exact h.whenNot contribute
  · exact h
theorem execClaimDoneAccept_answers : s.Answers (partOk p && counterOk counter) (execClaimDoneAccept p counter s) := by
  refine .check (by simp [partOk, counterOk]) ?_
  have h : s.Keeps s := .refl
  refine .ite (.always h) ?_
  split
  · exact .ite (.always h.noteShelf.updCounter.updCore.updCounter.foldHeld.putLedger) (.always h.noteShelf.updCounter.updCore.fence)
  · exact .always h
theorem State.Keeps.revoke {a : State} {im : Image} {core tok : Nat} (h : a.Keeps s) : a.Keeps (s.revoke p im n idx core tok) :=
  h.whenNot fun h => h.updCounter.putLedger
theorem execClaimLeaseExpiry_answers : s.Answers (partOk p && counterOk counter) (execClaimLeaseExpiry p counter idx s) := by
  refine .check (by simp [partOk, counterOk]) ?_
  have h : s.Keeps s := .refl
  split
  · exact .ite (.always h) (.always h.revoke)
  · exact .always h
theorem execFreezePoint_answers : s.Answers (coreOk c) (execFreezePoint c s) := issue_answers fun _ => by
  have h : s.Keeps s := .refl
  refine .ite trivial (.ite h ?_)
  split
  · exact h
  · exact .ite trivial (State.Keeps.ite (h.when State.Keeps.updRcv).updSeq.updPart (h.when State.Keeps.updRcv).updSeq)
end Rows

namespace State.Keeps
variable {a s t u : State}

/-! ## The sequence table (R178, R185) -/

section Slots
variable {p slot n m k : Nat} {im : Image} {e b : List Byte}
theorem putSeqEnt (h : a.Keeps s) : a.Keeps (s.putSeqEnt p im slot e) := h.storeX
theorem putHandle (h : a.Keeps s) : a.Keeps (s.putHandle p im n e) := h.storeX
theorem clearList (h : a.Keeps s) : a.Keeps (s.clearList p im n m) := h.storeX
theorem mapPages {src srcMax dst dstMax : Nat} (h : a.Keeps s) : a.Keeps (s.mapPages p im n m src srcMax dst dstMax) :=
  h.foldl fun h => h.whenNot fun h => h.storeX.putRefs
theorem dropList (h : a.Keeps s) : a.Keeps (s.dropList p im n m) := h.foldl fun h => h.whenNot dropRef

/-- A command that answers a status with its state keeps where each of its outcomes does. -/
theorem iteSnd {c : Prop} [Decidable c] {x y : Nat × State} (h : a.Keeps x.2) (g : a.Keeps y.2) : a.Keeps (if c then x else y).2 := by
  split <;> assumption
theorem openSlot {fmt len maxT layers units : Nat} {fromHandle : Bool} {share : Nat → State → State} (h : a.Keeps s)
    (shares : ∀ {t i}, a.Keeps t → a.Keeps (share i t)) :
    a.Keeps (s.openSlot p im slot fmt k len maxT layers units fromHandle share).2 := by
  unfold State.openSlot
  refine .iteSnd h ?_
  split
  · exact h
  · exact (shares h.clearList).putSeqEnt
theorem slotOpen (h : a.Keeps s) : a.Keeps (s.slotOpen p im b).2 := .iteSnd h (.iteSnd h (h.openSlot id))
theorem slotFork (h : a.Keeps s) : a.Keeps (s.slotFork p im b).2 :=
  .iteSnd h (.iteSnd (.iteSnd h (.iteSnd h (.iteSnd h (h.openSlot mapPages))))
    (.iteSnd h (.iteSnd h (.iteSnd h (.iteSnd h (h.openSlot mapPages))))))
theorem slotClose (h : a.Keeps s) : a.Keeps (s.slotClose p im b).2 := .iteSnd h h.dropList.putSeqEnt
theorem prefixPin (h : a.Keeps s) : a.Keeps (s.prefixPin p im b).2 := by
  refine .iteSnd h (.iteSnd h (.iteSnd h (.iteSnd h (.iteSnd h ?_))))
  split
  · exact h
  · dsimp only
    exact h.clearList.mapPages.putHandle.updPart
theorem prefixRelease (h : a.Keeps s) : a.Keeps (s.prefixRelease p im b).2 := by
  refine .iteSnd h ?_
  dsimp only
  exact h.dropList.putHandle.updPart
theorem seqCommand {cmd : Nat} (h : a.Keeps s) : a.Keeps (s.seqCommand p im cmd b).2 := by
  unfold State.seqCommand
  split
  · exact h.slotOpen
  · exact h.slotFork
  · exact h.slotClose
  · exact h.prefixPin
  · exact h.prefixRelease
end Slots

/-! ## Requests, buckets and beats (R117, R118, R215, R349, R422) -/

section Jobs
variable {p entry : Nat} {im : Image} {r : List Byte} {vars : List Nat}
theorem endRequest (h : a.Keeps s) : a.Keeps (s.endRequest p) := by
  unfold State.endRequest
  dsimp only
  split
  · exact h.updJob
  · refine .ite ?_ h
    split
    · exact h.when updJob
    · exact h
theorem endImage (h : a.Keeps s) : a.Keeps (s.endImage p) := h.when fun h => h.endRequest.updJob.releaseUnits
theorem applyPatch {e : List Byte} (h : a.Keeps s) : a.Keeps (s.applyPatch p entry vars e) := by
  unfold State.applyPatch
  dsimp only
  split
  · split
    · exact h.updCore
    · exact h
  · split
    · exact h
    · exact h.whenNot writeP
theorem applyPatches (h : a.Keeps s) : a.Keeps (s.applyPatches p im r vars) := h.foldl applyPatch
theorem weightSwitch (h : a.Keeps s) : a.Keeps (s.weightSwitch p im) := by
  unfold State.weightSwitch
  refine updPart (h.foldl fun h => ?_)
  split
  · exact h.updCore
  · exact h
theorem continueAt (h : a.Keeps s) : a.Keeps (s.continueAt p entry) := h.foldl updSeq
theorem takeRun {q : Request} {rest : List Request} (h : a.Keeps s) : a.Keeps (s.takeRun p im q rest) := by
  unfold State.takeRun
  dsimp only
  split
  · exact h.updJob.updRcv.updPart.completeIf
  · exact (h.updJob.updRcv.updPart.applyPatches.when weightSwitch).updJob.continueAt
theorem commitAppends {b : Nat} (h : a.Keeps s) : a.Keeps (s.commitAppends p im b) := h.updJob.foldl fun h => h.when storeX
theorem clearMonitors (h : a.Keeps s) : a.Keeps (s.clearMonitors p im) := h.writeP
theorem allocLayer {pass l : Nat} {req : Bool} {x : Alloc} (h : a.Keeps x.s) : a.Keeps (Machine.allocLayer p im pass req l x).s := by
  unfold Machine.allocLayer
  dsimp only
  split
  · exact h.storeX
  · split
    · exact h.storeX.storeX.storeX
    · split
      · exact h.storeX.storeX.storeX
      · exact h.storeX.storeX
end Jobs
end State.Keeps

section Rows
variable {c p : Nat} {s : State}

theorem execSelectPoint_answers : s.Answers (coreOk c) (execSelectPoint c s) := issue_answers fun _ =>
  .ite trivial (.ite State.Keeps.refl (State.Keeps.when State.Keeps.refl.updSeq State.Keeps.endRequest))
theorem execHalt_answers : s.Answers (coreOk c) (execHalt c s) := issue_answers fun _ =>
  .ite trivial (.ite State.Keeps.refl (State.Keeps.when State.Keeps.refl.updSeq State.Keeps.endRequest).endImage)
theorem execBucketSelection_answers : s.Answers (partOk p) (execBucketSelection p s) := by
  refine .check (by simp [partOk]) ?_
  have h : s.Keeps s := .refl
  dsimp only
  split
  · exact .ite (.always h) (.ite (.always (h.updRcv.seqCommand.when State.Keeps.jCmd).updJob.completeIf)
      (.ite (.always h.updPart) (.always h.takeRun)))
  · exact .always h
theorem execBeatCommit_answers : s.Answers (partOk p) (execBeatCommit p s) := by
  refine .check (by simp [partOk]) ?_
  have h : s.Keeps s := .refl
  split
  · exact .always h
  · exact .ite (.always h) (.always h.updJob.commitAppends.answer.endImage)
theorem execRunOutputCopy_answers {ok : Bool} : s.Answers (partOk p) (execRunOutputCopy p ok s) := by
  refine .check (by simp [partOk]) ?_
  have h : s.Keeps s := .refl
  dsimp only
  split
  · exact .always h
  · exact .ite (.always h) (.ite (.always h.updJob.completeIf) (.ite (.always h.updJob.completeIf)
      (.always (h.updJob.foldl fun h => h.loadAt.toHost).completeIf)))
theorem execWidenAllocate_answers {pass : Nat} {req : List Byte} : s.Answers (partOk p) (execWidenAllocate p pass req s) := by
  refine .check (by simp [partOk]) ?_
  have h : s.Keeps s := .refl
  split
  · exact .always h
  · exact .ite (.always h) (.always (State.Keeps.foldlOn Alloc.s h State.Keeps.allocLayer).updJob.clearMonitors.answer)
end Rows
end Sys2Proof.Machine
end

section
-- One proof after another: the stacks of proofs that wait for each other count against the check's memory limit.
set_option Elab.async false
namespace Sys2Proof.Machine

/-! ## Commands and the mailbox (R410 to R421, R456) -/

theorem slotOk_iff (f : Fn) (n : Nat) : slotOk f n = true ↔ fnOk f = true ∧ n < 32 := by simp [slotOk, Fn.ok, fnOk]

theorem commandIf_answers {is : Slot → Bool} {f : Fn} {n : Nat} {s : State} {body : Slot → State → State}
    (h : ∀ {q t}, s.Keeps t → s.Keeps (body q t)) : s.Answers (slotOk f n) (commandIf is f n s body) := by
  refine .check (by simp [slotOk_iff]) ?_
  have k : s.Keeps s := .refl
  split
  · exact .always k
  · dsimp only
    split
    · exact .always k.setSlot.complete
    · exact .ite (.always k.setSlot.complete) (.ite (.always k.setSlot.complete) (.always (h k.setSlot)))

theorem command_answers {code : Nat} {f : Fn} {n : Nat} {s : State} {body : Slot → State → State}
    (h : ∀ {q t}, s.Keeps t → s.Keeps (body q t)) : s.Answers (slotOk f n) (command code f n s body) := commandIf_answers h

namespace State.Keeps
variable {a s t u : State}

theorem take {f : Fn} {n : Nat} (h : a.Keeps s) : a.Keeps (s.take f n) := .ite h.setSlot.complete (.ite h.setSlot.complete h.setSlot)
theorem takeAll {n : Nat} (h : a.Keeps s) : a.Keeps (s.takeAll n) := by
  induction n generalizing s with
  | zero => exact h
  | succ n ih =>
    rw [State.takeAll]
    split
    · exact h
    · exact ih h.take

/-! ## Loads (chapter 15) -/

section Loads
variable {p port kind chunk crc n : Nat} {im : Image} {d b : List Byte}
theorem updWs {f : WeightState → WeightState} (h : a.Keeps s) : a.Keeps (s.updWs p f) := h.updPart
theorem updLoad {f : Load → Load} (h : a.Keeps s) : a.Keeps (s.updLoad p f) := h.updWs
theorem sendLoad (h : a.Keeps s) : a.Keeps (s.sendLoad p port im d kind chunk crc b) := h.sendMsg
theorem endLoad {status st : Nat} {down : Bool} (h : a.Keeps s) : a.Keeps (s.endLoad p status st down) := by
  unfold State.endLoad
  dsimp only
  split
  · split
    · exact completeIf (completeIf (when (updWs (h.when sendLoad)) updChan))
    · exact completeIf (when (updWs (h.when sendLoad)) updChan)
  · exact h
theorem forwardReady (h : a.Keeps s) : a.Keeps (s.forwardReady p im n) := by
  induction n generalizing s with
  | zero => exact h
  | succ n ih =>
    rw [State.forwardReady]
    split
    · exact h
    · split
      · exact h
      · exact ih h.sendLoad.updLoad
theorem loadSettle (h : a.Keeps s) : a.Keeps (s.loadSettle p) := by
  unfold State.loadSettle
  dsimp only
  split
  · exact when (updWs (h.when fun h => h.sendLoad.updLoad)) endLoad
  · exact h
theorem chunkIn {l : Load} (h : a.Keeps s) : a.Keeps (s.chunkIn p im l chunk crc b) :=
  .ite h.updLoad (.ite h.updWs.endLoad
    (((h.updLoad.when fun h => h.writeX.answer.updLoad.updWs).when updLoad).forwardReady.loadSettle))
theorem loadPiece {l : Load} {m : LoadHeader} (h : a.Keeps s) : a.Keeps (s.loadPiece p im l m b) :=
  h.whenNot fun h => .ite h.updLoad h.updLoad.chunkIn
theorem loadMsg {via : Option (Nat × Nat)} {m : LoadHeader} (h : a.Keeps s) : a.Keeps (s.loadMsg p via m b) := by
  unfold State.loadMsg
  refine .ite h.updWs ?_
  split
  · split
    · exact h.loadPiece
    · exact h.endLoad
    · exact h.updLoad.loadSettle
    · exact h
  · exact h
theorem takeHeld {w : WeightState} (h : a.Keeps s) : a.Keeps (s.takeHeld p w) := (h.foldl loadMsg).updWs
theorem loadPeerLost (h : a.Keeps s) : a.Keeps (s.loadPeerLost port) := h.foldl fun h => by
  split
  · exact h
  · exact .ite h.endLoad (h.when endLoad)
end Loads

/-! ## Codec pairs (chapter 17) -/

section Pairs
variable {k i p status frame cause n : Nat} {u : Picture}
theorem updSess {f : Session → Session} (h : a.Keeps s) : a.Keeps (s.updSess k i f) := h.updPair
theorem closeSession (h : a.Keeps s) : a.Keeps (s.closeSession k i status) := by
  unfold State.closeSession
  dsimp only
  refine h.whenNot fun h => ?_
  split
  · exact (h.foldl completeIf).updSess.updPair.completeIf
  · exact (h.foldl completeIf).updSess.updPair
theorem closeSessions (h : a.Keeps s) : a.Keeps (s.closeSessions p status) := h.foldl fun h => h.when closeSession
theorem revokePairs (h : a.Keeps s) : a.Keeps (s.revokePairs p) :=
  h.foldl fun h => h.when fun h => (h.foldl fun h => h.when closeSession).updPair.tick
theorem settleSession (h : a.Keeps s) : a.Keeps (s.settleSession k i) := h.when closeSession
theorem writeFrame (h : a.Keeps s) : a.Keeps (s.writeFrame k i u) := by
  unfold State.writeFrame
  dsimp only
  split
  · exact h
  · exact h.foldl fun h => h.foldl writeP
theorem dropParsed (h : a.Keeps s) : a.Keeps (s.dropParsed k i n) := by
  induction n generalizing s with
  | zero => exact h
  | succ n ih =>
    rw [State.dropParsed]
    split
    · exact h
    · exact h.when fun h => ih h.updSess.completeIf
theorem decodePicture {key nonref : Bool} (h : a.Keeps s) : a.Keeps (s.decodePicture k i cause key nonref frame n) := by
  unfold State.decodePicture
  dsimp only
  split
  · exact h
  · exact h.whenNot fun h => (State.Keeps.whenNot h.tick.updSess writeFrame).updPair.dropParsed
theorem encodePicture (h : a.Keeps s) : a.Keeps (s.encodePicture k i frame) := by
  unfold State.encodePicture
  dsimp only
  split
  · exact h
  · exact h.whenNot fun h => .ite h.updSess.completeIf (h.whenNot fun h => h.updSess.writeFrame.completeIf)
theorem abandon {damaged : Nat} {hit : Pair → Pair} (h : a.Keeps s) : a.Keeps (s.abandon k cause damaged hit) := by
  unfold State.abandon
  dsimp only
  split
  · exact h.whenNot fun h => h.updSess.writeFrame.updPair
  · exact h
theorem writePlanar {x : Session} (h : a.Keeps s) : a.Keeps (s.writePlanar x u n) := by
  unfold State.writePlanar
  dsimp only
  split
  · exact h
  · exact h.foldl fun h => h.foldl fun h => h.foldl writeP
theorem suspend (h : a.Keeps s) : a.Keeps (s.suspend k) := h.whenNot fun h => h.tick.writeP.answer.updSess.updPair
end Pairs
end State.Keeps

section Rows
variable {s : State} {f : Fn} {n p v pair session : Nat}

theorem execMailboxPost_answers {w0 w1 w2 w3 : Nat} {b : List Byte} :
    s.Answers (slotOk f n) (execMailboxPost f n w0 w1 w2 w3 b s) := by
  refine .check (by simp [slotOk_iff]) ?_
  have h : s.Keeps s := .refl
  exact .ite (.always h) (.ite (.always h.setFn) (.ite (.always h.setSlot) (.always (State.Keeps.when h.setSlot.setFn State.Keeps.take))))
theorem execMailboxScan_answers : s.Answers true (execMailboxScan s) :=
  .ite (.always .refl) (.always (State.Keeps.refl.takeAll.ofFw .same))
theorem execMsixUnmask_answers : s.Answers (f.ok && decide (v < 64)) (execMsixUnmask f v s) := by
  refine .check (by simp [Fn.ok, fnOk]) ?_
  exact .always (State.Keeps.when State.Keeps.refl.setFn State.Keeps.irq)
theorem execNopCommand_answers : s.Answers (slotOk f n) (execNopCommand f n s) := command_answers State.Keeps.complete
theorem execPermitSet_answers : s.Answers (slotOk f n) (execPermitSet f n s) := command_answers fun h => by
  extract_lets x new s0
  have noted : s.Keeps s0 := h.whenNot State.Keeps.jCmd
  exact noted.setFn.complete
theorem execHostLeaseExpiry_answers : s.Answers f.ok (execHostLeaseExpiry f s) :=
  .check (by simp [Fn.ok, fnOk]) (.ite (.always State.Keeps.refl.setFn) (.always .refl))

/-! ## Loads and switches -/

theorem execWeightLoad_answers : s.Answers (slotOk f n) (execWeightLoad f n s) := command_answers fun h => by
  dsimp only
  split
  · exact h.complete
  · split
    · exact .ite h.updLoad.loadSettle h.complete
    · split
      · exact h.complete
      · exact (State.Keeps.when h.updWs State.Keeps.updChan).jDo.takeHeld.loadSettle
theorem execHostChunkRead_answers {port chunk crc : Nat} {data : Option (List Byte)} :
    s.Answers (partOk p && pcieOk port) (execHostChunkRead p port chunk data crc s) := by
  refine .check (by simp [partOk, pcieOk]) ?_
  have h : s.Keeps s := .refl
  split
  · refine .ite (.always h) ?_
    split
    · exact .always h.endLoad
    · exact .ite (.always h.endLoad) (.always h.chunkIn)
  · exact .always h
theorem execLoadDataMessage_answers {m : LoadHeader} {b : List Byte} : s.Answers (partOk p) (execLoadDataMessage p m b s) :=
  .check (by simp [partOk]) (.always State.Keeps.refl.loadMsg)
theorem execLoadAbortMessage_answers {id : Nat} : s.Answers (partOk p) (execLoadAbortMessage p id s) :=
  .check (by simp [partOk]) (.always State.Keeps.refl.loadMsg)
theorem execLoadEndMessage_answers {id : Nat} : s.Answers (partOk p) (execLoadEndMessage p id s) :=
  .check (by simp [partOk]) (.always State.Keeps.refl.loadMsg)
theorem execLoadCompanionTimeout_answers : s.Answers (partOk p) (execLoadCompanionTimeout p s) := by
  refine .check (by simp [partOk]) ?_
  have h : s.Keeps s := .refl
  split
  · exact .ite (.always h.endLoad) (.always h)
  · exact .always h
theorem execLoadHoldTimeout_answers : s.Answers (partOk p) (execLoadHoldTimeout p s) := by
  refine .check (by simp [partOk]) ?_
  have h : s.Keeps s := .refl
  extract_lets w s1 s2
  have told : s.Keeps s2 := by
    show s.Keeps (match w.heldVia with | some (port, ch) => _ | none => s1)
    split
    · exact h.updWs.dropAcks.sendMsg
    · exact h.updWs
  refine .ite (.always h) ?_
  split
  · exact .always (told.when State.Keeps.sendLoad).endLoad
  · exact .always told
theorem execWeightSwitch_answers {l : Option (List Byte)} : s.Answers (slotOk f n) (execWeightSwitch f n l s) := commandIf_answers fun h => by
  dsimp only
  split
  · exact h.complete
  · split
    · exact h.complete
    · split
      · exact h.complete
      · exact h.jDo.updWs.complete
theorem execWeightSwitchCancel_answers : s.Answers (slotOk f n) (execWeightSwitchCancel f n s) := commandIf_answers fun h =>
  .ite h.jDo.updWs.complete h.complete

/-! ## Sessions and pictures -/

theorem execCodecOpen_answers : s.Answers (slotOk f n) (execCodecOpen f n s) := command_answers fun h => by
  dsimp only
  split
  · exact h.complete
  · split
    · exact h.complete
    · exact h.updSess.jDo.complete
theorem execCodecSubmit_answers : s.Answers (slotOk f n) (execCodecSubmit f n s) := command_answers fun h => by
  dsimp only
  split
  · exact h.complete
  · exact .ite h.complete (.ite h.complete (.ite h.complete (.ite h.complete h.updSess)))
theorem execCodecClose_answers : s.Answers (slotOk f n) (execCodecClose f n s) := command_answers fun h => by
  split
  · exact h.complete
  · exact .ite h.complete h.jDo.updSess.settleSession
theorem execCodecRelease_answers : s.Answers (slotOk f n) (execCodecRelease f n s) := command_answers fun h => by
  split
  · exact h.complete
  · exact .ite h.complete (h.whenNot State.Keeps.updSess).complete
theorem pairOk_iff (k : Nat) : Sys2Proof.pairOk k = true ↔ k < 12 := by simp [Sys2Proof.pairOk]
theorem execCodecPicture_answers {cause frame m : Nat} {key nonref : Bool} :
    s.Answers (Sys2Proof.pairOk pair && sessionOk session) (execCodecPicture pair session cause key nonref frame m s) := by
  refine .check (by simp [pairOk_iff, sessionOk]) ?_
  have h : s.Keeps s := .refl
  exact .ite (.always h) (.ite (.always (h.updPair.updSess.foldl State.Keeps.completeIf).settleSession)
    (.ite (.always h.updPair.encodePicture.settleSession)
      (.ite (.always h.updPair.dropParsed.settleSession) (.always h.updPair.dropParsed.decodePicture.settleSession))))
theorem execCodecBlockBudget_answers {m : Nat} : s.Answers (Sys2Proof.pairOk pair) (execCodecBlockBudget pair m s) :=
  .check (by simp [pairOk_iff]) (.ite (.always State.Keeps.refl.abandon) (.always .refl))
theorem execCodecWatchdog_answers {m : Nat} : s.Answers (Sys2Proof.pairOk pair) (execCodecWatchdog pair m s) :=
  .check (by simp [pairOk_iff]) (.ite (.always State.Keeps.refl.abandon) (.always .refl))
theorem execEncodeRingWrite_answers : s.Answers (Sys2Proof.pairOk pair) (execEncodeRingWrite pair s) := by
  refine .check (by simp [pairOk_iff]) ?_
  have h : s.Keeps s := .refl
  dsimp only
  split
  · exact .ite (.always h) (.ite (.always h.updSess) (.ite (.always h) (.always (h.foldl State.Keeps.writeP).writeP.answer.updSess)))
  · exact .always h
theorem execPictureOutput_answers : s.Answers (Sys2Proof.pairOk pair) (execPictureOutput pair s) := by
  refine .check (by simp [pairOk_iff]) ?_
  have h : s.Keeps s := .refl
  split
  · exact .always h
  · exact .always (h.when State.Keeps.writePlanar).writeP.answer.signalAdd.updSess.updPair.settleSession
theorem execCodecResume_answers : s.Answers (Sys2Proof.pairOk pair && sessionOk session) (execCodecResume pair session s) :=
  .check (by simp [pairOk_iff, sessionOk]) (.ite (.always State.Keeps.refl.updSess.updPair.tick) (.always .refl))
theorem execCodecPairFault_answers : s.Answers (Sys2Proof.pairOk pair) (execCodecPairFault pair s) :=
  .check (by simp [pairOk_iff]) (.ite (.always .refl) (.always State.Keeps.refl.closeSession.event.updJob.updPair))
end Rows
end Sys2Proof.Machine
end

section
-- One proof after another: the stacks of proofs that wait for each other count against the check's memory limit.
set_option Elab.async false
namespace Sys2Proof.Machine
namespace State.Keeps
variable {a s t u : State}

/-! ## Counters (chapter 22) -/

section Counters
variable {b : Blk} {k v p i m n : Nat}
theorem setCtl (h : a.Keeps s) : a.Keeps (s.setCtl b k v) := by
  unfold State.setCtl
  split
  · exact h.updCore
  · exact h.same
  · exact h.updShelf
theorem setPmc (h : a.Keeps s) : a.Keeps (s.setPmc b k v) := by
  unfold State.setPmc
  split
  · exact h.updCore
  · exact h.same
  · exact h.updShelf
theorem countOne {add : Nat} (h : a.Keeps s) : a.Keeps (s.countOne b k add).1 := .ite h.setPmc.setCtl h.setPmc
theorem clearTally (h : a.Keeps s) : a.Keeps (s.clearTally b) := by
  unfold State.clearTally
  split
  · exact (h.foldl noteField).updCore
  · exact h.same
  · exact h.updShelf
theorem countBlock (h : a.Keeps s) : a.Keeps (s.countBlock b) := by
  refine h.whenNot fun h => same (s := State.clearTally _ b) (clearTally (h.foldlOn Prod.fst fun h => ?_))
  dsimp only
  split
  · exact h.countOne
  · split
    · exact h.countOne
    · exact h
theorem count (h : a.Keeps s) : a.Keeps (s.count b) := by
  cases b with
  | core c => exact h.countBlock
  | field f => exact (h.foldl countBlock).countBlock
  | shelf j => exact h.countBlock
theorem countAll (h : a.Keeps s) : a.Keeps s.countAll := ((h.foldl countBlock).foldl countBlock).foldl countBlock
end Counters

/-! ## Stopping, resetting and retiring a scope (R249, R450, R455, R468 to R472) -/

section Scope
variable {c p k g st : Nat} {hit : Nat → Bool} {im : Image}
theorem clearStamps (h : a.Keeps s) : a.Keeps (s.clearStamps hit) := h.foldl setFn
theorem resetCore (h : a.Keeps s) : a.Keeps (s.resetCore c) := by
  unfold State.resetCore
  extract_lets s0 s1 staged s2
  have lost : a.Keeps s1 := h.count.tick.tick.tick.tick.setCore
  clear_value s1
  exact (lost.same (t := s2)).clearStamps
theorem stopCores (h : a.Keeps s) : a.Keeps (s.stopCores p) := (updJob (h.foldl updSeq)).releaseUnits
theorem zeroRecords (h : a.Keeps s) : a.Keeps (s.zeroRecords p k) := by
  refine foldl (h.foldl fun h => ?_) fun h => ?_
  · split
    · exact h.storeF
    · exact h
  · split
    · exact h.storeF
    · exact h
theorem zeroBanks (h : a.Keeps s) : a.Keeps (s.zeroBanks p g) := by
  unfold State.zeroBanks
  split
  · exact h
  · split
    · exact h
    · split
      · exact h
      · exact h.whenNot storeX
theorem clearPart (h : a.Keeps s) : a.Keeps (s.clearPart p) := by
  have zeroed : a.Keeps ((List.range 8).foldl (fun s k => s.zeroRecords p k) s) := h.foldl zeroRecords
  unfold State.clearPart
  extract_lets chans s0 s1 s2 s3
  have shelves : a.Keeps s1 := zeroed.foldl updShelf
  have groups : a.Keeps s3 := foldl (shelves.foldl updChan) fun h => h.whenNot fun h => h.zeroBanks.updGrp
  clear_value s3
  exact groups.same
theorem revokeClaims (h : a.Keeps s) : a.Keeps (s.revokeClaims p) := by
  unfold State.revokeClaims
  split
  · exact h
  · exact h.foldl fun h => updCounter (h.foldl revoke)
theorem revokeCore (h : a.Keeps s) : a.Keeps (s.revokeCore p c) := by
  unfold State.revokeCore
  split
  · exact h
  · exact h.foldl fun h => updCounter (h.foldl fun h => h.when revoke)
theorem revokeChans (h : a.Keeps s) : a.Keeps (s.revokeChans p) := by
  unfold State.revokeChans
  split
  · exact h
  · exact tell (h.foldl updPort)
theorem revokeLocks (h : a.Keeps s) : a.Keeps (s.revokeLocks p) := h.updRcv
theorem loosePools (h : a.Keeps s) : a.Keeps (s.loosePools p g) := h.foldl fun h => h.when updPart
theorem endPending (h : a.Keeps s) : a.Keeps (s.endPending p st) := by
  unfold State.endPending
  extract_lets j qs s1 s2 s3 s4
  have ended : a.Keeps s2 := (h.foldl completeIf).updJob
  have frozen : a.Keeps s3 := by
    show a.Keeps (match (s2.part p).fz.cmd with | some q => _ | none => _)
    split
    · exact ended.completeIf
    · exact ended
  exact frozen.updPart.endLoad
theorem retireImage (h : a.Keeps s) : a.Keeps (s.retireImage p st) := by
  unfold State.retireImage
  split
  · exact h
  · extract_lets s1 s2 s3 s4 s5
    have cleared : a.Keeps s4 := ((foldl h.endPending.closeSessions.clearPart updCore).foldl updChan).foldl setGrp
    have unpinned : a.Keeps s5 := cleared.foldl fun h => h.updLines fun _ whole l mem => by
      obtain ⟨m, old, rfl⟩ := List.mem_map.1 mem
      split <;> exact whole m old
    exact unpinned.updPart.releaseUnits
theorem removePart (h : a.Keeps s) : a.Keeps (s.removePart p st) := (h.retireImage.closeSessions.foldl applyWays).reroute.setPart
end Scope

/-! ## Freeze, thaw and recovery (R366 to R374, R450 to R466) -/

section Freeze
variable {p c k n copy status detail beat src fp fpId at_ : Nat} {im : Image} {selected isCkpt : Bool} {q : RecPoint}
theorem saveCore (h : a.Keeps s) : a.Keeps (s.saveCore p im copy selected k c) := h.writeX
theorem thawCore (h : a.Keeps s) : a.Keeps (s.thawCore p im copy selected k c) := h.tick.tick.setCore
theorem restorePatched {ws : List (Nat × List Byte)} (h : a.Keeps s) : a.Keeps (s.restorePatched p ws) := h.foldl writeP
theorem thawFrom (h : a.Keeps s) : a.Keeps (s.thawFrom p im copy) := by
  unfold State.thawFrom
  extract_lets hd sel s0 s1 left s2
  have thawed : a.Keeps s1 := foldl (h.restorePatched (ws := _)) thawCore
  exact thawed.updJob.updPart.updRcv
theorem ckptPlan (h : a.Keeps s) : a.Keeps (s.ckptPlan p im n) := by
  unfold State.ckptPlan
  exact h.updRcv
theorem commitTo (h : a.Keeps s) : a.Keeps (s.commitTo p im beat n) := by
  induction n generalizing s with
  | zero => exact h
  | succ n ih => exact h.when fun h => ih h.updJob.commitAppends
theorem save (h : a.Keeps s) : a.Keeps (s.save p im fp fpId selected isCkpt) :=
  (foldl (writeX (h.writeX.foldl saveCore)) updSeq).updPart.releaseUnits
theorem ckptDone (h : a.Keeps s) : a.Keeps (s.ckptDone p im) := h.updRcv.ckptPlan
theorem freezeDone {ended : Nat} (h : a.Keeps s) : a.Keeps (s.freezeDone p status ended) := by
  unfold State.freezeDone
  dsimp only
  split
  · exact h.completeIf.updPart
  · exact h.updPart
theorem restoreCalf {qs : List RecPoint} (h : a.Keeps s) : a.Keeps (s.restoreCalf p qs) := h.foldl fun h => h.foldl writeX
theorem unland {ls : List Landed} (h : a.Keeps s) : a.Keeps (s.unland p ls) := h.foldl writeP
theorem setMarks (h : a.Keeps s) : a.Keeps (s.setMarks p q) := h.foldl fun h => by
  split <;> exact h.setGrp
theorem rollTo (h : a.Keeps s) : a.Keeps (s.rollTo p im q) := by
  unfold State.rollTo
  extract_lets newer s1 s2 s3 s4 other s5 sv s6 s7
  have cleared : a.Keeps s2 := h.stopCores.revokeClaims.revokeChans.revokeLocks.clearPart.setMarks
  have restored : a.Keeps s4 := (cleared.foldl resetCore).unland.restoreCalf.unland.answer
  have frozen : a.Keeps s6 := (restored.whenNot writeX).foldl updSeq
  exact frozen.updPart.ckptPlan
theorem markAbsent (h : a.Keeps s) : a.Keeps (s.markAbsent p) := by
  unfold State.markAbsent
  split
  · exact h
  · exact h.updPart
theorem announce (h : a.Keeps s) : a.Keeps (s.announce p) := by
  unfold State.announce
  split
  · refine h.whenNot fun h => h.foldl fun h => h.whenNot fun h => ?_
    dsimp only
    split
    · exact h
    · exact h.sendMsg.tick
  · exact h
theorem recordFault (h : a.Keeps s) : a.Keeps (s.recordFault p status detail beat src) := h.updJob.event
theorem contain (h : a.Keeps s) : a.Keeps (s.contain p im status detail beat src) := by
  unfold State.contain
  exact (h.stopCores.recordFault.foldl revokeCore).updRcv
end Freeze
end State.Keeps

section Rows
variable {s : State} {f : Fn} {n p : Nat}

theorem execPartitionFreeze_answers : s.Answers (partOk p) (execPartitionFreeze p s) := by
  refine .check (by simp [partOk]) ?_
  have h : s.Keeps s := .refl
  split
  · exact .always h
  · dsimp only
    refine .ite (.always h) (.ite (.always h.freezeDone) ?_)
    split
    · exact .always h
    · refine .ite (.always h) (.ite (.always (State.Keeps.freezeDone (h.commitTo.writeX.foldl State.Keeps.saveCore))) (.always ?_))
      exact State.Keeps.when (.ite h.commitTo.save.freezeDone h.commitTo.save.thawFrom) State.Keeps.ckptDone
theorem execThaw_answers : s.Answers (slotOk f n) (execThaw f n s) := command_answers fun h => by
  split
  · exact h.complete
  · split
    · exact h.updPart.complete
    · exact h.thawFrom.complete
theorem execFreeze_answers : s.Answers (slotOk f n) (execFreeze f n s) := command_answers fun h => by
  dsimp only
  split
  · exact h.complete
  · split
    · exact h.updPart.complete
    · split
      · exact h.completeIf.updPart
      · exact h.updPart
theorem execRollback_answers {fp : Nat} : s.Answers (partOk p) (execRollback p fp s) := by
  refine .check (by simp [partOk]) ?_
  have h : s.Keeps s := .refl
  dsimp only
  split
  · exact .ite (.always h) (.ite (.always h.rollTo.updRcv.markAbsent.updRcv.event) (.always h.rollTo.updRcv.markAbsent.thawFrom))
  · exact .always h
theorem execContainedFault_answers {announced : Bool} : s.Answers (partOk p) (execContainedFault p announced s) := by
  refine .check (by simp [partOk]) ?_
  have h : s.Keeps s := .refl
  split
  · exact .always h.updJob.contain.announce
  · exact .ite (.always h.contain) (.always h)
  · exact .always h.updJob
theorem execStop_answers : s.Answers (slotOk f n) (execStop f n s) := command_answers fun h => by
  split
  · exact h.complete
  · dsimp only
    split
    · exact (h.stopCores.foldl State.Keeps.updSeq).rollTo.updRcv.complete
    · exact (h.stopCores.foldl State.Keeps.updSeq).updRcv.complete
theorem execCheckpointDue_answers {answers : List Nat} : s.Answers (partOk p) (execCheckpointDue p answers s) := by
  refine .check (by simp [partOk]) ?_
  have h : s.Keeps s := .refl
  dsimp only
  split
  · exact .always h
  · refine .ite (.always h) (.ite (.ite (.always h) (.always h.updRcv)) ?_)
    split
    · exact .ite (.always h.updRcv) (.always h)
    · exact .always h
theorem execBuddyDrain_answers : s.Answers (partOk p) (execBuddyDrain p s) := by
  refine .check (by simp [partOk]) ?_
  have h : s.Keeps s := .refl
  split
  · refine .ite (.always h) ?_
    split
    · exact .always h
    · exact .always h.loadAt.sendMsg.updRcv
  · exact .always h
theorem execLockWordTimeout_answers : s.Answers (partOk p) (execLockWordTimeout p n s) := by
  refine .check (by simp [partOk]) ?_
  have h : s.Keeps s := .refl
  split
  · exact .always h
  · exact .ite (.always h) (.always h.writeP.updRcv.answer)
end Rows
end Sys2Proof.Machine
end

section
-- One proof after another: the stacks of proofs that wait for each other count against the check's memory limit.
set_option Elab.async false
namespace Sys2Proof.Machine
namespace State.Keeps
variable {a s t u : State}

/-! ## Firmware (R434, R452) -/

section Firmware
variable {f : Fn} {q : Slot} {n st : Nat}
theorem jFw (h : a.Keeps s) : a.Keeps (s.jFw f q st) := h.jCmd
theorem endInFlight (h : a.Keeps s) : a.Keeps s.endInFlight := h.foldl fun h => h.when complete
theorem restartService (h : a.Keeps s) : a.Keeps (s.restartService n) := by
  unfold State.restartService
  extract_lets s1 same ok
  have ended : a.Keeps s1 := h.endInFlight
  clear_value s1
  exact ended.ofFw .same
end Firmware
end State.Keeps

section FirmwareRows
variable {s : State} {f : Fn} {n op : Nat} {body : Slot → State → State}

theorem fwUpdate_answers (h : ∀ {q t}, s.Keeps t → s.Keeps (body q t)) : s.Answers (slotOk f n) (fwUpdate op f n s body) :=
  commandIf_answers fun g => .ite g.complete (h g)
theorem debugUnlock_answers (h : ∀ {q t}, s.Keeps t → s.Keeps (body q t)) : s.Answers (slotOk f n) (debugUnlock op f n s body) :=
  commandIf_answers fun g => .ite g.complete (h g)

theorem execFwWrite_answers {first second : Option (List Byte)} : s.Answers (slotOk f n) (execFwWrite f n first second s) :=
  fwUpdate_answers fun {q t} h => by
    have written {k : Nat} {b : List Byte} {v : Bool} : s.Keeps { t with fw := t.fw.setSlot k b v } :=
      h.ofFw (by unfold FwState.setSlot; split <;> exact .same)
    refine .ite h.complete ?_
    split
    · exact h.complete
    · dsimp only
      split
      · exact h.complete
      · split
        · exact written.jFw.complete
        · exact written.jFw.complete
theorem execServiceFwRestart_answers : s.Answers true (execServiceFwRestart s) :=
  .ite (.always .refl) (.always State.Keeps.refl.restartService)
theorem execFwActivate_answers : s.Answers (slotOk f n) (execFwActivate f n s) := fwUpdate_answers fun h => h.jFw.complete.restartService
theorem execFwAdvanceSvn_answers : s.Answers (slotOk f n) (execFwAdvanceSvn f n s) := fwUpdate_answers fun {q t} h => by
  have raised (r v : Nat) : s.Keeps { t with fw := { t.fw with rootSvn := max t.fw.rootSvn r, svcSvn := max t.fw.svcSvn v } } :=
    h.ofFw ⟨⟨0, [], by simp, rfl⟩, Nat.le_max_left .., Nat.le_max_left .., fun _ => id⟩
  exact .ite (raised _ _).jFw.complete h.complete
/-- A mask keeps its set bits when more are set. -/
theorem bit_lor_of_bit {a b i : Nat} (h : bit a i = true) : bit (a ||| b) i = true := by
  have test (x : Nat) : bit x i = x.testBit i := by rw [Nat.testBit_eq_decide_div_mod_eq]; rfl
  rw [test] at h ⊢
  rw [Nat.testBit_lor, h, Bool.true_or]
theorem execFwRevokeKey_answers : s.Answers (slotOk f n) (execFwRevokeKey f n s) := fwUpdate_answers fun {q t} h => by
  have blown (k : Nat) : s.Keeps { t with fw := { t.fw with revoked := t.fw.revoked ||| 2 ^ k } } :=
    h.ofFw ⟨⟨0, [], by simp, rfl⟩, Nat.le_refl _, Nat.le_refl _, fun _ => bit_lor_of_bit⟩
  exact .ite h.complete (blown _).jFw.complete
theorem execAttest_answers : s.Answers (slotOk f n) (execAttest f n s) := command_answers fun h => h.tick.complete
theorem execMctpAttest_answers {b : List Byte} : s.Answers true (execMctpAttest b s) := .ite (.always .refl) (.always State.Keeps.refl.same)
theorem execJournalRead_answers : s.Answers (slotOk f n) (execJournalRead f n s) := command_answers fun h =>
  .ite (.ite h.complete h.complete) h.toHost.complete
theorem execMctpJournalRead_answers {b : List Byte} : s.Answers true (execMctpJournalRead b s) :=
  .ite (.always .refl) (.always State.Keeps.refl.same)
theorem execJournalSeal_answers : s.Answers true (execJournalSeal s) :=
  .ite (.always .refl) (.ite (.always State.Keeps.refl.sealJournal) (.always .refl))
theorem execDebugChallenge_answers : s.Answers (slotOk f n) (execDebugChallenge f n s) := debugUnlock_answers fun h =>
  State.Keeps.complete (h.tick.ofFw .same)
theorem execDebugToken_answers : s.Answers (slotOk f n) (execDebugToken f n s) := debugUnlock_answers fun {q t} h => by
  have used {x : FwState} (e : t.fw.Grows x) : s.Keeps { t with fw := x } := h.ofFw e
  exact .ite (used .same).complete (used .same).jCmd.complete
theorem execDebugExpiry_answers : s.Answers true (execDebugExpiry s) := .ite (.always (State.Keeps.refl.ofFw .same)) (.always .refl)
end FirmwareRows

namespace State.Keeps
variable {a s t u : State}

/-! ## Ports (chapter 13) -/

section Ports
variable {p v n beat status : Nat} {q : PeerInfo} {f : Flit} {b : List Byte}
theorem train (h : a.Keeps s) : a.Keeps (s.train p q) := .ite h.setPort.tick.jEvent.linkEvent h.setPort.tick
theorem peerSet (h : a.Keeps s) : a.Keeps (s.peerSet p q) := h.setPort.recheckPorts.timeRefresh
theorem peerFrost (h : a.Keeps s) : a.Keeps (s.peerFrost p q) := h.updPort
theorem giveCredits (h : a.Keeps s) : a.Keeps (s.giveCredits p) := h.foldl fun h => h.whenNot setPort
theorem sendBeatAck {x : Nat × Nat × Nat} {rest : List (Nat × Nat × Nat)} (h : a.Keeps s) : a.Keeps (s.sendBeatAck p x rest) :=
  h.updPort.sendSeq
theorem sendCollective {pick : Option (Nat × Port)} (h : a.Keeps s) : a.Keeps (s.sendCollective p pick) := by
  unfold State.sendCollective
  split
  · exact h.setPort.sendData
  · exact h.setPort.emit
theorem flitSlot (h : a.Keeps s) : a.Keeps (s.flitSlot p) := by
  unfold State.flitSlot
  dsimp only
  refine .ite h.sendHeartbeat ?_
  split
  · split
    · exact h.setPort.emit
    · exact h.setPort
  · refine .ite h.sendCollective ?_
    split
    · exact h.sendBeatAck
    · exact .ite h.sendData (.ite h.setPort.sendData h.sendCollective)
theorem stepDtb {x : Int} (h : a.Keeps s) : a.Keeps (s.stepDtb x) := h.same
theorem heartbeat {hb : Heartbeat} (h : a.Keeps s) : a.Keeps (s.heartbeat p hb) := by
  unfold State.heartbeat
  extract_lets s1 time s2 s3 live
  have heard : a.Keeps s1 := h.updPort
  clear_value s1
  have noted : a.Keeps s3 := (heard.same (t := s2)).timeRefresh
  clear_value s3
  split
  · exact noted
  · exact .ite (.ite (.ite noted.stepDtb (noted.same)) noted) (.ite (.ite noted.stepDtb noted.offset) noted)
theorem deliver (h : a.Keeps s) : a.Keeps (s.deliver p v beat b) := by
  unfold State.deliver
  refine .ite (.ite h.updPort.hearTell h.updPort) ?_
  split
  · exact h.loadMsg
  · exact h.releaseHeld.collMessage
theorem dataFlit (h : a.Keeps s) : a.Keeps (s.dataFlit p f) := by
  unfold State.dataFlit
  extract_lets s0 x c b held full c1 port t
  have released : a.Keeps s0 := h.when releaseHeld
  have holding : a.Keeps t := released.when holdOn
  refine .ite released.setPort (.ite released.setPort ?_)
  clear_value t
  exact .ite holding.setPort holding.setPort.deliver
theorem beatAck (h : a.Keeps s) : a.Keeps (s.beatAck p f) := foldl h.updPort fun h => by
  split
  · exact h.when loadSettle
  · exact h
theorem reportGroups {ok : Image → List Byte → Bool} (h : a.Keeps s) : a.Keeps (s.reportGroups status p ok) := h.foldl fun h => h.when report
theorem losePeer (h : a.Keeps s) : a.Keeps (s.losePeer p) := by
  unfold State.losePeer
  extract_lets x port s1 s2 s3 time s4
  have reported : a.Keeps s2 := h.setPort.reportGroups
  have journalled : a.Keeps s3 := reported.whenNot jEvent
  clear_value s3
  exact (journalled.same (t := s4)).timeRefresh.linkEvent.loadPeerLost
end Ports
end State.Keeps

section PortRows
variable {s : State} {p : Nat}

theorem portOk_iff (p : Nat) : Sys2Proof.portOk p = true ↔ ¬ 16 ≤ p := by simp [Sys2Proof.portOk]
theorem execLinkTrained_answers {q : PeerInfo} : s.Answers (Sys2Proof.portOk p) (execLinkTrained p q s) := by
  have h : s.Keeps s := .refl
  exact .check (portOk_iff p) (.ite (.always h) (.ite (.always h.train) (.ite (.always h.peerSet.peerFrost) (.ite (.always h.peerFrost) (.always h)))))
theorem execPortRetrain_answers {q : Option PeerInfo} : s.Answers (Sys2Proof.portOk p) (execPortRetrain p q s) := by
  refine .check (portOk_iff p) (.ite (.always .refl) ?_)
  cases q with
  | none => exact .always State.Keeps.refl.setPort
  | some q => exact .always State.Keeps.refl.train
theorem execFlitTransmit_answers : s.Answers (Sys2Proof.portOk p) (execFlitTransmit p s) := by
  have h : s.Keeps s := .refl
  exact .check (portOk_iff p) (.ite (.always h) (.ite (.always h.giveCredits.flitSlot) (.ite (.always h.emit) (.always h))))
theorem execHeartbeatSend_answers : s.Answers (Sys2Proof.portOk p) (execHeartbeatSend p s) :=
  .check (portOk_iff p) (.ite (.always State.Keeps.refl.sendHeartbeat) (.always .refl))
theorem execHeartbeatReceive_answers {hb : Heartbeat} : s.Answers (Sys2Proof.portOk p) (execHeartbeatReceive p hb s) :=
  .check (portOk_iff p) (.ite (.always State.Keeps.refl.heartbeat) (.always .refl))
theorem execFlitReceive_answers {flit : List Byte} {corrected : Nat} {fecOk : Bool} :
    s.Answers (Sys2Proof.portOk p) (execFlitReceive p flit corrected fecOk s) := by
  have h : s.Keeps s := .refl
  exact .check (portOk_iff p) (.ite (.always h) (.ite (.always h.setPort) (.ite (.always h.setPort)
    (.ite (.always h.setPort.heartbeat) (.ite (.always h.setPort)
      (.ite (.ite (.always h.setPort.setPort.dataFlit) (.always h.setPort.setPort.beatAck)) (.ite (.always h.setPort) (.always h.setPort))))))))
theorem execNakReplay_answers {ack : Nat} : s.Answers (Sys2Proof.portOk p) (execNakReplay p ack s) :=
  .check (portOk_iff p) (.ite (.always State.Keeps.refl.setPort) (.always .refl))
theorem execReplayTimeout_answers : s.Answers (Sys2Proof.portOk p) (execReplayTimeout p s) := by
  refine .check (portOk_iff p) ?_
  dsimp only
  split
  · exact .always .refl
  · exact .ite (.always State.Keeps.refl.setPort) (.always .refl)
theorem execLaneRelock_answers : s.Answers (Sys2Proof.portOk p) (execLaneRelock p s) :=
  .check (portOk_iff p) (.ite (.always State.Keeps.refl.setPort) (.always .refl))
theorem execPeerLost_answers : s.Answers (Sys2Proof.portOk p) (execPeerLost p s) :=
  .check (portOk_iff p) (.ite (.always State.Keeps.refl.losePeer) (.always .refl))
theorem execBeatAckDeadline_answers {vc : Nat} : s.Answers (Sys2Proof.portOk p && decide (vc < 11)) (execBeatAckDeadline p vc s) :=
  .check (by simp [Sys2Proof.portOk]) (.ite (.always .refl) (.always State.Keeps.refl.setPort.linkEvent.linkEvent.reportGroups))
theorem execDepartureNotice_answers : s.Answers (Sys2Proof.portOk p) (execDepartureNotice p s) :=
  .check (portOk_iff p) (.ite (.always State.Keeps.refl.setPort.jEvent) (.always .refl))
theorem execDtbParentTimeout_answers : s.Answers true (execDtbParentTimeout s) :=
  .ite (.always State.Keeps.refl.unlock.timeRefresh) (.always .refl)
theorem execDtbBroadcast_answers : s.Answers true (execDtbBroadcast s) := .ite (.always .refl) (.always State.Keeps.refl.same)
theorem execPpsEdge_answers : s.Answers true (execPpsEdge s) := by
  unfold execPpsEdge
  extract_lets time r s1 src
  have steered : s.Keeps s1 := .ite State.Keeps.refl.stepDtb State.Keeps.refl.offset
  clear_value s1
  exact .ite (.always .refl) (.always steered.same)
end PortRows
end Sys2Proof.Machine
end

section
-- One proof after another: the stacks of proofs that wait for each other count against the check's memory limit.
set_option Elab.async false
namespace Sys2Proof.Machine

/-! ## Tables built anew -/

/-- A table built entry by entry from nothing is canonical. -/
theorem Cells.wf_rebuild {α β : Type} [DecidableEq α] {d : Nat → α} {key : β → Nat} {val : β → α} {l : List β} {m : List (Nat × α)}
    (h : Cells.wf d m = true) : Cells.wf d (l.foldl (fun m e => Cells.put d m (key e) (val e)) m) = true := by
  induction l generalizing m with
  | nil => exact h
  | cons e r ih => exact ih (Cells.wf_put d (key e) (val e) h)
/-- Its entries have what every value put has. -/
theorem Cells.all_rebuild {α β : Type} [DecidableEq α] {d : Nat → α} {key : β → Nat} {val : β → α} {P : α → Prop} {l : List β}
    {m : List (Nat × α)} (new : ∀ e, P (val e)) (h : ∀ e ∈ m, P e.2) :
    ∀ e ∈ l.foldl (fun m e => Cells.put d m (key e) (val e)) m, P e.2 := by
  induction l generalizing m with
  | nil => exact h
  | cons b r ih => exact ih fun e mem => (Cells.mem_put mem).elim (fun put => by rw [put]; exact new b) (h e)

theorem FnState.cutSlots_wf (x : FnState) (st : Nat) : Cells.wf (fun _ => ({} : Slot)) (x.cutSlots st) = true := Cells.wf_rebuild rfl

namespace State.Keeps
variable {a s t u : State}

/-! ## Partition records and windows (chapter 16) -/

section Parts
variable {p k n src func : Nat} {f old : Fn} {own : Fn × Nat} {v : Staged} {cmd : Option (Fn × Nat × Nat)}
theorem setPcie {x : PcieState} (h : a.Keeps s) : a.Keeps { s with pcie := x } := h.same
theorem dropStaged (h : a.Keeps s) : a.Keeps { s with commit := { s.commit with staged := [] } } := h.same
theorem stage (h : a.Keeps s) : a.Keeps (s.stage v) := h.same
theorem linkRegrade (h : a.Keeps s) : a.Keeps (s.linkRegrade src func cmd) := h.tick.accept
theorem resetPartCores (h : a.Keeps s) : a.Keeps (s.resetPartCores p) := .ite h.same (h.foldl resetCore)
theorem dropCommands (h : a.Keeps s) : a.Keeps (s.dropCommands old p own) := h.foldl fun h => h.when setSlot
theorem enterWindow (h : a.Keeps s) : a.Keeps (s.enterWindow n p k) := foldl (s := { s with cyc := _ }) h.same fun h => h.whenNot suspend
theorem startSide (h : a.Keeps s) : a.Keeps s.startSide := by
  unfold State.startSide
  dsimp only
  split
  · exact h.when enterWindow
  · exact h
theorem straddle (h : a.Keeps s) : a.Keeps (s.straddle n) := h.whenNot journal
end Parts

/-! ## Resets (R418, R468 to R473) -/

section Resets
variable {p k cause detail port : Nat} {f : Fn}
theorem setFnWf {x : FnState} (h : a.Keeps s) (wf : Cells.wf (fun _ => ({} : Slot)) x.slots = true) : a.Keeps (s.setFn f x) :=
  h.ofFns fun ok => ok.setFn f wf
theorem abortLoads (h : a.Keeps s) : a.Keeps (s.abortLoads f) := h.foldl fun h => by
  split
  · exact h
  · exact .ite h.endLoad (h.when updLoad)
theorem functionReset (h : a.Keeps s) : a.Keeps (s.functionReset f) := by
  unfold State.functionReset
  extract_lets x s1 staged s2 s3
  have cut : a.Keeps s1 := h.setFnWf (x.cutSlots_wf _)
  clear_value s1
  have dropped : a.Keeps s2 := cut.same
  clear_value s2
  have closed : a.Keeps s3 := by
    show a.Keeps (match s2.ownedBy f with | some p => _ | none => _)
    split
    · exact dropped.closeSessions
    · exact dropped
  exact closed.abortLoads
theorem portReset (h : a.Keeps s) : a.Keeps (s.portReset port) := h.foldl functionReset
theorem leavePermafrost (h : a.Keeps s) : a.Keeps s.leavePermafrost := by
  unfold State.leavePermafrost
  extract_lets power time s1 s0 s2
  have woken : a.Keeps s1 := h.same
  clear_value s1
  have ports : a.Keeps s2 := foldl (tick (woken.foldl updShelf)) updPort
  exact ports.portReset.portReset.timeRefresh
theorem journalPart (h : a.Keeps s) : a.Keeps (s.journalPart p) := h.whenNot journal
theorem journalPermit (h : a.Keeps s) : a.Keeps (s.journalPermit f) := h.whenNot journal
theorem journalDefaults (h : a.Keeps s) : a.Keeps s.journalDefaults := ((h.foldl journalStaged).foldl journalPermit).foldl journalPart
theorem loosePools_hbm (s : State) (but groups : Nat) : (s.loosePools but groups).hbm = s.hbm :=
  foldl_keeps State.hbm (fun t p => by rw [apply_ite State.hbm]; exact ite_self t.hbm) _ _
theorem flushShelf (h : a.Keeps s) : a.Keeps (s.flushShelf k) := by
  have lost : a.Keeps (s.loosePools 16 (0xFF * 2 ^ (8 * k))) := h.loosePools
  have mem := loosePools_hbm s 16 (0xFF * 2 ^ (8 * k))
  unfold State.flushShelf
  generalize s.loosePools 16 (0xFF * 2 ^ (8 * k)) = t at lost mem ⊢
  refine .ite (lost.trans ⟨rfl, fun wf => ?_, fun ok => ok.of_shelves rfl, .same, fun ok => ok.of_fns rfl⟩) (h.foldl writeBack)
  rw [mem] at wf
  exact Mem.wf_lose _ _ _ _ wf
theorem resetLogic_cache (s : State) (cause k : Nat) : ((s.resetLogic cause).shelf k).cache = [] := by
  have anew : ∀ e ∈ (s.resetLogic cause).shelves, e.2.cache = [] := by
    unfold State.resetLogic
    exact Cells.all_rebuild (P := fun x : Shelf => x.cache = []) (fun _ => rfl) fun _ mem => absurd mem List.not_mem_nil
  exact Cells.get_induct (P := fun x : Shelf => x.cache = []) rfl anew
theorem resetLogic_mailboxes (s : State) (cause : Nat) : (s.resetLogic cause).MailboxesCanonical := by
  unfold State.resetLogic
  exact ⟨Cells.wf_rebuild rfl, Cells.all_rebuild (P := fun x : FnState => Cells.wf (fun _ => ({} : Slot)) x.slots = true)
    (fun e => e.2.cutSlots_wf _) fun _ mem => absurd mem List.not_mem_nil⟩
theorem resetLogic (h : a.Keeps s) : a.Keeps (s.resetLogic cause) :=
  h.trans ⟨rfl, id, fun _ k l mem => (by rw [resetLogic_cache] at mem; cases mem), .same, fun _ => resetLogic_mailboxes s cause⟩
theorem deviceStop (h : a.Keeps s) : a.Keeps (s.deviceStop cause) := by
  unfold State.deviceStop
  extract_lets s1
  have told : a.Keeps s1 := h.jEvent.journalDefaults
  clear_value s1
  exact (told.foldl flushShelf).resetLogic
theorem boot (h : a.Keeps s) : a.Keeps s.boot := by
  unfold State.boot
  extract_lets x ok t b s1
  have loaded : a.Keeps s1 := h.ofFw .same
  exact loaded.journal.sealJournal
theorem deviceReset (h : a.Keeps s) : a.Keeps (s.deviceReset cause detail) := (h.when leavePermafrost).deviceStop.boot.event
end Resets
end State.Keeps

section Rows
variable {s : State} {f : Fn} {n p : Nat}

theorem execPartCreate_answers : s.Answers (slotOk f n) (execPartCreate f n s) := command_answers fun h => by
  dsimp only
  refine .ite h.complete (.ite h.complete ?_)
  split
  · exact h.complete
  · exact h.stage.complete
theorem execPartChange_answers : s.Answers (slotOk f n) (execPartChange f n s) := command_answers fun h => by
  dsimp only
  refine .ite h.complete ?_
  split
  · exact h.complete
  · exact h.stage.complete
theorem execPartDestroy_answers : s.Answers (slotOk f n) (execPartDestroy f n s) := command_answers fun {q t} h => by
  extract_lets old s1 staged s2
  have removed : s.Keeps s1 := h.removePart.jCmd
  clear_value s1
  exact .ite h.complete (removed.same (t := s2)).complete
theorem execCommit_answers : s.Answers (slotOk f n) (execCommit f n s) := by
  unfold execCommit
  split
  · rename_i waits
    simp only [Bool.and_eq_true, decide_eq_true_eq] at waits
    obtain ⟨⟨-, fn⟩, slot⟩ := waits
    rw [(slotOk_iff f n).2 ⟨fn, slot⟩]
    exact .always .refl
  · refine command_answers fun h => ?_
    split
    · exact h.complete
    · exact State.Keeps.accept h.same
theorem execSetTime_answers : s.Answers (slotOk f n) (execSetTime f n s) := command_answers fun h =>
  .ite h.complete (.ite h.complete h.stepDtb.complete)
theorem execRegrade_answers : s.Answers (slotOk f n) (execRegrade f n s) := by
  unfold execRegrade
  split
  · rename_i waits
    simp only [Bool.and_eq_true, decide_eq_true_eq] at waits
    obtain ⟨⟨-, fn⟩, slot⟩ := waits
    rw [(slotOk_iff f n).2 ⟨fn, slot⟩]
    exact .always .refl
  · exact command_answers fun h => State.Keeps.linkRegrade h.same
theorem execRegradeTimer_answers : s.Answers true (execRegradeTimer s) := .ite (.always .refl) (.always State.Keeps.refl.linkRegrade)
theorem execPartReset_answers : s.Answers (slotOk f n) (execPartReset f n s) := command_answers fun h =>
  (h.stopCores.revokeClaims.revokeChans.revokeLocks.revokePairs.clearPart.resetPartCores.closeSessions.dropStaged).retireImage.jDo.complete
theorem execLeaseBreak_answers : s.Answers (slotOk f n) (execLeaseBreak f n s) := command_answers fun h =>
  .ite h.complete (.ite h.complete h.revokePairs.updPart.reroute.reroute.dropCommands.jCmd.complete)
theorem execCyclicWindowBoundary_answers : s.Answers true (execCyclicWindowBoundary s) := by
  have h : s.Keeps s := .refl
  unfold execCyclicWindowBoundary
  extract_lets c stop
  refine .ite (.always h) (.ite (.always h.startSide) (.ite (.always h) (.ite (.always h) ?_)))
  split
  · exact .always h.enterWindow
  · exact .always (State.Keeps.startSide (State.Keeps.same h.straddle))
  · exact .always h.enterWindow
  · exact .always h

theorem execDeviceReset_answers : s.Answers (slotOk f n) (execDeviceReset f n s) := command_answers State.Keeps.deviceReset
theorem execPerstBoth_answers : s.Answers true (execPerstBoth s) :=
  .ite (.always .refl) (.always (State.Keeps.when State.Keeps.refl State.Keeps.leavePermafrost).deviceStop.setPcie)
theorem execPerstRelease_answers : s.Answers true (execPerstRelease s) :=
  .ite (.always .refl) (.always (State.Keeps.boot (State.Keeps.refl.same)))
theorem execFieldPllLockLoss_answers {field : Nat} : s.Answers (fieldOk field) (execFieldPllLockLoss field s) :=
  .check (by simp [fieldOk]) (.ite (.always .refl) (.always State.Keeps.refl.same))
theorem execDeviceFatalFault_answers {cause : Nat} : s.Answers true (execDeviceFatalFault cause s) :=
  .ite (.always .refl) (.always (State.Keeps.deviceReset (State.Keeps.same State.Keeps.refl.jEvent)))
theorem execCoreReset_answers {c : Nat} : s.Answers (coreOk c) (execCoreReset c s) :=
  .check (by simp [coreOk_iff]) (.ite (.always .refl) (.always State.Keeps.refl.resetCore))
theorem execFunctionReset_answers : s.Answers f.ok (execFunctionReset f s) :=
  .check (by simp [Fn.ok, fnOk]) (.ite (.always .refl) (.ite (.always State.Keeps.refl.leavePermafrost) (.always State.Keeps.refl.functionReset)))
theorem execPcieLinkDown_answers : s.Answers (pcieOk p) (execPcieLinkDown p s) := .check (by simp [pcieOk]) (.always State.Keeps.refl.same)
theorem execPcieLinkUp_answers : s.Answers (pcieOk p) (execPcieLinkUp p s) :=
  .check (by simp [pcieOk]) (.ite (.always .refl) (.always (State.Keeps.portReset (State.Keeps.refl.same))))
end Rows
end Sys2Proof.Machine
end

section
-- One proof after another: the stacks of proofs that wait for each other count against the check's memory limit.
set_option Elab.async false
namespace Sys2Proof.Machine
namespace State.Keeps
variable {a s t u : State}

/-! ## Requests at a home bank (chapter 12) -/

section Bank
variable {p cls x k n : Nat} {ds : List (Byte × Byte)} {ev : MemEvent} {req : CacheReq} {isRead : Bool}
theorem setOut {o : Outputs} (h : a.Keeps s) : a.Keeps { s with out := o } := h.same
theorem setPowerState {o : PowerState} (h : a.Keeps s) : a.Keeps { s with power := o } := h.same
theorem setCool {o : CoolState} (h : a.Keeps s) : a.Keeps { s with cool := o } := h.same
theorem fencePc (h : a.Keeps s) : a.Keeps (s.fencePc p x) := by
  unfold State.fencePc
  exact (updShelf h).jEvent.report
theorem memUe (h : a.Keeps s) : a.Keeps (s.memUe p k) := report (updShelf h)
theorem stackAccess (h : a.Keeps s) : a.Keeps (s.stackAccess p x isRead ev).1 := by
  have retried : a.Keeps (if ev.parityFails = 0 then s else s.updShelf (shelfOf x)
      (fun sh => { sh with parityRetries := satAdd 0xFFFFFFFF sh.parityRetries 1 })) := h.whenNot fun h => updShelf h
  unfold State.stackAccess
  dsimp only
  split
  · exact retried.fencePc
  · split
    · exact retried.memUe
    · split
      · exact updShelf (k := shelfOf x) (x := fun sh => { sh with odeccCorr := satAdd 0xFFFFFFFF sh.odeccCorr 1 }) retried
      · exact retried
theorem mergeBytes (h : a.Keeps s) : a.Keeps (s.mergeBytes p x ds) := h.foldl fun h => h.whenNot putHb
theorem bankRead (h : a.Keeps s) : a.Keeps (s.bankRead p cls x n ev) := by
  unfold State.bankRead
  extract_lets hit r s1
  have read : a.Keeps r.1 := by
    show a.Keeps (if hit then (s, true) else _).1
    split
    · exact h
    · exact h.stackAccess
  refine .ite read (setOut (s := s1) (read.foldl useByte))
theorem bankWrite (h : a.Keeps s) : a.Keeps (s.bankWrite p cls x ds ev) :=
  .ite h.haveLine.mergeBytes.answer (.ite h.haveLine.stackAccess.mergeBytes.answer h.haveLine.stackAccess)
theorem bankServe (h : a.Keeps s) : a.Keeps (s.bankServe p cls x req ev) := by
  have corrected : a.Keeps (if ev.cacheEcc = 1 then s.updShelf (shelfOf x) (fun sh => { sh with cacheCorr := satAdd 0xFFFF sh.cacheCorr 1 })
      else s) := h.when fun h => updShelf h
  unfold State.bankServe
  dsimp only
  split
  · refine .ite (memUe (h.updLines fun _ whole l mem => whole l (List.mem_of_mem_filter mem))) ?_
    split
    · exact corrected.bankRead
    · exact corrected.bankWrite
  · split
    · exact h.bankRead
    · exact h.bankWrite
theorem haltStack (h : a.Keeps s) : a.Keeps (s.haltStack k) :=
  event (setPowerState (jEvent (h.updLines fun _ whole l mem => whole l (List.mem_of_mem_filter mem))))
end Bank
end State.Keeps

section BankRows
variable {s : State} {p n : Nat}
theorem execCacheAccess_answers {cls : Nat} {x : PhysAddr} {req : CacheReq} {ev : MemEvent} :
    s.Answers (partOk p && decide (cls < 4) && x.ok) (execCacheAccess p cls x req ev s) := by
  refine .check (by
    simp only [partOk, PhysAddr.ok, Bool.and_eq_true, Bool.or_eq_true, decide_eq_true_eq, not_or, Nat.not_le, and_assoc]
    exact .rfl) ?_
  have h : s.Keeps s := .refl
  exact .ite (.always h) (.ite (.always h.report) (.ite (.always h.report) (.always h.bankServe)))
theorem execReducerOp_answers {op wide x y addr : Nat} : s.Answers (partOk p) (execReducerOp p op wide x y addr s) := by
  refine .check (by simp [partOk]) (.ite (.always .refl) ?_)
  have h : s.Keeps s := .refl
  split
  · exact .always h.report
  · exact .ite (.always h) (.ite (.always h.report) (.always h.storeX.noteShelf.answer.setOut))
theorem execGlacierAdd_answers {shelf entry elem x beat : Nat} :
    s.Answers (shelfOk shelf && entryOk entry) (execGlacierAdd shelf entry elem x beat s) := by
  refine .check (by simp [shelfOk, entryOk]) ?_
  split
  · exact .always .refl
  · exact .always State.Keeps.refl.glacier
theorem execOrderedSumContrib_answers {shelf entry elem ord x beat : Nat} :
    s.Answers (shelfOk shelf && entryOk entry) (execOrderedSumContrib shelf entry elem ord x beat s) := by
  refine .check (by simp [shelfOk, entryOk]) ?_
  split
  · exact .always .refl
  · exact .always State.Keeps.refl.ordered
theorem execShelfThermalEvaluation_answers {shelf : Nat} {temps : List Int} :
    s.Answers (shelfOk shelf) (execShelfThermalEvaluation shelf temps s) := by
  refine .check (by simp [shelfOk]) ?_
  split
  · exact .always .refl
  · dsimp only
    have h : s.Keeps s := .refl
    exact .ite (.always h) (.ite (.always h.updShelf) (.ite (.always (State.Keeps.haltStack h.updShelf)) (.always (State.Keeps.updShelf h.updShelf))))
end BankRows

namespace State.Keeps
variable {a s t u : State}

/-! ## Admission (chapter 11) -/

section Admit
variable {p lo hi : Nat} {im : Image} {g : Geometry} {rs : List Region} {es : List Nat}
theorem writeLayers (h : a.Keeps s) : a.Keeps (s.writeLayers p im) := by
  have defaults : a.Keeps _ := foldl (f := fun s l => s.writeP p (im.layerAt l)
    (leBytes 4 0 ++ leBytes 4 0xFFFFFFFF ++ sub ((tpRecords im.bytes 0x09).getD l []) 8 24)) (l := List.range (tpLayers im.bytes)) h writeP
  exact .ite defaults defaults.writeP.writeP
theorem writeLedgers (h : a.Keeps s) : a.Keeps (s.writeLedgers p im) := h.foldl writeP
theorem writePool (h : a.Keeps s) : a.Keeps (s.writePool p im) := h.whenNot fun h => h.writeP.updPart
theorem writeStreams (h : a.Keeps s) : a.Keeps (s.writeStreams p im) := h.foldlOn Prod.fst writeP
theorem pinSpan (h : a.Keeps s) : a.Keeps (s.pinSpan p g lo hi) := h.foldl fun h => by
  split
  · exact h
  · refine updLines (h.foldl useByte) fun y whole l mem => ?_
    obtain ⟨m, old, rfl⟩ := List.mem_map.1 mem
    split <;> exact whole m old
theorem addRegion_cache (x : Shelf) (e : List Byte) : (x.addRegion e).cache = x.cache := by
  unfold Shelf.addRegion
  split
  · rfl
  · split <;> rfl
theorem putRegions (h : a.Keeps s) : a.Keeps (s.putRegions p rs) := h.foldl fun h =>
  have put : a.Keeps _ := h.updShelf fun y => addRegion_cache y _
  .ite put.storeF (put.when storeF)
theorem admitted (h : a.Keeps s) : a.Keeps (s.admitted p im) := by
  unfold State.admitted
  extract_lets g s0 s1 s2 s3 s4
  have written : a.Keeps s1 := h.loosePools.writeLayers.writeLedgers.writePool.writeStreams
  have bound : a.Keeps s3 := (written.foldl pinSpan).putRegions.foldl updChan
  exact bound.updPart.loadCores.ckptPlan
theorem outMaps (h : a.Keeps s) : a.Keeps (s.outMaps im es) := tick (h.foldl fun h => by
  split
  · exact h.whenNot updPort
  · exact h)
end Admit

/-! ## Firn blocks (chapter 09) -/

section Firn
variable {x : Ctx} {refused : List (Nat × Nat)} {blk : List Byte} {m : FirnDesc} {p : FirnParam}
theorem firnByte {o v : Nat} (h : a.Keeps s) (e : s.firnByte x refused blk o v = some t) : a.Keeps t := by
  unfold State.firnByte at e
  split at e
  · cases e; exact h
  · split at e
    · cases e; exact h
    · split at e
      · cases e; exact h.storeBytes
      · dsimp only at e
        split at e
        · cases e; exact h
        · exact h.regionWrite e
theorem firnBytes {es : List (Nat × Nat)} (h : a.Keeps s) (e : s.firnBytes x refused blk es = some t) : a.Keeps t := by
  induction es generalizing s with
  | nil => cases e; exact h
  | cons b r ih =>
    rw [State.firnBytes] at e
    split at e
    · rename_i wrote
      exact ih (h.firnByte wrote) e
    · cases e
theorem firnOut {blks : List ((Nat × Nat × Nat) × List Nat)} (h : a.Keeps s) (e : s.firnOut x m p refused blks = some t) : a.Keeps t := by
  induction blks generalizing s with
  | nil => cases e; exact h
  | cons b r ih =>
    rw [State.firnOut] at e
    split at e
    · rename_i wrote
      exact ih (h.firnBytes wrote) e
    · cases e
end Firn
end State.Keeps

section Rows
variable {s : State} {f : Fn} {n c : Nat}

theorem execAdmit_answers {image : Option (List Byte)} : s.Answers (slotOk f n) (execAdmit f n image s) := command_answers fun h => by
  dsimp only
  refine .ite h.complete ?_
  split
  · exact h.complete
  · split
    · exact h.complete
    · split
      · exact h.complete
      · exact h.admitted.jDo.complete
theorem execBind_answers : s.Answers (slotOk f n) (execBind f n s) := command_answers fun h => by
  dsimp only
  split
  · exact h.complete
  · split
    · exact h.complete
    · exact h.updPart.putRegions.outMaps.tell.hearAll.jDo.complete
theorem execMoveWindow_answers : s.Answers (coreOk c) (execMoveWindow c s) := issue_answers fun x => by
  have h : s.Keeps s := .refl
  refine .ite trivial ?_
  split
  · trivial
  · exact .ite h (.ite h (h.access fun h => h.setCore.addFlags))
theorem execMoveFirn_answers : s.Answers (coreOk c) (execMoveFirn c s) := issue_answers fun x => by
  have h : s.Keeps s := .refl
  refine .ite trivial ?_
  split
  · trivial
  · refine .ite h (h.access fun h => ?_)
    split
    · exact .ite trivial h
    · dsimp only
      refine .ite h (.ite h (.ite ?_ (.ite ?_ ?_)))
      · split
        · rename_i wrote
          exact (h.countShelves.firnOut wrote).fenceReport.shelfRefuse.answer.ofExtent
        · exact h.stopCore.report
      · exact h.countShelves.shelfRefuse
      · exact h.countShelves.loadAt.setCore.addFlags.ofExtent
end Rows
end Sys2Proof.Machine
end

section
-- One proof after another: the stacks of proofs that wait for each other count against the check's memory limit.
set_option Elab.async false
namespace Sys2Proof.Machine
namespace State.Keeps
variable {a s t u : State}

/-! ## Registers (chapter 18) -/

section Registers
variable {f : Fn} {o v n bar off k : Nat} {r : Reg} {b : Blk}
theorem clearId (h : a.Keeps s) : a.Keeps (s.clearId f o) := by
  unfold State.clearId
  split
  · exact h.setFn
  · exact h.setFn
  · exact h.ofFw .same
  · split
    · exact h.updRcv
    · exact h.when fun h => h.foldl updRcv
  · split
    · exact h.updRcv
    · exact h
  · exact h.when setPowerState
  · exact h.when setCool
  · exact h.when setCool
  · exact h.when setCool
  · exact h
theorem clearRc_cache (x : Shelf) (o : Nat) : (x.clearRc o).cache = x.cache := by
  unfold Shelf.clearRc
  split <;> rfl
theorem clearRc (h : a.Keeps s) : a.Keeps (s.clearRc f r) := by
  unfold State.clearRc
  split
  · exact h.clearId
  · exact h.updCore
  · exact h.updShelf fun y => clearRc_cache y _
  · exact h.updPort
  · exact h.when fun h => h.same
  · exact h.updChan
  · exact h.when updPart
  · exact h.updPair
  · exact h
theorem answerRead (h : a.Keeps s) : a.Keeps (s.answerRead v n) := h.same
theorem readPmc (h : a.Keeps s) : a.Keeps (s.readPmc f b k) := h.count.setFn.answerRead
theorem writeMsix (h : a.Keeps s) : a.Keeps (s.writeMsix f o v) := .ite h.setFn (.ite h.setFn (h.setFn.when irq))
theorem writeReg (h : a.Keeps s) : a.Keeps (s.writeReg f bar off v r) := by
  unfold State.writeReg
  split
  · exact h.setFn
  · exact h.writeMsix
  · exact h.updCore
  · exact h.updCore
  · exact h.updChan
  · exact .ite h (.ite h.jDiscard h.count.setCtl)
  · exact h
end Registers

/-! ## Requests and copies (chapters 05, 18) -/

section Requests
variable {f : Fn} {n p x : Nat} {q : Slot} {bs d : List Byte}
theorem enqueue (h : a.Keeps s) : a.Keeps (s.enqueue f n q) := h.updJob
theorem reportFenced (h : a.Keeps s) : a.Keeps (s.reportFenced p x) := h.report
theorem dmaWrite (h : a.Keeps s) : a.Keeps (s.dmaWrite p x bs) := h.storeBytes.fenceReport.answer
theorem copyInputs {refs : List (Nat × Nat × Bool × Nat)} {data : List (List Byte)} (h : a.Keeps s) : a.Keeps (s.copyInputs p refs data) :=
  h.foldl dmaWrite
theorem startImage (h : a.Keeps s) : a.Keeps (s.startImage p) := h.whenNot fun h => updJob (h.foldl updCore)
theorem reloadCores (h : a.Keeps s) : a.Keeps (s.reloadCores p bs d) := h.foldl updCore
theorem reloadCyclic (h : a.Keeps s) : a.Keeps (s.reloadCyclic bs d) := by
  have filled : a.Keeps (if Tr.side bs = 0 then { s with cyc := { s.cyc with s0 := d } } else { s with cyc := { s.cyc with s1 := d } }) :=
    .ite h.same h.same
  exact filled.when stage
end Requests
end State.Keeps

section Rows
variable {s : State} {f : Fn} {n bar off v : Nat}

theorem fnOk_iff (f : Fn) : f.ok = true ↔ ¬ (!fnOk f) = true := by simp [Fn.ok, fnOk]
theorem execRegisterReadClear_answers : s.Answers f.ok (execRegisterReadClear f bar off s) := by
  have h : s.Keeps s := .refl
  refine .check (fnOk_iff f) (.ite (.always h) ?_)
  split
  · exact .always h.answerRead
  · split
    · exact .always h.readPmc
    · exact .always h.count.answerRead
  · exact .always h.clearRc.answerRead
theorem execRegisterWrite_answers : s.Answers f.ok (execRegisterWrite f bar off v s) := by
  have h : s.Keeps s := .refl
  refine .check (fnOk_iff f) (.ite (.always h) ?_)
  split
  · exact .always (h.whenNot State.Keeps.jDiscard)
  · split
    · exact .always (.ite h.jDiscard h.stage)
    · exact .always h.writeReg
theorem execPmcRead_answers : s.Answers f.ok (execPmcRead f bar off s) := by
  have h : s.Keeps s := .refl
  refine .check (fnOk_iff f) (.ite (.always h) ?_)
  split
  · split
    · exact .always h.readPmc
    · exact .always h
  · exact .always h.answerRead
theorem execPmcWrite_answers : s.Answers f.ok (execPmcWrite f bar off v s) := by
  have h : s.Keeps s := .refl
  refine .check (fnOk_iff f) (.ite (.always h) ?_)
  split
  · split
    · exact .always h.count.setPmc
    · exact .always h
  · exact .always (h.whenNot State.Keeps.jDiscard)

theorem execRun_answers {inputs : Option (List (List Byte))} : s.Answers (slotOk f n) (execRun f n inputs s) := command_answers fun h => by
  dsimp only
  split
  · exact h.complete
  · split
    · exact h.complete
    · split
      · exact h.complete
      · exact h.copyInputs.enqueue.startImage
theorem execRetire_answers : s.Answers (slotOk f n) (execRetire f n s) := command_answers fun h => .ite h.complete h.retireImage.jDo.complete
theorem execJobStatus_answers : s.Answers (slotOk f n) (execJobStatus f n s) := command_answers State.Keeps.complete
theorem execMemCopyToDevice_answers {data : Option (List Byte)} : s.Answers (slotOk f n) (execMemCopyToDevice f n data s) :=
  commandIf_answers fun h => by
    extract_lets b
    split
    · exact h.complete
    · refine .ite h.complete ?_
      split
      · exact h.complete
      · exact h.dmaWrite.complete
theorem execMemCopyToHost_answers {ok : Bool} : s.Answers (slotOk f n) (execMemCopyToHost f n ok s) := commandIf_answers fun h => by
  extract_lets +onlyGivenNames b
  split
  · exact h.complete
  · refine .ite h.complete ?_
    split
    · exact h.reportFenced.complete
    · split
      · exact h.complete
      · extract_lets xs
        exact h.loadAt.toHost.complete
theorem execTableReload_answers {data : Option (List Byte)} : s.Answers (slotOk f n) (execTableReload f n data s) :=
  command_answers fun h => by
    dsimp only
    refine .ite h.complete (.ite h.complete (.ite h.complete (.ite h.complete ?_)))
    split
    · exact h.complete
    · split
      · exact h.complete
      · exact .ite h.reloadCyclic.complete h.reloadCores.jDo.complete
theorem postSeq_answers {code : Nat} : s.Answers (slotOk f n) (postSeq code f n s) := command_answers fun h =>
  .ite h.complete (.ite h.complete h.enqueue)
theorem execSlotQuery_answers : s.Answers (slotOk f n) (execSlotQuery f n s) := command_answers fun h => by
  dsimp only
  split
  · exact h.complete
  · exact .ite h.complete h.complete
theorem execFaultQuery_answers : s.Answers (slotOk f n) (execFaultQuery f n s) := command_answers State.Keeps.complete
end Rows

/-! ## Permafrost (Table 21.2) -/

/-- What Permafrost leaves of a state whose journal is sealed, whose peers are told and whose sessions are closed: stacks and I/O die lose
what they hold. -/
def State.ioLost (s : State) (k : Nat) : State :=
  { s with
    freeCtr := k + 30000
    hbm := { lost := [(0, flat 64 0, k)] }
    coresLost := some k
    tablesLost := some (k + 10000)
    cores := []
    parts := (s.loosePools 16 (2 ^ 64 - 1)).parts
    shelves := (List.range 8).foldl (fun m j => let x := s.shelf j
      Cells.put (fun _ => {}) m j { wayOwner := x.wayOwner, wayValid := x.wayValid, timingPlan := x.timingPlan }) []
    ports := (List.range 16).foldl (fun m p => let x := (s.port p).drop
      Cells.put (fun _ => {}) m p { x with state := if x.disable then 7 else 0, peer := none }) []
    watches := []
    msgs := []
    fields := []
    pcie := { s.pcie with linkA := false, linkB := false }
    time := { s.time with nbrs := [] }
    cool := { s.cool with fieldSteps := [0, 0, 0, 0], fieldBelow := [0, 0, 0, 0] }
    power := { s.power with state := 3 } }
theorem State.enterPermafrost_eq (s : State) : s.enterPermafrost =
    ((List.range 16).foldl (fun s p => s.closeSessions p Config.stSessionState) ((List.range 16).foldl State.sendDeparture s.seal)).ioLost
      ((List.range 16).foldl State.sendDeparture s.seal).freeCtr := rfl

namespace State.Keeps
variable {a s t u : State}

/-! ## Power states and supply (chapters 21, 23) -/

section Power
variable {p n d : Nat} {b : List Byte}
theorem note (h : a.Keeps s) : a.Keeps (s.note d b) := h.jEvent.event
theorem fieldPart (h : a.Keeps s) : a.Keeps s.fieldPart :=
  when (when (when (note (setPowerState h.tick)) note) note) note
theorem setPower (h : a.Keeps s) : a.Keeps (s.setPower n) := h.same
theorem enterHoar (h : a.Keeps s) : a.Keeps s.enterHoar := by
  unfold State.enterHoar
  extract_lets t
  have stopped : a.Keeps t := h.countAll.setPower
  exact stopped.when fieldPart
theorem gateFields (h : a.Keeps s) : a.Keeps s.gateFields := h.same
theorem enterFrost (h : a.Keeps s) : a.Keeps s.enterFrost := by
  unfold State.enterFrost
  extract_lets s1 s2
  have saved : a.Keeps s2 := (h.foldl suspend).foldl updPort
  exact saved.gateFields.setPower
theorem leaveFrost (h : a.Keeps s) : a.Keeps s.leaveFrost :=
  setPowerState (foldl (h.foldl updPort) fun h => h.when fun h => h.foldl resetCore)
theorem sendDeparture (h : a.Keeps s) : a.Keeps (s.sendDeparture p) := h.whenNot fun h => h.sendMsg.drainVc
theorem ioLost {k : Nat} (h : a.Keeps s) : a.Keeps (s.ioLost k) :=
  h.trans ⟨rfl, fun _ => rfl, fun _ j => Cells.get_induct (P := fun x : Shelf => ∀ l ∈ x.cache, l.Whole) (fun _ mem => absurd mem List.not_mem_nil)
      (Cells.all_rebuild (P := fun x : Shelf => ∀ l ∈ x.cache, l.Whole) (fun _ _ mem => absurd mem List.not_mem_nil)
        fun _ mem => absurd mem List.not_mem_nil), .same, fun ok => ok.of_fns rfl⟩
theorem enterPermafrost (h : a.Keeps s) : a.Keeps s.enterPermafrost := by
  rw [State.enterPermafrost_eq]
  exact (foldl (h.sealJournal.foldl sendDeparture) closeSessions).ioLost
theorem deeper (h : a.Keeps s) : a.Keeps s.deeper := .ite h.enterHoar (.ite h.enterFrost h.enterPermafrost)
theorem shallower (h : a.Keeps s) : a.Keeps s.shallower := .ite h.setPower (.ite h.leaveFrost h.leavePermafrost)
theorem goTo (h : a.Keeps s) : a.Keeps (s.goTo d n) := by
  induction n generalizing s with
  | zero => exact h
  | succ n ih => exact .ite (ih h.deeper) (.ite (ih h.shallower) h)
theorem answerSide (h : a.Keeps s) : a.Keeps (s.answerSide b) := h.same
theorem alert (h : a.Keeps s) : a.Keeps s.alert := h.setCool.when note
theorem unpowered (h : a.Keeps s) : a.Keeps s.unpowered :=
  h.trans ⟨rfl, fun _ => rfl, fun _ _ _ mem => absurd mem List.not_mem_nil, .same, fun _ => ⟨rfl, fun _ mem => absurd mem List.not_mem_nil⟩⟩
theorem release (h : a.Keeps s) : a.Keeps s.release := h.when fun h => boot h.setPowerState
end Power
end State.Keeps

section Rows
variable {s : State} {f : Fn} {n : Nat}

theorem execPowerState_answers : s.Answers (slotOk f n) (execPowerState f n s) := command_answers fun h => by
  dsimp only
  split
  · exact h.complete
  · exact .ite h.goTo.setSlot h.goTo.complete
theorem execPowerStateQuery_answers : s.Answers true (execPowerStateQuery s) := .ite (.always .refl) (.always State.Keeps.refl.answerSide)
theorem execPermafrostExit_answers : s.Answers true (execPermafrostExit s) :=
  .ite (.always .refl) (.always (State.Keeps.when State.Keeps.refl State.Keeps.leavePermafrost).answerSide)
theorem execPermafrostEntry_answers : s.Answers true (execPermafrostEntry s) :=
  .ite (.always .refl) (.ite (.always State.Keeps.refl.answerSide) (.always State.Keeps.refl.goTo.answerSide))
theorem execLeakDetect_answers : s.Answers true (execLeakDetect s) :=
  .ite (.always .refl) (.always (State.Keeps.note (State.Keeps.refl.setCool)).alert)
theorem execLeakClear_answers : s.Answers true (execLeakClear s) := .ite (.always .refl) (.always (State.Keeps.alert (State.Keeps.refl.setCool)))
theorem execSensorUpdate_answers {r : Sensors} : s.Answers true (execSensorUpdate r s) :=
  .ite (.always .refl) (.always (State.Keeps.when State.Keeps.refl.setCool State.Keeps.note).alert)
theorem execSensorRead_answers {b : List Byte} : s.Answers true (execSensorRead b s) := by
  have h : s.Keeps s := .refl
  exact .ite (.always h) (.ite (.always h.answerSide) (.ite (.always h.answerSide) (.always h.tick.answerSide)))
theorem execPowerCapMeasure_answers {w : Nat} : s.Answers true (execPowerCapMeasure w s) :=
  .ite (.always .refl) (.always (State.Keeps.when State.Keeps.refl.setCool State.Keeps.note))
theorem execFieldThermalEvaluation_answers {field : Nat} {t : Int} : s.Answers (fieldOk field) (execFieldThermalEvaluation field t s) :=
  .check (by simp [fieldOk]) (.ite (.always .refl) (.always (State.Keeps.alert State.Keeps.refl.setCool)))
theorem execPowerOn_answers : s.Answers true (execPowerOn s) :=
  .ite (.always .refl) (.always (State.Keeps.release State.Keeps.refl.setPowerState))
theorem execReferenceClockStable_answers : s.Answers true (execReferenceClockStable s) :=
  .always (State.Keeps.release State.Keeps.refl.setPowerState)
theorem execShutdownCause_answers {cause : Nat} : s.Answers true (execShutdownCause cause s) :=
  .ite (.always .refl) (.always (State.Keeps.unpowered State.Keeps.refl.jEvent.setCool))
theorem execCblPresentChange_answers {port : Nat} {high : Bool} : s.Answers (Sys2Proof.portOk port) (execCblPresentChange port high s) := by
  have h : s.Keeps s := .refl
  exact .check (portOk_iff port) (.ite (.always h) (.ite (.always h.updPort) (.always (h.when State.Keeps.losePeer).updPort)))
end Rows
end Sys2Proof.Machine
end

section
-- One proof after another: the stacks of proofs that wait for each other count against the check's memory limit.
set_option Elab.async false
namespace Sys2Proof.Machine

/-! ## Every command -/

/-- Every command whose units exist answers a next state that keeps what `State.Keeps` names; any other is the fault. -/
theorem exec_answers (i : Instr) (s : State) : s.Answers i.unitsOk (exec i s) := by
  cases i with
  | mmaZero c => exact issue_answers (mma_keeps _)
  | mmaInitC c => exact issue_answers (mma_keeps _)
  | mmaContinue c => exact issue_answers (mma_keeps _)
  | mmaDiagZero c => exact issue_answers (mma_keeps _)
  | mmaDiagContinue c => exact issue_answers (mma_keeps _)
  | tileFinish c t => exact execTileFinish_answers
  | finishedTilePush c t => exact execFinishedTilePush_answers
  | multicastDelivery c row0 col0 rows cols srcBase dstBase len => exact execMulticastDelivery_answers
  | heldWriteRelease c => exact execHeldWriteRelease_answers
  | witnessReference c => exact execWitnessReference_answers
  | chain c => exact issue_answers chain_keeps
  | chainEf c => exact issue_answers chain_keeps
  | chainFtq c => exact issue_answers chain_keeps
  | moveIn c => exact execMoveIn_answers
  | moveOut c => exact execMoveOut_answers
  | moveWindow c => exact execMoveWindow_answers
  | moveMesh c => exact execMoveMesh_answers
  | moveSleet c => exact execMoveSleet_answers
  | moveFirn c => exact execMoveFirn_answers
  | kvPageWrite p addr data => exact execKvPageWrite_answers
  | beatWait c => exact execBeatWait_answers
  | signalWait c => exact execSignalWait_answers
  | flagSet c => exact execFlagSet_answers
  | flagClear c => exact execFlagClear_answers
  | freezePoint c => exact execFreezePoint_answers
  | claim c => exact execClaim_answers
  | claimRequest p counter => exact execClaimRequest_answers
  | claimDone c => exact execClaimDone_answers
  | claimDoneAccept p counter => exact execClaimDoneAccept_answers
  | claimLeaseExpiry p counter idx => exact execClaimLeaseExpiry_answers
  | selectPoint c => exact execSelectPoint_answers
  | bucketSelection p => exact execBucketSelection_answers
  | allReduce c => exact handoff_answers
  | reduceScatter c => exact handoff_answers
  | allGather c => exact handoff_answers
  | p2pSend c => exact handoff_answers
  | p2pRecv c => exact handoff_answers
  | setPass c => exact execSetPass_answers
  | loop c => exact execLoop_answers
  | variant c => exact execVariant_answers
  | nop c => exact execNop_answers
  | halt c => exact execHalt_answers
  | messageArrival n => exact execMessageArrival_answers
  | beatStall c => exact execBeatStall_answers
  | beatCommit p => exact execBeatCommit_answers
  | runOutputCopy p ok => exact execRunOutputCopy_answers
  | widenAllocate p pass req => exact execWidenAllocate_answers
  | cacheAccess p cls a req ev => exact execCacheAccess_answers
  | reducerOp p op wide a b addr => exact execReducerOp_answers
  | glacierAdd shelf entry elem x beat => exact execGlacierAdd_answers
  | orderedSumContrib shelf entry elem ordinal x beat => exact execOrderedSumContrib_answers
  | shelfThermalEvaluation shelf temps => exact execShelfThermalEvaluation_answers
  | linkTrained port peer => exact execLinkTrained_answers
  | flitTransmit port => exact execFlitTransmit_answers
  | flitReceive port flit corrected fecOk => exact execFlitReceive_answers
  | nakReplay port ack => exact execNakReplay_answers
  | replayTimeout port => exact execReplayTimeout_answers
  | laneRelock port => exact execLaneRelock_answers
  | heartbeatSend port => exact execHeartbeatSend_answers
  | heartbeatReceive port hb => exact execHeartbeatReceive_answers
  | peerLost port => exact execPeerLost_answers
  | portRetrain port peer => exact execPortRetrain_answers
  | beatAckDeadline port vc => exact execBeatAckDeadline_answers
  | departureNotice port => exact execDepartureNotice_answers
  | dtbParentTimeout => exact execDtbParentTimeout_answers
  | dtbBroadcast => exact execDtbBroadcast_answers
  | ppsEdge => exact execPpsEdge_answers
  | instanceStart p group => exact execInstanceStart_answers
  | collectiveMessage port vc h beat payload => exact execCollectiveMessage_answers
  | resultDelivery p group n => exact execResultDelivery_answers
  | orderSkewTimeout ch => exact execOrderSkewTimeout_answers
  | hostChunkRead p port chunk data crc => exact execHostChunkRead_answers
  | loadDataMessage p h data => exact execLoadDataMessage_answers
  | loadAbortMessage p loadId => exact execLoadAbortMessage_answers
  | loadEndMessage p loadId => exact execLoadEndMessage_answers
  | loadCompanionTimeout p => exact execLoadCompanionTimeout_answers
  | loadHoldTimeout p => exact execLoadHoldTimeout_answers
  | cyclicWindowBoundary => exact execCyclicWindowBoundary_answers
  | partitionFreeze p => exact execPartitionFreeze_answers
  | codecPicture pair session cause key nonref frame consumed => exact execCodecPicture_answers
  | codecBlockBudget pair damaged => exact execCodecBlockBudget_answers
  | codecWatchdog pair damaged => exact execCodecWatchdog_answers
  | encodeRingWrite pair => exact execEncodeRingWrite_answers
  | pictureOutput pair => exact execPictureOutput_answers
  | codecResume pair session => exact execCodecResume_answers
  | codecPairFault pair => exact execCodecPairFault_answers
  | mailboxPost f n w0 w1 w2 w3 payload => exact execMailboxPost_answers
  | mailboxScan => exact execMailboxScan_answers
  | msixUnmask f v => exact execMsixUnmask_answers
  | registerWrite f bar off value => exact execRegisterWrite_answers
  | registerReadClear f bar off => exact execRegisterReadClear_answers
  | nopCommand f n => exact execNopCommand_answers
  | permitSet f n => exact execPermitSet_answers
  | commit f n => exact execCommit_answers
  | setTime f n => exact execSetTime_answers
  | deviceReset f n => exact execDeviceReset_answers
  | powerState f n => exact execPowerState_answers
  | regrade f n => exact execRegrade_answers
  | regradeTimer => exact execRegradeTimer_answers
  | partCreate f n => exact execPartCreate_answers
  | partChange f n => exact execPartChange_answers
  | partDestroy f n => exact execPartDestroy_answers
  | admitImage f n image => exact execAdmit_answers
  | bind f n => exact execBind_answers
  | run f n inputs => exact execRun_answers
  | retire f n => exact execRetire_answers
  | jobStatus f n => exact execJobStatus_answers
  | memCopyToDevice f n data => exact execMemCopyToDevice_answers
  | memCopyToHost f n ok => exact execMemCopyToHost_answers
  | tableReload f n data => exact execTableReload_answers
  | thaw f n => exact execThaw_answers
  | partReset f n => exact execPartReset_answers
  | weightLoad f n => exact execWeightLoad_answers
  | weightSwitch f n list => exact execWeightSwitch_answers
  | weightSwitchCancel f n => exact execWeightSwitchCancel_answers
  | slotOpen f n => exact postSeq_answers
  | slotFork f n => exact postSeq_answers
  | slotClose f n => exact postSeq_answers
  | prefixPin f n => exact postSeq_answers
  | prefixRelease f n => exact postSeq_answers
  | slotQuery f n => exact execSlotQuery_answers
  | codecOpen f n => exact execCodecOpen_answers
  | codecSubmit f n => exact execCodecSubmit_answers
  | codecClose f n => exact execCodecClose_answers
  | codecRelease f n => exact execCodecRelease_answers
  | journalRead f n => exact execJournalRead_answers
  | attest f n => exact execAttest_answers
  | fwWrite f n first second => exact execFwWrite_answers
  | fwActivate f n => exact execFwActivate_answers
  | fwAdvanceSvn f n => exact execFwAdvanceSvn_answers
  | fwRevokeKey f n => exact execFwRevokeKey_answers
  | debugChallenge f n => exact execDebugChallenge_answers
  | debugToken f n => exact execDebugToken_answers
  | debugExpiry => exact execDebugExpiry_answers
  | stop f n => exact execStop_answers
  | freeze f n => exact execFreeze_answers
  | faultQuery f n => exact execFaultQuery_answers
  | leaseBreak f n => exact execLeaseBreak_answers
  | mctpJournalRead payload => exact execMctpJournalRead_answers
  | mctpAttest payload => exact execMctpAttest_answers
  | sensorRead payload => exact execSensorRead_answers
  | powerStateQuery => exact execPowerStateQuery_answers
  | permafrostExit => exact execPermafrostExit_answers
  | permafrostEntry => exact execPermafrostEntry_answers
  | pmcRead f bar off => exact execPmcRead_answers
  | pmcWrite f bar off value => exact execPmcWrite_answers
  | containedFault p announced => exact execContainedFault_answers
  | rollback p fp => exact execRollback_answers
  | serviceFwRestart => exact execServiceFwRestart_answers
  | deviceFatalFault cause => exact execDeviceFatalFault_answers
  | fieldPllLockLoss field => exact execFieldPllLockLoss_answers
  | hostLeaseExpiry f => exact execHostLeaseExpiry_answers
  | lockWordTimeout p n => exact execLockWordTimeout_answers
  | checkpointDue p answers => exact execCheckpointDue_answers
  | buddyDrain p => exact execBuddyDrain_answers
  | journalSeal => exact execJournalSeal_answers
  | coreReset c => exact execCoreReset_answers
  | functionReset f => exact execFunctionReset_answers
  | perstBoth => exact execPerstBoth_answers
  | pcieLinkDown port => exact execPcieLinkDown_answers
  | powerOn => exact execPowerOn_answers
  | shutdownCause cause => exact execShutdownCause_answers
  | leakDetect => exact execLeakDetect_answers
  | leakClear => exact execLeakClear_answers
  | powerCapMeasure watts => exact execPowerCapMeasure_answers
  | fieldThermalEvaluation field temp => exact execFieldThermalEvaluation_answers
  | pcieLinkUp port => exact execPcieLinkUp_answers
  | perstRelease => exact execPerstRelease_answers
  | cblPresentChange port high => exact execCblPresentChange_answers
  | referenceClockStable => exact execReferenceClockStable_answers
  | sensorUpdate r => exact execSensorUpdate_answers
theorem exec_keeps {i : Instr} {s t : State} (h : exec i s = .next t) : s.Keeps t := by
  cases ok : i.unitsOk with
  | true =>
    obtain ⟨u, e, keeps⟩ := (exec_answers i s).next ok
    rw [e] at h
    cases h
    exact keeps
  | false =>
    rw [(exec_answers i s).fault ok] at h
    cases h
/-- A step keeps, but of the queue, what `State.Keeps` names. -/
theorem step_keeps {s t : State} (h : step s = .next t) : s.Keeps t ∨ s.rest.Keeps t := by
  unfold step at h
  split at h
  · cases h
    exact .inl State.Keeps.refl.edge
  · exact .inr (exec_keeps h)

/-! ## The statements -/

/-- Settles O2: one lemma for each row says when it answers a next state. -/
theorem unitsDecideTheStop : Obligations.UnitsDecideTheStop := fun c s =>
  ⟨fun ok => (exec_answers c s).next ok |>.imp fun _ h => h.1, (exec_answers c s).fault⟩
/-- Settles O3: every function of the model leaves the queue as it is. -/
theorem commandsKeepTheQueue : Obligations.CommandsKeepTheQueue := fun _ _ _ h => (exec_keeps h).pending
/-- Settles O6: only FW_ADVANCE_SVN and FW_REVOKE_KEY write the fuses, one by a maximum, the other by setting a bit. -/
theorem fusesOnlyBlow : Obligations.FusesOnlyBlow := fun _ _ _ h =>
  have keeps := (exec_keeps h).fw
  ⟨keeps.root, keeps.svc, keeps.revoked⟩
/-- Settles O4: every change of memory is a byte written, a range lost, or a line evicted, filled, merged or dropped. -/
theorem hbmStaysCanonical : Obligations.HbmStaysCanonical :=
  ⟨fun _ _ wf h => (step_keeps h).elim (fun k => k.hbm wf) (fun k => k.hbm wf),
    fun _ _ ok h => (step_keeps h).elim (fun k => k.caches ok) (fun k => k.caches (ok.of_shelves rfl))⟩
/-- Settles O5: the journal changes by an entry appended, which may cost a full ring its oldest block. -/
theorem journalIsAppendOnly : Obligations.JournalIsAppendOnly := fun s t h => by
  have grows : s.fw.Grows t.fw := (step_keeps h).elim (fun k => k.fw) (fun k => k.fw)
  exact ⟨grows.journal, grows.journal.nextSeq_le⟩
/-- Settles O59: functions and slots change by a canonical put, and a reset builds both tables anew. -/
theorem mailboxTablesStayCanonical : Obligations.MailboxTablesStayCanonical := fun _ _ ok h =>
  (step_keeps h).elim (fun k => k.mailboxes ok) (fun k => k.mailboxes (ok.of_fns rfl))
/-- Settles O1: `step` by the two forms of the queue. -/
theorem stepRunsTheFrontCommand : Obligations.StepRunsTheFrontCommand := by
  refine ⟨fun c q s front => ?_, fun s empty => ?_⟩
  · rw [step, front, State.rest, front]
    rfl
  · rw [step, empty]
/-- A function of the reset state has no slot in use, and the PERMIT of its kind. -/
theorem fnReset_reads (f : Fn) : (fnReset (fnKey f)).slots = [] ∧ (fnReset (fnKey f)).permit = if f.idx % 32 = 0 then 0xFF else 0xBE := by
  have kind : fnKey f % 32 = f.idx % 32 := by
    unfold fnKey
    omega
  rw [fnReset, kind]
  split <;> exact ⟨rfl, rfl⟩
/-- Settles O7: every table of the reset state is empty and reads its default. -/
theorem resetLeaves : Obligations.ResetLeaves := by
  have slots (f : Fn) (n : Nat) : (State.reset.slot f n).post = false := by
    have unlisted : (State.reset.fn f).slots = [] := (fnReset_reads f).1
    rw [State.slot, unlisted]
    rfl
  exact ⟨rfl, rfl, fun _ => rfl, fun _ => ⟨rfl, rfl, rfl, rfl, rfl, rfl⟩, fun f => (fnReset_reads f).2, slots, fun _ => ⟨rfl, rfl⟩,
    fun _ => rfl, fun _ => ⟨rfl, rfl⟩, fun _ => ⟨rfl, rfl⟩, fun _ => rfl, rfl, rfl, rfl⟩
end Sys2Proof.Machine
end

section
-- One proof after another: the stacks of proofs that wait for each other count against the check's memory limit.
set_option Elab.async false
namespace Sys2Proof.Machine

/-! ## Bits of a word -/

theorem bit_eq_testBit (v i : Nat) : bit v i = v.testBit i := by
  rw [Nat.testBit_eq_decide_div_mod_eq]
  rfl
/-- A word split at a bit: what stands above it, itself included, and what stands below. -/
theorem setBit_eq (v i : Nat) (b : Bool) : setBit v i b = 2 ^ i * (v / 2 ^ i - v / 2 ^ i % 2 + b2n b) + v % 2 ^ i := by
  have low := Nat.div_add_mod v (2 ^ i)
  have bit_le : v / 2 ^ i % 2 ≤ v / 2 ^ i := Nat.mod_le _ _
  have here : b2n (bit v i) = v / 2 ^ i % 2 := by
    unfold b2n bit
    split <;> simp_all
  rw [setBit, here, Nat.mul_add, Nat.mul_sub, Nat.mul_comm (v / 2 ^ i % 2), Nat.mul_comm (b2n b)]
  have := Nat.mul_le_mul_left (2 ^ i) bit_le
  omega
@[simp] theorem bit_setBit (v i j : Nat) (b : Bool) : bit (setBit v i b) j = if j = i then b else bit v j := by
  rw [bit_eq_testBit, bit_eq_testBit, setBit_eq, Nat.testBit_two_pow_mul_add _ (Nat.mod_lt _ (Nat.two_pow_pos i))]
  rcases Nat.lt_trichotomy j i with below | rfl | above
  · rw [if_pos below, if_neg (by omega), Nat.testBit_mod_two_pow, decide_eq_true below, Bool.true_and]
  · rw [if_neg (Nat.lt_irrefl j), if_pos rfl, Nat.sub_self, Nat.testBit_zero]
    cases b <;> simp [b2n] <;> omega
  · obtain ⟨k, rfl⟩ : ∃ k, j = i + (k + 1) := ⟨j - i - 1, by omega⟩
    have half (q : Nat) : (q - q % 2 + b2n b) / 2 = q / 2 := by
      have one : b2n b ≤ 1 := by unfold b2n; split <;> omega
      omega
    rw [if_neg (by omega), if_neg (by omega), Nat.add_sub_cancel_left, Nat.testBit_succ, half, ← Nat.testBit_succ, Nat.testBit_div_two_pow,
      Nat.add_comm]

/-! ## Flags, scalar control and HALT (chapter 10) -/

section
variable {c : Nat} {s : State} {x : Ctx} {r : Row}

/-- A row that is done with an update of its core: the core is updated and goes on. -/
theorem issue_done_updCore {body : Ctx → Issue} {f : Core → Core} (issues : s.Issues c r x) (done : body x = .done (s.updCore c f)) :
    issue r c s body = .next ((s.updCore c f).advance c) := by
  rw [issue_of_issues issues, done, finish, (State.ctx_core issues.ctx).1]
theorem State.updCore_advance_core (f : Core → Core) : ((s.updCore c f).advance c).core c = (f (s.core c)).retire 0x010 := by
  rw [State.advance_core, if_pos rfl, State.core_updCore_self]
theorem State.updCore_advance_onlyCore (f : Core → Core) : s.OnlyCore ((s.updCore c f).advance c) c :=
  (s.updCore_onlyCore c f).trans (State.advance_frame _ c)

theorem exec_flagSet (issues : s.Issues c ⟨4, 2, 0⟩ x) (reserved : x.f 127 17 = 0) : exec (.flagSet c) s =
    .next ((s.updCore c (fun k => { k with ready := setBit k.ready (x.f 15 8) true })).advance c) :=
  issue_done_updCore issues (if_neg (by simp [reserved]))
theorem exec_flagClear (issues : s.Issues c ⟨4, 2, 1⟩ x) (reserved : x.f 127 17 = 0) : exec (.flagClear c) s =
    .next ((s.updCore c (fun k => { k with ready := setBit k.ready (x.f 15 8) false })).advance c) :=
  issue_done_updCore issues (if_neg (by simp [reserved]))
theorem exec_nop (issues : s.Issues c ⟨6, 3, 0⟩ x) (reserved : x.f 127 8 = 0) : exec (.nop c) s = .next (s.advance c) := by
  have row : exec (.nop c) s = execNop c s := rfl
  rw [row, execNop, issue_of_issues issues, if_neg (by simp [reserved]), finish, (State.ctx_core issues.ctx).1]

theorem exec_setPass_waits (issues : s.Issues c ⟨6, 0, 0⟩ x) (reserved : x.f 127 40 = 0) (other : x.f 39 8 ≠ (s.core c).seq.pass)
    (pending : s.votePending x.p c x.im = true) : exec (.setPass c) s = .next s := by
  have row : exec (.setPass c) s = execSetPass c s := rfl
  rw [row, execSetPass, issue_of_issues issues, if_neg (by simp [reserved]), if_pos (by simp [other, pending])]
  rfl
theorem exec_setPass_sets (issues : s.Issues c ⟨6, 0, 0⟩ x) (reserved : x.f 127 40 = 0) (done : s.allDone c = true)
    (free : x.f 39 8 = (s.core c).seq.pass ∨ s.votePending x.p c x.im = false) : exec (.setPass c) s =
    .next ((s.updSeq c (fun q => { q with pass := x.f 39 8, voteAt := (s.part x.p).job.votes })).advance c) :=
  issue_done_updCore issues ((if_neg (by simp [reserved])).trans (if_neg (by simpa [done, imp_iff_not_or] using free)))

/-- The frame of a LOOP at the instruction it stands at. -/
def Ctx.loopFrame (x : Ctx) (q : Seq) : LoopFrame := ⟨q.pc + 1, x.f 27 8, x.f 59 28, 0⟩
/-- The sequencer after a body that is skipped. -/
def Seq.pastBody (q : Seq) (body : Nat) : Seq := settle 16 { q with pc := q.pc + 1 + body, run := 1, waitFrom := none }

section
variable (issues : s.Issues c ⟨6, 1, 0⟩ x) (reserved : x.f 127 60 = 0) (body : x.f 27 8 ≠ 0) (depth : (s.core c).seq.loops.length < 4)
  (inside : (s.core c).seq.pc + 1 + x.f 27 8 ≤ bodyEnd (s.core c).seq x.len)
include reserved body depth inside
theorem loop_legal : (x.f 127 60 != 0 || x.f 27 8 == 0 || decide (4 ≤ (s.core c).seq.loops.length)
    || decide (bodyEnd (s.core c).seq x.len < (s.core c).seq.pc + 1 + x.f 27 8)) = false := by
  simp [reserved, body, depth, inside]
include issues
theorem exec_loop_skips (none : x.f 59 28 = 0) : exec (.loop c) s =
    .next ((s.updSeq c (fun q => q.pastBody (x.f 27 8))).updCore c (fun k => k.note 0x011 1)) := by
  have row : exec (.loop c) s = execLoop c s := rfl
  rw [row, execLoop, issue_of_issues issues]
  dsimp only
  rw [loop_legal reserved body depth inside, if_neg (by decide), if_pos none, finish, (State.ctx_core issues.ctx).1]
  rfl
theorem exec_loop_opens (count : x.f 59 28 ≠ 0) : exec (.loop c) s =
    .next ((s.updSeq c (fun q => { q with loops := x.loopFrame q :: q.loops })).advance c) :=
  issue_done_updCore issues ((if_neg (by rw [loop_legal reserved body depth inside]; decide)).trans (if_neg count))
end

/-- HALT in a body is illegal (R217). -/
theorem exec_halt_in_body (issues : s.Issues c ⟨6, 4, 0⟩ x) (body : (s.core c).seq.loops ≠ []) :
    exec (.halt c) s = .next (s.coreFault x.p c 1 Config.stIllegalInstr x.w) := by
  have row : exec (.halt c) s = execHalt c s := rfl
  rw [row, execHalt, issue_of_issues issues, if_pos (by simp [body]), finish, (State.ctx_core issues.ctx).1]
/-- A core whose stream has ended. -/
def State.coreHalts (s : State) (c : Nat) : State := s.updSeq c (fun q => { q with run := 4, stall := false, waitFrom := none })
theorem exec_halt (issues : s.Issues c ⟨6, 4, 0⟩ x) (reserved : x.f 127 8 = 0) (top : (s.core c).seq.loops = [])
    (quiet : (s.core c).quiet = true) : exec (.halt c) s = .next (((if (s.coreHalts c).parked x.p || (s.coreHalts c).allHalted x.p then
      (s.coreHalts c).endRequest x.p else s.coreHalts c).endImage x.p).updCore c (fun k => k.note 0x010 1)) := by
  have row : exec (.halt c) s = execHalt c s := rfl
  rw [row, execHalt, issue_of_issues issues, if_neg (by simp [reserved, top]), if_neg (by simp [quiet]), finish, (State.ctx_core issues.ctx).1]
  rfl
end

/-- A state that differs in partition records only. -/
def State.OnlyParts (s t : State) : Prop := t = { s with parts := t.parts }
theorem State.OnlyParts.trans {s t u : State} (h : s.OnlyParts t) (g : t.OnlyParts u) : s.OnlyParts u := by
  unfold State.OnlyParts at *
  rw [g, h]
/-- The end of an image: perhaps its open request ends, and then its units apply a commit that waits for them. -/
theorem State.endImage_cases (s : State) (p : Nat) :
    s.endImage p = s ∨ ∃ u, s.OnlyParts u ∧ s.endImage p = u.releaseUnits := by
  unfold State.endImage
  split
  · have ended : s.OnlyParts (s.endRequest p) := s.endRequest_frame p
    have job : (s.endRequest p).OnlyParts ((s.endRequest p).updJob p (fun j => { j with running := false, halted := true })) := rfl
    exact .inr ⟨_, ended.trans job, rfl⟩
  · exact .inl rfl
/-- HALT leaves partition records changed only, until a commit that waits for the image's units is applied. -/
theorem State.halted_cases (s : State) (p : Nat) (ends : Bool) : ∃ u, s.OnlyParts u ∧
    ((if ends then s.endRequest p else s).endImage p = u ∨ (if ends then s.endRequest p else s).endImage p = u.releaseUnits) := by
  have asked : s.OnlyParts (if ends then s.endRequest p else s) := by
    split
    · exact s.endRequest_frame p
    · rfl
  obtain same | ⟨u, only, released⟩ := State.endImage_cases (if ends then s.endRequest p else s) p
  · exact ⟨_, asked, .inl same⟩
  · exact ⟨u, asked.trans only, .inr released⟩

/-- Settles O9: each row is one update of its core, and HALT's end of a request or an image is one of partition records. -/
theorem scalarAndFlagRowsComplete : Obligations.ScalarAndFlagRowsComplete := by
  unfold Obligations.ScalarAndFlagRowsComplete
  refine ⟨⟨?set, ?clear, ?nop⟩, ?pass, ?halt, fun c s x issues body => exec_halt_in_body issues body, ?loop⟩
  case set =>
    intro c s x issues reserved
    refine ⟨_, exec_flagSet issues reserved, fun j => ?_, ?_, State.updCore_advance_onlyCore _⟩
    · rw [State.updCore_advance_core]
      show bit (setBit _ _ true) j = _
      rw [bit_setBit]
      by_cases named : j = x.f 15 8 <;> simp [named]
    · rw [State.updCore_advance_core]
      rfl
  case clear =>
    intro c s x issues reserved
    refine ⟨_, exec_flagClear issues reserved, fun j => ?_, ?_, State.updCore_advance_onlyCore _⟩
    · rw [State.updCore_advance_core]
      show bit (setBit _ _ false) j = _
      rw [bit_setBit]
      by_cases named : j = x.f 15 8 <;> simp [named]
    · rw [State.updCore_advance_core]
      rfl
  case nop =>
    intro c s x issues reserved
    exact ⟨_, exec_nop issues reserved, by rw [State.advance_core, if_pos rfl]; rfl, State.advance_frame s c⟩
  case pass =>
    intro c s x issues reserved done
    refine ⟨exec_setPass_waits issues reserved, fun free => ⟨_, exec_setPass_sets issues reserved done free, ?_, ?_,
      State.updCore_advance_onlyCore _⟩⟩
    · rw [State.updSeq, State.updCore_advance_core]
      rfl
    · rw [State.updSeq, State.updCore_advance_core]
      rfl
  case halt =>
    intro c s x issues reserved top quiet
    obtain ⟨u, only, ends⟩ := State.halted_cases (s.coreHalts c) x.p ((s.coreHalts c).parked x.p || (s.coreHalts c).allHalted x.p)
    have cores (d : Nat) : u.core d = (s.coreHalts c).core d := by rw [only]; rfl
    refine ⟨_, u, exec_halt issues reserved top quiet, ends.imp (fun e => by rw [e]) (fun e => by rw [e]), ?_, fun d other => ?_, ?_⟩
    · rw [cores, State.coreHalts, State.updSeq, State.core_updCore_self]
    · rw [cores, State.coreHalts, State.updSeq, State.core_updCore_other _ _ other]
    · rw [only]
      rfl
  case loop =>
    intro c s x issues reserved body depth inside
    by_cases none : x.f 59 28 = 0
    · refine ⟨_, exec_loop_skips issues reserved body depth inside none, ?_, ?_, (s.updCore_onlyCore c _).trans (State.updCore_onlyCore _ c _)⟩
      · rw [if_pos none, State.core_updCore_self, State.updSeq, State.core_updCore_self]
        rfl
      · rw [State.core_updCore_self, State.updSeq, State.core_updCore_self]
        rfl
    · refine ⟨_, exec_loop_opens issues reserved body depth inside none, ?_, ?_, State.updCore_advance_onlyCore _⟩
      · rw [if_neg none, State.updSeq, State.updCore_advance_core]
        rfl
      · rw [State.updSeq, State.updCore_advance_core]
        rfl
end Sys2Proof.Machine
end

section
/-!
The ports: what the updates of a port's channels change, training, replay, heartbeats and lost peers (chapter 13).
-/

-- One proof after another: the stacks of proofs that wait for each other count against the check's memory limit.
set_option Elab.async false
namespace Sys2Proof.Machine

/-! ## The channels of a port -/

@[simp] theorem Port.vc_setVc_self (x : Port) (v : Nat) (c : VcState) : (x.setVc v c).vc v = c := Cells.get_put_self ..
theorem Port.vc_setVc_other (x : Port) {v w : Nat} (c : VcState) (h : w ≠ v) : (x.setVc v c).vc w = x.vc w := Cells.get_put_other _ _ _ h
@[simp] theorem Port.vc_updVc_self (x : Port) (v : Nat) (f : VcState → VcState) : (x.updVc v f).vc v = f (x.vc v) := Port.vc_setVc_self ..
theorem Port.vc_updVc_other (x : Port) {v w : Nat} (f : VcState → VcState) (h : w ≠ v) : (x.updVc v f).vc w = x.vc w :=
  Port.vc_setVc_other _ _ h

/-- One change of each of the first `n` channels. -/
def Port.eachVc (x : Port) (n : Nat) (f : Nat → VcState → VcState) : Port := (List.range n).foldl (fun x v => x.updVc v (f v)) x

theorem Port.eachVc_succ (x : Port) (n : Nat) (f : Nat → VcState → VcState) : x.eachVc (n + 1) f = (x.eachVc n f).updVc n (f n) := by
  simp [Port.eachVc, List.range_succ]

/-- Each of these channels is changed, and no other. -/
theorem Port.eachVc_vc (x : Port) (f : Nat → VcState → VcState) (n v : Nat) : (x.eachVc n f).vc v = if v < n then f v (x.vc v) else x.vc v := by
  induction n with
  | zero => rfl
  | succ n ih =>
    rw [Port.eachVc_succ]
    by_cases h : v = n
    · subst h; simp [ih]
    · rw [Port.vc_updVc_other _ _ h, ih]
      simp only [show (v < n + 1) = (v < n) from propext (by omega)]

/-- Nothing of the port but its channels changes. -/
theorem Port.eachVc_frame (x : Port) (f : Nat → VcState → VcState) (n : Nat) : x.eachVc n f = { x with vcs := (x.eachVc n f).vcs } := by
  induction n with
  | zero => rfl
  | succ n ih =>
    rw [Port.eachVc_succ, ih]
    rfl

theorem Port.newEpochs_eq (x : Port) : x.newEpochs = x.eachVc 8 (fun _ c => { c with epoch := (c.epoch + 1) % 256 }) := rfl
/-- Advancing the epochs changes the epochs of the eight collective channels. -/
theorem Port.newEpochs_frame (x : Port) : ∃ vcs, x.newEpochs = { x with vcs := vcs } := ⟨_, x.eachVc_frame _ _⟩
theorem Port.newEpochs_epoch (x : Port) {v : Nat} (h : v < 8) : (x.newEpochs.vc v).epoch = ((x.vc v).epoch + 1) % 256 := by
  rw [Port.newEpochs_eq, Port.eachVc_vc, if_pos h]
theorem Port.newEpochs_unacked (x : Port) (v : Nat) : (x.newEpochs.vc v).unacked = (x.vc v).unacked := by
  rw [Port.newEpochs_eq, Port.eachVc_vc]
  split <;> rfl

/-- A dropped channel. -/
def VcState.dropped (c : VcState) : VcState := { c with out := [], inMsg := [], inOpen := false, unacked := [], heldAcks := [] }
/-- A port whose channels are dropped, with the rest of what it holds. -/
def Port.emptied (x : Port) : Port := { x with replay := [], resend := [], acks := [], nak := false, replayTries := 0 }
theorem Port.drop_eq (x : Port) : x.drop = (x.eachVc 11 (fun _ => VcState.dropped)).emptied := by
  unfold Port.drop Port.eachVc Port.emptied
  rfl
theorem Port.emptied_vc (x : Port) (v : Nat) : x.emptied.vc v = x.vc v := rfl
theorem Port.drop_epoch (x : Port) (v : Nat) : (x.drop.vc v).epoch = (x.vc v).epoch := by
  rw [Port.drop_eq, Port.emptied_vc, Port.eachVc_vc]
  split <;> rfl
theorem Port.drop_frame (x : Port) : ∃ vcs, x.drop = { x.emptied with vcs := vcs } := by
  rw [Port.drop_eq, Port.eachVc_frame]
  exact ⟨_, rfl⟩

/-! ## Replay (R285, R286) -/

/-- A channel whose messages up to a sequence number have arrived. -/
def VcState.acked (c : VcState) (ack now : Nat) : VcState :=
  { c with unacked := c.unacked.map (fun u => if u.2.isNone && seqLe u.1 ack then (u.1, some (now + 3000)) else u) }
/-- What an acknowledgement takes from the replay buffer. -/
def Port.released (x : Port) (ack : Nat) : Port :=
  let rest := x.replay.filter (fun r => !seqLe r.1 ack)
  { x with replay := rest, resend := x.resend.filter (fun r => !seqLe r ack),
           replayTries := if rest.length < x.replay.length then 0 else x.replayTries }
theorem Port.acked_eq (x : Port) (ack now : Nat) : x.acked ack now = (x.released ack).eachVc 11 (fun _ c => c.acked ack now) := by
  unfold Port.acked Port.eachVc Port.released
  rfl
theorem Port.acked_frame (x : Port) (ack now : Nat) : ∃ vcs, x.acked ack now = { x.released ack with vcs := vcs } := by
  rw [Port.acked_eq, Port.eachVc_frame]
  exact ⟨_, rfl⟩

theorem exec_nakReplay {p : Nat} {s : State} (ack : Nat) (hp : p < 16) (hup : (s.port p).up = true) :
    exec (.nakReplay p ack) s = .next (s.setPort p ((((s.port p).acked (ack % 2 ^ 24) s.dtb).startReplay).retime s.dtb)) := by
  show execNakReplay p ack s = _
  simp [execNakReplay, hup, Nat.not_le.2 hp]

/-- Settles O32: an acknowledgement only filters the replay buffer, and a replay only restarts its times. -/
theorem replayKeepsTheBuffer : Obligations.ReplayKeepsTheBuffer := by
  intro p s hp hup
  refine ⟨fun ack => ⟨_, exec_nakReplay ack hp hup, rfl, fun k hk => State.port_setPort_other _ _ hk, ?_⟩, fun r rest hr hres => ⟨fun h => ?_, fun h => ?_⟩,
    fun h => ?_, fun h => ?_⟩
  · generalize ack % 2 ^ 24 = a
    obtain ⟨vcs, h⟩ := (s.port p).acked_frame a s.dtb
    rw [State.port_setPort_self, h]
    exact ⟨rfl, rfl, rfl, rfl, rfl⟩
  · show execReplayTimeout p s = _
    simp [execReplayTimeout, hr, Nat.not_le.2 hp, Nat.not_le.2 h]
  · show execReplayTimeout p s = _
    simp [execReplayTimeout, hr, hup, hres, Nat.not_le.2 hp, h, Port.startReplay, Port.retime]
  · show execLaneRelock p s = _
    simp [execLaneRelock, hup, Nat.not_le.2 hp, h, Port.retime]
  · show execLaneRelock p s = _
    simp [execLaneRelock, Nat.not_le.2 hp, Nat.not_le.2 h]

/-! ## What is told of a port's fate -/

/-- From `s` to `t` only the time base, the functions, the journal, what leaves the module and the free values' counter change. -/
def State.Told (s t : State) : Prop := t = { s with time := t.time, fns := t.fns, out := t.out, fw := t.fw, freeCtr := t.freeCtr }

theorem State.Told.refl (s : State) : s.Told s := rfl
theorem State.Told.trans {s t u : State} (h : s.Told t) (k : t.Told u) : s.Told u := by
  unfold State.Told at *
  rw [k, h]
theorem State.event_told (s : State) (e : Event) : s.Told (s.event e) := by
  unfold State.Told
  rw [State.event_frame]
theorem State.jEvent_told (s : State) (st n : Nat) (p : Option Nat) (b : List Byte) : s.Told (s.jEvent st n p b) := rfl
theorem State.linkEvent_told (s : State) (st p : Nat) : s.Told (s.linkEvent st p) := s.event_told _
theorem State.timeRefresh_told (s : State) : s.Told s.timeRefresh := rfl
theorem State.unlock_told (s : State) : s.Told s.unlock := by
  unfold State.Told
  rw [State.unlock_frame]
theorem State.offset_told (s : State) (theta : Int) : s.Told (s.offset theta) := by
  unfold State.offset
  extract_lets ts m near n src s1
  have taken : s.Told s1 := rfl
  split
  · exact (taken.trans s1.unlock_told).trans (State.timeRefresh_told _)
  · exact taken.trans s1.timeRefresh_told

section Told
variable {s t : State} (h : s.Told t)
include h
theorem State.Told.port (k : Nat) : t.port k = s.port k := by rw [h]; rfl
theorem State.Told.cores : t.cores = s.cores := by rw [h]
theorem State.Told.hbm : t.hbm = s.hbm := by rw [h]
theorem State.Told.parts : t.parts = s.parts := by rw [h]
end Told

/-! ## Training (R275, R277) -/

/-- A channel after training: all credits, nothing received in part. -/
def VcState.trained (v : Nat) (c : VcState) : VcState :=
  { c with credits := vcBuffers v, freed := 0, withheld := 0, peerFreed := 0, inMsg := [], inOpen := false }

/-- A port with the rest of what training sets. -/
def Port.started (x : Port) (st : Nat) (q : PeerInfo) (now found : Nat) (low : Bool) : Port :=
  { x with state := st, peer := some q, laneRev := q.laneRev, polInv := q.polInv % 16, txSeq := 0, rxSeq := 0, nak := false,
           replay := [], resend := [], acks := [], replayTries := 0, hbDue := now, hbRecv := now, departed := false,
           lowRate := low, eqFound := some found }
theorem Port.trained_eq (x : Port) (st : Nat) (q : PeerInfo) (now eq : Nat) (low : Bool) :
    x.trained st q now eq low = (x.eachVc 11 VcState.trained).started st q now (x.eqFound.getD eq) low := by
  unfold Port.trained Port.eachVc Port.started
  rfl
theorem Port.trained_frame (x : Port) (st : Nat) (q : PeerInfo) (now eq : Nat) (low : Bool) :
    ∃ y : Port, x.trained st q now eq low = { x.started st q now (x.eqFound.getD eq) low with vcs := y.vcs } ∧
      ∀ v, v < 11 → y.vc v = (x.vc v).trained v := by
  refine ⟨x.eachVc 11 VcState.trained, ?_, fun v hv => (x.eachVc_vc VcState.trained 11 v).trans (if_pos hv)⟩
  rw [Port.trained_eq, Port.eachVc_frame]
  rfl

/-- The port as training leaves it. -/
def State.trainedPort (s : State) (p : Nat) (q : PeerInfo) : Port :=
  (s.port p).trained (s.trainedState p q) q s.dtb (Config.equaliser s.freeCtr p) (q.frost || s.power.state == 2)

theorem State.train_told (s : State) (p : Nat) (q : PeerInfo) : (s.setPort p (s.trainedPort p q)).Told (s.train p q) := by
  unfold State.train
  extract_lets st s1
  have taken : (s.setPort p (s.trainedPort p q)).Told s1 := rfl
  split
  · exact (taken.trans (s1.jEvent_told ..)).trans (State.linkEvent_told ..)
  · exact taken

/-- One port checks its peer against the module's position. -/
def State.checkPort (s : State) (p : Nat) : State :=
  let x := s.port p
  match x.peer with
  | none => s
  | some q =>
    if x.state != 2 && x.state != 3 && x.state != 5 then s else
    let st := s.trainedState p q
    let s1 := s.setPort p { x with state := st }
    if st = 5 && x.state != 5 then (s1.jEvent Config.stLinkMiscabled p none []).linkEvent Config.stLinkMiscabled p else s1

theorem State.recheckPorts_eq (s : State) : s.recheckPorts = (List.range 16).foldl State.checkPort s := rfl


/-- The port as a check of its peer leaves it. -/
def State.checkedPort (s : State) (p : Nat) : Port :=
  match (s.port p).peer with
  | none => s.port p
  | some q => if (s.port p).state != 2 && (s.port p).state != 3 && (s.port p).state != 5 then s.port p
    else { s.port p with state := s.trainedState p q }

/-- A check sets the port and tells of it; it does not change the time base. -/
theorem State.checkPort_spec (s : State) (p : Nat) :
    (s.setPort p (s.checkedPort p)).Told (s.checkPort p) ∧ (s.checkPort p).time = s.time ∨ s.checkPort p = s ∧ s.checkedPort p = s.port p := by
  unfold State.checkPort State.checkedPort
  extract_lets x
  cases x.peer with
  | none => exact .inr ⟨rfl, rfl⟩
  | some q =>
    dsimp only
    split
    · exact .inr ⟨rfl, rfl⟩
    · left
      split
      · exact ⟨(State.jEvent_told ..).trans (State.linkEvent_told ..), by rw [State.linkEvent, State.event_frame]; rfl⟩
      · exact ⟨rfl, rfl⟩

theorem State.checkPort_port (s : State) (p k : Nat) : (s.checkPort p).port k = if k = p then s.checkedPort p else s.port k := by
  rcases s.checkPort_spec p with ⟨told, -⟩ | ⟨same, port⟩
  · rw [told.port, State.port_setPort]
  · rw [same, port]
    split
    · next h => rw [h]
    · rfl
theorem State.checkPort_time (s : State) (p : Nat) : (s.checkPort p).time = s.time := by
  rcases s.checkPort_spec p with ⟨-, time⟩ | ⟨same, -⟩
  · exact time
  · rw [same]
/-- What a check finds depends on the port and the position alone. -/
theorem State.checkedPort_congr {s t : State} {p : Nat} (port : t.port p = s.port p) (time : t.time = s.time) :
    t.checkedPort p = s.checkedPort p := by
  have pos : ∀ q, t.trainedState p q = s.trainedState p q := fun q => by
    rw [State.trainedState, State.trainedState, State.posSet, State.posSet, time]
  unfold State.checkedPort
  simp only [port, pos]

/-- After the first `n` ports are checked. -/
theorem State.checkPorts_port (s : State) (n k : Nat) :
    ((List.range n).foldl State.checkPort s).port k = (if k < n then s.checkedPort k else s.port k) ∧
      ((List.range n).foldl State.checkPort s).time = s.time := by
  induction n with
  | zero => exact ⟨rfl, rfl⟩
  | succ n ih =>
    obtain ⟨port, time⟩ := ih
    rw [List.range_succ, List.foldl_append]
    refine ⟨?_, (State.checkPort_time _ _).trans time⟩
    refine (State.checkPort_port _ _ _).trans ?_
    by_cases h : k = n
    · subst h
      rw [if_pos rfl, if_pos (Nat.lt_succ_self _)]
      exact State.checkedPort_congr (port.trans (if_neg (Nat.lt_irrefl _))) time
    · rw [if_neg h, port]
      simp only [show (k < n + 1) = (k < n) from propext (by omega)]
theorem State.recheckPorts_port (s : State) {k : Nat} (h : k < 16) : s.recheckPorts.port k = s.checkedPort k :=
  (s.checkPorts_port 16 k).1.trans (if_pos h)
theorem State.recheckPorts_time (s : State) : s.recheckPorts.time = s.time := (s.checkPorts_port 16 0).2

theorem State.peerSet_power (s : State) (p : Nat) (q : PeerInfo) : (s.peerSet p q).power = s.power :=
  (State.timeRefresh_power _).trans (State.recheckPorts_keeps State.power (fun _ _ _ => rfl) (fun _ _ _ _ _ => rfl) (fun t e => by rw [State.event_frame]) _)
theorem State.peerSet_cores (s : State) (p : Nat) (q : PeerInfo) : (s.peerSet p q).cores = s.cores :=
  (State.timeRefresh_told _).cores.trans (State.recheckPorts_keeps State.cores (fun _ _ _ => rfl) (fun _ _ _ _ _ => rfl) (fun t e => by rw [State.event_frame]) _)

theorem exec_linkTrained {p : Nat} {q : PeerInfo} {s : State} (hp : p < 16) (on : s.power.off = false) (free : s.pcie.held = false)
    (enabled : (s.port p).disable = false) (cable : (s.port p).cblHigh = false) : exec (.linkTrained p q) s =
      if (s.port p).state ≤ 1 then .next (s.train p q)
      else if (s.port p).state = 2 then .next ((s.peerSet p q).peerFrost p q)
      else if (s.port p).state = 3 then .next (s.peerFrost p q)
      else .next s := by
  show execLinkTrained p q s = _
  simp [execLinkTrained, on, free, enabled, cable, Nat.not_le.2 hp]
theorem exec_portRetrain {p : Nat} {q : Option PeerInfo} {s : State} (hp : p < 16) (on : s.power.off = false) (free : s.pcie.held = false)
    (lost : (s.port p).state = 4) (due : (s.port p).lossAt + 10000000 ≤ s.dtb) : exec (.portRetrain p q) s = match q with
      | none => .next (s.setPort p { s.port p with lossAt := s.dtb })
      | some q => .next (s.train p q) := by
  show execPortRetrain p q s = _
  cases q <;> simp [execPortRetrain, on, free, lost, Nat.not_le.2 hp, Nat.not_lt.2 due]

/-- A port fresh from its training, and nothing else of the ports, cores, partitions or HBM changed. -/
structure State.Trained (s : State) (p : Nat) (q : PeerInfo) (t : State) : Prop where
  state : (t.port p).state = s.trainedState p q
  peer : (t.port p).peer = some q
  txSeq : (t.port p).txSeq = 0
  rxSeq : (t.port p).rxSeq = 0
  replay : (t.port p).replay = []
  acks : (t.port p).acks = []
  lowRate : (t.port p).lowRate = (q.frost || s.power.state == 2)
  eqKept : ∀ e, (s.port p).eqFound = some e → (t.port p).eqFound = some e
  eqFound : (t.port p).eqFound.isSome = true
  vcs : ∀ v, v < 11 → (t.port p).vc v = ((s.port p).vc v).trained v
  others : ∀ k, k ≠ p → t.port k = s.port k
  cores : t.cores = s.cores
  hbm : t.hbm = s.hbm
  parts : t.parts = s.parts

theorem State.train_trained (s : State) (p : Nat) (q : PeerInfo) : s.Trained p q (s.train p q) := by
  have told := s.train_told p q
  obtain ⟨y, frame, vcs⟩ := (s.port p).trained_frame (s.trainedState p q) q s.dtb (Config.equaliser s.freeCtr p) (q.frost || s.power.state == 2)
  have port : (s.train p q).port p = { (s.port p).started (s.trainedState p q) q s.dtb
      ((s.port p).eqFound.getD (Config.equaliser s.freeCtr p)) (q.frost || s.power.state == 2) with vcs := y.vcs } := by
    rw [told.port, State.port_setPort_self, ← frame]
    rfl
  constructor
  case vcs =>
    intro v hv
    rw [port]
    exact vcs v hv
  case others => exact fun k hk => (told.port k).trans (State.port_setPort_other _ _ hk)
  case cores => exact told.cores
  case hbm => exact told.hbm
  case parts => exact told.parts
  case eqKept =>
    intro e found
    rw [port]
    show some ((s.port p).eqFound.getD _) = _
    rw [found]
    rfl
  all_goals rw [port]; rfl

/-- Settles O29: training sets the port and tells of it; a live port takes what has changed at its peer. -/
theorem portsTrain : Obligations.PortsTrain := by
  intro p q s hp on free
  have fresh {t : State} (h : s.Trained p q t) : (t.port p).state = s.trainedState p q ∧ (t.port p).peer = some q ∧ (t.port p).txSeq = 0 ∧
       (t.port p).rxSeq = 0 ∧ (t.port p).replay = [] ∧ (t.port p).acks = [] ∧ (t.port p).lowRate = (q.frost || s.power.state == 2) ∧
       (∀ e, (s.port p).eqFound = some e → (t.port p).eqFound = some e) ∧ (t.port p).eqFound.isSome = true ∧
       (∀ v, v < 11 → ((t.port p).vc v).credits = vcBuffers v ∧ ((t.port p).vc v).freed = 0 ∧
         ((t.port p).vc v).epoch = ((s.port p).vc v).epoch ∧ ((t.port p).vc v).out = ((s.port p).vc v).out) ∧
       (∀ k, k ≠ p → t.port k = s.port k) ∧ t.cores = s.cores ∧ t.hbm = s.hbm ∧ t.parts = s.parts :=
    ⟨h.state, h.peer, h.txSeq, h.rxSeq, h.replay, h.acks, h.lowRate, h.eqKept, h.eqFound,
      fun v hv => by rw [h.vcs v hv]; exact ⟨rfl, rfl, rfl, rfl⟩, h.others, h.cores, h.hbm, h.parts⟩
  refine ⟨fun enabled cable down => ?_, fun enabled cable unchecked => ?_, fun enabled cable up => ?_, fun lost due => ⟨?_, ?_⟩⟩
  · exact ⟨_, by rw [exec_linkTrained hp on free enabled cable, if_pos down], fresh (s.train_trained p q)⟩
  · refine ⟨_, by rw [exec_linkTrained hp on free enabled cable, if_neg (by omega), if_pos unchecked], ?_⟩
    have port : (s.peerSet p q).port p = { s.port p with peer := some q, state := s.trainedState p q } := by
      refine (State.timeRefresh_told _).port p |>.trans ?_
      rw [State.recheckPorts_port _ hp, State.checkedPort, State.port_setPort_self]
      simp [unchecked]
      rfl
    rw [State.peerFrost, State.updPort_eq, State.port_setPort_self, port, State.peerSet_power]
    exact ⟨rfl, rfl, rfl, rfl, (State.setPort_cores ..).trans (s.peerSet_cores p q)⟩
  · rw [exec_linkTrained hp on free enabled cable, if_neg (by omega), if_neg (by omega), if_pos up]
    rfl
  · exact ⟨_, exec_portRetrain hp on free lost due, fresh (s.train_trained p q)⟩
  · exact exec_portRetrain hp on free lost due

end Sys2Proof.Machine
end

section
-- One proof after another: the stacks of proofs that wait for each other count against the check's memory limit.
set_option Elab.async false
namespace Sys2Proof.Machine

/-! ## Heartbeats and lost peers (R287 to R290) -/

theorem State.stepDtb_told (s : State) (v : Int) : s.Told (s.stepDtb v) := rfl

/-- The port as a heartbeat leaves it. -/
def State.beatenPort (s : State) (p : Nat) (hb : Heartbeat) : Port :=
  { s.port p with
    hbPrevTx := hb.tSend
    hbPrevRx := hb.arrival
    hbRecv := s.dtb
    hbMissed := satAdd 0xFFFF (s.port p).hbMissed ((s.dtb - (s.port p).hbRecv + 500) / 1000 - 1) }
theorem State.heartbeat_told (s : State) (p : Nat) (hb : Heartbeat) : (s.setPort p (s.beatenPort p hb)).Told (s.heartbeat p hb) := by
  unfold State.heartbeat
  extract_lets s1 src s2 s3
  have taken : (s.setPort p (s.beatenPort p hb)).Told s3 := rfl
  clear_value s3
  split
  · exact taken
  · split
    · split
      · extract_lets s4 src4
        have stepped : s3.Told s4 := rfl
        have lost : s4.Told { s4 with time := { s4.time with dtbLost := true } } := rfl
        split
        · exact taken.trans stepped
        · exact (taken.trans stepped).trans lost
      · exact taken
    · split
      · split
        · exact taken.trans (s3.stepDtb_told _)
        · exact taken.trans (s3.offset_told _)
      · exact taken

/-- Each channel of the port may have more to send; nothing else of the port differs. -/
structure Port.Sends (x y : Port) : Prop where
  frame : y = { x with vcs := y.vcs }
  vc : ∀ v, y.vc v = { x.vc v with out := (y.vc v).out }
theorem Port.Sends.refl (x : Port) : x.Sends x := ⟨rfl, fun _ => rfl⟩
theorem Port.Sends.trans {x y z : Port} (h : x.Sends y) (k : y.Sends z) : x.Sends z :=
  ⟨by rw [k.frame, h.frame], fun v => by rw [k.vc v, h.vc v]⟩
theorem Port.Sends.epoch {x y : Port} (h : x.Sends y) (v : Nat) : (y.vc v).epoch = (x.vc v).epoch := by rw [h.vc v]
theorem Port.sends_updVc (x : Port) (v : Nat) (out : VcState → List OutMsg) : x.Sends (x.updVc v (fun c => { c with out := out c })) := by
  refine ⟨rfl, fun w => ?_⟩
  by_cases h : w = v
  · subst h
    rw [Port.vc_updVc_self]
  · rw [Port.vc_updVc_other _ _ h]

/-- From `s` to `t` ports have more to send, and units of partitions and channels change; cores and HBM do not. -/
structure State.Sends (s t : State) : Prop where
  port : ∀ k, (s.port k).Sends (t.port k)
  cores : t.cores = s.cores
  hbm : t.hbm = s.hbm
theorem State.Sends.refl (s : State) : s.Sends s := ⟨fun _ => .refl _, rfl, rfl⟩
theorem State.Sends.trans {s t u : State} (h : s.Sends t) (k : t.Sends u) : s.Sends u :=
  ⟨fun i => (h.port i).trans (k.port i), k.cores.trans h.cores, k.hbm.trans h.hbm⟩
theorem State.Sends.same {s t : State} (ports : t.ports = s.ports := by rfl) (cores : t.cores = s.cores := by rfl)
    (hbm : t.hbm = s.hbm := by rfl) : s.Sends t :=
  ⟨fun k => by rw [State.port, State.port, ports]; exact .refl _, cores, hbm⟩
theorem State.Sends.foldl {β : Type} {f : State → β → State} (h : ∀ (s : State) b, s.Sends (f s b)) (l : List β) (s : State) :
    s.Sends (l.foldl f s) := by
  induction l generalizing s with
  | nil => exact .refl s
  | cons b r ih => exact (h s b).trans (ih _)
theorem State.sendMsg_sends (s : State) (p v beat : Nat) (b : List Byte) : s.Sends (s.sendMsg p v beat b) := by
  refine ⟨fun k => ?_, rfl, rfl⟩
  rw [State.sendMsg, State.updPort_eq, State.port_setPort]
  split
  · next h => rw [h]; exact Port.sends_updVc ..
  · exact .refl _
theorem State.completeIf_sends (s : State) (f : Fn) (n post st d : Nat) (r : List Byte) : s.Sends (s.completeIf f n post st d r) := by
  unfold State.completeIf
  dsimp only
  split
  · rw [State.complete_frame]
    exact .same
  · exact .refl s
theorem State.endLoad_sends (s : State) (p st w : Nat) (down : Bool) : s.Sends (s.endLoad p st w down) := by
  unfold State.endLoad
  split
  · extract_lets s1 s2 s3 s4
    have sent : s.Sends s1 := by
      unfold s1
      split
      · exact s.sendMsg_sends ..
      · exact .refl s
    have freed : s2.Sends s3 := by
      unfold s3
      split
      · exact .same
      · exact .refl s2
    have ended : s.Sends s4 := ((sent.trans .same).trans freed).trans (s3.completeIf_sends ..)
    split
    · exact ended.trans (s4.completeIf_sends ..)
    · exact ended
  · exact .refl s
theorem State.loadPeerLost_sends (s : State) (port : Nat) : s.Sends (s.loadPeerLost port) :=
  .foldl (fun t p => by
    dsimp only
    split
    · exact .refl t
    · split
      · exact t.endLoad_sends ..
      · split
        · exact t.endLoad_sends ..
        · exact .refl t) _ s

/-- Reporting to the groups over a port changes their partitions. -/
theorem State.reportGroups_frame (s : State) (st port : Nat) (ok : Image → List Byte → Bool) :
    ∃ parts, s.reportGroups st port ok = { s with parts := parts } := by
  unfold State.reportGroups
  generalize List.range 16 = l
  suffices h : ∀ (l : List Nat) (t : State), (∃ parts, t = { s with parts := parts }) →
      ∃ parts, l.foldl (fun t q => if s.groupOver q port ok then t.report q st port 0xFFFFFFFFFFFF ⟨2, port⟩ else t) t = { s with parts := parts } from
    h l s ⟨_, rfl⟩
  intro l
  induction l with
  | nil => exact fun _ h => h
  | cons q r ih =>
    rintro t ⟨parts, rfl⟩
    refine ih _ ?_
    dsimp only
    split
    · exact ⟨_, rfl⟩
    · exact ⟨parts, rfl⟩

/-- A port in LOST, with the counts of the port before. -/
def Port.lost (y x : Port) (now : Nat) : Port :=
  { y with
    state := 4
    lossAt := now
    losses := satAdd 0xFFFF x.losses 1
    hbMissed := satAdd 0xFFFF x.hbMissed 4 }
theorem Port.lost_vc (y x : Port) (now v : Nat) : (y.lost x now).vc v = y.vc v := rfl
/-- The port as the loss of its peer leaves it. -/
def State.lostPort (s : State) (p : Nat) : Port := (s.port p).drop.newEpochs.lost (s.port p) s.dtb
theorem State.losePeer_sends (s : State) (p : Nat) : (s.setPort p (s.lostPort p)).Sends (s.losePeer p) := by
  unfold State.losePeer
  extract_lets +onlyGivenNames x src s1 s2 s3 src2 s4
  have reported : s1.Sends s2 := by
    obtain ⟨parts, frame⟩ := s1.reportGroups_frame Config.stPeerLost p (fun _ _ => true)
    rw [show s2 = _ from frame]
    exact .same
  have told : s2.Sends s4 := by
    unfold s4 s3
    split
    · exact .same
    · exact .same
  have event : s4.Sends (s4.timeRefresh.linkEvent Config.stPeerLost p) := by
    have told := (s4.timeRefresh_told).trans (s4.timeRefresh.linkEvent_told Config.stPeerLost p)
    exact ⟨fun k => by rw [told.port]; exact .refl _, told.cores, told.hbm⟩
  exact ((reported.trans told).trans event).trans (State.loadPeerLost_sends _ _)

/-- A lost port is in LOST and holds nothing for replay. -/
theorem State.lostPort_frame (s : State) (p : Nat) : ∃ vcs, s.lostPort p = { (s.port p).emptied.lost (s.port p) s.dtb with vcs := vcs } := by
  obtain ⟨vcs, dropped⟩ := (s.port p).drop_frame
  obtain ⟨vcs2, advanced⟩ := (s.port p).drop.newEpochs_frame
  unfold State.lostPort
  rw [advanced, dropped]
  exact ⟨vcs2, rfl⟩
theorem State.lostPort_epoch (s : State) (p : Nat) {v : Nat} (h : v < 8) :
    ((s.lostPort p).vc v).epoch = (((s.port p).vc v).epoch + 1) % 256 := by
  rw [State.lostPort, Port.lost_vc, Port.newEpochs_epoch _ h, Port.drop_epoch]

theorem peerLost_lost {s t : State} {p : Nat} (lost : (s.setPort p (s.lostPort p)).Sends t) :
    (t.port p).state = 4 ∧ (t.port p).lossAt = s.dtb ∧ (t.port p).losses = satAdd 0xFFFF (s.port p).losses 1 ∧ (t.port p).replay = [] ∧
      (t.port p).peer = (s.port p).peer ∧ (∀ v, v < 8 → ((t.port p).vc v).epoch = (((s.port p).vc v).epoch + 1) % 256) ∧
      (∀ k, k ≠ p → (t.port k).state = (s.port k).state) ∧ t.cores = s.cores ∧ t.hbm = s.hbm := by
  have sends := lost.port p
  rw [State.port_setPort_self] at sends
  obtain ⟨vcs, frame⟩ := s.lostPort_frame p
  have port : t.port p = { s.lostPort p with vcs := (t.port p).vcs } := sends.frame
  refine ⟨?_, ?_, ?_, ?_, ?_, fun v hv => ?_, fun k hk => ?_, lost.cores, lost.hbm⟩
  case refine_6 => exact (sends.epoch v).trans (s.lostPort_epoch p hv)
  case refine_7 =>
    rw [(lost.port k).frame, State.port_setPort_other _ _ hk]
  all_goals
    rw [port, frame]
    rfl

/-- Whether an acknowledgement's deadline has passed. -/
def ackLate (now : Nat) (u : Nat × Option Nat) : Bool :=
  match u.2 with
  | some d => decide (d ≤ now)
  | none => false
/-- A port that counts a late acknowledgement, with the count of the port before. -/
def Port.countLate (y x : Port) : Port := { y with ackLate := satAdd 0xFFFF x.ackLate 1 }
theorem Port.countLate_vc (y x : Port) (v : Nat) : (y.countLate x).vc v = y.vc v := rfl
/-- The port as a late acknowledgement leaves it: the entry is gone, the epochs advance. -/
def State.latePort (s : State) (p v : Nat) : Port :=
  ((s.port p).updVc v (fun c => { c with unacked := c.unacked.eraseP (ackLate s.dtb) })).newEpochs.countLate (s.port p)

theorem exec_beatAckDeadline {p v : Nat} {s : State} (hp : p < 16) (hv : v < 11) (up : (s.port p).up = true)
    (late : ∃ e d, (e, some d) ∈ ((s.port p).vc v).unacked ∧ d ≤ s.dtb) : ∃ u parts, (s.setPort p (s.latePort p v)).Told u ∧
      exec (.beatAckDeadline p v) s = .next { u with parts := parts } := by
  have any : ((s.port p).vc v).unacked.any (ackLate s.dtb) = true := by
    obtain ⟨e, d, mem, due⟩ := late
    exact List.any_eq_true.2 ⟨_, mem, decide_eq_true due⟩
  obtain ⟨parts, frame⟩ := (((s.setPort p (s.latePort p v)).linkEvent Config.stBeatAckLate p).linkEvent Config.stPeerLost p).reportGroups_frame
    Config.stPeerLost p (fun im r => im.chan (Gr.vcOrd r) == v)
  refine ⟨_, parts, (State.linkEvent_told _ Config.stBeatAckLate p).trans (State.linkEvent_told _ Config.stPeerLost p), ?_⟩
  show execBeatAckDeadline p v s = _
  rw [execBeatAckDeadline, if_neg (by simp; omega)]
  have missed : ¬(!(s.port p).up || !((s.port p).vc v).unacked.any (ackLate s.dtb)) = true := by simp [up, any]
  exact (if_neg missed).trans (congrArg Host.Outcome.next frame)

theorem State.latePort_unacked (s : State) (p v : Nat) (late : ∃ e d, (e, some d) ∈ ((s.port p).vc v).unacked ∧ d ≤ s.dtb) :
    ((s.latePort p v).vc v).unacked.length + 1 = ((s.port p).vc v).unacked.length := by
  obtain ⟨e, d, mem, due⟩ := late
  rw [State.latePort, Port.countLate_vc, Port.newEpochs_unacked, Port.vc_updVc_self]
  dsimp only
  rw [List.length_eraseP_of_mem mem (decide_eq_true due)]
  have := List.length_pos_of_mem mem
  omega
theorem State.latePort_epoch (s : State) (p v : Nat) {w : Nat} (h : w < 8) :
    ((s.latePort p v).vc w).epoch = (((s.port p).vc w).epoch + 1) % 256 := by
  rw [State.latePort, Port.countLate_vc, Port.newEpochs_epoch _ h]
  by_cases same : w = v
  · subst same
    rw [Port.vc_updVc_self]
  · rw [Port.vc_updVc_other _ _ same]
theorem State.latePort_frame (s : State) (p v : Nat) : ∃ vcs, s.latePort p v = { (s.port p).countLate (s.port p) with vcs := vcs } := by
  obtain ⟨vcs, advanced⟩ := ((s.port p).updVc v (fun c => { c with unacked := c.unacked.eraseP (ackLate s.dtb) })).newEpochs_frame
  unfold State.latePort
  rw [advanced]
  exact ⟨vcs, rfl⟩

/-- Appending one entry. -/
theorem FwState.append_nextSeq (f : FwState) (e : JEntry) :
    (f.append e).nextSeq = f.nextSeq + 1 + (if f.journal.length + 2 ≤ journalCap then 0 else 1) := by
  have block : journalBlock ≤ journalCap - 2 := by decide
  rcases f.append_cases e with ⟨room, h⟩ | ⟨full, t, b, h⟩
  · rw [h, if_pos room]
    simp [FwState.nextSeq]
    omega
  · rw [h, if_neg (by omega)]
    simp [FwState.nextSeq]
    omega

/-- Settles O33: what each of the four events sets at the port, and that what it tells of changes no port. -/
theorem peersAreTracked : Obligations.PeersAreTracked := by
  intro p s hp up
  refine ⟨fun hb on free => ?_, fun early => ?_, fun due => ?_, fun v hv late => ?_, ?_⟩
  · have told := s.heartbeat_told p hb
    have port : (s.heartbeat p hb).port p = s.beatenPort p hb := (told.port p).trans (State.port_setPort_self ..)
    refine ⟨_, show execHeartbeatReceive p hb s = _ by simp [execHeartbeatReceive, up, on, free, Nat.not_le.2 hp], ?_, ?_, ?_, ?_, ?_,
      fun k hk => (told.port k).trans (State.port_setPort_other _ _ hk), told.cores, told.parts, told.hbm⟩
    all_goals rw [port]; rfl
  · show execPeerLost p s = _
    simp [execPeerLost, Nat.not_le.2 hp, Nat.not_le.2 early]
  · refine ⟨s.losePeer p, ?_, peerLost_lost (s.losePeer_sends p)⟩
    show execPeerLost p s = _
    simp [execPeerLost, up, Nat.not_le.2 hp, due]
  · obtain ⟨u, parts, told, done⟩ := exec_beatAckDeadline hp hv up late
    refine ⟨_, done, ?_⟩
    have port : State.port { u with parts := parts } p = s.latePort p v := (told.port p).trans (State.port_setPort_self ..)
    rw [port]
    refine ⟨?_, s.latePort_unacked p v late, ?_, ?_, fun w hw => s.latePort_epoch p v hw,
      fun k hk => (told.port k).trans (State.port_setPort_other _ _ hk), told.cores, told.hbm⟩
    all_goals
      obtain ⟨vcs, frame⟩ := s.latePort_frame p v
      rw [frame]
      rfl
  · refine ⟨(s.setPort p { s.port p with departed := true }).jEvent Config.stOk p none [], ?_, ?_, ?_,
      fun k hk => State.port_setPort_other _ _ hk, FwState.append_nextSeq .., rfl, rfl⟩
    · show execDepartureNotice p s = _
      simp [execDepartureNotice, up, Nat.not_le.2 hp]
    · exact congrArg Port.departed (State.port_setPort_self ..)
    · exact State.port_setPort_self ..

end Sys2Proof.Machine
end

section
-- One proof after another: the stacks of proofs that wait for each other count against the check's memory limit.
set_option Elab.async false
namespace Sys2Proof.Machine

/-! ## What a flit says of itself (Table 13.3) -/

theorem leBytes_take (n k v : Nat) (h : k ≤ n) : (leBytes n v).take k = leBytes k v := by
  induction k generalizing n v with
  | zero => rfl
  | succ k ih =>
    cases n with
    | zero => omega
    | succ n => simp [leBytes, ih n (v / 256) (by omega)]
/-- A part of a list that the list holds whole. -/
theorem sub_of_le {l : List Byte} {a n : Nat} (h : a + n ≤ l.length) : sub l a n = (l.drop a).take n := by
  unfold sub
  simp
  omega
/-- The low bytes of a number at the head of a list. -/
theorem fld_leBytes (n k v : Nat) (r : List Byte) (h : k ≤ n) : fld (leBytes n v ++ r) 0 k = v % 256 ^ k := by
  rw [fld, sub_of_le (by simp; omega), List.drop_zero, List.take_append_of_le_length (by simpa using h), leBytes_take n k v h, leNat_leBytes]

/-- The header word of a flit. -/
def flitHead (ftype vc : Nat) (first last : Bool) (creditVc credit : Nat) (nak : Bool) (length : Nat) : Nat :=
  ftype + vc * 2 ^ 3 + b2n first * 2 ^ 7 + b2n last * 2 ^ 8 + length * 2 ^ 9 + creditVc * 2 ^ 17 + credit % 1024 * 2 ^ 21 + b2n nak * 2 ^ 31

section
variable (ftype vc : Nat) (first last : Bool) (creditVc credit : Nat) (nak : Bool) (seq epoch ack beat : Nat) (payload : List Byte)

theorem flitBytes_eq : ∃ words crc : List Byte, words.length = 16 ∧
    flitBytes ftype vc first last creditVc credit nak seq epoch ack beat payload =
      leBytes 4 (flitHead ftype vc first last creditVc credit nak payload.length) ++ (words ++ (sub payload 0 232 ++ crc)) :=
  ⟨leBytes 4 (seq % 2 ^ 24 + epoch % 256 * 2 ^ 24) ++ (leBytes 4 (ack % 2 ^ 24) ++ leBytes 8 (beat % 2 ^ 48)), _, by simp, by
    simp only [flitBytes, flitHead, List.append_assoc]
    rfl⟩

theorem flitOf_ftype (h : ftype < 8) :
    (flitOf (flitBytes ftype vc first last creditVc credit nak seq epoch ack beat payload)).ftype = ftype := by
  obtain ⟨words, crc, -, e⟩ := flitBytes_eq ftype vc first last creditVc credit nak seq epoch ack beat payload
  rw [e]
  show bits (fld _ 0 1) 2 0 = ftype
  rw [fld_leBytes 4 1 _ _ (by decide), bits, flitHead]
  omega
end

/-- A flit without further fields carries its payload. -/
theorem flitOf_payload (ftype : Nat) (payload : List Byte) (h : ftype < 8) (short : payload.length ≤ 232) :
    (flitOf (flitBytes ftype 0 false false 0 0 false 0 0 0 0 payload)).payload = payload := by
  obtain ⟨words, crc, long, e⟩ := flitBytes_eq ftype 0 false false 0 0 false 0 0 0 0 payload
  have count : fbits (flitBytes ftype 0 false false 0 0 false 0 0 0 0 payload) 0 16 9 = payload.length := by
    rw [e, fbits, fld_leBytes 4 _ _ _ (by decide), bits, flitHead]
    simp [b2n]
    omega
  have body : sub payload 0 232 = payload ++ List.replicate (232 - payload.length) 0 := by
    simp [sub, List.take_of_length_le short]
  show sub _ 20 (min 232 (fbits _ 0 16 9)) = payload
  rw [count, Nat.min_eq_right short, e, sub_of_le (by simp [long, body]; omega), body, ← List.append_assoc,
    List.drop_left' (by simp [long]), List.append_assoc, List.take_left' rfl]

theorem State.trainBytes_length (s : State) (p : Nat) : (s.trainBytes p).length = 25 := by
  have serial : serialBytes.length = 16 := by simp [serialBytes, serialValues]
  simp [State.trainBytes, serial]

/-! ## One flit slot (R280 to R287) -/

/-- From `s` to `t` only port `p` changes. -/
def State.OnlyPort (s : State) (p : Nat) (t : State) : Prop := t = { s with ports := t.ports } ∧ ∀ k, k ≠ p → t.port k = s.port k
theorem State.OnlyPort.refl (s : State) (p : Nat) : s.OnlyPort p s := ⟨rfl, fun _ _ => rfl⟩
theorem State.OnlyPort.trans {s t u : State} {p : Nat} (h : s.OnlyPort p t) (k : t.OnlyPort p u) : s.OnlyPort p u :=
  ⟨by rw [k.1, h.1], fun i hi => (k.2 i hi).trans (h.2 i hi)⟩
theorem State.OnlyPort.dtb {s t : State} {p : Nat} (h : s.OnlyPort p t) : t.dtb = s.dtb := by
  unfold State.dtb
  rw [h.1]
theorem State.setPort_onlyPort (s : State) (p : Nat) (x : Port) : s.OnlyPort p (s.setPort p x) :=
  ⟨rfl, fun _ hk => State.port_setPort_other _ _ hk⟩

/-- Port `p` alone changes, and the flits `fs` leave it. -/
def State.Sent (s : State) (p : Nat) (fs : List (List Byte)) (t : State) : Prop :=
  ∃ u, s.OnlyPort p u ∧ t = { u with out := { u.out with flits := u.out.flits ++ fs.map (fun f => (p, f)) } }
theorem State.Sent.of_only {s t u : State} {p : Nat} {fs : List (List Byte)} (h : s.OnlyPort p t) (k : t.Sent p fs u) : s.Sent p fs u := by
  obtain ⟨v, only, e⟩ := k
  exact ⟨v, h.trans only, e⟩
theorem State.OnlyPort.sent {s t : State} {p : Nat} (h : s.OnlyPort p t) : s.Sent p [] t := ⟨t, h, by simp⟩
theorem State.emit_sent {s t : State} {p : Nat} (h : s.OnlyPort p t) (f : List Byte) : s.Sent p [f] (t.emit p f) := ⟨t, h, rfl⟩
theorem State.Sent.out {s t : State} {p : Nat} {fs : List (List Byte)} (h : s.Sent p fs t) :
    t.out.flits = s.out.flits ++ fs.map (fun f => (p, f)) := by
  obtain ⟨u, ⟨frame, -⟩, rfl⟩ := h
  rw [frame]
theorem State.Sent.unique {s t : State} {p : Nat} {fs gs : List (List Byte)} (h : s.Sent p fs t) (k : s.Sent p gs t) : fs = gs := by
  have same := List.append_cancel_left (h.out.symm.trans k.out)
  exact (List.map_injective_iff.2 fun _ _ e => (Prod.mk.inj e).2) same
theorem State.Sent.frame {s t : State} {p : Nat} {fs : List (List Byte)} (h : s.Sent p fs t) :
    (∀ k, k ≠ p → t.port k = s.port k) ∧ t.cores = s.cores ∧ t.parts = s.parts ∧ t.hbm = s.hbm := by
  obtain ⟨u, ⟨frame, others⟩, rfl⟩ := h
  exact ⟨others, by rw [frame], by rw [frame], by rw [frame]⟩

/-- What a port is given of withheld credits and acknowledgements touches no channel of firmware. -/
structure Port.Given (x y : Port) : Prop where
  frame : y = { x with vcs := y.vcs, acks := y.acks }
  vc : ∀ v, 8 ≤ v → y.vc v = x.vc v
theorem Port.Given.trans {x y z : Port} (h : x.Given y) (k : y.Given z) : x.Given z :=
  ⟨by rw [k.frame, h.frame], fun v hv => (k.vc v hv).trans (h.vc v hv)⟩
/-- What one channel gives. -/
def State.giveVc (s : State) (p v : Nat) : State :=
  let c := (s.port p).vc v
  if (c.withheld == 0 && c.heldAcks.isEmpty) || s.earlyFull v || (s.chan v).flagWait || (s.chan v).heldMsgs.any (fun m => m.1 == p)
      || (c.inOpen && s.holds v c.inMsg)
      || (match s.loadChan v with | some q => (s.part q).ws.heldVia == some (p, v) && !(s.part q).ws.held.isEmpty | none => false) then s
  else
    let x := (s.port p).setVc v { c with freed := c.freed + c.withheld, withheld := 0, heldAcks := [] }
    s.setPort p { x with acks := x.acks ++ c.heldAcks.map (fun a => (v, a)) }
theorem State.giveCredits_eq (s : State) (p : Nat) : s.giveCredits p = (List.range 8).foldl (fun s v => s.giveVc p v) s := rfl
theorem State.giveVc_spec (s : State) (p : Nat) {v : Nat} (hv : v < 8) :
    s.OnlyPort p (s.giveVc p v) ∧ (s.port p).Given ((s.giveVc p v).port p) := by
  unfold State.giveVc
  extract_lets c x
  have given : s.OnlyPort p (s.setPort p { x with acks := x.acks ++ c.heldAcks.map (fun a => (v, a)) }) ∧
      (s.port p).Given ((s.setPort p { x with acks := x.acks ++ c.heldAcks.map (fun a => (v, a)) }).port p) := by
    refine ⟨s.setPort_onlyPort p _, ?_⟩
    rw [State.port_setPort_self]
    exact ⟨rfl, fun w hw => Port.vc_setVc_other _ _ (by omega)⟩
  have either (b : Bool) {t : State} (h : s.OnlyPort p t ∧ (s.port p).Given (t.port p)) :
      s.OnlyPort p (if b then s else t) ∧ (s.port p).Given ((if b then s else t).port p) := by
    cases b
    · exact h
    · exact ⟨.refl s p, rfl, fun _ _ => rfl⟩
  exact either _ given
theorem State.giveCredits_spec (s : State) (p : Nat) : s.OnlyPort p (s.giveCredits p) ∧ (s.port p).Given ((s.giveCredits p).port p) := by
  rw [State.giveCredits_eq]
  refine List.foldlRecOn (motive := fun t => s.OnlyPort p t ∧ (s.port p).Given (t.port p)) _ _ ⟨.refl s p, rfl, fun _ _ => rfl⟩
    fun t given v mem => ?_
  obtain ⟨only, port⟩ := given
  obtain ⟨only2, port2⟩ := t.giveVc_spec p (List.mem_range.1 mem)
  exact ⟨only.trans only2, port.trans port2⟩

theorem State.sendHeartbeat_spec (s : State) (p : Nat) : ∃ f, s.Sent p [f] (s.sendHeartbeat p) ∧ (flitOf f).ftype = 2 ∧
    (s.sendHeartbeat p).port p = { (s.port p).nextCredit with hbDue := s.dtb + 1000 } :=
  ⟨_, State.emit_sent (s.setPort_onlyPort p _) _, flitOf_ftype _ _ _ _ _ _ _ _ _ _ _ _ (by decide), State.port_setPort_self ..⟩
theorem State.sendSeq_sent {s t : State} {p : Nat} (h : s.OnlyPort p t) (ftype v : Nat) (first last : Bool) (beat : Nat) (b : List Byte) :
    ∃ f, s.Sent p [f] (t.sendSeq p ftype v first last beat b) :=
  ⟨_, State.emit_sent (h.trans (t.setPort_onlyPort p _)) _⟩
theorem State.sendData_sent {s t : State} {p : Nat} (h : s.OnlyPort p t) (v : Nat) :
    ∃ fs, fs.length ≤ 1 ∧ s.Sent p fs (t.sendData p v) := by
  unfold State.sendData
  extract_lets x
  split
  · exact ⟨[], by simp, h.sent⟩
  · exact ⟨[_], by simp, State.emit_sent (h.trans (t.setPort_onlyPort p _)) _⟩
/-- A message of a channel: its next flit takes a sequence number and a credit and joins the replay buffer. -/
theorem State.sendData_ready {s : State} {p v : Nat} (ready : ((s.port p).vc v).ready = true) : ∃ f, s.Sent p [f] (s.sendData p v) ∧
    ((s.sendData p v).port p).txSeq = ((s.port p).txSeq + 1) % 2 ^ 24 ∧
    (((s.sendData p v).port p).vc v).credits = ((s.port p).vc v).credits - 1 ∧
    ((s.sendData p v).port p).replay = (s.port p).replay ++ [(((s.port p).txSeq + 1) % 2 ^ 24, f, s.dtb)] := by
  unfold State.sendData
  extract_lets x
  split
  · next none =>
    simp [VcState.ready, x, none] at ready
  · extract_lets first last ep seq f y
    refine ⟨f, State.emit_sent (s.setPort_onlyPort p _) _, ?_, ?_, ?_⟩
    · exact congrArg Port.txSeq (State.port_setPort_self s p _)
    · refine (congrArg (fun z : Port => (z.vc v).credits) (State.port_setPort_self s p _)).trans ?_
      exact congrArg VcState.credits (Port.vc_updVc_self y v _)
    · exact congrArg Port.replay (State.port_setPort_self s p _)
theorem State.sendCollective_sent {s t : State} {p : Nat} (h : s.OnlyPort p t) (pick : Option (Nat × Port)) :
    ∃ fs, fs.length ≤ 1 ∧ s.Sent p fs (t.sendCollective p pick) := by
  unfold State.sendCollective
  split
  · exact State.sendData_sent (h.trans (t.setPort_onlyPort p _)) _
  · exact ⟨[_], by simp, State.emit_sent (h.trans (t.setPort_onlyPort p _)) _⟩
/-- With nothing to send an idle flit goes. -/
theorem State.sendCollective_idle (s : State) (p : Nat) : ∃ f, s.Sent p [f] (s.sendCollective p none) ∧ (flitOf f).ftype = 0 ∧
    (s.sendCollective p none).port p = { (s.port p).nextCredit with sinceControl := (s.port p).sinceControl + 1 } :=
  ⟨_, State.emit_sent (s.setPort_onlyPort p _) _, flitOf_ftype _ _ _ _ _ _ _ _ _ _ _ _ (by decide), State.port_setPort_self ..⟩

theorem State.flitSlot_sent (s : State) (p : Nat) : ∃ fs, fs.length ≤ 1 ∧ s.Sent p fs (s.flitSlot p) := by
  have none : s.OnlyPort p s := .refl s p
  unfold State.flitSlot
  extract_lets x
  split
  · obtain ⟨f, sent, -⟩ := s.sendHeartbeat_spec p
    exact ⟨[f], by simp, sent⟩
  · split
    · extract_lets s1
      have only : s.OnlyPort p s1 := s.setPort_onlyPort p _
      split
      · exact ⟨[_], by simp, State.emit_sent only _⟩
      · exact ⟨[], by simp, only.sent⟩
    · split
      · exact State.sendCollective_sent none _
      · split
        · obtain ⟨f, sent⟩ := State.sendSeq_sent (s.setPort_onlyPort p _) 3 _ false false _ _
          exact ⟨[f], by simp, sent⟩
        · split
          · exact State.sendData_sent none _
          · split
            · exact State.sendData_sent (s.setPort_onlyPort p _) _
            · exact State.sendCollective_sent none _

section
variable {s : State} {p : Nat}
theorem State.flitSlot_heartbeat (due : (s.port p).hbDue ≤ s.dtb) : s.flitSlot p = s.sendHeartbeat p := if_pos due
theorem State.flitSlot_full (early : s.dtb < (s.port p).hbDue) (none : (s.port p).resend = []) (full : (s.port p).room = false) :
    s.flitSlot p = s.sendCollective p .none := by
  unfold State.flitSlot
  dsimp only
  rw [if_neg (by omega), none]
  simp [full]
theorem State.flitSlot_data10 (early : s.dtb < (s.port p).hbDue) (none : (s.port p).resend = []) (room : (s.port p).room = true)
    (noAck : (s.port p).acks = []) (ready : ((s.port p).vc 10).ready = true) : s.flitSlot p = s.sendData p 10 := by
  unfold State.flitSlot
  dsimp only
  rw [if_neg (by omega), none, noAck]
  simp [room, ready]
end

theorem exec_flitTransmit_up {s : State} {p : Nat} (hp : p < 16) (on : s.power.off = false) (free : s.pcie.held = false)
    (up : (s.port p).up = true) : exec (.flitTransmit p) s = .next ((s.giveCredits p).flitSlot p) := by
  show execFlitTransmit p s = _
  simp [execFlitTransmit, on, free, up, Nat.not_le.2 hp]
theorem exec_flitTransmit_training {s : State} {p : Nat} (hp : p < 16) (on : s.power.off = false) (free : s.pcie.held = false)
    (training : (s.port p).state = 1 ∨ (s.port p).state = 5) :
    exec (.flitTransmit p) s = .next (s.emit p (flitBytes 4 0 false false 0 0 false 0 0 0 0 (s.trainBytes p))) := by
  show execFlitTransmit p s = _
  rcases training with h | h <;> simp [execFlitTransmit, on, free, Port.up, h, Nat.not_le.2 hp]

/-- The slot's flit, after credits are given: a due heartbeat, an idle flit for a full replay buffer, or a message of channel 10. -/
theorem State.flitSlot_leaves {s g : State} {p : Nat} (given : s.OnlyPort p g) (port : (s.port p).Given (g.port p)) :
    ∃ fs, fs.length ≤ 1 ∧ s.Sent p fs (g.flitSlot p) ∧
      ((g.port p).hbDue ≤ s.dtb → fs.length = 1 ∧ (∀ f, f ∈ fs → (flitOf f).ftype = 2) ∧ ((g.flitSlot p).port p).hbDue = s.dtb + 1000 ∧
        ((g.flitSlot p).port p).txSeq = (s.port p).txSeq ∧ ((g.flitSlot p).port p).replay = (s.port p).replay) ∧
      (s.dtb < (g.port p).hbDue → (g.port p).resend = [] → (g.port p).room = false → fs.length = 1 ∧ (∀ f, f ∈ fs → (flitOf f).ftype = 0) ∧
        ((g.flitSlot p).port p).txSeq = (s.port p).txSeq ∧ ((g.flitSlot p).port p).replay = (s.port p).replay) ∧
      (s.dtb < (g.port p).hbDue → (g.port p).resend = [] → (g.port p).room = true → (g.port p).acks = [] → ((g.port p).vc 10).ready = true →
        ((g.flitSlot p).port p).txSeq = ((s.port p).txSeq + 1) % 2 ^ 24 ∧
        (((g.flitSlot p).port p).vc 10).credits = ((s.port p).vc 10).credits - 1 ∧
        ∃ f, fs = [f] ∧ ((g.flitSlot p).port p).replay = (s.port p).replay ++ [(((g.flitSlot p).port p).txSeq, f, s.dtb)]) := by
  obtain ⟨fs, one, sent⟩ := g.flitSlot_sent p
  have tx : (g.port p).txSeq = (s.port p).txSeq := by rw [port.frame]
  have replay : (g.port p).replay = (s.port p).replay := by rw [port.frame]
  have vc : (g.port p).vc 10 = (s.port p).vc 10 := port.vc 10 (by decide)
  rw [← given.dtb]
  refine ⟨fs, one, sent.of_only given, fun due => ?_, fun early none full => ?_, fun early none room noAck ready => ?_⟩
  · obtain ⟨f, goes, type, left⟩ := g.sendHeartbeat_spec p
    rw [State.flitSlot_heartbeat due] at sent ⊢
    rw [sent.unique goes, left]
    exact ⟨rfl, by simpa using type, rfl, tx, replay⟩
  · obtain ⟨f, goes, type, left⟩ := g.sendCollective_idle p
    rw [State.flitSlot_full early none full] at sent ⊢
    rw [sent.unique goes, left]
    exact ⟨rfl, by simpa using type, tx, replay⟩
  · obtain ⟨f, goes, seq, credits, buffer⟩ := State.sendData_ready ready
    rw [State.flitSlot_data10 early none room noAck ready] at sent ⊢
    rw [seq, credits, buffer, tx, vc, replay]
    exact ⟨rfl, rfl, f, sent.unique goes, rfl⟩

/-- Settles O30: by the first eligible item of the slot. -/
theorem flitsLeave : Obligations.FlitsLeave := by
  refine ⟨fun p s hp on free up => ?_, fun p s hp on free training => ?_, fun p s hp on free up due => ?_⟩
  · obtain ⟨given, port⟩ := s.giveCredits_spec p
    have run := exec_flitTransmit_up hp on free up
    generalize s.giveCredits p = g at *
    obtain ⟨fs, one, sent, heartbeat, idle, data⟩ := State.flitSlot_leaves given port
    obtain ⟨others, cores, parts, hbm⟩ := sent.frame
    refine ⟨_, fs.map (fun f => (p, f)), run, sent.out, by simpa using one, by simp, others, cores, parts, hbm, fun due => ?_,
      fun early none full => ?_, fun early none room noAck ready => ?_⟩
    · obtain ⟨count, type, rest⟩ := heartbeat due
      exact ⟨by simpa using count, by simpa using type, rest⟩
    · obtain ⟨count, type, rest⟩ := idle early none full
      exact ⟨by simpa using count, by simpa using type, rest⟩
    · obtain ⟨seq, credits, f, one, buffer⟩ := data early none room noAck ready
      exact ⟨seq, credits, f, by rw [one]; rfl, buffer⟩
  · exact ⟨_, exec_flitTransmit_training hp on free training, flitOf_ftype _ _ _ _ _ _ _ _ _ _ _ _ (by decide),
      flitOf_payload _ _ (by decide) (by rw [State.trainBytes_length]; decide)⟩
  · obtain ⟨f, sent, type, port⟩ := s.sendHeartbeat_spec p
    refine ⟨_, f, ?_, sent.out, type, ?_, ?_, ?_, sent.frame.1⟩
    · show execHeartbeatSend p s = _
      simp [execHeartbeatSend, up, due, on, free, Nat.not_le.2 hp]
    · rw [port]
    all_goals
      rw [port]
      rfl

end Sys2Proof.Machine
end

section
-- One proof after another: the stacks of proofs that wait for each other count against the check's memory limit.
set_option Elab.async false
namespace Sys2Proof.Machine

/-! ## Interrupts (R410) -/

@[simp] theorem bit_ofAll {v : Nat} (h : v < 64) : bit (2 ^ 64 - 1) v = true := by
  rw [bit_eq_testBit, Nat.testBit_two_pow_sub_one]
  exact decide_eq_true h

theorem exec_msixUnmask {f : Fn} {v : Nat} (s : State) (hf : fnOk f = true) (hv : v < 64) : exec (.msixUnmask f v) s =
    .next (if bit (s.fn f).msixPend v then
        (s.setFn f { s.fn f with msixMask := setBit (s.fn f).msixMask v false, msixPend := setBit (s.fn f).msixPend v false }).irq f v
      else s.setFn f { s.fn f with msixMask := setBit (s.fn f).msixMask v false, msixPend := setBit (s.fn f).msixPend v false }) := by
  show execMsixUnmask f v s = _
  rw [execMsixUnmask, if_neg (by simp [hf, hv])]

/-- Unmasking clears the vector's mask and pending bits and sends the pending message. -/
theorem msixUnmask_spec {f : Fn} {v : Nat} (s : State) (hf : fnOk f = true) (hv : v < 64) : ∃ t, exec (.msixUnmask f v) s = .next t ∧
    t = { s with fns := t.fns, out := t.out } ∧
    t.fn f = { s.fn f with msixMask := setBit (s.fn f).msixMask v false, msixPend := setBit (s.fn f).msixPend v false } ∧
    t.out.irqs = (if bit (s.fn f).msixPend v = true then s.out.irqs ++ [(f, v)] else s.out.irqs) := by
  refine ⟨_, exec_msixUnmask s hf hv, ?_⟩
  split
  · have unmasked : bit ((s.setFn f { s.fn f with
        msixMask := setBit (s.fn f).msixMask v false, msixPend := setBit (s.fn f).msixPend v false }).fn f).msixMask v = false := by
      rw [State.fn_setFn_self, bit_setBit, if_pos rfl]
    rw [State.irq_unmasked unmasked]
    exact ⟨rfl, State.fn_setFn_self .., rfl⟩
  · exact ⟨rfl, State.fn_setFn_self .., rfl⟩

/-- Settles O56: a masked vector is a pending bit, an unmasked one a message. -/
theorem interruptsGoToTheirVectors : Obligations.InterruptsGoToTheirVectors := by
  refine ⟨fun f v s => ⟨State.irq_unmasked, fun masked => ?_⟩, fun f n st d r s asks unmasked => ?_, fun f b s room unmasked => ?_,
    fun f v s hf hv => ?_, fun f v s hv => ?_⟩
  · rw [State.irq_masked masked, State.fn_setFn_self]
    refine ⟨rfl, fun j => ?_, rfl, rfl⟩
    rw [bit_setBit]
    by_cases h : j = v <;> simp [h]
  · unfold State.complete
    dsimp only
    rw [asks, if_neg Bool.false_ne_true, State.irq_unmasked (by rw [State.fn_setSlot]; exact unmasked)]
    rfl
  · unfold State.eventTo
    dsimp only
    rw [if_neg room, State.irq_unmasked (by rw [State.fn_setFn_self]; exact unmasked)]
    refine ⟨rfl, ?_⟩
    refine (congrArg (fun x : FnState => Cells.get (fun _ => []) x.ring (s.fn f).evqTail) (State.fn_setFn_self ..)).trans ?_
    exact Cells.get_put_self ..
  · obtain ⟨t, run, -, fn, irqs⟩ := msixUnmask_spec s hf hv
    refine ⟨t, run, ?_, ?_, irqs⟩ <;> (rw [fn, bit_setBit, if_pos rfl])
  · show execMsixUnmask f v s = _
    rw [execMsixUnmask, if_pos (by simp [hv])]

/-! ## The mailbox (R412 to R416) -/

theorem State.take_slot_other (s : State) (f g : Fn) (n m : Nat) (h : ¬ (fnKey g = fnKey f ∧ m = n)) : (s.take f n).slot g m = s.slot g m := by
  have set : ∀ x, (s.setSlot f n x).slot g m = s.slot g m := fun x => by rw [State.slot_setSlot, if_neg h]
  unfold State.take
  extract_lets q s1
  split
  · rw [State.complete_slot, if_neg h, set]
  · split
    · rw [State.complete_slot, if_neg h, set]
    · exact set _
theorem State.take_frame (s : State) (f : Fn) (n : Nat) : s.take f n = { s with fns := (s.take f n).fns, out := (s.take f n).out } := by
  unfold State.take
  extract_lets q s1
  split
  · rw [State.complete_frame]
    rfl
  · split
    · rw [State.complete_frame]
      rfl
    · rfl

/-- What taking a command leaves in its slot. -/
structure Slot.Taken (q x : Slot) : Prop where
  ack : x.ack = true
  fields : (x.cmd, x.len, x.part, x.tag, x.postDtb, x.urgent, x.payload) = (q.cmd, q.len, q.part, q.tag, q.postDtb, q.urgent, q.payload)

theorem State.take_slot (s : State) (f : Fn) (n : Nat) : (s.slot f n).Taken ((s.take f n).slot f n) := by
  unfold State.take
  extract_lets q s1
  have slot : s1.slot f n = { q with ack := true } := State.slot_setSlot_self ..
  split
  · rw [State.complete_slot, if_pos ⟨rfl, rfl⟩, slot]
    exact ⟨rfl, rfl⟩
  · split
    · rw [State.complete_slot, if_pos ⟨rfl, rfl⟩, slot]
      exact ⟨rfl, rfl⟩
    · rw [slot]
      exact ⟨rfl, rfl⟩
theorem State.take_bad {s : State} {f : Fn} {n : Nat} (h : badCommand n (s.slot f n) = true) :
    (s.take f n).Completed f n Config.stBadCommand [] := by
  unfold State.take
  dsimp only
  rw [if_pos h]
  exact State.complete_completed ..
theorem State.take_good {s : State} {f : Fn} {n : Nat} (h : badCommand n (s.slot f n) = false) (serves : s.noService = false) :
    (s.take f n).slot f n = { s.slot f n with ack := true } := by
  unfold State.take
  dsimp only
  rw [h, if_neg Bool.false_ne_true, serves, Bool.false_and, if_neg Bool.false_ne_true, State.slot_setSlot_self]
theorem Slot.Taken.bad {q x : Slot} (h : q.Taken x) (n : Nat) : badCommand n x = badCommand n q := by
  obtain ⟨-, fields⟩ := h
  simp only [Prod.mk.injEq] at fields
  obtain ⟨cmd, -, -, -, -, urgent, -⟩ := fields
  unfold badCommand
  rw [cmd, urgent]

theorem State.irq_fn_other (s : State) {f g : Fn} (v : Nat) (h : fnKey g ≠ fnKey f) : (s.irq f v).fn g = s.fn g := by
  unfold State.irq
  split
  · exact State.fn_setFn_other _ _ h
  · rfl
theorem State.complete_fn_other (s : State) {f g : Fn} (n st d : Nat) (r : List Byte) (h : fnKey g ≠ fnKey f) :
    (s.complete f n st d r).fn g = s.fn g := by
  have set : ∀ x, (s.setSlot f n x).fn g = s.fn g := fun x => State.fn_setFn_other _ _ h
  unfold State.complete
  extract_lets q s1
  split
  · exact set _
  · exact (State.irq_fn_other _ _ h).trans (set _)
theorem State.take_fn_other (s : State) {f g : Fn} (n : Nat) (h : fnKey g ≠ fnKey f) : (s.take f n).fn g = s.fn g := by
  have set : ∀ x, (s.setSlot f n x).fn g = s.fn g := fun x => State.fn_setFn_other _ _ h
  unfold State.take
  extract_lets q s1
  split
  · exact (State.complete_fn_other _ _ _ _ _ h).trans (set _)
  · split
    · exact (State.complete_fn_other _ _ _ _ _ h).trans (set _)
    · exact set _
/-- Taking a command leaves what the function keeps beside its slots and pending bits. -/
theorem State.irq_lease (s : State) (f : Fn) (v : Nat) :
    (((s.irq f v).fn f).leaseDtb, ((s.irq f v).fn f).leaseLive) = ((s.fn f).leaseDtb, (s.fn f).leaseLive) := by
  unfold State.irq
  split
  · rw [State.fn_setFn_self]
  · rfl
theorem State.complete_lease (s : State) (f : Fn) (n st d : Nat) (r : List Byte) :
    (((s.complete f n st d r).fn f).leaseDtb, ((s.complete f n st d r).fn f).leaseLive) = ((s.fn f).leaseDtb, (s.fn f).leaseLive) := by
  have set : ∀ x, (((s.setSlot f n x).fn f).leaseDtb, ((s.setSlot f n x).fn f).leaseLive) = ((s.fn f).leaseDtb, (s.fn f).leaseLive) :=
    fun x => by rw [State.fn_setSlot]
  unfold State.complete
  extract_lets q s1
  split
  · exact set _
  · exact (State.irq_lease ..).trans (set _)
theorem State.take_lease (s : State) (f : Fn) (n : Nat) :
    (((s.take f n).fn f).leaseDtb, ((s.take f n).fn f).leaseLive) = ((s.fn f).leaseDtb, (s.fn f).leaseLive) := by
  have set : ∀ x, (((s.setSlot f n x).fn f).leaseDtb, ((s.setSlot f n x).fn f).leaseLive) = ((s.fn f).leaseDtb, (s.fn f).leaseLive) :=
    fun x => by rw [State.fn_setSlot]
  unfold State.take
  extract_lets q s1
  split
  · exact (State.complete_lease ..).trans (set _)
  · split
    · exact (State.complete_lease ..).trans (set _)
    · exact set _

/-- The slot's part that a POST writes: header, tag and payload. -/
def Slot.posted (q : Slot) (w0 w1 w2 w3 : Nat) (b : List Byte) (now : Nat) : Slot :=
  { q with
    post := bit w0 0
    urgent := bit w0 1
    w0 := w0 % 2 ^ 32
    cmd := bits w1 15 0
    len := bits w1 27 16
    part := bits w1 31 28
    tag := w2 % 2 ^ 32
    w3 := w3 % 2 ^ 32
    payload := b.take 4032 ++ q.payload.drop (min b.length 4032)
    postDtb := now, status := 0, ack := false, begun := false, done := false, detail := 0, resultLen := 0 }
theorem Slot.posted_payload (q : Slot) (w0 w1 w2 w3 : Nat) (b : List Byte) (now : Nat) :
    (q.posted w0 w1 w2 w3 b now).payload.take (min b.length 4032) = b.take 4032 := by
  show (b.take 4032 ++ q.payload.drop (min b.length 4032)).take (min b.length 4032) = b.take 4032
  exact List.take_left' (by simp [Nat.min_comm])

/-- The state in which a command stands posted. -/
def State.postedTo (s : State) (f : Fn) (n w0 w1 w2 w3 : Nat) (b : List Byte) : State :=
  (s.setSlot f n ((s.slot f n).posted w0 w1 w2 w3 b s.dtb)).setFn f
    { (s.setSlot f n ((s.slot f n).posted w0 w1 w2 w3 b s.dtb)).fn f with leaseDtb := s.dtb, leaseLive := true }

section
variable {s : State} {f : Fn} {n w0 w1 w2 w3 : Nat} {b : List Byte}
theorem mailboxPost_discards (hf : fnOk f = true) (hn : n < 32) (up : s.hostUp = true) (post : (s.slot f n).post = true)
    (held : (s.slot f n).done = false) : exec (.mailboxPost f n w0 w1 w2 w3 b) s =
      .next (s.setFn f { s.fn f with discards := satAdd 0xFFFFFFFF (s.fn f).discards 1 }) := by
  show execMailboxPost f n w0 w1 w2 w3 b s = _
  simp [execMailboxPost, hf, Nat.not_le.2 hn, up, post, held]
theorem mailboxPost_posts (hf : fnOk f = true) (hn : n < 32) (up : s.hostUp = true) (free : (s.slot f n).post = false ∨ (s.slot f n).done = true)
    (posts : bit w0 0 = true) : exec (.mailboxPost f n w0 w1 w2 w3 b) s =
      .next (if bit w0 1 || n = 31 then (s.postedTo f n w0 w1 w2 w3 b).take f n else s.postedTo f n w0 w1 w2 w3 b) := by
  have open_ : ((s.slot f n).post && !(s.slot f n).done) = false := by rcases free with h | h <;> simp [h]
  show execMailboxPost f n w0 w1 w2 w3 b s = _
  rw [execMailboxPost, if_neg (by simp [hf]; omega), if_neg (by simp [up])]
  dsimp only
  rw [open_, if_neg Bool.false_ne_true, if_neg (by simp [posts])]
  rfl
theorem State.postedTo_slot : (s.postedTo f n w0 w1 w2 w3 b).slot f n = (s.slot f n).posted w0 w1 w2 w3 b s.dtb := by
  have slots : (s.postedTo f n w0 w1 w2 w3 b).slot f n = (s.setSlot f n ((s.slot f n).posted w0 w1 w2 w3 b s.dtb)).slot f n := by
    unfold State.slot State.postedTo
    rw [State.fn_setFn_self]
    rfl
  rw [slots, State.slot_setSlot_self]
theorem State.postedTo_slot_other {m : Nat} (h : m ≠ n) : (s.postedTo f n w0 w1 w2 w3 b).slot f m = s.slot f m := by
  have slots : (s.postedTo f n w0 w1 w2 w3 b).slot f m = (s.setSlot f n ((s.slot f n).posted w0 w1 w2 w3 b s.dtb)).slot f m := by
    unfold State.slot State.postedTo
    rw [State.fn_setFn_self]
    rfl
  rw [slots, State.slot_setSlot, if_neg (by simp [h])]
theorem State.postedTo_fn_other {g : Fn} (h : fnKey g ≠ fnKey f) : (s.postedTo f n w0 w1 w2 w3 b).fn g = s.fn g :=
  (State.fn_setFn_other _ _ h).trans (State.fn_setFn_other _ _ h)
theorem State.postedTo_lease : ((s.postedTo f n w0 w1 w2 w3 b).fn f).leaseDtb = s.dtb ∧
    ((s.postedTo f n w0 w1 w2 w3 b).fn f).leaseLive = true := by
  unfold State.postedTo
  rw [State.fn_setFn_self]
  exact ⟨rfl, rfl⟩
end

/-! ## MAILBOX_SCAN (R414) -/

/-- What a function's table of slots lists after a command is taken. -/
theorem State.irq_slots (s : State) (f g : Fn) (v : Nat) : ((s.irq f v).fn g).slots = (s.fn g).slots := by
  unfold State.irq
  split
  · exact State.fn_setFn_keeps FnState.slots (by rfl) g
  · rfl
theorem State.mem_setSlot {s : State} {f g : Fn} {n : Nat} {x : Slot} {e : Nat × Slot} (h : e ∈ ((s.setSlot f n x).fn g).slots) :
    (fnKey g = fnKey f ∧ e = (n, x)) ∨ e ∈ (s.fn g).slots := by
  by_cases key : fnKey g = fnKey f
  · have same : ∀ t : State, t.fn g = t.fn f := fun t => by rw [State.fn, State.fn, key]
    rw [same, State.fn_setSlot] at h
    rw [same]
    exact (Cells.mem_put (d := fun _ => {}) h).imp (fun e => ⟨key, e⟩) id
  · rw [State.setSlot, State.fn_setFn_other _ _ key] at h
    exact .inr h
theorem State.mem_complete {s : State} {f g : Fn} {n st d : Nat} {r : List Byte} {e : Nat × Slot}
    (h : e ∈ ((s.complete f n st d r).fn g).slots) :
    (fnKey g = fnKey f ∧ e = (n, (s.slot f n).finish st d s.dtb r)) ∨ e ∈ (s.fn g).slots := by
  unfold State.complete at h
  extract_lets q s1 at h
  split at h
  · exact State.mem_setSlot h
  · rw [State.irq_slots] at h
    exact State.mem_setSlot h
theorem State.mem_take {s : State} {f g : Fn} {n : Nat} {e : Nat × Slot} (h : e ∈ ((s.take f n).fn g).slots) :
    (fnKey g = fnKey f ∧ e.1 = n ∧ e.2.ack = true) ∨ e ∈ (s.fn g).slots := by
  unfold State.take at h
  extract_lets q s1 at h
  have taken : ∀ {e}, e ∈ (s1.fn g).slots → (fnKey g = fnKey f ∧ e.1 = n ∧ e.2.ack = true) ∨ e ∈ (s.fn g).slots := fun h =>
    (State.mem_setSlot h).imp (fun ⟨key, e⟩ => ⟨key, by rw [e], by rw [e]⟩) id
  have slot : s1.slot f n = { q with ack := true } := State.slot_setSlot_self ..
  have ended : ∀ {st d e}, e ∈ ((s1.complete f n st d []).fn g).slots → (fnKey g = fnKey f ∧ e.1 = n ∧ e.2.ack = true) ∨ e ∈ (s.fn g).slots :=
    fun h => (State.mem_complete h).elim (fun ⟨key, e⟩ => .inl ⟨key, by rw [e], by rw [e, slot]; rfl⟩) taken
  split at h
  · exact ended h
  · split at h
    · exact ended h
    · exact taken h

/-- The commands posted and not taken. -/
def State.untaken (s : State) : List (Fn × Nat × Slot) := s.posted.filter (fun e => !e.2.2.ack)
theorem State.mem_untaken {s : State} {e : Fn × Nat × Slot} : e ∈ s.untaken ↔
    e.1 ∈ allFns ∧ e.2 ∈ (s.fn e.1).slots ∧ e.2.2.post = true ∧ e.2.2.done = false ∧ e.2.2.ack = false := by
  obtain ⟨f, n, q⟩ := e
  simp only [State.untaken, State.posted, List.mem_filter, List.mem_flatten, List.mem_map]
  constructor
  · rintro ⟨⟨⟨l, ⟨g, hg, rfl⟩, hm⟩, hp⟩, ha⟩
    obtain ⟨e, he, same⟩ := List.mem_map.1 hm
    obtain ⟨rfl, rfl⟩ : g = f ∧ e = (n, q) := by simpa using same
    rw [Bool.and_eq_true, Bool.not_eq_true'] at hp
    exact ⟨hg, he, hp.1, hp.2, by simpa using ha⟩
  · rintro ⟨hg, he, hp, hd, ha⟩
    exact ⟨⟨⟨_, ⟨f, hg, rfl⟩, List.mem_map.2 ⟨_, he, rfl⟩⟩, by simp [hp, hd]⟩, by simp [ha]⟩
theorem fnKey_inj {f g : Fn} (hf : fnOk f = true) (hg : fnOk g = true) (h : fnKey f = fnKey g) : f = g := by
  obtain ⟨a, b⟩ := f
  obtain ⟨c, d⟩ := g
  simp [fnOk, fnKey] at *
  omega
theorem fnOk_of_mem {f : Fn} (h : f ∈ allFns) : fnOk f = true := by
  obtain ⟨i, hi, rfl⟩ := List.mem_map.1 h
  have below := List.mem_range.1 hi
  simp [fnOk]
  omega

/-- Nothing untaken but commands of slot `n` of function `f`. -/
def State.OnlyUntaken (s : State) (f : Fn) (n : Nat) : Prop := ∀ e ∈ s.untaken, e.1 = f ∧ e.2.1 = n
theorem State.OnlyUntaken.take {s : State} {f : Fn} {n : Nat} (h : s.OnlyUntaken f n) : (s.take f n).OnlyUntaken f n := by
  intro e mem
  obtain ⟨fn, slot, post, done, ack⟩ := State.mem_untaken.1 mem
  rcases State.mem_take slot with ⟨-, -, taken⟩ | old
  · rw [taken] at ack
    cases ack
  · exact h e (State.mem_untaken.2 ⟨fn, old, post, done, ack⟩)
/-- The earlier of two commands in the order of R414. -/
def takeEarlier (m : Option (Fn × Nat × Slot)) (e : Fn × Nat × Slot) : Option (Fn × Nat × Slot) :=
  match m with
  | none => some e
  | some b => if takeBefore e b then some e else some b
theorem State.earliest_eq (s : State) : s.earliest = s.untaken.foldl takeEarlier none := rfl
theorem takeEarlier_cases (m : Option (Fn × Nat × Slot)) (e : Fn × Nat × Slot) : takeEarlier m e = some e ∨ takeEarlier m e = m := by
  cases m with
  | none => exact .inl rfl
  | some b =>
    unfold takeEarlier
    dsimp only
    split
    · exact .inl rfl
    · exact .inr rfl
theorem foldl_takeEarlier_mem {e : Fn × Nat × Slot} (l : List (Fn × Nat × Slot)) (m : Option (Fn × Nat × Slot))
    (h : l.foldl takeEarlier m = some e) : e ∈ l ∨ m = some e := by
  induction l generalizing m with
  | nil => exact .inr h
  | cons x r ih =>
    rcases ih _ h with mem | same
    · exact .inl (List.mem_cons_of_mem _ mem)
    · rcases takeEarlier_cases m x with new | old
      · obtain rfl := Option.some.inj (new.symm.trans same)
        exact .inl (List.mem_cons_self ..)
      · exact .inr (old.symm.trans same)
theorem State.earliest_mem {s : State} {e : Fn × Nat × Slot} (h : s.earliest = some e) : e ∈ s.untaken :=
  (foldl_takeEarlier_mem _ none h).resolve_right (by simp)

/-- What taking the command `q` of a slot leaves, however often it is taken. -/
structure State.TookOnly (s : State) (f : Fn) (n : Nat) (q : Slot) (t : State) : Prop where
  frame : t = { s with fns := t.fns, out := t.out }
  only : t.OnlyUntaken f n
  slot : q.Taken (t.slot f n)
  others : ∀ m, m ≠ n → t.slot f m = s.slot f m
  good : badCommand n q = false → s.noService = false → t.slot f n = { q with ack := true }
  bad : badCommand n q = true → t.Completed f n Config.stBadCommand []

theorem State.tookOnly_take {s t : State} {f : Fn} {n : Nat} {q : Slot} (frame : t = { s with fns := t.fns, out := t.out })
    (only : t.OnlyUntaken f n) (others : ∀ m, m ≠ n → t.slot f m = s.slot f m) (same : q = t.slot f n ∨ q.Taken (t.slot f n) ∧
      (badCommand n q = false → s.noService = false → t.slot f n = { q with ack := true })) : s.TookOnly f n q (t.take f n) := by
  have bad : badCommand n (t.slot f n) = badCommand n q := by
    rcases same with rfl | ⟨h, -⟩
    · rfl
    · exact h.bad n
  have serves : t.noService = s.noService := by rw [frame]; rfl
  refine ⟨?_, only.take, ?_, fun m hm => ?_, fun good up => ?_, fun h => State.take_bad (bad.trans h)⟩
  · rw [State.take_frame, frame]
  · have taken := t.take_slot f n
    rcases same with rfl | ⟨h, -⟩
    · exact taken
    · exact ⟨taken.ack, taken.fields.trans h.fields⟩
  · rw [State.take_slot_other _ _ _ _ _ (by simp [hm]), others m hm]
  · rw [State.take_good (bad.trans good) (serves.trans up)]
    rcases same with rfl | ⟨-, h⟩
    · rfl
    · rw [h good up]
theorem State.tookOnly_takeAll {s t : State} {f : Fn} {n : Nat} {q : Slot} (k : Nat) (h : s.TookOnly f n q t) :
    s.TookOnly f n q (t.takeAll k) := by
  induction k generalizing t with
  | zero => exact h
  | succ k ih =>
    rw [State.takeAll]
    split
    · exact h
    · next e first =>
      obtain ⟨rfl, rfl⟩ := h.only e (State.earliest_mem first)
      exact ih (State.tookOnly_take h.frame h.only h.others (.inr ⟨h.slot, h.good⟩))

theorem mailboxScan_none {s : State} (up : s.hostUp = true) (none : s.untaken = []) :
    exec .mailboxScan s = .next { s with fw := { s.fw with svcRestart := false } } := by
  have first : s.earliest = .none := by
    rw [State.earliest_eq, none]
    rfl
  have all : ∀ k, s.takeAll k = s := fun k => by cases k <;> simp [State.takeAll, first]
  show execMailboxScan s = _
  simp [execMailboxScan, up, all]
theorem mailboxScan_one {s : State} {f : Fn} {n : Nat} {q : Slot} (up : s.hostUp = true) (one : s.untaken = [(f, n, q)])
    (slot : s.slot f n = q) : ∃ t, exec .mailboxScan s = .next { t with fw := { t.fw with svcRestart := false } } ∧ s.TookOnly f n q t := by
  have first : s.earliest = some (f, n, q) := by
    rw [State.earliest_eq, one]
    rfl
  obtain ⟨k, count⟩ : ∃ k, s.posted.length = k + 1 := by
    have mem : (f, n, q) ∈ s.posted := (List.mem_filter.1 (show (f, n, q) ∈ s.untaken by rw [one]; exact List.mem_singleton_self _)).1
    exact ⟨s.posted.length - 1, by have := List.length_pos_of_mem mem; omega⟩
  refine ⟨s.takeAll s.posted.length, ?_, ?_⟩
  · show execMailboxScan s = _
    simp [execMailboxScan, up]
  · rw [count, State.takeAll, first]
    refine State.tookOnly_takeAll k (State.tookOnly_take rfl (fun e mem => ?_) (fun _ _ => rfl) (.inl slot.symm))
    rw [one, List.mem_singleton] at mem
    rw [mem]
    exact ⟨rfl, rfl⟩

theorem exec_hostLeaseExpiry {f : Fn} (s : State) (hf : fnOk f = true) : exec (.hostLeaseExpiry f) s =
    if (s.fn f).leaseLive && decide ((s.fn f).leaseDtb + 100000000 ≤ s.dtb) then .next (s.setFn f { s.fn f with leaseLive := false }) else .next s := by
  show execHostLeaseExpiry f s = _
  rw [execHostLeaseExpiry, if_neg (by simp [hf])]

/-- Settles O45: what a POST writes, and what taking the one command leaves. -/
theorem mailboxRowsComplete : Obligations.MailboxRowsComplete := by
  refine ⟨fun f n w0 w1 w2 w3 b s hf hn up => ⟨mailboxPost_discards hf hn up, fun free posts => ?_⟩, fun s up => ⟨mailboxScan_none up,
    fun f n q _ one slot => ?_⟩, fun f v s hf hv => ?_, fun f s hf => ⟨fun h => ?_, fun live due => ?_⟩⟩
  · have run := mailboxPost_posts (w1 := w1) (w2 := w2) (w3 := w3) (b := b) hf hn up free posts
    have kept : ∀ x : Slot, (s.slot f n).posted w0 w1 w2 w3 b s.dtb = x ∨ ((s.slot f n).posted w0 w1 w2 w3 b s.dtb).Taken x →
        x.cmd = bits w1 15 0 ∧ x.len = bits w1 27 16 ∧ x.part = bits w1 31 28 ∧ x.tag = w2 % 2 ^ 32 ∧ x.postDtb = s.dtb ∧
        x.urgent = bit w0 1 ∧ x.payload.take (min b.length 4032) = b.take 4032 := by
      rintro x (rfl | ⟨-, fields⟩)
      · exact ⟨rfl, rfl, rfl, rfl, rfl, rfl, Slot.posted_payload ..⟩
      · simp only [Prod.mk.injEq] at fields
        obtain ⟨cmd, len, part, tag, dtb, urgent, payload⟩ := fields
        rw [cmd, len, part, tag, dtb, urgent, payload]
        exact ⟨rfl, rfl, rfl, rfl, rfl, rfl, Slot.posted_payload ..⟩
    obtain ⟨leaseDtb, leaseLive⟩ := State.postedTo_lease (s := s) (f := f) (n := n) (w0 := w0) (w1 := w1) (w2 := w2) (w3 := w3) (b := b)
    have slot := State.postedTo_slot (s := s) (f := f) (n := n) (w0 := w0) (w1 := w1) (w2 := w2) (w3 := w3) (b := b)
    by_cases now : bit w0 1 = true ∨ n = 31
    · rw [if_pos (by simpa using now)] at run
      have lease := State.take_lease (s.postedTo f n w0 w1 w2 w3 b) f n
      have taken := State.take_slot (s.postedTo f n w0 w1 w2 w3 b) f n
      rw [Prod.mk.injEq] at lease
      obtain ⟨cmd, len, part, tag, dtb, urgent, payload⟩ := kept _ (.inr (slot ▸ taken))
      refine ⟨_, run, ?_, lease.1.trans leaseDtb, lease.2.trans leaseLive, fun m hm => ?_, fun g hg => ?_, cmd, len, part, tag, dtb, urgent,
        payload, fun normal low => ?_, fun _ => ⟨taken.ack, fun bad => State.take_bad ((taken.bad n).symm.trans bad)⟩⟩
      · rw [State.take_frame]
        rfl
      · rw [State.take_slot_other _ _ _ _ _ (by simp [hm]), State.postedTo_slot_other hm]
      · rw [State.take_fn_other _ _ hg, State.postedTo_fn_other hg]
      · rcases now with h | h
        · rw [normal] at h
          cases h
        · exact absurd h low
    · rw [if_neg (by simpa using now)] at run
      obtain ⟨cmd, len, part, tag, dtb, urgent, payload⟩ := kept _ (.inl slot.symm)
      refine ⟨_, run, rfl, leaseDtb, leaseLive, fun m hm => State.postedTo_slot_other hm, fun g hg => State.postedTo_fn_other hg, cmd, len,
        part, tag, dtb, urgent, payload, fun _ _ => ?_, fun h => absurd h now⟩
      rw [slot]
      exact ⟨posts, rfl, rfl⟩
  · obtain ⟨t, run, took⟩ := mailboxScan_one up one slot
    refine ⟨_, run, ?_, took.slot.ack, took.others, took.good, fun bad => ?_⟩
    · have frame := took.frame
      obtain ⟨fns, out, rfl⟩ : ∃ fns out, t = { s with fns := fns, out := out } := ⟨_, _, frame⟩
      rfl
    · obtain ⟨done, post, status, len, bytes⟩ := took.bad bad
      exact ⟨done, post, status, len, bytes⟩
  · obtain ⟨t, run, frame, fn, irqs⟩ := msixUnmask_spec s hf hv
    refine ⟨t, run, frame, fun j => ?_, fun j => ?_, fun m => ?_, irqs⟩
    · rw [fn, bit_setBit]
      by_cases h : j = v <;> simp [h]
    · rw [fn, bit_setBit]
      by_cases h : j = v <;> simp [h]
    · rw [State.slot, fn, State.slot]
  · rw [exec_hostLeaseExpiry s hf, if_neg]
    rcases h with h | h <;> simp [h]
  · rw [exec_hostLeaseExpiry s hf, if_pos (by simp [live, due])]

end Sys2Proof.Machine
end

section
-- One proof after another: the stacks of proofs that wait for each other count against the check's memory limit.
set_option Elab.async false
namespace Sys2Proof.Machine

/-! ## Slots that a reset cuts (R418) -/

/-- In a canonical table an entry is what its key reads as. -/
theorem Cells.get_of_mem {α : Type} [DecidableEq α] {d : Nat → α} {m : List (Nat × α)} (wf : Cells.wf d m = true) {e : Nat × α} (mem : e ∈ m) :
    Cells.get d m e.1 = e.2 := by
  induction m with
  | nil => cases mem
  | cons x r ih =>
    obtain ⟨-, above, rest⟩ := (Cells.wf_cons d x r).1 wf
    rw [Cells.get]
    rcases List.mem_cons.1 mem with rfl | mem
    · rw [if_pos rfl]
    · rw [if_neg (Nat.ne_of_gt (above e mem))]
      exact ih rest mem
theorem Cells.get_of_absent {α : Type} {d : Nat → α} {m : List (Nat × α)} {k : Nat} (absent : ∀ e ∈ m, e.1 ≠ k) : Cells.get d m k = d k := by
  induction m with
  | nil => rfl
  | cons x r ih =>
    rw [Cells.get, if_neg (Ne.symm (absent x (List.mem_cons_self ..)))]
    exact ih fun e mem => absent e (List.mem_cons_of_mem _ mem)
/-- A canonical table made again entry by entry reads everywhere as what was made of the old reading. -/
theorem Cells.get_remade {α β : Type} [DecidableEq α] [DecidableEq β] {d : Nat → α} {m : List (Nat × α)} (wf : Cells.wf d m = true)
    (d' : Nat → β) (g : Nat → α → β) (dflt : ∀ k, g k (d k) = d' k) (k : Nat) :
    Cells.get d' (m.foldl (fun t e => Cells.put d' t e.1 (g e.1 e.2)) []) k = g k (Cells.get d m k) := by
  by_cases listed : ∃ e ∈ m, e.1 = k
  · obtain ⟨e, mem, rfl⟩ := listed
    rw [Cells.get_of_mem wf mem]
    refine Cells.get_foldl_put d' (fun e : Nat × α => e.1) (fun e => g e.1 e.2) m [] (fun z hz same => ?_) (.inl mem)
    exact Prod.ext same ((Cells.get_of_mem wf hz).symm.trans ((congrArg (Cells.get d m) same).trans (Cells.get_of_mem wf mem)))
  · have absent : ∀ e ∈ m, e.1 ≠ k := fun e mem same => listed ⟨e, mem, same⟩
    rw [Cells.get_of_absent absent, dflt]
    rcases Cells.get_rebuilt d' (fun e : Nat × α => g e.1 e.2) k m with h | ⟨e, mem, same, -⟩
    · exact h
    · exact absurd same (absent e mem)

theorem FnState.cutSlots_reads {x : FnState} (wf : Cells.wf (fun _ => ({} : Slot)) x.slots = true) (st n : Nat) :
    Cells.get (fun _ => ({} : Slot)) (x.cutSlots st) n = (Cells.get (fun _ => ({} : Slot)) x.slots n).cut st :=
  Cells.get_remade wf (fun _ => {}) (fun _ q => q.cut st) (fun _ => rfl) n
theorem Slot.cut_post (q : Slot) (st : Nat) : (q.cut st).post = false := by
  unfold Slot.cut
  split <;> rfl

/-- A function reset leaves each slot cut. -/
theorem State.functionReset_cuts {s : State} (ok : s.MailboxesCanonical) (f : Fn) (n : Nat) :
    (s.functionReset f).slot f n = (s.slot f n).cut Config.stAbortedReset := by
  have reads : (s.fnCleared f).slot f n = (s.slot f n).cut Config.stAbortedReset := by
    rw [State.slot, State.fn_fnCleared, if_pos rfl]
    exact FnState.cutSlots_reads (ok.slots f) _ n
  rw [(s.functionReset_ends f).slot f n (by rw [reads]; exact Slot.cut_post ..), reads]

/-- Function `f` masks every vector and stays so, and of what is sent nothing is its interrupt. -/
structure State.Quiet (f : Fn) (s t : State) : Prop where
  sends : (s.fn f).msixMask = 2 ^ 64 - 1 → (t.fn f).msixMask = 2 ^ 64 - 1 ∧ ∃ l, t.out.irqs = s.out.irqs ++ l ∧ ∀ v, (f, v) ∉ l

section
variable {f : Fn}
theorem State.Quiet.refl (s : State) : State.Quiet f s s := ⟨fun h => ⟨h, [], by simp⟩⟩
theorem State.Quiet.same {s t : State} (fns : t.fns = s.fns := by rfl) (irqs : t.out.irqs = s.out.irqs := by rfl) : State.Quiet f s t :=
  ⟨fun h => ⟨by rw [State.fn, fns]; exact h, [], by simp [irqs]⟩⟩
theorem State.Quiet.trans {s t u : State} (h : State.Quiet f s t) (k : State.Quiet f t u) : State.Quiet f s u := by
  refine ⟨fun mask => ?_⟩
  obtain ⟨mask2, l, irqs, none⟩ := h.sends mask
  obtain ⟨mask3, l2, irqs2, none2⟩ := k.sends mask2
  exact ⟨mask3, l ++ l2, by rw [irqs2, irqs, List.append_assoc], fun v mem => (List.mem_append.1 mem).elim (none v) (none2 v)⟩
theorem State.Quiet.foldl {β : Type} {g : State → β → State} (h : ∀ (s : State) b, State.Quiet f s (g s b)) (l : List β) (s : State) :
    State.Quiet f s (l.foldl g s) := by
  induction l generalizing s with
  | nil => exact .refl s
  | cons b r ih => exact (h s b).trans (ih _)
theorem State.setSlot_quiet (s : State) (g : Fn) (n : Nat) (x : Slot) : State.Quiet f s (s.setSlot g n x) :=
  ⟨fun mask => ⟨(State.fn_setFn_keeps FnState.msixMask (by rfl) f).trans mask, [], by simp [State.setSlot]⟩⟩
theorem State.irq_quiet (s : State) (g : Fn) {v : Nat} (hv : v < 64) : State.Quiet f s (s.irq g v) := by
  refine ⟨fun mask => ?_⟩
  unfold State.irq
  split
  · exact ⟨(State.fn_setFn_keeps FnState.msixMask (by rfl) f).trans mask, [], by simp⟩
  · next unmasked =>
    refine ⟨mask, [(g, v)], rfl, fun w mem => unmasked ?_⟩
    obtain ⟨rfl, -⟩ := Prod.mk.inj (List.mem_singleton.1 mem)
    rw [mask]
    exact bit_ofAll hv
theorem State.complete_quiet (s : State) (g : Fn) (n st d : Nat) (r : List Byte) : State.Quiet f s (s.complete g n st d r) := by
  unfold State.complete
  extract_lets q s1
  have set : State.Quiet f s s1 := s.setSlot_quiet ..
  split
  · exact set
  · exact set.trans (s1.irq_quiet g (Nat.mod_lt _ (by decide)))
theorem State.completeIf_quiet (s : State) (g : Fn) (n post st d : Nat) (r : List Byte) : State.Quiet f s (s.completeIf g n post st d r) := by
  unfold State.completeIf
  dsimp only
  split
  · exact s.complete_quiet ..
  · exact .refl s
theorem State.endLoad_quiet (s : State) (p st w : Nat) (down : Bool) : State.Quiet f s (s.endLoad p st w down) := by
  unfold State.endLoad
  split
  · extract_lets s1 s2 s3 s4
    have sent : State.Quiet f s s1 := by
      unfold s1
      split
      · exact .same
      · exact .refl s
    have freed : State.Quiet f s2 s3 := by
      unfold s3
      split
      · exact .same
      · exact .refl s2
    have ended : State.Quiet f s s4 := ((sent.trans .same).trans freed).trans (s3.completeIf_quiet ..)
    split
    · exact ended.trans (s4.completeIf_quiet ..)
    · exact ended
  · exact .refl s
theorem State.closeSession_quiet (s : State) (k i st : Nat) : State.Quiet f s (s.closeSession k i st) := by
  unfold State.closeSession
  extract_lets q s1 s2 s3
  split
  · exact .refl s
  · have submits : State.Quiet f s s1 := .foldl (fun t e => t.completeIf_quiet ..) _ s
    have closed : State.Quiet f s s3 := (submits.trans (.same : State.Quiet f s1 s2)).trans .same
    split
    · exact closed.trans (s3.completeIf_quiet ..)
    · exact closed
theorem State.closeSessions_quiet (s : State) (p st : Nat) : State.Quiet f s (s.closeSessions p st) :=
  .foldl (fun t e => by
    split
    · exact t.closeSession_quiet ..
    · exact .refl t) _ s
theorem State.abortLoads_quiet (s : State) (g : Fn) : State.Quiet f s (s.abortLoads g) :=
  .foldl (fun t p => by
    split
    · exact .refl t
    · split
      · exact t.endLoad_quiet ..
      · split
        · exact .same
        · exact .refl t) _ s
/-- A function under reset sends no interrupt. -/
theorem State.functionReset_quiet (s : State) (f : Fn) : ∃ l, (s.functionReset f).out.irqs = s.out.irqs ++ l ∧ ∀ v, (f, v) ∉ l := by
  have masked : ((s.fnCleared f).fn f).msixMask = 2 ^ 64 - 1 := by
    rw [State.fn_fnCleared, if_pos rfl]
    rfl
  have quiet : State.Quiet f (s.fnCleared f) (s.functionReset f) := by
    unfold State.functionReset
    extract_lets x s1 commit s2 s3
    have cleared : s.fnCleared f = s2 := rfl
    have closed : State.Quiet f s2 s3 := by
      unfold s3
      split
      · exact s2.closeSessions_quiet ..
      · exact .refl s2
    rw [cleared]
    exact closed.trans (s3.abortLoads_quiet f)
  exact (quiet.sends masked).2
end

/-! ## The reset of a device -/

/-- Flushing the shelves and journalling leave every function and what the module has sent. -/
theorem State.loosePools_sent (s : State) (but groups : Nat) : ((s.loosePools but groups).fns, (s.loosePools but groups).out) = (s.fns, s.out) := by
  unfold State.loosePools
  exact foldl_keeps (fun t : State => (t.fns, t.out)) (fun s p => by split <;> (split <;> rfl)) _ s
theorem State.flushShelf_sent (s : State) (k : Nat) : ((s.flushShelf k).fns, (s.flushShelf k).out) = (s.fns, s.out) := by
  unfold State.flushShelf
  dsimp only
  split
  · dsimp only
    exact s.loosePools_sent _ _
  · exact foldl_keeps (fun t : State => (t.fns, t.out)) (fun t l => by rw [State.writeBack_frame]) _ s
/-- What is stopped before the logic is reset. -/
def State.flushed (s : State) (cause : Nat) : State :=
  (List.range 8).foldl State.flushShelf (s.jEvent Config.stDeviceReset 0 none (leBytes 1 cause ++ leBytes 1 s.haltedMask)).journalDefaults
theorem State.deviceStop_eq (s : State) (cause : Nat) : s.deviceStop cause = (s.flushed cause).resetLogic cause := rfl
theorem State.flushed_sent (s : State) (cause : Nat) : ((s.flushed cause).fns, (s.flushed cause).out) = (s.fns, s.out) := by
  unfold State.flushed
  rw [foldl_keeps (fun t : State => (t.fns, t.out)) State.flushShelf_sent, State.journalDefaults_frame]
  rfl

/-- Every function after the reset of all logic: as after a cold reset, but for its slots. -/
theorem State.resetLogic_fn {s : State} (ok : s.MailboxesCanonical) (cause : Nat) (g : Fn) :
    (s.resetLogic cause).fn g = { fnReset (fnKey g) with slots := (s.fn g).cutSlots Config.stDeviceReset } :=
  Cells.get_remade ok.1 fnReset (fun k x => x.afterReset k) (fun k => by unfold FnState.afterReset fnReset; split <;> rfl) (fnKey g)
theorem State.resetLogic_masks {s : State} (ok : s.MailboxesCanonical) (cause : Nat) (g : Fn) :
    ((s.resetLogic cause).fn g).msixMask = 2 ^ 64 - 1 := by
  rw [State.resetLogic_fn ok]
  show (fnReset (fnKey g)).msixMask = _
  unfold fnReset
  split <;> rfl
theorem State.resetLogic_cuts {s : State} (ok : s.MailboxesCanonical) (cause : Nat) (g : Fn) (m : Nat) :
    (s.resetLogic cause).slot g m = (s.slot g m).cut Config.stDeviceReset := by
  rw [State.slot, State.resetLogic_fn ok]
  exact FnState.cutSlots_reads (ok.slots g) _ m

/-- Where every function masks every vector, an event sends nothing. -/
theorem State.eventTo_masked {s : State} (masked : ∀ g, (s.fn g).msixMask = 2 ^ 64 - 1) (b : List Byte) (f : Fn) :
    (∀ g, ((s.eventTo b f).fn g).msixMask = 2 ^ 64 - 1) ∧ (s.eventTo b f).out = s.out := by
  have set : ∀ {t : State} {x : FnState}, (∀ g, (t.fn g).msixMask = 2 ^ 64 - 1) → x.msixMask = (t.fn f).msixMask →
      ∀ g, ((t.setFn f x).fn g).msixMask = 2 ^ 64 - 1 := fun h e g => (State.fn_setFn_keeps FnState.msixMask e g).trans (h g)
  unfold State.eventTo
  extract_lets x
  split
  · exact ⟨set masked rfl, rfl⟩
  · have entered := set (x := { x with ring := Cells.put (fun _ => []) x.ring x.evqTail b, evqTail := (x.evqTail + 1) % 256 }) masked rfl
    rw [State.irq_masked (by rw [entered]; exact bit_ofAll (by decide))]
    exact ⟨set entered rfl, rfl⟩
theorem State.event_masked {s : State} (masked : ∀ g, (s.fn g).msixMask = 2 ^ 64 - 1) (e : Event) : (s.event e).out = s.out := by
  have all : ∀ (b : List Byte) (l : List Fn) (t : State), (∀ g, (t.fn g).msixMask = 2 ^ 64 - 1) →
      (l.foldl (fun t f => t.eventTo b f) t).out = t.out := by
    intro b l
    induction l with
    | nil => exact fun _ _ => rfl
    | cons f r ih =>
      intro t h
      obtain ⟨still, out⟩ := State.eventTo_masked h b f
      exact (ih _ still).trans out
  exact all _ _ s masked

theorem State.deviceReset_cuts {s : State} (ok : s.MailboxesCanonical) (above : s.power.state ≠ 3) (cause d : Nat) :
    (s.deviceReset cause d).out = s.out ∧ ∀ g m, (s.deviceReset cause d).slot g m = (s.slot g m).cut Config.stDeviceReset := by
  have sent := s.flushed_sent cause
  rw [Prod.mk.injEq] at sent
  obtain ⟨fns, out⟩ := sent
  have canonical : (s.flushed cause).MailboxesCanonical := ok.of_fns fns
  have slot : ∀ g m, (s.flushed cause).slot g m = s.slot g m := fun g m => by rw [State.slot, State.slot, State.fn, State.fn, fns]
  refine ⟨?_, fun g m => ?_⟩
  · have booted : ∀ (t : State) g, t.boot.fn g = t.fn g := fun _ _ => rfl
    have sent : ∀ t : State, t.boot.out = t.out := fun _ => rfl
    have kept : ∀ t : State, (t.resetLogic cause).out = t.out := fun _ => rfl
    have masked : ∀ g, (((s.deviceStop cause).boot).fn g).msixMask = 2 ^ 64 - 1 := fun g => by
      rw [booted, State.deviceStop_eq, State.resetLogic_masks canonical]
    unfold State.deviceReset
    dsimp only
    rw [if_neg above, State.event_masked masked, sent, State.deviceStop_eq, kept, out]
  · rw [State.deviceReset_slot above, State.deviceStop_eq, State.resetLogic_cuts canonical, slot]

/-- Settles O60: a canonical table made again entry by entry reads as the cut of each slot. -/
theorem resetsCutSlots : Obligations.ResetsCutSlots := by
  refine ⟨fun f s hf alive above ok => ?_, fun f n s q h ok => ?_⟩
  · obtain ⟨l, irqs, none⟩ := s.functionReset_quiet f
    refine ⟨_, l, ?_, irqs, none, fun n => s.functionReset_cuts ok f n⟩
    show execFunctionReset f s = _
    simp [execFunctionReset, hf, alive, above]
  · have up := h.hostUp
    have above : (s.begun f n q).power.state ≠ 3 := by
      unfold State.hostUp at up
      simp only [Bool.and_eq_true, bne_iff_ne] at up
      exact up.2
    have canonical : (s.begun f n q).MailboxesCanonical := ok.setFn f (Cells.wf_put _ _ _ (ok.slots f))
    obtain ⟨out, cuts⟩ := State.deviceReset_cuts canonical above 2 0
    refine ⟨_, deviceReset_carries h, congrArg Outputs.irqs out, fun g m => (cuts g m).trans ?_⟩
    have marked : ((s.begun f n q).slot g m).cut Config.stDeviceReset = (s.slot g m).cut Config.stDeviceReset := by
      rw [State.begun, State.slot_setSlot]
      split
      · next same =>
        obtain ⟨key, rfl⟩ := same
        have slot : s.slot g m = q := by rw [← h.slot_eq.1, State.slot, State.slot, State.fn, State.fn, key]
        rw [slot]
        rfl
      · rfl
    rw [marked]
    rfl

end Sys2Proof.Machine
end

section
-- One proof after another: the stacks of proofs that wait for each other count against the check's memory limit.
set_option Elab.async false
namespace Sys2Proof.Machine

/-! ## Supply, temperature and leaks (R499 to R510) -/

theorem State.note_told (s : State) (d : Nat) (b : List Byte) : s.Told (s.note d b) := (s.jEvent_told ..).trans (State.event_told ..)
section
variable {s t : State} (h : s.Told t)
include h
theorem State.Told.cool : t.cool = s.cool := by rw [h]
theorem State.Told.power : t.power = s.power := by rw [h]
end

/-- Driving the alert sets the alert, and tells of it. -/
theorem State.alert_told (s : State) : State.Told { s with cool := { s.cool with thermAlert := s.cool.alertNow } } s.alert := by
  unfold State.alert
  extract_lets on src t
  have set : State.Told { s with cool := { s.cool with thermAlert := s.cool.alertNow } } t := .refl _
  split
  · exact set.trans (t.note_told ..)
  · exact set
theorem State.alert_cool (s : State) : s.alert.cool = { s.cool with thermAlert := s.cool.alertNow } := s.alert_told.cool
theorem State.alert_cores (s : State) : s.alert.cores = s.cores := s.alert_told.cores
theorem State.alert_hbm (s : State) : s.alert.hbm = s.hbm := s.alert_told.hbm
theorem State.alert_parts (s : State) : s.alert.parts = s.parts := s.alert_told.parts

section
variable {s : State}
theorem leakDetect_sets (on : s.power.off = false) (none : s.cool.leak = false) : ∃ t, exec .leakDetect s = .next t ∧ t.cool.leak = true ∧
    t.cool.leakSince = some s.dtb ∧ t.cool.thermAlert = true ∧ t.cores = s.cores ∧ t.hbm = s.hbm := by
  have told := State.note_told { s with cool := { s.cool with leak := true, leakSince := some s.dtb } } 19 []
  refine ⟨(State.note { s with cool := { s.cool with leak := true, leakSince := some s.dtb } } 19 []).alert, ?_, ?_, ?_, ?_,
    (State.alert_cores _).trans told.cores, (State.alert_hbm _).trans told.hbm⟩
  · show execLeakDetect s = _
    simp [execLeakDetect, on, none]
  all_goals rw [State.alert_cool, told.cool]
  exact Bool.or_true _
theorem leakClear_clears (on : s.power.off = false) : ∃ t, exec .leakClear s = .next t ∧ t.cool.leak = false ∧ t.cool.leakSince = none ∧
    t.cores = s.cores ∧ t.hbm = s.hbm := by
  refine ⟨State.alert { s with cool := { s.cool with leak := false, leakSince := none } }, ?_, ?_, ?_, State.alert_cores _, State.alert_hbm _⟩
  · show execLeakClear s = _
    rw [execLeakClear, on, if_neg Bool.false_ne_true]
  all_goals rw [State.alert_cool]

/-- What SENSOR_UPDATE records. -/
def CoolState.sensed (c : CoolState) (r : Sensors) : CoolState :=
  { c with
    vinMv := r.vinMv
    pinW := r.pinW
    pinPeak := max c.pinPeak r.pinW
    coolantIn := r.coolantIn
    coolantOut := r.coolantOut
    fieldTemp := (List.range 4).map (fun i => r.fields.getD i 0)
    stackTemp := (List.range 8).map (fun i => r.stackTemps.getD i 0)
    ioDie := r.ioDie
    vinLow := decide (r.vinMv < 54000)
    vinHigh := decide (63000 < r.vinMv)
    vinDips := if outside r.vinMv && !outside c.vinMv then satAdd 0xFFFF c.vinDips 1 else c.vinDips }
theorem sensorUpdate_records (r : Sensors) (on : s.power.off = false) :
    ∃ t, exec (.sensorUpdate r) s = .next t.alert ∧ State.Told { s with cool := s.cool.sensed r } t := by
  refine ⟨_, show execSensorUpdate r s = _ by rw [execSensorUpdate, on, if_neg Bool.false_ne_true], ?_⟩
  split
  · exact State.note_told ..
  · exact .refl _

/-- What POWER_CAP_MEASURE records. -/
def CoolState.measured (c : CoolState) (watts : Nat) : CoolState :=
  let w := (watts :: c.capSamples).take 10000
  let on := overCap c.cap w
  let used := c.capIn || on
  let last := c.capTick == 99
  { c with
    capSamples := w
    capping := on
    capTick := (c.capTick + 1) % 100
    capIn := used && !last
    capMs := if last && used then satAdd 0xFFFFFFFF c.capMs 1 else c.capMs
    capIdle := if !last then c.capIdle else if used then 0 else min 100 (c.capIdle + 1) }
theorem powerCapMeasure_records (w : Nat) (on : s.power.off = false) :
    ∃ t, exec (.powerCapMeasure w) s = .next t ∧ State.Told { s with cool := s.cool.measured w } t := by
  refine ⟨_, show execPowerCapMeasure w s = _ by rw [execPowerCapMeasure, on, if_neg Bool.false_ne_true], ?_⟩
  split
  · exact State.note_told ..
  · exact .refl _

/-- What FIELD_THERMAL_EVALUATION records. -/
def CoolState.evaluated (c : CoolState) (k : Nat) (x : Int) : CoolState :=
  { c with
    fieldTemp := c.fieldTemp.set k x
    fieldSteps := c.fieldSteps.set k (fieldEval x (c.fieldSteps.getD k 0) (c.fieldBelow.getD k 0)).1
    fieldBelow := c.fieldBelow.set k (fieldEval x (c.fieldSteps.getD k 0) (c.fieldBelow.getD k 0)).2 }
theorem fieldThermalEvaluation_records {k : Nat} (x : Int) (hk : k < 4) (on : s.power.off = false) (above : s.power.state < 2) :
    exec (.fieldThermalEvaluation k x) s = .next (State.alert { s with cool := s.cool.evaluated k x }) := by
  show execFieldThermalEvaluation k x s = _
  rw [execFieldThermalEvaluation, if_neg (Nat.not_le.2 hk), if_neg (by simp [on]; omega)]
  rfl
end

theorem fieldEval_up {x : Int} {step : Nat} (h : step < fieldStep x) (below : Nat) : (fieldEval x step below).1 = fieldStep x := by
  rw [fieldEval, if_pos h]
theorem fieldEval_stays {x : Int} {step : Nat} (h : fieldStep x ≤ step) (bound : stepBound step ≤ x) (below : Nat) :
    (fieldEval x step below).1 = step := by
  rw [fieldEval, if_neg (by omega), if_pos (by simp [bound])]
theorem fieldEval_down {x : Int} {step : Nat} (pos : 0 < step) (h : fieldStep x ≤ step) (bound : x < stepBound step) (below : Nat) :
    (fieldEval x step below).1 = if below < 9 then step else step - 1 := by
  rw [fieldEval, if_neg (by omega), if_neg (by simp; omega)]
  split <;> rfl

theorem getD_set_self {α : Type} {l : List α} {k : Nat} {x : α} (d : α) (h : k < l.length) : (l.set k x).getD k d = x := by
  simp [List.getD, h]
theorem getD_set_other {α : Type} {l : List α} {k j : Nat} {x : α} (d : α) (h : j ≠ k) : (l.set k x).getD j d = l.getD j d := by
  simp [List.getD, List.getElem?_set_ne (Ne.symm h)]

theorem shutdownCause_acts {s : State} {cause : Nat} (may : s.mayShutDown cause = true) : ∃ t, exec (.shutdownCause cause) s = .next t ∧
    t.power.off = true ∧ t.cool.lastShutdown = cause ∧ t.parts = [] ∧ t.cores = [] ∧ t.fw.rootSvn = s.fw.rootSvn ∧
    t.power.volts = s.power.volts ∧ ∃ e, t.fw.journal.getLast? = some e ∧ e.kind = 2 ∧ e.new = leBytes 1 cause := by
  let s1 := s.jEvent Config.stOk 0 none (leBytes 1 cause)
  refine ⟨State.unpowered { s1 with cool := { s1.cool with lastShutdown := cause } }, ?_, rfl, rfl, rfl, rfl, ?_, rfl, ?_⟩
  · show execShutdownCause cause s = _
    rw [execShutdownCause, may, if_neg (by decide)]
  · exact s.journal_rootSvn _
  · exact ⟨_, s.fw.append_last _, rfl, rfl⟩

/-! ## The sideband (R510, R511) -/

theorem State.leavePermafrost_keeps {α : Type} (π : State → α)
    (off : ∀ (t : State) a b c d e f g, π { t with commit := a, fns := b, out := c, parts := d, ports := e, chans := f, pairs := g } = π t)
    (other : ∀ (t : State) w d n k, π { t with power := w, time := d, freeCtr := n, shelves := k } = π t) (s : State) :
    π s.leavePermafrost = π s := by
  have shelves : ∀ (t : State) (f : Nat → Shelf → Shelf), π ((List.range 8).foldl (fun t k => t.updShelf k (f k)) t) = π t :=
    fun t f => foldl_keeps π (fun u k => other u u.power u.time u.freeCtr _) _ t
  have ports : ∀ (t : State) (f : Port → Port), π ((List.range 16).foldl (fun t p => t.updPort p f) t) = π t :=
    fun t f => foldl_keeps π (fun u p => off u u.commit u.fns u.out u.parts _ u.chans u.pairs) _ t
  have refreshed : ∀ t : State, π t.timeRefresh = π t := fun t => other t t.power t.timeRefresh.time t.freeCtr t.shelves
  have ticked : ∀ t : State, π t.tick = π t := fun t => other t t.power t.time _ t.shelves
  unfold State.leavePermafrost
  dsimp only
  rw [refreshed, State.portReset_keeps π off, State.portReset_keeps π off, ports, ticked, shelves]
  exact other s _ _ s.freeCtr s.shelves

theorem State.sensorBytes_length (s : State) (i id : Nat) : (s.sensorBytes i id).length = 8 := by
  unfold State.sensorBytes
  split
  · exact length_leBytes ..
  · split <;> simp
theorem length_flatten_const {α : Type} {n : Nat} (l : List (List α)) (h : ∀ x ∈ l, x.length = n) : l.flatten.length = n * l.length := by
  induction l with
  | nil => rfl
  | cons x r ih =>
    rw [List.flatten_cons, List.length_append, h x (List.mem_cons_self ..), ih fun y mem => h y (List.mem_cons_of_mem _ mem), List.length_cons]
    ring

theorem State.answerSide_frame (s : State) (b : List Byte) : s.answerSide b = { s with out := { s.out with side := b } } := rfl

section
variable {s : State} (alive : s.dead = false)
include alive
theorem exec_permafrostExit : exec .permafrostExit s =
    .next ((if s.power.state = 3 then s.leavePermafrost else s).answerSide (leBytes 1 Config.stOk)) := by
  show execPermafrostExit s = _
  rw [execPermafrostExit, alive, if_neg Bool.false_ne_true]
theorem permafrostExit_leads : ∃ t, exec .permafrostExit s = .next t ∧ t.power.state = (if s.power.state = 3 then 2 else s.power.state) ∧
    t.out.side = leBytes 1 Config.stOk ∧ t.cores = s.cores ∧ t.hbm = s.hbm := by
  have left : (if s.power.state = 3 then s.leavePermafrost else s).power.state = (if s.power.state = 3 then 2 else s.power.state) ∧
      (if s.power.state = 3 then s.leavePermafrost else s).cores = s.cores ∧
      (if s.power.state = 3 then s.leavePermafrost else s).hbm = s.hbm := by
    split
    · exact ⟨congrArg PowerState.state s.leavePermafrost_power,
        State.leavePermafrost_keeps State.cores (fun _ _ _ _ _ _ _ _ => rfl) (fun _ _ _ _ _ => rfl) s,
        State.leavePermafrost_keeps State.hbm (fun _ _ _ _ _ _ _ _ => rfl) (fun _ _ _ _ _ => rfl) s⟩
    · exact ⟨rfl, rfl, rfl⟩
  have run := exec_permafrostExit alive
  generalize (if s.power.state = 3 then s.leavePermafrost else s) = t at *
  obtain ⟨state, cores, hbm⟩ := left
  exact ⟨_, run, state, rfl, cores, hbm⟩
theorem sensorRead_answers {b : List Byte} (some : b ≠ []) (short : b.length ≤ 32) : ∃ t, exec (.sensorRead b) s = .next t ∧
    t = { s with out := t.out, freeCtr := s.freeCtr + 1 } ∧ t.out.side.length = 1 + 8 * b.length := by
  refine ⟨_, show execSensorRead b s = _ by
    rw [execSensorRead, alive, if_neg Bool.false_ne_true, if_neg (by simpa using some), if_neg (Nat.not_lt.2 short)], rfl, ?_⟩
  show (leBytes 1 Config.stOk ++ (b.zipIdx.map (fun e => s.sensorBytes e.2 e.1.toNat)).flatten).length = _
  have eight : ∀ x ∈ b.zipIdx.map (fun e => s.sensorBytes e.2 e.1.toNat), x.length = 8 := fun x mem => by
    obtain ⟨e, -, rfl⟩ := List.mem_map.1 mem
    exact s.sensorBytes_length ..
  rw [List.length_append, length_leBytes, length_flatten_const _ eight, List.length_map, List.length_zipIdx]
end

/-! ## Cable presence (R504) -/

theorem exec_cblPresentChange {p : Nat} {high : Bool} (s : State) (hp : p < 16) : exec (.cblPresentChange p high) s =
    if (s.port p).cblHigh = high then .next s
    else if s.dead || s.power.state = 3 then .next (s.updPort p (fun x => { x with cblHigh := high }))
    else .next ((if high && (s.port p).up then s.losePeer p else s).updPort p
      (fun x => { x with cblHigh := high, state := if x.disable then 7 else if high then 0 else 1 })) := by
  show execCblPresentChange p high s = _
  rw [execCblPresentChange, if_neg (Nat.not_le.2 hp)]
/-- A lost port keeps what its cable and its control say. -/
theorem State.losePeer_disable (s : State) (p : Nat) : ((s.losePeer p).port p).disable = (s.port p).disable := by
  obtain ⟨vcs, frame⟩ := s.lostPort_frame p
  rw [((s.losePeer_sends p).port p).frame, State.port_setPort_self, frame]
  rfl
theorem cblPresentChange_changes {p : Nat} {high : Bool} {s : State} (hp : p < 16) (other : (s.port p).cblHigh ≠ high) :
    ∃ t, exec (.cblPresentChange p high) s = .next t ∧ (t.port p).cblHigh = high ∧ t.cores = s.cores ∧ t.hbm = s.hbm ∧
      (s.dead = false → s.power.state ≠ 3 → (s.port p).disable = false → (t.port p).state = (if high then 0 else 1)) := by
  rw [exec_cblPresentChange s hp, if_neg other]
  split
  · next held =>
    refine ⟨_, rfl, congrArg Port.cblHigh (State.port_setPort_self ..), rfl, rfl, fun alive above => ?_⟩
    simp [alive, above] at held
  · have lost : (if high && (s.port p).up then s.losePeer p else s).cores = s.cores ∧
        (if high && (s.port p).up then s.losePeer p else s).hbm = s.hbm ∧
        ((if high && (s.port p).up then s.losePeer p else s).port p).disable = (s.port p).disable := by
      split
      · exact ⟨(s.losePeer_sends p).cores, (s.losePeer_sends p).hbm, s.losePeer_disable p⟩
      · exact ⟨rfl, rfl, rfl⟩
    obtain ⟨cores, hbm, disable⟩ := lost
    refine ⟨_, rfl, congrArg Port.cblHigh (State.port_setPort_self ..), cores, hbm, fun _ _ enabled => ?_⟩
    refine (congrArg Port.state (State.port_setPort_self ..)).trans ?_
    dsimp only
    rw [disable, enabled]
    rfl

/-- Settles O54: each row's own record, and that what it tells of changes neither cores nor HBM. -/
theorem supplyRowsComplete : Obligations.SupplyRowsComplete := by
  refine ⟨fun cause s => ⟨fun may => ?_, shutdownCause_acts⟩, fun s on => ⟨fun leak => ?_, leakDetect_sets on, leakClear_clears on, fun r => ?_⟩,
    fun w s on => ?_, fun k x s hk on above steps below => ?_, fun s alive => ⟨?_, permafrostExit_leads alive, fun refused => ?_,
      fun granted there => ?_, fun b => ⟨fun long => ?_, sensorRead_answers alive⟩⟩, fun p high s hp => ⟨fun same => ?_, cblPresentChange_changes hp⟩⟩
  · show execShutdownCause cause s = _
    rw [execShutdownCause, may, if_pos (by decide)]
  · show execLeakDetect s = _
    rw [execLeakDetect, if_pos (by simp [leak])]
  · obtain ⟨t, run, told⟩ := sensorUpdate_records r on
    refine ⟨_, run, ?_, ?_, ?_, ?_, ?_, ?_, t.alert_cores.trans told.cores, t.alert_hbm.trans told.hbm, t.alert_parts.trans told.parts⟩
    all_goals
      rw [State.alert_cool, told.cool]
      rfl
  · obtain ⟨t, run, told⟩ := powerCapMeasure_records w on
    refine ⟨t, run, ?_⟩
    rw [told.cool]
    refine ⟨rfl, rfl, rfl, told.cores, told.hbm, fun early => ⟨?_, rfl⟩⟩
    show (if (s.cool.capTick == 99) && _ then _ else s.cool.capMs) = _
    rw [beq_false_of_ne early]
    rfl
  · refine ⟨_, fieldThermalEvaluation_records x hk on above, State.alert_cores _, State.alert_hbm _, ?_, fun j hj => ?_⟩
    · have own : (State.alert { s with cool := s.cool.evaluated k x }).cool.fieldSteps.getD k 0 =
          (fieldEval x (s.cool.fieldSteps.getD k 0) (s.cool.fieldBelow.getD k 0)).1 := by
        rw [State.alert_cool]
        exact getD_set_self _ (by rw [steps]; exact hk)
      dsimp only
      rw [own]
      exact ⟨fun h => fieldEval_up h _, fun h b => fieldEval_stays h b _, fun pos h b => fieldEval_down pos h b _⟩
    · rw [State.alert_cool]
      exact getD_set_other _ hj
  · show execPowerStateQuery s = _
    rw [execPowerStateQuery, alive, if_neg Bool.false_ne_true]
    rfl
  · show execPermafrostEntry s = _
    rw [execPermafrostEntry, alive, if_neg Bool.false_ne_true, if_pos refused]
    rfl
  · refine ⟨_, show execPermafrostEntry s = _ by rw [execPermafrostEntry, alive, if_neg Bool.false_ne_true, granted, if_neg (by simp)], ?_, rfl⟩
    exact State.goTo_state 3 s 3 (by omega) (by omega) (by omega) (by omega)
  · show execSensorRead b s = _
    rw [execSensorRead, alive, if_neg Bool.false_ne_true, if_neg (by simp; rintro rfl; simp at long), if_pos long]
    rfl
  · rw [exec_cblPresentChange s hp, if_pos same]

end Sys2Proof.Machine
end

section
-- One proof after another: the stacks of proofs that wait for each other count against the check's memory limit.
set_option Elab.async false
namespace Sys2Proof.Machine

/-! ## Firmware images (R435 to R439) -/

/-- From `f` to `g` only the journal and what its seals count have changed. -/
def FwState.Journals (f g : FwState) : Prop := g = { f with
  journal := g.journal, oldest := g.oldest, baseH := g.baseH, unsealed := g.unsealed, unsealedSince := g.unsealedSince }
theorem FwState.append_journals (f : FwState) (e : JEntry) : f.Journals (f.append e) := by
  unfold FwState.Journals
  rcases f.append_cases e with ⟨-, h⟩ | ⟨-, t, b, h⟩ <;> rw [h]
theorem State.journal_journals (s : State) (e : JEntry) : s.fw.Journals (s.journal e).fw := by
  have appended := s.fw.append_journals { e with dtb := s.dtb }
  unfold FwState.Journals at *
  unfold State.journal
  dsimp only
  rw [appended]
theorem State.jFw_journals (s : State) (f : Fn) (q : Slot) (st : Nat) : s.fw.Journals (s.jFw f q st).fw := s.journal_journals _
theorem State.jFw_frame (s : State) (f : Fn) (q : Slot) (st : Nat) : s.jFw f q st = { s with fw := (s.jFw f q st).fw } := rfl

section
variable {f g : FwState} (h : f.Journals g)
include h
theorem FwState.Journals.image (t : Nat) : g.image t = f.image t := by
  unfold FwState.image
  rw [h]
theorem FwState.Journals.valid (t : Nat) : g.valid t = f.valid t := by
  unfold FwState.valid
  rw [h]
theorem FwState.Journals.rootHead : g.rootHead = f.rootHead := by rw [h]
theorem FwState.Journals.rootSvn : g.rootSvn = f.rootSvn := by rw [h]
theorem FwState.Journals.svcSvn : g.svcSvn = f.svcSvn := by rw [h]
theorem FwState.Journals.revoked : g.revoked = f.revoked := by rw [h]
theorem FwState.Journals.svcRestarts : g.svcRestarts = f.svcRestarts := by rw [h]
theorem FwState.Journals.sound (t : Nat) : g.sound t = f.sound t := by
  have verified : ∀ b, g.verified b = f.verified b := fun b => by
    unfold FwState.verified FwState.imageSigned FwState.svnOk
    rw [h]
  unfold FwState.sound
  rw [h.valid, h.image, verified]
end

theorem FwState.image_setSlot (f : FwState) (t : Nat) (b : List Byte) (ok : Bool) : (f.setSlot t b ok).image t = b ∧ (f.setSlot t b ok).valid t = ok := by
  unfold FwState.image FwState.valid FwState.setSlot
  split <;> exact ⟨rfl, rfl⟩
theorem FwState.image_setSlot_other (f : FwState) {t : Nat} (below : t < 2) (b : List Byte) (ok : Bool) :
    (f.setSlot t b ok).image (1 - t) = f.image (1 - t) ∧ (f.setSlot t b ok).valid (1 - t) = f.valid (1 - t) := by
  unfold FwState.image FwState.valid FwState.setSlot
  obtain rfl | rfl : t = 0 ∨ t = 1 := by omega
  · exact ⟨rfl, rfl⟩
  · exact ⟨rfl, rfl⟩
theorem Up.target_lt (p : List Byte) : Up.target p < 2 := Nat.mod_lt _ (by decide)

theorem fwUpdate_carries {op : Nat} {s : State} {f : Fn} {n : Nat} {q : Slot} (h : s.Carries f n (isFwOp op) q) (ok : Up.bad q.payload = false)
    (body : Slot → State → State) : fwUpdate op f n s body = .next (body q (s.begun f n q)) := by
  refine (commandIf_carries h _).trans ?_
  rw [ok]
  rfl
/-- A completed command: the slot shows it, and only functions and outputs have changed. -/
theorem State.complete_told (s : State) (f : Fn) (n st d : Nat) (r : List Byte) :
    (s.complete f n st d r).Completed f n st r ∧ (s.complete f n st d r).fw = s.fw :=
  ⟨State.complete_completed .., by rw [State.complete_frame]⟩
/-- A command that sets the firmware's state, is journalled and completes. -/
theorem State.journalled_frame (s : State) (f : Fn) (n : Nat) (q : Slot) (x : FwState) (st : Nat) (r : List Byte) :
    (((({ s.begun f n q with fw := x } : State).jFw f q st).complete f n st 0 r).fw = (({ s with fw := x } : State).jFw f q st).fw) ∧
    (({ s.begun f n q with fw := x } : State).jFw f q st).complete f n st 0 r = { s with
      fns := ((({ s.begun f n q with fw := x } : State).jFw f q st).complete f n st 0 r).fns
      out := ((({ s.begun f n q with fw := x } : State).jFw f q st).complete f n st 0 r).out
      fw := ((({ s.begun f n q with fw := x } : State).jFw f q st).complete f n st 0 r).fw } := by
  rw [State.complete_frame]
  exact ⟨rfl, rfl⟩

section
variable {s : State} {f : Fn} {n : Nat} {q : Slot}

theorem fwWrite_writes (a b : List Byte) (h : s.Carries f n (isFwOp 0) q) (ok : Up.bad q.payload = false) (long : 512 ≤ Up.bytes q.payload)
    (short : Up.bytes q.payload ≤ 167772160) (accepted : s.fw.writeRefusal (Up.target q.payload) (sub a 0 (Up.bytes q.payload)) = none) :
    let c := sub b 0 (Up.bytes q.payload)
    let same := sha384 c == sha384 (sub a 0 (Up.bytes q.payload))
    let st := if same then Config.stOk else Config.stBadSignature
    exec (.fwWrite f n (some a) (some b)) s = .next ((({ s.begun f n q with fw := s.fw.setSlot (Up.target q.payload) c same } : State).jFw
      f q st).complete f n st 0 []) := by
  have accepted' : (s.begun f n q).fw.writeRefusal (Up.target q.payload) (sub a 0 (Up.bytes q.payload)) = none := accepted
  have fits : ¬ (decide (Up.bytes q.payload < 512) || decide (167772160 < Up.bytes q.payload)) = true := by
    rw [Bool.or_eq_true, decide_eq_true_eq, decide_eq_true_eq]
    omega
  intro c same st
  show execFwWrite f n (some a) (some b) s = _
  rw [execFwWrite, fwUpdate_carries h ok]
  dsimp only
  rw [if_neg fits, accepted']
  rfl
theorem fwWrite_completes (a b : List Byte) (h : s.Carries f n (isFwOp 0) q) (ok : Up.bad q.payload = false)
    (long : 512 ≤ Up.bytes q.payload) (short : Up.bytes q.payload ≤ 167772160)
    (accepted : s.fw.writeRefusal (Up.target q.payload) (sub a 0 (Up.bytes q.payload)) = none) :
    let k := Up.target q.payload
    let c := sub b 0 (Up.bytes q.payload)
    let same := sha384 c == sha384 (sub a 0 (Up.bytes q.payload))
    ∃ t, exec (.fwWrite f n (some a) (some b)) s = .next t ∧ t.Completed f n (if same then Config.stOk else Config.stBadSignature) [] ∧
      t.fw.image k = c ∧ t.fw.valid k = same ∧ t.fw.image (1 - k) = s.fw.image (1 - k) ∧ t.fw.valid (1 - k) = s.fw.valid (1 - k) ∧
      t = { s with fns := t.fns, out := t.out, fw := t.fw } := by
  intro k c same
  have run := fwWrite_writes a b h ok long short accepted
  obtain ⟨fw, frame⟩ := s.journalled_frame f n q (s.fw.setSlot k c same) (if same then Config.stOk else Config.stBadSignature) []
  have journals := State.jFw_journals { s with fw := s.fw.setSlot k c same } f q (if same then Config.stOk else Config.stBadSignature)
  obtain ⟨image, valid⟩ := s.fw.image_setSlot k c same
  obtain ⟨image2, valid2⟩ := s.fw.image_setSlot_other (Up.target_lt q.payload) c same
  refine ⟨_, run, State.complete_completed .., ?_, ?_, ?_, ?_, frame⟩ <;> rw [fw]
  · exact (journals.image k).trans image
  · exact (journals.valid k).trans valid
  · exact (journals.image _).trans image2
  · exact (journals.valid _).trans valid2

theorem fwAdvanceSvn_raises (h : s.Carries f n (isFwOp 2) q) (ok : Up.bad q.payload = false)
    (boots : ∀ k, k < 2 → s.fw.valid k = true ∧ max s.fw.rootSvn (Fi.rootSvn s.fw.rootHead) ≤ Fi.rootSvn (s.fw.image k) ∧
      max s.fw.svcSvn (Fi.svcSvn s.fw.svcHead) ≤ Fi.svcSvn (s.fw.image k)) :
    ∃ t, exec (.fwAdvanceSvn f n) s = .next t ∧ t.Completed f n Config.stOk [] ∧
      t.fw.rootSvn = max s.fw.rootSvn (Fi.rootSvn s.fw.rootHead) ∧ t.fw.svcSvn = max s.fw.svcSvn (Fi.svcSvn s.fw.svcHead) ∧
      t = { s with fns := t.fns, out := t.out, fw := t.fw } := by
  let x : FwState := { s.fw with rootSvn := max s.fw.rootSvn (Fi.rootSvn s.fw.rootHead), svcSvn := max s.fw.svcSvn (Fi.svcSvn s.fw.svcHead) }
  have run : exec (.fwAdvanceSvn f n) s = .next ((({ s.begun f n q with fw := x } : State).jFw f q Config.stOk).complete f n Config.stOk 0 []) := by
    show execFwAdvanceSvn f n s = _
    rw [execFwAdvanceSvn, fwUpdate_carries h ok]
    refine congrArg Host.Outcome.next (if_pos ?_)
    have first := boots 0 (by decide)
    have second := boots 1 (by decide)
    simp only [List.all_cons, List.all_nil, Bool.and_eq_true, decide_eq_true_eq, and_true]
    exact ⟨⟨⟨first.1, first.2.1⟩, first.2.2⟩, ⟨second.1, second.2.1⟩, second.2.2⟩
  obtain ⟨fw, frame⟩ := s.journalled_frame f n q x Config.stOk []
  have journals := State.jFw_journals { s with fw := x } f q Config.stOk
  refine ⟨_, run, State.complete_completed .., ?_, ?_, frame⟩ <;> rw [fw]
  · exact journals.rootSvn
  · exact journals.svcSvn
theorem fwAdvanceSvn_refuses (h : s.Carries f n (isFwOp 2) q) (ok : Up.bad q.payload = false)
    (fails : ¬ ∀ k, k < 2 → s.fw.valid k = true ∧ max s.fw.rootSvn (Fi.rootSvn s.fw.rootHead) ≤ Fi.rootSvn (s.fw.image k) ∧
      max s.fw.svcSvn (Fi.svcSvn s.fw.svcHead) ≤ Fi.svcSvn (s.fw.image k)) :
    ∃ t, exec (.fwAdvanceSvn f n) s = .next t ∧ t.Completed f n Config.stRollback [] ∧ t.fw = s.fw := by
  have run : exec (.fwAdvanceSvn f n) s = .next ((s.begun f n q).complete f n Config.stRollback 0 []) := by
    show execFwAdvanceSvn f n s = _
    rw [execFwAdvanceSvn, fwUpdate_carries h ok]
    refine congrArg Host.Outcome.next (if_neg fun all => fails fun k hk => ?_)
    have slot := List.all_eq_true.1 all k (by simp; omega)
    simp only [Bool.and_eq_true, decide_eq_true_eq] at slot
    obtain ⟨⟨valid, root⟩, svc⟩ := slot
    exact ⟨valid, root, svc⟩
  obtain ⟨completed, fw⟩ := (s.begun f n q).complete_told f n Config.stRollback 0 []
  exact ⟨_, run, completed, fw⟩

theorem fwRevokeKey_blows (h : s.Carries f n (isFwOp 3) q) (ok : Up.bad q.payload = false) (left : s.fw.revoked ||| 2 ^ Up.key q.payload ≠ 15)
    (unused : ∀ j, j < 2 → s.fw.valid j = true → Fi.keySlot (s.fw.image j) ≠ Up.key q.payload) :
    ∃ t, exec (.fwRevokeKey f n) s = .next t ∧ t.Completed f n Config.stOk [] ∧ t.fw.revoked = (s.fw.revoked ||| 2 ^ Up.key q.payload) ∧
      t = { s with fns := t.fns, out := t.out, fw := t.fw } := by
  let x : FwState := { s.fw with revoked := s.fw.revoked ||| 2 ^ Up.key q.payload }
  have run : exec (.fwRevokeKey f n) s = .next ((({ s.begun f n q with fw := x } : State).jFw f q Config.stOk).complete f n Config.stOk 0 []) := by
    show execFwRevokeKey f n s = _
    rw [execFwRevokeKey, fwUpdate_carries h ok]
    refine congrArg Host.Outcome.next (if_neg fun refused => ?_)
    rcases Bool.or_eq_true_iff.1 refused with used | all
    · obtain ⟨j, mem, uses⟩ := List.any_eq_true.1 used
      rw [Bool.and_eq_true, beq_iff_eq] at uses
      exact unused j (by simp at mem; omega) uses.1 uses.2
    · exact left (beq_iff_eq.1 all)
  obtain ⟨fw, frame⟩ := s.journalled_frame f n q x Config.stOk []
  refine ⟨_, run, State.complete_completed .., ?_, frame⟩
  rw [fw]
  exact (State.jFw_journals { s with fw := x } f q Config.stOk).revoked
theorem fwRevokeKey_refuses (h : s.Carries f n (isFwOp 3) q) (ok : Up.bad q.payload = false) (last : s.fw.revoked ||| 2 ^ Up.key q.payload = 15) :
    ∃ t, exec (.fwRevokeKey f n) s = .next t ∧ t.Completed f n Config.stBadField [] ∧ t.fw = s.fw := by
  have run : exec (.fwRevokeKey f n) s = .next ((s.begun f n q).complete f n Config.stBadField 0 []) := by
    show execFwRevokeKey f n s = _
    rw [execFwRevokeKey, fwUpdate_carries h ok]
    exact congrArg Host.Outcome.next (if_pos (Bool.or_eq_true_iff.2 (.inr (beq_iff_eq.2 last))))
  obtain ⟨completed, fw⟩ := (s.begun f n q).complete_told f n Config.stBadField 0 []
  exact ⟨_, run, completed, fw⟩
end

end Sys2Proof.Machine
end

section
-- One proof after another: the stacks of proofs that wait for each other count against the check's memory limit.
set_option Elab.async false
namespace Sys2Proof.Machine

/-! ## Restarts of service firmware (R434, R437, R452) -/

/-- From `s` to `t` commands have completed: only functions and outputs have changed, and no slot that was done is open. -/
structure State.Finishes (s t : State) : Prop where
  frame : t = { s with fns := t.fns, out := t.out }
  done : ∀ f n, (s.slot f n).done = true → (t.slot f n).done = true
theorem State.Finishes.refl (s : State) : s.Finishes s := ⟨rfl, fun _ _ d => d⟩
theorem State.Finishes.trans {s t u : State} (h : s.Finishes t) (k : t.Finishes u) : s.Finishes u :=
  ⟨by rw [k.frame, h.frame], fun f n d => k.done f n (h.done f n d)⟩
theorem State.complete_finishes (s : State) (f : Fn) (n st d : Nat) (r : List Byte) : s.Finishes (s.complete f n st d r) where
  frame := State.complete_frame ..
  done g m was := by
    rw [State.complete_slot]
    split
    · rfl
    · exact was
theorem State.endInFlight_finishes (s : State) : s.Finishes s.endInFlight := by
  unfold State.endInFlight
  generalize s.posted = l
  induction l generalizing s with
  | nil => exact .refl s
  | cons e r ih =>
    refine State.Finishes.trans ?_ (ih _)
    dsimp only
    split
    · exact s.complete_finishes ..
    · exact .refl s

section
variable (s : State) (k : Nat)

theorem State.restartService_frame : s.restartService k = { s with
    fns := (s.restartService k).fns, out := (s.restartService k).out, fw := (s.restartService k).fw } := by
  unfold State.restartService
  dsimp only
  rw [s.endInFlight_finishes.frame]
theorem State.restartService_done (f : Fn) (n : Nat) (d : (s.slot f n).done = true) : ((s.restartService k).slot f n).done = true :=
  s.endInFlight_finishes.done f n d
/-- Whether slot `k` verifies and carries the root patch in force. -/
def FwState.serves (x : FwState) (k : Nat) : Bool := x.sound k && Fi.digest (Fi.ofKind (x.image k) 1) == Fi.digest (Fi.ofKind x.rootHead 1)
theorem State.restartService_fw : (s.restartService k).fw = { s.fw with
    svcRestarts := satAdd 0x1FF s.fw.svcRestarts 1
    svcRestart := s.fw.serves k
    svcDown := !s.fw.serves k
    svcImage := if s.fw.serves k then k else s.fw.svcImage
    svcHead := if s.fw.serves k then (s.fw.image k).take 512 else s.fw.svcHead } := by
  have fw : s.endInFlight.fw = s.fw := by rw [s.endInFlight_finishes.frame]
  unfold State.restartService
  dsimp only
  rw [fw]
  rfl
end
theorem FwState.Journals.serves {f g : FwState} (h : f.Journals g) (k : Nat) : g.serves k = f.serves k := by
  unfold FwState.serves
  rw [h.sound, h.image, h.rootHead]

theorem fwActivate_restarts {s : State} {f : Fn} {n : Nat} {q : Slot} (h : s.Carries f n (isFwOp 1) q) (ok : Up.bad q.payload = false) :
    ∃ t, exec (.fwActivate f n) s = .next t ∧ (t.slot f n).done = true ∧
      t.fw.svcDown = !s.fw.serves (Up.target q.payload) ∧ t.fw.svcRestart = s.fw.serves (Up.target q.payload) ∧
      t.fw.svcRestarts = satAdd 0x1FF s.fw.svcRestarts 1 ∧
      (s.fw.serves (Up.target q.payload) = true → t.fw.svcImage = Up.target q.payload ∧
        t.fw.svcHead = (s.fw.image (Up.target q.payload)).take 512) ∧ t.cores = s.cores ∧ t.hbm = s.hbm := by
  generalize target : Up.target q.payload = k
  let x := ((s.begun f n q).jFw f q Config.stOk).complete f n Config.stOk 0 []
  have run : exec (.fwActivate f n) s = .next (x.restartService k) := by
    rw [← target]
    show execFwActivate f n s = _
    rw [execFwActivate, fwUpdate_carries h ok]
  have completed : x.Completed f n Config.stOk [] := State.complete_completed ..
  have journals : s.fw.Journals x.fw := by
    have fw : x.fw = ((s.begun f n q).jFw f q Config.stOk).fw := by unfold x; rw [State.complete_frame]
    rw [fw]
    exact (s.begun f n q).jFw_journals f q _
  have fw := x.restartService_fw k
  rw [journals.serves, journals.image, journals.svcRestarts] at fw
  have frame : x = { s with fns := x.fns, out := x.out, fw := x.fw } := by
    unfold x
    rw [State.complete_frame]
    rfl
  refine ⟨_, run, x.restartService_done k f n completed.done, ?_, ?_, ?_, fun serves => ?_, ?_, ?_⟩
  · rw [fw]
  · rw [fw]
  · rw [fw]
  · rw [fw]
    exact ⟨if_pos serves, if_pos serves⟩
  · rw [x.restartService_frame, frame]
  · rw [x.restartService_frame, frame]

/-! ## Attestation and the journal's readers (R440, R441, R444, R446) -/

theorem State.attestation_begun (s : State) (f : Fn) (n : Nat) (q : Slot) (nonce : List Byte) (p : Nat) (cert : Bool) :
    (s.begun f n q).attestation nonce p cert = s.attestation nonce p cert := by
  unfold State.attestation State.attReport
  rfl
theorem attest_reports {s : State} {f : Fn} {n : Nat} {q : Slot} (h : s.Carries f n (isCmd 0x0601) q) :
    ∃ t, exec (.attest f n) s = .next t ∧ t.Completed f n Config.stOk (s.attestation (q.payload.take 32)
        (if isPf f then fbits q.payload 32 3 0 else ((s.begun f n q).ownedBy f).getD 16) (fbits q.payload 32 4 4 == 1)) ∧
      t = { s with fns := t.fns, out := t.out, freeCtr := t.freeCtr } := by
  have run := command_carries h fun q s => s.tick.complete f n Config.stOk 0 (s.attestation (q.payload.take 32)
    (if isPf f then fbits q.payload 32 3 0 else (s.ownedBy f).getD 16) (fbits q.payload 32 4 4 == 1))
  rw [s.attestation_begun] at run
  refine ⟨_, run, State.complete_completed .., ?_⟩
  rw [State.complete_frame]
  rfl

section
variable {s : State} {f : Fn} {n : Nat} {q : Slot} (h : s.Carries f n (isCmd 0x0600) q)
include h
theorem journalRead_answers (here : fld q.payload 16 8 = 0) (short : fld q.payload 8 4 ≤ 31) :
    let r := s.fw.readJournal (fld q.payload 0 8) (min 65536 (fld q.payload 8 4))
    ∃ t, exec (.journalRead f n) s = .next t ∧ t.Completed f n Config.stOk (r.1 ++ r.2) ∧ t = { s with fns := t.fns, out := t.out } ∧
      t.out.host = s.out.host := by
  have all : min 65536 (fld q.payload 8 4) = fld q.payload 8 4 := Nat.min_eq_right (by omega)
  rw [all]
  intro r
  have run : exec (.journalRead f n) s = .next ((s.begun f n q).complete f n Config.stOk 0 (r.1 ++ r.2)) := by
    show execJournalRead f n s = _
    rw [execJournalRead, command_carries h]
    dsimp only
    rw [if_pos here, if_neg (Nat.not_lt.2 short)]
    rfl
  refine ⟨_, run, State.complete_completed .., ?_, State.complete_host ..⟩
  rw [State.complete_frame]
  rfl
theorem journalRead_writes (host : fld q.payload 16 8 ≠ 0) :
    let r := s.fw.readJournal (fld q.payload 0 8) (min 65536 (fld q.payload 8 4))
    ∃ t, exec (.journalRead f n) s = .next t ∧ t.Completed f n Config.stOk r.1 ∧ t = { s with fns := t.fns, out := t.out } ∧
      t.out.host = s.out.host ++ [(f.port, fld q.payload 16 8, r.2)] := by
  rw [Nat.min_comm]
  intro r
  have run : exec (.journalRead f n) s =
      .next (((s.begun f n q).toHost f (fld q.payload 16 8) r.2).complete f n Config.stOk 0 r.1) := by
    show execJournalRead f n s = _
    rw [execJournalRead, command_carries h]
    dsimp only
    rw [if_neg host]
    rfl
  refine ⟨_, run, State.complete_completed .., ?_, State.complete_host ..⟩
  rw [State.complete_frame]
  rfl
end

/-! ## Debug unlock (R447) -/

theorem debugUnlock_carries {op : Nat} {s : State} {f : Fn} {n : Nat} {q : Slot} (h : s.Carries f n (isUnlock op) q) (small : fld q.payload 0 1 ≤ 1)
    (body : Slot → State → State) : debugUnlock op f n s body = .next (body q (s.begun f n q)) :=
  (commandIf_carries h _).trans (congrArg Host.Outcome.next (if_neg (Nat.not_lt.2 small)))
theorem State.Carries.is {s : State} {f : Fn} {n : Nat} {is : Slot → Bool} {q : Slot} (h : s.Carries f n is q) : is q = true := by
  have turn := h.turn
  unfold State.turn at turn
  dsimp only at turn
  split at turn
  · next all =>
    obtain rfl := Option.some.inj turn
    simp only [Bool.and_eq_true] at all
    obtain ⟨⟨⟨⟨-, is⟩, -⟩, -⟩, -⟩ := all
    exact is
  · cases turn
theorem unlockOp_eq {s : State} {f : Fn} {n : Nat} {q : Slot} (h : s.Carries f n (isUnlock 1) q) : fld q.payload 0 1 = 1 := by
  have is := h.is
  unfold isUnlock at is
  by_contra other
  rw [if_neg other, Bool.and_eq_true] at is
  exact absurd is.2 (by decide)

theorem debugChallenge_leaves {s : State} {f : Fn} {n : Nat} {q : Slot} (h : s.Carries f n (isUnlock 0) q) (op : fld q.payload 0 1 = 0) :
    ∃ t, exec (.debugChallenge f n) s = .next t ∧ t.fw = { s.fw with challenge := some s.freeCtr } ∧
      t.Completed f n Config.stOk (leBytes 32 (Config.challenge s.freeCtr).toNat) ∧ t.cores = s.cores ∧ t.hbm = s.hbm := by
  let x : State := { (s.begun f n q).tick with fw := { s.fw with challenge := some s.freeCtr } }
  have run : exec (.debugChallenge f n) s = .next (x.complete f n Config.stOk 0 (leBytes 32 (Config.challenge s.freeCtr).toNat)) := by
    show execDebugChallenge f n s = _
    rw [execDebugChallenge, debugUnlock_carries h (by omega)]
    rfl
  exact ⟨_, run, State.complete_fw .., State.complete_completed .., State.complete_cores .., State.complete_hbm ..⟩

section
variable {s : State} {f : Fn} {n : Nat} {q : Slot} (h : s.Carries f n (isUnlock 1) q)
include h
theorem debugToken_refuses (bad : s.tokenBad (sub q.payload 8 160) = true) : ∃ t, exec (.debugToken f n) s = .next t ∧
    t.Completed f n Config.stDebugLocked [] ∧ t.fw = { s.fw with challenge := none } := by
  let x : State := { s.begun f n q with fw := { s.fw with challenge := none } }
  have run : exec (.debugToken f n) s = .next (x.complete f n Config.stDebugLocked 0 []) := by
    show execDebugToken f n s = _
    rw [execDebugToken, debugUnlock_carries h (Nat.le_of_eq (unlockOp_eq h))]
    exact congrArg Host.Outcome.next (if_pos bad)
  exact ⟨_, run, State.complete_completed .., State.complete_fw ..⟩
theorem debugToken_unlocks (right : s.tokenBad (sub q.payload 8 160) = false) :
    let k := sub q.payload 8 160
    ∃ t, exec (.debugToken f n) s = .next t ∧ t.Completed f n Config.stOk [] ∧ t.fw.challenge = none ∧
       t.fw.debugScope = fld k 52 4 + 1 ∧ t.fw.debugExpires = fld k 56 8 ∧ t.fw.debugSinceCold = true ∧ t.cores = s.cores := by
  intro k
  let x : State := { s.begun f n q with
    fw := { s.fw with challenge := none, debugScope := fld k 52 4 + 1, debugSinceCold := true, debugExpires := fld k 56 8 } }
  let y := x.jCmd f 0x0681 Config.stOk none [] (sub k 52 12)
  have run : exec (.debugToken f n) s = .next (y.complete f n Config.stOk 0 []) := by
    show execDebugToken f n s = _
    rw [execDebugToken, debugUnlock_carries h (Nat.le_of_eq (unlockOp_eq h))]
    exact congrArg Host.Outcome.next (if_neg (ne_true_of_eq_false right))
  have journals : x.fw.Journals y.fw := x.journal_journals _
  refine ⟨_, run, State.complete_completed .., ?_, ?_, ?_, ?_, State.complete_cores ..⟩ <;> rw [State.complete_fw, journals]
end

/-! ## Rows that act when they are due, and the sideband (R434, R441, R444, R446, R447) -/

theorem debugExpiry_locks (s : State) : (s.fw.debugScope = 0 ∨ s.dtb < s.fw.debugExpires → exec .debugExpiry s = .next s) ∧
    (s.fw.debugScope ≠ 0 → s.fw.debugExpires ≤ s.dtb → exec .debugExpiry s = .next { s with fw := { s.fw with debugScope := 0 } }) := by
  constructor
  · intro early
    refine if_neg fun due => ?_
    rw [Bool.and_eq_true, bne_iff_ne, decide_eq_true_eq] at due
    rcases early with locked | before
    · exact due.1 locked
    · exact Nat.not_lt.2 due.2 before
  · intro open_ due
    refine if_pos ?_
    rw [Bool.and_eq_true, bne_iff_ne, decide_eq_true_eq]
    exact ⟨open_, due⟩

section
variable {s : State} (on : s.power.off = false) (free : s.pcie.held = false)
include on free

theorem powered_runs {x y : R} : (if s.power.off || s.pcie.held then x else y) = y := if_neg (by simp [on, free])
theorem journalSeal_idle (early : s.fw.unsealed = 0 ∨ (s.fw.unsealed < 256 ∧ s.dtb < s.fw.unsealedSince + 1000000000)) :
    exec .journalSeal s = .next s := by
  refine (powered_runs on free).trans (if_neg fun due => ?_)
  rw [Bool.and_eq_true, Bool.or_eq_true, decide_eq_true_eq, decide_eq_true_eq, decide_eq_true_eq] at due
  omega
theorem journalSeal_seals (some_ : s.fw.unsealed ≠ 0) (due : 256 ≤ s.fw.unsealed ∨ s.fw.unsealedSince + 1000000000 ≤ s.dtb) :
    ∃ t e, exec .journalSeal s = .next t ∧ t.fw.unsealed = 0 ∧ t.fw.journal.getLast? = some e ∧ e.kind = 3 ∧
      t = { s with fw := t.fw, freeCtr := t.freeCtr } := by
  refine ⟨_, _, (powered_runs on free).trans (if_pos ?_), s.seal_unsealed, s.seal_last, rfl, s.seal_frame⟩
  rw [Bool.and_eq_true, Bool.or_eq_true, decide_eq_true_eq, decide_eq_true_eq, decide_eq_true_eq]
  omega
omit on free in
theorem serviceFwRestart_down (down : s.fw.svcDown = true) : exec .serviceFwRestart s = .next s := if_pos (by simp [down])
theorem serviceFwRestart_restarts (up : s.fw.svcDown = false) : ∃ t, exec .serviceFwRestart s = .next t ∧
    t.fw.svcRestarts = satAdd 0x1FF s.fw.svcRestarts 1 ∧
    (s.fw.sound 1 = true → Fi.digest (Fi.ofKind (s.fw.image 1) 1) = Fi.digest (Fi.ofKind s.fw.rootHead 1) →
      t.fw.svcImage = 1 ∧ t.fw.svcRestart = true) ∧ t = { s with fns := t.fns, out := t.out, fw := t.fw } := by
  have run : exec .serviceFwRestart s = .next (s.restartService 1) := if_neg (by simp [on, free, up])
  have fw := s.restartService_fw 1
  refine ⟨_, run, by rw [fw], fun sound same => ?_, s.restartService_frame 1⟩
  have serves : s.fw.serves 1 = true := by
    unfold FwState.serves
    rw [sound, same, beq_self_eq_true]
    rfl
  rw [fw]
  exact ⟨if_pos serves, serves⟩
theorem mctpJournalRead_answers (b : List Byte) (long : 24 ≤ b.length) (here : fld b 16 8 = 0) :
    let r := s.fw.readJournal (fld b 0 8) (min 7 (fld b 8 4))
    exec (.mctpJournalRead b) s = .next { s with out := { s.out with side := leBytes 1 Config.stOk ++ r.1 ++ r.2 } } := by
  intro r
  show execMctpJournalRead b s = _
  have zero : ¬ (!isZero b 16 8) = true := by rw [isZero, here]; decide
  rw [execMctpJournalRead, powered_runs on free]
  dsimp only
  rw [if_neg (Nat.not_lt.2 long), if_neg zero]
theorem mctpAttest_answers (b : List Byte) (long : 36 ≤ b.length) : ∃ t, exec (.mctpAttest b) s = .next t ∧
    t = { s with out := t.out, freeCtr := s.freeCtr + 1 } ∧ t.out.side = (leBytes 1 Config.stOk ++
      s.attestation (b.take 32) (fbits b 32 3 0) (fbits b 32 4 4 == 1)).take 1024 := by
  generalize answer : leBytes 1 Config.stOk ++ s.attestation (b.take 32) (fbits b 32 3 0) (fbits b 32 4 4 == 1) = r
  have run : exec (.mctpAttest b) s = .next { s.tick with out := { s.out with side := r.take 1024 } } := by
    show execMctpAttest b s = _
    rw [execMctpAttest, powered_runs on free]
    dsimp only
    rw [if_neg (Nat.not_lt.2 long), answer]
  exact ⟨_, run, rfl, rfl⟩
end

/-- Settles O51: each row's effect is its own lemma above; the restart of service firmware, which two rows share, is stated once, and what
journalling leaves of the firmware's state is `FwState.Journals`. -/
theorem firmwareRowsComplete : Obligations.FirmwareRowsComplete := by
  unfold Obligations.FirmwareRowsComplete
  refine ⟨fun f n a b s q h => fwWrite_completes a b h, fun f n s q h ok => fwActivate_restarts h ok,
    fun f n s q h ok => ⟨fwAdvanceSvn_raises h ok, fwAdvanceSvn_refuses h ok⟩,
    fun f n s q h ok => ⟨fwRevokeKey_blows h ok, fwRevokeKey_refuses h ok⟩, fun f n s q h => attest_reports h,
    fun f n s q h => ⟨journalRead_answers h, journalRead_writes h⟩, fun f n s q h => debugChallenge_leaves h,
    fun f n s q h => ⟨debugToken_refuses h, debugToken_unlocks h⟩, debugExpiry_locks, fun s on free =>
    ⟨journalSeal_idle on free, journalSeal_seals on free, serviceFwRestart_down, serviceFwRestart_restarts on free,
      mctpJournalRead_answers on free, mctpAttest_answers on free⟩⟩

end Sys2Proof.Machine
end

section
/-!
Codec pairs: what memory writes leave alone, the encoder's ring, resumption and pair faults (chapter 17).
-/

-- One proof after another: the stacks of proofs that wait for each other count against the check's memory limit.
set_option Elab.async false
namespace Sys2Proof.Machine

/-! ## What writes to memory leave alone -/

/-- From `s` to `t` memory has been written: only HBM, shelves, watches, partitions, functions and outputs have changed. -/
structure State.Wrote (s t : State) : Prop where
  frame : t = { s with hbm := t.hbm, shelves := t.shelves, watches := t.watches, parts := t.parts, fns := t.fns, out := t.out }

section
variable {s t u : State}
theorem State.Wrote.refl (s : State) : s.Wrote s := ⟨rfl⟩
theorem State.Wrote.trans (h : s.Wrote t) (k : t.Wrote u) : s.Wrote u := ⟨by rw [k.frame, h.frame]⟩
theorem State.Wrote.foldl {β : Type} {f : State → β → State} (h : ∀ (s : State) b, s.Wrote (f s b)) (l : List β) (s : State) :
    s.Wrote (l.foldl f s) := by
  induction l generalizing s with
  | nil => exact .refl s
  | cons b r ih => exact (h s b).trans (ih _)
theorem State.Wrote.cores (h : s.Wrote t) : t.cores = s.cores := by rw [h.frame]
theorem State.Wrote.pairs (h : s.Wrote t) : t.pairs = s.pairs := by rw [h.frame]
theorem State.Wrote.pair (h : s.Wrote t) (k : Nat) : t.pair k = s.pair k := by rw [State.pair, State.pair, h.pairs]
theorem State.Wrote.sess (h : s.Wrote t) (k i : Nat) : t.sess k i = s.sess k i := by rw [State.sess, State.sess, h.pair]
end

theorem State.storeAt_wrote (s : State) (p cls : Nat) (lift : Bool) (x : Nat) (bs : List Byte) : s.Wrote (s.storeAt p cls lift x bs) :=
  ⟨by rw [State.storeAt_frame]⟩
theorem State.writeP_wrote (s : State) (p x : Nat) (bs : List Byte) : s.Wrote (s.writeP p x bs) := s.storeAt_wrote ..
theorem State.storeX_wrote (s : State) (p x : Nat) (bs : List Byte) : s.Wrote (s.storeX p x bs) := s.storeAt_wrote ..
theorem State.answer_wrote (s : State) : s.Wrote s.answer := ⟨rfl⟩
theorem State.report_wrote (s : State) (p st d b : Nat) (u : UnitId) : s.Wrote (s.report p st d b u) := ⟨rfl⟩
theorem State.noteShelf_wrote (s : State) (k p e n : Nat) : s.Wrote (s.noteShelf k p e n) := ⟨rfl⟩
theorem State.calve_wrote (s : State) (p x : Nat) : s.Wrote (s.calve p x) := ⟨by rw [State.calve_frame]⟩
theorem State.storeByte_wrote (s : State) (p cls a : Nat) (b : Byte) : s.Wrote (s.storeByte p cls a b) :=
  ⟨by rw [(State.storeByte_spec s p cls a b).1.eq]⟩
theorem State.storeRun_wrote (p : Nat) (bs : List Byte) : ∀ (s : State) (a : Nat), s.Wrote (s.storeRun p a bs) := by
  induction bs with
  | nil => exact fun s _ => .refl s
  | cons b r ih => exact fun s a => ((s.calve_wrote p _).trans (State.storeByte_wrote _ p 1 a b)).trans (ih _ _)
theorem State.storeF_wrote (s : State) (p a : Nat) (bs : List Byte) : s.Wrote (s.storeF p a bs) := by
  unfold State.storeF
  extract_lets t
  have run : s.Wrote t := State.storeRun_wrote p bs s a
  split
  · exact run
  · exact run.trans (t.report_wrote ..)
theorem State.signalAdd_wrote (s : State) (p a : Nat) : s.Wrote (s.signalAdd p a) := by
  unfold State.signalAdd
  split
  · exact ((s.storeF_wrote ..).trans (State.noteShelf_wrote ..)).trans (State.answer_wrote _)
  · exact .refl s

/-- Turns that each write within one range write within that range. -/
theorem State.Writes.foldl_within {β : Type} {f : State → β → State} {p x n : Nat} {l : List β}
    (h : ∀ (s : State), ∀ b ∈ l, s.Writes (f s b) (s.Within p x n)) (s : State) : s.Writes (l.foldl f s) (s.Within p x n) := by
  induction l generalizing s with
  | nil => exact .refl s _
  | cons b r ih =>
    have head := h s b (List.mem_cons_self ..)
    have tail := ih (fun t c mem => h t c (List.mem_cons_of_mem b mem)) (f s b)
    rw [head.within] at tail
    exact head.trans tail

/-! ## Sessions of a pair -/

section
variable (s : State) (k i : Nat)
theorem State.pair_updSess (g : Session → Session) : (s.updSess k i g).pair k = { s.pair k with sessions := ((s.updSess k i g).pair k).sessions } := by
  rw [State.updSess, State.updPair, State.pair_setPair_self]
theorem State.pair_updPair (g : Pair → Pair) : (s.updPair k g).pair k = g (s.pair k) := State.pair_setPair_self ..
/-- A change of a pair that leaves its sessions leaves each as it was. -/
theorem State.sess_updPair {g : Pair → Pair} (keeps : ∀ y, (g y).sessions = y.sessions) : (s.updPair k g).sess k i = s.sess k i := by
  rw [State.sess, State.pair_updPair, Pair.sess, keeps]
  rfl
end
theorem State.completeIf_pairs (s : State) (f : Fn) (n post st d : Nat) (r : List Byte) : (s.completeIf f n post st d r).pairs = s.pairs := by
  rw [State.completeIf_frame]

/-! ## ENCODE_RING_WRITE (R400) -/

/-- The bytes of a bitstream written to the ring, from its own place on and around. -/
def State.ringed (s : State) (p at_ room produced : Nat) (bs : List Byte) : State :=
  bs.zipIdx.foldl (fun s e => s.writeP p (at_ + 64 + (produced + e.2) % room) [e.1]) s
theorem State.ringed_wrote (s : State) (p at_ room produced : Nat) (bs : List Byte) : s.Wrote (s.ringed p at_ room produced bs) :=
  .foldl (fun t _ => t.writeP_wrote ..) _ s
theorem State.ringed_writes (s : State) {p at_ room produced : Nat} {bs : List Byte} (fits : bs.length ≤ room) :
    s.Writes (s.ringed p at_ room produced bs) (s.Within p at_ (64 + room)) := by
  refine State.Writes.foldl_within (fun t e mem => (t.storeAt_writes ..).mono fun a within => within.mono (by omega) ?_) s
  have below : e.2 < bs.length := (List.mem_zipIdx' mem).1
  have inside := Nat.mod_lt (produced + e.2) (show 0 < room by omega)
  rw [List.length_singleton]
  omega

/-- The state in which the picture stands in the ring and PRODUCED at its start. -/
def State.ringFilled (s : State) (p at_ room produced : Nat) (bs : List Byte) : State :=
  ((s.ringed p at_ room produced bs).writeP p at_ (leBytes 8 ((produced + bs.length) % 2 ^ 64))).answer
theorem State.ringFilled_wrote (s : State) (p at_ room produced : Nat) (bs : List Byte) :
    s.Wrote (s.ringFilled p at_ room produced bs) :=
  ((s.ringed_wrote ..).trans (State.writeP_wrote ..)).trans (State.answer_wrote _)
theorem State.ringFilled_hb {s : State} (ok : s.CachesOk) {p at_ room produced b : Nat} {bs : List Byte} (fits : bs.length ≤ room)
    (outside : ¬ s.Within p at_ (64 + room) b) : (s.ringFilled p at_ room produced bs).hb b = s.hb b := by
  have ring := s.ringed_writes (p := p) (at_ := at_) (produced := produced) fits
  have head := (s.ringed p at_ room produced bs).storeAt_writes p 1 false at_ (leBytes 8 ((produced + bs.length) % 2 ^ 64))
  rw [ring.within, length_leBytes] at head
  have all := ring.trans (head.mono fun a within => within.mono (le_refl _) (by omega))
  exact (State.answer_hb ..).trans ((all.mem ok).2 b outside)

/-- A session whose first waiting picture `u` stands in the ring. -/
def Session.ringed (u : Picture) (r : List Picture) (room now : Nat) (x : Session) : Session := { x with
  outputs := { u with written := true, offset := 64 + x.produced % room } :: r
  produced := now }

section
variable {s : State} {k i : Nat} {x : Session} (below : k < 12) (served : (s.pair k).session = i) (own : s.sess k i = x)
include below served own

theorem encodeRingWrite_held (held : s.memHeld x.part = true) : exec (.encodeRingWrite k) s = .next s := by
  show execEncodeRingWrite k s = _
  rw [execEncodeRingWrite, if_neg (Nat.not_le.2 below), served]
  dsimp only
  rw [own]
  split
  · exact if_pos (by simp [held])
  · rfl

variable {u : Picture} {r : List Picture} (run : (s.pair k).run = 1) (free : s.memHeld x.part = false) (first : x.outputs = u :: r)
  (encoded : u.encode = true) (waits : u.written = false)
include run free first encoded waits

/-- What is written of a picture that the encoder has coded. -/
theorem encodeRingWrite_writes : exec (.encodeRingWrite k) s =
    let room := Cd.ring x.desc - 64
    if room < u.coded.length then .next (s.updSess k i (fun x => { x with
        outputs := { u with written := true, dropped := true, cause := 9, bytes := 0, offset := 0 } :: r, forceKey := true }))
    else if room < (x.produced + 2 ^ 64 - s.leX (s.part x.part).geo (Cd.addr x.desc 112 + 8) 8) % 2 ^ 64 + u.coded.length then .next s
    else .next ((s.ringFilled x.part (Cd.addr x.desc 112) room x.produced u.coded).updSess k i
      (Session.ringed u r room ((x.produced + u.coded.length) % 2 ^ 64))) := by
  show execEncodeRingWrite k s = _
  rw [execEncodeRingWrite, if_neg (Nat.not_le.2 below), served]
  dsimp only
  rw [own, first]
  dsimp only
  rw [if_neg (by simp [run, encoded, waits, free])]
  rfl

theorem encodeRingWrite_waits (small : u.coded.length ≤ Cd.ring x.desc - 64) (full : Cd.ring x.desc - 64 <
    (x.produced + 2 ^ 64 - s.leX (s.part x.part).geo (Cd.addr x.desc 112 + 8) 8) % 2 ^ 64 + u.coded.length) :
    exec (.encodeRingWrite k) s = .next s := by
  rw [encodeRingWrite_writes below served own run free first encoded waits]
  dsimp only
  rw [if_neg (Nat.not_lt.2 small), if_pos full]

theorem encodeRingWrite_fills (ring : 64 ≤ Cd.ring x.desc) (small : u.coded.length ≤ Cd.ring x.desc - 64)
    (room : (x.produced + 2 ^ 64 - s.leX (s.part x.part).geo (Cd.addr x.desc 112 + 8) 8) % 2 ^ 64 + u.coded.length ≤ Cd.ring x.desc - 64) :
    ∃ t, exec (.encodeRingWrite k) s = .next t ∧ t.cores = s.cores ∧ (t.sess k i).produced = (x.produced + u.coded.length) % 2 ^ 64 ∧
      (t.sess k i).outputs = { u with written := true, offset := 64 + x.produced % (Cd.ring x.desc - 64) } :: r ∧
      (s.CachesOk → ∀ b, (∀ j, j < Cd.ring x.desc → interPhys (s.part x.part).geo (Cd.addr x.desc 112 + j) ≠ some b) → t.hb b = s.hb b) := by
  have runs := encodeRingWrite_writes below served own run free first encoded waits
  dsimp only at runs
  rw [if_neg (Nat.not_lt.2 small), if_neg (Nat.not_lt.2 room)] at runs
  have wrote := s.ringFilled_wrote x.part (Cd.addr x.desc 112) (Cd.ring x.desc - 64) x.produced u.coded
  have sess := (wrote.sess k i).trans own
  generalize (x.produced + u.coded.length) % 2 ^ 64 = now at runs ⊢
  generalize filled : s.ringFilled x.part (Cd.addr x.desc 112) (Cd.ring x.desc - 64) x.produced u.coded = f at *
  refine ⟨_, runs, wrote.cores, ?_, ?_, fun ok b outside => ?_⟩
  · rw [State.sess_updSess_self, sess, Session.ringed]
  · rw [State.sess_updSess_self, sess, Session.ringed]
  have same : (f.updSess k i (Session.ringed u r (Cd.ring x.desc - 64) now)).hb b = f.hb b := rfl
  rw [same, ← filled]
  refine State.ringFilled_hb ok small ?_
  rintro ⟨j, inside, at_⟩
  have whole : 64 + (Cd.ring x.desc - 64) = Cd.ring x.desc := Nat.add_sub_cancel' ring
  exact outside j (by rwa [whole] at inside) at_

theorem encodeRingWrite_drops (large : Cd.ring x.desc - 64 < u.coded.length) :
    ∃ t, exec (.encodeRingWrite k) s = .next t ∧ t.cores = s.cores ∧ t.hbm = s.hbm ∧
      (t.sess k i).outputs = { u with written := true, dropped := true, cause := 9, bytes := 0, offset := 0 } :: r ∧
      (t.sess k i).nextKey false = true := by
  have runs := encodeRingWrite_writes below served own run free first encoded waits
  dsimp only at runs
  rw [if_pos large] at runs
  refine ⟨_, runs, rfl, rfl, by rw [State.sess_updSess_self], ?_⟩
  rw [State.sess_updSess_self]
  simp [Session.nextKey]
end

/-! ## CODEC_RESUME and CODEC_PAIR_FAULT (R401, R402) -/

/-- A pair that goes on with session `i`, and one that a fault resets. -/
def Pair.resumed (i p occ : Nat) (y : Pair) : Pair := { y with run := 1, session := i, part := p, binOcc := occ }
def Pair.cleared (y : Pair) : Pair := { y with run := 0, binOcc := 0, token := (y.token + 1) % 65536 }

theorem codecResume_idle {s : State} {k i : Nat} (pair : k < 12) (index : i < 16) (idle : (s.sess k i).saved = false ∨ (s.pair k).run ≠ 0) :
    exec (.codecResume k i) s = .next s := by
  show execCodecResume k i s = _
  rw [execCodecResume, if_neg (by simp; omega)]
  refine if_neg fun all => ?_
  simp only [Bool.and_eq_true, beq_iff_eq] at all
  obtain ⟨⟨⟨-, saved⟩, stopped⟩, -⟩ := all
  rcases idle with unsaved | runs
  · exact absurd saved (by rw [unsaved]; decide)
  · exact runs stopped
theorem codecResume_resumes {s : State} {k i : Nat} (pair : k < 12) (index : i < 16) (isOpen : (s.sess k i).isOpen = true)
    (saved : (s.sess k i).saved = true) (idle : (s.pair k).run = 0) (may : s.pairMay k (s.sess k i).part = true) :
    ∃ t, exec (.codecResume k i) s = .next t ∧ t.cores = s.cores ∧ t.hbm = s.hbm ∧ (t.pair k).run = 1 ∧ (t.pair k).session = i ∧
      (t.pair k).part = (s.sess k i).part ∧ t.sess k i = { s.sess k i with saved := false } := by
  let x := s.updSess k i (fun x => { x with saved := false })
  let y := x.updPair k (Pair.resumed i (s.sess k i).part (Config.freeNat s.freeCtr % 4194305))
  have runs : exec (.codecResume k i) s = .next y.tick := by
    show execCodecResume k i s = _
    rw [execCodecResume, if_neg (by simp; omega)]
    exact if_pos (by simp [isOpen, saved, idle, may])
  have served : y.pair k = (x.pair k).resumed i (s.sess k i).part (Config.freeNat s.freeCtr % 4194305) := x.pair_updPair k _
  refine ⟨_, runs, rfl, rfl, congrArg Pair.run served, congrArg Pair.session served, congrArg Pair.part served, ?_⟩
  exact (x.sess_updPair k i (g := Pair.resumed _ _ _) fun _ => rfl).trans (s.sess_updSess_self ..)

/-- A session that closes keeps its generation alone; its pair keeps its token. -/
theorem State.closeSession_closed (s : State) (k i st : Nat) (isOpen : (s.sess k i).isOpen = true) :
    (s.closeSession k i st).sess k i = { gen := (s.sess k i).gen } ∧ ((s.closeSession k i st).pair k).token = (s.pair k).token := by
  unfold State.closeSession
  extract_lets q s1 s2 s3
  rw [if_neg (by simp [q, isOpen])]
  have submits : s1.pairs = s.pairs := foldl_keeps State.pairs (fun t e => t.completeIf_pairs ..) _ s
  have pair1 : s1.pair k = s.pair k := by rw [State.pair, State.pair, submits]
  have sess1 : s1.sess k i = s.sess k i := by rw [State.sess, State.sess, pair1]
  have closed : s3 = s1.closed k i := rfl
  have sess3 : s3.sess k i = { gen := (s.sess k i).gen } := by rw [closed, State.closed_sess, sess1]
  have token3 : (s3.pair k).token = (s.pair k).token := by
    unfold s3
    rw [State.pair_updPair]
    have token2 : (s2.pair k).token = (s.pair k).token := by
      rw [show s2.pair k = _ from s1.pair_updSess k i _, pair1]
    split <;> exact token2
  split
  · rw [State.sess, State.pair, State.completeIf_pairs]
    exact ⟨sess3, token3⟩
  · exact ⟨sess3, token3⟩

theorem codecPairFault_idle {s : State} {k : Nat} (pair : k < 12)
    (idle : (s.pair k).run ≠ 1 ∨ (s.sess k (s.pair k).session).isOpen = false) : exec (.codecPairFault k) s = .next s := by
  show execCodecPairFault k s = _
  rw [execCodecPairFault, if_neg (Nat.not_le.2 pair)]
  refine if_pos ?_
  rcases idle with stopped | closed
  · simp [stopped]
  · simp [closed]
theorem codecPairFault_closes {s : State} {k : Nat} (pair : k < 12) (run : (s.pair k).run = 1)
    (isOpen : (s.sess k (s.pair k).session).isOpen = true) (on : s.power.off = false) (released : s.pcie.held = false) :
    ∃ t, exec (.codecPairFault k) s = .next t ∧ t.cores = s.cores ∧ t.hbm = s.hbm ∧ (t.sess k (s.pair k).session).isOpen = false ∧
      (t.pair k).run = 0 ∧ (t.pair k).token = ((s.pair k).token + 1) % 65536 ∧
      (t.part (s.sess k (s.pair k).session).part).job.lastFault = Config.stCodecFault := by
  generalize index : (s.pair k).session = i at *
  let x := s.sess k i
  let e : Event := { status := Config.stCodecFault, part := x.part, srcKind := 4, src := k }
  let s0 := s.closeSession k i Config.stCodecFault
  let s1 := s0.event e
  let s2 := s1.updJob x.part (fun j => { j with
    lastFault := Config.stCodecFault, history := (j.history ++ [e.bytes s.dtb]).drop (j.history.length - 15) })
  let t := s2.updPair k Pair.cleared
  have runs : exec (.codecPairFault k) s = .next t := by
    show execCodecPairFault k s = _
    rw [execCodecPairFault, if_neg (Nat.not_le.2 pair)]
    dsimp only
    rw [index]
    exact if_neg (by simp [on, released, run, isOpen])
  obtain ⟨closed, token⟩ := s.closeSession_closed k i Config.stCodecFault isOpen
  have ends := s.closeSession_ends k i Config.stCodecFault
  have told : s0.Told s1 := s0.event_told e
  have pair1 : s2.pair k = s0.pair k := by
    show s1.pair k = _
    rw [told]
    rfl
  have pairT : t.pair k = (s0.pair k).cleared := by
    rw [← pair1]
    exact s2.pair_updPair k _
  refine ⟨t, runs, told.cores.trans (by unfold s0; rw [ends.frame]), told.hbm.trans (by unfold s0; rw [ends.frame]), ?_, ?_, ?_, ?_⟩
  · have sess : t.sess k i = s0.sess k i := (s2.sess_updPair k i (g := Pair.cleared) fun _ => rfl).trans (by rw [State.sess, pair1]; rfl)
    rw [sess, closed]
  · rw [pairT, Pair.cleared]
  · rw [pairT, Pair.cleared, token]
  · show (s2.part x.part).job.lastFault = _
    rw [show s2.part x.part = _ from s1.part_updJob_self ..]

/-- Settles O44: the ring's writes stay within it (`State.ringed_writes`), and a session that closes changes no core and no byte. -/
theorem codecPairsComplete : Obligations.CodecPairsComplete := by
  unfold Obligations.CodecPairsComplete
  refine ⟨fun k s u r below run => ⟨encodeRingWrite_held below rfl rfl, fun free first encoded waits ring =>
    ⟨encodeRingWrite_waits below rfl rfl run free first encoded waits, encodeRingWrite_fills below rfl rfl run free first encoded waits ring,
      encodeRingWrite_drops below rfl rfl run free first encoded waits⟩⟩,
    fun k i s pair index => ⟨codecResume_idle pair index, codecResume_resumes pair index⟩,
    fun k s pair => ⟨codecPairFault_idle pair, codecPairFault_closes pair⟩⟩

end Sys2Proof.Machine
end

section
/-!
Codec pictures: a pair takes a picture, outputs it, and abandons it (chapter 17).
-/

-- One proof after another: the stacks of proofs that wait for each other count against the check's memory limit.
set_option Elab.async false
namespace Sys2Proof.Machine

/-! ## What a picture's memory writes and its submits' ends leave alone -/

theorem State.writeFrame_wrote (s : State) (k i : Nat) (u : Picture) : s.Wrote (s.writeFrame k i u) := by
  unfold State.writeFrame
  dsimp only
  split
  · exact .refl s
  · exact .foldl (fun t q => .foldl (fun t y => t.writeP_wrote ..) _ t) _ s

theorem State.settleSession_open (s : State) (k i : Nat) (live : (s.sess k i).closing = 0) : s.settleSession k i = s := by
  unfold State.settleSession
  exact if_neg (by simp [live])

/-- From `s` to `t` submits of session `i` of pair `k` have been consumed: the pair, the session's other fields and every core are as they
were. -/
structure State.Consumes (s t : State) (k i : Nat) : Prop where
  cores : t.cores = s.cores
  pair : t.pair k = { s.pair k with sessions := (t.pair k).sessions }
  sess : t.sess k i = { s.sess k i with submits := (t.sess k i).submits }
theorem State.Consumes.refl (s : State) (k i : Nat) : s.Consumes s k i := ⟨rfl, rfl, rfl⟩
theorem State.Consumes.trans {s t u : State} {k i : Nat} (h : s.Consumes t k i) (g : t.Consumes u k i) : s.Consumes u k i :=
  ⟨g.cores.trans h.cores, by rw [g.pair, h.pair], by rw [g.sess, h.sess]⟩
theorem State.completeIf_consumes (s : State) (k i : Nat) (f : Fn) (n post st d : Nat) (r : List Byte) :
    s.Consumes (s.completeIf f n post st d r) k i := by
  have pair : (s.completeIf f n post st d r).pair k = s.pair k := by rw [State.pair, State.completeIf_pairs]; rfl
  have sess : (s.completeIf f n post st d r).sess k i = s.sess k i := by rw [State.sess, pair]; rfl
  exact ⟨by rw [State.completeIf_frame], by rw [pair], by rw [sess]⟩
theorem State.dropParsed_consumes (k i n : Nat) : ∀ s : State, s.Consumes (s.dropParsed k i n) k i := by
  induction n with
  | zero => exact fun s => .refl s k i
  | succ n ih =>
    intro s
    rw [State.dropParsed]
    split
    · exact .refl s k i
    · next u rest _ =>
      split
      · have dropped : s.Consumes (s.updSess k i (fun x => { x with submits := rest })) k i :=
          ⟨rfl, s.pair_updSess k i _, by rw [State.sess_updSess_self]⟩
        exact (dropped.trans (State.completeIf_consumes ..)).trans (ih _)
      · exact .refl s k i
/-- A head submit that holds bytes stays. -/
theorem State.dropParsed_left {s : State} {k i : Nat} {u : Submit} {rest : List Submit} (head : (s.sess k i).submits = u :: rest)
    (left : u.left ≠ 0) (n : Nat) : s.dropParsed k i n = s := by
  cases n with
  | zero => rfl
  | succ n =>
    rw [State.dropParsed, head]
    exact if_neg (by simp [left])

/-- Parsing reads memory alone. -/
theorem State.parse_updPair (s : State) (k : Nat) (f : Pair → Pair) (g : Geometry) (subs : List Submit) :
    ∀ n, (s.updPair k f).parse g n subs = s.parse g n subs := by
  induction subs with
  | nil => exact fun _ => rfl
  | cons u rest ih =>
    intro n
    have read : ∀ x m, (s.updPair k f).readX g x m = s.readX g x m := fun x m =>
      State.readX_congr (s := s) (t := s.updPair k f) (fun _ => rfl) g m x
    have ready : (s.updPair k f).submitReady g u = s.submitReady g u := rfl
    simp only [State.parse, ih, read, ready]

/-! ## CODEC_PICTURE (R386, R387, R390, R398) -/

/-- A pair that serves session `i`. -/
def Pair.serving (i p : Nat) (y : Pair) : Pair := { y with run := 1, session := i, part := p }

section
variable {s : State} {k i : Nat} {x : Session} (own : s.sess k i = x) (pair : k < 12) (index : i < 16) (cause frame n : Nat)
  (key nonref : Bool)
include own pair index

omit own in
theorem codecPicture_otherTurn (other : s.nextSession k ≠ some i) : exec (.codecPicture k i cause key nonref frame n) s = .next s := by
  show execCodecPicture k i cause key nonref frame n s = _
  rw [execCodecPicture, if_neg (by simp; omega)]
  exact if_pos (by simp [other])
theorem codecPicture_badCause (decodes : Cd.encode x.desc = false) (bad : streamCause x.desc x.submits n cause = false) :
    exec (.codecPicture k i cause key nonref frame n) s = .next s := by
  show execCodecPicture k i cause key nonref frame n s = _
  rw [execCodecPicture, if_neg (by simp; omega)]
  dsimp only
  rw [own]
  exact if_pos (by simp [decodes, bad])

variable (turn : s.nextSession k = some i) (done : s.pictureOpen k = false) (unlimited : x.atLimit = false)
include turn done unlimited

theorem codecPicture_decodes_eq (decodes : Cd.encode x.desc = false) (good : streamCause x.desc x.submits n cause = true) :
    exec (.codecPicture k i cause key nonref frame n) s =
      let s2 := (s.updPair k (Pair.serving i x.part)).dropParsed k i 33
      if ((s2.sess k i).submits.isEmpty || n = 0) = true then .next (s2.settleSession k i)
      else .next ((s2.decodePicture k i cause key nonref frame n).settleSession k i) := by
  show execCodecPicture k i cause key nonref frame n s = _
  rw [execCodecPicture, if_neg (by simp; omega)]
  dsimp only
  rw [own, if_neg (by simp [turn, done, good]), if_neg (by simp [unlimited]), if_neg (by simp [decodes])]
  rfl
theorem codecPicture_encodes_eq (encodes : Cd.encode x.desc = true) : exec (.codecPicture k i cause key nonref frame n) s =
    .next (((s.updPair k (Pair.serving i x.part)).encodePicture k i frame).settleSession k i) := by
  show execCodecPicture k i cause key nonref frame n s = _
  rw [execCodecPicture, if_neg (by simp; omega)]
  dsimp only
  rw [own, if_neg (by simp [turn, done, encodes]), if_neg (by simp [unlimited]), if_pos encodes]
  rfl
end

/-- From `s` to `t` picture `v` has joined those of the session that await output, and bytes `b` what it has parsed; no core differs, and
the pair serves what it served. -/
structure State.Decodes (s t : State) (k i : Nat) (v : Picture) (b : List Byte) : Prop where
  cores : t.cores = s.cores
  run : (t.pair k).run = (s.pair k).run
  session : (t.pair k).session = (s.pair k).session
  part : (t.pair k).part = (s.pair k).part
  outputs : (t.sess k i).outputs = (s.sess k i).outputs ++ [v]
  coded : (t.sess k i).coded = (s.sess k i).coded + 1
  hist : (t.sess k i).hist = (s.sess k i).hist ++ b
  closing : (t.sess k i).closing = (s.sess k i).closing
theorem State.Decodes.consumes {s t u : State} {k i : Nat} {v : Picture} {b : List Byte} (h : s.Decodes t k i v b) (g : t.Consumes u k i) :
    s.Decodes u k i v b where
  cores := g.cores.trans h.cores
  run := by rw [g.pair]; exact h.run
  session := by rw [g.pair]; exact h.session
  part := by rw [g.pair]; exact h.part
  outputs := by rw [g.sess]; exact h.outputs
  coded := by rw [g.sess]; exact h.coded
  hist := by rw [g.sess]; exact h.hist
  closing := by rw [g.sess]; exact h.closing
theorem State.Decodes.wrote {s t u : State} {k i : Nat} {v : Picture} {b : List Byte} (h : s.Decodes t k i v b) (g : t.Wrote u) :
    s.Decodes u k i v b :=
  h.consumes ⟨g.cores, by rw [g.pair], by rw [g.sess]⟩
theorem State.Decodes.updPair {s t : State} {k i : Nat} {v : Picture} {b : List Byte} (h : s.Decodes t k i v b) {f : Pair → Pair}
    (sessions : ∀ y, (f y).sessions = y.sessions) (run : ∀ y, (f y).run = y.run) (session : ∀ y, (f y).session = y.session)
    (part : ∀ y, (f y).part = y.part) : s.Decodes (t.updPair k f) k i v b where
  cores := h.cores
  run := by rw [State.pair_updPair, run]; exact h.run
  session := by rw [State.pair_updPair, session]; exact h.session
  part := by rw [State.pair_updPair, part]; exact h.part
  outputs := by rw [State.sess_updPair _ _ _ sessions]; exact h.outputs
  coded := by rw [State.sess_updPair _ _ _ sessions]; exact h.coded
  hist := by rw [State.sess_updPair _ _ _ sessions]; exact h.hist
  closing := by rw [State.sess_updPair _ _ _ sessions]; exact h.closing
theorem State.Decodes.of_updSess (s : State) (k i : Nat) {v : Picture} {b : List Byte} {f : Session → Session}
    (outputs : (f (s.sess k i)).outputs = (s.sess k i).outputs ++ [v]) (coded : (f (s.sess k i)).coded = (s.sess k i).coded + 1)
    (hist : (f (s.sess k i)).hist = (s.sess k i).hist ++ b) (closing : (f (s.sess k i)).closing = (s.sess k i).closing) :
    s.Decodes (s.updSess k i f) k i v b where
  cores := rfl
  run := by rw [State.pair_updSess]
  session := by rw [State.pair_updSess]
  part := by rw [State.pair_updSess]
  outputs := by rw [State.sess_updSess_self]; exact outputs
  coded := by rw [State.sess_updSess_self]; exact coded
  hist := by rw [State.sess_updSess_self]; exact hist
  closing := by rw [State.sess_updSess_self]; exact closing

theorem State.Decodes.of_tick {s t : State} {k i : Nat} {v : Picture} {b : List Byte} (h : s.tick.Decodes t k i v b) : s.Decodes t k i v b :=
  ⟨h.cores, h.run, h.session, h.part, h.outputs, h.coded, h.hist, h.closing⟩
/-- A decoded picture takes the session's next number and its frame buffer. -/
theorem State.decodePicture_decodes {s : State} {k i cause frame n : Nat} {key nonref : Bool} {b : List Byte} {subs : List Submit}
    (parsed : s.parse (s.part (s.sess k i).part).geo n (s.sess k i).submits = some (b, subs))
    (keeps : Cd.skipNonref (s.sess k i).desc = false) (free : (s.sess k i).frameFree frame = true) :
    ∃ v, s.Decodes (s.decodePicture k i cause key nonref frame n) k i v b ∧ v.num = (s.sess k i).coded ∧ v.frame = some frame ∧
      v.key = key ∧ v.cause = cause ∧ v.bytes = n ∧ v.encode = false := by
  unfold State.decodePicture
  extract_lets x g
  split
  · next none_ => exact absurd (none_.symm.trans parsed) (by simp)
  · next skip _ b' subs' some_ =>
    obtain ⟨rfl, rfl⟩ : b' = b ∧ subs' = subs := by
      have same := some_.symm.trans parsed
      simpa using same
    have unskipped : skip = false := by simp [skip, x, keeps]
    rw [unskipped, if_neg (by simp [x, free])]
    extract_lets hist refBad order v s1 s2
    refine ⟨v, ?_, rfl, rfl, rfl, rfl, rfl, rfl⟩
    have appended : s.tick.Decodes s1 k i v b' := .of_updSess s.tick k i rfl rfl rfl rfl
    have written := appended.wrote (s1.writeFrame_wrote k i v)
    have noted : s.tick.Decodes s2 k i v b' := written.updPair (fun _ => rfl) (fun _ => rfl) (fun _ => rfl) (fun _ => rfl)
    exact (noted.consumes (s2.dropParsed_consumes k i 33)).of_tick

section
variable {s : State} {k i : Nat} {x : Session} (own : s.sess k i = x) (pair : k < 12) (index : i < 16) (cause frame n : Nat)
  (key nonref : Bool) (turn : s.nextSession k = some i) (done : s.pictureOpen k = false) (unlimited : x.atLimit = false)
  (free : x.frameFree frame = true) (live : x.closing = 0)
include own pair index turn done unlimited free live

theorem codecPicture_decodes {u : Submit} {rest : List Submit} {b : List Byte} {subs : List Submit} (decodes : Cd.encode x.desc = false)
    (keeps : Cd.skipNonref x.desc = false) (good : streamCause x.desc x.submits n cause = true) (some_ : n ≠ 0)
    (head : x.submits = u :: rest) (left : u.left ≠ 0) (parsed : s.parse (s.part x.part).geo n x.submits = some (b, subs)) :
    ∃ t v, exec (.codecPicture k i cause key nonref frame n) s = .next t ∧ t.cores = s.cores ∧
      (t.pair k).run = 1 ∧ (t.pair k).session = i ∧ (t.pair k).part = x.part ∧ (t.sess k i).outputs = x.outputs ++ [v] ∧
      v.num = x.coded ∧ v.frame = some frame ∧ v.key = key ∧ v.cause = cause ∧ v.bytes = n ∧ v.encode = false ∧
      (t.sess k i).coded = x.coded + 1 ∧ (t.sess k i).hist = x.hist ++ b := by
  have runs := codecPicture_decodes_eq own pair index cause frame n key nonref turn done unlimited decodes good
  generalize served : s.updPair k (Pair.serving i x.part) = s1 at runs
  have pair1 : s1.pair k = (s.pair k).serving i x.part := by rw [← served]; exact s.pair_updPair k _
  have sess1 : s1.sess k i = x := by
    rw [← served, ← own]
    exact s.sess_updPair k i (g := Pair.serving i _) fun _ => rfl
  have parsed1 : s1.parse (s1.part (s1.sess k i).part).geo n (s1.sess k i).submits = some (b, subs) := by
    rw [sess1, ← served, State.parse_updPair]
    exact parsed
  dsimp only at runs
  rw [State.dropParsed_left (by rw [sess1]; exact head) left, sess1, head, if_neg (by simp [some_])] at runs
  obtain ⟨v, appends, num, buffer, vkey, vcause, bytes, codes⟩ := State.decodePicture_decodes (cause := cause) (key := key) (nonref := nonref)
    parsed1 (by rw [sess1]; exact keeps) (by rw [sess1]; exact free)
  rw [State.settleSession_open _ _ _ (appends.closing.trans (by rw [sess1]; exact live))] at runs
  have cores := appends.cores
  obtain ⟨-, run, session, part, outputs, coded, hist, -⟩ := appends
  rw [sess1] at outputs coded hist num
  rw [pair1] at run session part
  exact ⟨_, v, runs, cores.trans (by rw [← served]; rfl), run, session, part, outputs, num, buffer, vkey, vcause, bytes, codes, coded, hist⟩

omit pair index turn done unlimited live in
/-- An encoded picture takes its submit and waits, with its bitstream, for the ring. -/
theorem State.encodePicture_encodes {u : Submit} {rest : List Submit} (head : x.submits = u :: rest)
    (ready : s.submitReady (s.part x.part).geo u = true) (brings : fld u.record 8 5 ≠ 0) :
    ∃ v, (s.encodePicture k i frame).cores = s.cores ∧ ((s.encodePicture k i frame).pair k).run = (s.pair k).run ∧
      ((s.encodePicture k i frame).sess k i).submits = rest ∧ ((s.encodePicture k i frame).sess k i).outputs = x.outputs ++ [v] ∧
      v.num = x.coded ∧ v.frame = some frame ∧ v.encode = true ∧ v.written = false ∧ v.bytes = v.coded.length ∧
      v.key = x.nextKey (fbits u.record 4 1 1 = 1) ∧ ((s.encodePicture k i frame).sess k i).coded = x.coded + 1 ∧
      ((s.encodePicture k i frame).sess k i).closing = x.closing := by
  subst own
  unfold State.encodePicture
  extract_lets x g
  split
  · next none_ => exact absurd (none_.symm.trans head) (by simp)
  · next u' rest' some_ =>
    obtain ⟨rfl, rfl⟩ : u' = u ∧ rest' = rest := by
      have same := some_.symm.trans head
      simpa using same
    rw [if_neg (by simp [g, x, ready]), if_neg brings, if_neg (by simp [x, free])]
    extract_lets key plan hist bitsOut refBad v s1
    have wrote := s1.writeFrame_wrote k i v
    have ended := (s1.writeFrame k i v).completeIf_consumes k i u'.fn u'.slot u'.post Config.stOk 0 []
    have pairs : ((s1.writeFrame k i v).completeIf u'.fn u'.slot u'.post Config.stOk 0 []).pair k = s1.pair k := by
      rw [State.pair, State.completeIf_pairs]
      exact wrote.pair k
    have sess : ((s1.writeFrame k i v).completeIf u'.fn u'.slot u'.post Config.stOk 0 []).sess k i = s1.sess k i := by
      rw [State.sess, pairs]
      rfl
    refine ⟨v, ended.cores.trans wrote.cores, ?_, ?_, ?_, rfl, rfl, rfl, rfl, rfl, rfl, ?_, ?_⟩
    · rw [pairs, State.pair_updSess]
    · rw [sess, State.sess_updSess_self]
    · rw [sess, State.sess_updSess_self]
    · rw [sess, State.sess_updSess_self]
    · rw [sess, State.sess_updSess_self]

theorem codecPicture_encodes {u : Submit} {rest : List Submit} (encodes : Cd.encode x.desc = true) (head : x.submits = u :: rest)
    (brings : fld u.record 8 5 ≠ 0) :
    ∃ t v, exec (.codecPicture k i cause key nonref frame n) s = .next t ∧ t.cores = s.cores ∧ (t.pair k).run = 1 ∧
      (t.sess k i).submits = rest ∧ (t.sess k i).outputs = x.outputs ++ [v] ∧ v.num = x.coded ∧ v.frame = some frame ∧
      v.encode = true ∧ v.written = false ∧ v.bytes = v.coded.length ∧ v.key = x.nextKey (fbits u.record 4 1 1 = 1) ∧
      (t.sess k i).coded = x.coded + 1 := by
  have runs := codecPicture_encodes_eq own pair index cause frame n key nonref turn done unlimited encodes
  have ready : s.submitReady (s.part x.part).geo u = true := by
    have works := List.find?_some turn
    unfold State.hasWork at works
    dsimp only at works
    rw [own, head, Bool.and_eq_true] at works
    exact works.2
  have pair1 : (s.updPair k (Pair.serving i x.part)).pair k = (s.pair k).serving i x.part := s.pair_updPair k _
  have sess1 : (s.updPair k (Pair.serving i x.part)).sess k i = x := by
    rw [← own]
    exact s.sess_updPair k i (g := Pair.serving i _) fun _ => rfl
  obtain ⟨v, cores, run, submits, outputs, num, buffer, codes, waits, bytes, vkey, coded, closing⟩ :=
    State.encodePicture_encodes sess1 frame free head ready brings
  rw [State.settleSession_open _ _ _ (closing.trans live)] at runs
  exact ⟨_, v, runs, cores, run.trans (by rw [pair1]; rfl), submits, outputs, num, buffer, codes, waits, bytes, vkey, coded⟩
end

/-! ## PICTURE_OUTPUT (R388 to R390, R395) -/

theorem pictureOutput_nothing {s : State} {k : Nat} (pair : k < 12) (nothing : s.outNext k = none) :
    exec (.pictureOutput k) s = .next s := by
  show execPictureOutput k s = _
  rw [execPictureOutput, if_neg (Nat.not_le.2 pair), nothing]

/-- A session from whose waiting pictures `u` has left with output index `n`. -/
def Session.put (u : Picture) (n : Nat) (after : Nat × FrameBuf → Option (Nat × FrameBuf)) (x : Session) : Session := { x with
  outputs := x.outputs.erase u, outIndex := n, frames := x.frames.filterMap after }
/-- What becomes of a frame buffer when `u` has been output (R390). -/
def Picture.after (u : Picture) (d : List Byte) (e : Nat × FrameBuf) : Option (Nat × FrameBuf) :=
  if some e.1 != u.frame || Cd.retain d then some e else if e.2.mark = 3 then none else some (e.1, { e.2 with outWait := false })
/-- A pair that has output a picture. -/
def Pair.counted (damaged : Bool) (y : Pair) : Pair := { y with
  pictures := satAdd 0xFFFFFFFF y.pictures 1
  corrupt := if damaged then satAdd 0xFFFF y.corrupt 1 else y.corrupt
  binOcc := 0 }

theorem report17_unselected (u : Picture) (n t dtb : Nat) : report17 u n t false dtb = report17 u n 0 false dtb := rfl
theorem pictureOutput_puts {s : State} {k i : Nat} {u : Picture} {x : Session} (own : s.sess k i = x) (pair : k < 12)
    (next : s.outNext k = some (i, u)) (unplanar : Cd.colour x.desc = 0) (live : x.closing = 0) :
    ∃ t, exec (.pictureOutput k) s = .next t ∧ t.cores = s.cores ∧
      (t.sess k i).outputs = x.outputs.erase u ∧ (t.sess k i).outIndex = (x.outIndex + 1) % 2 ^ 32 ∧ (t.sess k i).selected = x.selected ∧
      (t.pair k).pictures = satAdd 0xFFFFFFFF (s.pair k).pictures 1 ∧
      (t.pair k).corrupt = (if u.cause ≠ 0 ∨ u.refCorrupt = true then satAdd 0xFFFF (s.pair k).corrupt 1 else (s.pair k).corrupt) ∧
      t.hbm = ((s.writeP x.part (Cd.addr x.desc 32 + 32 * (x.outIndex % Cd.reports x.desc))
        (report17 u x.outIndex 0 false s.dtb)).answer.signalAdd x.part (Cd.signal x.desc)).hbm := by
  have unselected : selects x.desc x.outIndex x.selected = false := by simp [selects, unplanar]
  generalize told : (s.writeP x.part (Cd.addr x.desc 32 + 32 * (x.outIndex % Cd.reports x.desc))
    (report17 u x.outIndex 0 false s.dtb)).answer.signalAdd x.part (Cd.signal x.desc) = s2
  have wrote : s.Wrote s2 := by
    rw [← told]
    exact ((s.writeP_wrote ..).trans (State.answer_wrote _)).trans (State.signalAdd_wrote ..)
  have runs : exec (.pictureOutput k) s = .next (((s2.updSess k i (Session.put u ((x.outIndex + 1) % 2 ^ 32) (u.after x.desc))).updPair k
      (Pair.counted (u.cause != 0 || u.refCorrupt))).settleSession k i) := by
    show execPictureOutput k s = _
    rw [execPictureOutput, if_neg (Nat.not_le.2 pair), next]
    dsimp only
    rw [own, unselected]
    simp only [Bool.false_and, Bool.false_eq_true, if_false]
    rw [report17_unselected, told]
    rfl
  generalize (x.outIndex + 1) % 2 ^ 32 = n at runs ⊢
  have sess : ((s2.updSess k i (Session.put u n (u.after x.desc))).updPair k
      (Pair.counted (u.cause != 0 || u.refCorrupt))).sess k i = x.put u n (u.after x.desc) := by
    rw [State.sess_updPair (g := Pair.counted _) _ _ _ (fun _ => rfl), State.sess_updSess_self, wrote.sess, own]
  have pairs : ((s2.updSess k i (Session.put u n (u.after x.desc))).updPair k
      (Pair.counted (u.cause != 0 || u.refCorrupt))).pair k =
      ({ s.pair k with sessions := ((s2.updSess k i (Session.put u n (u.after x.desc))).pair k).sessions } : Pair).counted
        (u.cause != 0 || u.refCorrupt) := by
    rw [State.pair_updPair, State.pair_updSess, wrote.pair]
  rw [State.settleSession_open _ _ _ (by rw [sess]; exact live)] at runs
  refine ⟨_, runs, wrote.cores, by rw [sess]; rfl, by rw [sess]; rfl, by rw [sess]; rfl, by rw [pairs]; rfl, ?_, rfl⟩
  rw [pairs, Pair.counted]
  simp only [bne_iff_ne, Bool.or_eq_true]

/-! ## CODEC_BLOCK_BUDGET and CODEC_WATCHDOG (R392, R393) -/

/-- A picture that its pair abandons with a cause, and how its session reads then. -/
def Picture.abandoned (u : Picture) (x : Session) (cause damaged : Nat) : Picture :=
  let coded := if u.encode then codeIt x.desc u.plan x.hist u.key cause else u.coded
  { u with cause := cause, damaged := u.damaged + damaged, coded := coded, bytes := if u.encode then coded.length else u.bytes }
def Session.abandoning (r : List Picture) (v : Picture) (x : Session) : Session := { x with
  outputs := (v :: r).reverse
  frames := x.frames.map (fun e => if e.2.num = v.num then (e.1, { e.2 with corrupt := true }) else e) }

section
variable {s : State} {k i : Nat} {x : Session} (pair : k < 12)
include pair

theorem codecWatchdog_run (run : (s.pair k).run = 1) (d : Nat) : exec (.codecWatchdog k d) s =
    .next (s.abandon k 3 d (fun y => { y with wdogHits := satAdd 0xFFFF y.wdogHits 1 })) := by
  show execCodecWatchdog k d s = _
  rw [execCodecWatchdog, if_neg (Nat.not_le.2 pair), if_pos run]
theorem codecBlockBudget_run (served : (s.pair k).session = i) (own : s.sess k i = x) (run : (s.pair k).run = 1)
    (robust : Cd.conceal x.desc = false) (d : Nat) : exec (.codecBlockBudget k d) s =
    .next (s.abandon k 2 d (fun y => { y with budgetHits := satAdd 0xFFFF y.budgetHits 1 })) := by
  show execCodecBlockBudget k d s = _
  rw [execCodecBlockBudget, if_neg (Nat.not_le.2 pair), served, own, if_pos (by simp [run, robust])]
theorem codecWatchdog_idle (idle : (s.pair k).run ≠ 1) (d : Nat) : exec (.codecWatchdog k d) s = .next s := by
  show execCodecWatchdog k d s = _
  rw [execCodecWatchdog, if_neg (Nat.not_le.2 pair), if_neg idle]
theorem codecBlockBudget_idle (idle : (s.pair k).run ≠ 1 ∨ Cd.conceal (s.sess k (s.pair k).session).desc = true) (d : Nat) :
    exec (.codecBlockBudget k d) s = .next s := by
  show execCodecBlockBudget k d s = _
  rw [execCodecBlockBudget, if_neg (Nat.not_le.2 pair)]
  refine if_neg fun both => ?_
  simp only [Bool.and_eq_true, decide_eq_true_eq, Bool.not_eq_true'] at both
  rcases idle with stopped | conceals
  · exact stopped both.1
  · exact absurd both.2 (by rw [conceals]; decide)
omit pair

/-- The last waiting picture takes the cause and the damaged blocks; the pair notes the hit. -/
theorem State.abandon_marks (served : (s.pair k).session = i) (own : s.sess k i = x) {u : Picture} (last : x.outputs.getLast? = some u)
    (sound : u.cause = 0) (kept : u.skipped = false) (waits : u.written = false) (cause d : Nat) {hit : Pair → Pair}
    (sessions : ∀ y, (hit y).sessions = y.sessions) :
    ∃ t v y, s.abandon k cause d hit = t ∧ t.cores = s.cores ∧ (t.sess k i).outputs.getLast? = some v ∧ v.cause = cause ∧
      v.damaged = u.damaged + d ∧ v.num = u.num ∧ t.pair k = hit { s.pair k with sessions := y } := by
  obtain ⟨r, reversed⟩ : ∃ r, x.outputs.reverse = u :: r := by
    rw [← List.head?_reverse] at last
    exact List.head?_eq_some_iff.1 last
  let v := u.abandoned x cause d
  let s1 := s.updSess k i (Session.abandoning r v)
  have marks : s.abandon k cause d hit = (s1.writeFrame k i v).updPair k hit := by
    unfold State.abandon
    dsimp only
    rw [served, own, reversed]
    dsimp only
    rw [if_neg (by simp [sound, kept, waits])]
    rfl
  have wrote := s1.writeFrame_wrote k i v
  have sess : ((s1.writeFrame k i v).updPair k hit).sess k i = x.abandoning r v := by
    rw [State.sess_updPair _ _ _ sessions, wrote.sess, State.sess_updSess_self, own]
  refine ⟨_, v, (s1.pair k).sessions, marks, wrote.cores, ?_, rfl, rfl, rfl, ?_⟩
  · rw [sess, Session.abandoning, List.getLast?_reverse]
    rfl
  · rw [State.pair_updPair, wrote.pair]
    exact congrArg hit (s.pair_updSess k i _)
end

/-- Settles O43: the picture's writes are memory writes (`State.writeFrame_wrote`), and what a session and its pair show follows from
what each step does to them. -/
theorem codecPicturesComplete : Obligations.CodecPicturesComplete := by
  unfold Obligations.CodecPicturesComplete
  refine ⟨fun k i cause frame n key nonref s pair index => ⟨codecPicture_otherTurn pair index cause frame n key nonref,
      codecPicture_badCause rfl pair index cause frame n key nonref, fun turn done unlimited free live => ⟨?decodes, ?encodes⟩⟩,
    fun k i s u pair => ⟨pictureOutput_nothing pair, fun next unplanar live => pictureOutput_puts rfl pair next unplanar live⟩,
    fun k d s pair => ⟨fun idle => ⟨codecBlockBudget_idle pair (.inl idle) d, codecWatchdog_idle pair idle d⟩,
      fun _ conceals => codecBlockBudget_idle pair (.inr conceals) d, fun u run last sound kept waits => ⟨fun robust => ?budget, ?watchdog⟩⟩⟩
  case decodes =>
    intro u rest b subs decodes keeps good some_ head left parsed
    exact codecPicture_decodes rfl pair index cause frame n key nonref turn done unlimited free live decodes keeps good some_ head left parsed
  case encodes =>
    intro u rest encodes head brings
    exact codecPicture_encodes rfl pair index cause frame n key nonref turn done unlimited free live encodes head brings
  case budget =>
    obtain ⟨t, v, y, marks, cores, outputs, vcause, damaged, num, hits⟩ := State.abandon_marks rfl rfl last sound kept waits 2 d
      (hit := fun y => { y with budgetHits := satAdd 0xFFFF y.budgetHits 1 }) fun _ => rfl
    refine ⟨t, v, ?_, cores, outputs, vcause, damaged, num, by rw [hits]⟩
    rw [codecBlockBudget_run pair rfl rfl run robust, marks]
  case watchdog =>
    obtain ⟨t, v, y, marks, cores, outputs, vcause, damaged, num, hits⟩ := State.abandon_marks rfl rfl last sound kept waits 3 d
      (hit := fun y => { y with wdogHits := satAdd 0xFFFF y.wdogHits 1 }) fun _ => rfl
    refine ⟨t, v, ?_, cores, outputs, vcause, damaged, num, by rw [hits]⟩
    rw [codecWatchdog_run pair run, marks]

end Sys2Proof.Machine
end

section
/-!
Loads: chunks from a host, messages of a chain, ends and time limits (chapter 15).
-/

-- One proof after another: the stacks of proofs that wait for each other count against the check's memory limit.
set_option Elab.async false
namespace Sys2Proof.Machine

/-! ## What a bulk write does to memory depends on memory and the partition's geometry (R255) -/

/-- Two states whose memory is the same, and for which partition `p` has the same geometry and image. -/
structure State.SameMem (p : Nat) (s t : State) : Prop where
  hbm : t.hbm = s.hbm
  shelves : t.shelves = s.shelves
  geo : (t.part p).geo = (s.part p).geo
  image : (t.part p).image = (s.part p).image

theorem State.storeByte_bulk (s : State) (p a : Nat) (b : Byte) : s.storeByte p 2 a b = if s.isFenced a then s else s.putHb a b := rfl
theorem State.SameMem.putHb {p : Nat} {s t : State} (h : State.SameMem p s t) (a : Nat) (b : Byte) :
    State.SameMem p (s.putHb a b) (t.putHb a b) := by
  obtain ⟨hbm, shelves, geo, image⟩ := h
  have shelf : ∀ k, t.shelf k = s.shelf k := fun k => by rw [State.shelf, State.shelf, shelves]
  have line : t.line a = s.line a := by rw [State.line, State.line, shelf]
  unfold State.putHb
  rw [line]
  split
  · exact ⟨congrArg (fun m => m.write a b) hbm, shelves, geo, image⟩
  · refine ⟨hbm, ?_, geo, image⟩
    unfold State.updShelf State.setShelf
    rw [shelf, shelves]
theorem State.SameMem.storeByte {p : Nat} {s t : State} (h : State.SameMem p s t) (a : Nat) (b : Byte) :
    State.SameMem p (s.storeByte p 2 a b) (t.storeByte p 2 a b) := by
  have fence : t.isFenced a = s.isFenced a := by rw [State.isFenced, State.isFenced, State.shelf, State.shelf, h.shelves]
  rw [State.storeByte_bulk, State.storeByte_bulk, fence]
  split
  · exact h
  · exact h.putHb a b
theorem State.SameMem.storeBytes {p : Nat} (es : List (Nat × Byte)) : ∀ {s t : State}, State.SameMem p s t →
    State.SameMem p (s.storeBytes p 2 false es) (t.storeBytes p 2 false es) := by
  induction es with
  | nil => exact fun h => h
  | cons e r ih =>
    intro s t h
    have fixed : t.fixedAt p e.1 = s.fixedAt p e.1 := by rw [State.fixedAt, State.fixedAt, h.image]
    rw [State.storeBytes_cons, State.storeBytes_cons]
    refine ih ?_
    unfold State.storeTurn
    rw [h.geo, fixed]
    split
    · split
      · exact h
      · exact h.storeByte _ _
    · exact h
theorem State.SameMem.writeX {p : Nat} {s t : State} (h : State.SameMem p s t) (x : Nat) (bs : List Byte) :
    (t.writeX p x bs).hbm = (s.writeX p x bs).hbm ∧ (t.writeX p x bs).shelves = (s.writeX p x bs).shelves := by
  obtain ⟨hbm, shelves, -, -⟩ := h.storeBytes (placesFrom x bs)
  have report : ∀ (u : State) xs, (u.fenceReport p 0xFFFFFFFFFFFF xs).hbm = u.hbm ∧ (u.fenceReport p 0xFFFFFFFFFFFF xs).shelves = u.shelves :=
    fun u xs => by rw [u.fenceReport_frame]; exact ⟨rfl, rfl⟩
  unfold State.writeX State.storeAt
  exact ⟨(report _ _).1.trans (hbm.trans (report _ _).1.symm), (report _ _).2.trans (shelves.trans (report _ _).2.symm)⟩

/-! ## The end of a load (Table 15.3) -/

theorem State.writeX_wrote (s : State) (p x : Nat) (bs : List Byte) : s.Wrote (s.writeX p x bs) := s.storeAt_wrote ..
theorem Partition.Lasts.ws {x y : Partition} (h : x.Lasts y) : y.ws = x.ws := by obtain ⟨_, _, _, _, rfl⟩ := h; rfl

/-- The weight slots of a partition whose load has ended with a status, its slot in state `v`. -/
def WeightState.ended (w : WeightState) (slot v status : Nat) : WeightState := { w.setSt slot v with load := none, lastStatus := status }
theorem WeightState.ended_stOf (w : WeightState) (i v st : Nat) : (w.ended i v st).stOf i = v := w.stOf_setSt i v
theorem WeightState.setSt_frame (w : WeightState) (i v : Nat) : ∃ a b, w.setSt i v = { w with st0 := a, st1 := b } := by
  unfold WeightState.setSt
  split
  · exact ⟨_, _, rfl⟩
  · exact ⟨_, _, rfl⟩

section
variable {s : State} {p : Nat} {im : Image} {l : Load}

theorem State.endLoad_eq (image : (s.part p).image = some im) (load : (s.part p).ws.load = some l) (st v : Nat) (down : Bool) :
    s.endLoad p st v down =
      let s1 := if down && Ld.forward l.desc then s.sendLoad p (Ld.outPort l.desc) im l.desc 1 0 0 [] else s
      let s2 := s1.updWs p (fun w => w.ended (Ld.slot l.desc) v st)
      let s3 := if Ld.chain l.desc then s2.updChan (im.chan (Ld.vcOrd l.desc)) (fun c => { c with loadHold := none }) else s2
      let s4 := s3.completeIf l.cmd.1 l.cmd.2.1 l.cmd.2.2 st 0 []
      match l.comp with
      | some q => s4.completeIf q.1 q.2.1 q.2.2 st 0 []
      | none => s4 := by
  unfold State.endLoad
  rw [image, load]
  rfl
theorem State.endLoad_ws (image : (s.part p).image = some im) (load : (s.part p).ws.load = some l) (st v : Nat) (down : Bool) :
    ((s.endLoad p st v down).part p).ws = (s.part p).ws.ended (Ld.slot l.desc) v st := by
  rw [State.endLoad_eq image load]
  extract_lets s1 s2 s3 s4
  have part1 : s1.part p = s.part p := by
    unfold s1
    split
    · rfl
    · rfl
  have part2 : (s2.part p).ws = (s.part p).ws.ended (Ld.slot l.desc) v st := by
    unfold s2
    rw [State.ws_updWs_self, part1]
  have part3 : (s3.part p).ws = (s2.part p).ws := by
    unfold s3
    split
    · rfl
    · rfl
  have part4 : (s4.part p).ws = (s.part p).ws.ended (Ld.slot l.desc) v st := by
    unfold s4
    rw [State.completeIf_part, part3, part2]
  split
  · rw [State.completeIf_part, part4]
  · exact part4
/-- A load that ends: its slot's state and status are shown, and neither a core nor a byte changes. -/
theorem State.endLoad_shows (image : (s.part p).image = some im) (load : (s.part p).ws.load = some l) (st v : Nat) (down : Bool) :
    (s.endLoad p st v down).cores = s.cores ∧ (s.endLoad p st v down).hbm = s.hbm ∧ ((s.endLoad p st v down).part p).ws.load = none ∧
      ((s.endLoad p st v down).part p).ws.lastStatus = st ∧ ((s.endLoad p st v down).part p).ws.stOf (Ld.slot l.desc) = v := by
  have ws := State.endLoad_ws image load st v down
  have ends := s.endLoad_ends p st v down
  refine ⟨by rw [ends.frame], by rw [ends.frame], ?_, ?_, ?_⟩
  · rw [ws]
    rfl
  · rw [ws]
    rfl
  · rw [ws]
    exact WeightState.ended_stOf ..
end

/-! ## Chain messages (R342, R343) -/

section
variable (s : State) (p : Nat)
theorem State.endLoad_cores (st v : Nat) (down : Bool) : (s.endLoad p st v down).cores = s.cores := (s.endLoad_sends p st v down).cores
theorem State.loadSettle_cores : (s.loadSettle p).cores = s.cores := by
  unfold State.loadSettle
  split
  · extract_lets fwdDone s1 w open_ acked s2
    have sent : s1.cores = s.cores := by
      unfold s1
      split
      · rfl
      · rfl
    split
    · exact (s2.endLoad_cores ..).trans sent
    · exact sent
  · rfl
theorem State.forwardReady_cores (im : Image) (n : Nat) : ∀ s : State, (s.forwardReady p im n).cores = s.cores := by
  induction n with
  | zero => exact fun _ => rfl
  | succ n ih =>
    intro s
    rw [State.forwardReady]
    split
    · rfl
    · split
      · rfl
      · exact (ih _).trans rfl
theorem State.chunkIn_cores (im : Image) (l : Load) (c crc : Nat) (b : List Byte) : (s.chunkIn p im l c crc b).cores = s.cores := by
  unfold State.chunkIn
  split
  · rfl
  · split
    · exact State.endLoad_cores ..
    · extract_lets d s1 s2 s3
      have kept : s2.cores = s.cores := by
        unfold s2
        split
        · exact (s1.writeX_wrote ..).cores
        · rfl
      have passed : s3.cores = s.cores := by
        unfold s3
        split
        · exact kept
        · exact kept
      exact (State.loadSettle_cores ..).trans ((State.forwardReady_cores ..).trans passed)
theorem State.loadPiece_cores (im : Image) (l : Load) (h : LoadHeader) (b : List Byte) : (s.loadPiece p im l h b).cores = s.cores := by
  unfold State.loadPiece
  split
  · rfl
  · extract_lets ps mine got
    split
    · rfl
    · exact State.chunkIn_cores ..
theorem State.loadMsg_cores (via : Option (Nat × Nat)) (h : LoadHeader) (b : List Byte) : (s.loadMsg p via h b).cores = s.cores := by
  unfold State.loadMsg
  split
  · rfl
  · split
    · split
      · exact s.loadPiece_cores ..
      · exact s.endLoad_cores ..
      · exact State.loadSettle_cores ..
      · rfl
    · rfl
end

section
variable {s : State} {p : Nat} {h : LoadHeader}

/-- A message that no load takes is held. -/
theorem State.loadMsg_held (untaken : s.loadTakes p h.loadId = false) (via : Option (Nat × Nat)) (b : List Byte) :
    s.loadMsg p via h b = { s with parts := (s.loadMsg p via h b).parts } ∧
      ((s.loadMsg p via h b).part p).ws.load = (s.part p).ws.load ∧
      ((s.loadMsg p via h b).part p).ws.held = (s.part p).ws.held ++ [(h, b)] := by
  unfold State.loadMsg
  rw [if_pos (by simp [untaken])]
  refine ⟨rfl, ?_, ?_⟩ <;> rw [State.ws_updWs_self]

variable {im : Image} {l : Load} (image : (s.part p).image = some im) (load : (s.part p).ws.load = some l)
  (link : Ld.link l.desc = true) (id : Ld.id l.desc = h.loadId)
include image load link id

theorem State.loadMsg_taken (via : Option (Nat × Nat)) (b : List Byte) : s.loadMsg p via h b =
    match h.kind with
    | 0 => s.loadPiece p im l h b
    | 1 => s.endLoad p Config.stLoadAborted 0 true
    | 2 => (s.updLoad p (fun l => { l with endSeen := true })).loadSettle p
    | _ => s := by
  have takes : s.loadTakes p h.loadId = true := by simp [State.loadTakes, load, link, id]
  unfold State.loadMsg
  rw [if_neg (by simp [takes]), image, load] <;> rfl
omit image load link id in
/-- A piece that leaves its chunk incomplete joins the pieces of its load. -/
theorem State.loadPiece_joins (b : List Byte) (new : l.seen.contains h.chunk = false) (inside : h.chunk < Ld.chunks l.desc)
    (partial_ : ((l.pieces.filter (fun q => q.1 == h.chunk)).foldl (fun n q => n + q.2.2.length) 0) + b.length < Ld.chunkLen l.desc h.chunk) :
    s.loadPiece p im l h b = s.updLoad p (fun l' => { l' with pieces := l.pieces ++ [(h.chunk, h.first, b)] }) := by
  have got : ((l.pieces ++ [(h.chunk, h.first, b)]).filter (fun q => q.1 == h.chunk)).foldl (fun n q => n + q.2.2.length) 0 <
      Ld.chunkLen l.desc h.chunk := by
    rw [List.filter_append, List.foldl_append]
    simpa using partial_
  unfold State.loadPiece
  rw [if_neg (by simpa [Nat.not_le.2 inside] using new)]
  exact if_pos got
end


/-! ## A chunk from a host (R339, R342, R344) -/

/-- A load that has kept a chunk whole: its slot's bytes are written, and it notes the chunk. -/
def Load.took (l : Load) (c : Nat) : Load := { l with seen := l.seen ++ [c], kept := l.kept + 1 }
/-- The bytes of a kept chunk at their place in the load's slot. -/
def State.chunkWritten (s : State) (p : Nat) (im : Image) (l : Load) (c : Nat) (b : List Byte) : State :=
  (s.updLoad p (fun l => { l with seen := l.seen ++ [c] })).writeX p
    ((s.part p).ws.base im (Ld.slot l.desc) + (c - Ld.keepFirst l.desc) * 2 ^ Ld.log2 l.desc) b
/-- The load has kept one more chunk. -/
def State.chunkKept (s : State) (p : Nat) (im : Image) (l : Load) (c : Nat) (b : List Byte) : State :=
  ((s.chunkWritten p im l c b).answer.updLoad p (fun l => { l with kept := l.kept + 1 })).updWs p
    (fun w => { w with chunksKept := (w.chunksKept + 1) % 2 ^ 32 })

section
variable {s : State} {p port c crc : Nat} {b : List Byte} {im : Image} {l : Load} (below : p < 16) (wired : port < 2)
  (image : (s.part p).image = some im) (load : (s.part p).ws.load = some l) (host : Ld.link l.desc = false)
  (single : Ld.dual l.desc = false) (own : l.cmd.1.port = port) (inside : c < Ld.chunks l.desc) (keeps : Ld.keeps l.desc c = true)
  (new : l.seen.contains c = false)
include below wired image load host single own inside keeps new

theorem hostChunkRead_fails : exec (.hostChunkRead p port c none crc) s = .next (s.endLoad p Config.stDmaError 0 true) := by
  show execHostChunkRead p port c none crc s = _
  rw [execHostChunkRead, if_neg (by simp; omega), image, load]
  exact if_neg (by simpa [host, single, own, Nat.not_le.2 inside, keeps] using new)
theorem hostChunkRead_arrives (whole : b.length = Ld.chunkLen l.desc c) : exec (.hostChunkRead p port c (some b) crc) s =
    .next (s.chunkIn p im l c (crc % 2 ^ 32) b) := by
  show execHostChunkRead p port c (some b) crc s = _
  rw [execHostChunkRead, if_neg (by simp; omega), image, load]
  dsimp only
  rw [if_neg (by simpa [host, single, own, Nat.not_le.2 inside, keeps] using new), if_neg (by simp [whole])]
omit below wired host single own inside new

omit image load in
theorem State.chunkIn_bad (bad : crc32c b ≠ crc) : s.chunkIn p im l c crc b =
    (s.updWs p (fun w => { w with crcFails := satAdd 0xFF w.crcFails 1 })).endLoad p Config.stLoadCheck 0 true := by
  unfold State.chunkIn
  rw [if_neg (by simp [keeps]), if_pos (by simpa using bad)]

omit image keeps in
theorem State.chunkKept_ws : ((s.chunkKept p im l c b).part p).ws = { (s.part p).ws with
    load := some (l.took c), chunksKept := ((s.part p).ws.chunksKept + 1) % 2 ^ 32 } := by
  have written : ((s.chunkWritten p im l c b).part p).ws = { (s.part p).ws with load := some { l with seen := l.seen ++ [c] } } :=
    (Partition.Lasts.ws (State.writeX_lasts _ p _ b p)).trans (State.ws_updLoad load _)
  have answered : ((s.chunkWritten p im l c b).answer.part p).ws = ((s.chunkWritten p im l c b).part p).ws := rfl
  have counted := State.ws_updLoad (s := (s.chunkWritten p im l c b).answer) (p := p) (l := { l with seen := l.seen ++ [c] })
    (by rw [answered, written]) (fun l => { l with kept := l.kept + 1 })
  unfold State.chunkKept
  rw [State.ws_updWs_self, counted, answered, written, Load.took]
omit load keeps in
theorem State.chunkKept_image : ((s.chunkKept p im l c b).part p).image = some im := by
  have written : ((s.chunkWritten p im l c b).part p).image = some im :=
    ((State.writeX_lasts _ p _ b p).image.trans (State.image_updWs_self ..)).trans image
  unfold State.chunkKept State.updLoad
  rw [State.image_updWs_self, State.image_updWs_self]
  exact written
omit image load keeps in
/-- The bytes written are those that the same write to the state before the chunk leaves. -/
theorem State.chunkKept_mem :
    let u := s.writeX p ((s.part p).ws.base im (Ld.slot l.desc) + (c - Ld.keepFirst l.desc) * 2 ^ Ld.log2 l.desc) b
    (s.chunkKept p im l c b).cores = s.cores ∧ (s.chunkKept p im l c b).hbm = u.hbm ∧ (s.chunkKept p im l c b).shelves = u.shelves := by
  intro u
  have same : State.SameMem p s (s.updLoad p (fun l => { l with seen := l.seen ++ [c] })) :=
    ⟨rfl, rfl, by rw [State.updLoad, State.updWs, State.part_updPart_self], State.image_updWs_self ..⟩
  obtain ⟨hbm, shelves⟩ := same.writeX ((s.part p).ws.base im (Ld.slot l.desc) + (c - Ld.keepFirst l.desc) * 2 ^ Ld.log2 l.desc) b
  exact ⟨(State.writeX_wrote ..).cores, hbm, shelves⟩

omit load keeps image in
theorem State.forwardReady_quiet {u : State} {k : Load} (load : (u.part p).ws.load = some k) (quiet : k.ready = []) (n : Nat) :
    u.forwardReady p im n = u := by
  cases n with
  | zero => rfl
  | succ n =>
    rw [State.forwardReady, load]
    dsimp only
    rw [quiet]
    rfl
omit image in
theorem State.chunkIn_keeps (final : Ld.forward l.desc = false) (quiet : l.ready = []) (good : crc32c b = crc) :
    s.chunkIn p im l c crc b = (s.chunkKept p im l c b).loadSettle p := by
  have passes : Ld.fwds l.desc c = false := by simp [Ld.fwds, final]
  have ws := State.chunkKept_ws (c := c) (b := b) (im := im) load
  have quiet' := State.forwardReady_quiet (im := im) (u := s.chunkKept p im l c b) (k := l.took c) (by rw [ws]) quiet (Ld.fwdCount l.desc)
  unfold State.chunkIn
  rw [if_neg (by simp [keeps]), if_neg (by simp [good])]
  extract_lets d s1 s2 s3
  have kept : s2 = s.chunkKept p im l c b := if_pos keeps
  have last : s3 = s2 := if_neg (by simp [d, passes])
  rw [last, kept, quiet']
end

/-- A load from a host that has nothing to forward ends once its last chunk is kept, and else goes on. -/
theorem State.loadSettle_host {u : State} {p : Nat} {im : Image} {k : Load} (image : (u.part p).image = some im)
    (load : (u.part p).ws.load = some k) (host : Ld.link k.desc = false) (single : Ld.dual k.desc = false)
    (final : Ld.forward k.desc = false) (forwarded : k.fwd = Ld.fwdCount k.desc) : ∃ n, u.loadSettle p =
      let v := u.updWs p (fun w => { w with chunksFwd := n })
      if k.kept = Ld.keepCount k.desc then v.endLoad p Config.stOk (if (u.part p).ws.active.isNone then 3 else 2) false else v := by
  unfold State.loadSettle
  rw [image, load]
  simp only [host, single, final, forwarded, Bool.false_and, Bool.not_false, Bool.true_or, Bool.and_true, beq_self_eq_true, beq_iff_eq,
    Bool.false_eq_true, if_false, State.ws_updWs_self]
  exact ⟨_, rfl⟩

section
variable {s : State} {p port c crc : Nat} {b : List Byte} {im : Image} {l : Load} (below : p < 16) (wired : port < 2)
  (image : (s.part p).image = some im) (load : (s.part p).ws.load = some l) (host : Ld.link l.desc = false)
  (final : Ld.forward l.desc = false) (single : Ld.dual l.desc = false) (own : l.cmd.1.port = port) (inside : c < Ld.chunks l.desc)
  (keeps : Ld.keeps l.desc c = true) (new : l.seen.contains c = false) (quiet : l.ready = []) (forwarded : l.fwd = Ld.fwdCount l.desc)
  (whole : b.length = Ld.chunkLen l.desc c)
include below wired image load host final single own inside keeps new quiet forwarded whole

omit final quiet forwarded in
theorem hostChunkRead_badCheck (bad : crc32c b ≠ crc % 2 ^ 32) :
    ∃ t, exec (.hostChunkRead p port c (some b) crc) s = .next t ∧ t.cores = s.cores ∧ t.hbm = s.hbm ∧
       (t.part p).ws.load = none ∧ (t.part p).ws.lastStatus = Config.stLoadCheck ∧ (t.part p).ws.stOf (Ld.slot l.desc) = 0 ∧
       (t.part p).ws.crcFails = satAdd 0xFF (s.part p).ws.crcFails 1 := by
  have arrives := hostChunkRead_arrives (crc := crc) below wired image load host single own inside keeps new whole
  rw [State.chunkIn_bad keeps bad] at arrives
  let u := s.updWs p (fun w => { w with crcFails := satAdd 0xFF w.crcFails 1 })
  have image' : (u.part p).image = some im := (State.image_updWs_self ..).trans image
  have load' : (u.part p).ws.load = some l := by
    rw [State.ws_updWs_self]
    exact load
  obtain ⟨cores, hbm, ends, status, slot⟩ := State.endLoad_shows image' load' Config.stLoadCheck 0 true
  refine ⟨_, arrives, cores, hbm, ends, status, slot, ?_⟩
  obtain ⟨a, b, set⟩ := (u.part p).ws.setSt_frame (Ld.slot l.desc) 0
  rw [State.endLoad_ws image' load', WeightState.ended, set, State.ws_updWs_self]

theorem hostChunkRead_keeps (good : crc32c b = crc % 2 ^ 32) :
    let u := s.writeX p ((s.part p).ws.base im (Ld.slot l.desc) + (c - Ld.keepFirst l.desc) * 2 ^ Ld.log2 l.desc) b
    ∃ t, exec (.hostChunkRead p port c (some b) crc) s = .next t ∧ t.cores = s.cores ∧ t.hbm = u.hbm ∧
       t.shelves = u.shelves ∧ (t.part p).ws.chunksKept = ((s.part p).ws.chunksKept + 1) % 2 ^ 32 ∧
       (l.kept + 1 ≠ Ld.keepCount l.desc → (t.part p).ws.load = some { l with seen := l.seen ++ [c], kept := l.kept + 1 } ∧
         (t.part p).ws.stOf (Ld.slot l.desc) = (s.part p).ws.stOf (Ld.slot l.desc)) ∧
       (l.kept + 1 = Ld.keepCount l.desc → (t.part p).ws.load = none ∧ (t.part p).ws.lastStatus = Config.stOk ∧
         (t.part p).ws.stOf (Ld.slot l.desc) = (if (s.part p).ws.active.isNone then 3 else 2)) := by
  intro u
  have arrives := hostChunkRead_arrives (crc := crc) below wired image load host single own inside keeps new whole
  have ws := State.chunkKept_ws (c := c) (b := b) (im := im) load
  have image' := State.chunkKept_image (l := l) (c := c) (b := b) image
  obtain ⟨cores, hbm, shelves⟩ := State.chunkKept_mem (s := s) (p := p) (im := im) (l := l) (c := c) (b := b)
  have load' : ((s.chunkKept p im l c b).part p).ws.load = some (l.took c) := by rw [ws]
  obtain ⟨n, settles⟩ := State.loadSettle_host (k := l.took c) image' load' host single final forwarded
  rw [State.chunkIn_keeps load keeps final quiet good, settles] at arrives
  generalize ((s.part p).ws.chunksKept + 1) % 2 ^ 32 = kept at ws ⊢
  generalize s.chunkKept p im l c b = y at *
  let v := y.updWs p (fun w => { w with chunksFwd := n })
  have slots : (v.part p).ws = { (s.part p).ws with load := some (l.took c), chunksKept := kept, chunksFwd := n } := by
    rw [State.ws_updWs_self, ws]
  have active : (y.part p).ws.active = (s.part p).ws.active := by rw [ws]; rfl
  dsimp only at arrives
  split at arrives
  · next last =>
    have more : l.kept + 1 = Ld.keepCount l.desc := last
    have load2 : (v.part p).ws.load = some (l.took c) := by rw [slots]
    have image2 : (v.part p).image = some im := (State.image_updWs_self ..).trans image'
    rw [active] at arrives
    obtain ⟨cores2, hbm2, ends, status, slot⟩ := State.endLoad_shows image2 load2 Config.stOk
      (if (s.part p).ws.active.isNone then 3 else 2) false
    have ended := v.endLoad_ends p Config.stOk (if (s.part p).ws.active.isNone then 3 else 2) false
    refine ⟨_, arrives, cores2.trans cores, hbm2.trans hbm, ?_, ?_, fun differs => absurd more differs, fun _ => ⟨ends, status, slot⟩⟩
    · rw [ended.frame]
      exact shelves
    · obtain ⟨a, b, set⟩ := (v.part p).ws.setSt_frame (Ld.slot (l.took c).desc) (if (s.part p).ws.active.isNone then 3 else 2)
      rw [State.endLoad_ws image2 load2, WeightState.ended, set, slots]
  · next less =>
    refine ⟨_, arrives, cores, hbm, shelves, ?_, fun _ => ⟨?_, ?_⟩, fun same => absurd same less⟩
    · rw [slots]
    · rw [slots, Load.took]
    · rw [slots]
      rfl
end


/-! ## Chain messages and the two time limits (R340, R342 to R344) -/

section
variable {p : Nat} (below : p < 16)
include below

theorem loadDataMessage_run (h : LoadHeader) (b : List Byte) (s : State) :
    exec (.loadDataMessage p h b) s = .next (s.loadMsg p none { h with kind := 0 } b) := if_neg (Nat.not_le.2 below)
theorem loadAbortMessage_run (id : Nat) (s : State) : exec (.loadAbortMessage p id) s = .next (s.loadMsg p none ⟨id, 1, 0, 0, 0, 0⟩ []) :=
  if_neg (Nat.not_le.2 below)
theorem loadEndMessage_run (id : Nat) (s : State) : exec (.loadEndMessage p id) s = .next (s.loadMsg p none ⟨id, 2, 0, 0, 0, 0⟩ []) :=
  if_neg (Nat.not_le.2 below)

theorem loadDataMessage_taken (h : LoadHeader) (b : List Byte) (s : State) : ∃ t, exec (.loadDataMessage p h b) s = .next t ∧ t.cores = s.cores ∧
    (s.loadTakes p h.loadId = false → t = { s with parts := t.parts } ∧ (t.part p).ws.load = (s.part p).ws.load ∧
      (t.part p).ws.held = (s.part p).ws.held ++ [({ h with kind := 0 }, b)]) ∧
    ∀ im l, (s.part p).image = some im → (s.part p).ws.load = some l → Ld.link l.desc = true → Ld.id l.desc = h.loadId →
      l.seen.contains h.chunk = false → h.chunk < Ld.chunks l.desc →
      ((l.pieces.filter (fun q => q.1 == h.chunk)).foldl (fun n q => n + q.2.2.length) 0) + b.length < Ld.chunkLen l.desc h.chunk →
      t = { s with parts := t.parts } ∧ (t.part p).ws.load = some { l with pieces := l.pieces ++ [(h.chunk, h.first, b)] } := by
  refine ⟨_, loadDataMessage_run below h b s, s.loadMsg_cores .., fun untaken => State.loadMsg_held (h := { h with kind := 0 }) untaken none b,
    fun im l image load link id new inside partial_ => ?_⟩
  have joins := (State.loadMsg_taken (h := { h with kind := 0 }) image load link id none b).trans
    (State.loadPiece_joins (h := { h with kind := 0 }) b new inside partial_)
  rw [joins]
  exact ⟨rfl, by rw [State.ws_updLoad load]⟩

variable {s : State} {im : Image} {l : Load} (image : (s.part p).image = some im) (load : (s.part p).ws.load = some l)
include image load

theorem loadAbortMessage_ends {id : Nat} (link : Ld.link l.desc = true) (own : Ld.id l.desc = id) :
    ∃ t, exec (.loadAbortMessage p id) s = .next t ∧ t.cores = s.cores ∧ t.hbm = s.hbm ∧ (t.part p).ws.load = none ∧
      (t.part p).ws.lastStatus = Config.stLoadAborted ∧ (t.part p).ws.stOf (Ld.slot l.desc) = 0 := by
  have run := loadAbortMessage_run below id s
  rw [State.loadMsg_taken (h := ⟨id, 1, 0, 0, 0, 0⟩) image load link own] at run
  exact ⟨_, run, State.endLoad_shows image load Config.stLoadAborted 0 true⟩
theorem loadEndMessage_notes {id : Nat} (own : Ld.id l.desc = id) (link : Ld.link l.desc = true) (final : Ld.forward l.desc = false)
    (unkept : l.kept ≠ Ld.keepCount l.desc) :
    ∃ t, exec (.loadEndMessage p id) s = .next t ∧ t = { s with parts := t.parts } ∧ (t.part p).ws.load = some { l with endSeen := true } := by
  have run := loadEndMessage_run below id s
  rw [State.loadMsg_taken (h := ⟨id, 2, 0, 0, 0, 0⟩) image load link own] at run
  have noted := State.ws_updLoad load (fun l => { l with endSeen := true })
  have image' : ((s.updLoad p (fun l => { l with endSeen := true })).part p).image = some im := (State.image_updWs_self ..).trans image
  obtain ⟨n, goes⟩ := State.loadSettle_goesOn (l := { l with endSeen := true }) image' (by rw [noted]) unkept
  have unsent : (s.updLoad p (fun l => { l with endSeen := true })).sentEnd p im { l with endSeen := true } =
      s.updLoad p (fun l => { l with endSeen := true }) := if_neg (by simp [final])
  rw [unsent] at goes
  refine ⟨_, run.trans (congrArg Host.Outcome.next goes), rfl, ?_⟩
  rw [State.ws_updWs_self, noted]

omit image in
theorem loadCompanionTimeout_early (early : s.dtb < l.start + 100000000) : exec (.loadCompanionTimeout p) s = .next s := by
  show execLoadCompanionTimeout p s = _
  rw [execLoadCompanionTimeout, if_neg (Nat.not_le.2 below), load]
  exact if_neg (by simp [Nat.not_le.2 early])
theorem loadCompanionTimeout_ends (dual : Ld.dual l.desc = true) (alone : l.comp = none) (late : l.start + 100000000 ≤ s.dtb) :
    ∃ t, exec (.loadCompanionTimeout p) s = .next t ∧ t.cores = s.cores ∧ (t.part p).ws.load = none ∧
      (t.part p).ws.lastStatus = Config.stLoadAborted := by
  have run : exec (.loadCompanionTimeout p) s = .next (s.endLoad p Config.stLoadAborted 0 true) := by
    show execLoadCompanionTimeout p s = _
    rw [execLoadCompanionTimeout, if_neg (Nat.not_le.2 below), load]
    exact if_pos (by simp [dual, alone, late])
  obtain ⟨cores, -, ends, status, -⟩ := State.endLoad_shows image load Config.stLoadAborted 0 true
  exact ⟨_, run, cores, ends, status⟩
end

theorem State.dropAcks_frame (s : State) (ch : Nat) : s.dropAcks ch = { s with ports := (s.dropAcks ch).ports } := by
  unfold State.dropAcks
  generalize List.range 16 = l
  induction l generalizing s with
  | nil => rfl
  | cons k r ih =>
    rw [List.foldl_cons, ih]
    split
    · rfl
    · rfl

section
variable {p : Nat} {s : State} (below : p < 16) (waits : (s.part p).ws.held ≠ [])
include below

theorem loadHoldTimeout_early (early : s.dtb < (s.part p).ws.heldFrom + 100000000) : exec (.loadHoldTimeout p) s = .next s := by
  show execLoadHoldTimeout p s = _
  rw [execLoadHoldTimeout, if_neg (Nat.not_le.2 below)]
  exact if_pos (by simp [early])

include waits
theorem loadHoldTimeout_discards (late : (s.part p).ws.heldFrom + 100000000 ≤ s.dtb) :
    ∃ t, exec (.loadHoldTimeout p) s = .next t ∧ t.cores = s.cores ∧ t.hbm = s.hbm ∧
      (t.part p).ws.held = [] ∧ ((s.part p).image.isSome = true → (t.part p).ws.load = none) := by
  show ∃ t, execLoadHoldTimeout p s = .next t ∧ _
  rw [execLoadHoldTimeout, if_neg (Nat.not_le.2 below)]
  extract_lets w s1 s2
  rw [if_neg (by simpa [w, Nat.not_lt.2 late] using waits)]
  have ws1 : (s1.part p).ws = { w with held := [], heldVia := none } := State.ws_updWs_self ..
  obtain ⟨ports, told⟩ : ∃ ports, s2 = { s1 with ports := ports } := by
    unfold s2
    split
    · next port ch _ =>
      obtain ⟨ports, dropped⟩ : ∃ ports, s1.dropAcks ch = { s1 with ports := ports } := ⟨_, s1.dropAcks_frame ch⟩
      rw [dropped]
      exact ⟨_, rfl⟩
    · exact ⟨_, rfl⟩
  have part2 : s2.part p = s1.part p := by
    rw [told]
    rfl
  have cores2 : s2.cores = s.cores := by
    rw [told]
    rfl
  have hbm2 : s2.hbm = s.hbm := by
    rw [told]
    rfl
  split
  · next im l image load =>
    extract_lets s3
    have part3 : s3.part p = s1.part p := by
      unfold s3
      split
      · exact part2
      · exact part2
    have cores3 : s3.cores = s.cores := by
      unfold s3
      split
      · exact cores2
      · exact cores2
    have hbm3 : s3.hbm = s.hbm := by
      unfold s3
      split
      · exact hbm2
      · exact hbm2
    have image3 : (s3.part p).image = some im := by
      rw [part3]
      exact (State.image_updWs_self ..).trans image
    have load3 : (s3.part p).ws.load = some l := by
      rw [part3, ws1]
      exact load
    obtain ⟨cores, hbm, ends, -, -⟩ := State.endLoad_shows image3 load3 Config.stLoadAborted 0 true
    refine ⟨_, rfl, cores.trans cores3, hbm.trans hbm3, ?_, fun _ => ends⟩
    obtain ⟨a, b, set⟩ := (s3.part p).ws.setSt_frame (Ld.slot l.desc) 0
    rw [State.endLoad_ws image3 load3, WeightState.ended, set, part3, ws1]
  · next none_ =>
    refine ⟨_, rfl, cores2, hbm2, by rw [part2, ws1], fun image => ?_⟩
    obtain ⟨im, some_⟩ := Option.isSome_iff_exists.1 image
    rw [part2, ws1]
    exact Option.eq_none_iff_forall_ne_some.2 fun l load => none_ im l some_ load
end

/-- Settles O41: a load's end is `State.endLoad_shows`, its going on `State.loadSettle_host` and `State.loadSettle_goesOn`, and what a
chunk writes is what the same write to the state before it leaves (`State.SameMem.writeX`). -/
theorem loadRowsComplete : Obligations.LoadRowsComplete := by
  unfold Obligations.LoadRowsComplete
  refine ⟨?chunk, fun p h b s below => loadDataMessage_taken below h b s, ?held, ?taken, ?companion,
    fun p s below waits => ⟨loadHoldTimeout_early below, loadHoldTimeout_discards below waits⟩⟩
  case chunk =>
    intro p port c crc b s im l below wired image load host final single own inside keeps new quiet forwarded whole
    have fails := hostChunkRead_fails (crc := crc) below wired image load host single own inside keeps new
    exact ⟨⟨_, fails, State.endLoad_shows image load Config.stDmaError 0 true⟩,
      hostChunkRead_badCheck below wired image load host single own inside keeps new whole,
      hostChunkRead_keeps below wired image load host final single own inside keeps new quiet forwarded whole⟩
  case held =>
    intro p id s below untaken
    exact ⟨⟨_, loadAbortMessage_run below id s, State.loadMsg_held (h := ⟨id, 1, 0, 0, 0, 0⟩) untaken none []⟩,
      ⟨_, loadEndMessage_run below id s, State.loadMsg_held (h := ⟨id, 2, 0, 0, 0, 0⟩) untaken none []⟩⟩
  case taken =>
    intro p id s im l below image load
    exact ⟨loadAbortMessage_ends below image load, loadEndMessage_notes below image load⟩
  case companion =>
    intro p s im l below image load dual alone
    exact ⟨loadCompanionTimeout_early below load, loadCompanionTimeout_ends below image load dual alone⟩

end Sys2Proof.Machine
end

section
/-!
The collective engine: what progress of instances leaves alone, INSTANCE_START and RESULT_DELIVERY (chapter 14).
-/

-- One proof after another: the stacks of proofs that wait for each other count against the check's memory limit.
set_option Elab.async false
namespace Sys2Proof.Machine

/-! ## What the engine's work leaves alone -/

/-- From `s` to `t` the engine has worked on the instances that `A` names by their group's key and number: messages joined what ports have
to send, channels show flags and completions, and memory and partitions may differ. Cores and commits are as they were, none of the instances has
started, and the other instances are as they were. -/
structure State.Works (A : Nat → Nat → Prop) (s t : State) : Prop where
  core : ∀ c, t.core c = s.core c
  commit : t.commit = s.commit
  port : ∀ k, (s.port k).Sends (t.port k)
  chan : ∀ v, t.chan v = { s.chan v with completed := (t.chan v).completed, flags := (t.chan v).flags, satCount := (t.chan v).satCount }
  started : ∀ p g, (t.grp p g).started = (s.grp p g).started
  skipped : ∀ p g, (t.grp p g).skipped = (s.grp p g).skipped
  inst : ∀ p g q, ¬ A (p * 256 + g) q → (t.grp p g).inst q = (s.grp p g).inst q

section
variable {A B : Nat → Nat → Prop} {s t u : State}

theorem State.Works.refl (s : State) : s.Works A s := ⟨fun _ => rfl, rfl, fun _ => .refl _, fun _ => rfl, fun _ _ => rfl, fun _ _ => rfl, fun _ _ _ _ => rfl⟩
theorem State.Works.trans (h : State.Works A s t) (k : State.Works A t u) : State.Works A s u where
  core c := (k.core c).trans (h.core c)
  commit := k.commit.trans h.commit
  port i := (h.port i).trans (k.port i)
  chan v := by rw [k.chan v, h.chan v]
  started p g := (k.started p g).trans (h.started p g)
  skipped p g := (k.skipped p g).trans (h.skipped p g)
  inst p g q out := (k.inst p g q out).trans (h.inst p g q out)
theorem State.Works.mono (h : State.Works A s t) (le : ∀ k q, A k q → B k q) : State.Works B s t :=
  { h with inst := fun p g q out => h.inst p g q fun inA => out (le _ _ inA) }
theorem State.Works.isStarted (h : State.Works A s t) (p g q : Nat) : (t.grp p g).isStarted q = (s.grp p g).isStarted q := by
  unfold GroupState.isStarted
  rw [h.started, h.skipped]
/-- Turns that each work, in whatever state they find that is as far as they go. -/
theorem State.Works.foldl_of {β : Type} {f : State → β → State} {l : List β}
    (h : ∀ t, State.Works A s t → ∀ b ∈ l, State.Works A t (f t b)) : ∀ t, State.Works A s t → State.Works A s (l.foldl f t) := by
  induction l with
  | nil => exact fun t w => w
  | cons b r ih => exact fun t w => ih (fun u v c mem => h u v c (List.mem_cons_of_mem b mem)) _ (w.trans (h t w b (List.mem_cons_self ..)))
theorem State.Works.foldl {β : Type} {f : State → β → State} (h : ∀ (t : State) b, State.Works A t (f t b)) (l : List β) (s : State) :
    State.Works A s (l.foldl f s) := State.Works.foldl_of (fun t _ b _ => h t b) s (.refl s)
theorem State.Wrote.works (h : s.Wrote t) : State.Works A s t := by
  rw [h.frame]
  exact ⟨fun _ => rfl, rfl, fun _ => .refl _, fun _ => rfl, fun _ _ => rfl, fun _ _ => rfl, fun _ _ _ _ => rfl⟩
end

section
variable {A : Nat → Nat → Prop} (s : State)

theorem State.updJob_wrote (p : Nat) (f : JobState → JobState) : s.Wrote (s.updJob p f) := ⟨rfl⟩
theorem State.updChan_works (ch : Nat) {f : Channel → Channel}
    (h : ∀ c, f c = { c with completed := (f c).completed, flags := (f c).flags, satCount := (f c).satCount }) :
    State.Works A s (s.updChan ch f) := by
  refine ⟨fun _ => rfl, rfl, fun _ => .refl _, fun v => ?_, fun _ _ => rfl, fun _ _ => rfl, fun _ _ _ _ => rfl⟩
  rw [State.updChan, State.chan_setChan]
  split
  · next e => rw [e]; exact h _
  · rfl
theorem State.sendMsg_works (k v beat : Nat) (b : List Byte) : State.Works A s (s.sendMsg k v beat b) :=
  ⟨fun _ => rfl, rfl, (s.sendMsg_sends ..).port, fun _ => rfl, fun _ _ => rfl, fun _ _ => rfl, fun _ _ _ _ => rfl⟩
theorem State.sendMember_works (p : Nat) (r : List Byte) (im : Image) (dest beat : Nat) (b : List Byte) :
    State.Works A s (s.sendMember p r im dest beat b) := by
  unfold State.sendMember
  split
  · exact s.sendMsg_works ..
  · split
    · exact s.sendMsg_works ..
    · exact .refl s
theorem State.updGrp_works (p g : Nat) {f : GroupState → GroupState} (started : ∀ x, (f x).started = x.started)
    (skipped : ∀ x, (f x).skipped = x.skipped) (inst : ∀ x q, ¬ A (p * 256 + g) q → (f x).inst q = x.inst q) :
    State.Works A s (s.updGrp p g f) := by
  have reads : ∀ a b, (s.updGrp p g f).grp a b = if a * 256 + b = p * 256 + g then f (s.grp p g) else s.grp a b := fun a b =>
    State.grp_setGrp ..
  have same : ∀ a b, a * 256 + b = p * 256 + g → s.grp a b = s.grp p g := fun a b e => by rw [State.grp, State.grp, e]
  refine ⟨fun _ => rfl, rfl, fun _ => .refl _, fun _ => rfl, fun a b => ?_, fun a b => ?_, fun a b q out => ?_⟩ <;> rw [reads] <;> split
  · next e => rw [same a b e]; exact started _
  · rfl
  · next e => rw [same a b e]; exact skipped _
  · rfl
  · next e => rw [same a b e]; exact inst _ _ (e ▸ out)
  · rfl

/-- Changing the one of number `q` leaves the other instances. -/
theorem GroupState.inst_changed (x : GroupState) {q j : Nat} {f : Instance → Instance} (seq : ∀ i, (f i).seq = i.seq) (other : j ≠ q) :
    ({ x with insts := x.insts.map (fun i => if i.seq = q then f i else i) } : GroupState).inst j = x.inst j := by
  unfold GroupState.inst
  dsimp only
  induction x.insts with
  | nil => rfl
  | cons i r ih =>
    rw [List.map_cons, List.find?_cons, List.find?_cons, ih]
    by_cases own : i.seq = q
    · have differs : i.seq ≠ j := fun e => other (e.symm.trans own)
      rw [if_pos own, seq, beq_false_of_ne differs]
    · rw [if_neg own]
theorem GroupState.inst_filtered (x : GroupState) {q j : Nat} (other : j ≠ q) (c f) :
    ({ x with insts := x.insts.filter (fun i => i.seq != q), completed := c, figures := f } : GroupState).inst j = x.inst j := by
  unfold GroupState.inst
  dsimp only
  rw [List.find?_filter]
  refine congrArg (fun k => List.find? k x.insts) (funext fun i => ?_)
  by_cases own : i.seq = j
  · simp [own, other]
  · simp [own]
theorem GroupState.inst_appended (x : GroupState) {j : Nat} (I : Instance) (other : I.seq ≠ j) :
    ({ x with insts := x.insts ++ [I] } : GroupState).inst j = x.inst j := by
  unfold GroupState.inst
  dsimp only
  rw [List.find?_append, List.find?_singleton, beq_false_of_ne other]
  simp

theorem State.updInst_works {p g q : Nat} (own : A (p * 256 + g) q) {f : Instance → Instance} (seq : ∀ i, (f i).seq = i.seq) :
    State.Works A s (s.updInst p g q f) :=
  s.updGrp_works p g (fun _ => rfl) (fun _ => rfl) fun x j out => x.inst_changed seq fun e => out (e ▸ own)
end

/-! ## Progress of instances (R305 to R320) -/

section
variable {A : Nat → Nat → Prop} {p g q : Nat} (own : A (p * 256 + g) q) (im : Image) (r : List Byte)

theorem State.addCollFlags_works (s : State) (p ch : Nat) (f : Fl) : State.Works A s (s.addCollFlags p ch f) :=
  State.Works.trans (s.updJob_wrote ..).works (State.updChan_works _ ch fun _ => rfl)
theorem State.landBytes_wrote (s : State) (p g q x : Nat) (bs : List Byte) : s.Wrote (s.landBytes p g q x bs) :=
  (s.updJob_wrote ..).trans (State.storeX_wrote ..)
theorem State.landCodes_wrote (s : State) (p g q x w i : Nat) (cs : List Nat) : s.Wrote (s.landCodes p g q x w i cs) := s.landBytes_wrote ..
theorem State.writeRecords_wrote (s : State) (p g : Nat) (im : Image) (r : List Byte) (q : Nat) : s.Wrote (s.writeRecords p g im r q) := by
  unfold State.writeRecords
  split
  · split
    · exact .refl s
    · dsimp only
      split
      · exact .refl s
      · exact s.storeX_wrote ..
  · exact .refl s

include own
theorem State.sendOne_works (s : State) (beat : Nat) (m : Send) : State.Works A s (s.sendOne p g im r q beat m) := by
  unfold State.sendOne
  split
  · exact .refl s
  · extract_lets s1
    have sent : State.Works A s s1 := by
      refine .trans ?_ (State.addCollFlags_works ..)
      exact s.updInst_works own fun _ => rfl
    split
    · refine sent.trans ?_
      exact s1.updInst_works own fun _ => rfl
    · exact sent.trans (s1.sendMember_works ..)
theorem State.landBlock_works (s : State) (blk : Nat × Nat × Nat) (cs : List (Nat × Nat)) (f : Fl) :
    State.Works A s (s.landBlock p g im r q blk cs f) := by
  unfold State.landBlock
  extract_lets w s1 x0 s2 s3 s4
  have noted : State.Works A s s1 := by
    refine .trans ?_ (State.addCollFlags_works ..)
    exact s.updInst_works own fun _ => rfl
  have scaled : s2.Wrote s3 := by
    unfold s3
    split
    · exact s2.landBytes_wrote ..
    · exact .refl s2
  have landed : State.Works A s s4 := noted.trans (((s1.landCodes_wrote ..).trans scaled).trans s3.answer_wrote).works
  split
  · exact noted
  · split
    · refine landed.trans (.trans (s4.signalAdd_wrote p (Gr.signal r)).works ?_)
      exact State.updInst_works _ own fun _ => rfl
    · exact landed
theorem State.landResults_works (s : State) : State.Works A s (s.landResults p g im r q) := by
  unfold State.landResults
  split
  · extract_lets closed s1
    have blocks : State.Works A s s1 := .foldl (fun t blk => by
      split
      · exact .refl t
      · split
        · exact t.landBlock_works own ..
        · exact .refl t) _ s
    split
    · exact blocks
    · refine blocks.trans (.foldl (fun t j => ?_) _ s1)
      split
      · exact .refl t
      · split
        · exact .refl t
        · extract_lets t2
          have noted : State.Works A t t2 := t.updInst_works own fun _ => rfl
          split
          · exact noted
          · exact noted.trans (t2.landBytes_wrote ..).works
  · exact .refl s
theorem State.progressOnce_works (s : State) : State.Works A s (s.progressOnce p g im r q) := by
  unfold State.progressOnce
  split
  · exact .refl s
  · next I _ =>
    have sent : State.Works A s (if s.sendsBefore p g im r q then s
        else (s.toSend p g im r I).foldl (fun s m => s.sendOne p g im r q I.beat m) s) := by
      split
      · exact .refl s
      · exact .foldl (fun t m => t.sendOne_works own im r I.beat m) _ s
    exact sent.trans (State.landResults_works own im r _)
theorem State.advanceInst_works (s : State) : State.Works A s (s.advanceInst p g im r q) := by
  unfold State.advanceInst
  extract_lets s1 ch s2 top
  have gone : State.Works A s s1 :=
    (State.Works.foldl (fun t _ => t.progressOnce_works own im r) _ s).trans (State.writeRecords_wrote ..).works
  split
  · exact gone
  · split
    · exact gone
    · extract_lets beat s3 figs
      have signalled : s1.Wrote s2 := by
        unfold s2
        split
        · exact s1.signalAdd_wrote ..
        · exact .refl s1
      have dated : State.Works A s s3 := gone.trans (signalled.trans (s2.updJob_wrote ..)).works
      have closed : State.Works A s3 (s3.updGrp p g (fun x => { x with
          insts := x.insts.filter (fun i => i.seq != q), completed := some top, figures := figs.or x.figures })) :=
        s3.updGrp_works p g (fun _ => rfl) (fun _ => rfl) fun x j out => x.inst_filtered (q := q) (j := j) (fun e => out (by rw [e]; exact own)) _ _
      exact (dated.trans closed).trans (State.updChan_works _ ch fun _ => rfl)
end

section
variable {A : Nat → Nat → Prop} {s : State} {p g : Nat} (own : ∀ q, (s.grp p g).isStarted q = true → A (p * 256 + g) q)
include own

/-- Progress reaches started instances only. -/
theorem State.progress_works (im : Image) (r : List Byte) (q : Nat) : State.Works A s (s.progress p g im r q) := by
  refine State.Works.foldl_of (fun t w i _ => ?_) s (.refl s)
  split
  · next started => exact t.advanceInst_works (own _ (by rw [← w.isStarted]; exact started)) im r
  · exact .refl t
theorem State.progressGroup_works : State.Works A s (s.progressGroup p g) := by
  unfold State.progressGroup
  split
  · exact .refl s
  · split
    · exact .refl s
    · exact State.Works.foldl_of (fun t w i _ => t.progress_works (fun q started => own q (by rw [← w.isStarted]; exact started)) _ _ _) s (.refl s)
end

theorem State.shelfFault_wrote (s : State) (p sh beat : Nat) : s.Wrote (s.shelfFault p sh beat) := ⟨rfl⟩
/-- A stage message that lands changes, of the instances, its own and started ones. -/
theorem State.landStage_works {A : Nat → Nat → Prop} {s : State} {p : Nat} {h : CollHeader} (own : A (p * 256 + h.group) h.pseq)
    (started : ∀ q, (s.grp p h.group).isStarted q = true → A (p * 256 + h.group) q) (im : Image) (r : List Byte) (beat : Nat) (b : List Byte) :
    State.Works A s (s.landStage p im r h beat b) := by
  unfold State.landStage
  extract_lets x t u
  have listed : State.Works A s t := by
    unfold t
    split
    · exact .refl s
    · exact s.updGrp_works p h.group (fun _ => rfl) (fun _ => rfl) fun y j out => y.inst_appended _ fun e => out (e ▸ own)
  split
  · exact listed
  · split
    · refine listed.trans (.trans ?_ (State.shelfFault_wrote ..).works)
      exact t.updInst_works own fun _ => rfl
    · have got : State.Works A s u := by
        refine listed.trans ?_
        exact t.updInst_works own fun _ => rfl
      split
      · exact got.trans (u.progress_works (fun q begun => started q (by rw [← got.isStarted]; exact begun)) im r _)
      · exact got


/-! ## Holds (R330) -/

theorem State.holdOn_shows (s : State) (ch g : Nat) : s.holdOn ch g = { s with chans := (s.holdOn ch g).chans } ∧
    ((s.holdOn ch g).chan ch).holdFrom = some ((s.chan ch).holdFrom.getD s.dtb) ∧ ((s.holdOn ch g).chan ch).started = (s.chan ch).started ∧
    ((s.holdOn ch g).chan ch).heldMsgs = (s.chan ch).heldMsgs := by
  refine ⟨rfl, ?_⟩
  unfold State.holdOn State.updChan
  rw [State.chan_setChan_self]
  dsimp only
  split
  · next d held => exact ⟨by rw [held]; rfl, rfl, rfl⟩
  · next free => exact ⟨by rw [free]; rfl, rfl, rfl⟩
theorem State.holdOff_frame (s : State) (ch g v : Nat) : s.holdOff ch g = { s with chans := (s.holdOff ch g).chans } ∧
    (s.holdOff ch g).chan v = { s.chan v with holdFrom := ((s.holdOff ch g).chan v).holdFrom } := by
  refine ⟨rfl, ?_⟩
  unfold State.holdOff State.updChan
  rw [State.chan_setChan]
  split
  · next e =>
    rw [e]
    dsimp only
    split
    · rfl
    · rfl
  · rfl

/-! ## INSTANCE_START (R309, R328, R329) -/

section
variable {s : State} {p g q : Nat} {im : Image} {r : List Byte} (below : p < 16) (group : g < 256) (image : (s.part p).image = some im)
  (record : groupRec im g = some r) (waits : (s.grp p g).waiting = some q)
include below group image record waits

theorem instanceStart_run : exec (.instanceStart p g) s =
    if !(s.grp p g).mayStart (Gr.window r) q then .next s
    else if s.chanBusy p g im (Gr.vcOrd r) then .next (s.holdOn (im.chan (Gr.vcOrd r)) g)
    else
      let ch := im.chan (Gr.vcOrd r)
      let s1 := s.updGrp p g (fun x => x.start q)
      let s2 := s1.updChan ch (fun c => { c with
        started := ((s1.grp p g).started).getD q
        group := g
        early := c.early.filter (fun e => !(e.2.1.group == g && e.2.1.pseq == q)) })
      let s3 := ((s.chan ch).early.filter (fun e => e.2.1.group == g && e.2.1.pseq == q)).foldl
        (fun s e => s.landStage p im r e.2.1 e.2.2.1 e.2.2.2) s2
      .next ((s3.holdOff ch g).progress p g im r q) := by
  show execInstanceStart p g s = _
  rw [execInstanceStart, if_neg (by simp; omega), image]
  dsimp only
  rw [record, waits]

theorem instanceStart_starts (may : (s.grp p g).mayStart (Gr.window r) q = true) (free : s.chanBusy p g im (Gr.vcOrd r) = false) :
    let ch := im.chan (Gr.vcOrd r)
    ∃ t, exec (.instanceStart p g) s = .next t ∧
      (t.grp p g).isStarted q = true ∧ (t.grp p g).started = some (max (((s.grp p g).started).getD 0) q) ∧
      (t.chan ch).started = max (((s.grp p g).started).getD 0) q ∧ (t.chan ch).group = g ∧
      (t.chan ch).early = (s.chan ch).early.filter (fun e => !(e.2.1.group == g && e.2.1.pseq == q)) ∧ ∀ c, t.core c = s.core c := by
  intro ch
  have run := instanceStart_run below group image record waits
  rw [if_neg (by simp [may]), if_neg (by simp [free])] at run
  dsimp only at run
  generalize state1 : s.updGrp p g (fun x => x.start q) = s1 at run
  have grp1 : s1.grp p g = (s.grp p g).start q := by
    rw [← state1, State.updGrp, State.grp_setGrp_self]
  have started1 : (s1.grp p g).started = some (max (((s.grp p g).started).getD 0) q) := by
    rw [grp1, GroupState.start]
    cases (s.grp p g).started with
    | none => simp
    | some n => simp
  have isStarted1 : (s1.grp p g).isStarted q = true := by
    unfold GroupState.isStarted
    rw [started1, grp1]
    simp [GroupState.start]
  rw [started1] at run
  generalize state2 : s1.updChan ch (fun c => { c with
    started := (some (max (((s.grp p g).started).getD 0) q)).getD q
    group := g
    early := c.early.filter (fun e => !(e.2.1.group == g && e.2.1.pseq == q)) }) = s2 at run
  generalize landed : ((s.chan ch).early.filter (fun e => e.2.1.group == g && e.2.1.pseq == q)).foldl
    (fun s e => s.landStage p im r e.2.1 e.2.2.1 e.2.2.2) s2 = s3 at run
  have grp2 : s2.grp p g = s1.grp p g := by rw [← state2]; rfl
  have stages : State.Works (fun _ _ => True) s2 s3 := by
    rw [← landed]
    refine .foldl (fun t e => ?_) _ s2
    exact State.landStage_works trivial (fun _ _ => trivial) im r e.2.2.1 e.2.2.2
  have progresses : State.Works (fun _ _ => True) (s3.holdOff ch g) ((s3.holdOff ch g).progress p g im r q) :=
    State.progress_works (fun _ _ => trivial) im r q
  obtain ⟨frame, held⟩ := s3.holdOff_frame ch g ch
  have chan2 : s2.chan ch = { s.chan ch with
      started := max (((s.grp p g).started).getD 0) q, group := g,
      early := (s.chan ch).early.filter (fun e => !(e.2.1.group == g && e.2.1.pseq == q)) } := by
    rw [← state2, State.updChan, State.chan_setChan_self, ← state1]
    rfl
  refine ⟨_, run, ?_, ?_, ?_, ?_, ?_, fun c => ?_⟩
  · rw [progresses.isStarted, ← isStarted1, ← grp2, ← stages.isStarted]
    rw [frame]
    rfl
  · rw [progresses.started, ← started1, ← grp2, ← stages.started]
    rw [frame]
    rfl
  · rw [progresses.chan, held, stages.chan, chan2]
  · rw [progresses.chan, held, stages.chan, chan2]
  · rw [progresses.chan, held, stages.chan, chan2]
  · rw [progresses.core, frame]
    refine (stages.core c).trans ?_
    rw [← state2, ← state1]
    rfl
end

/-- Settles O36: what starts is `instanceStart_run`, and the engine's work (`State.Works`) leaves what the start set. -/
theorem instanceStartCompletes : Obligations.InstanceStartCompletes := by
  unfold Obligations.InstanceStartCompletes
  intro p g q s im r below group image record waits
  have run := instanceStart_run below group image record waits
  refine ⟨fun early => ?_, fun may busy => ?_, instanceStart_starts below group image record waits⟩
  · rw [run, if_pos (by simp [early])]
  · rw [if_neg (by simp [may]), if_pos busy] at run
    obtain ⟨frame, held, started, -⟩ := s.holdOn_shows (im.chan (Gr.vcOrd r)) g
    exact ⟨_, run, frame, held, started⟩


/-! ## RESULT_DELIVERY (R321 to R324) -/

/-- What of a core a write that lands or is held leaves alone. -/
theorem Core.landNew_frame (k : Core) (w : LocalWrite) : k.landNew w = { k with
    ts := (k.landNew w).ts, ob := (k.landNew w).ob, upsets := (k.landNew w).upsets, mu := (k.landNew w).mu, tally := (k.landNew w).tally } := by
  unfold Core.landNew
  split
  · rfl
  · rw [Core.land_frame]
theorem Core.landAll_desc (k : Core) (ws : List LocalWrite) : (k.landAll ws).desc = k.desc :=
  foldl_keeps Core.desc (fun k w => by rw [Core.landNew_frame]) ws k
theorem Core.landAll_ready (k : Core) (ws : List LocalWrite) : (k.landAll ws).ready = k.ready :=
  foldl_keeps Core.ready (fun k w => by rw [Core.landNew_frame]) ws k

/-- A core whose posted range has been written; in consume mode its flag is set. -/
def Core.posted (k : Core) (r : List Byte) (ws : List LocalWrite) (flag : Nat) : Core :=
  let k1 := k.landAll ws
  if Gr.overlap r then k1 else { k1 with ready := setBit k1.ready flag true }
theorem Core.posted_shows (k : Core) (r : List Byte) (ws : List LocalWrite) (flag : Nat) :
    k.posted r ws flag = { k.landAll ws with ready := (k.posted r ws flag).ready } ∧ (k.posted r ws flag).seq = k.seq ∧
      (k.posted r ws flag).desc = k.desc ∧
      ∀ j, bit (k.posted r ws flag).ready j = (bit k.ready j || (!Gr.overlap r && decide (j = flag))) := by
  unfold Core.posted
  dsimp only
  split
  · next background =>
    refine ⟨rfl, k.landAll_seq ws, k.landAll_desc ws, fun j => ?_⟩
    rw [k.landAll_ready, background]
    simp
  · next consumes =>
    refine ⟨rfl, k.landAll_seq ws, k.landAll_desc ws, fun j => ?_⟩
    rw [bit_setBit, k.landAll_ready]
    by_cases own : j = flag
    · simp [own, consumes]
    · simp [own]

section
variable {p g n q at_ : Nat} {s : State} {im : Image} {r : List Byte} {I : Instance} {post : Posted} (below : p < 16) (group : g < 256)
  (image : (s.part p).image = some im) (record : groupRec im g = some r) (awaits : (s.grp p g).awaiting[n]? = some (q, at_, post))
  (open_ : (s.grp p g).inst q = some I)
include below group image record awaits open_

theorem resultDelivery_run : exec (.resultDelivery p g n) s =
    let ch := im.chan (Gr.vcOrd r)
    if !s.deliverable p g im r I post then .next s
    else if !Gr.overlap r && bit (s.core post.core).ready post.flag then .next (s.updChan ch (fun c => { c with flagWait := true }))
    else
      let newChunks := if Gr.overlap r then postedChunks r ((s.member p im r).getD 0) I post else []
      let s1 := s.updCore post.core (fun k => k.posted r (postedWrites r I post) post.flag)
      let s2 := newChunks.foldl (fun s _ => s.signalAdd p (Gr.signal r)) s1
      let s3 := (s2.updInst p g q (fun i => { i with
        posted := i.posted.set at_ { post with delivered := true }, signalled := i.signalled ++ newChunks })).updChan ch
          (fun c => { c with flagWait := false })
      .next (s3.progress p g im r q) := by
  show execResultDelivery p g n s = _
  rw [execResultDelivery, if_neg (by simp; omega), image]
  dsimp only
  rw [record, awaits]
  dsimp only
  rw [open_]
  rfl

theorem resultDelivery_delivers (here : s.deliverable p g im r I post = true)
    (clear : Gr.overlap r = true ∨ bit (s.core post.core).ready post.flag = false) :
    ∃ t, exec (.resultDelivery p g n) s = .next t ∧ (∀ d, d ≠ post.core → t.core d = s.core d) ∧
      t.core post.core = (s.core post.core).posted r (postedWrites r I post) post.flag ∧ (t.chan (im.chan (Gr.vcOrd r))).flagWait = false := by
  have run := resultDelivery_run below group image record awaits open_
  dsimp only at run
  rw [if_neg (by simp [here]), if_neg (by rcases clear with on | off <;> simp [*])] at run
  generalize chunks : (if Gr.overlap r then postedChunks r ((s.member p im r).getD 0) I post else []) = cs at run
  generalize state1 : s.updCore post.core (fun k => k.posted r (postedWrites r I post) post.flag) = s1 at run
  have signalled : s1.Wrote (cs.foldl (fun s _ => s.signalAdd p (Gr.signal r)) s1) := .foldl (fun t _ => t.signalAdd_wrote ..) cs s1
  generalize cs.foldl (fun s _ => s.signalAdd p (Gr.signal r)) s1 = s2 at run signalled
  have noted : State.Works (fun _ _ => True) s2 (s2.updInst p g q (fun i => { i with
      posted := i.posted.set at_ { post with delivered := true }, signalled := i.signalled ++ cs })) :=
    s2.updInst_works trivial fun _ => rfl
  generalize s2.updInst p g q (fun i => { i with
      posted := i.posted.set at_ { post with delivered := true }, signalled := i.signalled ++ cs }) = s3 at run noted
  have progresses : State.Works (fun _ _ => True) (s3.updChan (im.chan (Gr.vcOrd r)) (fun c => { c with flagWait := false }))
      ((s3.updChan (im.chan (Gr.vcOrd r)) (fun c => { c with flagWait := false })).progress p g im r q) :=
    State.progress_works (fun _ _ => trivial) im r q
  have core : ∀ d, ((s3.updChan (im.chan (Gr.vcOrd r)) (fun c => { c with flagWait := false })).progress p g im r q).core d = s1.core d := by
    intro d
    refine (progresses.core d).trans ((noted.core d).trans ?_)
    rw [signalled.frame]
    rfl
  refine ⟨_, run, fun d other => ?_, ?_, ?_⟩
  · rw [core, ← state1, State.core_updCore_other _ _ other]
  · rw [core, ← state1, State.core_updCore_self]
  · rw [progresses.chan, State.updChan, State.chan_setChan_self]
end

/-- Settles O38: the posting core's writes are `Core.posted`, and what follows at the engine changes no core. -/
theorem resultDeliveryCompletes : Obligations.ResultDeliveryCompletes := by
  unfold Obligations.ResultDeliveryCompletes
  intro p g n q at_ s im r I post below group image record awaits open_
  have run := resultDelivery_run below group image record awaits open_
  refine ⟨fun absent => ?_, fun here consumes set => ?_, fun here clear => ?_⟩
  · rw [run, if_pos (by simp [absent])]
  · rw [run, if_neg (by simp [here]), if_pos (by simp [consumes, set])]
    rfl
  · obtain ⟨t, steps, others, core, wait⟩ := resultDelivery_delivers below group image record awaits open_ here clear
    obtain ⟨frame, seq, desc, ready⟩ := (s.core post.core).posted_shows r (postedWrites r I post) post.flag
    refine ⟨t, steps, others, ⟨?_, ?_, ?_, ?_⟩, wait⟩ <;> rw [core]
    · exact frame
    · exact seq
    · exact desc
    · exact ready

end Sys2Proof.Machine
end

section
/-!
COLLECTIVE_MESSAGE and ORDER_SKEW_TIMEOUT: how an arriving stage message is sorted (Table 14.6), and how a hold ends (R330).
-/

-- One proof after another: the stacks of proofs that wait for each other count against the check's memory limit.
set_option Elab.async false
namespace Sys2Proof.Machine

/-! ## The number after the highest of the started instances -/

/-- The first number of instances that no start has reached. -/
def GroupState.fresh (x : GroupState) : Nat := match x.started with | some n => n + 1 | none => 0
/-- Whether the one of the open instances with number `q` has been handed off for a beat (log entry 88). -/
def GroupState.bears (x : GroupState) (q beat : Nat) : Bool :=
  match x.inst q with | some I => !I.cores.isEmpty && I.beat == beat | none => false

theorem GroupState.isDone_of_fresh {x : GroupState} {q : Nat} (h : x.fresh ≤ q) : x.isDone q = false := by
  unfold GroupState.fresh at h
  unfold GroupState.isDone GroupState.isStarted
  cases starts : x.started with
  | none => simp
  | some n =>
    rw [starts] at h
    have past : ¬ q ≤ n := by dsimp only at h; omega
    simp [past]

/-! ## Reports of a channel (R330, R331) -/

theorem State.report_reports (s : State) (p st d b : Nat) (u : UnitId) : ((s.report p st d b u).part p).job.reports =
    (s.part p).job.reports ++ [(st, d, b, u.kind * 65536 + u.num)] := by
  rw [State.report_part, if_pos rfl]
theorem State.orderSkew_shows (s : State) (ch g beat : Nat) : (s.orderSkew ch g beat).groups = s.groups ∧
    (∀ c, (s.orderSkew ch g beat).core c = s.core c) ∧ ((s.orderSkew ch g beat).chan ch).holdFrom = none ∧
    ((s.orderSkew ch g beat).chan ch).skewReports = satAdd 0xFFFF (s.chan ch).skewReports 1 ∧
    ((s.orderSkew ch g beat).part (s.chan ch).owner).job.reports =
      (s.part (s.chan ch).owner).job.reports ++ [(Config.stOrderSkew, 0, beat, 3 * 65536 + g)] := by
  obtain ⟨ports, dropped⟩ : ∃ ports, s.dropAcks ch = { s with ports := ports } := ⟨_, s.dropAcks_frame ch⟩
  have shown : (s.orderSkew ch g beat).chan ch =
      { s.chan ch with skewReports := satAdd 0xFFFF (s.chan ch).skewReports 1, holdFrom := none, heldMsgs := [] } := by
    unfold State.orderSkew
    rw [dropped]
    exact State.chan_setChan_self ..
  refine ⟨?_, fun c => ?_, by rw [shown], by rw [shown], ?_⟩
  · unfold State.orderSkew
    rw [dropped]
    rfl
  · unfold State.orderSkew
    rw [dropped]
    rfl
  · unfold State.orderSkew
    rw [State.report_reports, dropped]
    rfl

/-! ## Sorting an arriving message (Table 14.6) -/

/-- What is reported of a message leaves channels and groups alone. -/
def State.Reported (s t : State) (p cause beat src : Nat) : Prop :=
  (t.part p).job.reports = (s.part p).job.reports ++ [(Config.stScheduleFault, cause, beat, src)] ∧ t.chans = s.chans ∧ t.groups = s.groups
theorem State.report_reported (s : State) (p cause beat : Nat) (u : UnitId) :
    s.Reported (s.report p Config.stScheduleFault cause beat u) p cause beat (u.kind * 65536 + u.num) :=
  ⟨s.report_reports .., rfl, rfl⟩

/-- A message inside the window for one of the instances that have not started waits in the channel; one below lands. -/
def State.place (s : State) (p : Nat) (im : Image) (r : List Byte) (port ch : Nat) (h : CollHeader) (beat : Nat) (b : List Byte)
    (s0 : Nat) : State :=
  if h.pseq < s0 then s.landStage p im r h beat b else s.updChan ch (fun c => { c with early := c.early ++ [(port, h, beat, b)] })

section
variable (s : State) (p : Nat) (im : Image) (r : List Byte) (port ch : Nat) (h : CollHeader) (beat : Nat) (b : List Byte)

theorem State.place_core (s0 c : Nat) : (s.place p im r port ch h beat b s0).core c = s.core c := by
  unfold State.place
  split
  · exact (State.landStage_works (A := fun _ _ => True) trivial (fun _ _ => trivial) im r beat b).core c
  · rfl

theorem State.collArrive_eq : s.collArrive p im r port ch h beat b =
    let x := s.grp p h.group
    let u : UnitId := ⟨3, h.group⟩
    let v : UnitId := ⟨2, port⟩
    let cur := (unitAdvance im u beat (beat + 1) ((s.part p).job.unit u)).cur
    if x.isDone h.pseq then s.report p Config.stScheduleFault 2 beat u
    else if x.fresh + Gr.window r ≤ h.pseq then s.orderSkew ch h.group beat
    else if beat < cur && !x.bears h.pseq beat then s.report p Config.stScheduleFault 2 beat u
    else if cur + planWin im u < beat then s.report p Config.stScheduleFault 3 beat u
    else if Gr.op r != 3 || !planHas im v then s.place p im r port ch h beat b x.fresh
    else match s.countUnit p v beat with
      | .error cause => s.report p Config.stScheduleFault cause beat v
      | .ok t => (t.boundary p v).place p im r port ch h beat b x.fresh := rfl

/-- Sorting a message changes no core, unless a commit waits for the port that counts it. -/
theorem State.collArrive_core (settled : s.commit.waiting = []) (c : Nat) : (s.collArrive p im r port ch h beat b).core c = s.core c := by
  rw [State.collArrive_eq]
  dsimp only
  split
  · rfl
  · split
    · exact (s.orderSkew_shows ch h.group beat).2.1 c
    · split
      · rfl
      · split
        · rfl
        · split
          · exact s.place_core ..
          · split
            · rfl
            · next t counted =>
              have frame := State.countUnit_frame counted
              have still : t.commit.waiting = [] := by rw [frame]; exact settled
              rw [State.boundary_of_none still, State.place_core, frame]
              rfl
theorem State.collMessage_core (settled : s.commit.waiting = []) (c : Nat) : (s.collMessage port ch h beat b).core c = s.core c := by
  unfold State.collMessage
  dsimp only
  split
  · rfl
  · split
    · rfl
    · split
      · split
        · rfl
        · split
          · rfl
          · exact s.collArrive_core _ _ _ _ _ _ _ _ settled c
      · rfl

variable {s p im r h beat}

theorem State.collArrive_done (done : (s.grp p h.group).isDone h.pseq = true) :
    s.Reported (s.collArrive p im r port ch h beat b) p 2 beat (3 * 65536 + h.group) := by
  rw [State.collArrive_eq]
  dsimp only
  rw [if_pos done]
  exact s.report_reported ..
theorem State.collArrive_beyond (beyond : (s.grp p h.group).fresh + Gr.window r ≤ h.pseq) :
    s.collArrive p im r port ch h beat b = s.orderSkew ch h.group beat := by
  have open_ : (s.grp p h.group).isDone h.pseq = false := GroupState.isDone_of_fresh (by omega)
  rw [State.collArrive_eq]
  dsimp only
  rw [if_neg (by simp [open_]), if_pos beyond]

variable (undone : (s.grp p h.group).isDone h.pseq = false) (within : h.pseq < (s.grp p h.group).fresh + Gr.window r) {cur : Nat}
  (now : (unitAdvance im ⟨3, h.group⟩ beat (beat + 1) ((s.part p).job.unit ⟨3, h.group⟩)).cur = cur)
include undone within now

theorem State.collArrive_late (late : beat < cur) (other : (s.grp p h.group).bears h.pseq beat = false) :
    s.Reported (s.collArrive p im r port ch h beat b) p 2 beat (3 * 65536 + h.group) := by
  rw [State.collArrive_eq]
  dsimp only
  rw [if_neg (by simp [undone]), if_neg (by omega), if_pos (by simp [now, late, other])]
  exact s.report_reported ..

variable (due : cur ≤ beat ∨ (s.grp p h.group).bears h.pseq beat = true)
include due

theorem State.collArrive_early (early : cur + planWin im ⟨3, h.group⟩ < beat) :
    s.Reported (s.collArrive p im r port ch h beat b) p 3 beat (3 * 65536 + h.group) := by
  rw [State.collArrive_eq]
  dsimp only
  rw [if_neg (by simp [undone]), if_neg (by omega), if_neg (by rw [now]; rcases due with le | own <;> simp [*]), if_pos (by rw [now]; exact early)]
  exact s.report_reported ..

variable (window : beat ≤ cur + planWin im ⟨3, h.group⟩)
include window

theorem State.collArrive_window : s.collArrive p im r port ch h beat b =
    if Gr.op r != 3 || !planHas im ⟨2, port⟩ then s.place p im r port ch h beat b (s.grp p h.group).fresh
    else match s.countUnit p ⟨2, port⟩ beat with
      | .error cause => s.report p Config.stScheduleFault cause beat ⟨2, port⟩
      | .ok t => (t.boundary p ⟨2, port⟩).place p im r port ch h beat b (s.grp p h.group).fresh := by
  rw [State.collArrive_eq]
  dsimp only
  rw [if_neg (by simp [undone]), if_neg (by omega), if_neg (by rw [now]; rcases due with le | own <;> simp [*]), if_neg (by rw [now]; omega)]
theorem State.collArrive_place (plain : Gr.op r ≠ 3 ∨ planHas im ⟨2, port⟩ = false) :
    s.collArrive p im r port ch h beat b = s.place p im r port ch h beat b (s.grp p h.group).fresh := by
  rw [State.collArrive_window port ch b undone within now due window, if_pos (by rcases plain with op | off <;> simp [*])]
theorem State.collArrive_waits (plain : Gr.op r ≠ 3 ∨ planHas im ⟨2, port⟩ = false) (unstarted : (s.grp p h.group).fresh ≤ h.pseq) :
    s.collArrive p im r port ch h beat b = s.updChan ch (fun c => { c with early := c.early ++ [(port, h, beat, b)] }) := by
  rw [State.collArrive_place port ch b undone within now due window plain, State.place, if_neg (Nat.not_lt.mpr unstarted)]
theorem State.collArrive_lands (plain : Gr.op r ≠ 3 ∨ planHas im ⟨2, port⟩ = false) (begun : h.pseq < (s.grp p h.group).fresh) :
    s.collArrive p im r port ch h beat b = s.landStage p im r h beat b := by
  rw [State.collArrive_place port ch b undone within now due window plain, State.place, if_pos begun]
theorem State.collArrive_counted (counts : ¬ (Gr.op r ≠ 3 ∨ planHas im ⟨2, port⟩ = false)) {cause : Nat}
    (refused : s.countUnit p ⟨2, port⟩ beat = .error cause) :
    s.Reported (s.collArrive p im r port ch h beat b) p cause beat (2 * 65536 + port) := by
  rw [State.collArrive_window port ch b undone within now due window, if_neg (by simpa using counts), refused]
  exact s.report_reported ..
end

/-! ## COLLECTIVE_MESSAGE (R320, R330) -/

section
variable {s : State} {port ch : Nat} (h : CollHeader) {beat : Nat} (b : List Byte)

theorem State.releaseHeld_none (none : (s.chan ch).heldMsgs = []) : s.releaseHeld ch = s := by
  unfold State.releaseHeld
  rw [none]
  rfl
theorem collectiveMessage_run (live : port < 16) (lane : ch < 8) (dated : beat < 2 ^ 48) (none : (s.chan ch).heldMsgs = []) :
    exec (.collectiveMessage port ch h beat b) s = .next (s.collMessage port ch h beat b) := by
  show execCollectiveMessage port ch h beat b s = _
  rw [execCollectiveMessage, if_neg (by simp; omega), State.releaseHeld_none none, Nat.mod_eq_of_lt dated]

theorem State.collMessage_unbound (unbound : (s.chan ch).bound = false) : s.collMessage port ch h beat b = s := by
  unfold State.collMessage
  dsimp only
  rw [if_pos (by simp [unbound])]

variable {im : Image} (bound : (s.chan ch).bound = true) (image : (s.part (s.chan ch).owner).image = some im)
include bound image

theorem State.collMessage_unknown (unknown : groupRec im h.group = none) :
    s.collMessage port ch h beat b = s.report (s.chan ch).owner Config.stScheduleFault 0 beat ⟨2, port⟩ := by
  unfold State.collMessage
  dsimp only
  rw [if_neg (by simp [bound]), image]
  dsimp only
  rw [unknown]
theorem State.collMessage_bound {r : List Byte} (record : groupRec im h.group = some r) : s.collMessage port ch h beat b =
    if im.chan (Gr.vcOrd r) != ch || 4 ≤ h.kind then s.report (s.chan ch).owner Config.stScheduleFault 0 beat ⟨2, port⟩
    else if s.chanBusy (s.chan ch).owner h.group im (Gr.vcOrd r) then
      (s.holdOn ch h.group).updChan ch (fun c => { c with heldMsgs := c.heldMsgs ++ [(port, h, beat, b)] })
    else s.collArrive (s.chan ch).owner im r port ch h beat b := by
  unfold State.collMessage
  dsimp only
  rw [if_neg (by simp [bound]), image]
  dsimp only
  rw [record]

variable {r : List Byte} (record : groupRec im h.group = some r)
include record

theorem State.collMessage_refused (refused : im.chan (Gr.vcOrd r) ≠ ch ∨ 4 ≤ h.kind) :
    s.Reported (s.collMessage port ch h beat b) (s.chan ch).owner 0 beat (2 * 65536 + port) := by
  rw [State.collMessage_bound h b bound image record, if_pos (by rcases refused with lane | kind <;> simp [*])]
  exact s.report_reported ..

variable (lane : im.chan (Gr.vcOrd r) = ch) (kind : h.kind < 4)
include lane kind

theorem State.collMessage_held (busy : s.chanBusy (s.chan ch).owner h.group im (Gr.vcOrd r) = true) :
    ((s.collMessage port ch h beat b).chan ch).heldMsgs = (s.chan ch).heldMsgs ++ [(port, h, beat, b)] ∧
      ((s.collMessage port ch h beat b).chan ch).holdFrom = some ((s.chan ch).holdFrom.getD s.dtb) ∧
      (s.collMessage port ch h beat b).groups = s.groups := by
  rw [State.collMessage_bound h b bound image record, if_neg (by simp [lane]; omega), if_pos busy]
  obtain ⟨-, held, -, msgs⟩ := s.holdOn_shows ch h.group
  refine ⟨?_, ?_, rfl⟩ <;> rw [State.updChan, State.chan_setChan_self]
  · dsimp only
    rw [msgs]
  · exact held
theorem State.collMessage_arrives (free : s.chanBusy (s.chan ch).owner h.group im (Gr.vcOrd r) = false) :
    s.collMessage port ch h beat b = s.collArrive (s.chan ch).owner im r port ch h beat b := by
  rw [State.collMessage_bound h b bound image record, if_neg (by simp [lane]; omega), if_neg (by simp [free])]
end

/-! ## ORDER_SKEW_TIMEOUT (R330) -/

theorem orderSkewTimeout_run {s : State} {ch : Nat} (lane : ch < 8) (none : (s.chan ch).heldMsgs = []) :
    exec (.orderSkewTimeout ch) s =
      match (s.chan ch).holdFrom with
      | .none => .next s
      | .some t =>
        if !s.stillHeld ch then .next (s.updChan ch (fun c => { c with holdFrom := .none }))
        else if s.dtb < t + 20000 then .next s
        else .next (s.orderSkew ch (s.chan ch).holdGroup 0xFFFFFFFFFFFF) := by
  show execOrderSkewTimeout ch s = _
  rw [execOrderSkewTimeout, if_neg (by omega)]
  dsimp only
  rw [State.releaseHeld_none none] <;> rfl
theorem orderSkewTimeout_acts {s : State} {ch : Nat} (lane : ch < 8) (none : (s.chan ch).heldMsgs = []) :
    ∃ t, exec (.orderSkewTimeout ch) s = .next t ∧ (∀ c, t.core c = s.core c) ∧ ((s.chan ch).holdFrom = .none → t = s) ∧
      ∀ t0, (s.chan ch).holdFrom = some t0 →
        (s.stillHeld ch = false → (t.chan ch).holdFrom = .none ∧ t.parts = s.parts) ∧
        (s.stillHeld ch = true → s.dtb < t0 + 20000 → t = s) ∧
        (s.stillHeld ch = true → t0 + 20000 ≤ s.dtb → t = s.orderSkew ch (s.chan ch).holdGroup 0xFFFFFFFFFFFF) := by
  have run := orderSkewTimeout_run lane none
  cases hold : (s.chan ch).holdFrom with
  | none =>
    rw [hold] at run
    exact ⟨s, run, fun _ => rfl, fun _ => rfl, fun _ e => nomatch e⟩
  | some t0 =>
    rw [hold] at run
    dsimp only at run
    by_cases held : s.stillHeld ch = true
    · rw [if_neg (by simp [held])] at run
      by_cases soon : s.dtb < t0 + 20000
      · rw [if_pos soon] at run
        refine ⟨s, run, fun _ => rfl, (nomatch ·), fun t1 e => ?_⟩
        cases e
        exact ⟨fun free => by simp [held] at free, fun _ _ => rfl, fun _ late => by omega⟩
      · rw [if_neg soon] at run
        refine ⟨_, run, (s.orderSkew_shows ..).2.1, (nomatch ·), fun t1 e => ?_⟩
        cases e
        exact ⟨fun free => by simp [held] at free, fun _ early => absurd early soon, fun _ _ => rfl⟩
    · have free : s.stillHeld ch = false := by simpa using held
      rw [if_pos (by simp [free])] at run
      refine ⟨_, run, fun _ => rfl, (nomatch ·), fun t1 e => ?_⟩
      cases e
      exact ⟨fun _ => ⟨by rw [State.updChan, State.chan_setChan_self], rfl⟩, fun on => absurd on held, fun on => absurd on held⟩

/-- Settles O37: the message's place is `State.collMessage_bound` and then the order of `State.collArrive_eq`. -/
theorem collectiveMessagesAreSorted : Obligations.CollectiveMessagesAreSorted := by
  unfold Obligations.CollectiveMessagesAreSorted
  refine ⟨fun port ch beat h b s live lane dated none => ?_, fun ch s lane none => ?_⟩
  · refine ⟨_, collectiveMessage_run h b live lane dated none, s.collMessage_core port ch h beat b, State.collMessage_unbound h b,
      fun im bound image => ⟨fun unknown => ?_, fun r record => ⟨State.collMessage_refused h b bound image record, fun own kind busy => ?_,
        fun own kind free => ?_⟩⟩⟩
    · rw [State.collMessage_unknown h b bound image unknown]
      exact s.report_reported ..
    · have held := State.collMessage_held h (port := port) (beat := beat) b bound image record own kind busy
      rwa [none] at held
    · rw [State.collMessage_arrives h b bound image record own kind free]
      refine ⟨State.collArrive_done port ch b, fun beyond => ?_, fun undone within => State.collArrive_late port ch b undone within rfl,
        fun undone within due => State.collArrive_early port ch b undone within rfl due, fun undone within due window =>
          ⟨fun plain unstarted => ?_, fun plain begun => ?_, fun counts cause refused => ?_⟩⟩
      · rw [State.collArrive_beyond port ch b beyond]
        obtain ⟨groups, -, -, skews, -⟩ := s.orderSkew_shows ch h.group beat
        exact ⟨skews, groups⟩
      · rw [State.collArrive_waits port ch b undone within rfl due window plain unstarted]
        refine ⟨?_, rfl⟩
        rw [State.updChan, State.chan_setChan_self]
      · exact State.collArrive_lands port ch b undone within rfl due window plain begun
      · exact State.collArrive_counted port ch b undone within rfl due window counts refused
  · obtain ⟨t, steps, cores, idle, acts⟩ := orderSkewTimeout_acts lane none
    refine ⟨t, steps, cores, idle, fun t0 hold => ?_⟩
    obtain ⟨ends, waits, skews⟩ := acts t0 hold
    refine ⟨ends, waits, fun held late => ?_⟩
    obtain ⟨-, -, free, count, reports⟩ := s.orderSkew_shows ch (s.chan ch).holdGroup 0xFFFFFFFFFFFF
    rw [skews held late]
    exact ⟨free, count, reports⟩

end Sys2Proof.Machine
end

section
/-!
The hand-offs of class 0x5: how instances take a contribution, a posted range and a core (R305 to R310).
-/

-- One proof after another: the stacks of proofs that wait for each other count against the check's memory limit.
set_option Elab.async false
namespace Sys2Proof.Machine

/-! ## The elements below CAP (R311) -/

/-- Numbered elements below a bound are the first ones. -/
theorem zipIdx_filter_below {α : Type} (e0 cap : Nat) (l : List α) : ∀ n, (l.zipIdx n).filter (fun e => decide (e0 + e.2 < cap)) =
    (l.take (cap - e0 - n)).zipIdx n := by
  induction l with
  | nil => intro n; simp
  | cons a r ih =>
    intro n
    rw [List.zipIdx_cons, List.filter_cons, ih]
    by_cases below : e0 + n < cap
    · obtain ⟨m, more⟩ : ∃ m, cap - e0 - n = m + 1 := ⟨cap - e0 - n - 1, by omega⟩
      rw [if_pos (by simpa using below), more, List.take_succ_cons, List.zipIdx_cons, show cap - e0 - (n + 1) = m by omega]
    · rw [if_neg (by simpa using below), show cap - e0 - (n + 1) = 0 by omega, show cap - e0 - n = 0 by omega]
      rfl

/-- Elements of a hand-off from `e0` on that enter a record of `cap` elements, with their indices. -/
def entering (e0 cap : Nat) (els : List (Nat × Nat)) : List (Nat × Nat × Nat) :=
  (els.zipIdx.map (fun e => (e0 + e.2, e.1))).filter (fun e => decide (e.1 < cap))

section
variable (e0 cap : Nat) (els : List (Nat × Nat))

theorem entering_eq : entering e0 cap els = (els.take (cap - e0)).zipIdx.map (fun e => (e0 + e.2, e.1)) := by
  rw [entering, List.filter_map]
  exact congrArg _ (zipIdx_filter_below e0 cap els 0)
theorem kept_eq : (els.zipIdx.filter (fun e => decide (e0 + e.2 < cap))).map (·.1) = els.take (cap - e0) := by
  rw [zipIdx_filter_below, Nat.sub_zero]
  exact List.zipIdx_map_fst ..

variable {e0 cap els}

theorem entering_index {e : Nat × Nat × Nat} (mem : e ∈ entering e0 cap els) : ∃ i, i < (els.take (cap - e0)).length ∧ e.1 = e0 + i := by
  rw [entering_eq] at mem
  obtain ⟨v, listed, rfl⟩ := List.mem_map.1 mem
  exact ⟨v.2, by simpa using List.snd_lt_of_mem_zipIdx listed, rfl⟩
/-- All of them enter as one run, from the first index on. -/
theorem runsOf_entering (ord : Nat) : runsOf ord (entering e0 cap els) (entering e0 cap els) =
    if (els.take (cap - e0)).isEmpty then [] else [(ord, e0, els.take (cap - e0))] := by
  rw [runsOf, if_pos rfl, entering_eq, List.map_map]
  have values : (List.map (Prod.snd ∘ fun e : (Nat × Nat) × Nat => (e0 + e.2, e.1)) (els.take (cap - e0)).zipIdx) = els.take (cap - e0) :=
    List.zipIdx_map_fst ..
  rw [values]
  cases els.take (cap - e0) with
  | nil => rfl
  | cons a r => rfl
end

/-! ## What instances take (R305 to R308) -/

/-- Of the instances, the one a hand-off joins, with the beat of its first hand-off. -/
def GroupState.joining (y : GroupState) (q beat : Nat) : Instance :=
  let old := (y.inst q).getD { seq := q }
  if old.cores.isEmpty then { old with beat := beat } else old
theorem GroupState.joining_seq (y : GroupState) (q beat : Nat) : (y.joining q beat).seq = q := by
  have old : ((y.inst q).getD { seq := q }).seq = q := by
    cases found : y.inst q with
    | none => rfl
    | some I => simpa using List.find?_some found
  unfold GroupState.joining
  dsimp only
  split
  · exact old
  · exact old

/-- Of the instances, one with a hand-off that enters whole: its contribution, its posted range and its core. -/
def Instance.joined (I : Instance) (x : Ctx) (d : CollDesc) (beat : Nat) (past : List Nat) (keep : List (Nat × Nat)) : Instance :=
  { I with
    contrib := I.contrib ++ (if keep.isEmpty then [] else [(x.f 93 78, d.elem0, keep)])
    beats := I.beats ++ (if keep.isEmpty then [] else [beat])
    beyond := I.beyond ++ past
    posted := if x.f 68 68 = 1 then I.posted ++ [⟨x.c, d.dstOb, d.dst, d.dstScale, d.elem0, d.count, d.flag, false⟩] else I.posted
    cores := if I.cores.contains x.c then I.cores else I.cores ++ [x.c] }

theorem Instance.joined_core (I : Instance) (x : Ctx) (d : CollDesc) (beat : Nat) (past : List Nat) (keep : List (Nat × Nat)) :
    x.c ∈ (I.joined x d beat past keep).cores := by
  unfold Instance.joined
  dsimp only
  split
  · next listed => simpa using listed
  · exact List.mem_append_right _ (List.mem_singleton_self _)

/-- Of the instances, one put in the place of its predecessor is found there. -/
theorem GroupState.inst_replaced (y : GroupState) (I : Instance) :
    ({ y with insts := y.insts.filter (fun i => i.seq != I.seq) ++ [I] } : GroupState).inst I.seq = some I := by
  unfold GroupState.inst
  dsimp only
  rw [List.find?_append, List.find?_eq_none.2 fun i mem => ?_]
  · simp
  · simpa using (List.mem_filter.1 mem).2

/-- Elements that a hand-off reads, where it contributes. -/
def handed (x : Ctx) (k : Core) (r : List Byte) (d : CollDesc) : List (Nat × Nat) := if x.f 67 67 = 1 then handElems k (Gr.elemFmt r) d else []

section
variable {u : State} {x : Ctx} {g q : Nat} {r : List Byte} {d : CollDesc}

/-- The state in which a hand-off that enters whole has joined one of the instances. -/
def State.joinHandOff (u : State) (x : Ctx) (g : Nat) (r : List Byte) (q : Nat) (d : CollDesc) : State :=
  let beat := (u.core x.c).seq.curBeat
  let els := handed x (u.core x.c) r d
  let I0 := (u.grp x.p g).joining q beat
  let past := (((els.zipIdx.map (fun e => (d.elem0 + e.2, e.1))).map (·.1)).filter (fun e => decide (Gr.cap r ≤ e))).filter
    (fun e => !I0.beyond.contains e)
  ((u.updGrp x.p g (fun y => { y with
      insts := y.insts.filter (fun i => i.seq != q) ++ [I0.joined x d beat past (els.take (Gr.cap r - d.elem0))] })).updChan
    (x.im.chan (Gr.vcOrd r)) (fun c => { c with dropped := satAdd 0xFFFFFFFF c.dropped past.length }))

/-- A hand-off of which no element is surplus or meets another beat's record enters whole. -/
theorem State.handOff_enters (enters : ∀ i, i < ((handed x (u.core x.c) r d).take (Gr.cap r - d.elem0)).length →
      isSurplus r ((u.grp x.p g).joining q (u.core x.c).seq.curBeat) (x.f 93 78) (d.elem0 + i) = false ∧
      offBeat r ((u.grp x.p g).joining q (u.core x.c).seq.curBeat) (u.core x.c).seq.curBeat (d.elem0 + i) = false) :
    u.handOff x g r q d = .ofExtent (d.count = 0) (((u.joinHandOff x g r q d).holdOff (x.im.chan (Gr.vcOrd r)) g).progressGroup x.p g) := by
  have els : (if x.f 67 67 = 1 then (handElems (u.core x.c) (Gr.elemFmt r) d).zipIdx.map (fun e => (d.elem0 + e.2, e.1)) else []) =
      (handed x (u.core x.c) r d).zipIdx.map (fun e => (d.elem0 + e.2, e.1)) := by
    unfold handed
    split <;> rfl
  unfold State.handOff
  extract_lets k con rcv ch ord beat els0 old I0 here past fits kept runs I1 s1 s2 s3 s4
  have els0_eq : els0 = _ := els
  have whole : here = entering d.elem0 (Gr.cap r) (handed x (u.core x.c) r d) := by
    unfold here entering
    rw [els0_eq]
  have fitsAll : fits = here := List.filter_eq_self.2 fun e mem => by
    obtain ⟨i, below, at_⟩ := entering_index (whole ▸ mem)
    rw [at_]
    have sound : isSurplus r I0 ord (d.elem0 + i) = false := (enters i below).1
    simp [sound]
  have keptAll : kept = here := by
    unfold kept
    rw [fitsAll]
    refine List.filter_eq_self.2 fun e mem => ?_
    obtain ⟨i, below, at_⟩ := entering_index (whole ▸ mem)
    rw [at_]
    have sound : offBeat r I0 beat (d.elem0 + i) = false := (enters i below).2
    simp [sound]
  have run : runs = if ((handed x (u.core x.c) r d).take (Gr.cap r - d.elem0)).isEmpty then [] else
      [(ord, d.elem0, (handed x (u.core x.c) r d).take (Gr.cap r - d.elem0))] := by
    unfold runs
    rw [keptAll, whole, runsOf_entering]
  have joined : I1 = I0.joined x d beat past ((handed x (u.core x.c) r d).take (Gr.cap r - d.elem0)) := by
    unfold I1 Instance.joined
    rw [run, keptAll]
    split <;> simp [rcv, ord]
  have late : s4 = s3 := if_neg (by simp [keptAll, fitsAll])
  rw [if_neg (by simp [fitsAll]), late]
  unfold s3 s2 s1
  rw [joined]
  unfold past
  rw [els0_eq]
  rfl

/-- It joins one of the instances, and no core changes. -/
theorem State.joinHandOff_shows :
    (∀ e, (((u.joinHandOff x g r q d).holdOff (x.im.chan (Gr.vcOrd r)) g).progressGroup x.p g).core e = u.core e) ∧
    ((u.grp x.p g).isStarted q = false → ∃ past,
      ((((u.joinHandOff x g r q d).holdOff (x.im.chan (Gr.vcOrd r)) g).progressGroup x.p g).grp x.p g).inst q =
        some (((u.grp x.p g).joining q (u.core x.c).seq.curBeat).joined x d (u.core x.c).seq.curBeat past
          ((handed x (u.core x.c) r d).take (Gr.cap r - d.elem0)))) := by
  obtain ⟨past, list⟩ : ∃ past, ((u.joinHandOff x g r q d).holdOff (x.im.chan (Gr.vcOrd r)) g).grp x.p g = { u.grp x.p g with
      insts := (u.grp x.p g).insts.filter (fun i => i.seq != q) ++ [((u.grp x.p g).joining q (u.core x.c).seq.curBeat).joined x d
        (u.core x.c).seq.curBeat past ((handed x (u.core x.c) r d).take (Gr.cap r - d.elem0))] } :=
    ⟨_, State.grp_setGrp_self ..⟩
  have cores : ((u.joinHandOff x g r q d).holdOff (x.im.chan (Gr.vcOrd r)) g).core = u.core := rfl
  generalize (u.joinHandOff x g r q d).holdOff (x.im.chan (Gr.vcOrd r)) g = v at list cores ⊢
  have works : State.Works (fun k j => k = x.p * 256 + g → (u.grp x.p g).isStarted j = true) v (v.progressGroup x.p g) :=
    State.progressGroup_works fun j started _ => by rw [list] at started; exact started
  refine ⟨fun e => by rw [works.core, cores], fun unstarted => ⟨past, ?_⟩⟩
  rw [works.inst _ _ _ (fun on => by simp [on rfl] at unstarted), list]
  have own := (u.grp x.p g).joining_seq q (u.core x.c).seq.curBeat
  generalize (u.grp x.p g).joining q (u.core x.c).seq.curBeat = I0 at own ⊢
  have replaced := (u.grp x.p g).inst_replaced (I0.joined x d (u.core x.c).seq.curBeat past
    ((handed x (u.core x.c) r d).take (Gr.cap r - d.elem0)))
  rw [show (I0.joined x d (u.core x.c).seq.curBeat past ((handed x (u.core x.c) r d).take (Gr.cap r - d.elem0))).seq = q from own] at replaced
  exact replaced
end

/-! ## Where a hand-off comes to its effect (R306, R309) -/

/-- A hand-off with a legal encoding, descriptor and group, and nothing at its core to wait for. -/
structure State.HandsOff (s : State) (op c : Nat) (x : Ctx) (r : List Byte) (me : Nat) (d : CollDesc) : Prop where
  issues : s.Issues c ⟨5, op, 0⟩ x
  record : groupRec x.im (x.f 23 16) = some r
  member : s.member x.p x.im r = some me
  desc : s.handDesc x r (collDesc ((s.core c).descriptor (x.f 15 8))) = some d
  reserved : collReserved ((s.core c).descriptor (x.f 15 8)) = false
  legal : s.handIllegal x r me d = false
  drained : (s.core c).draining = false
  patched : (s.core c).claimWait [x.f 15 8] = false
  ready : x.f 69 69 = 1 → bit (s.core c).ready (x.f 77 70) = true

/-- The local ranges it reads. -/
def handedReads (x : Ctx) (r : List Byte) (d : CollDesc) : List (Bool × Nat × Nat) := if x.f 67 67 = 1 then handReads r d else []

section
variable {s : State} {op c me : Nat} {x : Ctx} {r : List Byte} {d : CollDesc} (h : s.HandsOff op c x r me d)
include h

theorem handoff_run : handoff op c s = finish x s (
    if s.chanBusy x.p (x.f 23 16) x.im (Gr.vcOrd r) then .wait (s.holdOn (x.im.chan (Gr.vcOrd r)) (x.f 23 16))
    else if !(s.grp x.p (x.f 23 16)).isStarted (handPseq x (s.core c).seq) &&
      !(s.grp x.p (x.f 23 16)).mayStart (Gr.window r) (handPseq x (s.core c).seq) then .wait s
    else s.access x (handedReads x r d) [] (fun t =>
      match t.countUnit x.p ⟨3, x.f 23 16⟩ (t.core c).seq.curBeat with
      | .error cause => .wait (t.handFault x (x.f 23 16) cause)
      | .ok t1 => if (t.grp x.p (x.f 23 16)).isDone (handPseq x (s.core c).seq) then .wait (t1.handFault x (x.f 23 16) 2)
        else t1.handOff x (x.f 23 16) r (handPseq x (s.core c).seq) d)) := by
  obtain ⟨issues, record, member, desc, reserved, legal, drained, patched, ready⟩ := h
  rw [handoff, issue_of_issues issues]
  dsimp only
  rw [record]
  dsimp only
  rw [member]
  dsimp only
  rw [desc]
  dsimp only
  rw [if_neg (by simp [reserved, legal]), if_neg (by simpa [drained, patched] using ready)]
  rfl

variable (free : s.chanBusy x.p (x.f 23 16) x.im (Gr.vcOrd r) = false)
  (open_ : ((s.grp x.p (x.f 23 16)).isStarted (handPseq x (s.core c).seq) ||
    (s.grp x.p (x.f 23 16)).mayStart (Gr.window r) (handPseq x (s.core c).seq)) = true)
include free open_

theorem handoff_accesses : handoff op c s = finish x s (s.access x (handedReads x r d) [] (fun t =>
      match t.countUnit x.p ⟨3, x.f 23 16⟩ (t.core c).seq.curBeat with
      | .error cause => .wait (t.handFault x (x.f 23 16) cause)
      | .ok t1 => if (t.grp x.p (x.f 23 16)).isDone (handPseq x (s.core c).seq) then .wait (t1.handFault x (x.f 23 16) 2)
        else t1.handOff x (x.f 23 16) r (handPseq x (s.core c).seq) d)) := by
  rw [handoff_run h, if_neg (by simp [free]), if_neg (by rcases Bool.or_eq_true_iff.1 open_ with on | on <;> simp [on])]

variable (accesses : (s.core c).Accesses (handedReads x r d) [])
include accesses

/-- Once its accesses are done, it is counted at the group unit with its core's beat. -/
theorem handoff_counts : handoff op c s =
    finish x s (match (s.accessed c (handedReads x r d) []).countUnit x.p ⟨3, x.f 23 16⟩ (s.core c).seq.curBeat with
      | .error cause => .wait ((s.accessed c (handedReads x r d) []).handFault x (x.f 23 16) cause)
      | .ok t1 => if (s.grp x.p (x.f 23 16)).isDone (handPseq x (s.core c).seq) then .wait (t1.handFault x (x.f 23 16) 2)
        else t1.handOff x (x.f 23 16) r (handPseq x (s.core c).seq) d) := by
  obtain rfl : x.c = c := (State.ctx_core h.issues.ctx).1
  obtain ⟨corr, us, core⟩ := s.accessed_core x.c (handedReads x r d) []
  rw [handoff_accesses h free open_, State.access_runs accesses, core]
  rw [(s.accessed_frame x.c (handedReads x r d) []).1]
  rfl

variable {s1 : State} (counted : (s.accessed c (handedReads x r d) []).countUnit x.p ⟨3, x.f 23 16⟩ (s.core c).seq.curBeat = .ok s1)
  (undone : (s.grp x.p (x.f 23 16)).isDone (handPseq x (s.core c).seq) = false)
include counted undone

/-- Counted, and whole, it joins one of the instances and the core goes on. -/
theorem handoff_joins (enters : ∀ i, i < ((handed x (s.core c) r d).take (Gr.cap r - d.elem0)).length →
      isSurplus r ((s.grp x.p (x.f 23 16)).joining (handPseq x (s.core c).seq) (s.core c).seq.curBeat) (x.f 93 78) (d.elem0 + i) = false ∧
      offBeat r ((s.grp x.p (x.f 23 16)).joining (handPseq x (s.core c).seq) (s.core c).seq.curBeat) (s.core c).seq.curBeat
        (d.elem0 + i) = false) :
    ∃ t, handoff op c s = .next t ∧ (∃ corr us e, t.core c = ((s.core c).noted corr us).retire e) ∧ (∀ e, e ≠ c → t.core e = s.core e) ∧
      ((s.grp x.p (x.f 23 16)).isStarted (handPseq x (s.core c).seq) = false → ∃ past,
        (t.grp x.p (x.f 23 16)).inst (handPseq x (s.core c).seq) =
          some (((s.grp x.p (x.f 23 16)).joining (handPseq x (s.core c).seq) (s.core c).seq.curBeat).joined x d (s.core c).seq.curBeat past
            ((handed x (s.core c) r d).take (Gr.cap r - d.elem0)))) := by
  obtain rfl : x.c = c := (State.ctx_core h.issues.ctx).1
  have run := handoff_counts h free open_ accesses
  obtain ⟨corr, us, core⟩ := s.accessed_core x.c (handedReads x r d) []
  obtain ⟨frame, others⟩ := s.accessed_frame x.c (handedReads x r d) []
  have parts := State.countUnit_frame counted
  have core1 : s1.core x.c = (s.core x.c).noted corr us := by rw [parts, ← core]; rfl
  have group1 : s1.grp x.p (x.f 23 16) = s.grp x.p (x.f 23 16) := by rw [parts, frame]; rfl
  have beat1 : (s1.core x.c).seq.curBeat = (s.core x.c).seq.curBeat := by rw [core1]; rfl
  have handed1 : handed x (s1.core x.c) r d = handed x (s.core x.c) r d := by
    rw [core1]
    unfold handed handElems
    cases d.srcOb <;> rfl
  have joins := State.handOff_enters (u := s1) (x := x) (g := x.f 23 16) (q := handPseq x (s.core x.c).seq) (r := r) (d := d)
    (by rw [handed1, group1, beat1]; exact enters)
  obtain ⟨cores, inst⟩ := State.joinHandOff_shows (u := s1) (x := x) (g := x.f 23 16) (q := handPseq x (s.core x.c).seq) (r := r) (d := d)
  rw [handed1, group1, beat1] at inst
  rw [counted] at run
  dsimp only at run
  rw [if_neg (by simp [undone]), joins, finish_ofExtent] at run
  refine ⟨_, run, ⟨corr, us, if decide (d.count = 0) = true then 0x011 else 0x010, ?_⟩, fun e other => ?_, inst⟩
  · rw [State.core_updCore_self, cores, core1]
  · rw [State.core_updCore_other _ _ other, cores, parts]
    exact others e other
end

/-- Each of the five rows is the hand-off of its OP. -/
theorem handoff_of_mem {i : Instr} {c : Nat} {rw : Row} (listed : i ∈ [Instr.allReduce c, .reduceScatter c, .allGather c, .p2pSend c, .p2pRecv c])
    (row : coreRow i = some (rw, c)) : ∃ op, rw = ⟨5, op, 0⟩ ∧ ∀ s, exec i s = handoff op c s := by
  simp only [List.mem_cons, List.not_mem_nil, or_false] at listed
  rcases listed with rfl | rfl | rfl | rfl | rfl <;> cases row <;> exact ⟨_, rfl, fun _ => rfl⟩

/-- Settles O35: up to the accesses it is `handoff_run`, the count at the group unit is `handoff_counts`, and joining `handoff_joins`. -/
theorem handOffsComplete : Obligations.HandOffsComplete := by
  unfold Obligations.HandOffsComplete
  intro i rw c g me s x r d listed row issues rfl record member k raw q ch reads s0 els keep old I0 desc reserved legal drained patched ready
  obtain ⟨op, rfl, runs⟩ := handoff_of_mem listed row
  have h : s.HandsOff op c x r me d := ⟨issues, record, member, desc, reserved, legal, drained, patched, ready⟩
  have kept : keep = (handed x (s.core c) r d).take (Gr.cap r - d.elem0) := kept_eq ..
  refine ⟨fun busy => ?_, fun free outside => ?_, fun free open_ => ⟨?_, fun accesses => ⟨fun cause refused => ?_, fun s1 counted done => ?_,
    fun s1 counted undone enters => ?_⟩⟩⟩
  · obtain ⟨frame, held, -⟩ := s.holdOn_shows ch (x.f 23 16)
    refine ⟨_, ?_, frame, held⟩
    rw [runs, handoff_run h, if_pos busy]
    rfl
  · rw [runs, handoff_run h, if_neg (by simp [free]), if_pos (by simpa [← Bool.not_or] using outside)]
    rfl
  · obtain rfl : x.c = c := (State.ctx_core issues.ctx).1
    exact State.access_stops ((runs s).trans (handoff_accesses h free open_))
  · rw [runs, handoff_counts h free open_ accesses]
    have counts : (s.accessed c (handedReads x r d) []).countUnit x.p ⟨3, x.f 23 16⟩ (s.core c).seq.curBeat = .error cause := refused
    rw [counts]
    rfl
  · rw [runs, handoff_counts h free open_ accesses]
    have counts : (s.accessed c (handedReads x r d) []).countUnit x.p ⟨3, x.f 23 16⟩ (s.core c).seq.curBeat = .ok s1 := counted
    rw [counts]
    dsimp only
    rw [if_pos done]
    rfl
  · rw [kept] at enters
    obtain ⟨t, steps, ⟨corr, us, e, core⟩, others, inst⟩ := handoff_joins h free open_ accesses counted undone enters
    refine ⟨t, (runs s).trans steps, ?_, ?_, ?_, ?_, others, fun unstarted => ?_⟩
    · rw [core]; exact Core.goesOn_noted ..
    · rw [core]; rfl
    · rw [core]; rfl
    · rw [core]; rfl
    · obtain ⟨past, found⟩ := inst unstarted
      obtain rfl : x.c = c := (State.ctx_core issues.ctx).1
      rw [kept]
      exact ⟨_, found, rfl, Instance.joined_core .., rfl, rfl, rfl, rfl, rfl, rfl⟩

end Sys2Proof.Machine
end

section
/-!
FLIT_RECEIVE: what a received flit changes at its port (R278 to R290), and what the work it lets go on leaves alone there.
-/

-- One proof after another: the stacks of proofs that wait for each other count against the check's memory limit.
set_option Elab.async false
namespace Sys2Proof.Machine

/-! ## What work at other units leaves at a port -/

/-- From `x` to `y` a port has received nothing: its sequence, its count of fenced flits, what its channels delivered and their epochs
stand, and no NAK was set. -/
structure Port.Holds (x y : Port) : Prop where
  rxSeq : y.rxSeq = x.rxSeq
  fenced : y.fenced = x.fenced
  nak : x.nak = false → y.nak = false
  delivered : ∀ v, (y.vc v).delivered = (x.vc v).delivered
  epoch : ∀ v, (y.vc v).epoch = (x.vc v).epoch

theorem Port.Holds.refl (x : Port) : x.Holds x := ⟨rfl, rfl, id, fun _ => rfl, fun _ => rfl⟩
theorem Port.Holds.trans {x y z : Port} (h : x.Holds y) (k : y.Holds z) : x.Holds z where
  rxSeq := k.rxSeq.trans h.rxSeq
  fenced := k.fenced.trans h.fenced
  nak off := k.nak (h.nak off)
  delivered v := (k.delivered v).trans (h.delivered v)
  epoch v := (k.epoch v).trans (h.epoch v)
theorem Port.Sends.holds {x y : Port} (h : x.Sends y) : x.Holds y where
  rxSeq := by rw [h.frame]
  fenced := by rw [h.frame]
  nak off := by rw [h.frame]; exact off
  delivered v := by rw [h.vc]
  epoch v := by rw [h.vc]
theorem Port.drop_delivered (x : Port) (v : Nat) : (x.drop.vc v).delivered = (x.vc v).delivered := by
  rw [Port.drop_eq, Port.emptied_vc, Port.eachVc_vc]
  split <;> rfl
theorem Port.holds_drop (x : Port) : x.Holds x.drop := by
  obtain ⟨vcs, frame⟩ := x.drop_frame
  exact ⟨by rw [frame]; rfl, by rw [frame]; rfl, fun _ => by rw [frame]; rfl, x.drop_delivered, x.drop_epoch⟩

structure State.Holds (s t : State) : Prop where
  port : ∀ k, (s.port k).Holds (t.port k)

section
variable {s t u : State}

theorem State.Holds.refl (s : State) : s.Holds s := ⟨fun _ => .refl _⟩
theorem State.Holds.trans (h : s.Holds t) (k : t.Holds u) : s.Holds u := ⟨fun i => (h.port i).trans (k.port i)⟩
theorem State.Holds.foldl {β : Type} {f : State → β → State} (h : ∀ (s : State) b, s.Holds (f s b)) (l : List β) (s : State) :
    s.Holds (l.foldl f s) := by
  induction l generalizing s with
  | nil => exact .refl s
  | cons b r ih => exact (h s b).trans (ih _)
theorem State.Holds.of_ports (same : t.ports = s.ports) : s.Holds t := ⟨fun k => by
  rw [State.port, State.port, same]
  exact .refl _⟩
theorem State.Works.holds {A : Nat → Nat → Prop} (h : State.Works A s t) : s.Holds t := ⟨fun k => (h.port k).holds⟩
theorem State.Sends.holds (h : s.Sends t) : s.Holds t := ⟨fun k => (h.port k).holds⟩
theorem State.Told.holds (h : s.Told t) : s.Holds t := ⟨fun k => by
  rw [h.port]
  exact .refl _⟩

variable (s)

theorem State.setPort_holds {p : Nat} {y : Port} (h : (s.port p).Holds y) : s.Holds (s.setPort p y) := ⟨fun k => by
  rw [State.port_setPort]
  split
  · next e => rw [e]; exact h
  · exact .refl _⟩
theorem State.recheckPorts_holds : s.Holds s.recheckPorts := by
  refine ⟨fun k => ?_⟩
  rw [State.recheckPorts_eq, (s.checkPorts_port 16 k).1]
  split
  · unfold State.checkedPort
    split
    · exact .refl _
    · split
      · exact .refl _
      · exact ⟨rfl, rfl, id, fun _ => rfl, fun _ => rfl⟩
  · exact .refl _

/-- A port whose PORT_CTL takes a value. -/
def Port.controlled (x : Port) (v : Nat) : Port :=
  if v = 0 then { x with disable := false, state := if x.cblHigh then 0 else 1 } else { x.drop with disable := true, state := 7, peer := none }
theorem Port.controlled_holds (x : Port) (v : Nat) : x.Holds (x.controlled v) := by
  unfold Port.controlled
  split
  · exact ⟨rfl, rfl, id, fun _ => rfl, fun _ => rfl⟩
  · refine x.holds_drop.trans ?_
    generalize x.drop = y
    exact ⟨rfl, rfl, id, fun _ => rfl, fun _ => rfl⟩

/-! ## Commits and messages let go (R330, R478) -/

theorem State.applyStaged_holds (v : Staged) : s.Holds (s.applyStaged v) := by
  cases v with
  | position v =>
    refine .trans (t := { s with time := { s.time with position := v } }) (.of_ports rfl) (.trans (State.recheckPorts_holds _) ?_)
    exact (State.timeRefresh_told _).holds
  | timeCfg v => exact .trans (t := { s with time := { s.time with timeCfg := v } }) (.of_ports rfl) (State.timeRefresh_told _).holds
  | portCtl p v =>
    refine .trans (s.setPort_holds (p := p) (y := (s.port p).controlled v) ?_) (State.Told.holds ?_)
    · exact Port.controlled_holds _ v
    · rfl
  | powerCap v => exact .of_ports rfl
  | leakShutdown v => exact .of_ports rfl
  | part r => exact .of_ports (by rw [State.applyStaged, State.applyPart_frame])
  | ways k r => exact .of_ports (by rw [State.applyStaged, State.applyWays_frame])
  | cyclic side => exact .of_ports (by rw [State.applyStaged]; split <;> rfl)
  | equaliser p k => exact s.setPort_holds ⟨rfl, rfl, id, fun _ => rfl, fun _ => rfl⟩
  | timing k n => exact .of_ports rfl
/-- A commit's gradual change of the links is noted and told. -/
theorem State.regraded_holds (c : CommitState) (now : Nat) : s.Holds (if c.regrade then
    ({ s with power := { s.power with linkRegrade := now, regrades := satAdd 0xFFFF s.power.regrades 1 } }).event
      { status := Config.stOk, device := true, detail := 2 } else s) := by
  split
  · exact .trans (t := { s with power := { s.power with linkRegrade := now, regrades := satAdd 0xFFFF s.power.regrades 1 } })
      (.of_ports rfl) (State.event_told ..).holds
  · exact .refl s
theorem State.closeCommit_holds (last : List Byte) : s.Holds (s.closeCommit last) := by
  unfold State.closeCommit
  extract_lets +onlyGivenNames c s1 src s2 src2 s3
  have logged : s.Holds s1 := by
    refine .of_ports ?_
    unfold s1
    split <;> rfl
  have told : s.Holds s3 := (logged.trans (.of_ports (t := s2) rfl)).trans (s2.regraded_holds c s.dtb)
  split
  · exact told.trans (State.completeIf_sends ..).holds
  · exact told
theorem State.applyDue_holds (due : Nat → Bool) (beat : Nat) : s.Holds (s.applyDue due beat) := by
  unfold State.applyDue
  extract_lets parts rest here s1 src s2
  have applied : s.Holds s2 := (State.Holds.foldl (fun t e => t.applyStaged_holds e.2) parts s).trans (.of_ports rfl)
  split
  · exact .refl s
  · split
    · exact applied.trans (s2.closeCommit_holds here)
    · exact applied
theorem State.boundary_holds (p : Nat) (u : UnitId) : s.Holds (s.boundary p u) := by
  unfold State.boundary
  split
  · exact .refl s
  · dsimp only
    split
    · exact s.applyDue_holds ..
    · exact .refl s
theorem State.dropAcks_holds (ch : Nat) : s.Holds (s.dropAcks ch) := by
  unfold State.dropAcks
  refine State.Holds.foldl (fun t k => ?_) _ s
  split
  · exact .refl t
  · refine t.setPort_holds (p := k) ⟨rfl, rfl, id, fun v => ?_, fun v => ?_⟩
    all_goals
      by_cases own : v = ch
      · rw [own, Port.vc_updVc_self]
      · rw [Port.vc_updVc_other _ _ own]
theorem State.orderSkew_holds (ch g beat : Nat) : s.Holds (s.orderSkew ch g beat) := by
  refine (s.dropAcks_holds ch).trans ?_
  unfold State.orderSkew
  generalize s.dropAcks ch = t
  exact .of_ports rfl
theorem State.place_holds (p : Nat) (im : Image) (r : List Byte) (port ch : Nat) (h : CollHeader) (beat : Nat) (b : List Byte) (s0 : Nat) :
    s.Holds (s.place p im r port ch h beat b s0) := by
  unfold State.place
  split
  · exact (State.landStage_works (A := fun _ _ => True) trivial (fun _ _ => trivial) im r beat b).holds
  · exact .of_ports rfl
theorem State.collArrive_holds (p : Nat) (im : Image) (r : List Byte) (port ch : Nat) (h : CollHeader) (beat : Nat) (b : List Byte) :
    s.Holds (s.collArrive p im r port ch h beat b) := by
  rw [State.collArrive_eq]
  dsimp only
  split
  · exact .of_ports rfl
  · split
    · exact s.orderSkew_holds ..
    · split
      · exact .of_ports rfl
      · split
        · exact .of_ports rfl
        · split
          · exact s.place_holds ..
          · split
            · exact .of_ports rfl
            · next t counted =>
              have counts : s.Holds t := .of_ports (by rw [State.countUnit_frame counted])
              exact (counts.trans (t.boundary_holds ..)).trans (State.place_holds ..)
theorem State.collMessage_holds (port ch : Nat) (h : CollHeader) (beat : Nat) (b : List Byte) : s.Holds (s.collMessage port ch h beat b) := by
  unfold State.collMessage
  dsimp only
  split
  · exact .refl s
  · split
    · exact .refl s
    · split
      · split
        · exact .of_ports rfl
        · split
          · exact .of_ports rfl
          · exact s.collArrive_holds ..
      · exact .of_ports rfl
theorem State.releaseHeld_holds (ch : Nat) : s.Holds (s.releaseHeld ch) := by
  unfold State.releaseHeld
  extract_lets held t
  have handled : s.Holds t := .trans (t := s.updChan ch (fun c => { c with heldMsgs := [] })) (.of_ports rfl)
    (.foldl (fun u m => u.collMessage_holds ..) held _)
  split
  · exact .refl s
  · exact handled.trans (.of_ports rfl)
end

/-! ## What a port takes of a flit (R280, R282, R285) -/

/-- The channel with credit that a peer gave and what its acknowledgement covers. -/
structure VcState.Credited (c d : VcState) : Prop where
  frame : d = { c with credits := d.credits, peerFreed := d.peerFreed, unacked := d.unacked }

/-- The port with a flit's CREDIT and ACK: sequences, its own acknowledgements, counts and what came in are as they were. -/
theorem Port.control_shows (x : Port) (f : Flit) (now : Nat) :
    x.control f now = { x with
      replay := (x.control f now).replay, resend := (x.control f now).resend
      replayTries := (x.control f now).replayTries, vcs := (x.control f now).vcs } ∧ ∀ v, (x.vc v).Credited ((x.control f now).vc v) := by
  unfold Port.control
  extract_lets w y
  have credit : y = { x with vcs := y.vcs } ∧ ∀ v, (x.vc v).Credited (y.vc v) := by
    unfold y
    split
    · exact ⟨rfl, fun v => ⟨rfl⟩⟩
    · refine ⟨rfl, fun v => ?_⟩
      by_cases own : v = w
      · rw [own, Port.vc_updVc_self]
        dsimp only
        split
        · exact ⟨rfl⟩
        · exact ⟨rfl⟩
      · rw [Port.vc_updVc_other _ _ own]
        exact ⟨rfl⟩
  obtain ⟨frame, credited⟩ := credit
  obtain ⟨vcs, acked⟩ := y.acked_frame f.ack now
  refine ⟨by rw [acked, frame]; rfl, fun v => ⟨?_⟩⟩
  have each := (y.released f.ack).eachVc_vc (fun _ c => c.acked f.ack now) 11 v
  rw [Port.acked_eq, each]
  have kept : ((y.released f.ack).vc v) = y.vc v := rfl
  rw [kept, (credited v).frame]
  split
  · rfl
  · rfl

/-- The port with the symbols corrected in a flit counted. -/
def Port.fixed (x : Port) (n : Nat) : Port := { x with fecCorr := satAdd 0xFFFFFFFF x.fecCorr n }
theorem Port.fixed_vc (x : Port) (n v : Nat) : (x.fixed n).vc v = x.vc v := rfl
/-- A port with the sequence number of the flit it has accepted. -/
def Port.inOrder (x : Port) (seq : Nat) : Port := { x with rxSeq := seq, nak := false }
theorem Port.inOrder_vc (x : Port) (seq v : Nat) : (x.inOrder seq).vc v = x.vc v := rfl
theorem Port.inOrder_kept (x : Port) (seq : Nat) : (x.inOrder seq).fenced = x.fenced ∧ (x.inOrder seq).acks = x.acks := ⟨rfl, rfl⟩
/-- The port that has accepted a flit in its sequence. -/
def Port.taken (x : Port) (n : Nat) (f : Flit) (now : Nat) : Port := ((x.fixed n).control f now).inOrder f.seq

theorem Port.taken_shows (x : Port) (n : Nat) (f : Flit) (now : Nat) : (x.taken n f now).rxSeq = f.seq ∧ (x.taken n f now).nak = false ∧
    (x.taken n f now).fenced = x.fenced ∧ (x.taken n f now).acks = x.acks ∧ ∀ v, (x.vc v).Credited ((x.taken n f now).vc v) := by
  obtain ⟨frame, credited⟩ := (x.fixed n).control_shows f now
  unfold Port.taken
  generalize (x.fixed n).control f now = y at frame credited ⊢
  obtain ⟨fenced, acks⟩ := y.inOrder_kept f.seq
  refine ⟨rfl, rfl, ?_, ?_, fun v => ?_⟩
  · rw [fenced, frame]
    rfl
  · rw [acks, frame]
    rfl
  · rw [Port.inOrder_vc, ← x.fixed_vc n]
    exact credited v

/-! ## FLIT_RECEIVE -/

section
variable {p n : Nat} {flit : List Byte} {s : State} (below : p < 16) (up : (s.port p).up = true) (on : s.power.off = false)
  (free : s.pcie.held = false)
include below up on free

theorem flitReceive_run (fecOk : Bool) : exec (.flitReceive p flit n fecOk) s =
    if !fecOk || 8 < n then .next (s.setPort p { s.port p with fecUncorr := satAdd 0xFFFFFFFF (s.port p).fecUncorr 1 })
    else if !flitOk flit then .next (s.setPort p { (s.port p).fixed n with crcFail := satAdd 0xFFFFFFFF (s.port p).crcFail 1 })
    else
      let f := flitOf flit
      let s2 := s.setPort p (((s.port p).fixed n).control f s.dtb)
      if f.ftype = 2 then .next (s2.heartbeat p ⟨leNat (f.payload.take 8), leNat ((f.payload.drop 8).take 8),
        leNat ((f.payload.drop 16).take 8), leNat ((f.payload.drop 24).take 1), leNat ((f.payload.drop 25).take 1) % 32, s.dtb⟩)
      else if f.ftype != 1 && f.ftype != 3 then .next s2
      else if f.seq = ((s.port p).rxSeq + 1) % 2 ^ 24 then
        if f.ftype = 1 then .next ((s2.setPort p ((s.port p).taken n f s.dtb)).dataFlit p f)
        else .next ((s2.setPort p ((s.port p).taken n f s.dtb)).beatAck p f)
      else if seqLe f.seq (s.port p).rxSeq then .next (s.setPort p ((s.port p).fixed n))
      else .next (s.setPort p { (s.port p).fixed n with nak := true }) := by
  show execFlitReceive p flit n fecOk s = _
  rw [execFlitReceive, if_neg (by omega)]
  dsimp only
  rw [if_neg (by simp [up, on, free])]
  rfl

variable (few : n ≤ 8) (sound : flitOk flit = true)
include few sound

theorem flitReceive_sound : exec (.flitReceive p flit n true) s =
      let f := flitOf flit
      let s2 := s.setPort p (((s.port p).fixed n).control f s.dtb)
      if f.ftype = 2 then .next (s2.heartbeat p ⟨leNat (f.payload.take 8), leNat ((f.payload.drop 8).take 8),
        leNat ((f.payload.drop 16).take 8), leNat ((f.payload.drop 24).take 1), leNat ((f.payload.drop 25).take 1) % 32, s.dtb⟩)
      else if f.ftype != 1 && f.ftype != 3 then .next s2
      else if f.seq = ((s.port p).rxSeq + 1) % 2 ^ 24 then
        if f.ftype = 1 then .next ((s2.setPort p ((s.port p).taken n f s.dtb)).dataFlit p f)
        else .next ((s2.setPort p ((s.port p).taken n f s.dtb)).beatAck p f)
      else if seqLe f.seq (s.port p).rxSeq then .next (s.setPort p ((s.port p).fixed n))
      else .next (s.setPort p { (s.port p).fixed n with nak := true }) := by
  rw [flitReceive_run below up on free, if_neg (by simp; omega), if_neg (by simp [sound])]

/-- A flit that carries no sequence number gives its credit and acknowledgement only. -/
theorem flitReceive_plain (kind : (flitOf flit).ftype = 0 ∨ (flitOf flit).ftype = 4) : exec (.flitReceive p flit n true) s =
    .next (s.setPort p (((s.port p).fixed n).control (flitOf flit) s.dtb)) := by
  rw [flitReceive_sound below up on free few sound]
  dsimp only
  rw [if_neg (by omega), if_pos (by rcases kind with k | k <;> simp [k])]
/-- A duplicate changes nothing, and one out of order sets NAK. -/
theorem flitReceive_unordered (kind : (flitOf flit).ftype = 1 ∨ (flitOf flit).ftype = 3)
    (order : (flitOf flit).seq ≠ ((s.port p).rxSeq + 1) % 2 ^ 24) : exec (.flitReceive p flit n true) s =
    .next (s.setPort p { (s.port p).fixed n with nak := (s.port p).nak || !seqLe (flitOf flit).seq (s.port p).rxSeq }) := by
  rw [flitReceive_sound below up on free few sound]
  dsimp only
  rw [if_neg (by omega), if_neg (by rcases kind with k | k <;> simp [k]), if_neg order]
  split
  · next dup => rw [dup, Bool.not_true, Bool.or_false]; rfl
  · next late => rw [Bool.eq_false_iff.2 late, Bool.not_false, Bool.or_true]
theorem flitReceive_data (kind : (flitOf flit).ftype = 1) (order : (flitOf flit).seq = ((s.port p).rxSeq + 1) % 2 ^ 24) :
    exec (.flitReceive p flit n true) s = .next (((s.setPort p (((s.port p).fixed n).control (flitOf flit) s.dtb)).setPort p
      ((s.port p).taken n (flitOf flit) s.dtb)).dataFlit p (flitOf flit)) := by
  rw [flitReceive_sound below up on free few sound]
  dsimp only
  rw [if_neg (by omega), if_neg (by simp [kind]), if_pos order, if_pos kind]
end

/-! ## A data flit (R280, R289, R290) -/

/-- The channel with the flit counted as freed, or as withheld. -/
structure VcState.Counts (c d : VcState) : Prop where
  frame : d = { c with freed := d.freed, withheld := d.withheld }

section
variable {s : State} {p : Nat} {f : Flit}

/-- A flit of another epoch is counted and dropped. -/
theorem State.dataFlit_fenced (other : f.epoch ≠ ((s.port p).vc f.vc).epoch % 256) :
    ((s.dataFlit p f).port p).rxSeq = (s.port p).rxSeq ∧ ((s.port p).nak = false → ((s.dataFlit p f).port p).nak = false) ∧
    ((s.dataFlit p f).port p).fenced = satAdd 0xFFFF (s.port p).fenced 1 ∧
    (((s.dataFlit p f).port p).vc f.vc).delivered = ((s.port p).vc f.vc).delivered ∧
    (8 ≤ f.vc → s.dataFlit p f = { s with ports := (s.dataFlit p f).ports }) := by
  unfold State.dataFlit
  extract_lets t x c b held full c1
  have holds : (s.port p).Holds x := by
    unfold x t
    split
    · exact (s.releaseHeld_holds f.vc).port p
    · exact .refl _
  have counted : c.Counts c1 := by
    unfold c1
    split
    · exact ⟨rfl⟩
    · exact ⟨rfl⟩
  have fenced : f.epoch ≠ c.epoch % 256 := by
    unfold c
    rw [holds.epoch]
    exact other
  rw [if_pos (by simpa using fenced), State.port_setPort_self]
  refine ⟨holds.rxSeq, holds.nak, ?_, ?_, fun high => ?_⟩
  · rw [← holds.fenced]
  · have own : ({ x.setVc f.vc c1 with fenced := satAdd 0xFFFF x.fenced 1 } : Port).vc f.vc = c1 := Port.vc_setVc_self ..
    rw [own, counted.frame]
    exact holds.delivered f.vc
  · rw [show t = s from if_neg (by omega)]
    rfl

/-- What a peer's notice changes at a port: where its channels go out, and their epochs. -/
structure Port.Hears (x y : Port) : Prop where
  frame : y = { x with vcs := y.vcs }
  vc : ∀ v, y.vc v = { x.vc v with outMap := (y.vc v).outMap, epoch := (y.vc v).epoch }
theorem Port.Hears.refl (x : Port) : x.Hears x := ⟨rfl, fun _ => rfl⟩
theorem Port.Hears.trans {x y z : Port} (h : x.Hears y) (k : y.Hears z) : x.Hears z :=
  ⟨by rw [k.frame, h.frame], fun v => by rw [k.vc v, h.vc v]⟩
theorem Port.hears_updVc (x : Port) (v : Nat) {g : VcState → VcState}
    (keeps : ∀ c, g c = { c with outMap := (g c).outMap, epoch := (g c).epoch }) : x.Hears (x.updVc v g) := by
  refine ⟨rfl, fun w => ?_⟩
  by_cases own : w = v
  · rw [own, Port.vc_updVc_self]
    exact keeps _
  · rw [Port.vc_updVc_other _ _ own]
theorem Port.Hears.foldl {β : Type} {f : Port → β → Port} (h : ∀ (x : Port) b, x.Hears (f x b)) (l : List β) (x : Port) :
    x.Hears (l.foldl f x) := by
  induction l generalizing x with
  | nil => exact .refl x
  | cons b r ih => exact (h x b).trans (ih _)

/-- A peer's notice changes its port only. -/
structure State.HearsAt (p : Nat) (s t : State) : Prop where
  frame : t = { s with ports := t.ports }
  port : (s.port p).Hears (t.port p)
theorem State.HearsAt.refl (s : State) : State.HearsAt p s s := ⟨rfl, .refl _⟩
theorem State.HearsAt.trans {s t u : State} (h : State.HearsAt p s t) (k : State.HearsAt p t u) : State.HearsAt p s u :=
  ⟨by rw [k.frame, h.frame], h.port.trans k.port⟩
theorem State.HearsAt.foldl {β : Type} {f : State → β → State} (h : ∀ (t : State) b, State.HearsAt p t (f t b)) (l : List β) (s : State) :
    State.HearsAt p s (l.foldl f s) := by
  induction l generalizing s with
  | nil => exact .refl s
  | cons b r ih => exact (h s b).trans (ih _)
theorem State.hearTell_hears (s : State) (p : Nat) (b : List Byte) : State.HearsAt p s (s.hearTell p b) := by
  unfold State.hearTell
  split
  · exact .refl s
  · refine .foldl (fun t q => ?_) _ s
    split
    · split
      · exact .refl t
      · refine ⟨rfl, ?_⟩
        rw [State.updPort_eq, State.port_setPort_self]
        refine .foldl (fun x v => ?_) _ _
        split
        · exact .refl x
        · exact x.hears_updVc v.1 fun _ => rfl
    · exact .refl t

/-- Delivering a message on VC 8 to 10 appends it to what the channel delivered. -/
theorem State.deliver_high (high : 8 ≤ f.vc) (beat : Nat) (b : List Byte) :
    s.deliver p f.vc beat b = { s with ports := (s.deliver p f.vc beat b).ports } ∧
    ((s.port p).updVc f.vc (fun c => { c with delivered := c.delivered ++ [(beat, b)] })).Hears ((s.deliver p f.vc beat b).port p) := by
  unfold State.deliver
  rw [if_pos high]
  extract_lets s1
  have listed : s1.port p = (s.port p).updVc f.vc (fun c => { c with delivered := c.delivered ++ [(beat, b)] }) := by
    unfold s1
    rw [State.updPort_eq, State.port_setPort_self]
  split
  · have heard := s1.hearTell_hears p b
    refine ⟨?_, by rw [← listed]; exact heard.port⟩
    rw [heard.frame]
    rfl
  · exact ⟨rfl, by rw [← listed]; exact .refl _⟩

/-- The port with a flit's part of a message, kept or, with the last, handed on and acknowledged. -/
def Port.kept (x : Port) (f : Flit) (b : List Byte) : Port :=
  x.setVc f.vc { x.vc f.vc with freed := (x.vc f.vc).freed + 1, inMsg := b, inOpen := true }
def Port.closed (x : Port) (f : Flit) : Port :=
  { x.setVc f.vc { x.vc f.vc with freed := (x.vc f.vc).freed + 1, inMsg := [], inOpen := false } with acks := x.acks ++ [(f.vc, f.beat, f.seq)] }
theorem Port.closed_vc (x : Port) (f : Flit) : (x.closed f).vc f.vc =
    { x.vc f.vc with freed := (x.vc f.vc).freed + 1, inMsg := [], inOpen := false } := Port.vc_setVc_self ..

theorem State.dataFlit_high (high : 8 ≤ f.vc) (own : f.epoch = ((s.port p).vc f.vc).epoch % 256)
    (part : f.first = true ∨ ((s.port p).vc f.vc).inOpen = true) {b : List Byte}
    (bytes : (if f.first then [] else ((s.port p).vc f.vc).inMsg) ++ f.payload = b) : s.dataFlit p f =
    if !f.last then s.setPort p ((s.port p).kept f b) else (s.setPort p ((s.port p).closed f)).deliver p f.vc f.beat b := by
  have low : decide (f.vc < 8) = false := by simpa using high
  unfold State.dataFlit
  rw [if_neg (show ¬ f.vc < 8 by omega)]
  dsimp only
  rw [low, bytes]
  simp only [Bool.false_and, Bool.or_self, Bool.false_eq_true, if_false]
  rw [if_neg (by simp [own]), if_neg (by rcases part with first | open_ <;> simp [*])]
  rfl

theorem State.dataFlit_part (high : 8 ≤ f.vc) (own : f.epoch = ((s.port p).vc f.vc).epoch % 256)
    (part : f.first = true ∨ ((s.port p).vc f.vc).inOpen = true) {b : List Byte}
    (bytes : (if f.first then [] else ((s.port p).vc f.vc).inMsg) ++ f.payload = b) :
    ((s.dataFlit p f).port p).rxSeq = (s.port p).rxSeq ∧ ((s.dataFlit p f).port p).nak = (s.port p).nak ∧
    (f.last = true → (((s.dataFlit p f).port p).vc f.vc).delivered = ((s.port p).vc f.vc).delivered ++ [(f.beat, b)] ∧
      (((s.dataFlit p f).port p).vc f.vc).inOpen = false ∧ ((s.dataFlit p f).port p).acks = (s.port p).acks ++ [(f.vc, f.beat, f.seq)]) ∧
    (f.last = false → (((s.dataFlit p f).port p).vc f.vc).delivered = ((s.port p).vc f.vc).delivered ∧
      (((s.dataFlit p f).port p).vc f.vc).inMsg = b) ∧
    s.dataFlit p f = { s with ports := (s.dataFlit p f).ports } := by
  rw [State.dataFlit_high high own part bytes]
  cases last : f.last with
  | false =>
    rw [if_pos (by rfl), State.port_setPort_self]
    refine ⟨rfl, rfl, (nomatch ·), fun _ => ?_, rfl⟩
    rw [Port.kept, Port.vc_setVc_self]
    exact ⟨rfl, rfl⟩
  | true =>
    rw [if_neg (by simp)]
    obtain ⟨frame, hears⟩ := State.deliver_high (s := s.setPort p ((s.port p).closed f)) (p := p) high f.beat b
    rw [State.port_setPort_self] at hears
    have vc := hears.vc f.vc
    rw [Port.vc_updVc_self, Port.closed_vc] at vc
    refine ⟨by rw [hears.frame]; rfl, by rw [hears.frame]; rfl, fun _ => ⟨by rw [vc], by rw [vc], by rw [hears.frame]; rfl⟩, (nomatch ·), ?_⟩
    rw [frame]
    rfl
end

/-- Settles O31: what is refused is `flitReceive_run`, and a data flit in order is `State.dataFlit_fenced` or `State.dataFlit_part`. -/
theorem flitsAreChecked : Obligations.FlitsAreChecked := by
  unfold Obligations.FlitsAreChecked
  intro p n flit s below up on free x f next c b lost fixed
  refine ⟨?_, fun many => ?_, fun few bad => ?_, fun few sound kind => ?_, fun few sound kind order => ?_, fun few sound kind order => ?_⟩
  · rw [flitReceive_run below up on free, if_pos (by simp)]
  · rw [flitReceive_run below up on free, if_pos (by simp [many])]
  · rw [flitReceive_run below up on free, if_neg (by simp; omega), if_pos (by simp [bad])]
    rfl
  · refine ⟨_, flitReceive_plain below up on free few sound kind, rfl, fun k other => State.port_setPort_other _ _ other, ?_, ?_⟩
    all_goals
      obtain ⟨frame, -⟩ := ((s.port p).fixed n).control_shows (flitOf flit) s.dtb
      rw [State.port_setPort_self, frame]
      rfl
  · exact flitReceive_unordered below up on free few sound kind order
  · refine ⟨_, flitReceive_data below up on free few sound kind order, ?_⟩
    obtain ⟨seq, nak, fenced, acks, vcs⟩ := (s.port p).taken_shows n (flitOf flit) s.dtb
    generalize state : (s.setPort p (((s.port p).fixed n).control (flitOf flit) s.dtb)).setPort p ((s.port p).taken n (flitOf flit) s.dtb) = t
    have port : t.port p = (s.port p).taken n (flitOf flit) s.dtb := by rw [← state, State.port_setPort_self]
    have frame : t = { s with ports := t.ports } := by rw [← state]; rfl
    rw [← port] at seq nak fenced acks vcs
    have channel := (vcs f.vc).frame
    refine ⟨fun other => ?_, fun own high part => ?_⟩
    · obtain ⟨seq1, nak1, fenced1, delivered, only⟩ := State.dataFlit_fenced (s := t) (p := p) (f := f) (by rw [channel]; exact other)
      refine ⟨?_, nak1 nak, by rw [fenced1, fenced], by rw [delivered, channel], fun high => ?_⟩
      · rw [seq1, seq]
        exact order
      · rw [only high, frame]
    · obtain ⟨seq1, nak1, last, open_, only⟩ := State.dataFlit_part (s := t) (p := p) (f := f) high (by rw [channel]; exact own)
        (by rw [channel]; exact part) (b := b) (by rw [channel])
      refine ⟨?_, nak1.trans nak, fun done => ?_, fun more => ?_, ?_⟩
      · rw [seq1, seq]
        exact order
      · obtain ⟨delivered, closed, acked⟩ := last done
        refine ⟨?_, closed, by rw [acked, acks]⟩
        rw [delivered, channel]
      · obtain ⟨delivered, bytes⟩ := open_ more
        refine ⟨?_, bytes⟩
        rw [delivered, channel]
      · rw [only, frame]

end Sys2Proof.Machine
end

section
/-!
CYCLIC_WINDOW_BOUNDARY and PARTITION_FREEZE: windows follow one another (R358 to R365, R401), and a partition freezes at its point
(R370, R371).
-/

-- One proof after another: the stacks of proofs that wait for each other count against the check's memory limit.
set_option Elab.async false
namespace Sys2Proof.Machine

/-! ## Suspending pairs (R401) -/

/-- The pair once its context is saved. -/
def Pair.suspended (y : Pair) : Pair :=
  if y.run != 1 || !(y.sess y.session).isOpen then y else { y with
    sessions := Cells.put (fun _ => {}) y.sessions y.session { y.sess y.session with saved := true }
    run := 0, suspends := satAdd 0xFFFF y.suspends 1, binOcc := 0 }

theorem Pair.suspended_part (y : Pair) : y.suspended.part = y.part := by
  unfold Pair.suspended
  split <;> rfl
theorem Pair.suspended_serving {y : Pair} (runs : y.run = 1) (open_ : (y.sess y.session).isOpen = true) : y.suspended.run = 0 ∧
    y.suspended.suspends = satAdd 0xFFFF y.suspends 1 ∧ (y.suspended.sess y.session).saved = true := by
  unfold Pair.suspended
  rw [if_neg (by simp [runs, open_])]
  exact ⟨rfl, rfl, congrArg Session.saved (Cells.get_put_self ..)⟩

/-- From `s` to `t` only pairs, memory and what accompanies a write have changed. -/
structure State.Codec (s t : State) : Prop where
  cores : t.cores = s.cores
  cyc : t.cyc = s.cyc
theorem State.Codec.trans {s t u : State} (h : s.Codec t) (k : t.Codec u) : s.Codec u := ⟨k.cores.trans h.cores, k.cyc.trans h.cyc⟩

theorem State.suspend_shows (s : State) (k : Nat) : s.Codec (s.suspend k) ∧
    ∀ j, (s.suspend k).pair j = if j = k then (s.pair k).suspended else s.pair j := by
  unfold State.suspend
  extract_lets y x bytes
  split
  · next idle =>
    refine ⟨⟨rfl, rfl⟩, fun j => ?_⟩
    have still : (s.pair k).suspended = s.pair k := if_pos idle
    split
    · next e => rw [e, still]
    · rfl
  · next busy =>
    have wrote : s.tick.Wrote (s.tick.writeP x.part (Cd.addr x.desc 24) bytes).answer := (s.tick.writeP_wrote ..).trans (State.answer_wrote _)
    generalize (s.tick.writeP x.part (Cd.addr x.desc 24) bytes).answer = t at wrote ⊢
    have pair : ∀ j, t.pair j = s.pair j := wrote.pair
    have cyc : t.cyc = s.cyc := by rw [wrote.frame]; rfl
    refine ⟨⟨wrote.cores, cyc⟩, fun j => ?_⟩
    rw [State.updPair, State.pair_setPair]
    split
    · have saves : (s.pair k).suspended = _ := if_neg busy
      rw [saves, State.updSess, State.pair_updPair, pair]
    · next other => rw [State.updSess, State.updPair, State.pair_setPair, if_neg other, pair]

/-- Each of the first `n` pairs that the window does not grant to the partition it serves is suspended. -/
theorem State.suspendPairs_shows (s : State) (n : Nat) :
    s.Codec ((List.range n).foldl (fun s k => if s.granted k == some (s.pair k).part then s else s.suspend k) s) ∧
    ∀ j, ((List.range n).foldl (fun s k => if s.granted k == some (s.pair k).part then s else s.suspend k) s).pair j =
      if j < n ∧ s.granted j ≠ some (s.pair j).part then (s.pair j).suspended else s.pair j := by
  induction n with
  | zero => exact ⟨⟨rfl, rfl⟩, fun j => by rw [if_neg (by omega)]; rfl⟩
  | succ n ih =>
    rw [List.range_succ, List.foldl_append, List.foldl_cons, List.foldl_nil]
    obtain ⟨codec, pair⟩ := ih
    generalize (List.range n).foldl (fun s k => if s.granted k == some (s.pair k).part then s else s.suspend k) s = t at codec pair ⊢
    have grants : t.granted n = s.granted n := by rw [State.granted, State.granted, codec.cyc]
    have own : t.pair n = s.pair n := by rw [pair, if_neg (by omega)]
    rw [grants, own]
    by_cases granted : s.granted n = some (s.pair n).part
    · rw [if_pos (by simp [granted])]
      refine ⟨codec, fun j => ?_⟩
      rw [pair]
      by_cases e : j = n
      · rw [e, if_neg (by omega), if_neg (by simp [granted])]
      · simp only [show (j < n + 1) = (j < n) from propext (by omega)]
    · rw [if_neg (by simpa using granted)]
      obtain ⟨further, suspends⟩ := t.suspend_shows n
      refine ⟨codec.trans further, fun j => ?_⟩
      rw [suspends]
      by_cases e : j = n
      · rw [e, if_pos rfl, if_pos ⟨by omega, granted⟩, own]
      · rw [if_neg e, pair]
        simp only [show (j < n + 1) = (j < n) from propext (by omega)]

theorem State.enterWindow_shows (s : State) (w start hyper : Nat) :
    (s.enterWindow w start hyper).cores = s.cores ∧
    (s.enterWindow w start hyper).cyc = { s.cyc with window := w, windowStart := start, hyperStart := hyper, idle := false, starting := false } ∧
    ∀ k, k < 12 → (s.enterWindow w start hyper).pair k =
      if (s.enterWindow w start hyper).granted k ≠ some (s.pair k).part then (s.pair k).suspended else s.pair k := by
  unfold State.enterWindow
  extract_lets src s1
  obtain ⟨codec, pair⟩ := s1.suspendPairs_shows 12
  generalize (List.range 12).foldl (fun s k => if s.granted k == some (s.pair k).part then s else s.suspend k) s1 = t at codec pair ⊢
  refine ⟨codec.cores, codec.cyc, fun k below => ?_⟩
  have grants : t.granted k = s1.granted k := by rw [State.granted, State.granted, codec.cyc]
  rw [grants, pair]
  simp only [below, true_and]
  rfl
theorem State.startSide_shows (s : State) : s.startSide.cores = s.cores ∧ s.startSide.cyc.side = s.cyc.side ∧
    s.startSide.cyc.gen = s.cyc.gen ∧ s.startSide.cyc.armed = s.cyc.armed := by
  unfold State.startSide
  dsimp only
  split
  · next w _ =>
    split
    · obtain ⟨cores, cyc, -⟩ := s.enterWindow_shows w (hyperFrom s.cyc.active s.cyc.windowStart) (hyperFrom s.cyc.active s.cyc.windowStart)
      rw [cyc]
      exact ⟨cores, rfl, rfl, rfl⟩
    · exact ⟨rfl, rfl, rfl, rfl⟩
  · exact ⟨rfl, rfl, rfl, rfl⟩
theorem State.straddle_cores (s : State) (t : Nat) : (s.straddle t).cores = s.cores := by
  unfold State.straddle
  dsimp only
  split <;> rfl

/-! ## CYCLIC_WINDOW_BOUNDARY (R358, R360, R365) -/

section
variable {s : State} (on : s.power.off = false) (awake : s.power.state ≠ 3) (free : s.pcie.held = false) (begun : s.cyc.starting = false)
include on awake free begun

theorem cyclicWindowBoundary_run : exec .cyclicWindowBoundary s =
    let stop := s.cyc.windowStart + 1000 * winLen s.cyc.active s.cyc.window
    if s.cyc.idle then .next s
    else if s.dtb < stop then .next s
    else match nextWindow s.cyc.active (s.cyc.window + 1), s.cyc.armed, nextWindow s.cyc.active 0 with
      | some w, _, _ => .next (s.enterWindow w stop s.cyc.hyperStart)
      | none, some side, _ =>
        .next (State.startSide { s.straddle stop with cyc := { s.cyc with
          side := side, gen := (s.cyc.gen + 1) % 2 ^ 32, armed := none, starting := true, windowStart := stop } })
      | none, none, some w => .next (s.enterWindow w stop stop)
      | none, none, none => .next s := by
  show execCyclicWindowBoundary s = _
  unfold execCyclicWindowBoundary
  dsimp only
  rw [if_neg (by simp [on, awake, free]), if_neg (by simp [begun])] <;> rfl

variable (runs : s.cyc.idle = false) (ended : s.cyc.windowStart + 1000 * winLen s.cyc.active s.cyc.window ≤ s.dtb)
include runs ended

theorem cyclicWindowBoundary_next {w : Nat} (unarmed : s.cyc.armed = none)
    (next : (nextWindow s.cyc.active (s.cyc.window + 1)).or (nextWindow s.cyc.active 0) = some w) :
    exec .cyclicWindowBoundary s = .next (s.enterWindow w (s.cyc.windowStart + 1000 * winLen s.cyc.active s.cyc.window)
      (if (nextWindow s.cyc.active (s.cyc.window + 1)).isSome then s.cyc.hyperStart
        else s.cyc.windowStart + 1000 * winLen s.cyc.active s.cyc.window)) := by
  rw [cyclicWindowBoundary_run on awake free begun]
  dsimp only
  rw [if_neg (by simp [runs]), if_neg (by omega)]
  cases later : nextWindow s.cyc.active (s.cyc.window + 1) with
  | some v =>
    rw [later] at next
    cases next
    rfl
  | none =>
    rw [later, Option.none_or] at next
    rw [next, unarmed]
    rfl
theorem cyclicWindowBoundary_switch {side : Nat} (armed : s.cyc.armed = some side)
    (last : nextWindow s.cyc.active (s.cyc.window + 1) = none) :
    ∃ t, exec .cyclicWindowBoundary s = .next t ∧ t.cores = s.cores ∧ t.cyc.side = side ∧ t.cyc.gen = (s.cyc.gen + 1) % 2 ^ 32 ∧
      t.cyc.armed = none := by
  have run := cyclicWindowBoundary_run on awake free begun
  dsimp only at run
  rw [if_neg (by simp [runs]), if_neg (by omega), last, armed] at run
  obtain ⟨cores, side_, gen, armed_⟩ := State.startSide_shows
    { s.straddle (s.cyc.windowStart + 1000 * winLen s.cyc.active s.cyc.window) with cyc := { s.cyc with
      side := side, gen := (s.cyc.gen + 1) % 2 ^ 32, armed := none, starting := true
      windowStart := s.cyc.windowStart + 1000 * winLen s.cyc.active s.cyc.window } }
  exact ⟨_, run, cores.trans (s.straddle_cores _), side_, gen, armed_⟩
end

/-! ## What a copy's writes leave (R370) -/

/-- From `s` to `t` bytes have been written that lift no protection: recovery points stand as well. -/
structure State.Bulk (s t : State) : Prop where
  wrote : s.Wrote t
  lasts : s.PartsLast t
  points : ∀ q, (t.part q).rcv.points = (s.part q).rcv.points

section
variable {s t u : State}

theorem State.Bulk.refl (s : State) : s.Bulk s := ⟨.refl s, .refl s, fun _ => rfl⟩
theorem State.Bulk.trans (h : s.Bulk t) (k : t.Bulk u) : s.Bulk u :=
  ⟨h.wrote.trans k.wrote, h.lasts.trans k.lasts, fun q => (k.points q).trans (h.points q)⟩
theorem State.Bulk.foldl {β : Type} {f : State → β → State} (h : ∀ (s : State) b, s.Bulk (f s b)) (l : List β) (s : State) :
    s.Bulk (l.foldl f s) := by
  induction l generalizing s with
  | nil => exact .refl s
  | cons b r ih => exact (h s b).trans (ih _)
theorem State.Bulk.core (h : s.Bulk t) (c : Nat) : t.core c = s.core c := by
  rw [h.wrote.frame]
  rfl
theorem State.Bulk.imageCores (h : s.Bulk t) (p : Nat) : t.imageCores p = s.imageCores p := by
  unfold State.imageCores
  rw [(h.lasts p).image, (h.lasts p).geo]
theorem Partition.Lasts.fz {x y : Partition} (h : x.Lasts y) : y.fz = x.fz := by obtain ⟨_, _, _, _, rfl⟩ := h; rfl
theorem Partition.Lasts.frozen {x y : Partition} (h : x.Lasts y) : y.job.frozen = x.job.frozen := by obtain ⟨_, _, _, _, rfl⟩ := h; rfl

theorem State.storeTurn_parts (s : State) (p cls : Nat) (e : Nat × Byte) : (s.storeTurn p cls false e).parts = s.parts := by
  unfold State.storeTurn
  split
  · split
    · rfl
    · rw [if_neg (by simp), (s.storeByte_spec p cls _ e.2).1.eq]
  · rfl
theorem State.storeBytes_parts (p cls : Nat) (es : List (Nat × Byte)) : ∀ s : State, (s.storeBytes p cls false es).parts = s.parts := by
  induction es with
  | nil => exact fun _ => rfl
  | cons e r ih => exact fun s => by rw [State.storeBytes_cons, ih, State.storeTurn_parts]
theorem State.fenceReport_points (s : State) (p beat : Nat) (xs : List Nat) (q : Nat) :
    ((s.fenceReport p beat xs).part q).rcv.points = (s.part q).rcv.points := by
  unfold State.fenceReport
  split
  · rfl
  · rw [State.report_part]
    split
    · next e => rw [e]
    · rfl
theorem State.writeX_bulk (s : State) (p x : Nat) (bs : List Byte) : s.Bulk (s.writeX p x bs) := by
  refine ⟨s.writeX_wrote .., s.writeX_lasts p x bs, fun q => ?_⟩
  unfold State.writeX State.storeAt
  rw [State.fenceReport_points, State.part, State.part, State.storeBytes_parts]
theorem State.saveCores_bulk (s : State) (p : Nat) (im : Image) (copy : Nat) (selected : Bool) (l : List (Nat × Nat)) :
    s.Bulk (l.foldl (fun s e => s.saveCore p im copy selected e.2 e.1) s) := .foldl (fun t _ => t.writeX_bulk ..) l s

/-- A change of sequencers that a second one leaves alone, made at every core of a list. -/
theorem foldl_updSeq_idem {f : Seq → Seq} (idem : ∀ q, f (f q) = f q) (l : List Nat) : ∀ (s : State) (c : Nat),
    (l.foldl (fun s d => s.updSeq d f) s).core c = if c ∈ l then { s.core c with seq := f (s.core c).seq } else s.core c := by
  induction l with
  | nil => exact fun s c => by rw [if_neg (by simp)]; rfl
  | cons d r ih =>
    intro s c
    rw [List.foldl_cons, ih]
    by_cases own : c = d
    · rw [own, State.core_updSeq_self, if_pos (List.mem_cons_self ..)]
      split
      · exact congrArg (fun q => { s.core d with seq := q }) (idem _)
      · rfl
    · rw [State.core_updSeq_other _ own]
      simp only [List.mem_cons, own, false_or]
end

/-! ## The end of a freeze (R371) -/

theorem State.freezeDone_shows (s : State) (p status ended : Nat) : (s.freezeDone p status ended).cores = s.cores ∧
    (s.freezeDone p status ended).hbm = s.hbm ∧ (∀ c, (s.freezeDone p status ended).core c = s.core c) ∧
    (s.freezeDone p status ended).part p =
      { s.part p with fz := { (s.part p).fz with armed := false, at_ := 0, cmd := none, status := status } } := by
  unfold State.freezeDone
  extract_lets s1
  obtain ⟨fns, out, told⟩ : ∃ fns out, s1 = { s with fns := fns, out := out } := by
    unfold s1
    split
    · exact ⟨_, _, s.completeIf_frame ..⟩
    · exact ⟨_, _, rfl⟩
  rw [told, State.part_updPart_self]
  exact ⟨rfl, rfl, fun _ => rfl, rfl⟩

/-- The sequencer of a frozen core. -/
def Seq.froze (q : Seq) : Seq := { q with run := 6, stall := false, fpWait := false, waitFrom := none }

/-- Every core of a list freezes. -/
def State.freezeCores (s : State) (l : List Nat) : State := l.foldl (fun s c => s.updSeq c Seq.froze) s
theorem State.freezeCores_frame (s : State) (l : List Nat) : s.freezeCores l = { s with cores := (s.freezeCores l).cores } :=
  foldl_coresOnly (fun _ _ => by rfl) l s
theorem State.freezeCores_core (s : State) (l : List Nat) (c : Nat) :
    (s.freezeCores l).core c = if c ∈ l then { s.core c with seq := (s.core c).seq.froze } else s.core c :=
  foldl_updSeq_idem (f := Seq.froze) (fun _ => rfl) l s c

/-- Once a copy is written, its cores freeze and the partition takes note of it. -/
theorem State.frozen_shows {s t : State} (bulk : s.Bulk t) (settled : s.commit.waiting = []) (p : Nat) (f : Partition → Partition) :
    (((t.freezeCores (t.imageCores p)).updPart p f).releaseUnits).part p = f (t.part p) ∧
    ∀ c, (((t.freezeCores (t.imageCores p)).updPart p f).releaseUnits).core c =
      if c ∈ s.imageCores p then { s.core c with seq := (s.core c).seq.froze } else s.core c := by
  have frame := t.freezeCores_frame (t.imageCores p)
  have cores := t.freezeCores_core (t.imageCores p)
  generalize t.freezeCores (t.imageCores p) = u at frame cores ⊢
  have part : u.part p = t.part p := by rw [frame]; rfl
  have waiting : (u.updPart p f).commit.waiting = [] := by
    show u.commit.waiting = []
    rw [frame, bulk.wrote.frame]
    exact settled
  rw [State.releaseUnits_of_none waiting, State.part_updPart_self, part]
  refine ⟨rfl, fun c => ?_⟩
  rw [← bulk.imageCores, ← bulk.core]
  exact cores c

/-- The partition with the copy's marks. -/
structure Partition.Froze (x y : Partition) (beat : Nat) : Prop where
  frozen : y.job.frozen = true
  running : y.job.running = false
  seq : y.fz.seq = x.fz.seq + 1
  beat : y.rcv.rpBeat = beat

/-- A copy written whole freezes the partition and every core of its image. -/
theorem State.save_shows {s : State} (p : Nat) (im : Image) (fp fpId : Nat) (selected isCkpt : Bool) (settled : s.commit.waiting = []) :
    (s.part p).Froze ((s.save p im fp fpId selected isCkpt).part p) (s.topBeat p) ∧
    ∀ c, (s.save p im fp fpId selected isCkpt).core c =
      if c ∈ s.imageCores p then { s.core c with seq := (s.core c).seq.froze } else s.core c := by
  unfold State.save
  extract_lets x copy beat head s1 s2 s3 s4 q sv keep
  have bulk : s.Bulk s3 := ((s.writeX_bulk ..).trans (s1.saveCores_bulk p im copy selected _)).trans (s2.writeX_bulk ..)
  have froze : s4 = s3.freezeCores (s3.imageCores p) := rfl
  rw [froze]
  clear_value s4 s3 sv keep copy q
  obtain ⟨part, cores⟩ := State.frozen_shows bulk settled p _
  refine ⟨?_, cores⟩
  rw [part]
  exact ⟨rfl, rfl, by rw [(bulk.lasts p).fz], rfl⟩

theorem State.freezeDone_froze {x : Partition} {t : State} {p beat : Nat} (h : x.Froze (t.part p) beat) (status ended : Nat) :
    x.Froze ((t.freezeDone p status ended).part p) beat ∧ ((t.freezeDone p status ended).part p).fz.armed = false := by
  obtain ⟨-, -, -, part⟩ := t.freezeDone_shows p status ended
  obtain ⟨frozen, running, seq, rp⟩ := h
  rw [part]
  exact ⟨⟨frozen, running, seq, rp⟩, rfl⟩

/-! ## PARTITION_FREEZE (R370, R371, R459) -/

theorem State.commitTo_done {s : State} {p : Nat} {im : Image} {n : Nat} (done : s.topBeat p ≤ (s.part p).job.nextCommit) : s.commitTo p im (s.topBeat p) n = s := by
  cases n with
  | zero => rfl
  | succ n =>
    unfold State.commitTo
    rw [if_neg (by simp; omega)]

section
variable {s : State} {p : Nat} (below : p < 16)
include below

theorem partitionFreeze_idle (idle : (s.part p).image = none ∨ (s.part p).job.frozen = true ∨ (s.part p).job.stopped = true ∨ s.memHeld p = true) :
    exec (.partitionFreeze p) s = .next s := by
  show execPartitionFreeze p s = _
  rw [execPartitionFreeze, if_neg (by omega)]
  cases image : (s.part p).image with
  | none => rfl
  | some im =>
    dsimp only
    rw [image] at idle
    rw [if_pos (by rcases idle with none | frozen | stopped | held <;> [cases none; simp [frozen]; simp [stopped]; simp [held]])]

variable {im : Image} (image : (s.part p).image = some im) (thawed : (s.part p).job.frozen = false) (runs : (s.part p).job.stopped = false)
  (serves : s.memHeld p = false)
include image thawed runs serves

theorem partitionFreeze_run : exec (.partitionFreeze p) s =
    if (s.part p).fz.armed && s.allHalted p then .next (s.freezeDone p Config.stOk 1)
    else match s.freezeReady p im with
      | none => .next s
      | some (fp, fpId, selected) =>
        let x := s.part p
        let s1 := s.commitTo p im (s.topBeat p) (s.topBeat p + 1 - x.job.nextCommit)
        if (s1.part p).job.nextCommit < s1.topBeat p then .next s else
        let into := if x.fz.seq = 0 then 0 else 1 - x.fz.copy
        if s1.copyFenced p im into then
          let s2 := s1.writeX p (copyAt im into + 4) (leBytes 4 1)
          let s3 := (s2.imageCores p).zipIdx.foldl (fun s e => s.saveCore p im into selected e.2 e.1) s2
          .next (s3.freezeDone p Config.stHbmFenced 0)
        else
        let byCmd := x.fz.armed && (!selected || x.fz.at_ == fp)
        let byCkpt := selected && x.rcv.ckptAt == fp && fp != 0
        let s2 := s1.save p im fp fpId selected byCkpt
        let s3 := if byCmd then s2.freezeDone p Config.stOk 0 else s2.thawFrom p im (s2.part p).fz.copy
        .next (if byCkpt then s3.ckptDone p im else s3) := by
  show execPartitionFreeze p s = _
  rw [execPartitionFreeze, if_neg (by omega), image]
  dsimp only
  rw [if_neg (by simp [thawed, runs, serves])] <;> rfl

variable {fp id : Nat} (armed : (s.part p).fz.armed = true) (busy : s.allHalted p = false) (ready : s.freezeReady p im = some (fp, id, true))
  (target : (s.part p).fz.at_ = fp) (unplanned : (s.part p).rcv.ckptAt ≠ fp) (committed : s.topBeat p ≤ (s.part p).job.nextCommit)
include armed busy ready target unplanned committed

/-- At the armed point, with the beats before it committed, the copy is written, whole or not. -/
theorem partitionFreeze_point : exec (.partitionFreeze p) s =
    let into := if (s.part p).fz.seq = 0 then 0 else 1 - (s.part p).fz.copy
    if s.copyFenced p im into then
      let s2 := s.writeX p (copyAt im into + 4) (leBytes 4 1)
      .next (((s2.imageCores p).zipIdx.foldl (fun s e => s.saveCore p im into true e.2 e.1) s2).freezeDone p Config.stHbmFenced 0)
    else .next ((s.save p im fp id true false).freezeDone p Config.stOk 0) := by
  rw [partitionFreeze_run below image thawed runs serves, if_neg (by simp [busy]), ready]
  dsimp only
  rw [State.commitTo_done committed, if_neg (by omega)]
  have byCmd : ((s.part p).fz.armed && (!true || (s.part p).fz.at_ == fp)) = true := by simp [armed, target]
  have byCkpt : (true && (s.part p).rcv.ckptAt == fp && fp != 0) = false := by simp [unplanned]
  rw [byCmd, byCkpt]
  rfl

/-- A copy that no fence meets freezes the partition. -/
theorem partitionFreeze_saves (settled : s.commit.waiting = [])
    (whole : s.copyFenced p im (if (s.part p).fz.seq = 0 then 0 else 1 - (s.part p).fz.copy) = false) :
    ∃ t, exec (.partitionFreeze p) s = .next t ∧ (s.part p).Froze (t.part p) (s.topBeat p) ∧ (t.part p).fz.armed = false ∧
      ∀ c, t.core c = if c ∈ s.imageCores p then { s.core c with seq := (s.core c).seq.froze } else s.core c := by
  have run := partitionFreeze_point below image thawed runs serves armed busy ready target unplanned committed
  dsimp only at run
  rw [if_neg (by rw [whole]; exact Bool.false_ne_true)] at run
  obtain ⟨froze, core⟩ := State.save_shows p im fp id true false settled
  generalize s.save p im fp id true false = t at run froze core
  obtain ⟨frozen, unarmed⟩ := State.freezeDone_froze froze Config.stOk 0
  obtain ⟨-, -, kept, -⟩ := t.freezeDone_shows p Config.stOk 0
  exact ⟨_, run, frozen, unarmed, fun c => (kept c).trans (core c)⟩
end

/-- Settles O42: windows are `State.enterWindow_shows`, and a freeze at its point is `partitionFreeze_point`. -/
theorem windowsAndFreezesComplete : Obligations.WindowsAndFreezesComplete := by
  unfold Obligations.WindowsAndFreezesComplete
  refine ⟨fun s on awake free begun => ⟨fun early => ?_, fun runs ended unarmed w next => ?_, fun side runs ended armed last =>
    cyclicWindowBoundary_switch on awake free begun runs ended armed last⟩, fun p s below => ⟨partitionFreeze_idle below,
      fun im image thawed runs serves => ⟨fun unarmed unready => ?_, fun armed halted => ?_,
        fun fp id armed busy ready target unplanned committed settled => ⟨fun fenced => ?_, fun whole => ?_⟩⟩⟩⟩
  · rw [cyclicWindowBoundary_run on awake free begun]
    dsimp only
    cases idle : s.cyc.idle with
    | true => rfl
    | false =>
      rw [idle] at early
      rw [if_neg (by simp), if_pos (early.resolve_left (by simp))]
  · refine ⟨_, cyclicWindowBoundary_next on awake free begun runs ended unarmed next, ?_⟩
    generalize (if (nextWindow s.cyc.active (s.cyc.window + 1)).isSome then s.cyc.hyperStart
      else s.cyc.windowStart + 1000 * winLen s.cyc.active s.cyc.window) = hyper
    obtain ⟨cores, cyc, pair⟩ := s.enterWindow_shows w (s.cyc.windowStart + 1000 * winLen s.cyc.active s.cyc.window) hyper
    refine ⟨cores, by rw [cyc], by rw [cyc], by rw [cyc], by rw [cyc], fun k bound => ⟨fun granted => ?_, fun denied serving open_ => ?_⟩⟩
    · rw [pair k bound, if_neg (by simpa using granted)]
    · obtain ⟨run, suspends, saved⟩ := Pair.suspended_serving (y := s.pair k) serving open_
      rw [State.sess, pair k bound, if_pos denied]
      exact ⟨run, suspends, saved⟩
  · rw [partitionFreeze_run below image thawed runs serves, if_neg (by simp [unarmed]), unready]
  · obtain ⟨cores, hbm, -, part⟩ := s.freezeDone_shows p Config.stOk 1
    refine ⟨_, ?_, cores, hbm, ?_⟩
    · rw [partitionFreeze_run below image thawed runs serves, if_pos (by simp [armed, halted])]
    · rw [part]
      exact ⟨rfl, rfl, rfl⟩
  · have run := partitionFreeze_point below image thawed runs serves armed busy ready target unplanned committed
    dsimp only at run
    rw [if_pos fenced] at run
    have bulk := (s.writeX_bulk p (copyAt im (if (s.part p).fz.seq = 0 then 0 else 1 - (s.part p).fz.copy) + 4) (leBytes 4 1)).trans
      (State.saveCores_bulk _ p im (if (s.part p).fz.seq = 0 then 0 else 1 - (s.part p).fz.copy) true
        ((s.writeX p (copyAt im (if (s.part p).fz.seq = 0 then 0 else 1 - (s.part p).fz.copy) + 4) (leBytes 4 1)).imageCores p).zipIdx)
    generalize (((s.writeX p (copyAt im (if (s.part p).fz.seq = 0 then 0 else 1 - (s.part p).fz.copy) + 4) (leBytes 4 1)).imageCores p).zipIdx).foldl
      _ _ = t at run bulk
    obtain ⟨cores, -, -, part⟩ := t.freezeDone_shows p Config.stHbmFenced 0
    refine ⟨_, run, cores.trans bulk.wrote.cores, ?_⟩
    rw [part]
    refine ⟨?_, rfl, rfl, rfl, ?_, bulk.points p⟩
    · exact (bulk.lasts p).frozen.trans thawed
    · show (t.part p).fz.seq = _
      rw [(bulk.lasts p).fz]
  · obtain ⟨t, run, ⟨frozen, running, seq, beat⟩, unarmed, core⟩ :=
      partitionFreeze_saves below image thawed runs serves armed busy ready target unplanned committed settled whole
    refine ⟨t, run, frozen, running, unarmed, seq, beat, fun c mem => ?_, fun c out => ?_⟩
    · rw [core, if_pos mem]
      exact ⟨rfl, rfl, rfl⟩
    · rw [core, if_neg out]

end Sys2Proof.Machine
end

section
/-!
Partition commands that stage, read and arm (R356, R369, R372, R451, R456): their effect on the state that begins them.
-/

-- One proof after another: the stacks of proofs that wait for each other count against the check's memory limit.
set_option Elab.async false
namespace Sys2Proof.Machine

section
variable {f : Fn} {n : Nat} {s : State} {q : Slot}

/-! ## PART_CREATE and PART_CHANGE (R9, R356) -/

/-- A command that stages a value completes with nothing else changed. -/
theorem State.staged_completes (s : State) (f : Fn) (n : Nat) (q : Slot) (v : Staged) :
    let t := ((s.begun f n q).stage v).complete f n Config.stOk 0 []
    t.Completed f n Config.stOk [] ∧ t = { s with fns := t.fns, out := t.out, commit := t.commit } ∧ t.commit = (s.stage v).commit := by
  refine ⟨State.complete_completed .., ?_, State.complete_commit ..⟩
  rw [State.complete_frame]
  rfl

theorem partCreate_stages (h : s.Carries f n (isCmd 0x0100) q) (allowed : s.power.barred = false)
    (fresh : (s.part (Pr.part (q.payload.take 64))).geo.defined = false) (ok : (s.begun f n q).partRefusal (q.payload.take 64) = none) :
    exec (.partCreate f n) s = .next (((s.begun f n q).stage (.part (q.payload.take 64))).complete f n Config.stOk 0 []) := by
  show execPartCreate f n s = _
  rw [execPartCreate, command_carries h]
  have allowed' : (s.begun f n q).power.barred = false := allowed
  have fresh' : ((s.begun f n q).part (Pr.part (q.payload.take 64))).geo.defined = false := fresh
  dsimp only
  rw [allowed', fresh', ok]
  rfl
theorem partChange_stages (h : s.Carries f n (isCmd 0x0101) q) (own : Pr.part (q.payload.take 64) = q.part)
    (ok : (s.begun f n q).partRefusal (q.payload.take 64) = none) :
    exec (.partChange f n) s = .next (((s.begun f n q).stage (.part (q.payload.take 64))).complete f n Config.stOk 0 []) := by
  show execPartChange f n s = _
  rw [execPartChange, command_carries h]
  dsimp only
  rw [if_neg (by simp [own]), ok]

/-! ## JOB_STATUS and FAULT_QUERY -/

theorem Cells.any_insert {α : Type} {d : Nat → α} {P : Nat × α → Bool} {k : Nat} {v : α} (out : P (k, v) = false)
    (old : P (k, d k) = false) : ∀ {m : List (Nat × α)}, P (k, Cells.get d m k) = false → (Cells.insert m k v).any P = m.any P := by
  intro m
  induction m with
  | nil => intro _; simp [Cells.insert, out]
  | cons e r ih =>
    intro was
    unfold Cells.insert
    unfold Cells.get at was
    split
    · next same =>
      rw [if_pos same] at was
      have gone : P e = false := by rw [← was, same]
      simp [out, gone]
    · next other =>
      rw [if_neg other] at was
      split
      · simp [out]
      · rw [List.any_cons, List.any_cons, ih was]

/-- A command other than ADMIT that begins admits nothing. -/
theorem State.admitting_begun (slot : s.slot f n = q) (other : q.cmd ≠ 0x0200) (p : Nat) : (s.begun f n q).admitting p = s.admitting p := by
  unfold State.admitting
  refine congrArg (fun P => List.any allFns P) (funext fun g => ?_)
  unfold State.begun State.setSlot
  rw [State.fn_setFn]
  split
  · next key =>
    have same : s.fn g = s.fn f := by rw [State.fn, State.fn, key]
    rw [same]
    dsimp only
    unfold Cells.put
    rw [if_neg (by intro e; exact absurd (congrArg Slot.begun e) (by simp))]
    refine Cells.any_insert (d := fun _ => {}) (by simp [other]) (by simp) ?_
    have found : Cells.get (fun _ => {}) (s.fn f).slots n = q := slot
    rw [found]
    simp [other]
  · rfl
theorem State.jobStatusBytes_begun (slot : s.slot f n = q) (other : q.cmd ≠ 0x0200) (p : Nat) :
    (s.begun f n q).jobStatusBytes p = s.jobStatusBytes p := by
  have state : (s.begun f n q).state5 p = s.state5 p := by
    unfold State.state5 State.counts
    rw [State.admitting_begun slot other]
    rfl
  unfold State.jobStatusBytes
  rw [state]
  rfl

theorem jobStatus_answers (h : s.Carries f n (isCmd 0x0204) q) :
    exec (.jobStatus f n) s = .next ((s.begun f n q).complete f n Config.stOk 0 (s.jobStatusBytes q.part)) := by
  obtain ⟨slot, -⟩ := h.slot_eq
  show execJobStatus f n s = _
  have code : q.cmd = 0x0204 := by simpa [isCmd] using h.is
  rw [execJobStatus, command_carries h, State.jobStatusBytes_begun slot (by rw [code]; decide)]
theorem faultQuery_answers (h : s.Carries f n (isCmd 0x0F02) q) :
    exec (.faultQuery f n) s = .next ((s.begun f n q).complete f n Config.stOk 0 (s.part q.part).job.history.flatten) := by
  show execFaultQuery f n s = _
  rw [execFaultQuery, command_carries h]
  rfl
/-- An answer changes functions and what the module sends. -/
theorem State.answered_frame (s : State) (f : Fn) (n : Nat) (q : Slot) (st d : Nat) (r : List Byte) :
    let t := (s.begun f n q).complete f n st d r
    t = { s with fns := t.fns, out := t.out } := by
  dsimp only
  rw [State.complete_frame]
  rfl

/-! ## LEASE_BREAK (R402, R454, R456, R457) -/

end

/-- From `s` to `t` sessions of codec pairs have closed: only pairs, functions, what the module sends and the count of free values differ. -/
structure State.Closes (s t : State) : Prop where
  frame : t = { s with fns := t.fns, out := t.out, pairs := t.pairs, freeCtr := t.freeCtr }

section
variable {s t u : State}

theorem State.Closes.refl (s : State) : s.Closes s := ⟨rfl⟩
theorem State.Closes.trans (h : s.Closes t) (k : t.Closes u) : s.Closes u := ⟨by rw [k.frame, h.frame]⟩
theorem State.Closes.foldl {β : Type} {f : State → β → State} (h : ∀ (s : State) b, s.Closes (f s b)) (l : List β) (s : State) :
    s.Closes (l.foldl f s) := by
  induction l generalizing s with
  | nil => exact .refl s
  | cons b r ih => exact (h s b).trans (ih _)
theorem State.Closes.part (h : s.Closes t) (p : Nat) : t.part p = s.part p := by
  rw [h.frame]
  rfl
theorem State.completeIf_closes (s : State) (f : Fn) (n post st d : Nat) (r : List Byte) : s.Closes (s.completeIf f n post st d r) :=
  ⟨by rw [State.completeIf_frame]⟩
theorem State.updPair_closes (s : State) (k : Nat) (f : Pair → Pair) : s.Closes (s.updPair k f) := ⟨rfl⟩
theorem State.tick_closes (s : State) : s.Closes s.tick := ⟨rfl⟩
theorem State.updSess_closes (s : State) (k i : Nat) (f : Session → Session) : s.Closes (s.updSess k i f) := ⟨rfl⟩
theorem State.closeSession_closes (s : State) (k i st : Nat) : s.Closes (s.closeSession k i st) := by
  unfold State.closeSession
  extract_lets x s1 s2 s3
  split
  · exact .refl s
  · have submits : s.Closes s1 := .foldl (fun t e => t.completeIf_closes ..) _ s
    have closed : s.Closes s3 := (submits.trans (s1.updSess_closes ..)).trans (s2.updPair_closes ..)
    split
    · exact closed.trans (s3.completeIf_closes ..)
    · exact closed
theorem State.closeSessions_closes (s : State) (p st : Nat) : s.Closes (s.closeSessions p st) :=
  .foldl (fun t e => by
    split
    · exact t.closeSession_closes ..
    · exact .refl t) _ s
theorem State.revokePairs_closes (s : State) (p : Nat) : s.Closes (s.revokePairs p) := by
  unfold State.revokePairs
  refine .foldl (fun t k => ?_) _ s
  split
  · refine (State.Closes.trans (.foldl (fun u i => ?_) _ t) (State.updPair_closes _ _ _)).trans (State.tick_closes _)
    split
    · exact u.closeSession_closes ..
    · exact .refl u
  · exact .refl t
theorem State.dropCommands_frame (s : State) (old : Fn) (p : Nat) (own : Fn × Nat) :
    s.dropCommands old p own = { s with fns := (s.dropCommands old p own).fns } := by
  unfold State.dropCommands
  generalize (s.fn old).slots = l
  induction l generalizing s with
  | nil => rfl
  | cons e r ih =>
    rw [List.foldl_cons, ih]
    split <;> rfl
end

section
variable {f : Fn} {n : Nat} {s : State} {q : Slot}

/-- The state in which a partition has a new owner. -/
def State.reowned (s : State) (p owner : Nat) : State :=
  s.updPart p (fun x => { x with geo := { x.geo with owner := owner, ownGen := (x.geo.ownGen + 1) % 65536 } })

variable (h : s.Carries f n (isCmd 0x0F03) q)
include h

theorem leaseBreak_held (held : (s.begun f n q).leaseLeft (ownerFn (s.part q.part).geo) ≠ 0) : ∃ d, exec (.leaseBreak f n) s =
    .next ((s.begun f n q).complete f n Config.stLeaseHeld d []) := by
  refine ⟨max 1 ((s.begun f n q).leaseLeft (ownerFn (s.part q.part).geo) / 1000000), ?_⟩
  show execLeaseBreak f n s = _
  rw [execLeaseBreak, command_carries h]
  have held' : ((s.begun f n q).leaseLeft (ownerFn ((s.begun f n q).part q.part).geo) != 0) = true := by simpa using held
  dsimp only
  rw [if_pos held']
  rfl
theorem leaseBreak_breaks (expired : (s.begun f n q).leaseLeft (ownerFn (s.part q.part).geo) = 0) (reserved : fbits q.payload 0 31 5 = 0)
    (free : ((s.begun f n q).ownedBy (ownerFn { (s.part q.part).geo with owner := fbits q.payload 0 4 0 + 32 * f.port })).isSome = false) :
    ∃ pcie fns fw, exec (.leaseBreak f n) s = .next (({ (((s.begun f n q).revokePairs q.part).reowned q.part
      (fbits q.payload 0 4 0 + 32 * f.port)) with pcie := pcie, fns := fns, fw := fw } : State).complete f n Config.stOk 0 []) := by
  have expired' : ((s.begun f n q).leaseLeft (ownerFn ((s.begun f n q).part q.part).geo) != 0) = false := by simpa using expired
  have free' : ((s.begun f n q).ownedBy (ownerFn { ((s.begun f n q).part q.part).geo with
    owner := fbits q.payload 0 4 0 + 32 * f.port })).isSome = false := free
  have run : exec (.leaseBreak f n) s = execLeaseBreak f n s := rfl
  rw [run, execLeaseBreak, command_carries h]
  dsimp only
  rw [if_neg (by rw [expired']; exact Bool.false_ne_true), if_neg (by rw [free', reserved]; exact Bool.false_ne_true)]
  generalize (s.begun f n q).revokePairs q.part = t
  rw [State.jCmd, State.dropCommands_frame, State.reroute_frame, State.reroute_frame]
  exact ⟨_, _, _, rfl⟩
end

/-! ## FREEZE (R369) -/

section
variable {f : Fn} {n : Nat} {s : State} {q : Slot} {im : Image}

/-- A partition with a freeze armed for a command. -/
def Partition.freezeArmed (x : Partition) (at_ : Nat) (cmd : Fn × Nat × Nat) : Partition :=
  { x with fz := { x.fz with armed := true, at_ := at_, cmd := some cmd } }

theorem freeze_arms (h : s.Carries f n (isCmd 0x0F01) q) (image : (s.part q.part).image = some im) (thawed : (s.part q.part).job.frozen = false)
    (unarmed : (s.part q.part).fz.armed = false) (unasked : (s.part q.part).fz.cmd = none)
    (anywhere : fld q.payload 0 8 = 0 → tpModules im.bytes = 1)
    (ahead : fld q.payload 0 8 ≠ 0 → ∀ c, c ∈ s.imageCores q.part → (s.core c).seq.fpCount < fld q.payload 0 8) :
    exec (.freeze f n) s = .next ((s.begun f n q).updPart q.part (fun x => x.freezeArmed (fld q.payload 0 8) (f, n, q.postDtb))) := by
  have image' : ((s.begun f n q).part q.part).image = some im := image
  have unasked' : ((s.begun f n q).part q.part).fz.cmd = none := unasked
  have ok : (s.begun f n q).freezeRefusal q.part im (fld q.payload 0 8) = none := by
    have thawed' : ((s.begun f n q).part q.part).job.frozen = false := thawed
    have unarmed' : ((s.begun f n q).part q.part).fz.armed = false := unarmed
    have passed : (fld q.payload 0 8 != 0 && ((s.begun f n q).imageCores q.part).any
        (fun c => decide (fld q.payload 0 8 ≤ ((s.begun f n q).core c).seq.fpCount))) = false := by
      by_cases zero : fld q.payload 0 8 = 0
      · simp [zero]
      · have none_ : ((s.begun f n q).imageCores q.part).any (fun c => decide (fld q.payload 0 8 ≤ ((s.begun f n q).core c).seq.fpCount)) = false := by
          rw [List.any_eq_false]
          intro c mem
          have early := ahead zero c mem
          have same : ((s.begun f n q).core c).seq.fpCount = (s.core c).seq.fpCount := rfl
          rw [same]
          simpa using early
        rw [none_, Bool.and_false]
    unfold State.freezeRefusal
    dsimp only
    rw [if_neg (by rw [thawed']; exact Bool.false_ne_true), if_neg (by simpa using anywhere), if_neg (by rw [passed]; exact Bool.false_ne_true),
      if_neg (by rw [unarmed']; exact Bool.false_ne_true)]
  have run : exec (.freeze f n) s = execFreeze f n s := rfl
  rw [run, execFreeze, command_carries h]
  dsimp only
  rw [image']
  dsimp only
  rw [ok, unasked']
  rfl
end

/-! ## THAW (R372) -/

section
variable {s : State}

theorem State.thawCores_core (p : Nat) (im : Image) (copy : Nat) (selected : Bool) (l : List (Nat × Nat)) {d : Nat}
    (out : ∀ e ∈ l, e.1 ≠ d) : ∀ s : State, (l.foldl (fun s e => s.thawCore p im copy selected e.2 e.1) s).core d = s.core d := by
  induction l with
  | nil => exact fun _ => rfl
  | cons e r ih =>
    intro s
    rw [List.foldl_cons, ih fun a mem => out a (List.mem_cons_of_mem e mem)]
    have other : d ≠ e.1 := fun same => out e (List.mem_cons_self ..) same.symm
    exact State.core_setCore_other _ _ other
/-- A core read back changes cores and takes free values. -/
theorem State.thawCores_frame (p : Nat) (im : Image) (copy : Nat) (selected : Bool) (l : List (Nat × Nat)) : ∀ s : State,
    ∃ cores m, l.foldl (fun s e => s.thawCore p im copy selected e.2 e.1) s = { s with cores := cores, freeCtr := m } := by
  induction l with
  | nil => exact fun s => ⟨s.cores, s.freeCtr, rfl⟩
  | cons e r ih =>
    intro s
    obtain ⟨cores, m, frame⟩ := ih (s.thawCore p im copy selected e.2 e.1)
    rw [List.foldl_cons, frame]
    exact ⟨cores, m, rfl⟩

/-- Writes of patched words keep to their places. -/
theorem State.restorePatched_writes (p : Nat) (ws : List (Nat × List Byte)) : ∀ s : State,
    s.Writes (s.restorePatched p ws) (fun b => ∃ e ∈ ws, s.Within p e.1 e.2.length b) := by
  induction ws with
  | nil => exact fun s => .refl s _
  | cons e r ih =>
    intro s
    have first := s.storeAt_writes p 1 false e.1 e.2
    refine State.Writes.trans (first.mono fun b inside => ⟨e, List.mem_cons_self .., inside⟩) ?_
    refine (ih (s.writeP p e.1 e.2)).mono fun b ⟨a, mem, inside⟩ => ⟨a, List.mem_cons_of_mem e mem, ?_⟩
    rw [State.writeP, first.within] at inside
    exact inside

/-- The words that a copy's patches had changed. -/
def State.patchedOf (s : State) (p copy : Nat) : List (Nat × List Byte) :=
  (if copy = 0 then (s.part p).fz.saved0 else (s.part p).fz.saved1).patched

/-- The partition once its copy is back: the job's record changed, the freeze status ST_OK, the recovery state 0. -/
def State.thawed (s : State) (p : Nat) (j : JobState → JobState) : State :=
  ((s.updJob p j).updPart p (fun x => { x with fz := { x.fz with status := Config.stOk } })).updRcv p (fun r => { r with state := 0 })

theorem State.thawed_shows (s : State) (p : Nat) (j : JobState → JobState) :
    ((s.thawed p j).part p).job = j (s.part p).job ∧ ((s.thawed p j).part p).fz.status = Config.stOk ∧ 
    ∃ parts, s.thawed p j = { s with parts := parts } := by
  refine ⟨?_, ?_, _, rfl⟩
  · unfold State.thawed
    rw [State.part_updRcv_self, State.part_updPart_self, State.part_updJob_self]
  · unfold State.thawed
    rw [State.part_updRcv_self, State.part_updPart_self]

theorem State.thawFrom_thaws (s : State) (p : Nat) (im : Image) (copy : Nat) : ∃ s1 j, s.thawFrom p im copy = State.thawed s1 p j ∧
    s1 = (s.imageCores p).zipIdx.foldl (fun s' e => s'.thawCore p im copy (decide (fbits (s.copyHead p im copy) 40 6 6 = 1)) e.2 e.1)
      (s.restorePatched p (s.patchedOf p copy)) ∧ ∀ x, (j x).stopped = false :=
  ⟨_, _, rfl, rfl, fun _ => rfl⟩

theorem State.thawFrom_shows (p : Nat) (im : Image) (copy : Nat) :
    ((s.thawFrom p im copy).part p).job.stopped = false ∧ ((s.thawFrom p im copy).part p).fz.status = Config.stOk ∧
    (s.CachesOk → ∀ b, (∀ e ∈ s.patchedOf p copy, ¬ s.Within p e.1 e.2.length b) → (s.thawFrom p im copy).hb b = s.hb b) ∧
    ∀ d, d ∉ s.imageCores p → (s.thawFrom p im copy).core d = s.core d := by
  obtain ⟨s1, j, thaws, read, unstopped⟩ := s.thawFrom_thaws p im copy
  obtain ⟨job, status, parts, shown⟩ := s1.thawed_shows p j
  have patched : s.Writes (s.restorePatched p (s.patchedOf p copy)) (fun b => ∃ e ∈ s.patchedOf p copy, s.Within p e.1 e.2.length b) :=
    State.restorePatched_writes p _ s
  rw [thaws]
  refine ⟨job ▸ unstopped _, status, fun ok b out => ?_, fun d out => ?_⟩
  · obtain ⟨_, m, frame⟩ := State.thawCores_frame p im copy (decide (fbits (s.copyHead p im copy) 40 6 6 = 1)) (s.imageCores p).zipIdx
      (s.restorePatched p (s.patchedOf p copy))
    rw [← read] at frame
    have kept : (s1.thawed p j).hb b = s1.hb b := by rw [shown]; rfl
    have bytes : s1.hb b = (s.restorePatched p (s.patchedOf p copy)).hb b := by rw [frame]; rfl
    rw [kept, bytes]
    refine (patched.mem ok).2 b ?_
    rintro ⟨e, mem, inside⟩
    exact out e mem inside
  · have kept : (s1.thawed p j).core d = s1.core d := by rw [shown]; rfl
    rw [kept, read]
    refine (State.thawCores_core p im copy _ _ (fun e mem same => out ?_) _).trans (patched.core d)
    rw [← same]
    exact List.fst_mem_of_mem_zipIdx mem

/-- The check of a thaw reads the partition and the bytes of its two copies. -/
theorem State.thawCheck_congr {t : State} {p : Nat} (part : t.part p = s.part p) (hb : ∀ a, t.hb a = s.hb a) (im : Image) :
    t.thawCheck p im = s.thawCheck p im := by
  have head : ∀ c, t.copyHead p im c = s.copyHead p im c := fun c => by
    unfold State.copyHead
    rw [part, State.readX_congr hb]
  have best : t.bestCopy p im = s.bestCopy p im := by
    unfold State.bestCopy
    rw [head, head]
  unfold State.thawCheck
  simp only [part, best, head]

theorem thaw_runs {f : Fn} {n c : Nat} {q : Slot} {im : Image} (h : s.Carries f n (isCmd 0x0207) q) (image : (s.part q.part).image = some im)
    (ok : s.thawCheck q.part im = .ok c) :
    exec (.thaw f n) s = .next (((s.begun f n q).thawFrom q.part im c).complete f n Config.stOk 0 []) := by
  have image' : ((s.begun f n q).part q.part).image = some im := image
  have ok' : (s.begun f n q).thawCheck q.part im = .ok c := (State.thawCheck_congr (State.begun_part ..) (fun _ => State.begun_hb ..) im).trans ok
  have run : exec (.thaw f n) s = execThaw f n s := rfl
  rw [run, execThaw, command_carries h]
  dsimp only
  rw [image']
  dsimp only
  rw [ok']
end

end Sys2Proof.Machine
end

section
/-!
PART_RESET, PART_DESTROY and STOP: their cores stop or are reset, and what the partition held goes (R356, R450, R451, R460, R470).
-/

-- One proof after another: the stacks of proofs that wait for each other count against the check's memory limit.
set_option Elab.async false
namespace Sys2Proof.Machine

/-! ## What revoking and clearing leave alone -/

/-- From `s` to `t` leases, messages and sessions have gone and memory has been written: no core, no staged value and nothing of the
supply differs. -/
structure State.Sweeps (s t : State) : Prop where
  frame : t = { s with hbm := t.hbm, shelves := t.shelves, watches := t.watches, parts := t.parts, fns := t.fns, out := t.out,
                       ports := t.ports, chans := t.chans, groups := t.groups, msgs := t.msgs, pairs := t.pairs, freeCtr := t.freeCtr }

section
variable {s t u : State}

theorem State.Sweeps.refl (s : State) : s.Sweeps s := ⟨rfl⟩
theorem State.Sweeps.trans (h : s.Sweeps t) (k : t.Sweeps u) : s.Sweeps u := ⟨by rw [k.frame, h.frame]⟩
theorem State.Sweeps.foldl {β : Type} {f : State → β → State} (h : ∀ (s : State) b, s.Sweeps (f s b)) (l : List β) (s : State) :
    s.Sweeps (l.foldl f s) := by
  induction l generalizing s with
  | nil => exact .refl s
  | cons b r ih => exact (h s b).trans (ih _)
theorem State.Wrote.sweeps (h : s.Wrote t) : s.Sweeps t := ⟨by rw [h.frame]⟩
theorem State.Ends.sweeps (h : s.Ends t) : s.Sweeps t := ⟨by rw [h.frame]⟩
theorem State.Closes.sweeps (h : s.Closes t) : s.Sweeps t := ⟨by rw [h.frame]⟩
theorem State.Sweeps.core (h : s.Sweeps t) (c : Nat) : t.core c = s.core c := by
  rw [h.frame]
  rfl
theorem State.Sweeps.power (h : s.Sweeps t) : t.power = s.power := by rw [h.frame]
theorem State.Sweeps.commit (h : s.Sweeps t) : t.commit = s.commit := by rw [h.frame]

theorem State.updPart_sweeps (s : State) (p : Nat) (f : Partition → Partition) : s.Sweeps (s.updPart p f) := ⟨rfl⟩
theorem State.updShelf_sweeps (s : State) (k : Nat) (f : Shelf → Shelf) : s.Sweeps (s.updShelf k f) := ⟨rfl⟩
theorem State.updChan_sweeps (s : State) (v : Nat) (f : Channel → Channel) : s.Sweeps (s.updChan v f) := ⟨rfl⟩
theorem State.updPort_sweeps (s : State) (k : Nat) (f : Port → Port) : s.Sweeps (s.updPort k f) := ⟨rfl⟩
theorem State.updGrp_sweeps (s : State) (p g : Nat) (f : GroupState → GroupState) : s.Sweeps (s.updGrp p g f) := ⟨rfl⟩
theorem State.setGrp_sweeps (s : State) (p g : Nat) (x : GroupState) : s.Sweeps (s.setGrp p g x) := ⟨rfl⟩
theorem State.sendMsg_sweeps (s : State) (k vc b : Nat) (m : List Byte) : s.Sweeps (s.sendMsg k vc b m) := ⟨rfl⟩

theorem State.updCounter_sweeps (s : State) (p n : Nat) (f : Counter → Counter) : s.Sweeps (s.updCounter p n f) := ⟨rfl⟩
theorem State.putLedger_sweeps (s : State) (p : Nat) (im : Image) (n idx v : Nat) : s.Sweeps (s.putLedger p im n idx v) := by
  unfold State.putLedger
  exact ((s.writeP_wrote ..).trans (State.answer_wrote _)).sweeps
theorem State.revoke_sweeps (s : State) (p : Nat) (im : Image) (n idx core tok : Nat) : s.Sweeps (s.revoke p im n idx core tok) := by
  unfold State.revoke
  split
  · exact .refl s
  · exact (s.updCounter_sweeps ..).trans (State.putLedger_sweeps ..)
theorem State.revokeClaims_sweeps (s : State) (p : Nat) : s.Sweeps (s.revokeClaims p) := by
  unfold State.revokeClaims
  split
  · exact .refl s
  · exact .foldl (fun t n => (State.Sweeps.foldl (fun u e => u.revoke_sweeps ..) _ t).trans (State.updCounter_sweeps ..)) _ s
theorem State.tell_sweeps (s : State) (p : Nat) : s.Sweeps (s.tell p) := by
  unfold State.tell
  split
  · exact .foldl (fun t k => t.sendMsg_sweeps ..) _ s
  · exact .refl s
theorem State.revokeChans_sweeps (s : State) (p : Nat) : s.Sweeps (s.revokeChans p) := by
  unfold State.revokeChans
  split
  · exact .refl s
  · exact (State.Sweeps.foldl (fun t k => t.updPort_sweeps ..) _ s).trans (State.tell_sweeps ..)
theorem State.zeroRecords_sweeps (s : State) (p k : Nat) : s.Sweeps (s.zeroRecords p k) := by
  have found : ∀ (t : State) (o : Option Region) (a : Region → Nat) (bs : Region → List Byte),
      t.Sweeps (match o with | some g => t.storeF p (a g) (bs g) | none => t) := fun t o a bs => by
    cases o with
    | none => exact .refl t
    | some g => exact (t.storeF_wrote ..).sweeps
  unfold State.zeroRecords
  dsimp only
  refine State.Sweeps.trans (.foldl ?_ _ s) (.foldl ?_ _ _)
  · exact fun t o => found t _ (fun g => g.recAt o.2) (fun _ => leBytes 64 0)
  · exact fun t o => found t _ (fun g => g.ordAt o.2.1) (fun g => leBytes (16 + 4 * g.expect) 0)
theorem State.zeroBanks_sweeps (s : State) (p g : Nat) : s.Sweeps (s.zeroBanks p g) := by
  unfold State.zeroBanks
  split
  · exact .refl s
  · split
    · exact .refl s
    · split
      · exact .refl s
      · split
        · exact .refl s
        · exact (s.storeX_wrote ..).sweeps
theorem State.clearPart_sweeps (s : State) (p : Nat) : s.Sweeps (s.clearPart p) := by
  unfold State.clearPart
  extract_lets chans s0 s1 s2 s3
  have records : s.Sweeps s0 := .foldl (fun t k => t.zeroRecords_sweeps p k) _ s
  have shelves : s0.Sweeps s1 := .foldl (fun t k => t.updShelf_sweeps ..) _ s0
  have channels : s1.Sweeps s2 := .foldl (fun t v => t.updChan_sweeps ..) _ s1
  have banks : s2.Sweeps s3 := .foldl (fun t g => by
    split
    · exact .refl t
    · exact (t.zeroBanks_sweeps p g).trans (State.updGrp_sweeps ..)) _ s2
  have cleared : s.Sweeps s3 := ((records.trans shelves).trans channels).trans banks
  clear_value s3
  exact cleared.trans ⟨rfl⟩
theorem State.endPending_sweeps (s : State) (p st : Nat) : s.Sweeps (s.endPending p st) := by
  unfold State.endPending
  extract_lets j qs s1 s2 s3 s4
  have requests : s.Sweeps s2 := (State.Ends.foldl (fun t q => t.completeIf_ends ..) _ s).sweeps.trans (State.updPart_sweeps ..)
  have freeze : s2.Sweeps s3 := by
    unfold s3
    split
    · exact (s2.completeIf_ends ..).sweeps
    · exact .refl s2
  exact ((requests.trans freeze).trans (s3.updPart_sweeps ..)).trans (s4.endLoad_ends ..).sweeps

/-- What lets a partition go on: its claims, channel state, lock leases and codec pairs are revoked. -/
def State.revokeAll (s : State) (p : Nat) : State := (((s.revokeClaims p).revokeChans p).revokeLocks p).revokePairs p
theorem State.revokeAll_sweeps (s : State) (p : Nat) : s.Sweeps (s.revokeAll p) :=
  (((s.revokeClaims_sweeps p).trans (State.revokeChans_sweeps ..)).trans (State.updPart_sweeps ..)).trans (State.revokePairs_closes ..).sweeps
theorem State.revokeAll_lasts (s : State) (p : Nat) : s.PartsLast (s.revokeAll p) :=
  (((s.revokeClaims_lasts p).trans (.of_parts (State.revokeChans_parts _ p))).trans (State.revokeLocks_lasts _ p)).trans
    fun r => by
      unfold State.revokeAll
      rw [(State.revokePairs_closes _ p).part]
      exact .refl _

/-! ## Retiring an image (R249) -/

theorem State.endImages_idle {c : Nat} (l : List Nat) : ∀ s : State, (s.core c).seq.run = 0 →
    ((l.foldl (fun s d => s.updCore d Core.endImage) s).core c).seq.run = 0 := by
  induction l with
  | nil => exact fun _ idle => idle
  | cons d r ih =>
    intro s idle
    refine ih (s.updCore d Core.endImage) ?_
    rw [State.updCore, State.core_setCore]
    split
    · rfl
    · exact idle
/-- An image that retires leaves an idle core idle. -/
theorem State.retireImage_idle (settled : s.commit.waiting = []) {c : Nat} (idle : (s.core c).seq.run = 0) (p st : Nat) :
    ((s.retireImage p st).core c).seq.run = 0 := by
  unfold State.retireImage
  split
  · exact idle
  · extract_lets s1 s2 s3 s4 s5
    have cleared : s.Sweeps s1 := ((s.endPending_sweeps p st).trans (State.closeSessions_closes ..).sweeps).trans (State.clearPart_sweeps ..)
    have ended : (s2.core c).seq.run = 0 ∧ s2.commit = s1.commit := by
      refine ⟨State.endImages_idle _ s1 ?_, foldl_keeps State.commit (fun _ _ => by rfl) _ s1⟩
      rw [cleared.core]
      exact idle
    have freed : s2.Sweeps s5 := ((State.Sweeps.foldl (fun t v => t.updChan_sweeps ..) _ s2).trans
      (.foldl (fun t g => t.setGrp_sweeps ..) _ s3)).trans (.foldl (fun t k => t.updShelf_sweeps ..) _ s4)
    clear_value s5
    rw [State.releaseUnits_of_none (by rw [State.updPart_commit, freed.commit, ended.2, cleared.commit]; exact settled)]
    exact (congrArg (fun k => k.seq.run) ((State.updPart_sweeps s5 p _).core c |>.trans (freed.core c))).trans ended.1

/-- An image that retires leaves a partition without one, not running. -/
theorem State.retireImage_halts (p st : Nat) (halted : (s.part p).job.running = false) :
    ((s.retireImage p st).part p).image = none ∧ ((s.retireImage p st).part p).job.running = false := by
  cases image : (s.part p).image with
  | none =>
    unfold State.retireImage
    rw [image]
    exact ⟨image, halted⟩
  | some im =>
    refine ⟨(State.retireImage_retires image st).1, ?_⟩
    unfold State.retireImage
    rw [image]
    dsimp only
    generalize List.foldl (fun s c => State.updCore s c Core.endImage) _ _ = s2
    refine (congrArg (fun x => x.job.running) (State.releaseUnits_body _ p)).trans ?_
    rw [State.partBody, State.part_updPart_self]

/-! ## PART_RESET (R470) -/

theorem State.stopCores_halts (s : State) (p : Nat) : ((s.stopCores p).part p).job.running = false := by
  unfold State.stopCores
  refine (congrArg (fun x => x.job.running) (State.releaseUnits_body _ p)).trans ?_
  rw [State.partBody, State.part_updJob_self]
theorem State.resetPartCores_parts (s : State) (p : Nat) : (s.resetPartCores p).parts = s.parts := by
  unfold State.resetPartCores
  split
  · rfl
  · exact foldl_keeps State.parts (fun t c => t.resetCore_parts c) _ s
theorem State.resetPartCores_part (s : State) (p r : Nat) : (s.resetPartCores p).part r = s.part r := by
  rw [State.part, State.part, State.resetPartCores_parts]
theorem State.offCounters_waiting : State.OffCounters (fun s => s.commit.waiting) :=
  ⟨fun _ _ _ _ _ => rfl, fun _ _ _ _ _ => rfl, fun _ _ _ _ => rfl⟩
theorem State.resetCore_waiting (s : State) (c : Nat) : (s.resetCore c).commit.waiting = s.commit.waiting := by
  unfold State.resetCore
  dsimp only
  rw [State.clearStamps_commit]
  exact State.offCounters_waiting.count s _
/-- Above Frost every core of the partition is idle after the reset. -/
theorem State.resetPartCores_idle (above : s.power.state < 2) {p c : Nat} (own : c ∈ geoCores (s.part p).geo) :
    ((s.resetPartCores p).core c).seq.run = 0 ∧ (s.resetPartCores p).commit.waiting = s.commit.waiting := by
  have idles : ∀ (t : State) d, ((t.resetCore d).core d).seq.run = 0 := fun t d => by
    rw [State.resetCore_core, if_pos rfl]
    exact (Core.afterReset_reads ..).1
  unfold State.resetPartCores
  rw [if_neg (by omega)]
  refine ⟨foldl_settles (P := fun d t => (State.core t d).seq.run = 0) idles (fun t b d idle => ?_) c _ s (.inl own),
    foldl_keeps (fun t : State => t.commit.waiting) (fun t d => t.resetCore_waiting d) _ s⟩
  by_cases same : d = b
  · rw [same]; exact idles t b
  · rw [State.resetCore_core, if_neg same]; exact idle

/-- The state in which a partition is stopped and its cores are reset. -/
def State.partReset (s : State) (p : Nat) : State :=
  ((((s.stopCores p).revokeAll p).clearPart p).resetPartCores p).closeSessions p Config.stSessionState

theorem State.partReset_halts (s : State) (p : Nat) : ((s.partReset p).part p).job.running = false := by
  have lasts := ((s.stopCores p).revokeAll_lasts p).trans (State.clearPart_lasts _ p) p
  obtain ⟨more, job⟩ := lasts.job
  unfold State.partReset
  rw [(State.closeSessions_closes ..).part, State.resetPartCores_part, job]
  exact s.stopCores_halts p
theorem State.partReset_idle (settled : s.commit.waiting = []) (above : s.power.state < 2) {p c : Nat} (own : c ∈ geoCores (s.part p).geo) :
    ((s.partReset p).core c).seq.run = 0 ∧ (s.partReset p).commit.waiting = [] := by
  have swept := ((s.stopCores p).revokeAll_sweeps p).trans (State.clearPart_sweeps _ p)
  have lasts := ((s.stopCores p).revokeAll_lasts p).trans (State.clearPart_lasts _ p) p
  unfold State.partReset
  generalize (((s.stopCores p).revokeAll p).clearPart p) = t at swept lasts
  have geo : (t.part p).geo = (s.part p).geo := by
    obtain ⟨_, _, _, _, same⟩ := lasts
    rw [same, State.stopCores_part settled]
  have power : t.power = s.power := by
    rw [swept.power, State.stopCores_frame settled]
    rfl
  have waiting : t.commit.waiting = [] := by
    rw [swept.commit, State.stopCores_frame settled]
    exact settled
  obtain ⟨idle, kept⟩ := State.resetPartCores_idle (s := t) (by rw [power]; exact above) (by rw [geo]; exact own)
  have closes := State.closeSessions_closes (t.resetPartCores p) p Config.stSessionState
  rw [closes.sweeps.core, closes.sweeps.commit, kept]
  exact ⟨idle, waiting⟩
end

section
variable {f : Fn} {n : Nat} {s : State} {q : Slot}

/-- The state with nothing staged. -/
def State.unstaged (s : State) : State := { s with commit := { s.commit with staged := [] } }
theorem State.unstaged_part (s : State) (p : Nat) : s.unstaged.part p = s.part p := rfl
theorem State.unstaged_core (s : State) (c : Nat) : s.unstaged.core c = s.core c := rfl
theorem State.unstaged_waiting (s : State) : s.unstaged.commit.waiting = s.commit.waiting := rfl

theorem partReset_runs (h : s.Carries f n (isCmd 0x0208) q) : exec (.partReset f n) s =
    .next ((((((s.begun f n q).partReset q.part).unstaged).retireImage q.part Config.stAbortedReset).jDo f q).complete f n Config.stOk 0 []) := by
  have run : exec (.partReset f n) s = execPartReset f n s := rfl
  rw [run, execPartReset, command_carries h]
  unfold State.partReset State.revokeAll State.unstaged
  rfl
theorem partReset_resets (h : s.Carries f n (isCmd 0x0208) q) : ∃ t, exec (.partReset f n) s = .next t ∧
    t.Completed f n Config.stOk [] ∧ (t.part q.part).image = none ∧ (t.part q.part).job.running = false ∧
    (s.power.state < 2 → s.commit.waiting = [] → ∀ c, c ∈ geoCores (s.part q.part).geo → (t.core c).seq.run = 0) := by
  have halted : (((s.begun f n q).partReset q.part).unstaged.part q.part).job.running = false := by
    rw [State.unstaged_part]
    exact (s.begun f n q).partReset_halts q.part
  obtain ⟨image, running⟩ := State.retireImage_halts q.part Config.stAbortedReset halted
  refine ⟨_, partReset_runs h, State.complete_completed .., ?_, ?_, fun above settled c own => ?_⟩
  · rw [State.complete_part, State.jDo_part]
    exact image
  · rw [State.complete_part, State.jDo_part]
    exact running
  · obtain ⟨idle, waiting⟩ := State.partReset_idle (s := s.begun f n q) settled above own
    rw [State.complete_core, State.jDo_core]
    refine State.retireImage_idle ?_ ?_ ..
    · rw [State.unstaged_waiting]
      exact waiting
    · rw [State.unstaged_core]
      exact idle
end

end Sys2Proof.Machine
end

section
/-!
PART_DESTROY, STOP and the settling of what partition commands do (R356, R369, R372, R450, R451, R454, R456, R457, R470).
-/

-- One proof after another: the stacks of proofs that wait for each other count against the check's memory limit.
set_option Elab.async false
namespace Sys2Proof.Machine

/-! ## PART_DESTROY (R356) -/

/-- A partition that is removed is undefined and without an image, under a new ownership generation. -/
theorem State.removePart_part (s : State) (p st : Nat) : ((s.removePart p st).part p).geo = { ownGen := ((s.part p).geo.ownGen + 1) % 65536 } ∧
    ((s.removePart p st).part p).image = none := by
  unfold State.removePart
  extract_lets s1 s2
  rw [State.part_setPart_self]
  exact ⟨rfl, rfl⟩

section
variable {f : Fn} {n : Nat} {s : State} {q : Slot}

theorem partDestroy_runs (h : s.Carries f n (isCmd 0x0102) q) (idle : (s.begun f n q).counts q.part = false) :
    ∃ fw commit, exec (.partDestroy f n) s = .next (({ (s.begun f n q).removePart q.part Config.stNoImage with
      fw := fw, commit := commit } : State).complete f n Config.stOk 0 []) := by
  have run : exec (.partDestroy f n) s = execPartDestroy f n s := rfl
  rw [run, execPartDestroy, command_carries h]
  dsimp only
  rw [if_neg (by rw [idle]; exact Bool.false_ne_true)]
  generalize (s.begun f n q).removePart q.part Config.stNoImage = t
  exact ⟨_, _, rfl⟩
theorem partDestroy_removes (h : s.Carries f n (isCmd 0x0102) q) (idle : (s.begun f n q).counts q.part = false) :
    ∃ t, exec (.partDestroy f n) s = .next t ∧ t.Completed f n Config.stOk [] ∧ (t.part q.part).geo.defined = false ∧
      (t.part q.part).image = none ∧ (t.part q.part).geo.ownGen = ((s.part q.part).geo.ownGen + 1) % 65536 := by
  obtain ⟨fw, commit, run⟩ := partDestroy_runs h idle
  obtain ⟨geo, image⟩ := (s.begun f n q).removePart_part q.part Config.stNoImage
  generalize (s.begun f n q).removePart q.part Config.stNoImage = t at run geo image
  have part : ∀ st d r, ((({ t with fw := fw, commit := commit } : State).complete f n st d r).part q.part) = t.part q.part := fun _ _ _ => by
    rw [State.complete_part]
    rfl
  refine ⟨_, run, State.complete_completed .., ?_, ?_, ?_⟩
  · rw [part, geo]
  · rw [part, image]
  · rw [part, geo]
    rfl
end

/-! ## STOP (R451) -/

/-- Going back to a point leaves the partition stopped, with the faults it had. -/
theorem State.rollTo_job {s : State} (settled : s.commit.waiting = []) (p : Nat) (im : Image) (q : RecPoint) :
    ((s.rollTo p im q).part p).job.stopped = (s.part p).image.isSome ∧
    ((s.rollTo p im q).part p).job.history = (s.part p).job.history := by
  unfold State.rollTo
  extract_lets newer s1 s2 s3 s4 other s5 sv s6 s7
  have revoked : (s.stopCores p).PartsLast s1 :=
    (((s.stopCores p).revokeClaims_lasts p).trans (.of_parts (State.revokeChans_parts _ p))).trans (State.revokeLocks_lasts _ p)
  have cleared : s1.PartsLast s2 := (s1.clearPart_lasts p).trans (.of_parts (State.setMarks_parts _ p q))
  have reset : s2.PartsLast s3 := .foldl (fun t c => .of_parts (t.resetCore_parts c)) _ s2
  have restored : s3.PartsLast s4 := (((s3.unland_lasts p _).trans (State.restoreCalf_lasts _ p newer)).trans
    (State.unland_lasts _ p _)).trans (.of_parts rfl)
  have marked : s4.PartsLast s5 := by
    unfold s5
    split
    · exact .refl s4
    · exact s4.writeX_lasts _ _ _
  have stopped : s6.parts = s5.parts := foldl_keeps State.parts (fun _ _ => by rfl) _ s5
  have lasts := ((((revoked.trans cleared).trans reset).trans restored).trans marked).trans (.of_parts stopped) p
  rw [State.stopCores_part settled] at lasts
  obtain ⟨more, job⟩ := lasts.job
  have halted : (s6.part p).job.stopped = (s.part p).image.isSome := by rw [job]
  have faults : (s6.part p).job.history = (s.part p).job.history := by rw [job]
  rw [(s7.ckptPlan_part p im 1).2.1]
  unfold s7
  rw [State.part_updPart_self]
  exact ⟨halted, faults⟩

/-- The state in which a partition's cores are stopped with no cause shown. -/
def State.halted (s : State) (p : Nat) : State :=
  (geoCores (s.part p).geo).foldl (fun s c => s.updSeq c (fun r => { r with cause := 0 })) (s.stopCores p)

theorem State.halted_shows {s : State} (settled : s.commit.waiting = []) (p : Nat) :
    (s.halted p).part p = { s.part p with job := { (s.part p).job with stopped := (s.part p).image.isSome, running := false } } ∧
    (s.halted p).commit.waiting = [] ∧
    ∀ c, c ∈ geoCores (s.part p).geo → ((s.halted p).core c).seq.run = 5 ∧ ((s.halted p).core c).seq.cause = 0 := by
  have run : ∀ c, c ∈ geoCores (s.part p).geo → ((s.stopCores p).core c).seq.run = 5 := fun c own => State.stopCores_run settled own
  have part := State.stopCores_part settled p
  have waiting : (s.stopCores p).commit.waiting = [] := by
    rw [State.stopCores_frame settled]
    exact settled
  unfold State.halted
  generalize s.stopCores p = t at run part waiting ⊢
  have frame := foldl_coresOnly (f := fun s c => State.updSeq s c (fun r => { r with cause := 0 })) (fun _ _ => by rfl)
    (geoCores (s.part p).geo) t
  refine ⟨?_, ?_, fun c own => ?_⟩
  · rw [frame]
    exact part
  · rw [frame]
    exact waiting
  · rw [foldl_updSeq_idem (f := fun r => { r with cause := 0 }) (fun _ => rfl), if_pos own]
    exact ⟨run c own, rfl⟩

section
variable {f : Fn} {n : Nat} {s : State} {q : Slot} {im : Image}

theorem stop_runs (h : s.Carries f n (isCmd 0x0F00) q) (image : (s.part q.part).image = some im) : exec (.stop f n) s =
    .next (((match (((s.begun f n q).halted q.part).part q.part).rcv.points.getLast? with
      | some t => ((s.begun f n q).halted q.part).rollTo q.part im t
      | none => (s.begun f n q).halted q.part).updRcv q.part (fun r => { r with state := 1 })).complete f n Config.stOk 0 []) := by
  have image' : ((s.begun f n q).part q.part).image = some im := image
  have run : exec (.stop f n) s = execStop f n s := rfl
  rw [run, execStop, command_carries h]
  dsimp only
  rw [image']
  rfl

theorem stop_stops (h : s.Carries f n (isCmd 0x0F00) q) (admitted : (s.part q.part).image.isSome = true) (settled : s.commit.waiting = []) :
    ∃ t, exec (.stop f n) s = .next t ∧ t.Completed f n Config.stOk [] ∧ (t.part q.part).rcv.state = 1 ∧
      (t.part q.part).job.stopped = true ∧ (t.part q.part).job.running = false ∧ (t.part q.part).job.history = (s.part q.part).job.history ∧
      ((s.part q.part).rcv.points = [] → ∀ c, c ∈ geoCores (s.part q.part).geo → (t.core c).seq.run = 5 ∧ (t.core c).seq.cause = 0) ∧
      ((s.part q.part).rcv.points ≠ [] → (t.part q.part).job.frozen = true) := by
  obtain ⟨im, image⟩ := Option.isSome_iff_exists.1 admitted
  obtain ⟨part, waiting, stops⟩ := State.halted_shows (s := s.begun f n q) settled q.part
  have run := stop_runs h image
  rw [State.begun_part] at part stops
  generalize (s.begun f n q).halted q.part = u at run part waiting stops
  have points : (u.part q.part).rcv.points = (s.part q.part).rcv.points := by rw [part]
  rw [points] at run
  have core : ∀ (v : State) c, ((v.updRcv q.part (fun r => { r with state := 1 })).complete f n Config.stOk 0 []).core c = v.core c :=
    fun v c => by rw [State.complete_core]; rfl
  have ended : ∀ v : State, (((v.updRcv q.part (fun r => { r with state := 1 })).complete f n Config.stOk 0 []).part q.part).rcv.state = 1 ∧
      (((v.updRcv q.part (fun r => { r with state := 1 })).complete f n Config.stOk 0 []).part q.part).job = (v.part q.part).job := fun v => by
    rw [State.complete_part, State.part_updRcv_self]
    exact ⟨rfl, rfl⟩
  cases last : (s.part q.part).rcv.points.getLast? with
  | none =>
    have empty := List.getLast?_eq_none_iff.1 last
    rw [last] at run
    obtain ⟨state, job⟩ := ended u
    refine ⟨_, run, State.complete_completed .., state, ?_, ?_, ?_, fun _ c own => ?_, fun some => absurd empty some⟩
    · rw [job, part]
      exact admitted
    · rw [job, part]
    · rw [job, part]
    · rw [core]
      exact stops c own
  | some pt =>
    have some : (s.part q.part).rcv.points ≠ [] := fun empty => by rw [empty] at last; cases last
    rw [last] at run
    obtain ⟨state, job⟩ := ended (u.rollTo q.part im pt)
    obtain ⟨stopped, history⟩ := State.rollTo_job waiting q.part im pt
    obtain ⟨-, -, frozen, running, -⟩ := State.rollTo_part waiting q.part im pt
    refine ⟨_, run, State.complete_completed .., state, ?_, ?_, ?_, fun empty => absurd empty some, fun _ => ?_⟩
    · rw [job, stopped, part]
      exact admitted
    · rw [job, running]
    · rw [job, history, part]
    · rw [job, frozen]
end

/-! ## LEASE_BREAK, FREEZE and THAW -/

section
variable {f : Fn} {n : Nat} {s : State} {q : Slot}

theorem leaseBreak_moves (h : s.Carries f n (isCmd 0x0F03) q)
    (expired : (s.begun f n q).leaseLeft (ownerFn (s.part q.part).geo) = 0) (reserved : fbits q.payload 0 31 5 = 0)
    (free : ((s.begun f n q).ownedBy (ownerFn { (s.part q.part).geo with owner := fbits q.payload 0 4 0 + 32 * f.port })).isSome = false) :
    ∃ t, exec (.leaseBreak f n) s = .next t ∧ t.Completed f n Config.stOk [] ∧
      (t.part q.part).geo.owner = fbits q.payload 0 4 0 + 32 * f.port ∧
      (t.part q.part).geo.ownGen = ((s.part q.part).geo.ownGen + 1) % 65536 ∧ (t.part q.part).image = (s.part q.part).image ∧
      t.cores = s.cores ∧ t.hbm = s.hbm := by
  obtain ⟨pcie, fns, fw, run⟩ := leaseBreak_breaks h expired reserved free
  have closes := State.revokePairs_closes (s.begun f n q) q.part
  have was := closes.part q.part
  have cores : ((s.begun f n q).revokePairs q.part).cores = s.cores := by rw [closes.frame]; rfl
  have hbm : ((s.begun f n q).revokePairs q.part).hbm = s.hbm := by rw [closes.frame]; rfl
  rw [State.begun_part] at was
  generalize (s.begun f n q).revokePairs q.part = u at run was cores hbm
  generalize fbits q.payload 0 4 0 + 32 * f.port = own at run ⊢
  have moved : (u.reowned q.part own).part q.part =
      { s.part q.part with geo := { (s.part q.part).geo with owner := own, ownGen := ((s.part q.part).geo.ownGen + 1) % 65536 } } := by
    rw [State.reowned, State.part_updPart_self, was]
  have part : ∀ st d r, ((({ u.reowned q.part own with pcie := pcie, fns := fns, fw := fw } : State).complete f n st d r).part q.part) =
      { s.part q.part with geo := { (s.part q.part).geo with owner := own, ownGen := ((s.part q.part).geo.ownGen + 1) % 65536 } } :=
    fun _ _ _ => by
      rw [State.complete_part]
      exact moved
  refine ⟨_, run, State.complete_completed .., ?_, ?_, ?_, ?_, ?_⟩
  · rw [part]
  · rw [part]
  · rw [part]
  · rw [State.complete_cores]
    exact cores
  · rw [State.complete_hbm]
    exact hbm

theorem freeze_waits (h : s.Carries f n (isCmd 0x0F01) q) (at_ : Nat) :
    let t := (s.begun f n q).updPart q.part (fun x => x.freezeArmed at_ (f, n, q.postDtb))
    t.Waits f n ∧ t = { s with fns := t.fns, parts := t.parts } ∧ (t.part q.part).fz.armed = true ∧ (t.part q.part).fz.at_ = at_ ∧
      (t.part q.part).fz.cmd = some (f, n, q.postDtb) := by
  obtain ⟨-, post, ack, done, -⟩ := h.slot_eq
  dsimp only
  have slot : ((s.begun f n q).updPart q.part (fun x => x.freezeArmed at_ (f, n, q.postDtb))).slot f n = { q with begun := true } :=
    State.begun_slot ..
  refine ⟨⟨?_, ?_, ?_, ?_⟩, rfl, ?_⟩
  · rw [slot]; exact post
  · rw [slot]; exact ack
  · rw [slot]
  · rw [slot]; exact done
  · rw [State.part_updPart_self]
    exact ⟨rfl, rfl, rfl⟩

theorem thaw_thaws {c : Nat} {im : Image} (h : s.Carries f n (isCmd 0x0207) q) (image : (s.part q.part).image = some im)
    (ok : s.thawCheck q.part im = .ok c) : ∃ t, exec (.thaw f n) s = .next t ∧ t.Completed f n Config.stOk [] ∧
      (t.part q.part).job.running = true ∧ (t.part q.part).job.frozen = false ∧ (t.part q.part).job.stopped = false ∧
      (s.CachesOk → ∀ b, (∀ e, e ∈ s.patchedOf q.part c → ¬ s.Within q.part e.1 e.2.length b) → t.hb b = s.hb b) ∧
      (t.part q.part).fz.status = Config.stOk ∧ ∀ d, d ∉ s.imageCores q.part → t.core d = s.core d := by
  obtain ⟨stopped, status, hb, core⟩ := State.thawFrom_shows (s := s.begun f n q) q.part im c
  obtain ⟨-, -, -, running, frozen, -⟩ := (s.begun f n q).thawFrom_part q.part im c
  have run := thaw_runs h image ok
  generalize (s.begun f n q).thawFrom q.part im c = t at run stopped status hb core running frozen
  refine ⟨_, run, State.complete_completed .., ?_, ?_, ?_, fun whole b out => ?_, ?_, fun d out => ?_⟩
  · rw [State.complete_part]; exact running
  · rw [State.complete_part]; exact frozen
  · rw [State.complete_part]; exact stopped
  · rw [State.complete_hb]
    exact hb whole b out
  · rw [State.complete_part]; exact status
  · rw [State.complete_core]
    exact core d out
end

/-- Settles O48: each command's own check passes, so its effect on the state that begins it shows in the state that completes it; for
PART_RESET and STOP what revoking, clearing and rolling back leave of a partition (`State.PartsLast`, `State.Sweeps`) carries it there. -/
theorem partitionCommandsComplete : Obligations.PartitionCommandsComplete := by
  unfold Obligations.PartitionCommandsComplete
  refine ⟨?create, ?change, ?destroy, ?reset, ?job, ?fault, ?lease, ?stop, ?freeze, ?thaw⟩
  case create =>
    intro f n s q h allowed fresh ok
    exact ⟨_, partCreate_stages h allowed fresh ok, State.staged_completes ..⟩
  case change =>
    intro f n s q h own ok
    exact ⟨_, partChange_stages h own ok, State.staged_completes ..⟩
  case destroy => exact fun f n s q h idle => partDestroy_removes h idle
  case reset => exact fun f n s q h => partReset_resets h
  case job =>
    intro f n s q h
    exact ⟨_, jobStatus_answers h, State.complete_completed .., State.answered_frame ..⟩
  case fault =>
    intro f n s q h
    exact ⟨_, faultQuery_answers h, State.complete_completed .., State.answered_frame ..⟩
  case lease =>
    intro f n s q h
    dsimp only
    refine ⟨fun held => ?_, fun expired reserved free => leaseBreak_moves h expired reserved free⟩
    obtain ⟨d, run⟩ := leaseBreak_held h held
    exact ⟨_, run, State.complete_completed .., State.complete_parts ..⟩
  case stop => exact fun f n s q h admitted settled => stop_stops h admitted settled
  case freeze =>
    intro f n s q im h image thawed unarmed unasked anywhere ahead
    exact ⟨_, freeze_arms h image thawed unarmed unasked anywhere ahead, freeze_waits h _⟩
  case thaw => exact fun f n c s q im h image ok => thaw_thaws h image ok

end Sys2Proof.Machine
end
